-- ==== Sys2Proof/Word.lean ====
section
/-!
DEFINITION. The bit-vector types of the Z-780 (R4): bytes, 32-bit words, 64-bit words.
-/

namespace Sys2Proof

/-- An 8-bit byte; multi-byte data are little-endian (R4). -/
abbrev Byte := BitVec 8

/-- A 32-bit word: a v or s register of one lane, an instruction word, a state register (R46, R51). -/
abbrev Word := BitVec 32

/-- A 64-bit word: an a register of one lane, a global virtual address, a 64-bit state register (R51, R108). -/
abbrev DWord := BitVec 64

/-- A 7-bit register field of an instruction word (R51). -/
abbrev RegField := BitVec 7

end Sys2Proof
end

