-- ==== Sys2Proof/Syntax.lean ====
section
/-!
DEFINITION. The steps of the Z-780: one constructor of `Instr` per row of spec/opcode_table.json. The first 242 are the
instruction words of the opcode map (R55), with exactly the operand fields of their encoding; the others are the
commands the host sends and the events the part itself takes (95_what_each_step_holds.md), whose operands name what
they act on.
-/

namespace Sys2Proof

/-- The name of a context in a driver command: its number in its partition (R89), and the generation of it that the command is
for (R91). -/
structure CtxName where
  ctxid : Nat
  gen   : Nat
  deriving DecidableEq, Repr

/-- One step of the part. A word constructor holds the operand fields of its format (R48), named by the letters of
the opcode table; an event constructor holds the keys and records the host or the part gives. `fn` is the requesting
PCI Express function, 0 for the physical function and 1 + s for virtual function s (R409); `part` and `ctxid` name a
context (R89), and a driver command's `who` its number and generation (R91); `uid` a group of the machine, `tid` a team of it. -/
inductive Instr where
  /-- NOP (R110): No effect. -/
  | nop
  /-- TRAP (R110): Raises SOFT with the code in TRAPVA if any lane runs. -/
  | trap (i : BitVec 8)
  /-- TRET (R110): Leaves the trap handler, clearing INH and resuming at TRAPPC. -/
  | tret
  /-- RDS (R110): Reads a state register into the destination of each running lane. -/
  | rds (d : RegField) (i : BitVec 8)
  /-- WRS (R110): Writes the lowest running lane's value to a state register under its write rule. -/
  | wrs (a : RegField) (i : BitVec 8)
  /-- RDCLK (R110): Reads the a-clk count into the destination. -/
  | rdclk (d : RegField)
  /-- BKPT (R110): Raises BKPT with the code in TRAPVA if any lane runs. -/
  | bkpt (i : BitVec 8)
  /-- IF (R168): Switches off running lanes whose predicate is clear, and jumps to its partner if none run. -/
  | ifc (p : BitVec 3) (o : BitVec 18)
  /-- ELSE (R168): Swaps the lanes of the two paths of its IF. -/
  | elsec (o : BitVec 18)
  /-- ENDIF (R168): Decrements every non-zero nesting counter. -/
  | endifc
  /-- LOOP (R168): Opens a structured loop, or skips it when no lane runs. -/
  | loopc (o : BitVec 18)
  /-- BREAK (R168): Sets the counter of running lanes with the predicate set to D + 2. -/
  | breakc (p : BitVec 3) (d : BitVec 8)
  /-- CONT (R168): Sets the counter of running lanes with the predicate set to D + 1. -/
  | contc (p : BitVec 3) (d : BitVec 8)
  /-- ENDL (R168): Closes a loop iteration, looping back while any lane runs or leaving the loop otherwise. -/
  | endl (o : BitVec 18)
  /-- JMP (R170): Jumps for the whole team, always or when the predicate holds in every running lane. -/
  | jmp (p : BitVec 3) (o : BitVec 18)
  /-- CALL (R170): Pushes a return record and continues at the target. -/
  | callc (o : BitVec 18)
  /-- RET (R170): Pops a return record and continues at its address, or raises OVERLAY. -/
  | retc
  /-- EXIT (R171): Marks running lanes with the predicate set as exited. -/
  | exitc (p : BitVec 3)
  /-- YIELD (R171): Makes the team not ready for the next a-clk. -/
  | yield
  /-- HLOOP (R176): Opens a hardware loop level with an immediate count. -/
  | hloop (c : BitVec 10) (l : BitVec 8)
  /-- HLOOPS (R176): Opens a hardware loop level with a count from an s register. -/
  | hloops (a : BitVec 5) (l : BitVec 8)
  /-- HBRK (R176): Closes the innermost hardware loop level when its predicate holds. -/
  | hbrk (p : BitVec 3)
  /-- IADD (R194): 32-bit add with overflow flag. -/
  | iadd (d a b : RegField)
  /-- ISUB (R194): 32-bit subtract with overflow flag. -/
  | isub (d a b : RegField)
  /-- IMUL (R194): Low 32 bits of the product, with overflow flag. -/
  | imul (d a b : RegField)
  /-- IMULH (R193): High 32 bits of the signed product. -/
  | imulh (d a b : RegField)
  /-- IMULHN (R193): High 32 bits of the unsigned product. -/
  | imulhn (d a b : RegField)
  /-- IMIN (R193): Signed minimum. -/
  | imin (d a b : RegField)
  /-- IMAX (R193): Signed maximum. -/
  | imax (d a b : RegField)
  /-- NMIN (R193): Unsigned minimum. -/
  | nmin (d a b : RegField)
  /-- NMAX (R193): Unsigned maximum. -/
  | nmax (d a b : RegField)
  /-- AND (R193): Bitwise AND. -/
  | iand (d a b : RegField)
  /-- OR (R193): Bitwise OR. -/
  | ior (d a b : RegField)
  /-- XOR (R193): Bitwise XOR. -/
  | ixor (d a b : RegField)
  /-- ANDN (R193): A AND NOT B. -/
  | andn (d a b : RegField)
  /-- SHL (R194): Logical left shift. -/
  | shl (d a b : RegField)
  /-- SHR (R194): Logical right shift. -/
  | shr (d a b : RegField)
  /-- SAR (R194): Arithmetic right shift. -/
  | sar (d a b : RegField)
  /-- IABS (R196): Absolute value with overflow flag. -/
  | iabs (d a : RegField)
  /-- INEG (R196): Negation with overflow flag. -/
  | ineg (d a : RegField)
  /-- NOT (R196): Bitwise NOT. -/
  | inot (d a : RegField)
  /-- POPC (R196): Population count. -/
  | popc (d a : RegField)
  /-- CLZ (R196): Count of leading zeros. -/
  | clz (d a : RegField)
  /-- BREV (R196): Bit reversal. -/
  | brev (d a : RegField)
  /-- BFE (R196): Bit-field extract. -/
  | bfe (d a b : RegField)
  /-- BFI (R196): Bit-field insert. -/
  | bfi (d a b : RegField)
  /-- ISEL (R196): Selects A where the predicate is set, else keeps D. -/
  | isel (d a p : RegField)
  /-- ICMP (R196): Integer compare into a predicate. -/
  | icmp (c : BitVec 4) (p : BitVec 3) (a b : RegField)
  /-- MOV (R196): Register copy. -/
  | movc (d a : RegField)
  /-- IMAD (R196): Multiply-add into D with overflow flag. -/
  | imad (d a b : RegField)
  /-- IADDI (R197): Add of a signed immediate. -/
  | iaddi (d a : RegField) (i : BitVec 8)
  /-- ANDI (R197): AND with a signed immediate. -/
  | andi (d a : RegField) (i : BitVec 8)
  /-- ORI (R197): OR with a signed immediate. -/
  | ori (d a : RegField) (i : BitVec 8)
  /-- XORI (R197): XOR with a signed immediate. -/
  | xori (d a : RegField) (i : BitVec 8)
  /-- SHLI (R197): Left shift by an immediate. -/
  | shli (d a : RegField) (i : BitVec 8)
  /-- SHRI (R197): Logical right shift by an immediate. -/
  | shri (d a : RegField) (i : BitVec 8)
  /-- SARI (R197): Arithmetic right shift by an immediate. -/
  | sari (d a : RegField) (i : BitVec 8)
  /-- ICMPI (R197): Compare with an immediate into a predicate. -/
  | icmpi (c : BitVec 4) (p : BitVec 3) (a : RegField) (i : BitVec 8)
  /-- MOVI (R198): Writes a sign-extended immediate. -/
  | movi (d : RegField) (i : BitVec 18)
  /-- AADD (R199): 64-bit address add. -/
  | aadd (d a b : RegField)
  /-- ASUB (R199): 64-bit address subtract. -/
  | asub (d a b : RegField)
  /-- AMOV (R199): Joins two s registers into a 64-bit value. -/
  | amov (d a b : RegField)
  /-- ACVT (R199): Sign- or zero-extends part of an a register. -/
  | acvt (d a k : RegField)
  /-- ACMP (R199): 64-bit compare into a predicate. -/
  | acmp (c : BitVec 4) (p : BitVec 3) (a b : RegField)
  /-- SLICE (R325): Reports the home slice of an address, or queue counts for it. -/
  | slice (d a k : RegField)
  /-- ASHLADD (R199): Adds B shifted left by 1 to 7 to A. -/
  | ashladd (d a b : RegField) (h : BitVec 3)
  /-- FADD (R201): FP32 add, rounded once. -/
  | fadd (d a b : RegField)
  /-- FSUB (R201): FP32 subtract, rounded once. -/
  | fsub (d a b : RegField)
  /-- FMUL (R201): FP32 multiply, rounded once. -/
  | fmul (d a b : RegField)
  /-- FFMA (R201): Fused multiply-add with one rounding. -/
  | ffma (d a b : RegField)
  /-- FMIN (R202): IEEE minimum returning one operand. -/
  | fmin (d a b : RegField)
  /-- FMAX (R202): IEEE maximum returning one operand. -/
  | fmax (d a b : RegField)
  /-- FMINT (R202): Minimum by total-order key. -/
  | fmint (d a b : RegField)
  /-- FMAXT (R202): Maximum by total-order key. -/
  | fmaxt (d a b : RegField)
  /-- FABS (R202): Clears the sign bit. -/
  | fabs (d a : RegField)
  /-- FNEG (R202): Inverts the sign bit. -/
  | fneg (d a : RegField)
  /-- FCMP (R203): Floating-point compare into a predicate. -/
  | fcmp (c : BitVec 4) (p : BitVec 3) (a b : RegField)
  /-- FCLASS (R204): Classifies the operand with one bit set. -/
  | fclass (d a : RegField)
  /-- FSCALE (R201): Multiplies by a power of two, rounded once. -/
  | fscale (d a b : RegField)
  /-- FSEL (R202): Selects A where the predicate is set, else keeps D. -/
  | fsel (d a p : RegField)
  /-- HADD2 (R206): Packed 16-bit add per half. -/
  | hadd2 (d a b : RegField) (f : BitVec 1)
  /-- HSUB2 (R206): Packed 16-bit subtract per half. -/
  | hsub2 (d a b : RegField) (f : BitVec 1)
  /-- HMUL2 (R206): Packed 16-bit multiply per half. -/
  | hmul2 (d a b : RegField) (f : BitVec 1)
  /-- HFMA2 (R206): Packed 16-bit fused multiply-add per half. -/
  | hfma2 (d a b : RegField) (f : BitVec 1)
  /-- HMAX2 (R206): Packed 16-bit maximum per half. -/
  | hmax2 (d a b : RegField) (f : BitVec 1)
  /-- HMIN2 (R206): Packed 16-bit minimum per half. -/
  | hmin2 (d a b : RegField) (f : BitVec 1)
  /-- RCP (R208): Correctly rounded reciprocal. -/
  | rcp (d a : RegField)
  /-- RSQ (R208): Correctly rounded reciprocal square root. -/
  | rsq (d a : RegField)
  /-- SQRT (R208): Correctly rounded square root. -/
  | sqrtc (d a : RegField)
  /-- EXP2 (R208): Correctly rounded 2^x. -/
  | exp2c (d a : RegField)
  /-- LOG2 (R208): Correctly rounded log2 x. -/
  | log2c (d a : RegField)
  /-- SIN (R208): Correctly rounded sine. -/
  | sinc (d a : RegField)
  /-- COS (R208): Correctly rounded cosine. -/
  | cosc (d a : RegField)
  /-- TANH (R208): Correctly rounded tanh. -/
  | tanhc (d a : RegField)
  /-- ERF (R208): Correctly rounded erf. -/
  | erfc (d a : RegField)
  /-- CVT (R211): Converts between formats in the rounding mode. -/
  | cvt (d a : RegField)
  /-- CVTSR (R212): Converts with stochastic rounding using a supplied draw. -/
  | cvtsr (d a b : RegField)
  /-- QUANT (R213): Block-quantises across lanes with E8M0 codes. -/
  | quant (d a b : RegField)
  /-- DEQ (R214): Dequantises an element and its code to FP32. -/
  | deq (d a b : RegField)
  /-- PACK (R215): Packs two low halves into one register. -/
  | pack (d a b : RegField)
  /-- UNPACK (R215): Extracts a half or byte. -/
  | unpack (d a k : RegField)
  /-- CBLD (R217): Loads a codebook from lanes 0 to 15. -/
  | cbld (i a : RegField)
  /-- TOKEY (R216): Writes the total-order key of a value. -/
  | tokey (d a : RegField)
  /-- QXCH (R186): Exchanges values within a quad. -/
  | qxch (d a m : RegField)
  /-- QBC (R186): Broadcasts one lane of each quad. -/
  | qbc (d a k : RegField)
  /-- SHFL (R186): Reads the lane named by an index register. -/
  | shfl (d a b : RegField)
  /-- SHFL_DN (R186): Reads the lane OFS above within the span. -/
  | shflDn (d a : RegField) (o : BitVec 5)
  /-- SHFL_UP (R186): Reads the lane OFS below within the span. -/
  | shflUp (d a : RegField) (o : BitVec 5)
  /-- SHFL_XOR (R186): Reads the lane XOR OFS within the span. -/
  | shflXor (d a : RegField) (o : BitVec 5)
  /-- SRED (R186): Tree reduction over a span's running lanes. -/
  | sred (d a : RegField) (o : BitVec 3)
  /-- SSCAN (R186): Ordered inclusive or exclusive scan within a span. -/
  | sscan (d a : RegField) (x : BitVec 1) (o : BitVec 3)
  /-- VOTE (R186): Ballot of a predicate over member lanes of the span. -/
  | vote (d p b : RegField)
  /-- TRED (R186): Team-wide tree reduction of span results. -/
  | tred (d a : RegField) (o : BitVec 3)
  /-- TBC (R186): Broadcasts one lane to the team. -/
  | tbc (d a b : RegField)
  /-- MATCH (R186): Mask of member lanes holding an equal value. -/
  | matchx (d a b : RegField)
  /-- LD (R144): Ordinary global load per lane. -/
  | ld (d a : RegField) (o : BitVec 4) (z : BitVec 3) (x : BitVec 1)
  /-- LD_ACQ (R144): Acquire global load. -/
  | ldAcq (d a : RegField) (o : BitVec 4) (z : BitVec 3) (x : BitVec 1)
  /-- LD_POLL (R145): Polling acquire load that holds while the value is unchanged. -/
  | ldPoll (d a : RegField) (o : BitVec 4) (z : BitVec 1)
  /-- PREF (R146): Prefetch hint of a line into L2 and L1. -/
  | pref (a : RegField) (o : BitVec 4)
  /-- LDQ (R240): Loads each lane's element into a reserved queue entry. -/
  | ldq (q : BitVec 4) (a : RegField) (o : BitVec 4) (z : BitVec 3)
  /-- LDQG (R240): Queue load that writes zero for null addresses. -/
  | ldqg (q : BitVec 4) (a : RegField) (o : BitVec 4) (z : BitVec 3)
  /-- ST (R147): Ordinary global store per lane. -/
  | st (d a : RegField) (o : BitVec 4) (z : BitVec 3)
  /-- ST_REL (R147): Release store. -/
  | stRel (d a : RegField) (o : BitVec 4) (z : BitVec 3)
  /-- STQ (R241): Pops the head queue entry and stores its positions. -/
  | stq (q : BitVec 4) (a : RegField) (o : BitVec 4) (z : BitVec 3)
  /-- TLD (R153): Loads a tile element by row-major index. -/
  | tld (d a : RegField) (t : BitVec 4)
  /-- TST (R154): Stores a tile element by row-major index. -/
  | tst (d a : RegField) (t : BitVec 4)
  /-- TLDR (R153): Loads a tile element by row and column. -/
  | tldr (d a : RegField) (t : BitVec 4)
  /-- TSTR (R154): Stores a tile element by row and column. -/
  | tstr (d a : RegField) (t : BitVec 4)
  /-- TBIND (R155): Binds a tile handle to a header offset. -/
  | tbind (a : RegField) (t : BitVec 4)
  /-- ATOM_ADD (R149): Atomic add returning the old value. -/
  | atomAdd (d a : RegField) (o : BitVec 2) (z : BitVec 3)
  /-- ATOM_MIN_I (R149): Atomic signed minimum. -/
  | atomMinI (d a : RegField) (o : BitVec 2) (z : BitVec 3)
  /-- ATOM_MAX_I (R149): Atomic signed maximum. -/
  | atomMaxI (d a : RegField) (o : BitVec 2) (z : BitVec 3)
  /-- ATOM_MIN_N (R149): Atomic unsigned minimum. -/
  | atomMinN (d a : RegField) (o : BitVec 2) (z : BitVec 3)
  /-- ATOM_MAX_N (R149): Atomic unsigned maximum. -/
  | atomMaxN (d a : RegField) (o : BitVec 2) (z : BitVec 3)
  /-- ATOM_AND (R149): Atomic AND. -/
  | atomAnd (d a : RegField) (o : BitVec 2) (z : BitVec 3)
  /-- ATOM_OR (R149): Atomic OR. -/
  | atomOr (d a : RegField) (o : BitVec 2) (z : BitVec 3)
  /-- ATOM_XOR (R149): Atomic XOR. -/
  | atomXor (d a : RegField) (o : BitVec 2) (z : BitVec 3)
  /-- ATOM_SWAP (R149): Atomic swap. -/
  | atomSwap (d a : RegField) (o : BitVec 2) (z : BitVec 3)
  /-- CAS (R149): Atomic compare-and-swap of 32, 64 or 128 bits. -/
  | cas (d a : RegField) (o : BitVec 2) (z : BitVec 3)
  /-- ATOM_FADD (R149): Atomic FP32 add. -/
  | atomFadd (d a : RegField) (o : BitVec 2)
  /-- RED_ADD (R149): Atomic add reduction returning nothing. -/
  | redAdd (d a : RegField) (o : BitVec 2) (z : BitVec 3)
  /-- RED_MIN_I (R149): Signed minimum reduction. -/
  | redMinI (d a : RegField) (o : BitVec 2) (z : BitVec 3)
  /-- RED_MAX_I (R149): Signed maximum reduction. -/
  | redMaxI (d a : RegField) (o : BitVec 2) (z : BitVec 3)
  /-- RED_MIN_N (R149): Unsigned minimum reduction. -/
  | redMinN (d a : RegField) (o : BitVec 2) (z : BitVec 3)
  /-- RED_MAX_N (R149): Unsigned maximum reduction. -/
  | redMaxN (d a : RegField) (o : BitVec 2) (z : BitVec 3)
  /-- RED_AND (R149): AND reduction. -/
  | redAnd (d a : RegField) (o : BitVec 2) (z : BitVec 3)
  /-- RED_OR (R149): OR reduction. -/
  | redOr (d a : RegField) (o : BitVec 2) (z : BitVec 3)
  /-- RED_XOR (R149): XOR reduction. -/
  | redXor (d a : RegField) (o : BitVec 2) (z : BitVec 3)
  /-- RED_FADD (R149): FP32 add reduction. -/
  | redFadd (d a : RegField) (o : BitVec 2)
  /-- ATOMT_ADD (R157): Tile atomic add on INT32. -/
  | atomtAdd (d a : RegField) (t : BitVec 4)
  /-- ATOMT_MIN_I (R157): Tile atomic signed minimum. -/
  | atomtMinI (d a : RegField) (t : BitVec 4)
  /-- ATOMT_MAX_I (R157): Tile atomic signed maximum. -/
  | atomtMaxI (d a : RegField) (t : BitVec 4)
  /-- ATOMT_MIN_N (R157): Tile atomic unsigned minimum. -/
  | atomtMinN (d a : RegField) (t : BitVec 4)
  /-- ATOMT_MAX_N (R157): Tile atomic unsigned maximum. -/
  | atomtMaxN (d a : RegField) (t : BitVec 4)
  /-- ATOMT_AND (R157): Tile atomic AND. -/
  | atomtAnd (d a : RegField) (t : BitVec 4)
  /-- ATOMT_OR (R157): Tile atomic OR. -/
  | atomtOr (d a : RegField) (t : BitVec 4)
  /-- ATOMT_XOR (R157): Tile atomic XOR. -/
  | atomtXor (d a : RegField) (t : BitVec 4)
  /-- ATOMT_SWAP (R157): Tile atomic swap. -/
  | atomtSwap (d a : RegField) (t : BitVec 4)
  /-- ATOMT_FADD (R157): Tile atomic FP32 add. -/
  | atomtFadd (d a : RegField) (t : BitVec 4)
  /-- ATOMT_MAXPK (R157): Tile atomic unsigned 64-bit maximum over a slot. -/
  | atomtMaxpk (d a : RegField) (t : BitVec 4)
  /-- CAST (R157): Tile atomic compare-and-swap. -/
  | castt (d a : RegField) (t : BitVec 4)
  /-- FENCE_L (R259): Light fence that orders only the team's own accesses. -/
  | fenceL
  /-- FENCE_H (R260): Heavy fence that drains store buffers of every core of the partition. -/
  | fenceH
  /-- FENCE_E (R262): Makes the team's earlier stores visible to engines. -/
  | fenceE
  /-- ACQ (R267): Acquire fence. -/
  | acqc
  /-- REL (R267): Release fence. -/
  | relc
  /-- BAR (R272): Arrives at the group barrier and holds until the phase completes. -/
  | bar
  /-- BAR_E (R269): Barrier arrival that makes stores visible to engines at completion. -/
  | barE
  /-- BAR_CARVE (R272): Barrier arrival requesting a new scratchpad size, returning status. -/
  | barCarve (d a : RegField)
  /-- BOINIT (R275): Sets a barrier object's expected count and clears its arrivals. -/
  | boinit (d a : RegField) (b : BitVec 8)
  /-- BOEXP (R275): Adds to a barrier object's expected count. -/
  | boexp (d a : RegField) (b : BitVec 8)
  /-- BOARR (R275): Adds arrived bytes to a barrier object. -/
  | boarr (d a : RegField) (b : BitVec 8)
  /-- BOWAIT (R275): Holds until a barrier object phase completes, as an acquire. -/
  | bowait (a : RegField) (b : BitVec 8)
  /-- BOTEST (R275): Reports whether a barrier object phase is complete. -/
  | botest (d a : RegField) (b : BitVec 8)
  /-- QPUSH (R233): Pushes a DATA entry into a queue. -/
  | qpush (d : RegField) (q : BitVec 4) (i : BitVec 8)
  /-- QPOP (R234): Pops the head entry, waiting for one to be visible. -/
  | qpop (d : RegField) (q : BitVec 4) (i : BitVec 8)
  /-- QTRY (R234): Pops the head entry if one is visible, reporting EMPTY otherwise. -/
  | qtry (d : RegField) (q : BitVec 4) (i : BitVec 8)
  /-- QPEEK (R234): Reads the head entry without removing it. -/
  | qpeek (d : RegField) (q : BitVec 4) (i : BitVec 8)
  /-- QMARK_SEG (R233): Pushes a SEG entry with a 16-bit payload. -/
  | qmarkSeg (d : RegField) (q : BitVec 4) (i : BitVec 8)
  /-- QMARK_EOS (R233): Pushes an EOS entry and ends the queue. -/
  | qmarkEos (q : BitVec 4) (i : BitVec 8)
  /-- QCLOSE (R243): Closes a queue, cancelling its loads and removing every entry. -/
  | qclose (q : BitVec 4)
  /-- QFLUSH (R236): Removes visible entries from the head and reports their number. -/
  | qflush (d : RegField) (q : BitVec 4)
  /-- QSTAT (R237): Reports a queue's state word or counts. -/
  | qstat (d : RegField) (q : BitVec 4) (k : BitVec 8)
  /-- CPY (R278): Issues one copy command per running lane. -/
  | cpy (a b : RegField)
  /-- CPYM (R280): Issues multicast copies into several groups' scratchpads. -/
  | cpym (d a b : RegField)
  /-- CPYS (R282): Issues shaped copies described by shape records. -/
  | cpys (a b : RegField)
  /-- CBATCH (R283): Closes the open copy batch and returns its number. -/
  | cbatch (d : RegField)
  /-- CWAIT (R283): Waits for a copy batch and returns its status. -/
  | cwait (d a : RegField)
  /-- HDEF (R326): Fills a fetch descriptor from a record. -/
  | hdef (d a b : RegField)
  /-- FETCH (R327): Fetches consecutive rows into a tile. -/
  | fetch (t a b : RegField)
  /-- FETCHX (R327): Fetches one indexed row per lane into a tile. -/
  | fetchx (t a b : RegField)
  /-- FINV (R328): Invalidates a descriptor's fetch cache lines and returns the fetch status. -/
  | finv (d b : RegField)
  /-- MTASK (R373): Checks a job card and queues it for the task scheduler. -/
  | mtask (d a : RegField)
  /-- MWAIT (R374): Waits for a task to complete and returns TSTAT. -/
  | mwait (d a : RegField)
  /-- MSTAT (R375): Reports counts, TSTAT or a task's state. -/
  | mstat (d a k : RegField)
  /-- MCANCEL (R376): Cancels a queued task. -/
  | mcancel (d a : RegField)
  /-- WSTORE (R342): Writes the Haar transform of a tile, with thresholding. -/
  | wstore (d a : RegField) (l : BitVec 3)
  /-- WREC (R343): Reconstructs a tile to SPATIAL. -/
  | wrec (d a : RegField)
  /-- WTAG (R345): Rebuilds the SURV fields of a tile from its bitmaps. -/
  | wtag (d a : RegField)
  /-- WTH (R344): Re-thresholds a Haar tile. -/
  | wth (d a : RegField)
  /-- TVADD (R348): Adds two tiles element by element. -/
  | tvadd (d a b : RegField)
  /-- TVSUB (R348): Subtracts two tiles. -/
  | tvsub (d a b : RegField)
  /-- TVMULC (R348): Multiplies a tile by a scalar. -/
  | tvmulc (d a b : RegField)
  /-- TVAXPY (R348): Adds a scaled tile to the destination. -/
  | tvaxpy (d a b : RegField)
  /-- TVBIAS (R348): Adds a bias row to a tile. -/
  | tvbias (d a b : RegField)
  /-- TVACT (R349): Applies an activation function. -/
  | tvact (d a : RegField) (k : BitVec 3)
  /-- TVNORM (R350): Layer-normalises each row. -/
  | tvnorm (d a b : RegField)
  /-- TVNORM_RMS (R350): RMS-normalises each row. -/
  | tvnormRms (d a b : RegField)
  /-- TVSMAX (R351): Base-2 softmax of each row. -/
  | tvsmax (d a b : RegField)
  /-- TVCVT (R347): Converts a tile under the destination scale. -/
  | tvcvt (d a : RegField)
  /-- TREG (R380): Registers a tile in the key directory. -/
  | treg (d a t : RegField)
  /-- TDEREG (R380): Removes a tile's directory entry, waiting while it is held. -/
  | tdereg (d t : RegField)
  /-- TMOVE (R381): Moves a tile and its entry to another group. -/
  | tmove (d b t : RegField)
  /-- SOLICIT (R383): Starts a census from a solicit record. -/
  | solicit (d a : RegField)
  /-- RESPOND (R394): Contributes a responder's payload to its census. -/
  | respond (a : RegField)
  /-- CENSUS (R395): Waits for, reports or frees a census slot. -/
  | census (d a k : RegField)
  /-- CRES (R395): Reads a census result word or count. -/
  | cres (d a k : RegField)
  /-- SLOTGET (R398): Finds or allocates a slot for an expert. -/
  | slotget (d a : RegField)
  /-- SLOTREF (R407): Reads, references, marks ready or frees a slot. -/
  | slotref (d a k : RegField)
  /-- SLOTREL (R407): Releases one reference of a slot. -/
  | slotrel (d a : RegField)
  /-- RTSTAGE (R403): Reads a replica table from memory and stages it. -/
  | rtstage (d a b : RegField)
  /-- RTLOOK (R404): Looks up an expert's destination in the active table. -/
  | rtlook (d a b : RegField)
  /-- RTLOOK_ADM (R404): Decides whether to process, reroute or hold a received record. -/
  | rtlookAdm (d a : RegField)
  /-- GREC (R128): Appends one record per lane to a QUEUE node's ring. -/
  | grec (d a b : RegField)
  /-- GCOND (R129): Updates the graph's condition word atomically. -/
  | gcond (a b : RegField)
  /-- GDONE (R130): Frees the ring slots of the group's records. -/
  | gdone
  /-- GFLUSH (R131): Launches a QUEUE node's pending records and reports status. -/
  | gflush (d b : RegField)
  /-- RREAD (R419): Reads remote memory into a reserved queue entry. -/
  | rread (q : BitVec 4) (a : RegField) (o : BitVec 4) (z : BitVec 3)
  /-- RWRITE (R419): Writes each lane's value to remote memory. -/
  | rwrite (d a : RegField) (o : BitVec 4) (z : BitVec 2)
  /-- RATOM_ADD (R419): Remote atomic add returning the old value. -/
  | ratomAdd (d a : RegField) (z : BitVec 1)
  /-- RATOM_CAS (R419): Remote 64-bit compare-and-swap. -/
  | ratomCas (d a : RegField)
  /-- RFENCE (R419): Waits for earlier remote writes and atomics and returns the remote status. -/
  | rfence (d : RegField)
  /-- OVLOAD (R127): Starts loading an overlay into a slot and reports status. -/
  | ovload (d : RegField) (i : BitVec 8)
  /-- OVWAIT (R127): Waits while an overlay loads and reports whether it is resident. -/
  | ovwait (d : RegField) (i : BitVec 8)
  /-- FCALL (R127): Calls an entry-table item in a resident overlay. -/
  | fcall (e : BitVec 8)
  /-- SPUSH (R182): Pushes a register of every lane onto the stack. -/
  | spush (a : RegField)
  /-- SPOP (R182): Pops a register of every lane from the stack. -/
  | spop (d : RegField)
  /-- SALLOC (R182): Allocates zeroed or frees 16-byte stack units. -/
  | salloc (n : BitVec 8)
  /-- HINT_IMM (R63): Widens the immediate or offset field of the next instruction. -/
  | hintImm (e : BitVec 22)
  /-- HINT_STALL (R64): Sets minimum issue gaps for the next five non-HINT instructions. -/
  | hintStall (e d c b a : BitVec 4)
  /-- HINT_MOD (R65): Sets rounding mode, cache policy or reconstruction for the next instruction. -/
  | hintMod (r c : BitVec 3) (x : BitVec 1)
  /-- HINT_FMT (R67): Supplies a format record to the next instruction. -/
  | hintFmt (a b d : BitVec 4) (s k : BitVec 1) (x : BitVec 2)
  /-- CREATE_CONTEXT (R89): The driver hands the management core a 64-byte context descriptor; the context is
  created in IDLE with its GEN set, or the descriptor is refused with INVALID. -/
  | createContext (fn : Nat) (desc : List Byte)
  /-- DESTROY (R93): A driver DESTROY command moves a context to KILLED, discards its in-flight work, frees its
  tagged objects and invalidates its lines and TLB entries. -/
  | destroy (fn part : Nat) (who : CtxName)
  /-- PREEMPT (R93): A driver PREEMPT command moves a RUNNING context to PREEMPTING and starts the quiesce of R96. -/
  | preempt (fn part : Nat) (who : CtxName)
  /-- KERNEL_LAUNCH (R113): A 128-byte launch record of KIND 1 is submitted to a context and queued for the
  distributor, or refused with INVALID or DEAD. -/
  | kernelLaunch (fn part : Nat) (who : CtxName) (record : List Byte)
  /-- GRAPH_LAUNCH (R119): A launch record of KIND 2 makes the graph walker read and check the graph at GRAPHVA,
  refusing it with INVALID or starting it. -/
  | graphLaunch (fn part : Nat) (who : CtxName) (record : List Byte)
  /-- IMAGE_LOAD (R77): The Finio loader checks, translates and places an image in order, returning a load status
  and writing a translation record on success. -/
  | imageLoad (fn part : Nat) (who : CtxName) (image : List Byte)
  /-- KEY_INSTALL (R76): The driver installs one of up to eight public signing keys of a partition through the
  management core. -/
  | keyInstall (fn part idx : Nat) (key : List Byte)
  /-- GROUP_TABLE_WRITE (R312): The driver writes a group table entry, which is refused outside the partition's
  columns or otherwise takes effect as a shootdown of the affected lines. -/
  | groupTableWrite (fn part idx group : Nat)
  /-- SHOOTDOWN (R308): A shootdown command removes TLB entries, writes back and invalidates lines and overlay tags
  in its scope, waits for old-translation accesses and posts a completion record. -/
  | shootdown (fn part scope asid va len : Nat)
  /-- ANSWER_RECORD (R301): The host's answer record and doorbell answer a page request with SUCCESS or FAIL, or
  the answer is discarded and counted in STALEANS. -/
  | answerRecord (fn : Nat) (record : List Byte)
  /-- PAGE_ENGINE_REGISTER (R304): The driver registers with the page engine the ageable ranges of a context, the
  free frames, the LOW and HIGH watermarks and the ageing period. -/
  | pageEngineRegister (fn part : Nat) (who : CtxName) (ranges : List (Nat × Nat)) (frames : List Nat) (low high period : Nat)
  /-- CLEARFAIL (R425): The driver command CLEARFAIL sets the failed-start counter to 0, so that the next full
  device reset leaves Hamada mode. -/
  | clearfail (fn : Nat)
  /-- TEST_MODE (R427): A PF command puts a partition that holds no context into test mode, in which matrix drains
  to global memory are allowed. -/
  | testMode (fn part : Nat)
  /-- PARTITION_RESET (R432): A partition reset kills every context of the partition with KIND 3 event records and
  invalidates its caches, directories and tables within 2 s. -/
  | partitionReset (fn part : Nat)
  /-- FULL_DEVICE_RESET (R421): A full device reset discards HBM contents and runs the start sequence from reset
  release. -/
  | fullDeviceReset (fn : Nat)
  /-- RESET_RELEASE (R421): After reset release the part runs the start steps in order, from boot ROM to READY, and
  records the reason in BOOTSTAT if a step fails. -/
  | resetRelease (firmware mgmt : List Byte) (badStacks badClusters : List Nat)
  /-- START_TIMEOUT (R421): A start that has not reached READY within 30 s of reset release fails with reason 0x06. -/
  | startTimeout
  /-- FIRMWARE_UPLOAD (R426): In RECOVERY, a first-stage image uploaded to the mailbox that passes the step-2
  checks is written to flash, and the part resets itself. -/
  | firmwareUpload (firmware : List Byte)
  /-- ANTI_ROLLBACK_BLOW (R422): On a signed PF command with a higher version, first-stage firmware blows one more
  bit of the anti-rollback count. -/
  | antiRollbackBlow (fn : Nat) (command : List Byte)
  /-- POWER_CAP (R433): The PF sets a module power cap, which the part enforces within 1 ms by withholding issue
  a-clk. -/
  | powerCap (fn watts : Nat)
  /-- REPLAN_COMMAND (R428): A PF command makes the Hairspring monitor re-plan voltages, or is merged into a
  re-plan in progress. -/
  | replanCommand (fn : Nat)
  /-- REPLAN_PERIOD (R428): Every 24 hours the Hairspring monitor re-plans each domain's voltage and writes one
  margin record per domain. -/
  | replanPeriod
  /-- PORT_ENABLE (R416): The driver enables an Ethernet port, which moves from DOWN to TRAINING. -/
  | portEnable (fn port : Nat)
  /-- PORT_DISABLE (R416): The driver disables a port, which goes DOWN and fails every outstanding operation. -/
  | portDisable (fn port : Nat)
  /-- PORT_TRAINED (R416): Link and transport come up, and the port moves from TRAINING to UP. -/
  | portTrained (port : Nat)
  /-- LINK_LOSS (R416): Link loss or transport failure past RTO takes a port DOWN, fails its outstanding operations
  and raises an MSI-X event. -/
  | linkLoss (port : Nat)
  /-- PEER_TABLE_WRITE (R413): The PF driver writes an entry of a context's 256-entry peer table. -/
  | peerTableWrite (fn part : Nat) (who : CtxName) (idx : Nat) (valid : Bool) (port addr job : Nat)
  /-- JOB_REGISTER (R414): The driver registers a JOB number for incoming remote requests and binds it to a context
  of the port's partition. -/
  | jobRegister (fn part job : Nat) (who : CtxName)
  /-- DROWSY_DISABLE (R318): The partition's driver disables or re-enables drowsy banks in every slice of the
  partition. -/
  | drowsyDisable (fn part : Nat) (disable : Bool)
  /-- REGISTER_WRITE (R8): A driver write to a register without a row of its own, such as MSEL, RTO or an
  error-counter threshold, stores its RW fields and ignores reserved bits. -/
  | registerWrite (fn reg idx value : Nat)
  /-- GET_VERSION (R411): An SPDM GET_VERSION request on a function's DOE mailbox is answered. -/
  | getVersion (fn : Nat)
  /-- GET_CAPABILITIES (R411): An SPDM GET_CAPABILITIES request is answered. -/
  | getCapabilities (fn : Nat)
  /-- NEGOTIATE_ALGORITHMS (R411): An SPDM NEGOTIATE_ALGORITHMS request settles SHA-256 and HSS/LMS. -/
  | negotiateAlgorithms (fn : Nat) (sha256 hssLms : Bool)
  /-- GET_DIGESTS (R411): An SPDM GET_DIGESTS request is answered. -/
  | getDigests (fn : Nat)
  /-- GET_CERTIFICATE (R411): An SPDM GET_CERTIFICATE request is answered. -/
  | getCertificate (fn slot : Nat)
  /-- CHALLENGE (R411): An SPDM CHALLENGE request is answered with a signed response. -/
  | spdmChallenge (fn slot nonce : Nat)
  /-- GET_MEASUREMENTS (R411): An SPDM GET_MEASUREMENTS request returns the measurement blocks, with context blocks
  for the partition selected by MSEL or the VF. -/
  | getMeasurements (fn index : Nat)
  /-- KEY_EXCHANGE (R411): An SPDM KEY_EXCHANGE request starts a secure session. -/
  | keyExchange (fn slot : Nat)
  /-- FINISH (R411): An SPDM FINISH request completes the session set-up. -/
  | spdmFinish (fn : Nat)
  /-- HOST_LINK_DOWN (R410): Loss of the host link or a fatal uncorrectable error puts every context into ERROR
  with cause 0x21, after which the part accepts only a full reset. -/
  | hostLinkDown
  /-- CORRECTABLE_ERROR (R430): A correctable error is corrected in place and counted, and the service vector is
  raised when the counter passes its threshold. -/
  | correctableError (block : Nat)
  /-- UNCORRECTABLE_ERROR (R431): An uncorrectable error is a device fault that puts the affected contexts into
  ERROR, or retires an unmapped frame. -/
  | uncorrectableError (site index : Nat) (saving : Bool)
  /-- SCRUB (R430): Every 24 hours the part scrubs the L2 and the HBM. -/
  | scrub
  /-- THERMAL_THROTTLE (R433): At a junction temperature of 100 deg C the part throttles issue. -/
  | thermalThrottle (on : Bool)
  /-- THERMAL_TRIP (R433): At 115 deg C the part declares a device fault in every partition and holds itself in
  reset. -/
  | thermalTrip
  /-- TRANSLATION_FAULT (R296): A translation fault reported to a core parks the issuing team and places its
  unfinished instructions in the replay set. -/
  | translationFault (uid tid : Nat)
  /-- PAGE_REQUEST (R300): The controller posts a page request record to the function's ring and raises its MSI-X
  vector, once the ring has room. -/
  | pageRequest (part tag : Nat)
  /-- EXPANSION_DONE (R307): The controller finishes expanding a compressed page, rewrites its PTE and replays
  every waiter. -/
  | expansionDone (part tag : Nat)
  /-- AGEING_PERIOD (R305): Once per ageing period the page engine updates A and AGE of every registered 64 KiB
  leaf. -/
  | ageingPeriod (part : Nat)
  /-- COMPRESS_VICTIM (R306): While the free pool is below LOW, the page engine compresses cold victim pages into
  the compressed zone until it reaches HIGH. -/
  | compressVictim (part : Nat)
  /-- VARIABLE_RESULT_RETURN (R164): A variable-latency result returns and writes its register, which can end a
  switch-marker park. -/
  | variableResultReturn (uid tid idx : Nat)
  /-- QUEUE_ENTRY_COMPLETE (R227): The data of an LDQ, LDQG or RREAD arrive and complete its entry, which then
  becomes visible in reservation order. -/
  | queueEntryComplete (uid q entry : Nat)
  /-- POLL_WAKE (R145): A write at the home slice to a polled line ends an LD.POLL hold, and the poll reads again. -/
  | pollWake (uid tid : Nat)
  /-- POLL_TIMEOUT (R145): An LD.POLL hold ends after 2,048 f-clk, and the poll reads again. -/
  | pollTimeout (uid tid : Nat)
  /-- COPY_START (R286): A queued copy takes a free engine channel, reads its shape record if it is a CPYS and is
  validated. -/
  | copyStart (seq : Nat)
  /-- COPY_PIECE (R277): The copy engine writes a piece of up to 128 bytes and counts it into the copy's barrier
  object. -/
  | copyPiece (seq : Nat)
  /-- FETCH_ROW (R324): The fetch unit writes a decoded row into its tile row and counts its bytes into the barrier
  object. -/
  | fetchRow (seq : Nat)
  /-- CARD_START (R363): The task scheduler starts a ready job card on its engine, reads its headers and makes the
  start checks. -/
  | cardStart (uid task : Nat)
  /-- BROADCAST_MATCH (R366): A broadcast LATCH sender meets a receiver's BMODE 2 card and delivers the B tile. -/
  | broadcastMatch (uid task rxUid : Nat)
  /-- PEER_MATCH (R369): A PEER DRAIN is matched to an entry of an ACCEPT, and its contribution is added in entry
  order. -/
  | peerMatch (uid task : Nat)
  /-- CARD_COMPLETE (R361): A card's last write is performed; its status is ORed into TSTAT, its object is
  signalled and its slot is freed. -/
  | cardComplete (uid task : Nat)
  /-- CENSUS_SNAPSHOT (R384): At a-clk S, six a-clk after SOLICIT, every matching directory entry of the scope
  becomes held and cores without matches answer null. -/
  | censusSnapshot (cseq : Nat)
  /-- RESPONDER_START (R385): A responder team starts for a piece of up to 16 matched tiles once its overlay is
  resident and a register area is free. -/
  | responderStart (cseq core : Nat)
  /-- CENSUS_CLOSE (R390): When the root holds a value from every core, the result is written at ROFF and the
  census becomes CLOSED. -/
  | censusClose (cseq : Nat)
  /-- CENSUS_WAIT_EXPIRE (R96): A census still open 100 µs into a pre-emption quiesce is aborted and its responders
  discarded. -/
  | censusWaitExpire (cseq : Nat)
  /-- OVERLAY_LOAD_DONE (R125): An overlay load completes, and the slot becomes resident. -/
  | overlayLoadDone (core slot : Nat)
  /-- PHASE_START (R116): At the start of a phase the selector reads the size word and chooses a schedule variant
  and group count, or raises LAUNCH_SIZE. -/
  | phaseStart (lid : Nat)
  /-- GROUP_PLACE (R117): The distributor places a waiting group on the fitting core with the fewest occupied
  granules and binds its teams. -/
  | groupPlace (lid : Nat)
  /-- GROUP_START (R118): Once its carve-out, tiles, queues and entry overlays are ready, all of a group's teams
  start in one a-clk. -/
  | groupStart (uid : Nat)
  /-- GROUP_RETIRE (R134): A drained group writes back its stores, removes its key entries, releases its queues and
  frees its resources. -/
  | groupRetire (uid : Nat)
  /-- FLUSH_TIMER_EXPIRE (R122): A QUEUE node's flush timer expires and the node launches a phase for its pending
  records. -/
  | flushTimerExpire (part ctxid node : Nat)
  /-- PREEMPTION_DECISION (R95): The distributor pre-empts a lower-priority context to place a launch and starts
  its quiesce. -/
  | preemptionDecision (lid : Nat)
  /-- SAVE_COMPLETE (R96): Once every core of the context is saved, the cores are freed, the context is SAVED and a
  SAVED event record is posted. -/
  | saveComplete (part ctxid : Nat)
  /-- RESUME (R99): The distributor resumes a SAVED context, placing and restoring each group and re-issuing its
  copies and cards. -/
  | resume (part ctxid : Nat)
  /-- WATCHDOG (R104): A launch still running WDOG ms after it started puts its context into ERROR. -/
  | watchdog (lid : Nat)
  /-- QDEADLOCK (R246): A group's queue progress count reaches 2^20, and the group takes QDEADLOCK, putting its
  context into ERROR. -/
  | qdeadlock (uid : Nat)
  /-- REMOTE_READ_REQUEST (R414): An incoming remote read for a registered JOB is served as an ordinary load, or
  refused with NACK. -/
  | remoteReadRequest (port job endpoint va size : Nat)
  /-- REMOTE_WRITE_REQUEST (R414): An incoming remote write is performed at its home slice as a release and
  acknowledged, or refused with NACK. -/
  | remoteWriteRequest (port job endpoint va : Nat) (data : List Byte)
  /-- REMOTE_ATOMIC_REQUEST (R414): An incoming remote atomic runs at its home slice as a relaxed atomic, or is
  refused with NACK. -/
  | remoteAtomicRequest (port job endpoint va op size operand compare : Nat)
  /-- REMOTE_RESPONSE (R417): A response, acknowledgement or NACK of an outstanding remote operation arrives and
  completes it. -/
  | remoteResponse (rseq : Nat) (nack : Bool) (data : DWord)
  /-- REMOTE_TIMEOUT (R417): An operation unacknowledged within RTO of its last send fails. -/
  | remoteTimeout (rseq : Nat)
  /-- BANK_DROWSY (R318): A slice bank with no access for 8,192 f-clk drops to retention voltage. -/
  | bankDrowsy (col row bank : Nat)
  /-- BANK_WAKE (R318): A drowsy bank finishes its 24 f-clk wake, and the accesses waiting on it proceed. -/
  | bankWake (col row bank : Nat)
  /-- HOME_SLICE_ACCEPT (R257): A home slice, or a scratchpad bank, accepts a store, release write-back, atomic or
  other request from a core's store buffer, write queue or miss queue; at that instant a store becomes visible and
  a miss-queue entry falls free. -/
  | homeSliceAccept (uid tid : Nat)
  /-- HOST_MEMORY_REQUEST (R266): A memory read, write or AtomicOp from the host arrives over PCI Express and is
  served by the part as completer. -/
  | hostMemoryRequest (op : Nat) (host : Bool) (pa : Nat) (data : List Byte)
  /-- POWER_LOSS (R424): The module supply is lost, cutting short any start or service while the failed-start
  counter stays powered. -/
  | powerLoss
  /-- SHARED_TABLE_INSTALL (R290): The physical function's driver installs a partition's shared page tables for the
  shared window. -/
  | sharedTableInstall (fn part root : Nat)
  /-- PARTITION_MODE_WRITE (R409): The PF writes the partition mode, which is applied at the next partition
  bring-up. -/
  | partitionModeWrite (fn mode : Nat)
  /-- REPAIR_MAP_WRITE (R409): The PF writes the repair map that binds logical clusters to physical clusters. -/
  | repairMapWrite (fn strip : Nat) (map : List Nat)
  /-- ROLLBACK_FLOOR_RAISE (R77): The driver raises a context's rollback floor for IMGVER. -/
  | rollbackFloorRaise (fn part : Nat) (who : CtxName) (floor : Nat)
  /-- TMOVE_COMPLETE (R381): The copy of a moved tile's header and data ends, and the directory entry is switched
  to the destination core or the copy is repeated. -/
  | tmoveComplete (uid tid : Nat)
  deriving DecidableEq, Repr

end Sys2Proof
end

