-- ==== Sys2Proof/Machine/State.lean ====
section
/-!
DEFINITION. The state of the machine as plain data: the part, its partitions and cores, contexts, launches, groups,
teams and lanes, with the work in flight. Every field cites the rule that names it; a field marked MODEL'S OWN is a
book-keeping field of the model, listed in INVENTORY.md.
-/

namespace Sys2Proof.Machine

/-- A memory as cells in the one canonical form that `Memory.wf` states. -/
abbrev Memory := List Host.Cell

/-! ### Names used by several parts of the state -/

/-- The role of a team (R56). -/
inductive Role where
  | access | matrix | vector
  deriving DecidableEq, Repr

/-- Element formats by their code of R66, and B64, code 0xF of queues alone (R220). -/
inductive Fmt where
  | implied | fp32 | bf16 | fp16 | e5m2 | e4m3 | int8 | int32 | cb4 | e8m0 | b64
  deriving DecidableEq, Repr

/-- Where a team stands: the group's number in the machine and the team's index in it. -/
structure TeamRef where
  uid : Nat
  tid : Nat
  deriving DecidableEq, Repr

/-- A write that a later read need not see yet (R254, R262): its number; the name a team wrote under, which is the ASID tag and
the distance of the virtual address from the physical one (R288); where it wrote, the bytes that stood there before, the team
that made it, whether engines see it (R262), and whether no read may miss it any longer. In a group's history `host` marks a
write of codebook entries. -/
structure PastWrite where
  ver    : Nat
  name   : Option (Nat × Int)
  host   : Bool
  pa     : Nat
  old    : List Byte
  maker  : Option TeamRef
  fenced : Bool
  closed : Bool
  deriving DecidableEq, Repr

/-! ### Lanes and teams -/

/-- One lane (R158): exited flag, nesting counter c, predicates p0 to p6 (bit 7 is p7, which reads true whatever the bit
holds), the v registers and the a registers. A team has either v or a registers, by its role (R51). -/
structure Lane where
  exited : Bool
  cnt    : Nat
  pred   : BitVec 8
  v      : List Word
  a      : List DWord
  deriving DecidableEq, Repr

/-- Demotion state (R172). `none` is the manual's "none". -/
structure Demotion where
  dif    : Option Word
  dk     : Nat
  dpc    : Word
  dend   : Option Word
  dskip  : Option Word
  dksave : Nat
  deriving DecidableEq, Repr

/-- One open hardware loop level: code addresses of the first and last body word (R176). -/
structure HwLoop where
  start : Word
  last  : Word
  deriving DecidableEq, Repr

/-- A HINT word of the prefix that the team has issued and not yet used: its code address and the word (R62). -/
structure PrefixWord where
  pc   : Word
  word : Word
  deriving DecidableEq, Repr

/-- An ordinary load of one lane that may still take a later value of its location (R254): its instruction's number in the
team, the virtual address, the bytes read, whether they are sign-extended, and the number of the next write at its issue. -/
structure LateLoad where
  seq   : Nat
  va    : Nat
  bytes : Nat
  sx    : Bool
  ver   : Nat
  deriving DecidableEq, Repr

/-- A variable-latency result that has not returned (R164, R166): destination field, the value of each lane written,
the ASTAT flags it reports (R29), the instruction whose slice requests it waits for (R313), by its number in the team, and the
load that it comes from, where its value is not settled yet. -/
structure PendWrite where
  dst   : RegField
  vals  : List (Nat × DWord)
  flags : BitVec 6
  req   : Option Nat := none
  late  : Option LateLoad := none
  deriving DecidableEq, Repr

/-- One lane of an unfinished global access: lane, virtual address, operand data (R296). -/
structure LaneAcc where
  lane : Nat
  va   : Nat
  data : BitVec 128
  cmp  : BitVec 128
  deriving DecidableEq, Repr

/-- What an instruction of a replay set does again for its unfinished lanes (R298). -/
inductive ReplayKind where
  | load (dst : RegField) (bytes : Nat) (sx : Bool)
  | atom (op : Nat) (dst : Option RegField) (bytes : Nat)
  | queue (q entry bytes : Nat)
  | store (bytes : Nat)
  | whole
  | rewrite
  | spill
  deriving DecidableEq, Repr

/-- One instruction of the replay set: its code address, what it does, its unfinished lanes, the page requests it waits
on, whether the fault has been reported to the core (R296, R299), and whether it is an acquire, which no later access of
the team passes (R144, R149). `seq` is its number in the team's program order; `low` is the lowest lane that ran at its
issue where it writes an s register, which takes that lane's value alone (R53). -/
structure ReplayItem where
  seq      : Nat
  pc       : Word
  kind     : ReplayKind
  lanes    : List LaneAcc
  reqs     : List Nat
  reported : Bool
  acq      : Bool
  low      : Option Nat
  deriving DecidableEq, Repr

/-- One ordinary store of one lane in the team's store buffer (R257, R297); `seq` is its number in the team's program
order. -/
structure StoreEntry where
  seq   : Nat
  pc    : Word
  lane  : Nat
  va    : Nat
  bytes : List Byte
  deriving DecidableEq, Repr

/-- An LD.POLL that holds its team (R145): its number in the team's program order, destination, access size, lanes with
their address and compare value, the values of the first read, the lines polled (in host memory or not, physical address),
the number of the next write as it stood then, the a-clk of the hold, the instruction's code address and word, and the loop
counters and levels as they stood before it (R187). -/
structure PollHold where
  seq   : Nat
  pc    : Word
  word  : Word
  dst   : RegField
  bytes : Nat
  lanes : List LaneAcc
  first : List (Nat × DWord)
  lines : List (Bool × Nat)
  ver   : Nat
  since : Nat
  lc    : List Word
  loops : List HwLoop
  deriving DecidableEq, Repr

/-- What holds a team inside one instruction until an event ends the hold (R163, R381, R419). -/
inductive Hold where
  | none
  | poll (p : PollHold)
  | remote (dst : RegField) (rseqs : List Nat)
  | tmove (dst : RegField) (entry : Nat) (destUid : Nat) (id : Nat := 0)
  deriving DecidableEq, Repr

/-- Kinds of arrival at the group barrier (R269). -/
inductive Arrival where
  | none
  | plain
  | engine
  | carve (dst : RegField) (request : Nat)
  deriving DecidableEq, Repr

/-- The status bits of one closed or open copy batch not yet reported (R283): the low 8 bits of the CWAIT status. -/
structure BatchStatus where
  batch : BitVec 16
  bits  : BitVec 8
  deriving DecidableEq, Repr

/-- What makes a team a census responder (R385, R386): its census, its order on the core, the held entries and whether
it has responded; `decl` is its index among the kernel's teams. -/
structure ResponderInfo where
  decl      : Nat
  cseq      : Nat
  core      : Nat
  order     : Nat
  entries   : List Nat
  responded : Bool
  handles   : List (Option Nat)
  image     : Nat      -- image and kernel of the asker, whose code the responder runs
  kidx      : Nat
  deriving DecidableEq, Repr

/-- A team (R158): everything that a team owns. State registers are those of R108. -/
structure Team where
  tid       : Nat
  role      : Role
  nvreg     : Nat
  age       : Nat
  started   : Bool
  finished  : Bool
  part      : Nat          -- execute partition 0 to 3 it is bound to (R117)
  lanes     : List Lane
  sregs     : List Word
  pc        : Word
  lc        : List Word
  slim      : DWord
  sbase     : DWord
  sp        : Nat
  stackLow  : Nat          -- stack bytes below this offset are spilled (R179)
  stack     : List Byte    -- bytes from stackLow to sp: the stack cache
  trapvec   : Word
  trapInh   : Bool
  trapCause : BitVec 8
  trapva    : DWord
  trappc    : Word
  trapmask  : Word
  astat     : Word
  rmode     : Word
  wth       : List Word
  dropseed  : DWord
  dropp     : Word
  dropscl   : Word
  stallfix  : Word
  lodcnt    : Word
  srcnt     : BitVec 31    -- R191
  demo      : Demotion
  loops     : List HwLoop  -- innermost last
  stalls    : List (BitVec 4)  -- HINT.STALL counts still to be used (R64)
  lastIssue : Nat          -- a-clk of its previous non-HINT instruction (R64)
  readyAt   : List (Nat × Nat) -- register field and a-clk at which its fixed-latency result is written (R165)
  hints     : List PrefixWord  -- prefix words issued and not yet used (R62)
  pend      : List PendWrite   -- variable-latency results outstanding
  swPark    : Bool         -- parked by a switch marker (R164)
  replay    : List ReplayItem
  parked    : Bool         -- parked on a page fault (R296)
  sbuf      : List StoreEntry
  hold      : Hold
  heldAt    : Option Nat   -- MODEL'S OWN: held at issue since this progress count (R163)
  queueHeld : Bool         -- that hold is on a queue, so the team is blocked on it (R246)
  heldClk   : Nat := 0     -- MODEL'S OWN: the a-clk of that hold
  lodHeld   : Bool         -- the waiting instruction has counted in LODCNT already (R245)
  yielded   : Bool         -- issued YIELD as its last instruction, in a-clk lastIssue (R163)
  fuse      : Nat          -- words still to issue of a fused operation that has begun (R219)
  seqNo     : Nat          -- number of its next instruction in program order (R298)
  acqAt     : Nat          -- number of the next global write at its latest acquire (R254, R258)
  seen      : List (Nat × Nat × Int)  -- global writes that it has read, with the name it read them under (R254)
  padAt     : Nat          -- the same for its group's scratchpad (R262)
  padSeen   : List Nat
  arrival   : Arrival
  cb        : BitVec 16    -- open copy batch (R283)
  batches   : List BatchStatus
  rstatus   : Word         -- remote status (R419)
  fcalls    : List Word    -- return addresses of unreturned FCALLs (R125)
  censuses  : List Nat     -- census slots held, by census number (R383)
  responder : Option ResponderInfo
  deriving DecidableEq, Repr

/-! ### Queues, barrier objects, cards, engines -/

/-- One queue entry (R223): tag, SEG payload, position values and completeness, and what an incomplete entry waits for: its
data in flight, a page request of some lanes (R242), or the slice requests of the load that fills it (R313). -/
structure QEntry where
  id       : Nat
  tag      : BitVec 2
  payload  : BitVec 16
  vals     : List DWord
  complete : Bool
  waiting  : Bool          -- data in flight: completes by a QUEUE_ENTRY_COMPLETE or REMOTE_RESPONSE step
  faulted  : Bool          -- lanes wait on a page request
  req      : Option Nat := none  -- number, in the owner's program order, of the load whose slice requests it waits for (R313)
  owner    : Nat           -- team index that pushed it
  since    : Nat := 0      -- the first a-clk in which it can be visible, once it is complete (R227)
  deriving DecidableEq, Repr

/-- Queue states (R225). -/
inductive QState where
  | unbound | opened | closing | closed | released
  deriving DecidableEq, Repr

/-- A declared queue of a group (R220, R221, R225, R237). -/
structure Queue where
  num       : Nat
  fmt       : Fmt
  depth     : Nat
  width     : Nat
  producer  : Role
  consumer  : Role
  state     : QState
  ended     : Bool
  entries   : List QEntry
  nextId    : Nat
  inFlight  : Nat          -- cancelled loads still in flight while CLOSING (R243)
  cancelled : Word
  flushed   : Word
  freed     : Nat := 0     -- places of entries popped in the latest a-clk with a pop, not free before `freeAt` (R228)
  freeAt    : Nat := 0
  pushAt    : Option Nat := none  -- the a-clk of the latest push (R235)
  deriving DecidableEq, Repr

/-- A barrier object (R273). -/
structure BarObj where
  phase : BitVec 16
  exp   : Word
  arr   : Word
  deriving DecidableEq, Repr

/-- A fetch descriptor (R321), with the canonical code lengths of an ENC 1 table (R323). -/
structure FetchDesc where
  base  : Nat
  otab  : Nat
  htab  : Nat
  nrows : Nat
  rowb  : Nat
  enc   : Nat
  fsrc  : Fmt
  fdst  : Fmt
  lens  : List Nat
  deriving DecidableEq, Repr

/-- States of a job card (R361). -/
inductive CardState where
  | queued | running | pairing
  deriving DecidableEq, Repr

/-- A job card held by the task scheduler (R361): its 64 bytes, the captured handle entries and team values (R373),
the cards it waits on (R362), progress of a pairing (R366, R369) and the status gathered so far. -/
structure Card where
  task     : BitVec 16
  age      : Nat
  owner    : Nat           -- team index of its MTASK
  bytes    : List Byte
  handleA  : Option Nat    -- header offset of the first tile it names
  handleB  : Option Nat    -- header offset of the residual tile
  dropseed : DWord
  dropp    : Word
  dropscl  : Word
  state    : CardState
  served   : Nat           -- entries served (ACCEPT); receivers served (broadcast), as a bit mask
  status   : Word
  hdrB     : List Byte := []  -- the residual tile's header as read at the card's start (R364)
  deriving DecidableEq, Repr

/-- Tag of an accumulator bank: DOM 0 is SPATIAL; a Haar tag has rows, SURV counts and bitmaps (R353). -/
structure BankTag where
  dom   : Nat
  rows  : Nat
  surv  : List Nat
  bits  : List (List Bool)
  deriving DecidableEq, Repr

/-- An accumulator bank of 128 x 256 elements (R352): rows of values, an absent row or column being +0. -/
structure Bank where
  int32 : Bool
  tag   : BankTag
  vals  : List (List Word)
  deriving DecidableEq, Repr

/-- A latched B tile (R365): K, N, format, elements as raw patterns (CB4 decoded through its codebook), block codes. -/
structure Latch where
  k     : Nat
  n     : Nat
  fmt   : Fmt
  elems : List (List Word)
  codes : Option (List (List Byte))
  deriving DecidableEq, Repr

/-- A matrix engine (R352): its binding to a group and latch id, the latch and two banks. -/
structure Engine where
  boundTo : Option (Nat × Nat)
  latch   : Option Latch
  bank0   : Bank
  bank1   : Bank
  deriving DecidableEq, Repr

/-! ### Kernels, images, launches, graphs -/

/-- A team declaration (R112). -/
structure TeamDecl where
  role  : Role
  lanes : Nat
  vregs : Nat
  entry : Word
  deriving DecidableEq, Repr

/-- Directions of a queue: FWD, RET, LOCAL (R220). -/
inductive QueueDir where
  | fwd | ret | loc
  deriving DecidableEq, Repr

/-- A queue declaration (R220). -/
structure QueueDecl where
  num      : Nat
  dir      : QueueDir
  fmt      : Fmt
  depth    : Nat
  producer : Role
  consumer : Role
  deriving DecidableEq, Repr

/-- A tile declaration (R72, R330). -/
structure TileDecl where
  num  : Nat
  fmt  : Fmt
  rows : Nat
  cols : Nat
  deriving DecidableEq, Repr

/-- A schedule variant (R116). -/
structure SchedDecl where
  capacity : Nat
  mask     : Nat
  groups   : Nat
  deriving DecidableEq, Repr

/-- A kernel record (R112). `entries` are the entry-table code addresses, `entryRoles` the role in force at each. -/
structure Kernel where
  teams      : List TeamDecl
  queues     : List QueueDecl
  tiles      : List TileDecl
  scheds     : List SchedDecl
  entries    : List Word
  entryRoles : List Role
  scratch    : Nat
  l1         : Nat
  deriving DecidableEq, Repr

/-- An overlay unit placed by the loader (R73, R83): its id, its kernel and its words. -/
structure Overlay where
  id    : Nat
  kidx  : Nat
  words : List Word
  deriving DecidableEq, Repr

/-- The translation record of a load (R87). -/
structure LoadRecord where
  imgMeas  : List Byte
  outMeas  : List Byte
  ruleVer  : Nat
  imgVer   : Nat
  kind     : Nat
  novl     : Nat
  dropHint : List Nat
  deriving DecidableEq, Repr

/-- A loaded image of a context (R77, R113): its kernel records as the image gives them (R84), and its kernels as they run. -/
structure Image where
  handle   : Nat
  records  : List Kernel := []
  kernels  : List Kernel
  overlays : List Overlay
  data     : List (Nat × List Byte)
  record   : LoadRecord
  deriving DecidableEq, Repr

/-- A launch record (R113). -/
structure LaunchRec where
  kind     : Nat
  serial   : Bool
  sizePtr  : Bool
  image    : Nat
  kidx     : Nat
  affinity : Nat
  strips   : Nat
  size     : Nat
  trapvec  : Word
  sizeVa   : Nat
  stackVa  : Nat
  stackSz  : Nat
  args     : List Word
  wth      : List Word
  dropseed : DWord
  dropp    : Word
  dropscl  : Word
  graphVa  : Nat
  deriving DecidableEq, Repr

/-- Where a launch or phase stands. -/
inductive LaunchState where
  | queued      -- submitted, its phase has not started
  | placing     -- schedule chosen, groups still to be placed
  | running     -- every group placed
  | retired
  deriving DecidableEq, Repr

/-- A launch or graph phase (R114, R116). -/
structure Launch where
  lid      : Nat
  ord      : Nat           -- submission order of its launch record, or of its graph's
  part     : Nat
  ctxid    : Nat
  record   : LaunchRec
  recVa    : Option Nat    -- a node's launch record, still to be read (R120)
  state    : LaunchState
  variant  : Nat
  groups   : Nat
  placed   : Nat
  retired  : Nat
  freed    : Nat           -- groups that no longer hold the phase's ring slots (R123)
  sizeWord : Nat
  node     : Option Nat
  first    : Nat
  count    : Nat
  startClk : Nat
  waitReq  : Option Nat    -- page request of a faulting size word (R116)
  deriving DecidableEq, Repr

/-- Kinds of graph node (R120). -/
inductive NodeKind where
  | kernel | cond | while | queue | boundary
  deriving DecidableEq, Repr

/-- States of a QUEUE node (R122). -/
inductive QNodeState where
  | opened | closing | closed
  deriving DecidableEq, Repr

/-- A graph node with the walker's state for it (R119 to R123). -/
structure GNode where
  kind     : NodeKind
  bit      : Nat
  npred    : Nat
  succ     : List Nat
  param    : Nat
  launchVa : Nat
  rqva     : Nat
  rqcap    : Nat
  tile     : Nat
  arrived  : Nat
  running  : Nat           -- phases of this node not yet retired
  again    : Nat           -- times it became ready while running (R120)
  iter     : Nat
  inIter   : Bool
  qstate   : QNodeState
  head     : Nat           -- ring index of the oldest pending record
  pending  : Nat
  held     : List (Nat × Nat × Bool)  -- ring slots given to phases, oldest first: phase, count, freed (R123)
  due      : Option Nat    -- flush timer: a-clk count at which it expires (R122)
  left     : Option Nat    -- remaining time of a stopped timer (R123)
  deriving DecidableEq, Repr

/-- The graph a context runs in the walker (R119). -/
structure Graph where
  ord    : Nat             -- submission order of its launch record
  serial : Bool
  cw     : Word
  nodes  : List GNode
  todo   : List Nat        -- MODEL'S OWN: arrivals not yet delivered
  deriving DecidableEq, Repr

/-! ### Contexts -/

/-- Context states (R93). -/
inductive CtxState where
  | idle | running | preempting | saved | error | killed
  deriving DecidableEq, Repr

/-- A slot of the slot table (R397). -/
structure Slot where
  expert  : BitVec 16
  valid   : Bool
  loading : Bool
  use     : Bool
  ref     : BitVec 13
  deriving DecidableEq, Repr

/-- An entry of the peer table (R413). -/
structure Peer where
  valid : Bool
  port  : Nat
  addr  : Nat
  job   : Nat
  deriving DecidableEq, Repr

/-- A graph launch whose graph the walker has still to read, as a page of it is asked for (R119): the function that gave the
command, its order, SERIAL, the graph's address and the request it waits on. -/
structure GraphAsk where
  fn      : Nat
  ord     : Nat
  serial  : Bool
  va      : Nat
  waitReq : Option Nat
  deriving DecidableEq, Repr

/-- A context (R89 to R94) with its routing tables (R397, R401, R402), peer table (R413), graph and images. -/
structure Ctx where
  part      : Nat
  ctxid     : Nat
  gen       : Nat
  asid      : Nat
  prio      : Nat
  ptroot    : Nat
  savepa    : Nat
  savesz    : Nat
  floor     : Nat
  trapmask  : Word
  wdog      : Nat
  native    : Bool
  nodrowsy  : Bool
  state     : CtxState
  images    : List Image
  nextHandle : Nat
  graph     : Option Graph
  graphWait : List Graph       -- graphs that wait for earlier work (R114, R119)
  asks      : List GraphAsk := []  -- graph launches whose graph is still to be read (R119)
  slots     : List Slot
  hand      : Nat
  active    : Option (List DWord)
  staged    : Option (List DWord)
  tabver    : BitVec 16
  peers     : List Peer
  nextCensus : BitVec 16
  saveCause : Nat           -- CAUSE of the save in progress (R97)
  saveClk   : Nat           -- CLKSAVE
  saveSeq   : Nat           -- order of the save, oldest first (R95)
  nabort    : Nat           -- NABORT
  routeAt   : Option (Nat × Nat) := none  -- a-clk and core of its latest ROUTE operation (R400)
  deriving DecidableEq, Repr

/-! ### Groups -/

/-- Group states (R133). -/
inductive GroupState where
  | starting | running | draining | saved | retired
  deriving DecidableEq, Repr

/-- A key-directory entry (R379); `held` lists the censuses that hold it (R384). -/
structure KeyEntry where
  key    : DWord
  part   : Nat
  ctxid  : Nat
  gen    : Nat
  uid    : Nat
  gid    : Nat
  header : Nat
  held   : List Nat
  id     : Nat := 0        -- MODEL'S OWN: tells entries of one place apart (R381)
  deriving DecidableEq, Repr

/-- A group (R132 to R139). The scratchpad is a canonical list of cells below `padSize`. -/
structure Group where
  uid       : Nat
  part      : Nat
  ctxid     : Nat
  lid       : Nat
  gid       : Nat
  core      : Nat
  state     : GroupState
  image     : Nat
  kidx      : Nat
  teams     : List Team
  padSize   : Nat
  pad       : Memory
  past      : List PastWrite  -- writes to the scratchpad, latest first (R262)
  vers      : Nat             -- number of the next one
  regGran   : Nat           -- granules of its register areas (R135)
  l1Gran    : Nat
  stackSz   : Nat
  handles   : List (Option Nat)
  queues    : List Queue
  objs      : List BarObj
  barPhase  : BitVec 16
  carving   : Bool          -- MODEL'S OWN: every member has arrived and a carve waits by R270
  codebooks : List (List (BitVec 16))
  descs     : List (Option FetchDesc)
  decErr    : Bool
  cards     : List Card
  nextTask  : BitVec 16
  tstat     : Word
  lidFmts   : List (Option (Fmt × Bool))   -- format of the latest LATCH per LID not ended by a RELEASE (R352, R360)
  qMark     : Nat           -- a-clk count at which the queue progress count last returned to 0 (R246)
  ringNode  : Option Nat    -- QUEUE node whose ring slots the group still holds (R123, R130)
  ovls      : List Nat      -- overlays that a resumed group needs besides those its teams pin (R126)
  savedEngines : List Engine      -- bindings of a saved group, with latch and banks (R377)
  savedKeys : List (Nat × KeyEntry)  -- key-directory entries of a saved group, with their numbers on the core it left (R97)
  deriving DecidableEq, Repr

/-! ### Cores -/

/-- An overlay slot of instruction memory (R125): tag, words, whether loaded, and when last issued from. -/
structure OvSlot where
  asid    : Nat
  handle  : Nat
  ovl     : Nat
  words   : List Word
  loaded  : Bool
  lastUse : Nat
  owner   : Option Nat     -- group whose team asked for the load
  stale   : Bool := false  -- a shootdown has invalidated its tag: its words stay usable (R308, R309)
  deriving DecidableEq, Repr

/-- A request of a core's ACCESS teams (R313, R314): the team and the number of its instruction, the lane, its home (c, n), and
whether the home slice has accepted it. -/
structure SliceReq where
  team     : TeamRef
  seq      : Nat
  lane     : Nat
  home     : Nat × Nat
  accepted : Bool
  index    : Nat := 0      -- entry of the group table that gives the home (R311, R312)
  deriving DecidableEq, Repr

/-- A core: overlay slots, key directory of 512 entries, four engines; whether repair left it out of service (R429). -/
structure Core where
  slots   : List (Option OvSlot)
  keys    : List (Option KeyEntry)
  engines : List Engine
  avail   : Bool
  fetchLines : List (Nat × Nat × List Byte)   -- fetch unit cache: ASID tag, line address, bytes (R324), at most 1,024 lines (R22)
  reqs    : List SliceReq    -- requests not yet answered, oldest first (R313, R314)
  acqAt   : Nat := 0         -- number of the next write at the latest acquire of a team of the core (R266)
  deriving DecidableEq, Repr

/-! ### Copies and fetches -/

/-- What a copy command does (R277): CPY and CPYM by their descriptor, CPYS by its record. -/
inductive CopyKind where
  | cpy | cpym (mask : Word) | cpys
  deriving DecidableEq, Repr

/-- States of a copy (R286). -/
inductive CopyState where
  | entering   -- the place in the engine is not free yet (R277)
  | queued | running | aborted
  deriving DecidableEq, Repr

/-- A copy command in a copy engine (R277, R285). `recv` are the groups written, `pos` the bytes done, `counted` the
bytes counted per receiver; `record` holds the shape record of a CPYS, and of any other copy the bytes read and not yet written. -/
structure Copy where
  seq      : Nat
  uid      : Nat
  tid      : Nat
  kind     : CopyKind
  opA      : DWord
  opB      : DWord
  batch    : BitVec 16
  dropseed : DWord
  state    : CopyState
  recv     : List Nat
  pos      : Nat
  counted  : List (Nat × Nat × Nat)   -- group, object, bytes
  record   : List Byte
  bits     : BitVec 8
  waitReq  : Option Nat
  words    : List (Nat × List Byte) := []  -- aligned words of a CPYS's source as it has read them, by address (R256)
  deriving DecidableEq, Repr

/-- A FETCH or FETCHX in the fetch unit (R324): rows still to bring as (source row, tile row). -/
structure Fetch where
  seq     : Nat
  uid     : Nat
  tid     : Nat
  desc    : FetchDesc
  doff    : Nat
  rstride : Nat
  rows    : List (Nat × Nat)
  all     : List (Nat × Nat)
  bo      : Nat
  nobo    : Bool
  counted : Nat
  noAlloc : Bool
  waitReq : Option Nat
  carry   : Option (Nat × List Byte) := none  -- the word that the previous row ended in: address and bytes as read (R256)
  tail    : List Byte := []  -- bytes of the rows before, of a word that the next row goes on with: not written yet (R256)
  deriving DecidableEq, Repr

/-- An outstanding remote lane operation (R417 to R420). -/
structure RemoteOp where
  rseq   : Nat
  uid    : Nat
  tid    : Nat
  lane   : Nat
  port   : Nat
  ra     : Nat
  kind   : Nat             -- 0 read, 1 write, 2 add, 3 compare and swap
  bytes  : Nat
  data   : DWord
  cmp    : DWord
  queue  : Nat             -- queue and entry of a read
  entry  : Nat
  since  : Nat
  deriving DecidableEq, Repr

/-- An incoming remote request that waits for a page to be expanded (R414): operation (0 read, 1 write, 2 atomic with its code),
address, bytes, data, and the request it waits on. -/
structure Incoming where
  port    : Nat
  job     : Nat
  va      : Nat
  size    : Nat
  kind    : Nat
  code    : Nat
  data    : List Byte
  compare : Nat
  tag     : Nat
  deriving DecidableEq, Repr

/-! ### Censuses -/

/-- Census states (R390). -/
inductive CensusState where
  | opened | closed | aborted
  deriving DecidableEq, Repr

/-- One piece of a core's matches (R385): core, order on it, group, entries; its answer once known. -/
inductive PieceState where
  | waiting | running | answered (words : List Word) | null
  deriving DecidableEq, Repr

/-- A piece of a census (R385). -/
structure Piece where
  core    : Nat
  order   : Nat
  uid     : Nat
  entries : List Nat
  state   : PieceState
  deriving DecidableEq, Repr

/-- A census (R382 to R391). -/
structure Census where
  cseq    : Nat
  id      : BitVec 16
  part    : Nat
  ctxid   : Nat
  uid     : Nat
  tid     : Nat
  freed   : Bool
  key     : DWord
  mask    : DWord
  op      : Nat
  nwords  : Nat
  image   : Nat            -- the asker's image and kernel, and the index there of the responder's team
  kidx    : Nat
  decl    : Nat
  roff    : Nat
  args    : List Word
  snapAt  : Nat            -- the a-clk S
  snapped : Bool
  matched : Nat
  pieces  : List Piece
  state   : CensusState
  result  : List Word
  status  : Word
  trapvec : Word
  rmode   : Word
  wth     : List Word
  dropseed : DWord
  dropp   : Word
  dropscl : Word
  askCore : Nat
  deriving DecidableEq, Repr

/-! ### Pages -/

/-- A TLB entry of one memory controller (R294): column, tag, level of the leaf, virtual page number, PTE; `since` is the number
of the next write when it was entered: of what the host has written before, nothing is missed through it. -/
structure TlbEntry where
  col   : Nat
  asid  : Nat
  level : Nat
  vpn   : Nat
  pte   : DWord
  since : Nat
  deriving DecidableEq, Repr

/-- A shootdown (R308, R312): the ASID whose lines it invalidated, of all where none is given, the range of addresses or the entry
of the group table, and the number of the next write when it was made: reads of these lines see every write before it, under
whatever name (R289). -/
structure Shot where
  asid  : Option Nat := none
  lo    : Nat := 0
  hi    : Nat := 2 ^ 52
  index : Option Nat := none
  ver   : Nat
  deriving DecidableEq, Repr

/-- Who waits on a page request (R296, R279, R116, R324, R368, R414, R293, R119): an incoming access by its
context, the overlay load of a slot and the walker's read of a graph among them. -/
inductive Waiter where
  | team (r : TeamRef) | copy (seq : Nat) | fetch (seq : Nat) | size (lid : Nat) | card (uid : Nat) (task : BitVec 16) | port (ctxid : Nat)
  | load (core slot : Nat) | graph (ord : Nat)
  deriving DecidableEq, Repr

/-- An outstanding page request (R300), or an expansion in progress (REASON 0, R307). `answer` is the host's answer kept for
a context that is not running (R100), true for SUCCESS. -/
structure PageReq where
  tag     : Nat
  part    : Nat
  ctxid   : Nat
  gen     : Nat
  asid    : Nat
  va      : Nat
  reason  : Nat
  level   : Nat
  access  : Nat
  core    : Nat
  waiters : List Waiter
  posted  : Bool
  answer  : Option Bool
  deriving DecidableEq, Repr

/-- A record of the page-request ring: a request or a cancel (R300). -/
structure PageRec where
  ctxid  : Nat
  gen    : Nat
  kind   : Nat
  reason : Nat
  core   : Nat
  tag    : Nat
  access : Nat
  level  : Nat
  va     : Nat
  clk    : Nat
  deriving DecidableEq, Repr

/-- An event record posted to the host (R104). -/
structure EventRec where
  fn     : Nat
  ctxid  : Nat
  gen    : Nat
  kind   : Nat
  cause  : Nat
  core   : Nat
  trappc : Word
  trapva : DWord
  clk    : Nat
  deriving DecidableEq, Repr

/-- A compressed page (R306): address of its record in the zone, size of the record, the page's bytes. -/
structure CompRec where
  pa   : Nat
  size : Nat
  data : Memory
  deriving DecidableEq, Repr

/-! ### Partitions, ports, the part -/

/-- A partition: group table (R312), shared tables (R290), keys (R76), page engine (R304), routing-unit memory (R401),
jobs (R414), test mode (R427), drowsy control (R318). -/
structure Partition where
  groupTable  : List Nat
  sharedRoot  : Option Nat
  keys        : List (Option (List Byte))
  testMode    : Bool
  drowsyOff   : Bool
  freeFrames  : List Nat
  low         : Nat
  high        : Nat
  period      : Nat
  aged        : List (Nat × Nat × Nat)    -- ctxid, va, len of the registered ranges
  coldTimes   : List (Nat × Nat)          -- physical page, period at which AGE reached 15
  periods     : Nat
  comp        : List CompRec
  zones       : List (Nat × Nat)          -- the compressed zone (R304): first address and end in each stack
  ageClk      : Nat                       -- a-clk count of the latest registration or ageing period (R305)
  jobs        : List (Nat × Nat)          -- job, ctxid
  nextTag     : Nat
  requests    : List PageReq
  tlb         : List TlbEntry
  shots       : List Shot := []           -- shootdowns made, latest first (R289, R308)
  gens        : List Nat                  -- last GEN given per CTXID, 0 for none (R91)
  deriving DecidableEq, Repr

/-- An Ethernet port (R416, R417): STATE 0 DOWN, 1 TRAINING, 2 UP. -/
structure Port where
  state : Nat
  rto   : Nat
  downs : BitVec 16
  sent  : List (Bool × List Byte)   -- answers sent to incoming requests: acknowledged, data (R414)
  deriving DecidableEq, Repr

/-- The status of a driver command, as the manual names it (R77, R89, R94, R113, R409, R421). -/
inductive CmdStatus where
  | none | ok | invalid | dead | access | notReady
  | load (code : Nat)
  deriving DecidableEq, Repr

/-- A PCI Express function's rings and mailbox (R300, R301, R302, R411). -/
structure Function where
  pageRing  : List PageRec
  ringRoom  : Nat            -- free slots of its page-request ring
  stalePend : List PageRec   -- cancel records waiting for ring room
  staleAns  : Word
  msix      : List Nat       -- vectors raised: 0 page request, 1 event, 2 service, 3 port
  shootDone : Nat            -- shootdown completion records posted
  spdm      : Nat            -- SPDM progress: 0 none, 1 version, 2 capabilities, 3 algorithms, 4 key exchange, 5 session
  replies   : List (Nat × List Byte)  -- DOE answers posted: request code, measurement bytes the manual fixes
  status    : CmdStatus      -- status of its latest command
  deriving DecidableEq, Repr

/-- Partition modes (R16, R425). -/
inductive PartMode where
  | eight | one | hamada
  deriving DecidableEq, Repr

/-- A margin record (R428). -/
structure MarginRec where
  domain : Nat
  kind   : Nat
  status : Nat
  volt   : Nat
  margin : BitVec 16
  clk    : Nat
  deriving DecidableEq, Repr

/-- BOOTSTAT (R426). -/
structure BootStat where
  step   : Nat
  mode   : Nat
  fails  : Nat
  reason : Nat
  stack  : Nat
  strip  : Nat
  deriving DecidableEq, Repr

/-- The part outside cores and partitions: start and service life (R421 to R433), host link (R410). -/
structure Device where
  boot        : BootStat
  mode        : PartMode
  modeNext    : PartMode
  powered     : Bool
  heldInReset : Bool         -- after a thermal trip or the loss of the host link (R410, R433)
  hostLink    : Bool
  flash       : List Byte    -- first-stage image of the module flash
  mgmt        : List Byte    -- management firmware as verified at the latest start (R411, R421)
  fuseKey     : List Byte    -- fused key hash
  rollback    : Nat          -- blown bits of the anti-rollback field (R422)
  repair      : List Nat     -- physical cluster of logical cluster 0 to 63
  repairNext  : List Nat
  spareUsed   : List Bool    -- per strip
  exhausted   : List Nat     -- physical clusters marked EXHAUSTED (R429)
  msel        : BitVec 3     -- R411
  powerCap    : Nat
  throttle    : Bool
  replanning  : Bool
  replans     : Nat          -- re-plans made; index of the readings
  replanAt    : Nat          -- a-clk count of the latest daily re-plan (R428)
  margins     : List MarginRec
  errCounts   : List (Nat × Word)   -- block, count (R430)
  errLimits   : List (Nat × Word)   -- block, threshold
  scrubs      : Nat
  zoneGiB     : Nat          -- compressed zone per stack (R304)
  drowsy      : List (Nat × Nat × Nat × Bool)  -- column, row, bank, waking (R318)
  retiredFrames : List Nat   -- frames retired by the page engine (R431)
  unposted    : List EventRec := []  -- event records that wait while the host link is down (R410)
  deriving DecidableEq, Repr

/-- A scheduler that has issued (R163): its core, its execute partition or 4 for the access processor, its cur, cur's age,
the greed of cur, and the a-clk of its latest issue (R450). -/
structure SchedRec where
  core  : Nat
  unit  : Nat
  cur   : TeamRef
  age   : Nat
  greed : Nat
  clk   : Nat
  deriving DecidableEq, Repr

/-- The whole machine. -/
structure State where
  steps    : Nat             -- MODEL'S OWN: steps taken, index of the free step lengths
  clk      : Nat             -- the a-clk count (R109)
  free     : Nat             -- MODEL'S OWN: counter of free values
  progress : Nat             -- MODEL'S OWN: counts effective steps; releases holds (R163)
  iword    : Word            -- MODEL'S OWN: the instruction word being issued
  cur      : Option TeamRef  -- the team that issues in this step
  scheds   : List SchedRec   -- what each scheduler chose last (R163)
  nextAge  : Nat             -- next team creation number (R163)
  nextUid  : Nat             -- MODEL'S OWN
  nextSeq  : Nat             -- MODEL'S OWN: numbers copies, fetches, cards, remote operations, censuses, saves
  agenda   : List (Option Instr) -- MODEL'S OWN: what comes from outside in the next steps: a command or event, or nothing
  mem      : Memory  -- device physical memory
  past     : List PastWrite  -- writes to device and host memory, latest first (R254)
  vers     : Nat             -- number of the next one
  hostMem  : Memory  -- host memory across PCI Express (R266)
  dev      : Device
  parts    : List Partition
  ports    : List Port
  funcs    : List Function   -- the PF, then VF 0 to 7
  events   : List EventRec   -- event records posted (R104)
  ctxs     : List Ctx
  launches : List Launch
  groups   : List Group
  cores    : List Core
  copies   : List Copy
  fetches  : List Fetch
  remotes  : List RemoteOp
  incoming : List Incoming   -- incoming remote requests that wait for an expansion (R414)
  censuses : List Census
  deriving DecidableEq, Repr

/-- Why a step stops. No step of this machine stops with a fault: every trap the manual describes is taken, so the
type has the one constructor that a reserved-for-proof stop would use; nothing raises it (safe). -/
inductive Fault where
  /-- Raised by nothing in this model; it keeps the type inhabited for the host's interface. Safe. -/
  | unreachable
  deriving DecidableEq, Repr

/-- Why a step has no meaning. -/
inductive Refusal where
  /-- The instruction's meaning is not written: raised by its arm of exec alone. Safe: a claim about it is unprovable. -/
  | notModelled (mnemonic : String)
  deriving DecidableEq, Repr

/-! ### Reset -/

/-- An accumulator bank as a LATCH that binds an engine leaves it: FP32, SPATIAL, every element +0 (R352, R353). -/
def bankReset : Bank := { int32 := false, tag := { dom := 0, rows := 0, surv := [], bits := [] }, vals := [] }

/-- An engine bound to no latch id (R352). -/
def engineReset : Engine := { boundTo := none, latch := none, bank0 := bankReset, bank1 := bankReset }

/-- A core with nothing loaded and no work (R125, R379, R352). -/
def coreReset : Core :=
  { slots := List.replicate 4 none, keys := List.replicate 512 none, engines := List.replicate 4 engineReset,
    avail := true, fetchLines := [], reqs := [] }

/-- Entry `i` of partition `p`'s group table after reset in eight-partition mode (R312). -/
def groupTableReset (p : Nat) : List Nat := (List.range 64).map fun i => 3 * p + i % 3

/-- Partition `p` after reset (R290, R312; values the manual gives none of: log entry 12). -/
def partitionReset (p : Nat) : Partition :=
  { groupTable := groupTableReset p, sharedRoot := none, keys := List.replicate 8 none, testMode := false,
    drowsyOff := false, freeFrames := [], low := 0, high := 0, period := 0, aged := [], coldTimes := [], periods := 0,
    comp := [], zones := [], ageClk := 0, jobs := [], nextTag := 0, requests := [], tlb := [],
    gens := List.replicate 64 0 }

/-- A port after reset: DOWN, RTO 100, DOWNS 0 (R417). -/
def portReset : Port := { state := 0, rto := 100, downs := 0, sent := [] }

/-- A function's rings after reset (R302; the room of a ring is the host's: log entries 12 and 16). -/
def functionReset : Function :=
  { pageRing := [], ringRoom := 256, stalePend := [], staleAns := 0, msix := [], shootDone := 0, spdm := 0, replies := [], status := .none }

/-- The part outside cores and partitions at the release of reset, before the first start step (R411, R421, R426; values
the manual gives none of: log entry 12). -/
def deviceReset : Device :=
  { boot := { step := 0, mode := 0, fails := 0, reason := 0, stack := 0, strip := 0 }
    mode := .eight, modeNext := .eight, powered := true, heldInReset := false, hostLink := true, flash := [],
    mgmt := [], fuseKey := [], rollback := 0, repair := (List.range 64).map (fun j => j / 8 * 9 + j % 8),
    repairNext := (List.range 64).map (fun j => j / 8 * 9 + j % 8), spareUsed := List.replicate 8 false,
    exhausted := [], msel := 0, powerCap := 7500, throttle := false, replanning := false, replans := 0, replanAt := 0, margins := [],
    errCounts := [], errLimits := [], scrubs := 0, zoneGiB := 0, drowsy := [], retiredFrames := [] }

/-- The machine right after reset: no context, launch, group or team exists, memory lists nothing, and the start
sequence of R421 has not yet run its first step. -/
def State.reset : State :=
  { steps := 0, clk := 0, free := 0, progress := 0, iword := 0, cur := none, scheds := [], nextAge := 0, nextUid := 0,
    nextSeq := 0, agenda := [], mem := [], past := [], vers := 0, hostMem := [], dev := deviceReset,
    parts := (List.range 8).map partitionReset, ports := List.replicate 8 portReset,
    funcs := List.replicate 9 functionReset, events := [], ctxs := [], launches := [], groups := [],
    cores := List.replicate 256 coreReset, copies := [], fetches := [], remotes := [], incoming := [], censuses := [] }

end Sys2Proof.Machine
end

