-- ==== Sys2Proof/Machine/Float.lean ====
section
/-!
DEFINITION. Number formats and rounding (02_numbers.md, R23 to R45). A finite value is an exact dyadic number: a sign,
a natural significand and an exponent of two. Every operation forms its exact value and rounds it once by `roundTo`.
-/

namespace Sys2Proof.Machine

/-! ### Flags and rounding modes -/

/-- The sticky flags of ASTAT (R29), bits 5 to 0. -/
abbrev Flags := BitVec 6

def flagNV : Flags := 1#6
def flagOF : Flags := 2#6
def flagUF : Flags := 4#6
def flagNX : Flags := 8#6
def flagWOVF : Flags := 16#6
def flagMASKX : Flags := 32#6

/-- Rounding modes (R31, R33). -/
inductive RMode where
  | rne | rz | ru | rd | sr
  deriving DecidableEq, Repr

/-- How one result is rounded: mode, .SAT (R34) and the 16-bit draw of SR (R35). -/
structure Rounding where
  mode : RMode
  sat  : Bool
  rnd  : Nat
  deriving DecidableEq, Repr

/-- Round to nearest even, the mode of every rounding that RMODE does not govern (R32). -/
def rneRounding : Rounding := ⟨.rne, false, 0⟩

/-! ### Formats (R24, R25, R66) -/

/-- The format of a format code of R66; the codes 0xA to 0xF are reserved. -/
def fmtOfCode (c : Nat) : Option Fmt :=
  match c with
  | 0 => some .implied
  | 1 => some .fp32
  | 2 => some .bf16
  | 3 => some .fp16
  | 4 => some .e5m2
  | 5 => some .e4m3
  | 6 => some .int8
  | 7 => some .int32
  | 8 => some .cb4
  | 9 => some .e8m0
  | _ => none

/-- Width of an element in bits (R24, R27, R28, R220). -/
def fmtBits (f : Fmt) : Nat :=
  match f with
  | .implied => 0
  | .fp32 => 32
  | .bf16 => 16
  | .fp16 => 16
  | .e5m2 => 8
  | .e4m3 => 8
  | .int8 => 8
  | .int32 => 32
  | .cb4 => 4
  | .e8m0 => 8
  | .b64 => 64

/-- A format with sign, exponent and mantissa fields (R24). -/
def fmtIsFloat (f : Fmt) : Bool :=
  match f with
  | .fp32 => true
  | .bf16 => true
  | .fp16 => true
  | .e5m2 => true
  | .e4m3 => true
  | _ => false

/-- Bits of the exponent field. -/
def fmtExp (f : Fmt) : Nat :=
  match f with
  | .fp32 => 8
  | .bf16 => 8
  | .fp16 => 5
  | .e5m2 => 5
  | .e4m3 => 4
  | _ => 8

/-- Bits of the mantissa field. -/
def fmtMan (f : Fmt) : Nat :=
  match f with
  | .fp32 => 23
  | .bf16 => 7
  | .fp16 => 10
  | .e5m2 => 2
  | .e4m3 => 3
  | _ => 23

/-- The exponent bias. -/
def fmtBias (f : Fmt) : Nat :=
  match f with
  | .fp32 => 127
  | .bf16 => 127
  | .fp16 => 15
  | .e5m2 => 15
  | .e4m3 => 7
  | _ => 127

/-- The pattern of the largest finite value without its sign (R25). -/
def fmtMax (f : Fmt) : Nat :=
  match f with
  | .fp32 => 0x7F7FFFFF
  | .bf16 => 0x7F7F
  | .fp16 => 0x7BFF
  | .e5m2 => 0x7B
  | .e4m3 => 0x7E
  | _ => 0

/-- The canonical NaN (R25). -/
def fmtNaN (f : Fmt) : Nat :=
  match f with
  | .fp32 => 0x7FC00000
  | .bf16 => 0x7FC0
  | .fp16 => 0x7E00
  | .e5m2 => 0x7E
  | .e4m3 => 0x7F
  | _ => 0

/-- The sign bit in place. -/
def signBit (f : Fmt) (neg : Bool) : Nat := if neg then 2 ^ (fmtExp f + fmtMan f) else 0

/-- An unpacked value. The payload of a NaN stands as an FP32 mantissa field, its top bit marking a quiet NaN. -/
inductive FVal where
  | nan (neg : Bool) (pay : Nat)
  | inf (neg : Bool)
  | fin (neg : Bool) (m : Nat) (e : Int)
  deriving DecidableEq, Repr

/-- Unpacks a pattern of a floating-point format (R24, R25). -/
def unpackFloat (f : Fmt) (bits : Nat) : FVal :=
  let man := fmtMan f
  let neg := bitOf bits (fmtExp f + man)
  let ex := bitsOf bits man (fmtExp f)
  let mf := bitsOf bits 0 man
  let allOnes := ex == 2 ^ fmtExp f - 1
  if f == .e4m3 then
    if allOnes && mf == 7 then .nan neg 0x400000
    else if ex == 0 then .fin neg mf (1 - (fmtBias f : Int) - man)
    else .fin neg (mf + 2 ^ man) ((ex : Int) - fmtBias f - man)
  else if allOnes then
    if mf == 0 then .inf neg else .nan neg (mf * 2 ^ (23 - man))
  else if ex == 0 then .fin neg mf (1 - (fmtBias f : Int) - man)
  else .fin neg (mf + 2 ^ man) ((ex : Int) - fmtBias f - man)

/-- An integer as an unpacked value. -/
def intVal (x : Int) : FVal := .fin (decide (x < 0)) x.natAbs 0

/-- Unpacks a pattern of any format that has values of its own (R23 to R25, R28). -/
def unpackVal (f : Fmt) (bits : Nat) : FVal :=
  match f with
  | .int8 => intVal (signedOf 8 bits)
  | .int32 => intVal (signedOf 32 bits)
  | .e8m0 => if bits % 256 == 255 then .nan false 0x400000 else .fin false 1 (((bits % 256 : Nat) : Int) - 127)
  | _ => unpackFloat f bits

/-- A signalling NaN (R25). -/
def isSNaN (x : FVal) : Bool :=
  match x with
  | .nan _ pay => decide (pay < 0x400000)
  | _ => false

def isNaN (x : FVal) : Bool :=
  match x with
  | .nan _ _ => true
  | _ => false

/-- A NaN in a format: quieted, its sign and truncated payload kept, but canonical with that sign in the 8-bit formats
(R26). -/
def packNaN (f : Fmt) (neg : Bool) (pay : Nat) : Nat :=
  match f with
  | .e4m3 => signBit f neg + fmtNaN f
  | .e5m2 => signBit f neg + fmtNaN f
  | _ =>
    let q := 2 ^ (fmtMan f - 1)
    let top := pay / 2 ^ (23 - fmtMan f)
    signBit f neg + (2 ^ fmtExp f - 1) * 2 ^ fmtMan f + q + top % q

/-- An infinity in a format; E4M3 has none and takes its largest value (R34). -/
def packInf (f : Fmt) (neg : Bool) : Nat :=
  if f == .e4m3 then signBit f neg + fmtMax f else signBit f neg + (2 ^ fmtExp f - 1) * 2 ^ fmtMan f

/-! ### Rounding (R33 to R35) -/

/-- The magnitude m × 2^e as a whole number of 2^q, rounded, and whether it differs (R33, R35). -/
def roundUnits (r : Rounding) (neg : Bool) (m : Nat) (e q : Int) : Nat × Bool :=
  if q ≤ e then (m * 2 ^ (e - q).toNat, false)
  else
    let w := 2 ^ (q - e).toNat
    let t := m / w
    let rem := m % w
    let up :=
      match r.mode with
      | .rne => decide (w < 2 * rem) || (2 * rem == w && t % 2 == 1)
      | .rz => false
      | .ru => !neg && rem != 0
      | .rd => neg && rem != 0
      | .sr => decide (65536 ≤ rem * 65536 / w + r.rnd)
    (if up then t + 1 else t, rem != 0)

/-- What an overflow delivers (R34). -/
def overflowBits (f : Fmt) (r : Rounding) (neg : Bool) : Nat :=
  let max := signBit f neg + fmtMax f
  if f == .e4m3 || r.sat then max
  else
    match r.mode with
    | .rne => packInf f neg
    | .rz => max
    | .ru => if neg then max else packInf f neg
    | .rd => if neg then packInf f neg else max
    | .sr => packInf f neg

/-- Round(x, F, m) of R33 for x = ±m × 2^e: the pattern and the flags (R30, R33, R34). -/
def roundTo (f : Fmt) (r : Rounding) (neg : Bool) (m : Nat) (e : Int) : Nat × Flags :=
  if m == 0 then (signBit f neg, 0#6)
  else
    let man := fmtMan f
    let emin : Int := 1 - (fmtBias f : Int)
    let top : Int := (Nat.log2 m : Int) + e
    let q := max (top - man) (emin - man)
    let (t, inexact) := roundUnits r neg m e q
    -- the exponent field of a normal result; a carry into the next binade adds one by itself
    let field := (q + man + fmtBias f).toNat
    let pat := if t < 2 ^ man then t else field * 2 ^ man + (t - 2 ^ man)
    let carry := (roundUnits r neg m e (top - man)).1 == 2 ^ (man + 1)
    let tiny := decide (top < emin) && !(carry && top == emin - 1)
    if fmtMax f < pat then (overflowBits f r neg, flagOF ||| flagNX)
    else
      (signBit f neg + pat,
        (if inexact then flagNX else 0#6) ||| (if inexact && tiny then flagUF else 0#6))

/-- Rounds an unpacked value that is no NaN; an infinity passes without a flag (R34). -/
def roundVal (f : Fmt) (r : Rounding) (x : FVal) : Nat × Flags :=
  match x with
  | .nan neg pay => (packNaN f neg pay, 0#6)
  | .inf neg => (packInf f neg, 0#6)
  | .fin neg m e => roundTo f r neg m e

/-- The NaN rule of R26 over operands in order: the first NaN quieted, with NV for a signalling operand. -/
def nanRule (f : Fmt) (ops : List FVal) : Option (Nat × Flags) :=
  let nv := if ops.any isSNaN then flagNV else 0#6
  match ops.find? isNaN with
  | some (.nan neg pay) => some (packNaN f neg pay, nv)
  | _ => none

/-- What an invalid operation delivers (R26). -/
def invalidResult (f : Fmt) : Nat × Flags := (fmtNaN f, flagNV)

/-! ### Exact arithmetic -/

/-- The signed significand of a finite value at exponent `e'`, for `e' ≤ e`. -/
def scaledTo (neg : Bool) (m : Nat) (e e' : Int) : Int :=
  let v : Int := (m * 2 ^ (e - e').toNat : Nat)
  if neg then -v else v

def negVal (x : FVal) : FVal :=
  match x with
  | .nan n p => .nan n p
  | .inf n => .inf (!n)
  | .fin n m e => .fin (!n) m e

/-- The exact sum of two values that are no NaN; none when the operation is invalid. The sign of an exact zero sum follows
R201, `rd` saying that the mode is RD. -/
def addVal (rd : Bool) (x y : FVal) : Option FVal :=
  match x, y with
  | .inf a, .inf b => if a == b then some (.inf a) else none
  | .inf a, .fin _ _ _ => some (.inf a)
  | .fin _ _ _, .inf b => some (.inf b)
  | .fin a m e, .fin b n k =>
    let e' := min e k
    let v := scaledTo a m e e' + scaledTo b n k e'
    if v == 0 then some (.fin (if a == b && m == 0 && n == 0 then a else rd) 0 e')
    else some (.fin (decide (v < 0)) v.natAbs e')
  | _, _ => none

/-- The exact product of two values that are no NaN; none for 0 × ∞. -/
def mulVal (x y : FVal) : Option FVal :=
  match x, y with
  | .inf a, .inf b => some (.inf (a != b))
  | .inf a, .fin b m _ => if m == 0 then none else some (.inf (a != b))
  | .fin a m _, .inf b => if m == 0 then none else some (.inf (a != b))
  | .fin a m e, .fin b n k => some (.fin (a != b) (m * n) (e + k))
  | _, _ => none

/-- FADD, FSUB of R201 in a format. -/
def addBits (f : Fmt) (r : Rounding) (sub : Bool) (a b : Nat) : Nat × Flags :=
  let x := unpackFloat f a
  let y := unpackFloat f b
  match nanRule f [x, y] with
  | some n => n
  | none =>
    match addVal (r.mode == .rd) x (if sub then negVal y else y) with
    | some v => roundVal f r v
    | none => invalidResult f

/-- FMUL of R201 in a format. -/
def mulBits (f : Fmt) (r : Rounding) (a b : Nat) : Nat × Flags :=
  let x := unpackFloat f a
  let y := unpackFloat f b
  match nanRule f [x, y] with
  | some n => n
  | none =>
    match mulVal x y with
    | some v => roundVal f r v
    | none => invalidResult f

/-- FFMA of R201: a × b + c with one rounding; 0 × ∞ sets NV even when c is a quiet NaN. -/
def fmaBits (f : Fmt) (r : Rounding) (a b c : Nat) : Nat × Flags :=
  let x := unpackFloat f a
  let y := unpackFloat f b
  let z := unpackFloat f c
  match nanRule f [x, y] with
  | some n => (n.1, n.2 ||| (if isSNaN z then flagNV else 0#6))
  | none =>
    match mulVal x y with
    | none =>
      match nanRule f [z] with
      | some n => (n.1, n.2 ||| flagNV)
      | none => invalidResult f
    | some p =>
      match nanRule f [z] with
      | some n => n
      | none =>
        match addVal (r.mode == .rd) p z with
        | some v => roundVal f r v
        | none => invalidResult f

/-- RoundNE(x + y) on FP32 patterns (R33, R45). -/
def addNE (a b : Word) : Word × Flags :=
  let p := addBits .fp32 rneRounding false a.toNat b.toNat
  (BitVec.ofNat 32 p.1, p.2)

/-- RoundNE(x × y) on FP32 patterns. -/
def mulNE (a b : Word) : Word × Flags :=
  let p := mulBits .fp32 rneRounding a.toNat b.toNat
  (BitVec.ofNat 32 p.1, p.2)

/-- FSCALE of R201: x × 2^n; zeros, infinities and NaNs do not read n. -/
def scaleBits (r : Rounding) (a : Nat) (n : Int) : Nat × Flags :=
  let x := unpackFloat .fp32 a
  match nanRule .fp32 [x] with
  | some v => v
  | none =>
    match x with
    | .fin neg m e => if m == 0 then (a, 0#6) else roundTo .fp32 r neg m (e + n)
    | _ => (a, 0#6)

/-- Numerical order of two values that are no NaN, −0 equal to +0: -1, 0 or 1. -/
def cmpVal (x y : FVal) : Int :=
  match x, y with
  | .inf a, .inf b => if a == b then 0 else if a then -1 else 1
  | .inf a, _ => if a then -1 else 1
  | _, .inf b => if b then 1 else -1
  | .fin a m e, .fin b n k =>
    let e' := min e k
    let d := scaledTo a m e e' - scaledTo b n k e'
    if d < 0 then -1 else if d == 0 then 0 else 1
  | _, _ => 0

/-- ToKey of R40. -/
def toKey (b : Word) : Word := b ^^^ (if b.msb then 0xFFFFFFFF#32 else 0x80000000#32)

/-- FMINT and FMAXT (R202): the operand of smaller or larger key, A on equal keys. -/
def minKey (a b : Word) : Word := if (toKey b).toNat < (toKey a).toNat then b else a
def maxKey (a b : Word) : Word := if (toKey a).toNat < (toKey b).toNat then b else a

/-- FMIN and FMAX of R202 in a format, `wantMax` choosing the larger. -/
def minMaxBits (f : Fmt) (wantMax : Bool) (a b : Nat) : Nat × Flags :=
  let x := unpackFloat f a
  let y := unpackFloat f b
  let nv := if isSNaN x || isSNaN y then flagNV else 0#6
  if isNaN x && isNaN y then
    match nanRule f [x, y] with
    | some v => v
    | none => invalidResult f
  else if isNaN x then (b, nv)
  else if isNaN y then (a, nv)
  else
    let c := cmpVal x y
    -- zeros of two signs compare equal; −0 counts as the smaller (R202)
    let aLess := decide (c < 0) || (c == 0 && bitOf a (fmtExp f + fmtMan f))
    (if wantMax then (if aLess then b else a) else if aLess then a else b, nv)

/-- FCLASS of R204. -/
def classBits (a : Nat) : Nat :=
  match unpackFloat .fp32 a with
  | .nan _ pay => if pay < 0x400000 then 0x100 else 0x200
  | .inf neg => if neg then 0x1 else 0x80
  | .fin neg m _ =>
    if m == 0 then (if neg then 0x8 else 0x10)
    else if m < 2 ^ 23 then (if neg then 0x4 else 0x20)
    else if neg then 0x2 else 0x40

/-- A condition of FCMP (R203) and its flag; condition codes 8 to 15 are reserved and never reach here. -/
def fcmpBits (cc : Nat) (a b : Nat) : Bool × Flags :=
  let x := unpackFloat .fp32 a
  let y := unpackFloat .fp32 b
  let un := isNaN x || isNaN y
  let ordering := decide (2 ≤ cc ∧ cc ≤ 5)
  let nv := if isSNaN x || isSNaN y || (ordering && un) then flagNV else 0#6
  let c := cmpVal x y
  let res :=
    match cc with
    | 0 => !un && c == 0
    | 1 => un || c != 0
    | 2 => !un && decide (c < 0)
    | 3 => !un && decide (c ≤ 0)
    | 4 => !un && decide (0 < c)
    | 5 => !un && decide (0 ≤ c)
    | 6 => un
    | _ => !un
  (res, nv)

/-! ### Conversions (R28, R36, R37) -/

/-- Bounds of an integer format. -/
def intLo (f : Fmt) : Int := if f == .int8 then -128 else -2147483648
def intHi (f : Fmt) : Int := if f == .int8 then 127 else 2147483647

/-- Two's complement pattern of an integer in an integer format. -/
def packInt (f : Fmt) (x : Int) : Nat := wrapNat (fmtBits f) x

/-- A value that is no NaN to E8M0 (R28). Zero is finite and no power of two, so that it sets NX beside UF (log entry 39). -/
def toE8M0 (x : FVal) : Nat × Flags :=
  match x with
  | .fin _ m e =>
    if m == 0 then (0, flagNX ||| flagUF)
    else
      let fl : Int := (Nat.log2 m : Int) + e
      let nx := if m == 2 ^ Nat.log2 m then 0#6 else flagNX
      if fl < -127 then (0, nx ||| flagUF) else ((min fl 127 + 127).toNat, nx)
  | _ => (255, flagNV)

/-- The magnitude rounded to an integer, with its sign, and whether it changed. -/
def roundInt (r : Rounding) (neg : Bool) (m : Nat) (e : Int) : Int × Bool :=
  let (t, inexact) := roundUnits r neg m e 0
  (if neg then -(t : Int) else (t : Int), inexact)

/-- A clamp into an integer format. -/
def clampInt (f : Fmt) (x : Int) : Int := max (intLo f) (min x (intHi f))

/-- A floating-point value to an integer format without a tile scale (R36). -/
def floatToInt (f : Fmt) (r : Rounding) (x : FVal) : Nat × Flags :=
  match x with
  | .nan _ _ => (0, flagNV)
  | .inf neg => (packInt f (if neg then intLo f else intHi f), flagNV)
  | .fin neg m e =>
    let (v, inexact) := roundInt r neg m e
    if v == clampInt f v then (packInt f v, if inexact then flagNX else 0#6)
    else (packInt f (clampInt f v), flagNV)

/-- A value, no longer signalling, to a format (R36). -/
def valToFmt (f : Fmt) (r : Rounding) (x : FVal) : Nat × Flags :=
  match f with
  | .int8 => floatToInt .int8 r x
  | .int32 => floatToInt .int32 r x
  | .e8m0 => toE8M0 x
  | _ =>
    match x with
    | .inf neg => if f == .e4m3 || r.sat then (signBit f neg + fmtMax f, flagOF) else (packInf f neg, 0#6)
    | _ => roundVal f r x

/-- The conversion of R36 without a scale. A pair of equal formats is the identity. -/
def convBits (fa fd : Fmt) (r : Rounding) (bits : Nat) : Nat × Flags :=
  if fa == fd then (bits % 2 ^ fmtBits fa, 0#6)
  else
    match fa, fd with
    | .int32, .int8 =>
      let v := signedOf 32 bits
      (packInt .int8 (clampInt .int8 v), if v == clampInt .int8 v then 0#6 else flagOF)
    | .int8, .int32 => (packInt .int32 (signedOf 8 bits), 0#6)
    | _, _ =>
      let x := unpackVal fa bits
      let p := valToFmt fd r x
      (p.1, p.2 ||| (if isSNaN x then flagNV else 0#6))

/-- The value x × s of R37; none for the product 0 × ∞ and for NaN operands, whose NaN the flags and `nanRule` give. -/
def scaleVal (x s : FVal) : Option FVal := if isNaN x || isNaN s then none else mulVal x s

/-- The conversion of R36 and R37 under a tile scale given as an FP32 pattern; a scale of exactly 1.0 applies none. -/
def convScaled (fa fd : Fmt) (r : Rounding) (scale : Word) (bits : Nat) : Nat × Flags :=
  if scale == 0x3F800000#32 then convBits fa fd r bits
  else
    let x := unpackVal fa bits
    let s := unpackFloat .fp32 scale.toNat
    let isInt := fd == .int8 || fd == .int32
    let snan := if isSNaN x || isSNaN s then flagNV else 0#6
    match scaleVal x s with
    | none =>
      if isInt then (0, flagNV)
      else
        match nanRule fd [x, s] with
        | some n => n
        | none => invalidResult fd
    | some v =>
      if isInt then
        match v with
        | .inf neg => (packInt fd (if neg then intLo fd else intHi fd), flagOF)
        | .fin neg m e =>
          let (k, inexact) := roundInt r neg m e
          (packInt fd (clampInt fd k),
            (if inexact then flagNX else 0#6) ||| (if k == clampInt fd k then 0#6 else flagOF))
        | .nan _ _ => (0, flagNV)
      else
        let p := valToFmt fd r v
        (p.1, p.2 ||| snan)

/-- Widening to FP32 (R36, R27, R28): exact, a signalling NaN quieted with NV. CB4 codes go through their codebook first. -/
def toFP32 (f : Fmt) (bits : Nat) : Word × Flags :=
  let p := convBits f .fp32 rneRounding bits
  (BitVec.ofNat 32 p.1, p.2)

/-- The widening of R40: exact, payload in the top mantissa bits, nothing quieted. -/
def widen16 (f : Fmt) (bits : Nat) : Word :=
  match unpackFloat f bits with
  | .nan neg pay => BitVec.ofNat 32 (signBit .fp32 neg + 0x7F800000 + pay)
  | .inf neg => BitVec.ofNat 32 (packInf .fp32 neg)
  | .fin neg m e => BitVec.ofNat 32 (roundTo .fp32 rneRounding neg m e).1

/-! ### Block quantisation (R38) -/

/-- floor(log2 |x|) of a finite non-zero value. -/
def floorLog2 (m : Nat) (e : Int) : Int := (Nat.log2 m : Int) + e

/-- The largest magnitude of a list of values that are no NaN and no infinity, as (m, e); m is 0 when all are zero. -/
def amaxVal : List FVal → Nat × Int
  | [] => (0, 0)
  | .fin _ m e :: xs =>
    let (n, k) := amaxVal xs
    if cmpVal (.fin false n k) (.fin false m e) < 0 then (m, e) else (n, k)
  | _ :: xs => amaxVal xs

/-- Quantises the present elements of a block to E4M3 or E5M2 (R38): the code, the elements in order, and the flags.
Element i is rounded with `r i`. The values are those of R37, after any tile scale. -/
def quantBlock (f : Fmt) (r : Nat → Rounding) (xs : List FVal) : Nat × List Nat × Flags :=
  let neg (x : FVal) : Bool :=
    match x with
    | .nan n _ => n
    | .inf n => n
    | .fin n _ _ => n
  if xs.any (fun x => isNaN x || (match x with | .inf _ => true | _ => false)) then
    (255, xs.map (fun x => signBit f (neg x) + fmtNaN f), flagNV)
  else
    let (m, e) := amaxVal xs
    if m == 0 then (0, xs.map (fun x => signBit f (neg x)), 0#6)
    else
      let emax : Int := if f == .e4m3 then 8 else 15
      let ex := floorLog2 m e - emax
      let s := max (-127) (min ex 127)
      let outs := xs.mapIdx fun i x =>
        match x with
        | .fin n m e => roundTo f (r i) n m (e - s)
        | _ => (0, 0#6)
      ((s + 127).toNat, outs.map (·.1),
        (if ex < -127 then flagUF else 0#6) ||| outs.foldl (fun a p => a ||| p.2) 0#6)

/-- A decoded block element: element × 2^(code − 127) × scale, exact; a code of 0xFF makes it NaN (R38). -/
def blockVal (f : Fmt) (code bits : Nat) : FVal :=
  if code == 255 then .nan false 0x400000
  else
    match unpackFloat f bits with
    | .fin n m e => .fin n m (e + code - 127)
    | v => v

/-! ### The grain generator (R39) -/

/-- One of the three rounds of R39. -/
def grainRound (x : DWord) : DWord :=
  let x := (x ^^^ (x >>> 31)) * 0xA3C59AC25F1B6D27#64
  let x := (x ^^^ (x >>> 27)) * 0x8F3ED5B12C497A63#64
  x ^^^ (x >>> 33)

/-- The grain generator of R39. -/
def grain (row col : Word) (seed : DWord) : DWord :=
  grainRound (grainRound (grainRound ((row ++ col) ^^^ seed)))

/-- The 16-bit draw for stochastic rounding (R39). -/
def grainDraw (row col : Word) (seed : DWord) : Nat :=
  ((grain row col (seed ^^^ 0x8000000000000000#64)).extractLsb' 48 16).toNat

/-- Whether dropout keeps an element (R39). -/
def grainKeeps (row col : Word) (seed : DWord) (thresh : Nat) : Bool :=
  decide (thresh ≤ ((grain row col seed).extractLsb' 40 24).toNat)

end Sys2Proof.Machine
end

