-- ==== Sys2Proof/WellFormed.lean ====
section
/-!
DEFINITION. Well-formedness of an instruction: the part of step 4 of R57 that the word alone decides (R50, R54 and the
register classes and ranges each instruction's entry gives). What depends on the issuing team's role, its declared
registers, its group's queues or its kernel's entry table is in Machine/Operands.lean.
-/

namespace Sys2Proof

/-- A register field that names an s register (R51). -/
def isS (f : RegField) : Bool := decide (96 ≤ f.toNat)

/-- A register field that names an a register of an ACCESS team (R51). -/
def isA (f : RegField) : Bool := decide (f.toNat ≤ 63)

/-- A tile field in range (R54). -/
def isTile (f : RegField) : Bool := decide (f.toNat ≤ 15)

/-- A status spec: 0, or 0x80 plus the field value of an s register (R230). -/
def statusSpecOk (i : BitVec 8) : Bool := i == 0 || decide (224 ≤ i.toNat)

/-- The state-register indices of R108. -/
def stateRegAssigned (n : Nat) : Bool :=
  decide (n ≤ 0x1D) || decide (0x20 ≤ n ∧ n ≤ 0x24) || n == 0x28 || n == 0x29

/-- The state registers that R108 marks RW. -/
def stateRegWritable (n : Nat) : Bool :=
  decide (0x0B ≤ n ∧ n ≤ 0x0D) || n == 0x10 || decide (0x13 ≤ n ∧ n ≤ 0x15) || n == 0x17 ||
    decide (0x18 ≤ n ∧ n ≤ 0x1D) || decide (0x20 ≤ n ∧ n ≤ 0x23)

/-- The checks of R57 step 4 that the word alone decides. An event is always well formed. -/
def Instr.wellFormed : Instr → Bool
  | .nop => true
  | .trap _ => true
  | .tret => true
  | .rds _ i => stateRegAssigned i.toNat
  | .wrs _ i => stateRegAssigned i.toNat && stateRegWritable i.toNat
  | .rdclk _ => true
  | .bkpt _ => true
  | .ifc _ _ => true
  | .elsec _ => true
  | .endifc => true
  | .loopc _ => true
  | .breakc _ _ => true
  | .contc _ _ => true
  | .endl _ => true
  | .jmp _ _ => true
  | .callc _ => true
  | .retc => true
  | .exitc _ => true
  | .yield => true
  | .hloop _ _ => true
  | .hloops _ _ => true
  | .hbrk _ => true
  | .iadd _ _ _ => true
  | .isub _ _ _ => true
  | .imul _ _ _ => true
  | .imulh _ _ _ => true
  | .imulhn _ _ _ => true
  | .imin _ _ _ => true
  | .imax _ _ _ => true
  | .nmin _ _ _ => true
  | .nmax _ _ _ => true
  | .iand _ _ _ => true
  | .ior _ _ _ => true
  | .ixor _ _ _ => true
  | .andn _ _ _ => true
  | .shl _ _ _ => true
  | .shr _ _ _ => true
  | .sar _ _ _ => true
  | .iabs _ _ => true
  | .ineg _ _ => true
  | .inot _ _ => true
  | .popc _ _ => true
  | .clz _ _ => true
  | .brev _ _ => true
  | .bfe _ _ _ => true
  | .bfi _ _ _ => true
  | .isel _ _ p => decide (p.toNat ≤ 7)
  | .icmp c _ _ _ => decide (c.toNat ≤ 9)
  | .movc _ _ => true
  | .imad _ _ _ => true
  | .iaddi _ _ _ => true
  | .andi _ _ _ => true
  | .ori _ _ _ => true
  | .xori _ _ _ => true
  | .shli _ _ _ => true
  | .shri _ _ _ => true
  | .sari _ _ _ => true
  | .icmpi c _ _ _ => decide (c.toNat ≤ 9)
  | .movi _ _ => true
  | .aadd _ _ _ => true
  | .asub _ _ _ => true
  | .amov _ a b => isS a && isS b
  | .acvt _ _ k => decide (k.toNat ≤ 5)
  | .acmp c _ _ _ => decide (c.toNat ≤ 9)
  | .slice d a k => isA d && isA a && decide (k.toNat ≤ 2)
  | .ashladd _ _ _ h => decide (h ≠ 0)
  | .fadd _ _ _ => true
  | .fsub _ _ _ => true
  | .fmul _ _ _ => true
  | .ffma _ _ _ => true
  | .fmin _ _ _ => true
  | .fmax _ _ _ => true
  | .fmint _ _ _ => true
  | .fmaxt _ _ _ => true
  | .fabs _ _ => true
  | .fneg _ _ => true
  | .fcmp c _ _ _ => decide (c.toNat ≤ 7)
  | .fclass _ _ => true
  | .fscale _ _ _ => true
  | .fsel _ _ p => decide (p.toNat ≤ 7)
  | .hadd2 _ _ _ _ => true
  | .hsub2 _ _ _ _ => true
  | .hmul2 _ _ _ _ => true
  | .hfma2 _ _ _ _ => true
  | .hmax2 _ _ _ _ => true
  | .hmin2 _ _ _ _ => true
  | .rcp _ _ => true
  | .rsq _ _ => true
  | .sqrtc _ _ => true
  | .exp2c _ _ => true
  | .log2c _ _ => true
  | .sinc _ _ => true
  | .cosc _ _ => true
  | .tanhc _ _ => true
  | .erfc _ _ => true
  | .cvt _ _ => true
  | .cvtsr _ _ _ => true
  | .quant _ _ b => isS b
  | .deq _ _ b => isS b
  | .pack _ _ _ => true
  | .unpack _ _ k => decide (k.toNat ≤ 11)
  | .cbld i _ => decide (i.toNat ≤ 7)
  | .tokey _ _ => true
  | .qxch _ _ m => decide (m.toNat ≤ 2)
  | .qbc _ _ k => decide (k.toNat ≤ 3)
  | .shfl _ _ _ => true
  | .shflDn _ _ _ => true
  | .shflUp _ _ _ => true
  | .shflXor _ _ _ => true
  | .sred _ _ _ => true
  | .sscan _ _ _ _ => true
  | .vote _ p b => decide (p.toNat ≤ 7) && isS b
  | .tred _ _ _ => true
  | .tbc _ _ b => isS b
  | .matchx _ _ b => isS b
  | .ld _ _ _ z x => decide (z.toNat ≤ 4) && (x == 0 || decide (z.toNat < 2))
  | .ldAcq _ _ _ z x => decide (z.toNat ≤ 4) && (x == 0 || decide (z.toNat < 2))
  | .ldPoll _ _ _ _ => true
  | .pref _ _ => true
  | .ldq _ _ _ z => decide (z.toNat ≤ 4)
  | .ldqg _ _ _ z => decide (z.toNat ≤ 4)
  | .st _ _ _ z => decide (z.toNat ≤ 4)
  | .stRel _ _ _ z => decide (z.toNat ≤ 4)
  | .stq _ _ _ z => decide (z.toNat ≤ 4)
  | .tld _ _ _ => true
  | .tst _ _ _ => true
  | .tldr _ _ _ => true
  | .tstr _ _ _ => true
  | .tbind a _ => isS a
  | .atomAdd d _ _ z => (z == 2 || z == 3) && isA d
  | .atomMinI d _ _ z => (z == 2 || z == 3) && isA d
  | .atomMaxI d _ _ z => (z == 2 || z == 3) && isA d
  | .atomMinN d _ _ z => (z == 2 || z == 3) && isA d
  | .atomMaxN d _ _ z => (z == 2 || z == 3) && isA d
  | .atomAnd d _ _ z => (z == 2 || z == 3) && isA d
  | .atomOr d _ _ z => (z == 2 || z == 3) && isA d
  | .atomXor d _ _ z => (z == 2 || z == 3) && isA d
  | .atomSwap d _ _ z => (z == 2 || z == 3) && isA d
  | .cas d _ _ z => decide (2 ≤ z.toNat ∧ z.toNat ≤ 4) && isA d && decide (d.toNat + (if z = 4 then 3 else 1) ≤ 63)
  | .atomFadd d _ _ => isA d
  | .redAdd _ _ _ z => z == 2 || z == 3
  | .redMinI _ _ _ z => z == 2 || z == 3
  | .redMaxI _ _ _ z => z == 2 || z == 3
  | .redMinN _ _ _ z => z == 2 || z == 3
  | .redMaxN _ _ _ z => z == 2 || z == 3
  | .redAnd _ _ _ z => z == 2 || z == 3
  | .redOr _ _ _ z => z == 2 || z == 3
  | .redXor _ _ _ z => z == 2 || z == 3
  | .redFadd _ _ _ => true
  | .atomtAdd _ _ _ => true
  | .atomtMinI _ _ _ => true
  | .atomtMaxI _ _ _ => true
  | .atomtMinN _ _ _ => true
  | .atomtMaxN _ _ _ => true
  | .atomtAnd _ _ _ => true
  | .atomtOr _ _ _ => true
  | .atomtXor _ _ _ => true
  | .atomtSwap _ _ _ => true
  | .atomtFadd _ _ _ => true
  | .atomtMaxpk _ _ _ => true
  | .castt _ _ _ => true
  | .fenceL => true
  | .fenceH => true
  | .fenceE => true
  | .acqc => true
  | .relc => true
  | .bar => true
  | .barE => true
  | .barCarve d a => isS d && isS a
  | .boinit d a b => isS d && isS a && decide (b.toNat ≤ 31)
  | .boexp d a b => isS d && isS a && decide (b.toNat ≤ 31)
  | .boarr d a b => isS d && isS a && decide (b.toNat ≤ 31)
  | .bowait a b => isS a && decide (b.toNat ≤ 31)
  | .botest d a b => isS d && isS a && decide (b.toNat ≤ 31)
  | .qpush _ _ i => statusSpecOk i
  | .qpop _ _ i => statusSpecOk i
  | .qtry _ _ i => statusSpecOk i && i != 0
  | .qpeek _ _ i => statusSpecOk i
  | .qmarkSeg d _ i => isS d && statusSpecOk i
  | .qmarkEos _ i => statusSpecOk i
  | .qclose _ => true
  | .qflush d _ => isS d
  | .qstat d _ k => isS d && decide (k.toNat ≤ 2)
  | .cpy a b => isA a && isA b
  | .cpym d a b => isS d && isA a && isA b
  | .cpys a b => isA a && isA b
  | .cbatch d => isS d
  | .cwait d a => isS d && isS a
  | .hdef d a b => isS d && isA a && isS b
  | .fetch t a b => isTile t && isS a && isS b
  | .fetchx t a b => isTile t && !(isS a) && isS b
  | .finv d b => isS d && isS b
  | .mtask d a => isS d && isS a
  | .mwait d a => isS d && isS a
  | .mstat d a k => isS d && isS a && decide (k.toNat ≤ 2)
  | .mcancel d a => isS d && isS a
  | .wstore d a l => isTile d && isTile a && decide (1 ≤ l.toNat ∧ l.toNat ≤ 6)
  | .wrec d a => isTile d && isTile a
  | .wtag d a => isS d && isTile a
  | .wth d a => isTile d && isTile a
  | .tvadd d a b => isTile d && isTile a && isTile b
  | .tvsub d a b => isTile d && isTile a && isTile b
  | .tvmulc d a b => isTile d && isTile a && isS b
  | .tvaxpy d a b => isTile d && isTile a && isS b
  | .tvbias d a b => isTile d && isTile a && isTile b
  | .tvact d a k => isTile d && isTile a && decide (k.toNat ≤ 5)
  | .tvnorm d a b => isTile d && isTile a && isS b
  | .tvnormRms d a b => isTile d && isTile a && isS b
  | .tvsmax d a b => isTile d && isTile a && isS b
  | .tvcvt d a => isTile d && isTile a
  | .treg d a t => isS d && isS a && decide (a.toNat ≤ 126) && isTile t
  | .tdereg d t => isS d && isTile t
  | .tmove d b t => isS d && isS b && isTile t
  | .solicit d a => isS d && isS a
  | .respond a => !(isS a)
  | .census d a k => isS d && isS a && decide (k.toNat ≤ 2)
  | .cres d a k => isS d && isS a && decide (k.toNat ≤ 68)
  | .slotget d a => isS d && isS a
  | .slotref d a k => isS d && isS a && decide (k.toNat ≤ 3)
  | .slotrel d a => isS d && isS a
  | .rtstage d a b => isS d && isA a && isS b
  | .rtlook d a b => isS d && isS a && isS b
  | .rtlookAdm d a => isS d && isS a
  | .grec d a b => isA d && isA a && isS b
  | .gcond a b => isS a && isS b
  | .gdone => true
  | .gflush d b => isS d && isS b
  | .rread _ _ _ z => decide (z.toNat ≤ 4)
  | .rwrite _ _ _ _ => true
  | .ratomAdd _ _ _ => true
  | .ratomCas d _ => decide (d.toNat ≤ 62)
  | .rfence d => isS d
  | .ovload d _ => isS d
  | .ovwait d _ => isS d
  | .fcall _ => true
  | .spush _ => true
  | .spop _ => true
  | .salloc _ => true
  | .hintImm _ => true
  | .hintStall _ _ _ _ _ => true
  | .hintMod r c _ => decide (r.toNat ≤ 5) && decide (c.toNat ≤ 4)
  | .hintFmt a b d _ _ x => decide (a.toNat ≤ 9) && decide (b.toNat ≤ 9) && decide (d.toNat ≤ 9) && decide (x.toNat ≤ 1)
  | .createContext .. => true
  | .destroy .. => true
  | .preempt .. => true
  | .kernelLaunch .. => true
  | .graphLaunch .. => true
  | .imageLoad .. => true
  | .keyInstall .. => true
  | .groupTableWrite .. => true
  | .shootdown .. => true
  | .answerRecord .. => true
  | .pageEngineRegister .. => true
  | .clearfail .. => true
  | .testMode .. => true
  | .partitionReset .. => true
  | .fullDeviceReset .. => true
  | .resetRelease .. => true
  | .startTimeout .. => true
  | .firmwareUpload .. => true
  | .antiRollbackBlow .. => true
  | .powerCap .. => true
  | .replanCommand .. => true
  | .replanPeriod .. => true
  | .portEnable .. => true
  | .portDisable .. => true
  | .portTrained .. => true
  | .linkLoss .. => true
  | .peerTableWrite .. => true
  | .jobRegister .. => true
  | .drowsyDisable .. => true
  | .registerWrite .. => true
  | .getVersion .. => true
  | .getCapabilities .. => true
  | .negotiateAlgorithms .. => true
  | .getDigests .. => true
  | .getCertificate .. => true
  | .spdmChallenge .. => true
  | .getMeasurements .. => true
  | .keyExchange .. => true
  | .spdmFinish .. => true
  | .hostLinkDown .. => true
  | .correctableError .. => true
  | .uncorrectableError .. => true
  | .scrub .. => true
  | .thermalThrottle .. => true
  | .thermalTrip .. => true
  | .translationFault .. => true
  | .pageRequest .. => true
  | .expansionDone .. => true
  | .ageingPeriod .. => true
  | .compressVictim .. => true
  | .variableResultReturn .. => true
  | .queueEntryComplete .. => true
  | .pollWake .. => true
  | .pollTimeout .. => true
  | .copyStart .. => true
  | .copyPiece .. => true
  | .fetchRow .. => true
  | .cardStart .. => true
  | .broadcastMatch .. => true
  | .peerMatch .. => true
  | .cardComplete .. => true
  | .censusSnapshot .. => true
  | .responderStart .. => true
  | .censusClose .. => true
  | .censusWaitExpire .. => true
  | .overlayLoadDone .. => true
  | .phaseStart .. => true
  | .groupPlace .. => true
  | .groupStart .. => true
  | .groupRetire .. => true
  | .flushTimerExpire .. => true
  | .preemptionDecision .. => true
  | .saveComplete .. => true
  | .resume .. => true
  | .watchdog .. => true
  | .qdeadlock .. => true
  | .remoteReadRequest .. => true
  | .remoteWriteRequest .. => true
  | .remoteAtomicRequest .. => true
  | .remoteResponse .. => true
  | .remoteTimeout .. => true
  | .bankDrowsy .. => true
  | .bankWake .. => true
  | .homeSliceAccept .. => true
  | .hostMemoryRequest .. => true
  | .powerLoss .. => true
  | .sharedTableInstall .. => true
  | .partitionModeWrite .. => true
  | .repairMapWrite .. => true
  | .rollbackFloorRaise .. => true
  | .tmoveComplete .. => true

end Sys2Proof
end

