-- ==== Sys2Proof/Decode.lean ====
section
/-!
DEFINITION. Decoding an instruction word (R46 to R49, R55, R57 steps 1 to 3) and encoding an instruction. A word's switch
marker takes no part in decoding, but for a HINT word, where it must be zero (R47). Every other word is rejected by name.
-/

namespace Sys2Proof

/-- Why a word is no instruction: the step of R57 that it fails, or too few bytes. -/
inductive DecodeError where
  /-- MAJ is reserved (R57 step 1). -/
  | reservedMajor
  /-- The FN, OP, SUB or KIND value is unassigned (R57 step 2). -/
  | unassigned
  /-- A must-be-zero or fixed field holds another value, or SW is set in a HINT word (R57 step 3). -/
  | fixedField
  /-- Fewer than four bytes are left. -/
  | tooShort
  deriving DecidableEq, Repr

/-! ### Fields of the formats (R48) -/

/-- SW, the switch marker (R47). -/
def fSw (w : Word) : Bool := w.getLsbD 31

/-- MAJ, the major opcode (R46). -/
def fMaj (w : Word) : BitVec 6 := w.extractLsb' 25 6

/-- Bits [24:18] of a word (R48). -/
def fD (w : Word) : BitVec 7 := w.extractLsb' 18 7

/-- Bits [17:11] of a word (R48). -/
def fA (w : Word) : BitVec 7 := w.extractLsb' 11 7

/-- Bits [10:4] of a word (R48). -/
def fB (w : Word) : BitVec 7 := w.extractLsb' 4 7

/-- Bits [3:0] of a word (R48). -/
def fFn (w : Word) : BitVec 4 := w.extractLsb' 0 4

/-- Bits [10:8] of a word (R48). -/
def fSub (w : Word) : BitVec 3 := w.extractLsb' 8 3

/-- Bits [7:0] of a word (R48). -/
def fImm8 (w : Word) : BitVec 8 := w.extractLsb' 0 8

/-- Bits [17:0] of a word (R48). -/
def fImm18 (w : Word) : BitVec 18 := w.extractLsb' 0 18

/-- Bits [24:21] of a word (R48). -/
def fOp (w : Word) : BitVec 4 := w.extractLsb' 21 4

/-- Bits [20:18] of a word (R48). -/
def fP (w : Word) : BitVec 3 := w.extractLsb' 18 3

/-- Bits [10:7] of a word (R48). -/
def fOff4 (w : Word) : BitVec 4 := w.extractLsb' 7 4

/-- Bits [6:4] of a word (R48). -/
def fSz (w : Word) : BitVec 3 := w.extractLsb' 4 3

/-- Bits [17:14] of a word (R48). -/
def fQ (w : Word) : BitVec 4 := w.extractLsb' 14 4

/-- Bits [13:12] of a word (R48). -/
def fTag (w : Word) : BitVec 2 := w.extractLsb' 12 2

/-- Bits [11:4] of a word (R48). -/
def fQImm (w : Word) : BitVec 8 := w.extractLsb' 4 8

/-- Bits [24:22] of a word (R48). -/
def fKind (w : Word) : BitVec 3 := w.extractLsb' 22 3

/-- Bits [21:0] of a word (R48). -/
def fPay (w : Word) : BitVec 22 := w.extractLsb' 0 22

/-! ### Words of the formats (R48), with SW clear -/

/-- A word of format G3. -/
def wordG3 (maj : BitVec 6) (d : BitVec 7) (a : BitVec 7) (b : BitVec 7) (fn : BitVec 4) : Word := 0#1 ++ maj ++ d ++ a ++ b ++ fn

/-- A word of format G2I. -/
def wordG2i (maj : BitVec 6) (d : BitVec 7) (a : BitVec 7) (sub : BitVec 3) (imm8 : BitVec 8) : Word := 0#1 ++ maj ++ d ++ a ++ sub ++ imm8

/-- A word of format GI. -/
def wordGi (maj : BitVec 6) (d : BitVec 7) (imm18 : BitVec 18) : Word := 0#1 ++ maj ++ d ++ imm18

/-- A word of format C. -/
def wordC (maj : BitVec 6) (op : BitVec 4) (p : BitVec 3) (imm18 : BitVec 18) : Word := 0#1 ++ maj ++ op ++ p ++ imm18

/-- A word of format M. -/
def wordM (maj : BitVec 6) (d : BitVec 7) (a : BitVec 7) (off4 : BitVec 4) (sz : BitVec 3) (fn : BitVec 4) : Word := 0#1 ++ maj ++ d ++ a ++ off4 ++ sz ++ fn

/-- A word of format Q. -/
def wordQ (maj : BitVec 6) (d : BitVec 7) (q : BitVec 4) (tag : BitVec 2) (qimm : BitVec 8) (fn : BitVec 4) : Word := 0#1 ++ maj ++ d ++ q ++ tag ++ qimm ++ fn

/-- A word of format HINT. -/
def wordHint (kind : BitVec 3) (pay : BitVec 22) : Word := 0#1 ++ 63#6 ++ kind ++ pay

/-- Decoding of major 0x01 (R55). -/
def decodeSys (w : Word) : Except DecodeError Instr :=
  match (fSub w).toNat with
  | 0 => if fD w = 0 ∧ fA w = 0 ∧ fImm8 w = 0 then .ok (.nop) else .error .fixedField
  | 1 => if fD w = 0 ∧ fA w = 0 then .ok (.trap (fImm8 w)) else .error .fixedField
  | 2 => if fD w = 0 ∧ fA w = 0 ∧ fImm8 w = 0 then .ok (.tret) else .error .fixedField
  | 3 => if fA w = 0 then .ok (.rds (fD w) (fImm8 w)) else .error .fixedField
  | 4 => if fD w = 0 then .ok (.wrs (fA w) (fImm8 w)) else .error .fixedField
  | 5 => if fA w = 0 ∧ fImm8 w = 0 then .ok (.rdclk (fD w)) else .error .fixedField
  | 6 => if fD w = 0 ∧ fA w = 0 then .ok (.bkpt (fImm8 w)) else .error .fixedField
  | _ => .error .unassigned

/-- Decoding of major 0x02 (R55). -/
def decodeCtl (w : Word) : Except DecodeError Instr :=
  match (fOp w).toNat with
  | 0 => .ok (.ifc (fP w) (fImm18 w))
  | 1 => if fP w = 7 then .ok (.elsec (fImm18 w)) else .error .fixedField
  | 2 => if fP w = 7 ∧ fImm18 w = 0 then .ok (.endifc) else .error .fixedField
  | 3 => if fP w = 7 then .ok (.loopc (fImm18 w)) else .error .fixedField
  | 4 => if (fImm18 w).extractLsb' 8 10 = 0 then .ok (.breakc (fP w) ((fImm18 w).extractLsb' 0 8)) else .error .fixedField
  | 5 => if (fImm18 w).extractLsb' 8 10 = 0 then .ok (.contc (fP w) ((fImm18 w).extractLsb' 0 8)) else .error .fixedField
  | 6 => if fP w = 7 then .ok (.endl (fImm18 w)) else .error .fixedField
  | 7 => .ok (.jmp (fP w) (fImm18 w))
  | 8 => if fP w = 7 then .ok (.callc (fImm18 w)) else .error .fixedField
  | 9 => if fP w = 7 ∧ fImm18 w = 0 then .ok (.retc) else .error .fixedField
  | 10 => if fImm18 w = 0 then .ok (.exitc (fP w)) else .error .fixedField
  | 11 => if fP w = 7 ∧ fImm18 w = 0 then .ok (.yield) else .error .fixedField
  | _ => .error .unassigned

/-- Decoding of major 0x03 (R55). -/
def decodeHlp (w : Word) : Except DecodeError Instr :=
  match (fOp w).toNat with
  | 0 => if fP w = 7 then .ok (.hloop ((fImm18 w).extractLsb' 8 10) ((fImm18 w).extractLsb' 0 8)) else .error .fixedField
  | 1 => if fP w = 7 ∧ (fImm18 w).extractLsb' 13 5 = 0 then .ok (.hloops ((fImm18 w).extractLsb' 8 5) ((fImm18 w).extractLsb' 0 8)) else .error .fixedField
  | 2 => if fImm18 w = 0 then .ok (.hbrk (fP w)) else .error .fixedField
  | _ => .error .unassigned

/-- Decoding of major 0x04 (R55). -/
def decodeIalu (w : Word) : Except DecodeError Instr :=
  match (fFn w).toNat with
  | 0 => .ok (.iadd (fD w) (fA w) (fB w))
  | 1 => .ok (.isub (fD w) (fA w) (fB w))
  | 2 => .ok (.imul (fD w) (fA w) (fB w))
  | 3 => .ok (.imulh (fD w) (fA w) (fB w))
  | 4 => .ok (.imulhn (fD w) (fA w) (fB w))
  | 5 => .ok (.imin (fD w) (fA w) (fB w))
  | 6 => .ok (.imax (fD w) (fA w) (fB w))
  | 7 => .ok (.nmin (fD w) (fA w) (fB w))
  | 8 => .ok (.nmax (fD w) (fA w) (fB w))
  | 9 => .ok (.iand (fD w) (fA w) (fB w))
  | 10 => .ok (.ior (fD w) (fA w) (fB w))
  | 11 => .ok (.ixor (fD w) (fA w) (fB w))
  | 12 => .ok (.andn (fD w) (fA w) (fB w))
  | 13 => .ok (.shl (fD w) (fA w) (fB w))
  | 14 => .ok (.shr (fD w) (fA w) (fB w))
  | 15 => .ok (.sar (fD w) (fA w) (fB w))
  | _ => .error .unassigned

/-- Decoding of major 0x05 (R55). -/
def decodeIalu2 (w : Word) : Except DecodeError Instr :=
  match (fFn w).toNat with
  | 0 => if fB w = 0 then .ok (.iabs (fD w) (fA w)) else .error .fixedField
  | 1 => if fB w = 0 then .ok (.ineg (fD w) (fA w)) else .error .fixedField
  | 2 => if fB w = 0 then .ok (.inot (fD w) (fA w)) else .error .fixedField
  | 3 => if fB w = 0 then .ok (.popc (fD w) (fA w)) else .error .fixedField
  | 4 => if fB w = 0 then .ok (.clz (fD w) (fA w)) else .error .fixedField
  | 5 => if fB w = 0 then .ok (.brev (fD w) (fA w)) else .error .fixedField
  | 6 => .ok (.bfe (fD w) (fA w) (fB w))
  | 7 => .ok (.bfi (fD w) (fA w) (fB w))
  | 8 => .ok (.isel (fD w) (fA w) (fB w))
  | 9 => .ok (.icmp ((fD w).extractLsb' 3 4) ((fD w).extractLsb' 0 3) (fA w) (fB w))
  | 10 => if fB w = 0 then .ok (.movc (fD w) (fA w)) else .error .fixedField
  | 11 => .ok (.imad (fD w) (fA w) (fB w))
  | _ => .error .unassigned

/-- Decoding of major 0x06 (R55). -/
def decodeIalui (w : Word) : Except DecodeError Instr :=
  match (fSub w).toNat with
  | 0 => .ok (.iaddi (fD w) (fA w) (fImm8 w))
  | 1 => .ok (.andi (fD w) (fA w) (fImm8 w))
  | 2 => .ok (.ori (fD w) (fA w) (fImm8 w))
  | 3 => .ok (.xori (fD w) (fA w) (fImm8 w))
  | 4 => .ok (.shli (fD w) (fA w) (fImm8 w))
  | 5 => .ok (.shri (fD w) (fA w) (fImm8 w))
  | 6 => .ok (.sari (fD w) (fA w) (fImm8 w))
  | 7 => .ok (.icmpi ((fD w).extractLsb' 3 4) ((fD w).extractLsb' 0 3) (fA w) (fImm8 w))
  | _ => .error .unassigned

/-- Decoding of major 0x07 (R55). -/
def decodeMovi (w : Word) : Except DecodeError Instr :=
  .ok (.movi (fD w) (fImm18 w))

/-- Decoding of major 0x08 (R55). -/
def decodeAddr (w : Word) : Except DecodeError Instr :=
  match (fFn w).toNat with
  | 0 => .ok (.aadd (fD w) (fA w) (fB w))
  | 1 => .ok (.asub (fD w) (fA w) (fB w))
  | 2 => .ok (.amov (fD w) (fA w) (fB w))
  | 3 => .ok (.acvt (fD w) (fA w) (fB w))
  | 4 => .ok (.acmp ((fD w).extractLsb' 3 4) ((fD w).extractLsb' 0 3) (fA w) (fB w))
  | 5 => .ok (.slice (fD w) (fA w) (fB w))
  | 9 | 10 | 11 | 12 | 13 | 14 | 15 => .ok (.ashladd (fD w) (fA w) (fB w) ((fFn w).extractLsb' 0 3))
  | _ => .error .unassigned

/-- Decoding of major 0x09 (R55). -/
def decodeFpu (w : Word) : Except DecodeError Instr :=
  match (fFn w).toNat with
  | 0 => .ok (.fadd (fD w) (fA w) (fB w))
  | 1 => .ok (.fsub (fD w) (fA w) (fB w))
  | 2 => .ok (.fmul (fD w) (fA w) (fB w))
  | 3 => .ok (.ffma (fD w) (fA w) (fB w))
  | 4 => .ok (.fmin (fD w) (fA w) (fB w))
  | 5 => .ok (.fmax (fD w) (fA w) (fB w))
  | 6 => .ok (.fmint (fD w) (fA w) (fB w))
  | 7 => .ok (.fmaxt (fD w) (fA w) (fB w))
  | 8 => if fB w = 0 then .ok (.fabs (fD w) (fA w)) else .error .fixedField
  | 9 => if fB w = 0 then .ok (.fneg (fD w) (fA w)) else .error .fixedField
  | 10 => .ok (.fcmp ((fD w).extractLsb' 3 4) ((fD w).extractLsb' 0 3) (fA w) (fB w))
  | 11 => if fB w = 0 then .ok (.fclass (fD w) (fA w)) else .error .fixedField
  | 12 => .ok (.fscale (fD w) (fA w) (fB w))
  | 13 => .ok (.fsel (fD w) (fA w) (fB w))
  | _ => .error .unassigned

/-- Decoding of major 0x0A (R55). -/
def decodePk16 (w : Word) : Except DecodeError Instr :=
  match (fFn w).toNat with
  | 0 | 8 => .ok (.hadd2 (fD w) (fA w) (fB w) ((fFn w).extractLsb' 3 1))
  | 1 | 9 => .ok (.hsub2 (fD w) (fA w) (fB w) ((fFn w).extractLsb' 3 1))
  | 2 | 10 => .ok (.hmul2 (fD w) (fA w) (fB w) ((fFn w).extractLsb' 3 1))
  | 3 | 11 => .ok (.hfma2 (fD w) (fA w) (fB w) ((fFn w).extractLsb' 3 1))
  | 4 | 12 => .ok (.hmax2 (fD w) (fA w) (fB w) ((fFn w).extractLsb' 3 1))
  | 5 | 13 => .ok (.hmin2 (fD w) (fA w) (fB w) ((fFn w).extractLsb' 3 1))
  | _ => .error .unassigned

/-- Decoding of major 0x0B (R55). -/
def decodeSfu (w : Word) : Except DecodeError Instr :=
  match (fFn w).toNat with
  | 0 => if fB w = 0 then .ok (.rcp (fD w) (fA w)) else .error .fixedField
  | 1 => if fB w = 0 then .ok (.rsq (fD w) (fA w)) else .error .fixedField
  | 2 => if fB w = 0 then .ok (.sqrtc (fD w) (fA w)) else .error .fixedField
  | 3 => if fB w = 0 then .ok (.exp2c (fD w) (fA w)) else .error .fixedField
  | 4 => if fB w = 0 then .ok (.log2c (fD w) (fA w)) else .error .fixedField
  | 5 => if fB w = 0 then .ok (.sinc (fD w) (fA w)) else .error .fixedField
  | 6 => if fB w = 0 then .ok (.cosc (fD w) (fA w)) else .error .fixedField
  | 7 => if fB w = 0 then .ok (.tanhc (fD w) (fA w)) else .error .fixedField
  | 8 => if fB w = 0 then .ok (.erfc (fD w) (fA w)) else .error .fixedField
  | _ => .error .unassigned

/-- Decoding of major 0x0C (R55). -/
def decodeCvt (w : Word) : Except DecodeError Instr :=
  match (fFn w).toNat with
  | 0 => if fB w = 0 then .ok (.cvt (fD w) (fA w)) else .error .fixedField
  | 1 => .ok (.cvtsr (fD w) (fA w) (fB w))
  | 2 => .ok (.quant (fD w) (fA w) (fB w))
  | 3 => .ok (.deq (fD w) (fA w) (fB w))
  | 4 => .ok (.pack (fD w) (fA w) (fB w))
  | 5 => .ok (.unpack (fD w) (fA w) (fB w))
  | 6 => if fB w = 0 then .ok (.cbld (fD w) (fA w)) else .error .fixedField
  | 7 => if fB w = 0 then .ok (.tokey (fD w) (fA w)) else .error .fixedField
  | _ => .error .unassigned

/-- Decoding of major 0x0D (R55). -/
def decodeXlane (w : Word) : Except DecodeError Instr :=
  match (fFn w).toNat with
  | 0 => .ok (.qxch (fD w) (fA w) (fB w))
  | 1 => .ok (.qbc (fD w) (fA w) (fB w))
  | 2 => .ok (.shfl (fD w) (fA w) (fB w))
  | 3 => if (fB w).extractLsb' 5 2 = 0 then .ok (.shflDn (fD w) (fA w) ((fB w).extractLsb' 0 5)) else if (fB w).extractLsb' 5 2 = 1 then .ok (.shflUp (fD w) (fA w) ((fB w).extractLsb' 0 5)) else if (fB w).extractLsb' 5 2 = 2 then .ok (.shflXor (fD w) (fA w) ((fB w).extractLsb' 0 5)) else .error .fixedField
  | 4 => if (fB w).extractLsb' 3 4 = 0 then .ok (.sred (fD w) (fA w) ((fB w).extractLsb' 0 3)) else .error .fixedField
  | 5 => if (fB w).extractLsb' 4 3 = 0 then .ok (.sscan (fD w) (fA w) ((fB w).extractLsb' 3 1) ((fB w).extractLsb' 0 3)) else .error .fixedField
  | 6 => .ok (.vote (fD w) (fA w) (fB w))
  | 7 => if (fB w).extractLsb' 3 4 = 0 then .ok (.tred (fD w) (fA w) ((fB w).extractLsb' 0 3)) else .error .fixedField
  | 8 => .ok (.tbc (fD w) (fA w) (fB w))
  | 9 => .ok (.matchx (fD w) (fA w) (fB w))
  | _ => .error .unassigned

/-- Decoding of major 0x10 (R55). -/
def decodeLdg (w : Word) : Except DecodeError Instr :=
  match (fFn w).toNat with
  | 0 | 1 => .ok (.ld (fD w) (fA w) (fOff4 w) (fSz w) ((fFn w).extractLsb' 0 1))
  | 2 | 3 => .ok (.ldAcq (fD w) (fA w) (fOff4 w) (fSz w) ((fFn w).extractLsb' 0 1))
  | 4 => if (fSz w).extractLsb' 1 2 = 1 then .ok (.ldPoll (fD w) (fA w) (fOff4 w) ((fSz w).extractLsb' 0 1)) else .error .fixedField
  | 5 => if fD w = 0 ∧ fSz w = 0 then .ok (.pref (fA w) (fOff4 w)) else .error .fixedField
  | 6 => if (fD w).extractLsb' 4 3 = 0 then .ok (.ldq ((fD w).extractLsb' 0 4) (fA w) (fOff4 w) (fSz w)) else .error .fixedField
  | 7 => if (fD w).extractLsb' 4 3 = 0 then .ok (.ldqg ((fD w).extractLsb' 0 4) (fA w) (fOff4 w) (fSz w)) else .error .fixedField
  | _ => .error .unassigned

/-- Decoding of major 0x11 (R55). -/
def decodeStg (w : Word) : Except DecodeError Instr :=
  match (fFn w).toNat with
  | 0 => .ok (.st (fD w) (fA w) (fOff4 w) (fSz w))
  | 1 => .ok (.stRel (fD w) (fA w) (fOff4 w) (fSz w))
  | 2 => if (fD w).extractLsb' 4 3 = 0 then .ok (.stq ((fD w).extractLsb' 0 4) (fA w) (fOff4 w) (fSz w)) else .error .fixedField
  | _ => .error .unassigned

/-- Decoding of major 0x12 (R55). -/
def decodeTld (w : Word) : Except DecodeError Instr :=
  match (fFn w).toNat with
  | 0 => if fSz w = 2 then .ok (.tld (fD w) (fA w) (fOff4 w)) else .error .fixedField
  | 1 => if fSz w = 2 then .ok (.tst (fD w) (fA w) (fOff4 w)) else .error .fixedField
  | 2 => if fSz w = 2 then .ok (.tldr (fD w) (fA w) (fOff4 w)) else .error .fixedField
  | 3 => if fSz w = 2 then .ok (.tstr (fD w) (fA w) (fOff4 w)) else .error .fixedField
  | 4 => if fD w = 0 ∧ fSz w = 0 then .ok (.tbind (fA w) (fOff4 w)) else .error .fixedField
  | _ => .error .unassigned

/-- Decoding of major 0x13 (R55). -/
def decodeAtom (w : Word) : Except DecodeError Instr :=
  match (fFn w).toNat with
  | 0 => if (fOff4 w).extractLsb' 0 2 = 0 then .ok (.atomAdd (fD w) (fA w) ((fOff4 w).extractLsb' 2 2) (fSz w)) else if (fOff4 w).extractLsb' 0 2 = 2 then .ok (.redAdd (fD w) (fA w) ((fOff4 w).extractLsb' 2 2) (fSz w)) else .error .fixedField
  | 1 => if (fOff4 w).extractLsb' 0 2 = 0 then .ok (.atomMinI (fD w) (fA w) ((fOff4 w).extractLsb' 2 2) (fSz w)) else if (fOff4 w).extractLsb' 0 2 = 2 then .ok (.redMinI (fD w) (fA w) ((fOff4 w).extractLsb' 2 2) (fSz w)) else .error .fixedField
  | 2 => if (fOff4 w).extractLsb' 0 2 = 0 then .ok (.atomMaxI (fD w) (fA w) ((fOff4 w).extractLsb' 2 2) (fSz w)) else if (fOff4 w).extractLsb' 0 2 = 2 then .ok (.redMaxI (fD w) (fA w) ((fOff4 w).extractLsb' 2 2) (fSz w)) else .error .fixedField
  | 3 => if (fOff4 w).extractLsb' 0 2 = 0 then .ok (.atomMinN (fD w) (fA w) ((fOff4 w).extractLsb' 2 2) (fSz w)) else if (fOff4 w).extractLsb' 0 2 = 2 then .ok (.redMinN (fD w) (fA w) ((fOff4 w).extractLsb' 2 2) (fSz w)) else .error .fixedField
  | 4 => if (fOff4 w).extractLsb' 0 2 = 0 then .ok (.atomMaxN (fD w) (fA w) ((fOff4 w).extractLsb' 2 2) (fSz w)) else if (fOff4 w).extractLsb' 0 2 = 2 then .ok (.redMaxN (fD w) (fA w) ((fOff4 w).extractLsb' 2 2) (fSz w)) else .error .fixedField
  | 5 => if (fOff4 w).extractLsb' 0 2 = 0 then .ok (.atomAnd (fD w) (fA w) ((fOff4 w).extractLsb' 2 2) (fSz w)) else if (fOff4 w).extractLsb' 0 2 = 2 then .ok (.redAnd (fD w) (fA w) ((fOff4 w).extractLsb' 2 2) (fSz w)) else .error .fixedField
  | 6 => if (fOff4 w).extractLsb' 0 2 = 0 then .ok (.atomOr (fD w) (fA w) ((fOff4 w).extractLsb' 2 2) (fSz w)) else if (fOff4 w).extractLsb' 0 2 = 2 then .ok (.redOr (fD w) (fA w) ((fOff4 w).extractLsb' 2 2) (fSz w)) else .error .fixedField
  | 7 => if (fOff4 w).extractLsb' 0 2 = 0 then .ok (.atomXor (fD w) (fA w) ((fOff4 w).extractLsb' 2 2) (fSz w)) else if (fOff4 w).extractLsb' 0 2 = 2 then .ok (.redXor (fD w) (fA w) ((fOff4 w).extractLsb' 2 2) (fSz w)) else .error .fixedField
  | 8 => if (fOff4 w).extractLsb' 0 2 = 0 then .ok (.atomSwap (fD w) (fA w) ((fOff4 w).extractLsb' 2 2) (fSz w)) else .error .fixedField
  | 9 => if (fOff4 w).extractLsb' 0 2 = 0 then .ok (.cas (fD w) (fA w) ((fOff4 w).extractLsb' 2 2) (fSz w)) else .error .fixedField
  | 10 => if (fOff4 w).extractLsb' 0 2 = 0 ∧ fSz w = 2 then .ok (.atomFadd (fD w) (fA w) ((fOff4 w).extractLsb' 2 2)) else if (fOff4 w).extractLsb' 0 2 = 2 ∧ fSz w = 2 then .ok (.redFadd (fD w) (fA w) ((fOff4 w).extractLsb' 2 2)) else .error .fixedField
  | _ => .error .unassigned

/-- Decoding of major 0x14 (R55). -/
def decodeAtomt (w : Word) : Except DecodeError Instr :=
  match (fFn w).toNat with
  | 0 => if fSz w = 2 then .ok (.atomtAdd (fD w) (fA w) (fOff4 w)) else .error .fixedField
  | 1 => if fSz w = 2 then .ok (.atomtMinI (fD w) (fA w) (fOff4 w)) else .error .fixedField
  | 2 => if fSz w = 2 then .ok (.atomtMaxI (fD w) (fA w) (fOff4 w)) else .error .fixedField
  | 3 => if fSz w = 2 then .ok (.atomtMinN (fD w) (fA w) (fOff4 w)) else .error .fixedField
  | 4 => if fSz w = 2 then .ok (.atomtMaxN (fD w) (fA w) (fOff4 w)) else .error .fixedField
  | 5 => if fSz w = 2 then .ok (.atomtAnd (fD w) (fA w) (fOff4 w)) else .error .fixedField
  | 6 => if fSz w = 2 then .ok (.atomtOr (fD w) (fA w) (fOff4 w)) else .error .fixedField
  | 7 => if fSz w = 2 then .ok (.atomtXor (fD w) (fA w) (fOff4 w)) else .error .fixedField
  | 8 => if fSz w = 2 then .ok (.atomtSwap (fD w) (fA w) (fOff4 w)) else .error .fixedField
  | 9 => if fSz w = 2 then .ok (.atomtFadd (fD w) (fA w) (fOff4 w)) else .error .fixedField
  | 10 => if fSz w = 3 then .ok (.atomtMaxpk (fD w) (fA w) (fOff4 w)) else .error .fixedField
  | 11 => if fSz w = 2 then .ok (.castt (fD w) (fA w) (fOff4 w)) else .error .fixedField
  | _ => .error .unassigned

/-- Decoding of major 0x15 (R55). -/
def decodeOrder (w : Word) : Except DecodeError Instr :=
  match (fFn w).toNat with
  | 0 => if fD w = 0 ∧ fA w = 0 ∧ fB w = 0 then .ok (.fenceL) else .error .fixedField
  | 1 => if fD w = 0 ∧ fA w = 0 ∧ fB w = 0 then .ok (.fenceH) else .error .fixedField
  | 2 => if fD w = 0 ∧ fA w = 0 ∧ fB w = 0 then .ok (.fenceE) else .error .fixedField
  | 3 => if fD w = 0 ∧ fA w = 0 ∧ fB w = 0 then .ok (.acqc) else .error .fixedField
  | 4 => if fD w = 0 ∧ fA w = 0 ∧ fB w = 0 then .ok (.relc) else .error .fixedField
  | _ => .error .unassigned

/-- Decoding of major 0x16 (R55). -/
def decodeBar (w : Word) : Except DecodeError Instr :=
  match (fSub w).toNat with
  | 0 => if fD w = 0 ∧ fA w = 0 ∧ fImm8 w = 0 then .ok (.bar) else .error .fixedField
  | 1 => if fD w = 0 ∧ fA w = 0 ∧ fImm8 w = 0 then .ok (.barE) else .error .fixedField
  | 2 => if fImm8 w = 0 then .ok (.barCarve (fD w) (fA w)) else .error .fixedField
  | 3 => .ok (.boinit (fD w) (fA w) (fImm8 w))
  | 4 => .ok (.boexp (fD w) (fA w) (fImm8 w))
  | 5 => .ok (.boarr (fD w) (fA w) (fImm8 w))
  | 6 => if fD w = 0 then .ok (.bowait (fA w) (fImm8 w)) else .error .fixedField
  | 7 => .ok (.botest (fD w) (fA w) (fImm8 w))
  | _ => .error .unassigned

/-- Decoding of major 0x17 (R55). -/
def decodeQueue (w : Word) : Except DecodeError Instr :=
  match (fFn w).toNat with
  | 0 => if fTag w = 0 then .ok (.qpush (fD w) (fQ w) (fQImm w)) else .error .fixedField
  | 1 => if fTag w = 0 then .ok (.qpop (fD w) (fQ w) (fQImm w)) else .error .fixedField
  | 2 => if fTag w = 0 then .ok (.qtry (fD w) (fQ w) (fQImm w)) else .error .fixedField
  | 3 => if fTag w = 0 then .ok (.qpeek (fD w) (fQ w) (fQImm w)) else .error .fixedField
  | 4 => if fTag w = 1 then .ok (.qmarkSeg (fD w) (fQ w) (fQImm w)) else if fD w = 0 ∧ fTag w = 2 then .ok (.qmarkEos (fQ w) (fQImm w)) else .error .fixedField
  | 5 => if fD w = 0 ∧ fTag w = 0 ∧ fQImm w = 0 then .ok (.qclose (fQ w)) else .error .fixedField
  | 6 => if fTag w = 0 ∧ fQImm w = 0 then .ok (.qflush (fD w) (fQ w)) else .error .fixedField
  | 7 => if fTag w = 0 then .ok (.qstat (fD w) (fQ w) (fQImm w)) else .error .fixedField
  | _ => .error .unassigned

/-- Decoding of major 0x18 (R55). -/
def decodeCopy (w : Word) : Except DecodeError Instr :=
  match (fFn w).toNat with
  | 0 => if fD w = 0 then .ok (.cpy (fA w) (fB w)) else .error .fixedField
  | 1 => .ok (.cpym (fD w) (fA w) (fB w))
  | 2 => if fD w = 0 then .ok (.cpys (fA w) (fB w)) else .error .fixedField
  | 3 => if fA w = 0 ∧ fB w = 0 then .ok (.cbatch (fD w)) else .error .fixedField
  | 4 => if fB w = 0 then .ok (.cwait (fD w) (fA w)) else .error .fixedField
  | _ => .error .unassigned

/-- Decoding of major 0x19 (R55). -/
def decodeFetch (w : Word) : Except DecodeError Instr :=
  match (fFn w).toNat with
  | 0 => .ok (.hdef (fD w) (fA w) (fB w))
  | 1 => .ok (.fetch (fD w) (fA w) (fB w))
  | 2 => .ok (.fetchx (fD w) (fA w) (fB w))
  | 3 => if fA w = 0 then .ok (.finv (fD w) (fB w)) else .error .fixedField
  | _ => .error .unassigned

/-- Decoding of major 0x1A (R55). -/
def decodeTask (w : Word) : Except DecodeError Instr :=
  match (fFn w).toNat with
  | 0 => if fB w = 0 then .ok (.mtask (fD w) (fA w)) else .error .fixedField
  | 1 => if fB w = 0 then .ok (.mwait (fD w) (fA w)) else .error .fixedField
  | 2 => .ok (.mstat (fD w) (fA w) (fB w))
  | 3 => if fB w = 0 then .ok (.mcancel (fD w) (fA w)) else .error .fixedField
  | _ => .error .unassigned

/-- Decoding of major 0x1B (R55). -/
def decodeWave (w : Word) : Except DecodeError Instr :=
  match (fFn w).toNat with
  | 0 => if (fB w).extractLsb' 3 4 = 0 then .ok (.wstore (fD w) (fA w) ((fB w).extractLsb' 0 3)) else .error .fixedField
  | 1 => if fB w = 0 then .ok (.wrec (fD w) (fA w)) else .error .fixedField
  | 2 => if fB w = 0 then .ok (.wtag (fD w) (fA w)) else .error .fixedField
  | 3 => if fB w = 0 then .ok (.wth (fD w) (fA w)) else .error .fixedField
  | _ => .error .unassigned

/-- Decoding of major 0x1C (R55). -/
def decodeTvec (w : Word) : Except DecodeError Instr :=
  match (fFn w).toNat with
  | 0 => .ok (.tvadd (fD w) (fA w) (fB w))
  | 1 => .ok (.tvsub (fD w) (fA w) (fB w))
  | 2 => .ok (.tvmulc (fD w) (fA w) (fB w))
  | 3 => .ok (.tvaxpy (fD w) (fA w) (fB w))
  | 4 => .ok (.tvbias (fD w) (fA w) (fB w))
  | 5 => if (fB w).extractLsb' 3 4 = 0 then .ok (.tvact (fD w) (fA w) ((fB w).extractLsb' 0 3)) else .error .fixedField
  | 6 => .ok (.tvnorm (fD w) (fA w) (fB w))
  | 7 => .ok (.tvnormRms (fD w) (fA w) (fB w))
  | 8 => .ok (.tvsmax (fD w) (fA w) (fB w))
  | 9 => if fB w = 0 then .ok (.tvcvt (fD w) (fA w)) else .error .fixedField
  | _ => .error .unassigned

/-- Decoding of major 0x1D (R55). -/
def decodeCensus (w : Word) : Except DecodeError Instr :=
  match (fFn w).toNat with
  | 0 => .ok (.treg (fD w) (fA w) (fB w))
  | 1 => if fA w = 0 then .ok (.tdereg (fD w) (fB w)) else .error .fixedField
  | 2 => .ok (.tmove (fD w) (fA w) (fB w))
  | 3 => if fB w = 0 then .ok (.solicit (fD w) (fA w)) else .error .fixedField
  | 4 => if fD w = 0 ∧ fB w = 0 then .ok (.respond (fA w)) else .error .fixedField
  | 5 => .ok (.census (fD w) (fA w) (fB w))
  | 6 => .ok (.cres (fD w) (fA w) (fB w))
  | _ => .error .unassigned

/-- Decoding of major 0x1E (R55). -/
def decodeRoute (w : Word) : Except DecodeError Instr :=
  match (fFn w).toNat with
  | 0 => if fB w = 0 then .ok (.slotget (fD w) (fA w)) else .error .fixedField
  | 1 => .ok (.slotref (fD w) (fA w) (fB w))
  | 2 => if fB w = 0 then .ok (.slotrel (fD w) (fA w)) else .error .fixedField
  | 3 => .ok (.rtstage (fD w) (fA w) (fB w))
  | 4 => .ok (.rtlook (fD w) (fA w) (fB w))
  | 5 => if fB w = 0 then .ok (.rtlookAdm (fD w) (fA w)) else .error .fixedField
  | _ => .error .unassigned

/-- Decoding of major 0x1F (R55). -/
def decodeGraph (w : Word) : Except DecodeError Instr :=
  match (fFn w).toNat with
  | 0 => .ok (.grec (fD w) (fA w) (fB w))
  | 1 => if fD w = 0 then .ok (.gcond (fA w) (fB w)) else .error .fixedField
  | 2 => if fD w = 0 ∧ fA w = 0 ∧ fB w = 0 then .ok (.gdone) else .error .fixedField
  | 3 => if fA w = 0 then .ok (.gflush (fD w) (fB w)) else .error .fixedField
  | _ => .error .unassigned

/-- Decoding of major 0x20 (R55). -/
def decodeRemote (w : Word) : Except DecodeError Instr :=
  match (fFn w).toNat with
  | 0 => if (fD w).extractLsb' 4 3 = 0 then .ok (.rread ((fD w).extractLsb' 0 4) (fA w) (fOff4 w) (fSz w)) else .error .fixedField
  | 1 => if (fSz w).extractLsb' 2 1 = 0 then .ok (.rwrite (fD w) (fA w) (fOff4 w) ((fSz w).extractLsb' 0 2)) else .error .fixedField
  | 2 => if fOff4 w = 0 ∧ (fSz w).extractLsb' 1 2 = 1 then .ok (.ratomAdd (fD w) (fA w) ((fSz w).extractLsb' 0 1)) else .error .fixedField
  | 3 => if fOff4 w = 0 ∧ fSz w = 3 then .ok (.ratomCas (fD w) (fA w)) else .error .fixedField
  | 4 => if fA w = 0 ∧ fOff4 w = 0 ∧ fSz w = 0 then .ok (.rfence (fD w)) else .error .fixedField
  | _ => .error .unassigned

/-- Decoding of major 0x21 (R55). -/
def decodeOvl (w : Word) : Except DecodeError Instr :=
  match (fSub w).toNat with
  | 0 => if fA w = 0 then .ok (.ovload (fD w) (fImm8 w)) else .error .fixedField
  | 1 => if fA w = 0 then .ok (.ovwait (fD w) (fImm8 w)) else .error .fixedField
  | 2 => if fD w = 0 ∧ fA w = 0 then .ok (.fcall (fImm8 w)) else .error .fixedField
  | _ => .error .unassigned

/-- Decoding of major 0x22 (R55). -/
def decodeStack (w : Word) : Except DecodeError Instr :=
  match (fSub w).toNat with
  | 0 => if fD w = 0 ∧ fImm8 w = 0 then .ok (.spush (fA w)) else .error .fixedField
  | 1 => if fA w = 0 ∧ fImm8 w = 0 then .ok (.spop (fD w)) else .error .fixedField
  | 2 => if fD w = 0 ∧ fA w = 0 then .ok (.salloc (fImm8 w)) else .error .fixedField
  | _ => .error .unassigned

/-- Decoding of major 0x3F (R55). -/
def decodeHint (w : Word) : Except DecodeError Instr :=
  match (fKind w).toNat with
  | 0 => if fSw w = false then .ok (.hintImm (fPay w)) else .error .fixedField
  | 1 => if (fPay w).extractLsb' 20 2 = 0 ∧ fSw w = false then .ok (.hintStall ((fPay w).extractLsb' 16 4) ((fPay w).extractLsb' 12 4) ((fPay w).extractLsb' 8 4) ((fPay w).extractLsb' 4 4) ((fPay w).extractLsb' 0 4)) else .error .fixedField
  | 2 => if (fPay w).extractLsb' 0 15 = 0 ∧ fSw w = false then .ok (.hintMod ((fPay w).extractLsb' 19 3) ((fPay w).extractLsb' 16 3) ((fPay w).extractLsb' 15 1)) else .error .fixedField
  | 3 => if (fPay w).extractLsb' 0 6 = 0 ∧ fSw w = false then .ok (.hintFmt ((fPay w).extractLsb' 18 4) ((fPay w).extractLsb' 14 4) ((fPay w).extractLsb' 10 4) ((fPay w).extractLsb' 9 1) ((fPay w).extractLsb' 8 1) ((fPay w).extractLsb' 6 2)) else .error .fixedField
  | _ => .error .unassigned

/-- The instruction a word stands for, or why it is none (R57 steps 1 to 3). -/
def decodeWord (w : Word) : Except DecodeError Instr :=
  match (fMaj w).toNat with
  | 1 => decodeSys w
  | 2 => decodeCtl w
  | 3 => decodeHlp w
  | 4 => decodeIalu w
  | 5 => decodeIalu2 w
  | 6 => decodeIalui w
  | 7 => decodeMovi w
  | 8 => decodeAddr w
  | 9 => decodeFpu w
  | 10 => decodePk16 w
  | 11 => decodeSfu w
  | 12 => decodeCvt w
  | 13 => decodeXlane w
  | 16 => decodeLdg w
  | 17 => decodeStg w
  | 18 => decodeTld w
  | 19 => decodeAtom w
  | 20 => decodeAtomt w
  | 21 => decodeOrder w
  | 22 => decodeBar w
  | 23 => decodeQueue w
  | 24 => decodeCopy w
  | 25 => decodeFetch w
  | 26 => decodeTask w
  | 27 => decodeWave w
  | 28 => decodeTvec w
  | 29 => decodeCensus w
  | 30 => decodeRoute w
  | 31 => decodeGraph w
  | 32 => decodeRemote w
  | 33 => decodeOvl w
  | 34 => decodeStack w
  | 63 => decodeHint w
  | _ => .error .reservedMajor

/-- The little-endian word of four bytes (R46). -/
def wordOfBytes (b0 b1 b2 b3 : Byte) : Word := b3 ++ b2 ++ b1 ++ b0

/-- The bytes of a word, lowest address first (R46). -/
def bytesOfWord (w : Word) : List Byte :=
  [w.extractLsb' 0 8, w.extractLsb' 8 8, w.extractLsb' 16 8, w.extractLsb' 24 8]

/-- The first instruction of a list of bytes, and the bytes that follow it. -/
def decode : List Byte → Except DecodeError (Instr × List Byte)
  | b0 :: b1 :: b2 :: b3 :: rest =>
    match decodeWord (wordOfBytes b0 b1 b2 b3) with
    | .ok i => .ok (i, rest)
    | .error e => .error e
  | _ => .error .tooShort

/-- The instruction that the decoder reads from the word with bits `w`, laid out as its bytes are stored. -/
def decodeTableWord (nbits w : Nat) : Option Instr :=
  if nbits ≤ 32 then
    match decode (bytesOfWord (BitVec.ofNat 32 w)) with
    | .ok (i, _) => some i
    | .error _ => none
  else none

/-- The word of an instruction with SW clear; an event has none. -/
def encode : Instr → Option Word
  | .nop => some (wordG2i 1#6 0#7 0#7 0#3 0#8)
  | .trap i => some (wordG2i 1#6 0#7 0#7 1#3 i)
  | .tret => some (wordG2i 1#6 0#7 0#7 2#3 0#8)
  | .rds d i => some (wordG2i 1#6 d 0#7 3#3 i)
  | .wrs a i => some (wordG2i 1#6 0#7 a 4#3 i)
  | .rdclk d => some (wordG2i 1#6 d 0#7 5#3 0#8)
  | .bkpt i => some (wordG2i 1#6 0#7 0#7 6#3 i)
  | .ifc p o => some (wordC 2#6 0#4 p o)
  | .elsec o => some (wordC 2#6 1#4 7#3 o)
  | .endifc => some (wordC 2#6 2#4 7#3 0#18)
  | .loopc o => some (wordC 2#6 3#4 7#3 o)
  | .breakc p d => some (wordC 2#6 4#4 p (0#10 ++ d))
  | .contc p d => some (wordC 2#6 5#4 p (0#10 ++ d))
  | .endl o => some (wordC 2#6 6#4 7#3 o)
  | .jmp p o => some (wordC 2#6 7#4 p o)
  | .callc o => some (wordC 2#6 8#4 7#3 o)
  | .retc => some (wordC 2#6 9#4 7#3 0#18)
  | .exitc p => some (wordC 2#6 10#4 p 0#18)
  | .yield => some (wordC 2#6 11#4 7#3 0#18)
  | .hloop c l => some (wordC 3#6 0#4 7#3 (c ++ l))
  | .hloops a l => some (wordC 3#6 1#4 7#3 (0#5 ++ a ++ l))
  | .hbrk p => some (wordC 3#6 2#4 p 0#18)
  | .iadd d a b => some (wordG3 4#6 d a b 0#4)
  | .isub d a b => some (wordG3 4#6 d a b 1#4)
  | .imul d a b => some (wordG3 4#6 d a b 2#4)
  | .imulh d a b => some (wordG3 4#6 d a b 3#4)
  | .imulhn d a b => some (wordG3 4#6 d a b 4#4)
  | .imin d a b => some (wordG3 4#6 d a b 5#4)
  | .imax d a b => some (wordG3 4#6 d a b 6#4)
  | .nmin d a b => some (wordG3 4#6 d a b 7#4)
  | .nmax d a b => some (wordG3 4#6 d a b 8#4)
  | .iand d a b => some (wordG3 4#6 d a b 9#4)
  | .ior d a b => some (wordG3 4#6 d a b 10#4)
  | .ixor d a b => some (wordG3 4#6 d a b 11#4)
  | .andn d a b => some (wordG3 4#6 d a b 12#4)
  | .shl d a b => some (wordG3 4#6 d a b 13#4)
  | .shr d a b => some (wordG3 4#6 d a b 14#4)
  | .sar d a b => some (wordG3 4#6 d a b 15#4)
  | .iabs d a => some (wordG3 5#6 d a 0#7 0#4)
  | .ineg d a => some (wordG3 5#6 d a 0#7 1#4)
  | .inot d a => some (wordG3 5#6 d a 0#7 2#4)
  | .popc d a => some (wordG3 5#6 d a 0#7 3#4)
  | .clz d a => some (wordG3 5#6 d a 0#7 4#4)
  | .brev d a => some (wordG3 5#6 d a 0#7 5#4)
  | .bfe d a b => some (wordG3 5#6 d a b 6#4)
  | .bfi d a b => some (wordG3 5#6 d a b 7#4)
  | .isel d a p => some (wordG3 5#6 d a p 8#4)
  | .icmp c p a b => some (wordG3 5#6 (c ++ p) a b 9#4)
  | .movc d a => some (wordG3 5#6 d a 0#7 10#4)
  | .imad d a b => some (wordG3 5#6 d a b 11#4)
  | .iaddi d a i => some (wordG2i 6#6 d a 0#3 i)
  | .andi d a i => some (wordG2i 6#6 d a 1#3 i)
  | .ori d a i => some (wordG2i 6#6 d a 2#3 i)
  | .xori d a i => some (wordG2i 6#6 d a 3#3 i)
  | .shli d a i => some (wordG2i 6#6 d a 4#3 i)
  | .shri d a i => some (wordG2i 6#6 d a 5#3 i)
  | .sari d a i => some (wordG2i 6#6 d a 6#3 i)
  | .icmpi c p a i => some (wordG2i 6#6 (c ++ p) a 7#3 i)
  | .movi d i => some (wordGi 7#6 d i)
  | .aadd d a b => some (wordG3 8#6 d a b 0#4)
  | .asub d a b => some (wordG3 8#6 d a b 1#4)
  | .amov d a b => some (wordG3 8#6 d a b 2#4)
  | .acvt d a k => some (wordG3 8#6 d a k 3#4)
  | .acmp c p a b => some (wordG3 8#6 (c ++ p) a b 4#4)
  | .slice d a k => some (wordG3 8#6 d a k 5#4)
  | .ashladd d a b h => some (wordG3 8#6 d a b (1#1 ++ h))
  | .fadd d a b => some (wordG3 9#6 d a b 0#4)
  | .fsub d a b => some (wordG3 9#6 d a b 1#4)
  | .fmul d a b => some (wordG3 9#6 d a b 2#4)
  | .ffma d a b => some (wordG3 9#6 d a b 3#4)
  | .fmin d a b => some (wordG3 9#6 d a b 4#4)
  | .fmax d a b => some (wordG3 9#6 d a b 5#4)
  | .fmint d a b => some (wordG3 9#6 d a b 6#4)
  | .fmaxt d a b => some (wordG3 9#6 d a b 7#4)
  | .fabs d a => some (wordG3 9#6 d a 0#7 8#4)
  | .fneg d a => some (wordG3 9#6 d a 0#7 9#4)
  | .fcmp c p a b => some (wordG3 9#6 (c ++ p) a b 10#4)
  | .fclass d a => some (wordG3 9#6 d a 0#7 11#4)
  | .fscale d a b => some (wordG3 9#6 d a b 12#4)
  | .fsel d a p => some (wordG3 9#6 d a p 13#4)
  | .hadd2 d a b f => some (wordG3 10#6 d a b (f ++ 0#3))
  | .hsub2 d a b f => some (wordG3 10#6 d a b (f ++ 1#3))
  | .hmul2 d a b f => some (wordG3 10#6 d a b (f ++ 2#3))
  | .hfma2 d a b f => some (wordG3 10#6 d a b (f ++ 3#3))
  | .hmax2 d a b f => some (wordG3 10#6 d a b (f ++ 4#3))
  | .hmin2 d a b f => some (wordG3 10#6 d a b (f ++ 5#3))
  | .rcp d a => some (wordG3 11#6 d a 0#7 0#4)
  | .rsq d a => some (wordG3 11#6 d a 0#7 1#4)
  | .sqrtc d a => some (wordG3 11#6 d a 0#7 2#4)
  | .exp2c d a => some (wordG3 11#6 d a 0#7 3#4)
  | .log2c d a => some (wordG3 11#6 d a 0#7 4#4)
  | .sinc d a => some (wordG3 11#6 d a 0#7 5#4)
  | .cosc d a => some (wordG3 11#6 d a 0#7 6#4)
  | .tanhc d a => some (wordG3 11#6 d a 0#7 7#4)
  | .erfc d a => some (wordG3 11#6 d a 0#7 8#4)
  | .cvt d a => some (wordG3 12#6 d a 0#7 0#4)
  | .cvtsr d a b => some (wordG3 12#6 d a b 1#4)
  | .quant d a b => some (wordG3 12#6 d a b 2#4)
  | .deq d a b => some (wordG3 12#6 d a b 3#4)
  | .pack d a b => some (wordG3 12#6 d a b 4#4)
  | .unpack d a k => some (wordG3 12#6 d a k 5#4)
  | .cbld i a => some (wordG3 12#6 i a 0#7 6#4)
  | .tokey d a => some (wordG3 12#6 d a 0#7 7#4)
  | .qxch d a m => some (wordG3 13#6 d a m 0#4)
  | .qbc d a k => some (wordG3 13#6 d a k 1#4)
  | .shfl d a b => some (wordG3 13#6 d a b 2#4)
  | .shflDn d a o => some (wordG3 13#6 d a (0#2 ++ o) 3#4)
  | .shflUp d a o => some (wordG3 13#6 d a (1#2 ++ o) 3#4)
  | .shflXor d a o => some (wordG3 13#6 d a (2#2 ++ o) 3#4)
  | .sred d a o => some (wordG3 13#6 d a (0#4 ++ o) 4#4)
  | .sscan d a x o => some (wordG3 13#6 d a (0#3 ++ x ++ o) 5#4)
  | .vote d p b => some (wordG3 13#6 d p b 6#4)
  | .tred d a o => some (wordG3 13#6 d a (0#4 ++ o) 7#4)
  | .tbc d a b => some (wordG3 13#6 d a b 8#4)
  | .matchx d a b => some (wordG3 13#6 d a b 9#4)
  | .ld d a o z x => some (wordM 16#6 d a o z (0#3 ++ x))
  | .ldAcq d a o z x => some (wordM 16#6 d a o z (1#3 ++ x))
  | .ldPoll d a o z => some (wordM 16#6 d a o (1#2 ++ z) 4#4)
  | .pref a o => some (wordM 16#6 0#7 a o 0#3 5#4)
  | .ldq q a o z => some (wordM 16#6 (0#3 ++ q) a o z 6#4)
  | .ldqg q a o z => some (wordM 16#6 (0#3 ++ q) a o z 7#4)
  | .st d a o z => some (wordM 17#6 d a o z 0#4)
  | .stRel d a o z => some (wordM 17#6 d a o z 1#4)
  | .stq q a o z => some (wordM 17#6 (0#3 ++ q) a o z 2#4)
  | .tld d a t => some (wordM 18#6 d a t 2#3 0#4)
  | .tst d a t => some (wordM 18#6 d a t 2#3 1#4)
  | .tldr d a t => some (wordM 18#6 d a t 2#3 2#4)
  | .tstr d a t => some (wordM 18#6 d a t 2#3 3#4)
  | .tbind a t => some (wordM 18#6 0#7 a t 0#3 4#4)
  | .atomAdd d a o z => some (wordM 19#6 d a (o ++ 0#2) z 0#4)
  | .atomMinI d a o z => some (wordM 19#6 d a (o ++ 0#2) z 1#4)
  | .atomMaxI d a o z => some (wordM 19#6 d a (o ++ 0#2) z 2#4)
  | .atomMinN d a o z => some (wordM 19#6 d a (o ++ 0#2) z 3#4)
  | .atomMaxN d a o z => some (wordM 19#6 d a (o ++ 0#2) z 4#4)
  | .atomAnd d a o z => some (wordM 19#6 d a (o ++ 0#2) z 5#4)
  | .atomOr d a o z => some (wordM 19#6 d a (o ++ 0#2) z 6#4)
  | .atomXor d a o z => some (wordM 19#6 d a (o ++ 0#2) z 7#4)
  | .atomSwap d a o z => some (wordM 19#6 d a (o ++ 0#2) z 8#4)
  | .cas d a o z => some (wordM 19#6 d a (o ++ 0#2) z 9#4)
  | .atomFadd d a o => some (wordM 19#6 d a (o ++ 0#2) 2#3 10#4)
  | .redAdd d a o z => some (wordM 19#6 d a (o ++ 2#2) z 0#4)
  | .redMinI d a o z => some (wordM 19#6 d a (o ++ 2#2) z 1#4)
  | .redMaxI d a o z => some (wordM 19#6 d a (o ++ 2#2) z 2#4)
  | .redMinN d a o z => some (wordM 19#6 d a (o ++ 2#2) z 3#4)
  | .redMaxN d a o z => some (wordM 19#6 d a (o ++ 2#2) z 4#4)
  | .redAnd d a o z => some (wordM 19#6 d a (o ++ 2#2) z 5#4)
  | .redOr d a o z => some (wordM 19#6 d a (o ++ 2#2) z 6#4)
  | .redXor d a o z => some (wordM 19#6 d a (o ++ 2#2) z 7#4)
  | .redFadd d a o => some (wordM 19#6 d a (o ++ 2#2) 2#3 10#4)
  | .atomtAdd d a t => some (wordM 20#6 d a t 2#3 0#4)
  | .atomtMinI d a t => some (wordM 20#6 d a t 2#3 1#4)
  | .atomtMaxI d a t => some (wordM 20#6 d a t 2#3 2#4)
  | .atomtMinN d a t => some (wordM 20#6 d a t 2#3 3#4)
  | .atomtMaxN d a t => some (wordM 20#6 d a t 2#3 4#4)
  | .atomtAnd d a t => some (wordM 20#6 d a t 2#3 5#4)
  | .atomtOr d a t => some (wordM 20#6 d a t 2#3 6#4)
  | .atomtXor d a t => some (wordM 20#6 d a t 2#3 7#4)
  | .atomtSwap d a t => some (wordM 20#6 d a t 2#3 8#4)
  | .atomtFadd d a t => some (wordM 20#6 d a t 2#3 9#4)
  | .atomtMaxpk d a t => some (wordM 20#6 d a t 3#3 10#4)
  | .castt d a t => some (wordM 20#6 d a t 2#3 11#4)
  | .fenceL => some (wordG3 21#6 0#7 0#7 0#7 0#4)
  | .fenceH => some (wordG3 21#6 0#7 0#7 0#7 1#4)
  | .fenceE => some (wordG3 21#6 0#7 0#7 0#7 2#4)
  | .acqc => some (wordG3 21#6 0#7 0#7 0#7 3#4)
  | .relc => some (wordG3 21#6 0#7 0#7 0#7 4#4)
  | .bar => some (wordG2i 22#6 0#7 0#7 0#3 0#8)
  | .barE => some (wordG2i 22#6 0#7 0#7 1#3 0#8)
  | .barCarve d a => some (wordG2i 22#6 d a 2#3 0#8)
  | .boinit d a b => some (wordG2i 22#6 d a 3#3 b)
  | .boexp d a b => some (wordG2i 22#6 d a 4#3 b)
  | .boarr d a b => some (wordG2i 22#6 d a 5#3 b)
  | .bowait a b => some (wordG2i 22#6 0#7 a 6#3 b)
  | .botest d a b => some (wordG2i 22#6 d a 7#3 b)
  | .qpush d q i => some (wordQ 23#6 d q 0#2 i 0#4)
  | .qpop d q i => some (wordQ 23#6 d q 0#2 i 1#4)
  | .qtry d q i => some (wordQ 23#6 d q 0#2 i 2#4)
  | .qpeek d q i => some (wordQ 23#6 d q 0#2 i 3#4)
  | .qmarkSeg d q i => some (wordQ 23#6 d q 1#2 i 4#4)
  | .qmarkEos q i => some (wordQ 23#6 0#7 q 2#2 i 4#4)
  | .qclose q => some (wordQ 23#6 0#7 q 0#2 0#8 5#4)
  | .qflush d q => some (wordQ 23#6 d q 0#2 0#8 6#4)
  | .qstat d q k => some (wordQ 23#6 d q 0#2 k 7#4)
  | .cpy a b => some (wordG3 24#6 0#7 a b 0#4)
  | .cpym d a b => some (wordG3 24#6 d a b 1#4)
  | .cpys a b => some (wordG3 24#6 0#7 a b 2#4)
  | .cbatch d => some (wordG3 24#6 d 0#7 0#7 3#4)
  | .cwait d a => some (wordG3 24#6 d a 0#7 4#4)
  | .hdef d a b => some (wordG3 25#6 d a b 0#4)
  | .fetch t a b => some (wordG3 25#6 t a b 1#4)
  | .fetchx t a b => some (wordG3 25#6 t a b 2#4)
  | .finv d b => some (wordG3 25#6 d 0#7 b 3#4)
  | .mtask d a => some (wordG3 26#6 d a 0#7 0#4)
  | .mwait d a => some (wordG3 26#6 d a 0#7 1#4)
  | .mstat d a k => some (wordG3 26#6 d a k 2#4)
  | .mcancel d a => some (wordG3 26#6 d a 0#7 3#4)
  | .wstore d a l => some (wordG3 27#6 d a (0#4 ++ l) 0#4)
  | .wrec d a => some (wordG3 27#6 d a 0#7 1#4)
  | .wtag d a => some (wordG3 27#6 d a 0#7 2#4)
  | .wth d a => some (wordG3 27#6 d a 0#7 3#4)
  | .tvadd d a b => some (wordG3 28#6 d a b 0#4)
  | .tvsub d a b => some (wordG3 28#6 d a b 1#4)
  | .tvmulc d a b => some (wordG3 28#6 d a b 2#4)
  | .tvaxpy d a b => some (wordG3 28#6 d a b 3#4)
  | .tvbias d a b => some (wordG3 28#6 d a b 4#4)
  | .tvact d a k => some (wordG3 28#6 d a (0#4 ++ k) 5#4)
  | .tvnorm d a b => some (wordG3 28#6 d a b 6#4)
  | .tvnormRms d a b => some (wordG3 28#6 d a b 7#4)
  | .tvsmax d a b => some (wordG3 28#6 d a b 8#4)
  | .tvcvt d a => some (wordG3 28#6 d a 0#7 9#4)
  | .treg d a t => some (wordG3 29#6 d a t 0#4)
  | .tdereg d t => some (wordG3 29#6 d 0#7 t 1#4)
  | .tmove d b t => some (wordG3 29#6 d b t 2#4)
  | .solicit d a => some (wordG3 29#6 d a 0#7 3#4)
  | .respond a => some (wordG3 29#6 0#7 a 0#7 4#4)
  | .census d a k => some (wordG3 29#6 d a k 5#4)
  | .cres d a k => some (wordG3 29#6 d a k 6#4)
  | .slotget d a => some (wordG3 30#6 d a 0#7 0#4)
  | .slotref d a k => some (wordG3 30#6 d a k 1#4)
  | .slotrel d a => some (wordG3 30#6 d a 0#7 2#4)
  | .rtstage d a b => some (wordG3 30#6 d a b 3#4)
  | .rtlook d a b => some (wordG3 30#6 d a b 4#4)
  | .rtlookAdm d a => some (wordG3 30#6 d a 0#7 5#4)
  | .grec d a b => some (wordG3 31#6 d a b 0#4)
  | .gcond a b => some (wordG3 31#6 0#7 a b 1#4)
  | .gdone => some (wordG3 31#6 0#7 0#7 0#7 2#4)
  | .gflush d b => some (wordG3 31#6 d 0#7 b 3#4)
  | .rread q a o z => some (wordM 32#6 (0#3 ++ q) a o z 0#4)
  | .rwrite d a o z => some (wordM 32#6 d a o (0#1 ++ z) 1#4)
  | .ratomAdd d a z => some (wordM 32#6 d a 0#4 (1#2 ++ z) 2#4)
  | .ratomCas d a => some (wordM 32#6 d a 0#4 3#3 3#4)
  | .rfence d => some (wordM 32#6 d 0#7 0#4 0#3 4#4)
  | .ovload d i => some (wordG2i 33#6 d 0#7 0#3 i)
  | .ovwait d i => some (wordG2i 33#6 d 0#7 1#3 i)
  | .fcall e => some (wordG2i 33#6 0#7 0#7 2#3 e)
  | .spush a => some (wordG2i 34#6 0#7 a 0#3 0#8)
  | .spop d => some (wordG2i 34#6 d 0#7 1#3 0#8)
  | .salloc n => some (wordG2i 34#6 0#7 0#7 2#3 n)
  | .hintImm e => some (wordHint 0#3 e)
  | .hintStall e d c b a => some (wordHint 1#3 (0#2 ++ e ++ d ++ c ++ b ++ a))
  | .hintMod r c x => some (wordHint 2#3 (r ++ c ++ x ++ 0#15))
  | .hintFmt a b d s k x => some (wordHint 3#3 (a ++ b ++ d ++ s ++ k ++ x ++ 0#6))
  | .createContext .. => none
  | .destroy .. => none
  | .preempt .. => none
  | .kernelLaunch .. => none
  | .graphLaunch .. => none
  | .imageLoad .. => none
  | .keyInstall .. => none
  | .groupTableWrite .. => none
  | .shootdown .. => none
  | .answerRecord .. => none
  | .pageEngineRegister .. => none
  | .clearfail .. => none
  | .testMode .. => none
  | .partitionReset .. => none
  | .fullDeviceReset .. => none
  | .resetRelease .. => none
  | .startTimeout .. => none
  | .firmwareUpload .. => none
  | .antiRollbackBlow .. => none
  | .powerCap .. => none
  | .replanCommand .. => none
  | .replanPeriod .. => none
  | .portEnable .. => none
  | .portDisable .. => none
  | .portTrained .. => none
  | .linkLoss .. => none
  | .peerTableWrite .. => none
  | .jobRegister .. => none
  | .drowsyDisable .. => none
  | .registerWrite .. => none
  | .getVersion .. => none
  | .getCapabilities .. => none
  | .negotiateAlgorithms .. => none
  | .getDigests .. => none
  | .getCertificate .. => none
  | .spdmChallenge .. => none
  | .getMeasurements .. => none
  | .keyExchange .. => none
  | .spdmFinish .. => none
  | .hostLinkDown .. => none
  | .correctableError .. => none
  | .uncorrectableError .. => none
  | .scrub .. => none
  | .thermalThrottle .. => none
  | .thermalTrip .. => none
  | .translationFault .. => none
  | .pageRequest .. => none
  | .expansionDone .. => none
  | .ageingPeriod .. => none
  | .compressVictim .. => none
  | .variableResultReturn .. => none
  | .queueEntryComplete .. => none
  | .pollWake .. => none
  | .pollTimeout .. => none
  | .copyStart .. => none
  | .copyPiece .. => none
  | .fetchRow .. => none
  | .cardStart .. => none
  | .broadcastMatch .. => none
  | .peerMatch .. => none
  | .cardComplete .. => none
  | .censusSnapshot .. => none
  | .responderStart .. => none
  | .censusClose .. => none
  | .censusWaitExpire .. => none
  | .overlayLoadDone .. => none
  | .phaseStart .. => none
  | .groupPlace .. => none
  | .groupStart .. => none
  | .groupRetire .. => none
  | .flushTimerExpire .. => none
  | .preemptionDecision .. => none
  | .saveComplete .. => none
  | .resume .. => none
  | .watchdog .. => none
  | .qdeadlock .. => none
  | .remoteReadRequest .. => none
  | .remoteWriteRequest .. => none
  | .remoteAtomicRequest .. => none
  | .remoteResponse .. => none
  | .remoteTimeout .. => none
  | .bankDrowsy .. => none
  | .bankWake .. => none
  | .homeSliceAccept .. => none
  | .hostMemoryRequest .. => none
  | .powerLoss .. => none
  | .sharedTableInstall .. => none
  | .partitionModeWrite .. => none
  | .repairMapWrite .. => none
  | .rollbackFloorRaise .. => none
  | .tmoveComplete .. => none

/-- The bytes of an instruction with SW clear, lowest address first; none for an event. -/
def encodeBytes (i : Instr) : List Byte :=
  match encode i with
  | some w => bytesOfWord w
  | none => []

/-- The row of the opcode map an instruction word belongs to: its MAJ (R55). Events have 0. -/
def Instr.major : Instr → Nat
  | .nop .. => 1
  | .trap .. => 1
  | .tret .. => 1
  | .rds .. => 1
  | .wrs .. => 1
  | .rdclk .. => 1
  | .bkpt .. => 1
  | .ifc .. => 2
  | .elsec .. => 2
  | .endifc .. => 2
  | .loopc .. => 2
  | .breakc .. => 2
  | .contc .. => 2
  | .endl .. => 2
  | .jmp .. => 2
  | .callc .. => 2
  | .retc .. => 2
  | .exitc .. => 2
  | .yield .. => 2
  | .hloop .. => 3
  | .hloops .. => 3
  | .hbrk .. => 3
  | .iadd .. => 4
  | .isub .. => 4
  | .imul .. => 4
  | .imulh .. => 4
  | .imulhn .. => 4
  | .imin .. => 4
  | .imax .. => 4
  | .nmin .. => 4
  | .nmax .. => 4
  | .iand .. => 4
  | .ior .. => 4
  | .ixor .. => 4
  | .andn .. => 4
  | .shl .. => 4
  | .shr .. => 4
  | .sar .. => 4
  | .iabs .. => 5
  | .ineg .. => 5
  | .inot .. => 5
  | .popc .. => 5
  | .clz .. => 5
  | .brev .. => 5
  | .bfe .. => 5
  | .bfi .. => 5
  | .isel .. => 5
  | .icmp .. => 5
  | .movc .. => 5
  | .imad .. => 5
  | .iaddi .. => 6
  | .andi .. => 6
  | .ori .. => 6
  | .xori .. => 6
  | .shli .. => 6
  | .shri .. => 6
  | .sari .. => 6
  | .icmpi .. => 6
  | .movi .. => 7
  | .aadd .. => 8
  | .asub .. => 8
  | .amov .. => 8
  | .acvt .. => 8
  | .acmp .. => 8
  | .slice .. => 8
  | .ashladd .. => 8
  | .fadd .. => 9
  | .fsub .. => 9
  | .fmul .. => 9
  | .ffma .. => 9
  | .fmin .. => 9
  | .fmax .. => 9
  | .fmint .. => 9
  | .fmaxt .. => 9
  | .fabs .. => 9
  | .fneg .. => 9
  | .fcmp .. => 9
  | .fclass .. => 9
  | .fscale .. => 9
  | .fsel .. => 9
  | .hadd2 .. => 10
  | .hsub2 .. => 10
  | .hmul2 .. => 10
  | .hfma2 .. => 10
  | .hmax2 .. => 10
  | .hmin2 .. => 10
  | .rcp .. => 11
  | .rsq .. => 11
  | .sqrtc .. => 11
  | .exp2c .. => 11
  | .log2c .. => 11
  | .sinc .. => 11
  | .cosc .. => 11
  | .tanhc .. => 11
  | .erfc .. => 11
  | .cvt .. => 12
  | .cvtsr .. => 12
  | .quant .. => 12
  | .deq .. => 12
  | .pack .. => 12
  | .unpack .. => 12
  | .cbld .. => 12
  | .tokey .. => 12
  | .qxch .. => 13
  | .qbc .. => 13
  | .shfl .. => 13
  | .shflDn .. => 13
  | .shflUp .. => 13
  | .shflXor .. => 13
  | .sred .. => 13
  | .sscan .. => 13
  | .vote .. => 13
  | .tred .. => 13
  | .tbc .. => 13
  | .matchx .. => 13
  | .ld .. => 16
  | .ldAcq .. => 16
  | .ldPoll .. => 16
  | .pref .. => 16
  | .ldq .. => 16
  | .ldqg .. => 16
  | .st .. => 17
  | .stRel .. => 17
  | .stq .. => 17
  | .tld .. => 18
  | .tst .. => 18
  | .tldr .. => 18
  | .tstr .. => 18
  | .tbind .. => 18
  | .atomAdd .. => 19
  | .atomMinI .. => 19
  | .atomMaxI .. => 19
  | .atomMinN .. => 19
  | .atomMaxN .. => 19
  | .atomAnd .. => 19
  | .atomOr .. => 19
  | .atomXor .. => 19
  | .atomSwap .. => 19
  | .cas .. => 19
  | .atomFadd .. => 19
  | .redAdd .. => 19
  | .redMinI .. => 19
  | .redMaxI .. => 19
  | .redMinN .. => 19
  | .redMaxN .. => 19
  | .redAnd .. => 19
  | .redOr .. => 19
  | .redXor .. => 19
  | .redFadd .. => 19
  | .atomtAdd .. => 20
  | .atomtMinI .. => 20
  | .atomtMaxI .. => 20
  | .atomtMinN .. => 20
  | .atomtMaxN .. => 20
  | .atomtAnd .. => 20
  | .atomtOr .. => 20
  | .atomtXor .. => 20
  | .atomtSwap .. => 20
  | .atomtFadd .. => 20
  | .atomtMaxpk .. => 20
  | .castt .. => 20
  | .fenceL .. => 21
  | .fenceH .. => 21
  | .fenceE .. => 21
  | .acqc .. => 21
  | .relc .. => 21
  | .bar .. => 22
  | .barE .. => 22
  | .barCarve .. => 22
  | .boinit .. => 22
  | .boexp .. => 22
  | .boarr .. => 22
  | .bowait .. => 22
  | .botest .. => 22
  | .qpush .. => 23
  | .qpop .. => 23
  | .qtry .. => 23
  | .qpeek .. => 23
  | .qmarkSeg .. => 23
  | .qmarkEos .. => 23
  | .qclose .. => 23
  | .qflush .. => 23
  | .qstat .. => 23
  | .cpy .. => 24
  | .cpym .. => 24
  | .cpys .. => 24
  | .cbatch .. => 24
  | .cwait .. => 24
  | .hdef .. => 25
  | .fetch .. => 25
  | .fetchx .. => 25
  | .finv .. => 25
  | .mtask .. => 26
  | .mwait .. => 26
  | .mstat .. => 26
  | .mcancel .. => 26
  | .wstore .. => 27
  | .wrec .. => 27
  | .wtag .. => 27
  | .wth .. => 27
  | .tvadd .. => 28
  | .tvsub .. => 28
  | .tvmulc .. => 28
  | .tvaxpy .. => 28
  | .tvbias .. => 28
  | .tvact .. => 28
  | .tvnorm .. => 28
  | .tvnormRms .. => 28
  | .tvsmax .. => 28
  | .tvcvt .. => 28
  | .treg .. => 29
  | .tdereg .. => 29
  | .tmove .. => 29
  | .solicit .. => 29
  | .respond .. => 29
  | .census .. => 29
  | .cres .. => 29
  | .slotget .. => 30
  | .slotref .. => 30
  | .slotrel .. => 30
  | .rtstage .. => 30
  | .rtlook .. => 30
  | .rtlookAdm .. => 30
  | .grec .. => 31
  | .gcond .. => 31
  | .gdone .. => 31
  | .gflush .. => 31
  | .rread .. => 32
  | .rwrite .. => 32
  | .ratomAdd .. => 32
  | .ratomCas .. => 32
  | .rfence .. => 32
  | .ovload .. => 33
  | .ovwait .. => 33
  | .fcall .. => 33
  | .spush .. => 34
  | .spop .. => 34
  | .salloc .. => 34
  | .hintImm .. => 63
  | .hintStall .. => 63
  | .hintMod .. => 63
  | .hintFmt .. => 63
  | .createContext .. => 0
  | .destroy .. => 0
  | .preempt .. => 0
  | .kernelLaunch .. => 0
  | .graphLaunch .. => 0
  | .imageLoad .. => 0
  | .keyInstall .. => 0
  | .groupTableWrite .. => 0
  | .shootdown .. => 0
  | .answerRecord .. => 0
  | .pageEngineRegister .. => 0
  | .clearfail .. => 0
  | .testMode .. => 0
  | .partitionReset .. => 0
  | .fullDeviceReset .. => 0
  | .resetRelease .. => 0
  | .startTimeout .. => 0
  | .firmwareUpload .. => 0
  | .antiRollbackBlow .. => 0
  | .powerCap .. => 0
  | .replanCommand .. => 0
  | .replanPeriod .. => 0
  | .portEnable .. => 0
  | .portDisable .. => 0
  | .portTrained .. => 0
  | .linkLoss .. => 0
  | .peerTableWrite .. => 0
  | .jobRegister .. => 0
  | .drowsyDisable .. => 0
  | .registerWrite .. => 0
  | .getVersion .. => 0
  | .getCapabilities .. => 0
  | .negotiateAlgorithms .. => 0
  | .getDigests .. => 0
  | .getCertificate .. => 0
  | .spdmChallenge .. => 0
  | .getMeasurements .. => 0
  | .keyExchange .. => 0
  | .spdmFinish .. => 0
  | .hostLinkDown .. => 0
  | .correctableError .. => 0
  | .uncorrectableError .. => 0
  | .scrub .. => 0
  | .thermalThrottle .. => 0
  | .thermalTrip .. => 0
  | .translationFault .. => 0
  | .pageRequest .. => 0
  | .expansionDone .. => 0
  | .ageingPeriod .. => 0
  | .compressVictim .. => 0
  | .variableResultReturn .. => 0
  | .queueEntryComplete .. => 0
  | .pollWake .. => 0
  | .pollTimeout .. => 0
  | .copyStart .. => 0
  | .copyPiece .. => 0
  | .fetchRow .. => 0
  | .cardStart .. => 0
  | .broadcastMatch .. => 0
  | .peerMatch .. => 0
  | .cardComplete .. => 0
  | .censusSnapshot .. => 0
  | .responderStart .. => 0
  | .censusClose .. => 0
  | .censusWaitExpire .. => 0
  | .overlayLoadDone .. => 0
  | .phaseStart .. => 0
  | .groupPlace .. => 0
  | .groupStart .. => 0
  | .groupRetire .. => 0
  | .flushTimerExpire .. => 0
  | .preemptionDecision .. => 0
  | .saveComplete .. => 0
  | .resume .. => 0
  | .watchdog .. => 0
  | .qdeadlock .. => 0
  | .remoteReadRequest .. => 0
  | .remoteWriteRequest .. => 0
  | .remoteAtomicRequest .. => 0
  | .remoteResponse .. => 0
  | .remoteTimeout .. => 0
  | .bankDrowsy .. => 0
  | .bankWake .. => 0
  | .homeSliceAccept .. => 0
  | .hostMemoryRequest .. => 0
  | .powerLoss .. => 0
  | .sharedTableInstall .. => 0
  | .partitionModeWrite .. => 0
  | .repairMapWrite .. => 0
  | .rollbackFloorRaise .. => 0
  | .tmoveComplete .. => 0

end Sys2Proof
end

