-- ==== Sys2Proof/Config.lean ====
section
/-!
DEFINITION. What one implementation fixes, and the free values: constants with no body stand for what the manual leaves
open, so no proof can see a value of them.
-/

namespace Sys2Proof.Config

/-- SPANW, the span width of this part (R9, R108). -/
def spanW : Nat := 32

/-- The generation of the Z-780, compared with MINGEN (R77). -/
def generation : Nat := 4

/-- How many a-clk the n-th step of the machine takes. The manual gives no duration of a step in general (R22, R45: no
result depends on timing), so the count is free; log entry 4. -/
opaque stepClocks : Nat → Nat

/-- Which of the things that can happen next does happen, at the n-th step of the machine (R22, R163: the order of
independent events and the choice among schedulers are not given); log entry 3. -/
opaque turn : Nat → Nat

/-- The n-th free value of the machine: stands where the manual states an effect and not the value; log entry 5. -/
opaque freeValue : Nat → BitVec 64

/-- A delay-monitor reading of voltage domain d (cluster or HBM PHY) at the n-th re-plan (R428): what a monitor reads is
outside the manual; log entry 6. -/
opaque marginReading : Nat → Nat → BitVec 40

/-- The fused range of voltage domain d (R428): its lowest voltage in mV, and the 5 mV steps above it; log entry 6. -/
opaque voltRange : Nat → Nat × Nat

/-- The bytes that a compressed page's record holds besides its lines' payload, from the forms of its 512 lines (R306, R315: the
record's layout is private to the part); log entry 20. -/
opaque recordBytes : List Nat → Nat

/-- Whether a read at address `va` in the n-th step misses the write of number `ver`, where it may (R254, R255, R262, R289: an
ordinary read may return an older value, without a time limit); log entry 8. -/
opaque lag : Nat → Nat → Nat → Bool

/-- The virtual address from which overlay `ovl` of the image of handle `handle` is read as code, in the address space `asid` (R84,
R293: the manual names no place); log entry 51. -/
opaque overlayVa : Nat → Nat → Nat → Nat

/-- The bytes of the n-th group record of a save area (R97: its layout is private to the part); log entry 5. -/
opaque groupRecord : Nat → List Byte

/-- A byte that a TMOVE reads beyond its source's scratchpad, in the n-th step (R381: it checks the destination alone); log
entry 52. -/
opaque movedByte : Nat → Nat → Byte

/-- Which entry of a controller's TLB leaves it for the n-th write's walk, if any (R294: the set index and the replacement order
are not architectural); log entry 35. -/
opaque tlbVictim : Nat → Nat

/-- Which tile row's byte stays, of the rows that overlap at byte b of the tile of the n-th copy (R282); log entry 21. -/
opaque overlapRow : Nat → Nat → Nat

/-- Whether a line that the fetch unit has taken in is still in its cache at the n-th look (R324: replacement is not given);
log entry 22. -/
opaque fetchKeeps : Nat → Bool

/-- The public key, the signature and the signed bytes of a firmware image or a signed command (R421, R422: where they stand is
not given); log entry 7. -/
opaque signedParts : List Byte → List Byte × List Byte × List Byte

/-- The anti-rollback version held in a first-stage image or in a signed blow command (R421, R422: layout not given);
log entry 7. -/
opaque firmwareVersion : List Byte → Nat

/-- Whole GiB of each stack that the boot configuration reserves for the compressed zone, and the GiB of stack `c` at which
they begin (R304: neither is given); log entry 20. -/
opaque zoneGiB : Nat
opaque zoneStart : Nat → Nat

/-- The kernel that a kernel record of an image describes, none where it describes none (R75: the record's layout is not
given); log entry 13. -/
opaque kernelRecordOf : List Byte → Option Machine.Kernel

end Sys2Proof.Config
end

