-- ==== Sys2Proof/Machine/Flags.lean ====
section
/-!
DEFINITION. The sticky flags of a team (R29, R194): how an instruction ORs them into ASTAT and how each integer flag is
computed.
-/

namespace Sys2Proof.Machine

/-- ORs flags into ASTAT (R29). -/
def Team.orFlags (t : Team) (f : Flags) : Team := { t with astat := t.astat ||| f.zeroExtend 32 }

/-- OF when an exact signed result lies outside 32 bits (R194, R196). -/
def overflowFlag (e : Int) : Flags := if e < -2147483648 ∨ 2147483647 < e then flagOF else 0#6

/-- The OR of the flags of several lanes (R29). -/
def orAll (fs : List Flags) : Flags := fs.foldl (fun a b => a ||| b) 0#6

/-- What WRS leaves in ASTAT: bits 5 to 0 of the value; the reserved field reads as zero (R8, R29). -/
def astatWrite (x : Word) : Word := x &&& 0x3F#32

end Sys2Proof.Machine
end

