-- ==== Sys2Proof/Machine/Memory.lean ====
section
/-!
DEFINITION. Memory as cells in one canonical form: addresses strictly rising, and no cell equal to what an unlisted
address reads as, which is 0 (log entry 1). Device memory, host memory, scratchpads and compressed pages all use it.
-/

namespace Sys2Proof.Machine

/-- What a byte that nothing has written reads as (log entries 1 and 2). DESIGN CHOICE, unsafe. -/
def memDefault : Byte := 0#8

/-- Every address of the list lies at or above `lo`, and the list is canonical. -/
def memWfFrom : Nat → Memory → Bool
  | _, [] => true
  | lo, (a, b) :: m => decide (lo ≤ a) && decide (b ≠ memDefault) && memWfFrom (a + 1) m

/-- The canonical form. -/
def Memory.wf (m : Memory) : Bool := memWfFrom 0 m

/-- The byte at an address. -/
def memRead : Memory → Nat → Byte
  | [], _ => memDefault
  | (x, v) :: m, a => if a < x then memDefault else if a = x then v else memRead m a

/-- Writes one byte. -/
def memWrite : Memory → Nat → Byte → Memory
  | [], a, b => if b = memDefault then [] else [(a, b)]
  | (x, v) :: m, a, b =>
    if a < x then (if b = memDefault then (x, v) :: m else (a, b) :: (x, v) :: m)
    else if a = x then (if b = memDefault then m else (a, b) :: m)
    else (x, v) :: memWrite m a b

/-- The `n` bytes from an address on. -/
def memReadN (m : Memory) : Nat → Nat → List Byte
  | _, 0 => []
  | a, n + 1 => memRead m a :: memReadN m (a + 1) n

/-- Writes bytes from an address on, in ascending order. -/
def memWriteN (m : Memory) : Nat → List Byte → Memory
  | _, [] => m
  | a, b :: bs => memWriteN (memWrite m a b) (a + 1) bs

/-- A little-endian number of `n` bytes. -/
def memNat (m : Memory) (a n : Nat) : Nat := leNat (memReadN m a n)

/-- Drops every cell at or above an address: what a scratchpad that shrinks loses (R137). -/
def memTruncate : Memory → Nat → Memory
  | [], _ => []
  | (x, v) :: m, n => if x < n then (x, v) :: memTruncate m n else []

/-- Drops every cell below an address. -/
def memFrom : Memory → Nat → Memory
  | [], _ => []
  | (x, v) :: m, n => if x < n then memFrom m n else (x, v) :: m

/-- The cells of a range, with addresses counted from its start. -/
def memSlice (m : Memory) (a n : Nat) : Memory := (memTruncate (memFrom m a) (a + n)).map fun c => (c.1 - a, c.2)

/-- Clears a range. -/
def memClear (m : Memory) (a n : Nat) : Memory := memTruncate m a ++ memFrom m (a + n)

/-- Replaces a range of `n` bytes by cells counted from its start. -/
def memPaste (m : Memory) (a n : Nat) (cells : Memory) : Memory :=
  memTruncate m a ++ ((memTruncate cells n).map fun c => (a + c.1, c.2)) ++ memFrom m (a + n)

end Sys2Proof.Machine
end

