-- ==== Sys2Proof/Machine/Ops.lean ====
section
/-!
DEFINITION. Named operations over the state: finding and changing one group, team, context, core or partition; what a
fatal event does to a context (R104); taking a trap (R102) and returning from one (R110).
-/

namespace Sys2Proof.Machine

/-! ### Finding and changing one part of the state -/

def State.group? (s : State) (uid : Nat) : Option Group := s.groups.find? fun g => g.uid == uid

def State.modGroup (s : State) (uid : Nat) (f : Group → Group) : State :=
  { s with groups := modWhere s.groups (fun g => g.uid == uid) f }

def Group.team? (g : Group) (tid : Nat) : Option Team := g.teams.find? fun t => t.tid == tid

def Group.modTeam (g : Group) (tid : Nat) (f : Team → Team) : Group :=
  { g with teams := modWhere g.teams (fun t => t.tid == tid) f }

def State.team? (s : State) (r : TeamRef) : Option Team :=
  match s.group? r.uid with
  | some g => g.team? r.tid
  | none => none

def State.modTeam (s : State) (r : TeamRef) (f : Team → Team) : State := s.modGroup r.uid fun g => g.modTeam r.tid f

def isCtx (part ctxid : Nat) (c : Ctx) : Bool := c.part == part && c.ctxid == ctxid

def State.ctx? (s : State) (part ctxid : Nat) : Option Ctx := s.ctxs.find? (isCtx part ctxid)

def State.modCtx (s : State) (part ctxid : Nat) (f : Ctx → Ctx) : State :=
  { s with ctxs := modWhere s.ctxs (isCtx part ctxid) f }

def State.ctxOf (s : State) (g : Group) : Option Ctx := s.ctx? g.part g.ctxid

def State.core? (s : State) (c : Nat) : Option Core := s.cores[c]?

def State.modCore (s : State) (c : Nat) (f : Core → Core) : State := { s with cores := modAt s.cores c f }

def State.part? (s : State) (p : Nat) : Option Partition := s.parts[p]?

def State.modPart (s : State) (p : Nat) (f : Partition → Partition) : State := { s with parts := modAt s.parts p f }

def State.launch? (s : State) (lid : Nat) : Option Launch := s.launches.find? fun l => l.lid == lid

def State.modLaunch (s : State) (lid : Nat) (f : Launch → Launch) : State :=
  { s with launches := modWhere s.launches (fun l => l.lid == lid) f }

def State.modFunc (s : State) (fn : Nat) (f : Function → Function) : State := { s with funcs := modAt s.funcs fn f }

/-- The partition that owns a port; none in Hamada mode (R412). -/
def State.portPart (s : State) (port : Nat) : Option Nat :=
  match s.dev.mode with
  | .eight => if port < 8 then some port else none
  | .one => if port < 8 then some 0 else none
  | .hamada => none

/-- Changes a port. -/
def State.modPort (s : State) (port : Nat) (f : Port → Port) : State := { s with ports := modAt s.ports port f }

/-- The function that created the contexts of a partition (R300, R409): its virtual function, or the physical function
where the part runs as one partition. -/
def State.fnOf (s : State) (part : Nat) : Nat := if s.dev.mode == .eight then part + 1 else 0

/-- The kernel a group runs. -/
def State.kernelOf (s : State) (g : Group) : Option Kernel :=
  match s.ctxOf g with
  | none => none
  | some c =>
    match c.images.find? (fun i => i.handle == g.image) with
    | none => none
    | some i => i.kernels[g.kidx]?

/-- A value that the manual leaves open: the next one of the free sequence (log entry 5). -/
def State.freeVal (s : State) : BitVec 64 × State := (Config.freeValue s.free, { s with free := s.free + 1 })

/-! ### Lanes -/

/-- A lane that has not exited and whose counter is 0 (R159). -/
def Lane.running (l : Lane) : Bool := !l.exited && l.cnt == 0

/-- Run(team) in ascending lane order (R159). -/
def Team.run (t : Team) : List Nat := (List.range t.lanes.length).filter fun i => (t.lanes[i]?.map Lane.running).getD false

/-- The lowest running lane. -/
def Team.low? (t : Team) : Option Nat := t.run.head?

/-- No lane runs. -/
def Team.idle (t : Team) : Bool := !t.lanes.any Lane.running

/-- TEAMID: of a responder, its index among the kernel's teams (R385; log entry 19). -/
def Team.teamId (t : Team) : Nat :=
  match t.responder with
  | some i => i.decl
  | none => t.tid

/-- A predicate of a lane; p7 reads as true (R54). -/
def Lane.predOf (l : Lane) (p : Nat) : Bool := p == 7 || l.pred.getLsbD p

/-- A predicate of lane `i` of a team. -/
def Team.pred (t : Team) (p i : Nat) : Bool := (t.lanes[i]?.map (fun l => l.predOf p)).getD (p == 7)

/-- The state of a group's team handles: its own table for a census responder (R385), else the group's (R139). -/
def handlesOf (g : Group) (t : Team) : List (Option Nat) :=
  match t.responder with
  | some i => i.handles
  | none => g.handles

/-! ### Code (R103, R125) -/

/-- A code address: bits 31 to 24 and 1 to 0 are zero (R103). -/
def isCodeAddr (x : Word) : Bool := x.extractLsb' 24 8 == 0 && x.extractLsb' 0 2 == 0

/-- The slot of a core that holds the overlay of a code address, loaded. -/
def Core.codeSlot (c : Core) (asid handle : Nat) (pc : Word) : Option OvSlot :=
  (c.slots.filterMap id).find? fun o =>
    o.loaded && o.asid == asid && o.handle == handle && o.ovl == (pc.extractLsb' 16 8).toNat

/-- The word at a code address in a core's slots, if the address names a word of a resident overlay. -/
def Core.word? (c : Core) (asid handle : Nat) (pc : Word) : Option Word :=
  if pc.extractLsb' 24 8 = 0 ∧ pc.extractLsb' 0 2 = 0 then
    match c.codeSlot asid handle pc with
    | some o => o.words[(pc.extractLsb' 2 14).toNat]?
    | none => none
  else none

/-- A group as the code of one of its teams sees it: a census responder runs the asker's kernel (R382, R385). -/
def Group.forTeam (g : Group) (t : Team) : Group :=
  match t.responder with
  | some i => { g with image := i.image, kidx := i.kidx }
  | none => g

/-- The word at a code address for a team of a group. -/
def State.codeWord (s : State) (g : Group) (pc : Word) : Option Word :=
  match s.ctxOf g, s.core? g.core with
  | some c, some k => k.word? c.asid g.image pc
  | _, _ => none

/-! ### Records to the host -/

/-- Puts a page record into a function's ring, or leaves it waiting while the ring has no room (R300). -/
def Function.postPage (f : Function) (r : PageRec) : Function :=
  if f.ringRoom = 0 then { f with stalePend := f.stalePend ++ [r] }
  else { f with pageRing := f.pageRing ++ [r], ringRoom := f.ringRoom - 1, msix := f.msix ++ [0] }

/-- The host has taken the records of a function's ring: their places fall free, and records that waited are posted (R300;
when the host takes them: log entry 16). -/
def Function.ringTaken (f : Function) : Function :=
  f.stalePend.foldl Function.postPage { f with pageRing := [], ringRoom := f.ringRoom + f.pageRing.length, stalePend := [] }

/-- Posts an event record (R104) and raises the event vector; while the host link is down the record waits (R410). -/
def State.postEvent (s : State) (c : Ctx) (kind cause core : Nat) (trappc : Word) (trapva : DWord) : State :=
  let fn := s.fnOf c.part
  let e : EventRec :=
    { fn := fn, ctxid := c.ctxid, gen := c.gen, kind := kind, cause := cause, core := core, trappc := trappc, trapva := trapva,
      clk := s.clk }
  if s.dev.hostLink then { s.modFunc fn (fun f => { f with msix := f.msix ++ [1] }) with events := s.events ++ [e] }
  else { s with dev := { s.dev with unposted := s.dev.unposted ++ [e] } }

/-- The CANCEL record of a request (R300). -/
def cancelRec (q : PageReq) : PageRec :=
  { ctxid := q.ctxid, gen := q.gen, kind := 2, reason := 0, core := 0, tag := q.tag, access := 0, level := 0, va := 0,
    clk := 0 }

/-- The record of a request (R300). -/
def requestRec (q : PageReq) (clk : Nat) : PageRec :=
  { ctxid := q.ctxid, gen := q.gen, kind := 1, reason := q.reason, core := q.core, tag := q.tag, access := q.access,
    level := if q.reason = 4 then 0 else q.level, va := q.va, clk := clk }

/-- A request is withdrawn (R303): a CANCEL record follows its REQUEST, which is posted first if it still waited for that. One
that has been answered already is no longer outstanding, and nothing is posted. -/
def State.withdraw (s : State) (q : PageReq) : State :=
  if q.answer.isSome then s
  else
    s.modFunc (s.fnOf q.part) fun f => (if q.posted then f else f.postPage (requestRec q s.clk)).postPage (cancelRec q)

/-- Detaches the waiters that a test names from every request of a partition, and withdraws a request whose last waiter
detached (R303). An expansion (reason 0) has no record and runs on. -/
def State.detach (s : State) (part : Nat) (p : Waiter → Bool) : State :=
  match s.part? part with
  | none => s
  | some pt =>
    let dropped := pt.requests.filter fun q => q.waiters.any p && (q.waiters.all p) && q.reason != 0
    let rest := (pt.requests.filter fun q => !(q.waiters.any p && q.waiters.all p && q.reason != 0)).map fun q =>
      { q with waiters := q.waiters.filter fun w => !p w }
    let s := s.modPart part fun pt => { pt with requests := rest }
    dropped.foldl State.withdraw s

/-! ### Discarding work (R104, R133, R134) -/

/-- Frees what groups hold on cores: engine bindings, key-directory entries and requests to slices. -/
def Core.freeGroup (c : Core) (uid : Nat) : Core :=
  { c with
    engines := c.engines.map fun e =>
      match e.boundTo with
      | some (u, _) => if u == uid then engineReset else e
      | none => e
    keys := c.keys.map fun k =>
      match k with
      | some e => if e.uid == uid then none else k
      | none => none
    reqs := c.reqs.filter fun q => q.team.uid != uid }

/-- A waiter that belongs to a group. -/
def waiterOf (s : State) (uid : Nat) (w : Waiter) : Bool :=
  match w with
  | .team r => r.uid == uid
  | .copy q => s.copies.any fun c => c.seq == q && c.uid == uid
  | .fetch q => s.fetches.any fun c => c.seq == q && c.uid == uid
  | .card u _ => u == uid
  | .size _ => false
  | .port _ => false
  | .load _ _ => false
  | .graph _ => false

/-- Removes a group and everything of it that is in flight. -/
def State.removeGroup (s : State) (uid : Nat) : State :=
  match s.group? uid with
  | none => s
  | some g =>
    let s := s.detach g.part (waiterOf s uid)
    let s := s.modCore g.core fun c => c.freeGroup uid
    { s with
      groups := s.groups.filter fun x => x.uid != uid
      copies := s.copies.filter fun c => c.uid != uid
      fetches := s.fetches.filter fun c => c.uid != uid
      remotes := s.remotes.filter fun c => c.uid != uid
      censuses := s.censuses.filter fun c => c.uid != uid || c.state == .opened
      cur := match s.cur with
        | some r => if r.uid == uid then none else some r
        | none => none }

/-- An incoming request whose JOB is bound to a context (R414). -/
def Incoming.isFor (s : State) (part ctxid : Nat) (r : Incoming) : Bool :=
  s.portPart r.port == some part && (s.part? part).any fun pt => pt.jobs.any fun j => j.1 == r.job && j.2 == ctxid

/-- A waiter that belongs to a context and to none of its groups: a size word of its launches, a graph still to be read, an
overlay load, or an incoming access. -/
def ctxWaiter (s : State) (part ctxid : Nat) (lids : List Nat) (w : Waiter) : Bool :=
  match w with
  | .size l => lids.contains l
  | .graph n => (s.ctx? part ctxid).any fun c => c.asks.any fun a => a.ord == n
  | .load core slot =>
    ((s.core? core).bind fun k => k.slots.getD slot none).any fun o => (s.ctx? part ctxid).any fun c => c.asid == o.asid
  | .port n => n == ctxid
  | _ => false

/-- The incoming requests that wait for a page of a context are refused: it no longer serves them (R414). -/
def State.refuseIncoming (s : State) (part ctxid : Nat) : State :=
  let gone := s.incoming.filter (Incoming.isFor s part ctxid)
  gone.foldl (fun s r => s.modPort r.port fun p => if p.state = 2 then { p with sent := p.sent ++ [(false, [])] } else p)
    { s with incoming := s.incoming.filter fun r => !r.isFor s part ctxid }

/-- Discards all in-flight work of a context: its groups, launches, censuses, graph, waiting size words and the incoming requests
that wait on its pages (R104, R414). -/
def State.discardCtx (s : State) (part ctxid : Nat) : State :=
  let uids := (s.groups.filter fun g => g.part == part && g.ctxid == ctxid).map (·.uid)
  let lids := (s.launches.filter fun l => l.part == part && l.ctxid == ctxid).map (·.lid)
  let s := uids.foldl State.removeGroup s
  let s := (s.detach part (ctxWaiter s part ctxid lids)).refuseIncoming part ctxid
  let s := s.modCtx part ctxid fun c => { c with graph := none, graphWait := [], asks := [] }
  { s with
    launches := s.launches.filter fun l => !(l.part == part && l.ctxid == ctxid)
    censuses := s.censuses.filter fun c => !(c.part == part && c.ctxid == ctxid) }

/-- A slot of the slot table at context creation (R397). -/
def slotReset : Slot := { expert := 0, valid := false, loading := false, use := false, ref := 0 }

/-- The slot table and its hand as they are at creation, and after ERROR and KILLED (R397). -/
def Ctx.dropSlots (c : Ctx) : Ctx := { c with slots := List.replicate 256 slotReset, hand := 0 }

/-- A fatal event of a context (R93, R104): the context goes to ERROR, its work is discarded and the event record is
posted. A context already in ERROR or KILLED is unchanged. -/
def State.ctxError (s : State) (part ctxid cause core : Nat) (trappc : Word) (trapva : DWord) : State :=
  match s.ctx? part ctxid with
  | none => s
  | some c =>
    if c.state = .error ∨ c.state = .killed then s
    else
      let s := s.discardCtx part ctxid
      let s := s.modCtx part ctxid fun c => { c.dropSlots with state := .error }
      s.postEvent c 2 cause core trappc trapva

/-! ### Traps (R102, R104, R110) -/

/-- TRAPVA as a team of a role keeps it: bits 63 to 32 are zero in MATRIX and VECTOR teams (R102). -/
def trapVaOf (t : Team) (va : DWord) : DWord := if t.role = .access then va else va &&& 0xFFFFFFFF#64

/-- The causes that never reach a handler (R102). -/
def neverDelivered (code : Nat) : Bool := code == 0x09 || code == 0x10 || code == 0x11

/-- The trap registers after a trap of cause `code` at `pc` (R102), and the counts a trap ends (R64). -/
def Team.trapRegs (t : Team) (code : Nat) (va : DWord) (pc : Word) : Team :=
  { t with trapCause := BitVec.ofNat 8 code, trappc := pc, trapva := trapVaOf t va, stalls := [], hints := [], queueHeld := false, lodHeld := false, fuse := 0 }

/-- Whether a trap of a team reaches its handler (R102). -/
def State.delivers (s : State) (g : Group) (t : Team) (code : Nat) : Bool :=
  !t.trapInh && !neverDelivered code && t.trapmask.getLsbD code && (s.codeWord (g.forTeam t) t.trapvec).isSome

/-- TAKING A TRAP (R102): the trap registers are written; then either the team enters its handler, with INH set and its
mask and counters unchanged, or the context goes to ERROR, with the cause in the event record, 0x20 for a double trap. -/
def State.raiseTrap (s : State) (r : TeamRef) (code : Nat) (va : DWord) (pc : Word) : State :=
  match s.group? r.uid with
  | none => s
  | some g =>
    match g.team? r.tid with
    | none => s
    | some t =>
      if s.delivers g t code then
        s.modTeam r fun t => { t.trapRegs code va pc with trapInh := true, pc := t.trapvec }
      else s.ctxError g.part g.ctxid (if t.trapInh then 0x20 else code) g.core pc (trapVaOf t va)

/-- RETURNING FROM A TRAP (R110): INH is cleared and the team resumes at TRAPPC; everything else stays as the handler
left it. -/
def Team.trapReturn (t : Team) : Team := { t with trapInh := false, pc := t.trappc }

/-- MEMFAULT and the other codes by name (R102). -/
def trapIllegal : Nat := 0x01
def trapRole : Nat := 0x02
def trapFormat : Nat := 0x03
def trapMember : Nat := 0x04
def trapNest : Nat := 0x05
def trapStack : Nat := 0x06
def trapBounds : Nat := 0x07
def trapDomain : Nat := 0x08
def trapQdeadlock : Nat := 0x09
def trapMemfault : Nat := 0x0A
def trapAtompath : Nat := 0x0B
def trapAlign : Nat := 0x0C
def trapOverlay : Nat := 0x0D
def trapBkpt : Nat := 0x0E
def trapSoft : Nat := 0x0F
def trapLaunchSize : Nat := 0x10
def trapWatchdog : Nat := 0x11

end Sys2Proof.Machine
end

