-- ==== Sys2Proof/Machine/Operands.lean ====
section
/-!
DEFINITION. Operands of an instruction: register fields read by role (R51 to R54, R189), the HINT prefix of the
instruction (R61 to R67), role legality (R56), and the register checks of R57 step 4 that need the issuing team.
-/

namespace Sys2Proof.Machine

/-! ### Registers (R51 to R54) -/

/-- The register a field names in one lane, as 64 bits: an s register sign-extended in the ACCESS role (R53) and
zero-extended elsewhere, an a register whole, a v register zero-extended. A lane that does not exist gives zero (R183). -/
def Team.reg (t : Team) (f : RegField) (lane : Nat) : DWord :=
  if isS f then
    let w := t.sregs.getD (f.toNat - 96) 0
    if t.role = .access then w.signExtend 64 else w.zeroExtend 64
  else
    match t.lanes[lane]? with
    | none => 0
    | some l => if t.role = .access then l.a.getD f.toNat 0 else (l.v.getD f.toNat 0).zeroExtend 64

/-- Bits [31:0] of a register in one lane (R189). -/
def Team.reg32 (t : Team) (f : RegField) (lane : Nat) : Word := (t.reg f lane).truncate 32

/-- The value of an s register (R51). -/
def Team.sreg (t : Team) (f : RegField) : Word := t.sregs.getD (f.toNat - 96) 0

/-- The register field after a field: the second register of a pair. -/
def nextField (f : RegField) : RegField := f + 1

/-- Writes a v or a register of one lane. -/
def Lane.put (l : Lane) (role : Role) (f : RegField) (x : DWord) : Lane :=
  if role = .access then { l with a := l.a.set f.toNat x } else { l with v := l.v.set f.toNat (x.truncate 32) }

/-- Writes an s register: bits [31:0] of the result (R53). -/
def Team.putS (t : Team) (f : RegField) (x : Word) : Team := { t with sregs := t.sregs.set (f.toNat - 96) x }

/-- Writes a register in every running lane; an s register takes the lowest running lane's value, and is unchanged when no
lane runs (R53, R188). -/
def Team.write (t : Team) (f : RegField) (val : Nat → DWord) : Team :=
  if isS f then
    match t.low? with
    | some l => t.putS f ((val l).truncate 32)
    | none => t
  else { t with lanes := t.lanes.mapIdx fun i l => if l.running then l.put t.role f (val i) else l }

/-- A 32-bit result as it is written: sign-extended to 64 bits in the ACCESS role (R189). -/
def Team.ext32 (t : Team) (w : Word) : DWord := if t.role = .access then w.signExtend 64 else w.zeroExtend 64

/-- Writes a 32-bit result in every running lane (R189, R194). -/
def Team.write32 (t : Team) (f : RegField) (val : Nat → Word) : Team := t.write f fun i => t.ext32 (val i)

/-- Writes a predicate in every running lane; a write to p7 is discarded (R54, R188). -/
def Team.writePred (t : Team) (p : Nat) (val : Nat → Bool) : Team :=
  if p = 7 then t
  else
    { t with
      lanes := t.lanes.mapIdx fun i l =>
        if l.running then { l with pred := if val i then l.pred ||| BitVec.twoPow 8 p else l.pred &&& ~~~(BitVec.twoPow 8 p) }
        else l }

/-- Gives the listed lanes their values: what a variable-latency result does when it returns (R166). An s register takes
the value of the lowest lane listed. -/
def Team.writeVals (t : Team) (f : RegField) (vals : List (Nat × DWord)) : Team :=
  if isS f then
    match vals with
    | (_, x) :: _ => t.putS f (x.truncate 32)
    | [] => t
  else vals.foldl (fun t p => { t with lanes := modAt t.lanes p.1 fun l => l.put t.role f p.2 }) t

/-! ### Which fields an instruction reads and writes -/

/-- Every field of an instruction that names a v, a or s register (R52). -/
def instrRegs : Instr → List RegField
  | .rds d _ => [d]
  | .wrs a _ => [a]
  | .rdclk d => [d]
  | .iadd d a b => [d, a, b]
  | .isub d a b => [d, a, b]
  | .imul d a b => [d, a, b]
  | .imulh d a b => [d, a, b]
  | .imulhn d a b => [d, a, b]
  | .imin d a b => [d, a, b]
  | .imax d a b => [d, a, b]
  | .nmin d a b => [d, a, b]
  | .nmax d a b => [d, a, b]
  | .iand d a b => [d, a, b]
  | .ior d a b => [d, a, b]
  | .ixor d a b => [d, a, b]
  | .andn d a b => [d, a, b]
  | .shl d a b => [d, a, b]
  | .shr d a b => [d, a, b]
  | .sar d a b => [d, a, b]
  | .iabs d a => [d, a]
  | .ineg d a => [d, a]
  | .inot d a => [d, a]
  | .popc d a => [d, a]
  | .clz d a => [d, a]
  | .brev d a => [d, a]
  | .bfe d a b => [d, a, b]
  | .bfi d a b => [d, a, b]
  | .isel d a _ => [d, a]
  | .icmp _ _ a b => [a, b]
  | .movc d a => [d, a]
  | .imad d a b => [d, a, b]
  | .iaddi d a _ => [d, a]
  | .andi d a _ => [d, a]
  | .ori d a _ => [d, a]
  | .xori d a _ => [d, a]
  | .shli d a _ => [d, a]
  | .shri d a _ => [d, a]
  | .sari d a _ => [d, a]
  | .icmpi _ _ a _ => [a]
  | .movi d _ => [d]
  | .aadd d a b => [d, a, b]
  | .asub d a b => [d, a, b]
  | .amov d a b => [d, a, b]
  | .acvt d a _ => [d, a]
  | .acmp _ _ a b => [a, b]
  | .slice d a _ => [d, a]
  | .ashladd d a b _ => [d, a, b]
  | .fadd d a b => [d, a, b]
  | .fsub d a b => [d, a, b]
  | .fmul d a b => [d, a, b]
  | .ffma d a b => [d, a, b]
  | .fmin d a b => [d, a, b]
  | .fmax d a b => [d, a, b]
  | .fmint d a b => [d, a, b]
  | .fmaxt d a b => [d, a, b]
  | .fabs d a => [d, a]
  | .fneg d a => [d, a]
  | .fcmp _ _ a b => [a, b]
  | .fclass d a => [d, a]
  | .fscale d a b => [d, a, b]
  | .fsel d a _ => [d, a]
  | .hadd2 d a b _ => [d, a, b]
  | .hsub2 d a b _ => [d, a, b]
  | .hmul2 d a b _ => [d, a, b]
  | .hfma2 d a b _ => [d, a, b]
  | .hmax2 d a b _ => [d, a, b]
  | .hmin2 d a b _ => [d, a, b]
  | .rcp d a => [d, a]
  | .rsq d a => [d, a]
  | .sqrtc d a => [d, a]
  | .exp2c d a => [d, a]
  | .log2c d a => [d, a]
  | .sinc d a => [d, a]
  | .cosc d a => [d, a]
  | .tanhc d a => [d, a]
  | .erfc d a => [d, a]
  | .cvt d a => [d, a]
  | .cvtsr d a b => [d, a, b]
  | .quant d a b => [d, a, b]
  | .deq d a b => [d, a, b]
  | .pack d a b => [d, a, b]
  | .unpack d a _ => [d, a]
  | .cbld _ a => [a]
  | .tokey d a => [d, a]
  | .qxch d a _ => [d, a]
  | .qbc d a _ => [d, a]
  | .shfl d a b => [d, a, b]
  | .shflDn d a _ => [d, a]
  | .shflUp d a _ => [d, a]
  | .shflXor d a _ => [d, a]
  | .sred d a _ => [d, a]
  | .sscan d a _ _ => [d, a]
  | .vote d _ b => [d, b]
  | .tred d a _ => [d, a]
  | .tbc d a b => [d, a, b]
  | .matchx d a b => [d, a, b]
  | .ld d a _ _ _ => [d, a]
  | .ldAcq d a _ _ _ => [d, a]
  | .ldPoll d a _ _ => [d, a]
  | .pref a _ => [a]
  | .ldq _ a _ _ => [a]
  | .ldqg _ a _ _ => [a]
  | .st d a _ _ => [d, a]
  | .stRel d a _ _ => [d, a]
  | .stq _ a _ _ => [a]
  | .tld d a _ => [d, a]
  | .tst d a _ => [d, a]
  | .tldr d a _ => [d, a]
  | .tstr d a _ => [d, a]
  | .tbind a _ => [a]
  | .atomAdd d a _ _ => [d, a]
  | .atomMinI d a _ _ => [d, a]
  | .atomMaxI d a _ _ => [d, a]
  | .atomMinN d a _ _ => [d, a]
  | .atomMaxN d a _ _ => [d, a]
  | .atomAnd d a _ _ => [d, a]
  | .atomOr d a _ _ => [d, a]
  | .atomXor d a _ _ => [d, a]
  | .atomSwap d a _ _ => [d, a]
  | .cas d a _ _ => [d, a]
  | .atomFadd d a _ => [d, a]
  | .redAdd d a _ _ => [d, a]
  | .redMinI d a _ _ => [d, a]
  | .redMaxI d a _ _ => [d, a]
  | .redMinN d a _ _ => [d, a]
  | .redMaxN d a _ _ => [d, a]
  | .redAnd d a _ _ => [d, a]
  | .redOr d a _ _ => [d, a]
  | .redXor d a _ _ => [d, a]
  | .redFadd d a _ => [d, a]
  | .atomtAdd d a _ => [d, a]
  | .atomtMinI d a _ => [d, a]
  | .atomtMaxI d a _ => [d, a]
  | .atomtMinN d a _ => [d, a]
  | .atomtMaxN d a _ => [d, a]
  | .atomtAnd d a _ => [d, a]
  | .atomtOr d a _ => [d, a]
  | .atomtXor d a _ => [d, a]
  | .atomtSwap d a _ => [d, a]
  | .atomtFadd d a _ => [d, a]
  | .atomtMaxpk d a _ => [d, a]
  | .castt d a _ => [d, a]
  | .barCarve d a => [d, a]
  | .boinit d a _ => [d, a]
  | .boexp d a _ => [d, a]
  | .boarr d a _ => [d, a]
  | .bowait a _ => [a]
  | .botest d a _ => [d, a]
  | .qpush d _ _ => [d]
  | .qpop d _ _ => [d]
  | .qtry d _ _ => [d]
  | .qpeek d _ _ => [d]
  | .qmarkSeg d _ _ => [d]
  | .qflush d _ => [d]
  | .qstat d _ _ => [d]
  | .cpy a b => [a, b]
  | .cpym d a b => [d, a, b]
  | .cpys a b => [a, b]
  | .cbatch d => [d]
  | .cwait d a => [d, a]
  | .hdef d a b => [d, a, b]
  | .fetch _ a b => [a, b]
  | .fetchx _ a b => [a, b]
  | .finv d b => [d, b]
  | .mtask d a => [d, a]
  | .mwait d a => [d, a]
  | .mstat d a _ => [d, a]
  | .mcancel d a => [d, a]
  | .wtag d _ => [d]
  | .tvmulc _ _ b => [b]
  | .tvaxpy _ _ b => [b]
  | .tvnorm _ _ b => [b]
  | .tvnormRms _ _ b => [b]
  | .tvsmax _ _ b => [b]
  | .treg d a _ => [d, a]
  | .tdereg d _ => [d]
  | .tmove d b _ => [d, b]
  | .solicit d a => [d, a]
  | .respond a => [a]
  | .census d a _ => [d, a]
  | .cres d a _ => [d, a]
  | .slotget d a => [d, a]
  | .slotref d a _ => [d, a]
  | .slotrel d a => [d, a]
  | .rtstage d a b => [d, a, b]
  | .rtlook d a b => [d, a, b]
  | .rtlookAdm d a => [d, a]
  | .grec d a b => [d, a, b]
  | .gcond a b => [a, b]
  | .gflush d b => [d, b]
  | .rread _ a _ _ => [a]
  | .rwrite d a _ _ => [d, a]
  | .ratomAdd d a _ => [d, a]
  | .ratomCas d a => [d, a]
  | .rfence d => [d]
  | .ovload d _ => [d]
  | .ovwait d _ => [d]
  | .spush a => [a]
  | .spop d => [d]
  | _ => []

/-- The fields an instruction writes. -/
def instrDests : Instr → List RegField
  | .rds d _ => [d]
  | .rdclk d => [d]
  | .iadd d _ _ => [d]
  | .isub d _ _ => [d]
  | .imul d _ _ => [d]
  | .imulh d _ _ => [d]
  | .imulhn d _ _ => [d]
  | .imin d _ _ => [d]
  | .imax d _ _ => [d]
  | .nmin d _ _ => [d]
  | .nmax d _ _ => [d]
  | .iand d _ _ => [d]
  | .ior d _ _ => [d]
  | .ixor d _ _ => [d]
  | .andn d _ _ => [d]
  | .shl d _ _ => [d]
  | .shr d _ _ => [d]
  | .sar d _ _ => [d]
  | .iabs d _ => [d]
  | .ineg d _ => [d]
  | .inot d _ => [d]
  | .popc d _ => [d]
  | .clz d _ => [d]
  | .brev d _ => [d]
  | .bfe d _ _ => [d]
  | .bfi d _ _ => [d]
  | .isel d _ _ => [d]
  | .movc d _ => [d]
  | .imad d _ _ => [d]
  | .iaddi d _ _ => [d]
  | .andi d _ _ => [d]
  | .ori d _ _ => [d]
  | .xori d _ _ => [d]
  | .shli d _ _ => [d]
  | .shri d _ _ => [d]
  | .sari d _ _ => [d]
  | .movi d _ => [d]
  | .aadd d _ _ => [d]
  | .asub d _ _ => [d]
  | .amov d _ _ => [d]
  | .acvt d _ _ => [d]
  | .slice d _ _ => [d]
  | .ashladd d _ _ _ => [d]
  | .fadd d _ _ => [d]
  | .fsub d _ _ => [d]
  | .fmul d _ _ => [d]
  | .ffma d _ _ => [d]
  | .fmin d _ _ => [d]
  | .fmax d _ _ => [d]
  | .fmint d _ _ => [d]
  | .fmaxt d _ _ => [d]
  | .fabs d _ => [d]
  | .fneg d _ => [d]
  | .fclass d _ => [d]
  | .fscale d _ _ => [d]
  | .fsel d _ _ => [d]
  | .hadd2 d _ _ _ => [d]
  | .hsub2 d _ _ _ => [d]
  | .hmul2 d _ _ _ => [d]
  | .hfma2 d _ _ _ => [d]
  | .hmax2 d _ _ _ => [d]
  | .hmin2 d _ _ _ => [d]
  | .rcp d _ => [d]
  | .rsq d _ => [d]
  | .sqrtc d _ => [d]
  | .exp2c d _ => [d]
  | .log2c d _ => [d]
  | .sinc d _ => [d]
  | .cosc d _ => [d]
  | .tanhc d _ => [d]
  | .erfc d _ => [d]
  | .cvt d _ => [d]
  | .cvtsr d _ _ => [d]
  | .quant d _ _ => [d]
  | .deq d _ _ => [d]
  | .pack d _ _ => [d]
  | .unpack d _ _ => [d]
  | .tokey d _ => [d]
  | .qxch d _ _ => [d]
  | .qbc d _ _ => [d]
  | .shfl d _ _ => [d]
  | .shflDn d _ _ => [d]
  | .shflUp d _ _ => [d]
  | .shflXor d _ _ => [d]
  | .sred d _ _ => [d]
  | .sscan d _ _ _ => [d]
  | .vote d _ _ => [d]
  | .tred d _ _ => [d]
  | .tbc d _ _ => [d]
  | .matchx d _ _ => [d]
  | .ld d _ _ _ _ => [d]
  | .ldAcq d _ _ _ _ => [d]
  | .ldPoll d _ _ _ => [d]
  | .tld d _ _ => [d]
  | .tldr d _ _ => [d]
  | .atomAdd d _ _ _ => [d]
  | .atomMinI d _ _ _ => [d]
  | .atomMaxI d _ _ _ => [d]
  | .atomMinN d _ _ _ => [d]
  | .atomMaxN d _ _ _ => [d]
  | .atomAnd d _ _ _ => [d]
  | .atomOr d _ _ _ => [d]
  | .atomXor d _ _ _ => [d]
  | .atomSwap d _ _ _ => [d]
  | .cas d _ _ _ => [d]
  | .atomFadd d _ _ => [d]
  | .atomtAdd d _ _ => [d]
  | .atomtMinI d _ _ => [d]
  | .atomtMaxI d _ _ => [d]
  | .atomtMinN d _ _ => [d]
  | .atomtMaxN d _ _ => [d]
  | .atomtAnd d _ _ => [d]
  | .atomtOr d _ _ => [d]
  | .atomtXor d _ _ => [d]
  | .atomtSwap d _ _ => [d]
  | .atomtFadd d _ _ => [d]
  | .atomtMaxpk d _ _ => [d]
  | .castt d _ _ => [d]
  | .barCarve d _ => [d]
  | .boinit d _ _ => [d]
  | .boexp d _ _ => [d]
  | .boarr d _ _ => [d]
  | .botest d _ _ => [d]
  | .qpop d _ _ => [d]
  | .qtry d _ _ => [d]
  | .qpeek d _ _ => [d]
  | .qflush d _ => [d]
  | .qstat d _ _ => [d]
  | .cbatch d => [d]
  | .cwait d _ => [d]
  | .hdef d _ _ => [d]
  | .finv d _ => [d]
  | .mtask d _ => [d]
  | .mwait d _ => [d]
  | .mstat d _ _ => [d]
  | .mcancel d _ => [d]
  | .wtag d _ => [d]
  | .treg d _ _ => [d]
  | .tdereg d _ => [d]
  | .tmove d _ _ => [d]
  | .solicit d _ => [d]
  | .census d _ _ => [d]
  | .cres d _ _ => [d]
  | .slotget d _ => [d]
  | .slotref d _ _ => [d]
  | .slotrel d _ => [d]
  | .rtstage d _ _ => [d]
  | .rtlook d _ _ => [d]
  | .rtlookAdm d _ => [d]
  | .grec d _ _ => [d]
  | .gflush d _ => [d]
  | .ratomAdd d _ _ => [d]
  | .ratomCas d _ => [d]
  | .rfence d => [d]
  | .ovload d _ => [d]
  | .ovwait d _ => [d]
  | .spop d => [d]
  | _ => []

/-- Fields whose next register must exist too: both words of a 128-bit access (R142), RDCLK of an execute team (R111), the
pairs of TLDR, TSTR (R151), MAXPK and CAST (R156). -/
def instrPairs (i : Instr) (role : Role) : List RegField :=
  match i with
  | .rdclk d => if role = .access then [] else [d]
  | .ld d _ _ z _ => if z = 4 then [d] else []
  | .ldAcq d _ _ z _ => if z = 4 then [d] else []
  | .st d _ _ z => if z = 4 then [d] else []
  | .stRel d _ _ z => if z = 4 then [d] else []
  | .tldr _ a _ => [a]
  | .tstr _ a _ => [a]
  | .atomtMaxpk d _ _ => [d]
  | .castt d _ _ => [d]
  | _ => []

/-- The number of a predicate among registers, beyond the 128 fields; p7 is a constant (R54). -/
def predNum (p : Nat) : List Nat := if p < 7 then [128 + p] else []

/-- Predicates an instruction reads. -/
def instrPredReads (i : Instr) : List Nat :=
  match i with
  | .ifc p _ => predNum p.toNat
  | .breakc p _ => predNum p.toNat
  | .contc p _ => predNum p.toNat
  | .jmp p _ => predNum p.toNat
  | .exitc p => predNum p.toNat
  | .hbrk p => predNum p.toNat
  | .isel _ _ p => predNum p.toNat
  | .fsel _ _ p => predNum p.toNat
  | .vote _ p _ => predNum p.toNat
  | _ => []

/-- Predicates an instruction writes. -/
def instrPredWrites (i : Instr) : List Nat :=
  match i with
  | .icmp _ p _ _ => predNum p.toNat
  | .icmpi _ p _ _ => predNum p.toNat
  | .acmp _ p _ _ => predNum p.toNat
  | .fcmp _ p _ _ => predNum p.toNat
  | _ => []

/-- The s register of a status spec (R230). -/
def statusNum (i : BitVec 8) : List Nat := if i = 0 then [] else [i.toNat % 128]

/-- Registers read beside those of the fields: the rest of pairs and of wider operands, HLOOPS's count, and what RESPOND may
read (R394). -/
def instrMoreReads (i : Instr) : List Nat :=
  match i with
  | .hloops a _ => [96 + a.toNat]
  | .st d _ _ z => if z = 4 then [d.toNat + 1] else []
  | .stRel d _ _ z => if z = 4 then [d.toNat + 1] else []
  | .cas d _ _ z => if z = 4 then [d.toNat + 1, d.toNat + 2, d.toNat + 3] else [d.toNat + 1]
  | .ratomCas d _ => [d.toNat + 1]
  | .castt d _ _ => [d.toNat + 1]
  | .atomtMaxpk d _ _ => [d.toNat + 1]
  | .tldr _ a _ => [a.toNat + 1]
  | .tstr _ a _ => [a.toNat + 1]
  | .treg _ a _ => [a.toNat + 1]
  | .respond a => [a.toNat + 1, a.toNat + 2]
  | _ => []

/-- Registers written beside those of the fields: the second of a pair, and a status (R230). -/
def instrMoreWrites (i : Instr) (access : Bool) : List Nat :=
  match i with
  | .rdclk d => if access then [] else [d.toNat + 1]
  | .ld d _ _ z _ => if z = 4 then [d.toNat + 1] else []
  | .ldAcq d _ _ z _ => if z = 4 then [d.toNat + 1] else []
  | .cas d _ _ z => if z = 4 then [d.toNat + 1] else []
  | .atomtMaxpk d _ _ => [d.toNat + 1]
  | .qpush _ _ i => statusNum i
  | .qmarkSeg _ _ i => statusNum i
  | .qmarkEos _ i => statusNum i
  | .qpop _ _ i => statusNum i
  | .qtry _ _ i => statusNum i
  | .qpeek _ _ i => statusNum i
  | _ => []

/-- The destination field is a source too. -/
def instrReadsDest (i : Instr) : Bool :=
  match i with
  | .imad .. => true
  | .bfi .. => true
  | .isel .. => true
  | .fsel .. => true
  | .ffma .. => true
  | .hfma2 .. => true
  | .ldPoll .. => true
  | .ratomAdd .. => true
  | .ratomCas .. => true
  | _ => i.major == 0x13 || i.major == 0x14

/-- Registers an instruction writes, by number; predicates follow the 128 fields. -/
def instrWrites (i : Instr) (access : Bool) : List Nat :=
  (instrDests i).map (·.toNat) ++ instrMoreWrites i access ++ instrPredWrites i

/-- Registers an instruction reads. -/
def instrReads (i : Instr) : List Nat :=
  ((instrRegs i).drop (if (instrDests i).isEmpty || instrReadsDest i then 0 else 1)).map (·.toNat) ++ instrMoreReads i ++ instrPredReads i

/-- Registers an instruction reads or writes. -/
def instrTouches (i : Instr) (access : Bool) : List Nat := instrReads i ++ instrWrites i access

/-- A register field that a team of a role with a declared count may name (R51, R52). -/
def regOkFor (role : Role) (nvreg : Nat) (f : RegField) : Bool :=
  isS f || (if role = .access then decide (f.toNat ≤ 63) else decide (f.toNat < nvreg))

/-- The register after the field exists and is of the same class. -/
def pairOkFor (role : Role) (nvreg : Nat) (f : RegField) : Bool :=
  if isS f then decide (f.toNat < 127) else regOkFor role nvreg (nextField f) && !(isS (nextField f))

/-- XLANE operations that act on 32-bit floating-point values or their keys, ILLEGAL in the ACCESS role (R185). -/
def floatXop (o : BitVec 3) : Bool := o == 1 || o == 4 || o == 5

/-- Step 4 of R57 by a team's role, its declared registers and the length of its kernel's entry table: fields, register
ranges, FCALL's entry (R127) and the XLANE operations of a role (R185). -/
def wordStep4 (role : Role) (nvreg nentry : Nat) (i : Instr) : Bool :=
  i.wellFormed && (instrRegs i).all (regOkFor role nvreg) && (instrPairs i role).all (pairOkFor role nvreg) &&
    (match i with
      | .fcall e => decide (e.toNat < nentry)
      | .sred _ _ o => !(role == .access && floatXop o)
      | .sscan _ _ _ o => !(role == .access && floatXop o)
      | .tred _ _ o => !(role == .access && floatXop o)
      | _ => true)

/-! ### Roles (R56) -/

/-- Role legality by major opcode, with the exceptions within a major (R56). -/
def instrRoleOk (i : Instr) (role : Role) : Bool :=
  let access := role == .access
  let vector := role == .vector
  let byMajor :=
    match i.major with
    | 0x03 => !access
    | 0x08 => access
    | 0x09 => !access
    | 0x0A => !access
    | 0x0B => vector
    | 0x0C => !access
    | 0x10 => access
    | 0x11 => access
    | 0x12 => !access
    | 0x13 => access
    | 0x14 => !access
    | 0x18 => access
    | 0x19 => access || vector
    | 0x1A => role == .matrix
    | 0x1B => vector
    | 0x1C => vector
    | 0x1D => access || vector
    | 0x1E => access || vector
    | 0x1F => access || vector
    | 0x20 => access
    | _ => true
  byMajor &&
    match i with
    | .hdef .. => access
    | .respond .. => vector
    | .rtstage .. => access
    | .grec .. => access
    | .ovload .. => access
    | _ => true

/-! ### The HINT prefix (R61 to R67) -/

/-- The payload of the prefix word of a kind, if the prefix has one (R62). -/
def Team.hint? (t : Team) (kind : Nat) : Option (BitVec 22) :=
  (t.hints.find? fun h => (fKind h.word).toNat == kind).map fun h => fPay h.word

/-- The value of an immediate field of `n` bits holding `x`, widened by HINT.IMM, as a signed number (R63). -/
def Team.immS (t : Team) (n x : Nat) : Int :=
  match t.hint? 0 with
  | some e => signedOf (22 + n) (e.toNat * 2 ^ n + x)
  | none => signedOf n x

/-- The same for an unsigned field (R63). -/
def Team.immU (t : Team) (n x : Nat) : Nat :=
  match t.hint? 0 with
  | some e => e.toNat * 2 ^ n + x
  | none => x

/-- Bits [31:0] of a signed immediate. -/
def Team.imm32 (t : Team) (n x : Nat) : Word := BitVec.ofInt 32 (t.immS n x)

/-- RM of a HINT.MOD payload. -/
def modRM (p : BitVec 22) : Nat := (p.extractLsb' 19 3).toNat

/-- CACHE of a HINT.MOD payload. -/
def modCache (p : BitVec 22) : Nat := (p.extractLsb' 16 3).toNat

/-- REC of a HINT.MOD payload. -/
def modRec (p : BitVec 22) : Bool := p.getLsbD 15

/-- The CACHE policy names .NA or .NT: lines are not allocated in the fetch unit cache (R65). -/
def Team.noAlloc (t : Team) : Bool :=
  match t.hint? 2 with
  | some p => modCache p == 1 || modCache p == 4
  | none => false

/-- The prefix carries .REC (R65). -/
def Team.hasRec (t : Team) : Bool :=
  match t.hint? 2 with
  | some p => modRec p
  | none => false

/-- The rounding mode of a code of R31 and of HINT.MOD less one. -/
def modeOfCode (c : Nat) : RMode :=
  match c with
  | 0 => .rne
  | 1 => .rz
  | 2 => .ru
  | 3 => .rd
  | _ => .sr

/-- The mode of an instruction of majors 0x09 to 0x0C: that of HINT.MOD where its RM is not zero, else RMODE (R191). -/
def Team.mode (t : Team) : RMode :=
  match t.hint? 2 with
  | some p => if modRM p = 0 then modeOfCode (t.rmode.toNat % 8) else modeOfCode (modRM p - 1)
  | none => modeOfCode (t.rmode.toNat % 8)

/-- A HINT.FMT record (R67). -/
structure FmtRec where
  fa  : Nat
  fb  : Nat
  fd  : Nat
  sat : Bool
  bs  : Bool
  bax : Nat
  deriving DecidableEq, Repr

/-- The fields of a HINT.FMT payload (R66, R67). -/
def fmtRecOf (p : BitVec 22) : FmtRec :=
  { fa := (p.extractLsb' 18 4).toNat, fb := (p.extractLsb' 14 4).toNat, fd := (p.extractLsb' 10 4).toNat,
    sat := p.getLsbD 9, bs := p.getLsbD 8, bax := (p.extractLsb' 6 2).toNat }

/-- The format record of an instruction; without a HINT.FMT every field is zero. -/
def Team.fmtRec (t : Team) : FmtRec := fmtRecOf ((t.hint? 3).getD 0)

/-- Which fields of a format record an instruction takes, as (FA, FB, FD, SAT, BS, BAX) (R67, R151, R209, R341, R346). -/
def instrFmtTakes (i : Instr) : Bool × Bool × Bool × Bool × Bool × Bool :=
  match i with
  | .cvt .. => (true, false, true, true, false, false)
  | .cvtsr .. => (true, false, true, true, false, false)
  | .quant .. => (true, false, true, true, false, false)
  | .deq .. => (true, false, true, false, false, false)
  | .tokey .. => (true, false, false, false, false, false)
  | .tld .. => (false, false, true, false, false, false)
  | .tldr .. => (false, false, true, false, false, false)
  | .tst .. => (true, false, false, true, false, false)
  | .tstr .. => (true, false, false, true, false, false)
  | .wstore .. => (false, false, false, true, false, false)
  | .wrec .. => (false, false, false, true, false, false)
  | .wth .. => (false, false, false, true, false, false)
  | _ => if i.major == 0x1C then (false, false, false, true, false, false) else (false, false, false, false, false, false)

/-- HINT.IMM may stand before these instructions alone (R63, R110, R127, R148, R151, R181, R271, R418). -/
def instrTakesImm (i : Instr) : Bool :=
  match i with
  | .rds .. => true
  | .wrs .. => true
  | .iaddi .. => true
  | .andi .. => true
  | .ori .. => true
  | .xori .. => true
  | .shli .. => true
  | .shri .. => true
  | .sari .. => true
  | .icmpi .. => true
  | .movi .. => true
  | .ld .. => true
  | .ldAcq .. => true
  | .ldPoll .. => true
  | .pref .. => true
  | .ldq .. => true
  | .ldqg .. => true
  | .st .. => true
  | .stRel .. => true
  | .stq .. => true
  | .ovload .. => true
  | .ovwait .. => true
  | .fcall .. => true
  | .salloc .. => true
  | .rread .. => true
  | .rwrite .. => true
  | _ => false

/-- A widened field that the instruction's entry does not accept: a state-register index above 0xFF, an overlay id or entry
above 255 (R57 step 5, R111, R127). -/
def instrImmTooWide (i : Instr) (ext : BitVec 22) : Bool :=
  match i with
  | .rds .. => ext != 0
  | .wrs .. => ext != 0
  | .ovload .. => ext != 0
  | .ovwait .. => ext != 0
  | .fcall .. => ext != 0
  | _ => false

/-- The major takes a CACHE policy (R65). -/
def cacheMajor (m : Nat) : Bool := m == 0x10 || m == 0x11 || m == 0x13 || m == 0x18 || m == 0x19 || m == 0x20

/-- A prefix word that the instruction cannot take (R63, R65, R67). -/
def instrHintFits (i : Instr) (w : Word) : Bool :=
  let p := fPay w
  match (fKind w).toNat with
  | 0 => instrTakesImm i && !instrImmTooWide i p
  | 2 =>
    (modRM p == 0 || decide (0x09 ≤ i.major ∧ i.major ≤ 0x0C)) && (modCache p == 0 || cacheMajor i.major) &&
      (!modRec p || (match i with | .tld .. => true | .tldr .. => true | _ => false))
  | 3 =>
    let r := fmtRecOf p
    let (fa, fb, fd, sat, bs, bax) := instrFmtTakes i
    (i.major == 0x0C || i.major == 0x12 || i.major == 0x1B || i.major == 0x1C) &&
      (fa || r.fa == 0) && (fb || r.fb == 0) && (fd || r.fd == 0) && (sat || !r.sat) && (bs || !r.bs) &&
      (bax || r.bax == 0)
  | _ => false

/-- The first word of a prefix that fails step 5 of R57, in address order: one of a kind that an earlier word has, or one
that the instruction cannot take (R58). -/
def badHint (i : Instr) : List Nat → List PrefixWord → Option Word
  | _, [] => none
  | kinds, h :: hs =>
    let k := (fKind h.word).toNat
    if kinds.contains k || !instrHintFits i h.word then some h.word else badHint i (k :: kinds) hs

end Sys2Proof.Machine
end

