-- ==== Sys2Proof/Machine/Issue.lean ====
section
/-!
DEFINITION. Issuing one instruction word: the checks of R57 in their order, the wait for fixed-latency results and stall
counts (R64, R165), the instruction's own effect, and what follows every instruction: the next word, the end of a hardware
loop body (R176), the switch marker (R164) and SRCNT (R191).
-/

namespace Sys2Proof.Machine

/-- What an instruction's meaning is given: the state, the issuing team and its group as they stand at issue. -/
structure Iss where
  s : State
  r : TeamRef
  g : Group
  t : Team
  deriving DecidableEq, Repr

/-- What an instruction's own effect comes to. -/
inductive Act where
  /-- It completes and the next word follows. -/
  | ok (s : State)
  /-- It completes and the team goes on at a code address. -/
  | goto (s : State) (pc : Word)
  /-- A precise trap: nothing changes but the trap registers (R58). -/
  | trap (code : Nat) (va : DWord)
  /-- TRAP and BKPT: TRAPPC is the next word (R102). -/
  | trapNext (code : Nat) (va : DWord)
  /-- A trap that keeps effects made before it, as RET's popped record (R170). -/
  | trapKeep (s : State) (code : Nat) (va : DWord)
  /-- The team is held at issue and tries again once something has changed (R163). -/
  | hold (s : State)
  /-- The same, on a full or an empty queue: the team is blocked on it (R246). -/
  | holdQueue (s : State)
  /-- The instruction was issued and its team or context has been dealt with already. -/
  | done (s : State)
  deriving DecidableEq, Repr

/-- The team with a new value. -/
def Iss.put (x : Iss) (t : Team) : State := x.s.modTeam x.r fun _ => t

/-- It completes with a new value of the team alone. -/
def Iss.okTeam (x : Iss) (t : Team) : Act := .ok (x.put t)

/-- The instruction word as TRAPVA holds it (R58). -/
def Iss.word (x : Iss) : DWord := x.s.iword.zeroExtend 64

/-- A trap whose TRAPVA is the instruction word. -/
def Iss.trapWord (x : Iss) (code : Nat) : Act := .trap code x.word

/-- The code address of the first prefix word, or of the instruction where there is no prefix (R58). -/
def Team.prefixPc (t : Team) : Word :=
  match t.hints with
  | h :: _ => h.pc
  | [] => t.pc

/-! ### The checks of R57 -/

/-- Step 4 of R57 for a team. -/
def step4Ok (s : State) (g : Group) (t : Team) (i : Instr) : Bool :=
  wordStep4 t.role t.nvreg (((s.kernelOf g).map (fun k => k.entries.length)).getD 0) i

/-- The queue an instruction names, and whether it pushes (true), pops (false) or only reads its state (R229). -/
def instrQueue (i : Instr) : Option (Nat × Option Bool) :=
  match i with
  | .qpush _ q _ => some (q.toNat, some true)
  | .qmarkSeg _ q _ => some (q.toNat, some true)
  | .qmarkEos q _ => some (q.toNat, some true)
  | .ldq q _ _ _ => some (q.toNat, some true)
  | .ldqg q _ _ _ => some (q.toNat, some true)
  | .rread q _ _ _ => some (q.toNat, some true)
  | .qpop _ q _ => some (q.toNat, some false)
  | .qtry _ q _ => some (q.toNat, some false)
  | .qpeek _ q _ => some (q.toNat, some false)
  | .stq q _ _ _ => some (q.toNat, some false)
  | .qclose q => some (q.toNat, some false)
  | .qflush _ q => some (q.toNat, some false)
  | .qstat _ q _ => some (q.toNat, none)
  | _ => none

/-- A declared queue of a group. -/
def Group.queue? (g : Group) (n : Nat) : Option Queue := g.queues.find? fun q => q.num == n

/-- log2 of the element size of a queue (R220). -/
def Queue.sizeCode (q : Queue) : Nat := Nat.log2 (fmtBits q.fmt / 8)

/-- The access size that LDQ, LDQG, STQ and RREAD name (R239, R418). -/
def instrQueueSize (i : Instr) : Option Nat :=
  match i with
  | .ldq _ _ _ z => some z.toNat
  | .ldqg _ _ _ z => some z.toNat
  | .stq _ _ _ z => some z.toNat
  | .rread _ _ _ z => some z.toNat
  | _ => none

/-- Steps 4, 6 and 7 of R57 for a queue instruction (R221, R229, R239): the trap of the first that fails. -/
def queueFault (g : Group) (t : Team) (i : Instr) : Option Nat :=
  match instrQueue i with
  | none => none
  | some (n, dir) =>
    match g.queue? n with
    | none => some trapIllegal
    | some q =>
      if dir == some true && q.producer != t.role || dir == some false && q.consumer != t.role then some trapRole
      else if (q.producer == t.role || q.consumer == t.role) && t.lanes.length != q.width then some trapFormat
      else
        match instrQueueSize i with
        | some z => if z = q.sizeCode then none else some trapFormat
        | none => none

/-- Step 7 of R57 for the format record of a tile load or store: a format that no tile takes (R67, R153, R154). -/
def tileRecBad (t : Team) (i : Instr) : Bool :=
  let bad := fun (c : Nat) => decide (3 < c) && c != 7
  match i with
  | .tld .. => bad t.fmtRec.fd
  | .tldr .. => bad t.fmtRec.fd
  | .tst .. => bad t.fmtRec.fa
  | .tstr .. => bad t.fmtRec.fa
  | _ => false

/-- Steps 4 to 7 of R57: the trap code and the failing word of the first check that fails. -/
def issueFault (s : State) (g : Group) (t : Team) (i : Instr) : Option (Nat × Word) :=
  let qf := queueFault g t i
  if !step4Ok s g t i || qf == some trapIllegal then some (trapIllegal, s.iword)
  else
    match badHint i [] t.hints with
    | some w => some (trapIllegal, w)
    | none =>
      if !instrRoleOk i t.role then some (trapRole, s.iword)
      else
        match qf with
        | some c => some (c, s.iword)
        | none => if tileRecBad t i then some (trapFormat, s.iword) else none

/-! ### Fixed latencies and stall counts (R64, R165) -/

/-- Latency of an instruction's register results (R81): none for the variable-latency ones. -/
def instrLatency (i : Instr) : Option Nat :=
  match i.major with
  | 0x04 => some 1
  | 0x05 => some 1
  | 0x06 => some 1
  | 0x07 => some 1
  | 0x08 => some 1
  | 0x09 => some 4
  | 0x0A => some 4
  | 0x0C => some 4
  | 0x0B => none
  | 0x0D => none
  | 0x10 => none
  | 0x12 => none
  | 0x13 => none
  | 0x14 => none
  | 0x17 => none
  | _ =>
    match i with
    | .grec .. => none
    | .stq .. => none
    | .cres .. => none
    | .mstat .. => none
    | _ => some 1

/-- The a-clk by which every fixed-latency result that the instruction reads or writes is written. -/
def Team.readyClk (t : Team) (i : Instr) : Nat :=
  t.readyAt.foldl (fun m p => if (instrTouches i (t.role == .access)).contains p.1 then max m p.2 else m) 0

/-- A level is open and not suspended (R177). -/
def Team.inLoop (t : Team) : Bool := !t.trapInh && !t.loops.isEmpty

/-- A code address is the end word of some open level that is not suspended (R177). -/
def Team.endsBody (t : Team) (pc : Word) : Bool := t.inLoop && t.loops.any fun l => l.last == pc

/-! ### Fused operations (R219) -/

/-- The second word reads what the first one writes, as a row of R219's table has it. The rows of slots V0 and V1 are for
execute teams, that of A0 and A1 for ACCESS teams. -/
def fuseLink (role : Role) (i j : Instr) : Bool :=
  match i, j with
  | .shl d _ _, .iadd _ a b => role != .access && (a == d || b == d)
  | .shli d _ _, .iadd _ a b => role != .access && (a == d || b == d)
  | .imul d _ _, .iadd _ a b => role != .access && (a == d || b == d)
  | .icmp _ p _ _, .isel _ _ q => role != .access && p.toNat == q.toNat
  | .icmpi _ p _ _, .isel _ _ q => role != .access && p.toNat == q.toNat
  | .fcmp _ p _ _, .fsel _ _ q => role != .access && p.toNat == q.toNat
  | .fmul d _ _, .fadd _ a b => role != .access && (a == d || b == d)
  | .fmul d _ _, .fsub _ a b => role != .access && (a == d || b == d)
  | .acvt d _ _, .aadd _ a b => role == .access && (a == d || b == d)
  | .acvt d _ _, .ashladd _ a b _ => role == .access && (a == d || b == d)
  | _, _ => false

/-- A row of three words: a compare and two selects by its predicate. -/
def fuseThird (role : Role) (i j : Instr) : Bool :=
  match j with
  | .isel .. => fuseLink role i j
  | .fsel .. => fuseLink role i j
  | _ => false

/-- Some JMP or CALL among the words, the first of which has index `i`, goes to index `n` (log entry 47). -/
def jumpsTo (n : Nat) : Nat → List Word → Bool
  | _, [] => false
  | i, w :: r =>
    (match decodeWord w with
      | .ok (.jmp _ o) => (i : Int) + o.toInt == n
      | .ok (.callc o) => (i : Int) + o.toInt == n
      | _ => false) || jumpsTo n (i + 1) r

/-- A code address is a branch target: of a JMP or CALL of its overlay, or an entry of the kernel. -/
def State.isTarget (s : State) (g : Group) (pc : Word) : Bool :=
  ((s.kernelOf g).any fun k => k.entries.contains pc) ||
    match s.ctxOf g, s.core? g.core with
    | some c, some k => (k.codeSlot c.asid g.image pc).any fun o => jumpsTo (pc.extractLsb' 2 14).toNat 0 o.words
    | _, _ => false

/-- The word `n` words on in the team's overlay, decoded, with its SW bit: none where it fails the issue checks. -/
def State.fusible (s : State) (g : Group) (t : Team) (n : Nat) : Option (Instr × Bool) :=
  let pc := t.pc + BitVec.ofNat 32 (4 * n)
  if pc.extractLsb' 16 8 = t.pc.extractLsb' 16 8 then
    match s.codeWord g pc with
    | some w =>
      match decodeWord w with
      | .ok i => if (issueFault s g { t with pc := pc } i).isNone && !s.isTarget g pc then some (i, w.getLsbD 31) else none
      | .error _ => none
    | none => none
  else none

/-- The words that fuse with the word `w` that the team is about to issue, instruction `i` (R219). -/
def State.fusedWith (s : State) (g : Group) (t : Team) (w : Word) (i : Instr) : List Instr :=
  if t.fuse ≠ 0 ∨ t.hints ≠ [] ∨ w.getLsbD 31 = true ∨ t.endsBody t.pc = true then []
  else
    match s.fusible g t 1 with
    | none => []
    | some (j, sw) =>
      if !fuseLink t.role i j || s.isTarget g t.pc then []
      else if sw || !fuseThird t.role i j || t.endsBody (t.pc + 4) then [j]
      else
        match s.fusible g t 2 with
        | some (k, _) => if fuseThird t.role i k then [j, k] else [j]
        | none => [j]

/-- The a-clk by which the results that an operation needs are written: of a fused operation, those that any of its words
needs from before it. -/
def Team.needClk (t : Team) (i : Instr) (later : List Instr) : Nat := (i :: later).foldl (fun m j => max m (t.readyClk j)) 0

/-- The stall counts of an operation: those of every word of a fused one act at its first word (R219). -/
def Team.opCounts (t : Team) (later : List Instr) : List (BitVec 4) := t.stalls.take (later.length + 1)

/-- The first a-clk at which the stall counts let the operation issue; 0 without one (R64). -/
def Team.countClk (t : Team) (later : List Instr) : Nat :=
  (t.opCounts later).foldl (fun m c => max m (t.lastIssue + c.toNat)) 0

/-- The first a-clk at which the operation may issue; a later word of a fused operation waits for nothing. -/
def Team.waitClk (t : Team) (i : Instr) (later : List Instr) : Nat :=
  if t.fuse = 0 then max (t.needClk i later) (t.countClk later) else 0

/-- The clock when the team issues: no earlier than its interlocks and its count allow. -/
def State.issueClk (s : State) (g : Group) (t : Team) (i : Instr) : State :=
  { s with clk := max s.clk (t.waitClk i (s.fusedWith g t s.iword i)) }

/-- The counts and latencies after an instruction issued at `clk`: STALLFIX counts a stall count shorter than the true
latency (R64). A later word of a fused operation issued in the a-clk of the first (R219). -/
def Team.account (t : Team) (i : Instr) (later : List Instr) (clk : Nat) : Team :=
  let dests := instrWrites i (t.role == .access)
  let at_ := if t.fuse = 0 then clk else t.lastIssue
  { t with
    stallfix :=
      if t.fuse = 0 ∧ t.opCounts later ≠ [] ∧ t.countClk later < t.needClk i later then t.stallfix + 1 else t.stallfix
    stalls := t.stalls.drop 1
    fuse := if t.fuse = 0 then later.length else t.fuse - 1
    lastIssue := at_
    readyAt := match instrLatency i with
      | some l => dests.map (fun d => (d, at_ + l)) ++ t.readyAt.filter fun p => !dests.contains p.1
      | none => t.readyAt.filter fun p => !dests.contains p.1 }

/-! ### Hardware loops (R176, R177) -/

/-- The end-of-body rule at the word at `pc`, over the open levels with the innermost first. -/
def loopEndFrom (t : Team) (pc : Word) : List HwLoop → Team × Option Word
  | [] => ({ t with loops := [] }, none)
  | l :: outer =>
    let k := outer.length
    if l.last = pc then
      let n := (t.lc.getD k 0).toNat
      if 1 < n then
        ({ t with lc := t.lc.set k (BitVec.ofNat 32 (n - 1)), loops := (l :: outer).reverse }, some l.start)
      else loopEndFrom { t with lc := t.lc.set k 0 } pc outer
    else ({ t with loops := (l :: outer).reverse }, none)

/-- The end-of-body rule; levels are suspended while INH is set (R177). -/
def Team.loopEnd (t : Team) (pc : Word) : Team × Option Word :=
  if t.trapInh then (t, none) else loopEndFrom t pc t.loops.reverse

/-! ### After the instruction -/

/-- A result that a switch marker waits for is outstanding (R164): a register result not returned, a pop, a held LD.POLL, or
a load or atomic with lanes still to be replayed. LDQ and LDQG leave nothing outstanding (R439). -/
def Team.outstanding (t : Team) : Bool :=
  !t.pend.isEmpty || (match t.hold with | .poll _ => true | _ => false) ||
    t.replay.any fun i => match i.kind with
      | .store _ => false
      | .spill => false
      | .queue _ _ _ => false
      | _ => true

/-- SRCNT advances once for each instruction of majors 0x09 to 0x0C that issues with SR as its mode, CVTSR excepted
(R191, R212). -/
def Team.countSr (t : Team) (i : Instr) : Team :=
  let isCvtsr := match i with
    | .cvtsr .. => true
    | _ => false
  if 0x09 ≤ i.major ∧ i.major ≤ 0x0C ∧ t.mode = .sr ∧ isCvtsr = false then { t with srcnt := t.srcnt + 1 } else t

/-- The switch marker (R164): the team parks while anything is outstanding, and a park ends its stall counts (R64). -/
def Team.marker (t : Team) (sw : Bool) : Team :=
  if sw && t.outstanding then { t with swPark := true, stalls := [] } else t

/-- The next word: a given one, the start of a loop body that goes round again, or the word that follows; no prefix. -/
def Team.nextWord (t : Team) (pc : Word) (target : Option Word) : Team :=
  match target with
  | some a => { t with pc := a, hints := [], stalls := [] }
  | none =>
    match t.loopEnd pc with
    | (t, some a) => { t with pc := a, hints := [], stalls := [] }
    | (t, none) => { t with pc := pc + 4, hints := [] }

/-- YIELD (R163, R171). -/
def isYield (i : Instr) : Bool :=
  match i with
  | .yield => true
  | _ => false

/-- What every completed instruction leaves: its counts, the next word and the marker's park. -/
def Team.retire (i : Instr) (later : List Instr) (pc : Word) (clk : Nat) (sw : Bool) (target : Option Word) (t : Team) : Team :=
  { (((t.countSr i).account i later clk).nextWord pc target).marker sw with
    heldAt := none, queueHeld := false, lodHeld := false, yielded := isYield i, seqNo := t.seqNo + 1 }

/-- An effective step: whatever is held may try again. -/
def State.moved (s : State) : State := { s with progress := s.progress + 1 }

/-- The words that fuse with the issuing word. -/
def Iss.later (x : Iss) (i : Instr) : List Instr := x.s.fusedWith x.g x.t x.s.iword i

/-- The state after an instruction's own effect. A TRAP or BKPT at the end of a loop body takes the end-of-body step first, so
that the next word is the one that follows it (R176, R187; log entry 48). -/
def conclude (i : Instr) (x : Iss) (a : Act) : State :=
  let sw := x.s.iword.getLsbD 31
  match a with
  | .ok s => (s.modTeam x.r (fun t => t.retire i (x.later i) x.t.pc x.s.clk sw none)).moved
  | .goto s pc => (s.modTeam x.r (fun t => t.retire i (x.later i) x.t.pc x.s.clk sw (some pc))).moved
  | .trap code va => (x.s.raiseTrap x.r code va x.t.prefixPc).moved
  | .trapNext code va =>
    let p := x.t.loopEnd x.t.pc
    ((x.s.modTeam x.r fun _ => p.1).raiseTrap x.r code va (p.2.getD (x.t.pc + 4))).moved
  | .trapKeep s code va => (s.raiseTrap x.r code va x.t.prefixPc).moved
  | .hold s => s.modTeam x.r fun t => { t with heldAt := some s.progress, queueHeld := false }
  | .holdQueue s => s.modTeam x.r fun t => { t with heldAt := some s.progress, queueHeld := true, heldClk := s.clk }
  | .done s => s.moved

/-- Issuing an instruction of the current team: the checks, then its own effect. With no current team no word issues and
nothing changes (R60). -/
def issue (i : Instr) (s : State) (body : Iss → Act) : Host.Outcome State Fault Refusal :=
  match s.cur with
  | none => .next s
  | some r =>
    match s.group? r.uid with
    | none => .next s
    | some g =>
      match g.team? r.tid with
      | none => .next s
      | some t =>
        let g := g.forTeam t
        match issueFault s g t i with
        | some (code, w) => .next (s.raiseTrap r code (w.zeroExtend 64) t.prefixPc).moved
        | none =>
          let s := s.issueClk g t i
          let x : Iss := { s := s, r := r, g := g, t := t }
          .next (conclude i x (body x))

/-- The lanes of a result return apart from each other, so that old and new values may stand side by side (R166); its flags
come with the first. A result of an s register is one value. -/
def PendWrite.lanes (p : PendWrite) : List PendWrite :=
  match p.vals with
  | [] => [p]
  | v :: vs =>
    if isS p.dst then [p]
    else { p with vals := [v] } :: vs.map fun v => { p with vals := [v], flags := 0 }

/-- Adds outstanding results that name at least one lane or flag. -/
def Team.addPend (t : Team) (ps : List PendWrite) : Team :=
  { t with pend := t.pend ++ (ps.flatMap PendWrite.lanes).filter fun p => !p.vals.isEmpty || p.flags != 0 }

/-- Results that wait for the answers to the slice requests of an instruction, by its number in the team (R313). -/
def awaitSeq (seq : Nat) (ps : List PendWrite) : List PendWrite := ps.map fun p => { p with req := some seq }

/-- Results that wait for those of the issuing instruction. -/
def Team.awaiting (t : Team) (ps : List PendWrite) : List PendWrite := awaitSeq t.seqNo ps

/-! ### HINT words (R61 to R67) -/

/-- A HINT word of the current team: its steps 1 to 4, the end of a loop body (R177), and the word that must follow it in
the same overlay (R62). `accept` records it. A HINT word that is the last word of an overlay shorter than its slot is
ILLEGAL too: nothing of the overlay follows it (DESIGN CHOICE, log entry 14: R62 speaks of the slot alone). -/
def issueHint (i : Instr) (s : State) (accept : Team → Team) : Host.Outcome State Fault Refusal :=
  match s.cur with
  | none => .next s
  | some r =>
    match s.group? r.uid with
    | none => .next s
    | some g =>
      match g.team? r.tid with
      | none => .next s
      | some t =>
        let next := t.pc + 4
        let follows := (s.codeWord (g.forTeam t) next).isSome && next.extractLsb' 16 8 == t.pc.extractLsb' 16 8
        if !i.wellFormed || t.endsBody t.pc || !follows then
          .next (s.raiseTrap r trapIllegal (s.iword.zeroExtend 64) t.prefixPc).moved
        else .next (s.modTeam r (fun t => { accept t with pc := next, heldAt := none, queueHeld := false, lodHeld := false, yielded := false })).moved

/-- A prefix word joins the prefix (R62). -/
def Team.addHint (w : Word) (t : Team) : Team := { t with hints := t.hints ++ [{ pc := t.pc, word := w }] }

/-- HINT.IMM (R63). -/
def execHintImm (e : BitVec 22) (s : State) : Host.Outcome State Fault Refusal :=
  issueHint (.hintImm e) s (Team.addHint s.iword)

/-- HINT.STALL (R64): its counts replace those still pending. -/
def execHintStall (c4 c3 c2 c1 c0 : BitVec 4) (s : State) : Host.Outcome State Fault Refusal :=
  issueHint (.hintStall c4 c3 c2 c1 c0) s fun t => { t with stalls := [c0, c1, c2, c3, c4] }

/-- HINT.MOD (R65). -/
def execHintMod (r c : BitVec 3) (x : BitVec 1) (s : State) : Host.Outcome State Fault Refusal :=
  issueHint (.hintMod r c x) s (Team.addHint s.iword)

/-- HINT.FMT (R66, R67). -/
def execHintFmt (a b d : BitVec 4) (sat k : BitVec 1) (x : BitVec 2) (s : State) : Host.Outcome State Fault Refusal :=
  issueHint (.hintFmt a b d sat k x) s (Team.addHint s.iword)

end Sys2Proof.Machine
end

