-- ==== Sys2Proof/Machine/Alu.lean ====
section
/-!
DEFINITION. Integer results of majors 0x04 to 0x08 as functions of their operands (R192 to R199), and how an instruction
that computes lane by lane writes them.
-/

namespace Sys2Proof.Machine

/-! ### Results of one lane -/

/-- An exact signed result kept to 32 bits, with OF where it does not fit (R194). -/
def wrapFlag (e : Int) : Word × Flags := (BitVec.ofInt 32 e, overflowFlag e)

def iaddLane (a b : Word) : Word × Flags := wrapFlag (a.toInt + b.toInt)
def isubLane (a b : Word) : Word × Flags := wrapFlag (a.toInt - b.toInt)
def imulLane (a b : Word) : Word × Flags := wrapFlag (a.toInt * b.toInt)
def imadLane (a b c : Word) : Word × Flags := wrapFlag (a.toInt * b.toInt + c.toInt)
def imulhLane (a b : Word) : Word := BitVec.ofInt 32 (a.toInt * b.toInt / 2 ^ 32)
def imulhnLane (a b : Word) : Word := BitVec.ofNat 32 (a.toNat * b.toNat / 2 ^ 32)
def iminLane (a b : Word) : Word := if b.toInt < a.toInt then b else a
def imaxLane (a b : Word) : Word := if a.toInt < b.toInt then b else a
def nminLane (a b : Word) : Word := if b.toNat < a.toNat then b else a
def nmaxLane (a b : Word) : Word := if a.toNat < b.toNat then b else a

/-- Logical left shift by any count: 0 from 32 on (R194). -/
def shlLane (a : Word) (n : Nat) : Word := if n < 32 then a <<< n else 0
/-- Logical right shift by any count (R194). -/
def shrLane (a : Word) (n : Nat) : Word := if n < 32 then a >>> n else 0
/-- Arithmetic right shift by any count: copies of the sign from 32 on (R194). -/
def sarLane (a : Word) (n : Nat) : Word := a.sshiftRight (min n 31)

/-- The shift count of a register operand: its bits [7:0] (R194). -/
def shiftCount (b : Word) : Nat := b.toNat % 256

/-- IABS (R196). -/
def iabsLane (a : Word) : Word × Flags := (if a.msb then -a else a, if a = 0x80000000#32 then flagOF else 0#6)
/-- INEG (R196). -/
def inegLane (a : Word) : Word × Flags := (-a, if a = 0x80000000#32 then flagOF else 0#6)
def popcLane (a : Word) : Word := BitVec.ofNat 32 (popCount 32 a.toNat)
/-- CLZ (R196): 32 for zero. -/
def clzLane (a : Word) : Word := if a = 0 then 32 else BitVec.ofNat 32 (31 - Nat.log2 a.toNat)
def brevLane (a : Word) : Word := BitVec.ofNat 32 (bitRev 32 a.toNat)

/-- BFE (R196): bits past 31 read as 0; a length of 0 gives 0. -/
def bfeLane (a b : Word) : Word :=
  let pos := b.toNat % 256
  let len := min (b.toNat / 256 % 256) 32
  let f := bitsOf a.toNat pos len
  if b.getLsbD 16 && decide (0 < len) then BitVec.ofInt 32 (signedOf len f) else BitVec.ofNat 32 f

/-- BFI (R196): bits pos to pos + len − 1 below 32 replaced by the low bits of `a`. -/
def bfiLane (a b old : Word) : Word :=
  let pos := b.toNat % 256
  let len := min (b.toNat / 256 % 256) 32
  let mask : Word := BitVec.ofNat 32 ((2 ^ len - 1) * 2 ^ pos)
  (old &&& ~~~mask) ||| (BitVec.ofNat 32 (a.toNat % 2 ^ len * 2 ^ pos) &&& mask)

/-- An integer condition on `n`-bit values (R192); codes 10 to 15 never pass the issue checks. -/
def condHolds {n : Nat} (c : BitVec 4) (a b : BitVec n) : Bool :=
  match c.toNat with
  | 0 => a == b
  | 1 => a != b
  | 2 => decide (a.toInt < b.toInt)
  | 3 => decide (a.toInt ≤ b.toInt)
  | 4 => decide (b.toInt < a.toInt)
  | 5 => decide (b.toInt ≤ a.toInt)
  | 6 => decide (a.toNat < b.toNat)
  | 7 => decide (a.toNat ≤ b.toNat)
  | 8 => decide (b.toNat < a.toNat)
  | _ => decide (b.toNat ≤ a.toNat)

/-- ACVT (R199). -/
def acvtLane (k : Nat) (a : DWord) : DWord :=
  match k with
  | 0 => (a.truncate 32).signExtend 64
  | 1 => (a.truncate 32).zeroExtend 64
  | 2 => (a.truncate 16).signExtend 64
  | 3 => (a.truncate 16).zeroExtend 64
  | 4 => (a.truncate 8).signExtend 64
  | _ => (a.truncate 8).zeroExtend 64

/-! ### Instructions that compute lane by lane (R188) -/

/-- Writes a 32-bit result and ORs the flags of the running lanes. -/
def Iss.lane32 (x : Iss) (d : RegField) (f : Nat → Word × Flags) : Act :=
  x.okTeam ((x.t.write32 d fun l => (f l).1).orFlags (orAll (x.t.run.map fun l => (f l).2)))

/-- The same for a result that sets no flag. -/
def Iss.lane (x : Iss) (d : RegField) (f : Nat → Word) : Act := x.okTeam (x.t.write32 d f)

/-- Writes a 64-bit result, no flag. -/
def Iss.lane64 (x : Iss) (d : RegField) (f : Nat → DWord) : Act := x.okTeam (x.t.write d f)

/-- Writes a predicate, no flag. -/
def Iss.lanePred (x : Iss) (p : BitVec 3) (f : Nat → Bool) : Act := x.okTeam (x.t.writePred p.toNat f)

end Sys2Proof.Machine
end

