-- ==== Sys2Proof/Machine/Slices.lean ====
section
/-!
DEFINITION. The home of a line (R311), and requests to home slices (R313, R314, R325): a core's miss queue, a slice's request
queue, and the two steps of a request that follow from the state, acceptance and answer. What hits in an L1 is a request that is
answered at once (log entry 25).
-/

namespace Sys2Proof.Machine

/-! ### Homes (R311) -/

/-- A virtual address in the shared window (R290). -/
def isShared (va : Nat) : Bool := bitOf va 51

/-- The ASID tag of an address (R290, R294). -/
def asidTag (asid va : Nat) : Nat := if isShared va then 0 else asid

/-- The entry of the group table that an address of an ASID tag uses (R311). -/
def groupIndex (tag va : Nat) : Nat :=
  let x := bitsOf va 21 27
  (bitsOf x 0 6 ^^^ bitsOf x 6 6 ^^^ bitsOf x 12 6 ^^^ bitsOf x 18 6 ^^^ bitsOf x 24 3) ^^^ tag % 64

/-- The home stop (c, n) of an address (R311). -/
def homeOf (pt : Partition) (asid va : Nat) : Nat × Nat :=
  (pt.groupTable.getD (groupIndex (asidTag asid va) va) 0, bitsOf va 7 4 ^^^ bitsOf va 11 4 ^^^ bitsOf va 15 4 ^^^ bitsOf va 19 2)

/-! ### The miss queue and the slices' queues (R313, R314) -/

/-- Places of a core's miss queue, and of a slice's request queue. -/
def missQueue : Nat := 128
def sliceQueue : Nat := 32

/-- The requests of a core that no slice has accepted, oldest first. -/
def Core.waiting (k : Core) : List SliceReq := k.reqs.filter fun q => !q.accepted

/-- Those of them that stand in the miss queue; later ones wait to enter it. -/
def Core.queued (k : Core) : List SliceReq := k.waiting.take missQueue

/-- The miss queue of the issuing team's core is full, or requests of an earlier instruction wait to enter it. -/
def Iss.missFull (x : Iss) : Bool := (x.s.core? x.g.core).any fun k => decide (missQueue ≤ k.waiting.length)

/-- An instruction that makes requests is held at issue while the miss queue is full. -/
def Iss.misses (x : Iss) (k : Act) : Act := if x.missFull then .hold x.s else k

/-- The request of a lane of instruction `seq` of a team at an address. -/
def requestAt (pt : Partition) (c : Ctx) (r : TeamRef) (seq : Nat) (accepted : Bool) (p : Nat × Nat) : SliceReq :=
  { team := r, seq := seq, lane := p.1, home := homeOf pt c.asid p.2, accepted := accepted,
    index := groupIndex (asidTag c.asid p.2) p.2 }

/-- Requests of instruction `seq` of a team enter its core's miss queue, in ascending lane order: one for each lane and its
address. -/
def State.requestFor (s : State) (r : TeamRef) (core seq : Nat) (c : Ctx) (lanes : List (Nat × Nat)) : State :=
  match s.part? c.part with
  | none => s
  | some pt => s.modCore core fun k => { k with reqs := k.reqs ++ lanes.map (requestAt pt c r seq false) }

/-- The requests of the issuing instruction. -/
def Iss.request (x : Iss) (s : State) (c : Ctx) (lanes : List (Nat × Nat)) : State :=
  s.requestFor x.r x.g.core x.t.seqNo c lanes

/-- No request of an instruction of a team waits for its answer; of one lane alone where a lane is given. -/
def Core.answered (k : Core) (r : TeamRef) (seq : Nat) (lanes : List Nat) : Bool :=
  !k.reqs.any fun q => q.team == r && q.seq == seq && (lanes.isEmpty || lanes.contains q.lane)

/-- The requests that a result waits for are answered. -/
def State.resultReady (s : State) (core : Nat) (r : TeamRef) (p : PendWrite) : Bool :=
  match p.req with
  | none => true
  | some seq => (s.core? core).all fun k => k.answered r seq (p.vals.map (·.1))

/-- The requests that a queue entry's data wait for are answered. -/
def State.entryReady (s : State) (g : Group) (e : QEntry) : Bool :=
  match e.req with
  | none => true
  | some seq => (s.core? g.core).all fun k => k.answered { uid := g.uid, tid := e.owner } seq []

/-- Requests that a slice has accepted and not answered, of every core. -/
def State.sliceFill (s : State) (home : Nat × Nat) : Nat :=
  (s.cores.map fun k => (k.reqs.filter fun q => q.accepted && q.home == home).length).sum

/-- The request that a slice accepts next from a core: the oldest to it in the miss queue, while the slice has room. -/
def State.acceptNext (s : State) (core : Nat) (home : Nat × Nat) : Option SliceReq :=
  match s.core? core with
  | none => none
  | some k => if s.sliceFill home < sliceQueue then k.queued.find? fun q => q.home == home else none

/-- A slice accepts a request. -/
def execSliceAccept (core c n : Nat) (s : State) : Host.Outcome State Fault Refusal :=
  match s.acceptNext core (c, n) with
  | none => .next s
  | some q =>
    .next (s.modCore core fun k => { k with
      reqs := k.reqs.map fun x => if x.team == q.team && x.seq == q.seq && x.lane == q.lane then { x with accepted := true } else x }).moved

/-- A slice answers one of the requests it has accepted: they are answered in any order (R313). -/
def execSliceAnswer (core i : Nat) (s : State) : Host.Outcome State Fault Refusal :=
  match (s.core? core).bind fun k => k.reqs[i]? with
  | none => .next s
  | some q => if q.accepted then .next (s.modCore core fun k => { k with reqs := k.reqs.eraseIdx i }).moved else .next s

/-- Requests of a group's teams are answered: their data have come, or nothing waits for them any longer. -/
def Core.dropReqs (k : Core) (uid : Nat) : Core := { k with reqs := k.reqs.filter fun q => q.team.uid != uid }

/-! ### Stores at a slice -/

/-- A slice can take a store of a team now: it has room, and none of the team's earlier requests to it waits in the miss queue
(R313, R314). -/
def State.sliceTakes (s : State) (core : Nat) (r : TeamRef) (home : Nat × Nat) : Bool :=
  decide (s.sliceFill home < sliceQueue) && (s.core? core).all fun k => !k.waiting.any fun q => q.team == r && q.home == home

/-- A slice has accepted and answered every request of a core's miss queue to it, and those it held before (R313, R314). -/
def State.sliceEmptied (s : State) (core : Nat) (home : Nat × Nat) : State :=
  { s with cores := s.cores.mapIdx fun i k =>
      { k with reqs := k.reqs.filter fun q => !(q.home == home && (q.accepted || i == core)) } }

/-- The slice once it can take a store of a team: at once, or once it has answered what is before that. -/
def State.sliceFreed (s : State) (core : Nat) (r : TeamRef) (home : Nat × Nat) : State :=
  if s.sliceTakes core r home then s else s.sliceEmptied core home

/-- The home slice of an address accepts a store of a team: it takes a place of the slice's queue until it is answered. -/
def State.takeStore (s : State) (core : Nat) (r : TeamRef) (c : Ctx) (e : StoreEntry) : State :=
  match s.part? c.part with
  | none => s
  | some pt =>
    (s.sliceFreed core r (homeOf pt c.asid e.va)).modCore core fun k =>
      { k with reqs := k.reqs ++ [requestAt pt c r e.seq true (e.lane, e.va)] }

/-- The home slice of a store's address can take it now. -/
def State.storeFits (s : State) (core : Nat) (r : TeamRef) (c : Ctx) (e : StoreEntry) : Bool :=
  (s.part? c.part).all fun pt => s.sliceTakes core r (homeOf pt c.asid e.va)

end Sys2Proof.Machine
end

