-- ==== Sys2Proof/Machine/Addr.lean ====
section
/-!
DEFINITION. The address instructions of major 0x08 (R199) and SLICE (R325): 64 bits, ACCESS teams only.
-/

namespace Sys2Proof.Machine

/-- AADD (R199). -/
def execAadd (d a b : RegField) (s : State) : Host.Outcome State Fault Refusal :=
  issue (.aadd d a b) s fun x => x.lane64 d fun l => x.t.reg a l + x.t.reg b l

/-- ASUB (R199). -/
def execAsub (d a b : RegField) (s : State) : Host.Outcome State Fault Refusal :=
  issue (.asub d a b) s fun x => x.lane64 d fun l => x.t.reg a l - x.t.reg b l

/-- AMOV (R199): sB in the high half, sA in the low half. -/
def execAmov (d a b : RegField) (s : State) : Host.Outcome State Fault Refusal :=
  issue (.amov d a b) s fun x => x.lane64 d fun _ => x.t.sreg b ++ x.t.sreg a

/-- ACVT (R199). -/
def execAcvt (d a k : RegField) (s : State) : Host.Outcome State Fault Refusal :=
  issue (.acvt d a k) s fun x => x.lane64 d fun l => acvtLane k.toNat (x.t.reg a l)

/-- ACMP (R192, R199). -/
def execAcmp (c : BitVec 4) (p : BitVec 3) (a b : RegField) (s : State) : Host.Outcome State Fault Refusal :=
  issue (.acmp c p a b) s fun x => x.lanePred p fun l => condHolds c (x.t.reg a l) (x.t.reg b l)

/-- What SLICE reports for one address (R325): its home, the requests of this core that its slice has accepted and not yet
answered, or those to it that wait in the miss queue. An address with a bit above 51 set gives all ones. -/
def sliceValue (s : State) (g : Group) (k : Nat) (va : DWord) : DWord :=
  if 2 ^ 52 ≤ va.toNat then BitVec.allOnes 64
  else
    match s.part? g.part, s.ctxOf g, s.core? g.core with
    | some pt, some c, some core =>
      let h := homeOf pt c.asid va.toNat
      match k with
      | 0 => BitVec.ofNat 64 (h.1 * 16 + h.2)
      | 1 => BitVec.ofNat 64 (core.reqs.filter fun q => q.accepted && q.home == h).length
      | _ => BitVec.ofNat 64 (core.queued.filter fun q => q.home == h).length
    | _, _, _ => 0

/-- SLICE (R325). -/
def execSlice (d a k : RegField) (s : State) : Host.Outcome State Fault Refusal :=
  issue (.slice d a k) s fun x =>
    x.okTeam (x.t.write d fun l => sliceValue x.s x.g k.toNat (x.t.reg a l))

/-- ASHLADD (R199): the shift is FN - 8. -/
def execAshladd (d a b : RegField) (h : BitVec 3) (s : State) : Host.Outcome State Fault Refusal :=
  issue (.ashladd d a b h) s fun x => x.lane64 d fun l => x.t.reg a l + (x.t.reg b l <<< h.toNat)

end Sys2Proof.Machine
end

