-- ==== Sys2Proof/Machine/Weak.lean ====
section
/-!
DEFINITION. What a read may miss (R254, R255, R257, R262): writes are kept as they are made, each with the bytes it replaced, so
that a read can be given the bytes from before some of them. Global memory, scratchpads and codebooks use it.
-/

namespace Sys2Proof.Machine

/-- The write lies partly in the `n` bytes at `a`. -/
def PastWrite.meets (e : PastWrite) (a n : Nat) : Bool := decide (e.pa < a + n ∧ a < e.pa + e.old.length)

/-- Two writes share a byte of the `n` bytes at `a`. -/
def PastWrite.clashes (e k : PastWrite) (a n : Nat) : Bool :=
  decide (max (max e.pa k.pa) a < min (min (e.pa + e.old.length) (k.pa + k.old.length)) (a + n))

/-- The bytes at `a` as they were before a write. -/
def PastWrite.undo (e : PastWrite) (a : Nat) (bs : List Byte) : List Byte :=
  bs.mapIdx fun i b => if e.pa ≤ a + i then (e.old[a + i - e.pa]?).getD b else b

/-- The bytes at `a` for a read that misses some of the writes, latest first, and the writes it sees. A write is missed only
if it may be and no later write that the read sees shares a byte with it: so what is read has stood there, at one point of
the location's coherence order (R254). -/
def readPast (may : PastWrite → Bool) (a n : Nat) : List PastWrite → List Byte → List PastWrite → List Byte × List PastWrite
  | [], bs, kept => (bs, kept)
  | e :: es, bs, kept =>
    if e.meets a n then
      if !(kept.any fun k => e.clashes k a n) && may e then readPast may a n es (e.undo a bs) kept
      else readPast may a n es bs (e :: kept)
    else readPast may a n es bs kept

/-- No read of the `n` bytes at `a` misses an earlier write any longer: what stands there is another page's now. -/
def closePast (host : Bool) (a n : Nat) (es : List PastWrite) : List PastWrite :=
  es.map fun e => if e.host == host && e.meets a n then { e with closed := true } else e

/-- A write of a team that has made its stores visible to engines (R262). -/
def PastWrite.fence (r : TeamRef) (e : PastWrite) : PastWrite := if e.maker = some r then { e with fenced := true } else e

end Sys2Proof.Machine
end

