-- ==== Sys2Proof/Machine/Translate.lean ====
section
/-!
DEFINITION. Global virtual memory: the table walk and its checks (R291 to R293), the TLBs
(R294, R295), physical memory (R19, R266), a team's store buffer (R257, R297), and the parking of an access that faults
(R296).
-/

namespace Sys2Proof.Machine

/-! ### Physical memory (R19) -/

/-- Bytes of a stack that are backed. -/
def stackBytes : Nat := 96000000000

/-- The stack of a physical address. -/
def stackOf (pa : Nat) : Nat := pa / 2 ^ 37

/-- A physical address backed by a stack of the partition (R16, R19, R292). -/
def State.owns (s : State) (part pa : Nat) : Bool :=
  decide (pa < 2 ^ 42) && decide (stackOf pa < 24) && decide (pa % 2 ^ 37 < stackBytes) &&
    match s.dev.mode with
    | .eight => stackOf pa / 3 == part
    | .one => true
    | .hamada => stackOf pa == s.dev.boot.stack

/-- Bytes at a physical address of device or host memory. -/
def State.readPhys (s : State) (host : Bool) (pa n : Nat) : List Byte := memReadN (if host then s.hostMem else s.mem) pa n

/-- Writes bytes at a physical address, by a team under a name or by the part, the host or an engine; the write is numbered, and
the bytes it replaces are kept for reads that may miss it (R254). -/
def State.writeAs (s : State) (maker : Option TeamRef) (name : Option (Nat × Int)) (host : Bool) (pa : Nat) (bs : List Byte) : State :=
  let e : PastWrite :=
    { ver := s.vers, name := name, host := host, pa := pa, old := s.readPhys host pa bs.length, maker := maker, fenced := false,
      closed := false }
  { s with
    mem := if host then s.mem else memWriteN s.mem pa bs
    hostMem := if host then memWriteN s.hostMem pa bs else s.hostMem
    past := e :: s.past
    vers := s.vers + 1 }

/-- Writes bytes at a physical address, not as a team's access. -/
def State.writePhys (s : State) (host : Bool) (pa : Nat) (bs : List Byte) : State := s.writeAs none none host pa bs

/-! ### Names (R288, R289) -/

/-- The name under which an access reaches a physical byte (R288): the ASID tag, and how far the virtual address lies from the
physical one. -/
def nameOf (asid va pa : Nat) : Nat × Int := (asidTag asid va, (va : Int) - pa)

/-- A shootdown has invalidated the line of an address under an ASID tag. -/
def Shot.covers (h : Shot) (tag va : Nat) : Bool :=
  (match h.asid with
    | some a => a == tag
    | none => true) && decide (h.lo ≤ va ∧ va < h.hi) &&
    match h.index with
    | some i => groupIndex tag va == i
    | none => true

/-- The number of the next write at the latest shootdown of an address's line in a partition. -/
def State.shotAt (s : State) (part asid va : Nat) : Nat :=
  match s.part? part with
  | none => 0
  | some pt => ((pt.shots.filter fun h => h.covers (asidTag asid va) va).map (·.ver)).foldl max 0

/-- Records a shootdown of a partition. -/
def State.noteShot (s : State) (part : Nat) (h : Shot) : State := s.modPart part fun pt => { pt with shots := h :: pt.shots }

/-- A byte of global memory as an engine or the part reaches it: its physical place, and the address, ASID and partition it is
reached by. -/
structure Place where
  host : Bool
  pa   : Nat
  va   : Nat
  asid : Nat
  part : Nat
  deriving DecidableEq, Repr

/-- The name of a place. -/
def Place.name (p : Place) : Nat × Int := nameOf p.asid p.va p.pa

/-- Any read may miss a write made under another name since the latest shootdown of the address that it reads by (R288, R289). -/
def State.missesAlias (s : State) (p : Place) (e : PastWrite) : Bool :=
  !e.closed && (e.name.any fun k => k != p.name) && decide (s.shotAt p.part p.asid p.va ≤ e.ver) && Config.lag s.steps p.va e.ver

/-- The `n` bytes from a place on, as an engine or the part reads them at home: all but some writes made under other names. -/
def State.readAt (s : State) (p : Place) (n : Nat) : List Byte :=
  (readPast (s.missesAlias p) p.pa n (s.past.filter fun e => e.host == p.host) (s.readPhys p.host p.pa n) []).1

/-- The page at a frame is another one from now on: no read misses what was written there before. -/
def State.closeFrame (s : State) (pa n : Nat) : State := { s with past := closePast false pa n s.past }

/-! ### The walk (R291 to R293) -/

/-- What an access asks of a leaf (R293). -/
inductive Access where
  | read | write | code
  deriving DecidableEq, Repr

/-- How a translation ends: a physical address with the leaf's LOC and ATOM, a fault with its REASON and LEVEL (R300), a
compressed page with its PTE's address (R307), or an entry or byte that puts the context into ERROR (R19, R292). -/
inductive XRes where
  | ok (host : Bool) (pa atom : Nat)
  | fault (reason level : Nat)
  | expand (pte : Nat)
  | bad
  deriving DecidableEq, Repr

/-- A leaf as the walk finds it: its level, its PTE's address and its value. -/
inductive WRes where
  | leaf (level pte val : Nat)
  | absent (level : Nat)
  | bad
  deriving DecidableEq, Repr

/-- log2 of the page size of a leaf level: 64 KiB, 32 MiB, 16 GiB. -/
def pageBits (level : Nat) : Nat := 7 + 9 * level

/-- A leaf that R292 rejects. -/
def leafBad (s : State) (part level va e : Nat) : Bool :=
  level == 4 || bitsOf e 60 3 != 0 || bitsOf e 13 3 != 0 || bitOf e 12 != isShared va ||
    (bitsOf e 16 44 * 65536) % 2 ^ pageBits level != 0 || (bitOf e 6 && (level != 1 || bitOf e 3)) ||
    (!bitOf e 3 && !s.owns part (bitsOf e 16 44 * 65536))

/-- The walk from a table at a level, by recursion on the level. It reads every table anew: no controller caches directory entries,
which R294 allows (DESIGN CHOICE, log entry 35). -/
def walkFrom (s : State) (part va : Nat) : Nat → Nat → WRes
  | 0, _ => .bad
  | l + 1, base =>
    let level := l + 1
    if !s.owns part base then .bad
    else
      let pte := base + 8 * bitsOf va (pageBits level) 9
      let e := memNat s.mem pte 8
      if !bitOf e 0 then .absent level
      else if bitOf e 63 then
        if level == 1 || bitsOf e 60 3 != 0 || bitsOf e 1 11 != 0 then .bad
        else walkFrom s part va l (bitsOf e 12 48 * 4096)
      else if leafBad s part level va e then .bad
      else .leaf level pte e

/-- The walk for an address (R290): the shared window through the partition's shared tables, which hold no present entry
until they are installed. -/
def State.walk (s : State) (c : Ctx) (va : Nat) : WRes :=
  if isShared va then
    match (s.part? c.part).bind (fun p => p.sharedRoot) with
    | some root => walkFrom s c.part va 4 root
    | none => .absent 4
  else walkFrom s c.part va 4 c.ptroot

/-- Whether a leaf allows an access, and the REASON if not (R293, R300). -/
def leafDenies (a : Access) (e : Nat) : Option Nat :=
  match a with
  | .read => none
  | .write => if bitOf e 1 then none else some 2
  | .code => if bitOf e 2 then none else some 3

/-- The outcome of a leaf for an access. -/
def leafResult (s : State) (part : Nat) (a : Access) (va level pte e : Nat) : XRes :=
  match leafDenies a e with
  | some reason => .fault reason level
  | none =>
    if bitOf e 6 then .expand pte
    else
      let pa := bitsOf e 16 44 * 65536 + va % 2 ^ pageBits level
      if bitOf e 3 then .ok true pa (bitsOf e 4 2)
      else if s.owns part pa then .ok false pa 3
      else .bad

/-- A TLB entry that covers an address at one controller. -/
def tlbHit (col tag va : Nat) (e : TlbEntry) : Bool :=
  e.col == col && e.asid == tag && va / 2 ^ pageBits e.level == e.vpn

/-- The entries of a controller's TLB with one more: of its 16,384 places in 8 ways all may be taken, or the 8 of the entry's
set, and then another entry leaves it (R294). Which sets there are is not architectural, so that can be from 8 entries on. -/
def tlbInstall (n : Nat) (e : TlbEntry) (tlb : List TlbEntry) : List TlbEntry :=
  let mine := tlb.filter fun x => x.col == e.col
  if mine.length < 8 then e :: tlb
  else
    let k := Config.tlbVictim n
    match mine[if mine.length < 16384 then k else k % mine.length]? with
    | some v => e :: tlb.erase v
    | none => e :: tlb

/-- Translates one address for an access: through the TLB of the home slice's column, else by a walk, which sets A in the
PTE and installs the leaf (R294, R295). A fault or an expansion changes nothing. -/
def State.xlate (s : State) (c : Ctx) (a : Access) (va : Nat) : XRes × State :=
  match s.part? c.part with
  | none => (.bad, s)
  | some pt =>
    let col := (homeOf pt c.asid va).1
    let tag := asidTag c.asid va
    match pt.tlb.find? (tlbHit col tag va) with
    | some e => (leafResult s c.part a va e.level 0 e.pte.toNat, s)
    | none =>
      match s.walk c va with
      | .bad => (.bad, s)
      | .absent level => (.fault 1 level, s)
      | .leaf level pte e =>
        match leafResult s c.part a va level pte e with
        | .ok host pa atom =>
          let s := if bitOf e 7 then s else s.writePhys false pte (leBytes 8 (e + 128))
          let e := if bitOf e 7 then e else e + 128
          let n := s.vers
          let t : TlbEntry :=
            { col := col, asid := tag, level := level, vpn := va / 2 ^ pageBits level, pte := BitVec.ofNat 64 e, since := n }
          (.ok host pa atom, s.modPart c.part fun pt => { pt with tlb := tlbInstall n t pt.tlb })
        | r => (r, s)

/-- The number of the next write when the TLB entry of an address was entered. -/
def State.leafSince (s : State) (c : Ctx) (va : Nat) : Nat :=
  match s.part? c.part with
  | none => 0
  | some pt => ((pt.tlb.find? (tlbHit (homeOf pt c.asid va).1 (asidTag c.asid va) va)).map (·.since)).getD 0

/-! ### Lane addresses (R142) -/

/-- The virtual addresses of the running lanes, base plus byte offset modulo 2^64 (R142). -/
def Team.vas (t : Team) (a : RegField) (off : Int) : List (Nat × Nat) :=
  t.run.map fun l => (l, (t.reg a l + BitVec.ofInt 64 off).toNat)

/-- The first lane whose address is out of range (MEMFAULT) or misaligned (ALIGN), with its trap (R142). -/
def vaFault (size : Nat) : List (Nat × Nat) → Option (Nat × DWord)
  | [] => none
  | (_, va) :: r =>
    if 2 ^ 52 ≤ va then some (trapMemfault, BitVec.ofNat 64 va)
    else if va % size ≠ 0 then some (trapAlign, BitVec.ofNat 64 va)
    else vaFault size r

/-! ### Store buffers (R142, R257, R297) -/

/-- The bytes at `va` with one buffered store laid over them. -/
def overlayStore (va : Nat) (bs : List Byte) (e : StoreEntry) : List Byte :=
  bs.mapIdx fun i b => if e.va ≤ va + i then (e.bytes[va + i - e.va]?).getD b else b

/-- What the load of number `seq` of a team reads: the home value under the team's own buffered stores that come before it in
program order, oldest first (R142, R249). -/
def Team.forward (t : Team) (seq va : Nat) (bs : List Byte) : List Byte :=
  (t.sbuf.filter fun e => decide (e.seq < seq)).foldl (overlayStore va) bs

/-- One lane's access at an address, with no data. -/
def laneAt (lane va : Nat) : LaneAcc := { lane := lane, va := va, data := 0, cmp := 0 }

/-- Bytes that an unfinished lane accesses. -/
def ReplayKind.bytes (k : ReplayKind) : Nat :=
  match k with
  | .load _ n _ => n
  | .atom _ _ n => n
  | .queue _ _ n => n
  | .store n => n
  | .whole => 0
  | .rewrite => 0
  | .spill => 0

/-- An item of the replay set is a store. -/
def ReplayItem.isStore (i : ReplayItem) : Bool :=
  match i.kind with
  | .store _ => true
  | _ => false

/-- An unfinished lane of an item overlaps the `n` bytes at `va`. -/
def ReplayItem.touches (i : ReplayItem) (va n : Nat) : Bool :=
  i.lanes.any fun a => decide (a.va < va + n ∧ va < a.va + i.kind.bytes)

/-- Puts an item into a replay set, which stands in program order (R298). -/
def insertItem (i : ReplayItem) : List ReplayItem → List ReplayItem
  | [] => [i]
  | x :: r => if i.seq < x.seq then i :: x :: r else x :: insertItem i r

/-- Adds an item to the replay set when lanes are left (R296). -/
def Team.addItem (t : Team) (i : ReplayItem) : Team :=
  if i.lanes.isEmpty then t else { t with replay := insertItem i t.replay }

/-- Adds the instruction being issued to the replay set when lanes are left (R296). -/
def Team.addReplay (t : Team) (pc : Word) (kind : ReplayKind) (left : List LaneAcc) (acq : Bool := false)
    (low : Option Nat := none) : Team :=
  t.addItem { seq := t.seqNo, pc := pc, kind := kind, lanes := left, reqs := [], reported := false, acq := acq, low := low }

/-- A store instruction of the replay set keeps the team's stores from leaving the buffer (R297). -/
def Team.storeBlocked (t : Team) : Bool := t.replay.any ReplayItem.isStore

/-- A load, queue load or atomic that comes before `seq` in program order has a lane to the same bytes that is not performed
yet: the access of number `seq` comes after it (R249, R298). -/
def Team.behind (t : Team) (seq va n : Nat) : Bool :=
  t.replay.any fun i => !i.isStore && decide (i.seq < seq) && i.touches va n

/-- A buffered store stays in the buffer: a store of the replay set holds it (R297), or it must not pass an earlier access of
the team to the same bytes (R249). -/
def Team.storeWaits (t : Team) (e : StoreEntry) : Bool := t.storeBlocked || t.behind e.seq e.va e.bytes.length

/-- The oldest buffered store can leave the buffer. -/
def Team.storeReady (t : Team) : Bool :=
  match t.sbuf with
  | e :: _ => !t.storeWaits e
  | [] => false

/-- The lanes of the store instruction of number `seq` that stand in the buffer. -/
def Team.heldLanes (t : Team) (seq : Nat) : List LaneAcc :=
  (t.sbuf.filter fun e => e.seq == seq).map fun e => laneAt e.lane e.va

/-- The item of a store instruction that cannot be finished: all its lanes that stand in the buffer (R296). -/
def Team.storeItem (t : Team) (e : StoreEntry) : ReplayItem :=
  { seq := e.seq, pc := e.pc, kind := .store e.bytes.length, lanes := t.heldLanes e.seq, reqs := [], reported := false,
    acq := false, low := none }

/-- An access by the part or a team to bytes it may not reach: the context goes to ERROR with cause 0x22 (R19, R292). -/
def State.badAccess (s : State) (g : Group) (t : Team) : State :=
  s.ctxError g.part g.ctxid 0x22 g.core t.trappc t.trapva

/-- Writes the oldest buffered store of a team at its home slice, once that can take it (R313, R314). A store that faults joins the replay set, unreported, and
stays in the buffer with every later one (R297, R309). -/
def State.drainOne (s : State) (r : TeamRef) : State :=
  match s.group? r.uid with
  | none => s
  | some g =>
    match g.team? r.tid, s.ctxOf g with
    | some t, some c =>
      match t.sbuf with
      | [] => s
      | e :: rest =>
        if t.storeWaits e then s
        else
          match s.xlate c .write e.va with
          | (.ok host pa _, s) =>
            ((s.takeStore g.core r c e).writeAs (some r) (some (nameOf c.asid e.va pa)) host pa e.bytes).modTeam r fun t =>
              { t with sbuf := rest }
          | (.bad, s) => s.badAccess g t
          | (_, s) => s.modTeam r fun t => t.addItem (t.storeItem e)
    | _, _ => s

/-- The oldest buffered store of a team can leave the buffer, and its home slice can take it. -/
def State.storeTaken (s : State) (r : TeamRef) : Bool :=
  (s.group? r.uid).any fun g => (g.team? r.tid).any fun t => (s.ctxOf g).any fun c =>
    t.storeReady && (t.sbuf.head?).any fun e => s.storeFits g.core r c e

/-- Drains a team's buffer, at most `n` stores. -/
def State.drainN (s : State) (r : TeamRef) : Nat → State
  | 0 => s
  | n + 1 => (s.drainOne r).drainN r n

/-- Drains what the buffer holds of the store instruction of number `seq`, its oldest. -/
def State.drainSeq (s : State) (r : TeamRef) (seq : Nat) : State :=
  s.drainN r (((s.team? r).map (fun t => (t.sbuf.takeWhile fun e => e.seq == seq).length)).getD 0)

/-- Drains a team's whole buffer, as far as its stores can be performed: what a release starts with (R258). -/
def State.drain (s : State) (r : TeamRef) : State := s.drainN r (((s.team? r).map (fun t => t.sbuf.length)).getD 0)

/-- Every access of the team has been performed: its buffer is empty and nothing waits to be replayed. -/
def Team.performed (t : Team) : Bool := t.sbuf.isEmpty && t.replay.isEmpty

/-- A release that a team begins after its SOLICIT completes in a-clk S + 1 or later (R446). -/
def State.pastSnapshots (s : State) (t : Team) : State :=
  { s with clk := (s.censuses.filter fun c => t.censuses.contains c.cseq).foldl (fun n c => max n (c.snapAt + 1)) s.clk }

/-- The team's loads take their values no later than now: what a fence or a synchronising access makes of those before it. -/
def Team.freezeAll (t : Team) : Team := { t with pend := t.pend.map fun p => { p with late := none } }

/-- The same for its loads of any of the `n` bytes at the addresses, which a later access of the team must not overtake
(R249, R254). -/
def Team.freeze (t : Team) (lanes : List LaneAcc) (n : Nat) : Team :=
  { t with pend := t.pend.map fun p =>
      if (p.late.any fun l => lanes.any fun a => decide (a.va < l.va + l.bytes ∧ l.va < a.va + n)) then { p with late := none }
      else p }

/-- An acquire (R251, R258): later reads of the team miss no write made so far, in global memory or in its group's scratchpad. -/
def Team.acquired (t : Team) (vers pad : Nat) : Team := { t.freezeAll with acqAt := vers, padAt := pad }

/-- An acquire by a team of a core ends what its L1 holds of host memory (R266). -/
def State.acquiredOn (s : State) (core : Nat) : State := s.modCore core fun k => { k with acqAt := s.vers }

/-- A team performs an acquire. -/
def State.acquire (s : State) (r : TeamRef) : State :=
  match s.group? r.uid with
  | none => s
  | some g => (s.acquiredOn g.core).modTeam r fun t => t.acquired s.vers g.vers

/-- What a release starts with (R258): the team's stores are written to their home slices, through the core's miss queue, or wait
while that is full (R314). -/
def Iss.written (x : Iss) : State :=
  if !x.t.sbuf.isEmpty && x.missFull then x.s else ((x.s.pastSnapshots x.t).modTeam x.r Team.freezeAll).drain x.r

/-- A release by the issuing team (R258). The team is held while its stores cannot be performed. -/
def Iss.release (x : Iss) (k : Iss → Act) : Act :=
  let s := x.written
  match s.group? x.r.uid with
  | none => .done s
  | some g =>
    match g.team? x.r.tid with
    | none => .done s
    | some t => if t.performed then k { x with s := s, g := g.forTeam t, t := t } else .hold s

/-! ### Reading lane by lane -/

/-- Who reads: the context, the team, the number of its instruction, and whether the read takes the home value (an acquire, or
a read by the part on the team's behalf), not one that an ordinary load may return. -/
structure Reader where
  c     : Ctx
  r     : TeamRef
  t     : Team
  seq   : Nat
  fresh : Bool
  deriving DecidableEq, Repr

/-- The issuing team as a reader. -/
def Iss.reader (x : Iss) (c : Ctx) (fresh : Bool) : Reader := { c := c, r := x.r, t := x.t, seq := x.t.seqNo, fresh := fresh }

/-- The number of the next write at the latest acquire that bounds a team's reads: its own, and for host memory its core's (R266). -/
def Reader.acqAt (w : Reader) (s : State) (host : Bool) : Nat :=
  if host then max w.t.acqAt ((((s.group? w.r.uid).bind fun g => s.core? g.core).map (·.acqAt)).getD 0) else w.t.acqAt

/-- An ordinary read of a team may miss another's write since its latest acquire, one that has no name, the host's, only since the
TLB entry was entered that it reads through. -/
def Reader.ordinary (w : Reader) (s : State) (p : Place) (e : PastWrite) : Bool :=
  !w.fresh && e.maker != some w.r && decide (w.acqAt s e.host ≤ e.ver) && (e.name.isSome || decide (s.leafSince w.c p.va ≤ e.ver))

/-- A read of a team may miss a write that it has not read yet: one made under another name since the latest shootdown (R288,
R289), its own among them, or another's that its latest acquire leaves open (R254, R255). -/
def Reader.mayMiss (w : Reader) (s : State) (p : Place) (seen : List (Nat × Nat × Int)) (e : PastWrite) : Bool :=
  !e.closed && !(w.t.seen.contains (e.ver, p.name)) && !(seen.contains (e.ver, p.name)) &&
    (if e.name.any fun k => k != p.name then decide (s.shotAt p.part p.asid p.va ≤ e.ver) else w.ordinary s p e) &&
    Config.lag s.steps p.va e.ver

/-- A single-copy atomic read of a team (R256): the bytes, and the writes of others it has now read. -/
def State.readFor (s : State) (w : Reader) (seen : List (Nat × Nat × Int)) (host : Bool) (pa va n : Nat) :
    List Byte × List (Nat × Nat × Int) :=
  let p : Place := { host := host, pa := pa, va := va, asid := w.c.asid, part := w.c.part }
  let q := readPast (w.mayMiss s p seen) pa n (s.past.filter fun e => e.host == host) (s.readPhys host pa n) []
  (q.1, (q.2.filter fun e => (e.maker != some w.r || e.name != some p.name) && !e.closed).map fun e => (e.ver, p.name))

/-- Lanes read so far: the state, the bytes of each finished lane, the lanes that faulted, a bad access, and the writes read. -/
structure Gather where
  s    : State
  vals : List (Nat × List Byte)
  left : List LaneAcc
  bad  : Bool
  seen : List (Nat × Nat × Int)
  deriving DecidableEq, Repr

/-- Reads `n` bytes of one lane's address for a team: 16 bytes are two reads of 8 (R256). A lane that an earlier unfinished
access of the team to the same bytes stands before is left with it (R249). -/
def gatherLane (w : Reader) (n : Nat) (q : Gather) (a : LaneAcc) : Gather :=
  if w.t.behind w.seq a.va n then { q with left := q.left ++ [a] }
  else
    match q.s.xlate w.c .read a.va with
    | (.ok host pa _, s) =>
      let lo := s.readFor w q.seen host pa a.va (min n 8)
      let hi := if n = 16 then s.readFor w (lo.2 ++ q.seen) host (pa + 8) (a.va + 8) 8 else ([], [])
      { q with s := s, vals := q.vals ++ [(a.lane, w.t.forward w.seq a.va (lo.1 ++ hi.1))], seen := hi.2 ++ lo.2 ++ q.seen }
    | (.bad, _) => { q with bad := true }
    | (_, _) => { q with left := q.left ++ [a] }

/-- Reads every lane, in ascending lane order. -/
def gatherLanes (s : State) (w : Reader) (n : Nat) (lanes : List LaneAcc) : Gather :=
  lanes.foldl (gatherLane w n) { s := s, vals := [], left := [], bad := false, seen := [] }

/-- Reads a run of bytes for the issuing team, by ordinary loads or (`fresh`) as they stand at home: word by word where it
consists of aligned words, else byte by byte. -/
def Iss.readRun (x : Iss) (s : State) (c : Ctx) (fresh : Bool) (va n : Nat) : Gather :=
  let k := if va % 8 = 0 ∧ n % 8 = 0 then 8 else 1
  gatherLanes s (x.reader c fresh) k ((List.range (n / k)).map fun i => laneAt i (va + k * i))

/-- The writes that a gathering read has seen are the team's. -/
def Team.sees (t : Team) (seen : List (Nat × Nat × Int)) : Team := { t with seen := seen ++ t.seen }

/-- The bytes a run read, in order. -/
def Gather.bytes (q : Gather) : List Byte := q.vals.flatMap (·.2)

/-- The results of a load on their way to the registers: the value extended to 64 bits, and for 128 bits the high half in
the next register (R144, R166). -/
def loadWrites (d : RegField) (n : Nat) (sx : Bool) (vals : List (Nat × List Byte)) : List PendWrite :=
  let low := vals.map fun p =>
    (p.1, if sx then BitVec.ofInt 64 (signedOf (8 * n) (leNat p.2)) else BitVec.ofNat 64 (leNat (p.2.take 8)))
  if n = 16 then
    [{ dst := d, vals := low, flags := 0 },
     { dst := nextField d, vals := vals.map (fun p => (p.1, BitVec.ofNat 64 (leNat (p.2.drop 8)))), flags := 0 }]
  else [{ dst := d, vals := low, flags := 0 }]

/-- Of the values read for an s register the lowest running lane's alone is written (R53). -/
def onlyLow (low : Option Nat) (vals : List (Nat × List Byte)) : List (Nat × List Byte) :=
  match low with
  | some l => vals.filter fun p => p.1 == l
  | none => vals

/-- The lane whose value alone a destination takes: of an s register the lowest running lane (R53). -/
def Team.lowFor (t : Team) (d : RegField) : Option Nat := if isS d then t.low? else none

/-- A later lane of the same access has the address of a lane: lanes are performed in ascending order, so this one may not take a
later value than that one (R254). -/
def followed (lanes : List LaneAcc) (a : LaneAcc) : Bool := lanes.any fun b => decide (a.lane < b.lane) && b.va == a.va

/-- The results of an ordinary load, which may still take later values (R254): `lanes` gives each lane's address. -/
def lateWrites (d : RegField) (n : Nat) (sx : Bool) (seq ver : Nat) (lanes : List LaneAcc) (vals : List (Nat × List Byte)) :
    List PendWrite :=
  ((loadWrites d n sx vals).flatMap PendWrite.lanes).map fun p =>
    match p.vals with
    | [(l, _)] =>
      match lanes.find? fun a => a.lane == l with
      | some a =>
        if followed lanes a then p else
        let off := if p.dst = d then 0 else 8
        { p with late := some { seq := seq, va := a.va + off, bytes := min n 8, sx := sx, ver := ver } }
      | none => p
    | _ => p

/-- The writes to the bytes at a physical address, as a read under a name sees them all. -/
def State.writesAt (s : State) (key : Nat × Int) (host : Bool) (pa n : Nat) : List (Nat × Nat × Int) :=
  (s.past.filter fun e => e.host == host && e.meets pa n).map fun e => (e.ver, key)

/-- The value that a load's lane returns (R254): the one it has, or the home value of now, if that is another and the team has
written nothing there since. -/
def State.lateValue (s : State) (r : TeamRef) (p : PendWrite) : State × PendWrite :=
  match s.group? r.uid with
  | none => (s, p)
  | some g =>
    match g.team? r.tid, s.ctxOf g, p.late, p.vals with
    | some t, some c, some l, [(lane, v)] =>
      match s.xlate c .read l.va with
      | (.ok host pa _, u) =>
        let bs := t.forward l.seq l.va (u.readPhys host pa l.bytes)
        let x := if l.sx then BitVec.ofInt 64 (signedOf (8 * l.bytes) (leNat bs)) else BitVec.ofNat 64 (leNat bs)
        let own := s.past.any fun e => e.host == host && e.maker == some r && decide (l.ver ≤ e.ver) && e.meets pa l.bytes
        if x ≠ v ∧ own = false ∧ t.behind l.seq l.va l.bytes = false ∧ Config.lag s.steps l.va s.vers = true then
          (u.modTeam r fun t => t.sees (u.writesAt (nameOf c.asid l.va pa) host pa l.bytes), { p with vals := [(lane, x)] })
        else (s, p)
      | _ => (s, p)
    | _, _, _, _ => (s, p)

/-- Adds an instruction that is to be performed again whole once an address translates (R298). -/
def Team.addWhole (t : Team) (pc : Word) (va : Nat) : Team :=
  t.addReplay pc .whole [laneAt 0 va]

end Sys2Proof.Machine
end

