-- ==== Sys2Proof/Machine/Stack.lean ====
section
/-!
DEFINITION. The team's stack (R179, R180) and the STACK instructions (R181, R182).
-/

namespace Sys2Proof.Machine

/-! ### The stack cache (R179, R180) -/

/-- Bytes of a team's stack that live in its stack cache (R179). -/
def stackCacheBytes : Nat := 4096

/-- Bytes moved at once between the cache and memory: 16 where SBASE is 16-byte aligned, else 1. -/
def stackChunk (t : Team) : Nat := if t.sbase.toNat % 16 = 0 then 16 else 1

/-- The virtual address of a stack offset. -/
def stackVa (t : Team) (off : Nat) : Nat := (t.sbase.toNat + off) % 2 ^ 52

/-- The outcome of moving bytes between the cache and memory: done, waiting at an address that faults, or a bad access. -/
inductive Moved where
  | ok (s : State) (t : Team)
  | wait (s : State) (va : Nat)
  | bad
  deriving DecidableEq, Repr

/-- Spills `n` chunks from the bottom of the cache: each is an ordinary store of the team (R179), made once its address
translates for a write (R180). -/
def spillChunks (c : Ctx) : Nat → State → Team → Moved
  | 0, s, t => .ok s t
  | n + 1, s, t =>
    let k := stackChunk t
    let va := stackVa t t.stackLow
    match s.xlate c .write va with
    | (.ok _ _ _, s) =>
      let e : StoreEntry := { seq := t.seqNo, pc := t.prefixPc, lane := 0, va := va, bytes := t.stack.take k }
      spillChunks c n s { t with sbuf := t.sbuf ++ [e], stack := t.stack.drop k, stackLow := t.stackLow + k }
    | (.bad, _) => .bad
    | (_, s) => .wait s va

/-- Fills `n` chunks below the bottom of the cache. -/
def fillChunks (c : Ctx) : Nat → State → Team → Moved
  | 0, s, t => .ok s t
  | n + 1, s, t =>
    let k := stackChunk t
    let va := stackVa t (t.stackLow - k)
    match s.xlate c .read va with
    | (.ok host pa _, s) =>
      fillChunks c n s
        { t with stack := t.forward t.seqNo va (s.readAt { host := host, pa := pa, va := va, asid := c.asid, part := c.part } k) ++ t.stack, stackLow := t.stackLow - k }
    | (.bad, _) => .bad
    | (_, s) => .wait s va

/-- Goes on with the team once the bytes have moved; a fault parks the team at the instruction, which is then performed again
whole (R180). -/
def Iss.afterMove (x : Iss) (kind : ReplayKind) (m : Moved) (k : State → Team → Act) : Act :=
  match m with
  | .ok s t => k s t
  | .wait s va => .hold (s.modTeam x.r fun t => t.addReplay t.prefixPc kind [laneAt 0 va])
  | .bad => .done (x.s.badAccess x.g x.t)

/-- A push (R180): STACK where it crosses STACKSZ; bytes beyond the cache spill first. -/
def Iss.push (x : Iss) (bs : List Byte) (k : State → Team → Act) : Act :=
  let n := bs.length
  if x.g.stackSz < x.t.sp + n then .trap trapStack (x.t.sbase + BitVec.ofNat 64 (x.t.sp + n))
  else
    match x.s.ctxOf x.g with
    | none => .done x.s
    | some c =>
      let t := { x.t with stack := x.t.stack ++ bs, sp := x.t.sp + n }
      x.afterMove .spill (spillChunks c (ceilDiv (t.stack.length - stackCacheBytes) (stackChunk t)) x.s t) k

/-- A pop of `n` bytes (R180): STACK where the stack holds fewer; missing bytes are filled first. -/
def Iss.pop (x : Iss) (n : Nat) (k : State → Team → List Byte → Act) : Act :=
  if x.t.sp < n then .trap trapStack (x.t.sbase + BitVec.ofNat 64 x.t.sp - BitVec.ofNat 64 n)
  else
    match x.s.ctxOf x.g with
    | none => .done x.s
    | some c =>
      x.afterMove .whole (fillChunks c (ceilDiv (x.t.stackLow - (x.t.sp - n)) (stackChunk x.t)) x.s x.t) fun s t =>
        let keep := t.stack.length - n
        k s { t with stack := t.stack.take keep, sp := t.sp - n } (t.stack.drop keep)

/-! ### SPUSH, SPOP, SALLOC (R182) -/

/-- Bytes that a register moves (R182). -/
def pushSize (t : Team) (f : RegField) : Nat :=
  if isS f then 16 else if t.role = .access then 8 * t.lanes.length else 4 * t.lanes.length

/-- The bytes of a register, lane 0 first, whatever the lanes' condition; an s register fills the first 4 of 16 (R182). -/
def pushBytes (t : Team) (f : RegField) : List Byte :=
  if isS f then leBytes 16 (t.sreg f).toNat
  else (List.range t.lanes.length).flatMap fun l => leBytes (if t.role = .access then 8 else 4) (t.reg f l).toNat

/-- Gives every lane of a register its bytes. -/
def popInto (t : Team) (f : RegField) (bs : List Byte) : Team :=
  if isS f then t.putS f (BitVec.ofNat 32 (fieldAt bs 0 4))
  else
    let n := if t.role = .access then 8 else 4
    { t with lanes := t.lanes.mapIdx fun l ln => ln.put t.role f (BitVec.ofNat 64 (fieldAt bs (n * l) n)) }

/-- SPUSH (R182): every lane's register, whatever its condition. -/
def execSpush (a : RegField) (s : State) : Host.Outcome State Fault Refusal :=
  issue (.spush a) s fun x => x.push (pushBytes x.t a) fun s t => .ok (s.modTeam x.r fun _ => t)

/-- SPOP (R182). -/
def execSpop (d : RegField) (s : State) : Host.Outcome State Fault Refusal :=
  issue (.spop d) s fun x => x.pop (pushSize x.t d) fun s t bs => .ok (s.modTeam x.r fun _ => popInto t d bs)

/-- SALLOC (R182): pushes zero bytes, or drops bytes without reading them. -/
def execSalloc (n : BitVec 8) (s : State) : Host.Outcome State Fault Refusal :=
  issue (.salloc n) s fun x =>
    let k := x.t.immS 8 n.toNat
    if 0 ≤ k then x.push (List.replicate (16 * k.toNat) 0) fun s t => .ok (s.modTeam x.r fun _ => t)
    else
      let m := 16 * k.natAbs
      if x.t.sp < m then .trap trapStack (x.t.sbase + BitVec.ofNat 64 x.t.sp - BitVec.ofNat 64 m)
      else
        x.okTeam { x.t with sp := x.t.sp - m, stack := x.t.stack.take (x.t.stack.length - m),
                            stackLow := min x.t.stackLow (x.t.sp - m) }

end Sys2Proof.Machine
end

