-- ==== Sys2Proof/Machine/Ctl.lean ====
section
/-!
DEFINITION. Control: nesting counters (R167 to R169), demotion (R172 to R174), branches (R170, R171) and hardware loops
(R175 to R177). EXIT is in Machine/Finish.lean.
-/

namespace Sys2Proof.Machine

/-! ### Addresses and partners (R49, R169) -/

/-- The code address `off` words from the control word (R49). -/
def branchTo (pc : Word) (off : BitVec 18) : Word := pc + (off.signExtend 32) * 4

/-- The kinds of word that a partner may be (R169). -/
inductive PartnerKind where
  | elseOrEndif | endif | endl | loop
  deriving DecidableEq, Repr

/-- A decoded word is of a kind. -/
def isKind (k : PartnerKind) (i : Instr) : Bool :=
  match k, i with
  | .elseOrEndif, .elsec _ => true
  | .elseOrEndif, .endifc => true
  | .endif, .endifc => true
  | .endl, .endl _ => true
  | .loop, .loopc _ => true
  | _, _ => false

/-- The instruction at a code address of the current overlay, if any. -/
def instrAt (s : State) (g : Group) (pc target : Word) : Option Instr :=
  if target.extractLsb' 16 8 = pc.extractLsb' 16 8 then
    match s.codeWord g target with
    | some w => (decodeWord w).toOption
    | none => none
  else none

/-- The partner of a control word is of its kind and in the current overlay (R169). -/
def Iss.partnerOk (x : Iss) (k : PartnerKind) (target : Word) : Bool :=
  match instrAt x.s x.g x.t.pc target with
  | some i => isKind k i
  | none => false

/-! ### Counters (R168, R169) -/

/-- Changes the counters of lanes that have not exited. -/
def Team.mapCnt (t : Team) (f : Nat → Lane → Nat) : Team :=
  { t with lanes := t.lanes.mapIdx fun i l => if l.exited then l else { l with cnt := f i l } }

/-- The lowest lane that has not exited and whose counter would pass 255 (R169). -/
def Team.nestLane (t : Team) (f : Nat → Lane → Nat) : Option Nat :=
  (List.range t.lanes.length).find? fun i =>
    (t.lanes[i]?.map fun l => !l.exited && decide (255 < f i l)).getD false

/-- NEST where a counter would pass 255, else the rest (R169). -/
def Iss.nest (x : Iss) (f : Nat → Lane → Nat) (k : Team → Act) : Act :=
  match x.t.nestLane f with
  | some l => .trap trapNest (BitVec.ofNat 64 l)
  | none => k (x.t.mapCnt f)

/-- A jump to a partner, or to the word after it; ILLEGAL where the partner is of another kind (R169). -/
def Iss.jump (x : Iss) (k : PartnerKind) (partner : Word) (past : Bool) (t : Team) : Act :=
  if x.partnerOk k partner then .goto (x.put t) (if past then partner + 4 else partner) else x.trapWord trapIllegal

/-! ### Demotion (R172 to R174) -/

/-- Changes DK unless a demotion is outstanding, which freezes it (R173). -/
def Demotion.dkMap (d : Demotion) (f : Nat → Nat) : Demotion := if d.dpc = 0 then { d with dk := f d.dk } else d

/-- What an IF leaves in the demotion state (R173). -/
def Team.demoIf (t : Team) (divergent : Bool) (partner : Word) : Team :=
  if divergent then { t with demo := { t.demo.dkMap (fun _ => 1) with dif := some partner } }
  else { t with demo := t.demo.dkMap fun k => if 0 < k then k + 1 else k }

/-- The swap of the running and the demoted lanes (R174). -/
def Team.demoSwap (t : Team) : Team :=
  t.mapCnt fun _ l => if l.cnt = 0 then t.demo.dksave else if l.cnt = t.demo.dksave then 0 else l.cnt

/-- A demotion event of the instruction at `pc` whose next word is at `next` (R174): none where a demotion is outstanding or
DIF names no ELSE. The result is the demoted team and the address it goes on at; an error where the word at DEND is no ENDIF of
the current overlay, that of the instruction (R169). -/
def demote (s : State) (g : Group) (t : Team) (pc next : Word) : Option (Except Unit (Team × Word)) :=
  if t.demo.dpc ≠ 0 then none
  else
    match t.demo.dif with
    | none => none
    | some dif =>
      match instrAt s g dif dif with
      | some (.elsec off) =>
        let dend := branchTo dif off
        match instrAt s g pc dend with
        | some .endifc =>
          let t := { t with demo := { t.demo with dpc := next ||| 1#32, dksave := t.demo.dk, dskip := some dif, dend := some dend } }
          some (.ok (t.demoSwap, dif + 4))
        | _ => some (.error ())
      | _ => none

/-! ### Structured control (R168) -/

/-- IF (R168, R173). -/
def execIfc (p : BitVec 3) (o : BitVec 18) (s : State) : Host.Outcome State Fault Refusal :=
  issue (.ifc p o) s fun x =>
    let partner := branchTo x.t.pc o
    let set := x.t.run.any fun l => x.t.pred p.toNat l
    let clear := x.t.run.any fun l => !x.t.pred p.toNat l
    x.nest (fun _ l => if 0 < l.cnt then l.cnt + 1 else if l.predOf p.toNat then 0 else 1) fun t =>
      let t := t.demoIf (set && clear) partner
      if t.idle then x.jump .elseOrEndif partner false t else x.okTeam t

/-- ELSE (R168, R173); the ELSE at DSKIP of R174. -/
def execElsec (o : BitVec 18) (s : State) : Host.Outcome State Fault Refusal :=
  issue (.elsec o) s fun x =>
    let partner := branchTo x.t.pc o
    if x.t.demo.dskip = some x.t.pc then
      let t := x.t.mapCnt fun _ l => if l.cnt = 0 then 1 else l.cnt
      x.jump .endif partner false { t with demo := { t.demo with dskip := none, dif := none } }
    else
      let t := x.t.mapCnt fun _ l => if l.cnt = 0 then 1 else if l.cnt = 1 then 0 else l.cnt
      let t := if t.demo.dif = some x.t.pc then { t with demo := { t.demo with dif := none, dskip := none } } else t
      if t.idle then x.jump .endif partner false t else x.okTeam t

/-- ENDIF (R168, R173). At DEND while DPC is occupied it is not executed: the team swaps back (R174). -/
def execEndifc (s : State) : Host.Outcome State Fault Refusal :=
  issue (.endifc) s fun x =>
    if x.t.demo.dpc ≠ 0 ∧ x.t.demo.dend = some x.t.pc then
      let t := x.t.demoSwap
      .goto (x.put { t with demo := { t.demo with dpc := 0, dk := t.demo.dksave } }) (x.t.demo.dpc &&& ~~~1#32)
    else
      let t := x.t.mapCnt fun _ l => l.cnt - 1
      let demo := t.demo.dkMap fun k => k - 1
      x.okTeam { t with demo := if demo.dif = some x.t.pc then { demo with dif := none } else demo }

/-- ILLEGAL inside a hardware loop body (R177). -/
def Iss.outsideLoop (x : Iss) (k : Act) : Act := if x.t.inLoop then x.trapWord trapIllegal else k

/-- LOOP (R168, R173). -/
def execLoopc (o : BitVec 18) (s : State) : Host.Outcome State Fault Refusal :=
  issue (.loopc o) s fun x =>
    x.outsideLoop <|
      if x.t.idle then x.jump .endl (branchTo x.t.pc o) true x.t
      else
        x.nest (fun _ l => if 0 < l.cnt then l.cnt + 2 else l.cnt) fun t =>
          x.okTeam { t with demo := t.demo.dkMap fun k => if 0 < k then k + 2 else k }

/-- BREAK (R168). -/
def execBreakc (p : BitVec 3) (d : BitVec 8) (s : State) : Host.Outcome State Fault Refusal :=
  issue (.breakc p d) s fun x =>
    x.outsideLoop <|
      x.nest (fun _ l => if l.cnt = 0 ∧ l.predOf p.toNat = true then d.toNat + 2 else l.cnt) x.okTeam

/-- CONT (R168). -/
def execContc (p : BitVec 3) (d : BitVec 8) (s : State) : Host.Outcome State Fault Refusal :=
  issue (.contc p d) s fun x =>
    x.outsideLoop <|
      x.nest (fun _ l => if l.cnt = 0 ∧ l.predOf p.toNat = true then d.toNat + 1 else l.cnt) x.okTeam

/-- ENDL (R168, R173). -/
def execEndl (o : BitVec 18) (s : State) : Host.Outcome State Fault Refusal :=
  issue (.endl o) s fun x =>
    x.outsideLoop <|
      let t := x.t.mapCnt fun _ l => if l.cnt = 1 then 0 else l.cnt
      if !t.idle then x.jump .loop (branchTo x.t.pc o) true t
      else
        let t := t.mapCnt fun _ l => if l.cnt = 2 then 0 else if 3 ≤ l.cnt then l.cnt - 2 else l.cnt
        x.okTeam { t with demo := t.demo.dkMap fun k => if 3 ≤ k then k - 2 else k }

/-! ### Branches (R170) -/

/-- A predicate that holds in every running lane, some lane running; p7 always (R170, R176). -/
def Team.allPred (t : Team) (p : BitVec 3) : Bool := p == 7 || (!t.idle && t.run.all fun l => t.pred p.toNat l)

/-- JMP (R170). -/
def execJmp (p : BitVec 3) (o : BitVec 18) (s : State) : Host.Outcome State Fault Refusal :=
  issue (.jmp p o) s fun x => x.outsideLoop <| if x.t.allPred p then .goto x.s (branchTo x.t.pc o) else .ok x.s

/-- Pushing a return record and going on at a target (R170). -/
def Iss.call (x : Iss) (target : Word) (far : Bool) : Act :=
  x.push (leBytes 16 (x.t.pc + 4).toNat) fun s t =>
    .goto (s.modTeam x.r fun _ => { t with fcalls := if far then t.fcalls ++ [t.pc + 4] else t.fcalls }) target

/-- CALL (R170). -/
def execCallc (o : BitVec 18) (s : State) : Host.Outcome State Fault Refusal :=
  issue (.callc o) s fun x => x.outsideLoop (x.call (branchTo x.t.pc o) false)

/-- RET (R170): the record stays popped where its address is not in a resident overlay. -/
def execRetc (s : State) : Host.Outcome State Fault Refusal :=
  issue (.retc) s fun x =>
    x.outsideLoop <| x.pop 16 fun s t bs =>
      let target : Word := BitVec.ofNat 32 (fieldAt bs 0 4)
      let fcalls := if t.fcalls.getLast? = some target then t.fcalls.dropLast else t.fcalls
      let s := s.modTeam x.r fun _ => { t with fcalls := fcalls }
      if (s.codeWord x.g target).isSome then .goto s target else .trapKeep s trapOverlay (target.zeroExtend 64)

/-- YIELD (R171). -/
def execYield (s : State) : Host.Outcome State Fault Refusal :=
  issue (.yield) s fun x => .ok x.s

/-! ### Hardware loops (R175 to R177) -/

/-- Opening a level over the `len` words that follow, with `n` iterations (R176). A count of 0 passes the body over, which ends
the stall counts as a taken branch does (DESIGN CHOICE, log entry 49: R64 and R176 name the return to the start alone). -/
def Iss.openLoop (x : Iss) (n len : Nat) : Act :=
  let last := x.t.pc + BitVec.ofNat 32 (4 * len)
  let after := match x.t.loops.getLast? with
    | some l => decide (l.last.toNat < last.toNat)
    | none => false
  if x.t.loops.length = 3 ∨ after = true then x.trapWord trapIllegal
  else if n = 0 then .goto x.s (last + 4)
  else
    x.okTeam { x.t with loops := x.t.loops ++ [{ start := x.t.pc + 4, last := last }],
                        lc := x.t.lc.set x.t.loops.length (BitVec.ofNat 32 n) }

/-- HLOOP (R176). -/
def execHloop (c : BitVec 10) (l : BitVec 8) (s : State) : Host.Outcome State Fault Refusal :=
  issue (.hloop c l) s fun x => x.openLoop c.toNat (l.toNat + 1)

/-- HLOOPS (R176): the count is an s register, unsigned. -/
def execHloops (a : BitVec 5) (l : BitVec 8) (s : State) : Host.Outcome State Fault Refusal :=
  issue (.hloops a l) s fun x => x.openLoop (x.t.sregs.getD a.toNat 0).toNat (l.toNat + 1)

/-- HBRK (R176). Taken, it ends the stall counts as a taken branch does (DESIGN CHOICE, log entry 49). -/
def execHbrk (p : BitVec 3) (s : State) : Host.Outcome State Fault Refusal :=
  issue (.hbrk p) s fun x =>
    match x.t.loops.getLast? with
    | none => x.trapWord trapIllegal
    | some l =>
      if x.t.allPred p then
        let k := x.t.loops.length - 1
        let t := { x.t with loops := x.t.loops.dropLast, lc := x.t.lc.set k 0 }
        match t.loopEnd x.t.pc with
        | (t, some a) => .goto (x.put t) a
        | (t, none) => .goto (x.put t) (l.last + 4)
      else .ok x.s

end Sys2Proof.Machine
end

