-- ==== Sys2Proof/Machine/Finish.lean ====
section
/-!
DEFINITION. Ends: a group barrier phase (R268 to R272), a team that finishes (R171), a census responder that retires (R386,
R387), and a group that drains (R133).
-/

namespace Sys2Proof.Machine

/-! ### The group barrier (R268 to R270) -/

/-- A member of the group barrier's current phase (R268). -/
def Team.member (t : Team) : Bool := t.started && !t.finished && t.responder.isNone

/-- Every member has arrived, and there is one. -/
def Group.allArrived (g : Group) : Bool :=
  let ms := g.teams.filter Team.member
  !ms.isEmpty && ms.all fun t => t.arrival != .none

/-- The request of the BAR.CARVE arrival of lowest TEAMID (R269). -/
def Group.carveReq (g : Group) : Option Nat :=
  g.teams.findSome? fun t =>
    match t.arrival with
    | .carve _ n => some n
    | _ => none

/-- A granule of the unified array (R135). -/
def granule : Nat := 16384

/-- A multicast mask of a group names another group of the same phase (R280). -/
def maskNames (src dst : Group) (mask : Word) : Bool :=
  dst.part == src.part && dst.ctxid == src.ctxid && dst.lid == src.lid && dst.gid / 32 == src.gid / 32 &&
    mask.getLsbD (dst.gid % 32)

/-- A copy that has issued writes a group's scratchpad, or may (R270): the record of a CPYS is read only when it starts. -/
def copyWrites (s : State) (g : Group) (c : Copy) : Bool :=
  (c.state == .entering || c.state == .queued || c.state == .running) &&
    match c.kind with
    | .cpy => c.uid == g.uid && !c.opB.getLsbD 22
    | .cpym m =>
      if c.state == .running then c.recv.contains g.uid
      else (s.group? c.uid).any fun src => maskNames src g m
    | .cpys => c.uid == g.uid && (c.state != .running || !bitOf (fieldAt c.record 0x1E 1) 0)

/-- A carving phase still waits: for copies into the scratchpad and for cards that have started (R270). -/
def State.carveWaits (s : State) (g : Group) : Bool :=
  s.copies.any (copyWrites s g) || g.cards.any fun c => c.state != .queued

/-- Granules of a group's request as it stands (R136). -/
def Group.granules (g : Group) : Nat := g.regGran + g.padSize / granule + g.l1Gran

/-- A group that holds its carve-out on its core. -/
def Group.resident (g : Group) : Bool := g.state == .starting || g.state == .running || g.state == .draining

/-- Granules of the groups resident on a core. -/
def State.coreGranules (s : State) (core : Nat) : Nat :=
  ((s.groups.filter fun g => g.core == core && g.resident).map Group.granules).sum

/-- The size after a carve and its status word (R137, R270, R272). -/
def State.carve (s : State) (g : Group) (req : Nat) : Nat × Word :=
  let bad := req % granule != 0 || decide (req < granule)
  let fits := decide (req ≤ g.padSize) || decide (s.coreGranules g.core - g.padSize / granule + req / granule ≤ 144)
  let size := if !bad && fits then req else g.padSize
  (size, BitVec.ofNat 32 ((if bad then 2 ^ 17 else 0) + (if bad || !fits then 2 ^ 16 else 0) + size / granule))

/-- A team leaves its hold; a BAR.CARVE arrival gets the status (R272). -/
def Team.leave (status : Word) (t : Team) : Team :=
  match t.arrival with
  | .carve d _ => { t.putS d status with arrival := .none }
  | _ => { t with arrival := .none }

/-- A team has made its stores to any scratchpad visible to the engines (R262). -/
def State.fenceStores (s : State) (r : TeamRef) : State :=
  { s with groups := s.groups.map fun g => { g with past := g.past.map (PastWrite.fence r) } }

/-- A phase completes (R268, R269): each member's hold ends with an acquire; where one of them arrived by BAR.E, engines see the
stores of every one; and no read misses a write beyond the scratchpad's new end. -/
def State.completePhase (s : State) (g : Group) : State :=
  let p := match g.carveReq with
    | some req => s.carve g req
    | none => (g.padSize, 0#32)
  let arrived := if g.teams.any fun t => t.arrival == .engine then g.teams.filter fun t => t.arrival != .none else []
  let fenced := arrived.foldl (fun s t => s.fenceStores { uid := g.uid, tid := t.tid }) s
  ((fenced.acquiredOn g.core).modGroup g.uid fun g => { g with
    teams := g.teams.map fun t => if t.arrival == .none then t else (t.leave p.2).acquired s.vers g.vers
    padSize := p.1, pad := memTruncate g.pad p.1, past := closePast false p.1 (g.padSize - p.1) g.past
    barPhase := g.barPhase + 1, carving := false }).moved

/-- Completes the open phase of a group if it can be completed. -/
def State.barrierTry (s : State) (uid : Nat) : State :=
  match s.group? uid with
  | none => s
  | some g =>
    if !g.allArrived then s
    else if g.carveReq.isSome && s.carveWaits g then s.modGroup uid fun g => { g with carving := true }
    else s.completePhase g

/-- Completes every carving phase that waits no longer. One of a context that does not run waits until it has resumed, with
its copies and cards (R96, R99, R270). -/
def State.carveTry (s : State) : State :=
  (s.groups.filter fun g => g.carving && g.resident && (s.ctxOf g).any fun c => c.state == .running).foldl
    (fun s g => s.barrierTry g.uid) s

/-! ### Censuses: pieces and holds (R384 to R387) -/

def State.modCensus (s : State) (cseq : Nat) (f : Census → Census) : State :=
  { s with censuses := modWhere s.censuses (fun c => c.cseq == cseq) f }

/-- Releases a census's hold on the listed entries of a core. -/
def Core.release (c : Core) (cseq : Nat) (entries : List Nat) : Core :=
  { c with keys := c.keys.mapIdx fun i k =>
      match k with
      | some e => if entries.contains i then some { e with held := e.held.filter fun q => q != cseq } else some e
      | none => none }

/-- A responder of a census ends without a payload (R387): its piece answers null, and the status records NORESP. -/
def Census.noResponse (c : Census) (core order : Nat) : Census :=
  { c with
    pieces := c.pieces.map fun p => if p.core == core && p.order == order then { p with state := .null } else p
    status := c.status ||| 0x40#32 }

/-- A responder retires (R386): its entries are released, and it leaves its group. -/
def State.retireResponder (s : State) (r : TeamRef) (i : ResponderInfo) : State :=
  let s := s.modCore i.core fun c => c.release i.cseq i.entries
  let s := if i.responded then s else s.modCensus i.cseq fun c => c.noResponse i.core i.order
  (s.modGroup r.uid fun g => { g with teams := g.teams.filter (fun t => t.tid != r.tid), qMark := s.clk }).moved

/-! ### Finishing (R171) -/

/-- Every lane has exited and every result has returned. -/
def Team.ended (t : Team) : Bool :=
  t.started && t.lanes.all (·.exited) && !t.outstanding && t.hold == .none && t.arrival == .none

/-- The group's last team has finished: it drains (R133). -/
def State.drainGroup (s : State) (uid : Nat) : State :=
  s.modGroup uid fun g =>
    if g.state == .running && (g.teams.filter fun t => t.responder.isNone).all (·.finished) then { g with state := .draining }
    else g

/-- What a team that has ended comes to: a member of the group finishes, which can complete the barrier phase; a responder
writes back its stores and retires. -/
def State.finishTry (s : State) (r : TeamRef) : State :=
  match s.team? r with
  | none => s
  | some t =>
    if !t.ended then s
    else
      match t.responder with
      | some i =>
        let s := (if t.finished then s
          else s.modGroup r.uid fun g => { g.modTeam r.tid (fun t => { t with finished := true }) with qMark := s.clk }).drain r
        match s.team? r with
        | some t => if t.performed then s.retireResponder r i else s
        | none => s
      | none =>
        if t.finished then s
        else
          let s := s.modGroup r.uid fun g => { g.modTeam r.tid (fun t => { t with finished := true }) with qMark := s.clk }
          ((s.barrierTry r.uid).drainGroup r.uid).moved

/-- EXIT (R171). -/
def execExitc (p : BitVec 3) (s : State) : Host.Outcome State Fault Refusal :=
  issue (.exitc p) s fun x =>
    .ok ((x.put { x.t with
      lanes := x.t.lanes.map fun l => if l.running && l.predOf p.toNat then { l with exited := true } else l }).finishTry x.r)

end Sys2Proof.Machine
end

