-- ==== Sys2Proof/Machine/Order.lean ====
section
/-!
DEFINITION. The ORDER instructions (R259 to R262, R267): what each makes the team wait for, and which writes no later read
misses.
-/

namespace Sys2Proof.Machine

/-- A load or atomic of the team has lanes that are not yet performed. -/
def Team.unread (t : Team) : Bool :=
  t.replay.any fun i => match i.kind with
    | .store _ => false
    | .spill => false
    | _ => true

/-- Waits until every earlier load of the team has been performed, so that no later access comes before it. -/
def Iss.afterLoads (x : Iss) (k : Act) : Act := if x.t.unread then .hold x.s else k

/-- FENCE.L (R259): the earlier loads take their values before it; no cached value goes. -/
def execFenceL (s : State) : Host.Outcome State Fault Refusal :=
  issue .fenceL s fun x => x.afterLoads (x.okTeam x.t.freezeAll)

/-- The teams that stand on the cores of a partition. -/
def State.teamsOf (s : State) (part : Nat) : List TeamRef :=
  (s.groups.filter fun g => g.part == part && g.resident).flatMap fun g =>
    g.teams.map fun t => { uid := g.uid, tid := t.tid }

/-- Every team of the partition has an empty store buffer. -/
def State.drained (s : State) (part : Nat) : Bool :=
  (s.groups.filter fun g => g.part == part && g.resident).all fun g => g.teams.all fun t => t.sbuf.isEmpty

/-- Every team of a partition gives up what it may have cached (R260). -/
def State.acquireAll (s : State) (part : Nat) : State := (s.teamsOf part).foldl State.acquire s

/-- FENCE.H (R260): a release, then every store buffer of the partition is drained and every core drops what it may have
cached, then an acquire. -/
def execFenceH (s : State) : Host.Outcome State Fault Refusal :=
  issue .fenceH s fun x =>
    x.release fun x =>
      let s := (x.s.teamsOf x.g.part).foldl State.drain x.s
      if s.drained x.g.part then .ok (s.acquireAll x.g.part) else .hold s

/-- FENCE.E (R262, R267): held until the team's stores have reached the banks and the home slices; engines see them from then
on. -/
def execFenceE (s : State) : Host.Outcome State Fault Refusal :=
  issue .fenceE s fun x => x.release fun x =>
    .ok (x.s.fenceStores x.r)

/-- ACQ (R267). -/
def execAcqc (s : State) : Host.Outcome State Fault Refusal := issue .acqc s fun x => x.afterLoads (.ok (x.s.acquire x.r))

/-- REL (R267). -/
def execRelc (s : State) : Host.Outcome State Fault Refusal := issue .relc s fun x => x.release fun x => .ok x.s

end Sys2Proof.Machine
end

