-- ==== Sys2Proof/Machine/Barrier.lean ====
section
/-!
DEFINITION. The BAR instructions: arrivals at the group barrier and barrier objects (R271 to R276).
-/

namespace Sys2Proof.Machine

/-! ### Arrivals (R268, R272) -/

/-- Arrives at the group barrier after a release; ILLEGAL for a responder (R268, R383). The instruction is complete and the
team is held until the phase completes. -/
def Iss.arrive (x : Iss) (a : Arrival) : Act :=
  if x.t.responder.isSome then x.trapWord trapIllegal
  else x.release fun x => .ok ((x.put { x.t with arrival := a }).barrierTry x.r.uid)

/-- BAR (R272). -/
def execBar (s : State) : Host.Outcome State Fault Refusal := issue .bar s fun x => x.arrive .plain

/-- BAR.E (R269, R272). -/
def execBarE (s : State) : Host.Outcome State Fault Refusal := issue .barE s fun x => x.arrive .engine

/-- BAR.CARVE (R270, R272): the request is in bytes. -/
def execBarCarve (d a : RegField) (s : State) : Host.Outcome State Fault Refusal :=
  issue (.barCarve d a) s fun x => x.arrive (.carve d (x.t.sreg a).toNat)

/-! ### Barrier objects (R273 to R275) -/

/-- The test made after each change of an object (R274). -/
def BarObj.test (o : BarObj) : BarObj :=
  if o.exp ≠ 0 ∧ (o.exp.toNat : Int) ≤ o.arr.toInt then { phase := o.phase + 1, exp := 0, arr := o.arr - o.exp } else o

/-- The phase named by a word is complete (R275). -/
def BarObj.complete (o : BarObj) (p : Word) : Bool :=
  let d := (o.phase - p.extractLsb' 0 16).toNat
  decide (1 ≤ d ∧ d ≤ 32767)

/-- An object of a group. -/
def Group.obj (g : Group) (b : Nat) : BarObj := g.objs.getD b { phase := 0, exp := 0, arr := 0 }

/-- Changes an object and tests it. -/
def Group.modObj (g : Group) (b : Nat) (f : BarObj → BarObj) : Group := { g with objs := modAt g.objs b fun o => (f o).test }

/-- The forms that change an object: the phase before the test goes to sD; nothing happens with no running lane (R275). -/
def Iss.changeObj (x : Iss) (d : RegField) (b : Nat) (f : BarObj → BarObj) : Act :=
  if x.t.idle then .ok x.s
  else
    let s := x.s.modGroup x.r.uid fun g => g.modObj b f
    .ok (s.modTeam x.r fun t => t.putS d ((x.g.obj b).phase.zeroExtend 32)).moved

/-- BOINIT (R275). -/
def execBoinit (d a : RegField) (b : BitVec 8) (s : State) : Host.Outcome State Fault Refusal :=
  issue (.boinit d a b) s fun x => x.changeObj d b.toNat fun o => { o with exp := x.t.sreg a, arr := 0 }

/-- BOEXP (R275). -/
def execBoexp (d a : RegField) (b : BitVec 8) (s : State) : Host.Outcome State Fault Refusal :=
  issue (.boexp d a b) s fun x => x.changeObj d b.toNat fun o => { o with exp := o.exp + x.t.sreg a }

/-- BOARR (R275). -/
def execBoarr (d a : RegField) (b : BitVec 8) (s : State) : Host.Outcome State Fault Refusal :=
  issue (.boarr d a b) s fun x => x.changeObj d b.toNat fun o => { o with arr := o.arr + x.t.sreg a }

/-- BOWAIT (R275): held while the phase is not complete; then an acquire of what completed it (R264). -/
def execBowait (a : RegField) (b : BitVec 8) (s : State) : Host.Outcome State Fault Refusal :=
  issue (.bowait a b) s fun x => if (x.g.obj b.toNat).complete (x.t.sreg a) then .ok (x.s.acquire x.r) else .hold x.s

/-- BOTEST (R275): one that writes 1 is an acquire of what completed the phase (R276). -/
def execBotest (d a : RegField) (b : BitVec 8) (s : State) : Host.Outcome State Fault Refusal :=
  issue (.botest d a b) s fun x =>
    if (x.g.obj b.toNat).complete (x.t.sreg a) then .ok ((x.s.acquire x.r).modTeam x.r fun t => t.putS d 1)
    else x.okTeam (x.t.putS d 0)

end Sys2Proof.Machine
end

