-- ==== Sys2Proof/Machine/Global.lean ====
section
/-!
DEFINITION. Global loads, stores and atomics of the ACCESS role: majors 0x10, 0x11 and 0x13 (R142 to R150, R310), LDQ, LDQG and
STQ apart (Machine/Queues.lean).
-/

namespace Sys2Proof.Machine

/-! ### Loads (R142 to R146) -/

/-- The base of an access is a register that the instruction writes: BOUNDS at issue (R142). -/
def writesBase (d a : RegField) (n : Nat) : Bool := decide (d.toNat ≤ a.toNat ∧ a.toNat < d.toNat + n)

/-- Lane accesses of addresses, with no data. -/
def plainLanes (vas : List (Nat × Nat)) : List LaneAcc := vas.map fun p => laneAt p.1 p.2

/-- BOUNDS, MEMFAULT and ALIGN before any access is made, then the access at the running lanes' addresses (R142). With no
running lane nothing is accessed. -/
def Iss.access (x : Iss) (a : RegField) (off : Int) (size : Nat) (base : Bool) (k : Ctx → List (Nat × Nat) → Act) : Act :=
  if base then .trap trapBounds (a.zeroExtend 64)
  else
    let vas := x.t.vas a off
    match vaFault size vas with
    | some (code, va) => .trap code va
    | none =>
      match x.s.ctxOf x.g with
      | some c => if vas.isEmpty then .ok x.s else k c vas
      | none => .ok x.s

/-- The lanes that a gathering read has finished, with their addresses. -/
def Gather.done (q : Gather) (vas : List (Nat × Nat)) : List (Nat × Nat) := vas.filter fun p => q.vals.any fun v => v.1 == p.1

/-- A load: finished lanes' results return later, faulted lanes join the replay set (R144, R296). An acquire reads at home, and
is one once its last lane is read; any other load may miss writes and may still take a later value (R254, R255). -/
def Iss.load (x : Iss) (d a : RegField) (off : Int) (n : Nat) (sx acq : Bool) : Act :=
  x.access a off n (writesBase d a (if n = 16 then 2 else 1)) fun c vas =>
    x.misses <|
      let lanes := plainLanes vas
      let q := gatherLanes x.s (x.reader c acq) n lanes
      if q.bad then .done (x.s.badAccess x.g x.t)
      else
        let low := x.t.lowFor d
        let vals := onlyLow low q.vals
        let ps := if acq then loadWrites d n sx vals else lateWrites d n sx x.t.seqNo x.s.vers lanes vals
        let s := (x.request q.s c (q.done vas)).modTeam x.r fun t =>
          (((t.freeze lanes n).sees q.seen).addPend (x.t.awaiting ps)).addReplay t.prefixPc (.load d n sx) q.left acq low
        .ok (if acq && q.left.isEmpty then s.acquire x.r else s)

/-- Bytes of a size code (R50). -/
def sizeBytes (z : BitVec 3) : Nat := 2 ^ z.toNat

/-- The byte offset of an OFF4 field (R49, R63). -/
def Iss.off4 (x : Iss) (o : BitVec 4) (size : Nat) : Int := x.t.immS 4 o.toNat * size

/-- LD (R144). -/
def execLd (d a : RegField) (o : BitVec 4) (z : BitVec 3) (e : BitVec 1) (s : State) : Host.Outcome State Fault Refusal :=
  issue (.ld d a o z e) s fun x => x.load d a (x.off4 o (sizeBytes z)) (sizeBytes z) (e == 1) false

/-- LD.ACQ (R144): lanes that fault keep later accesses waiting. -/
def execLdAcq (d a : RegField) (o : BitVec 4) (z : BitVec 3) (e : BitVec 1) (s : State) : Host.Outcome State Fault Refusal :=
  issue (.ldAcq d a o z e) s fun x => x.load d a (x.off4 o (sizeBytes z)) (sizeBytes z) (e == 1) true

/-- Lane accesses with a compare value taken from a register. -/
def pollLanes (t : Team) (d : RegField) (n : Nat) (vas : List (Nat × Nat)) : List LaneAcc :=
  vas.map fun p => { lane := p.1, va := p.2, data := 0, cmp := BitVec.ofNat 128 ((t.reg d p.1).toNat % 2 ^ (8 * n)) }

/-- Every lane's value equals its compare value. -/
def allUnchanged (lanes : List LaneAcc) (vals : List (Nat × List Byte)) : Bool :=
  lanes.all fun a => (vals.find? fun p => p.1 == a.lane).any fun p => leNat p.2 == a.cmp.toNat

/-- Some lane's value equals its compare value: an unchanged poll (R145, R174). -/
def someUnchanged (lanes : List LaneAcc) (vals : List (Nat × List Byte)) : Bool :=
  lanes.any fun a => (vals.find? fun p => p.1 == a.lane).any fun p => leNat p.2 == a.cmp.toNat

/-- The 128-byte lines of lane addresses that translate (R145): in host memory or not, physical address. -/
def polledLines (s : State) (c : Ctx) (lanes : List LaneAcc) : List (Bool × Nat) :=
  lanes.filterMap fun a =>
    match s.xlate c .read a.va with
    | (.ok host pa _, _) => some (host, pa / 128 * 128)
    | _ => none

/-- Goes on after an instruction that made a demotion event, or falls through (R174). At the end of a loop body the
end-of-body step comes first, and DPC names the word that it leads to (R176; log entry 48). Where the word at DEND is no ENDIF
of the current overlay the instruction traps with none of its effects (R169, R187). -/
def Iss.demoted (x : Iss) (s : State) (event : Bool) : Act :=
  match s.team? x.r with
  | none => .done s
  | some t =>
    if event then
      let p := t.loopEnd t.pc
      match demote s x.g p.1 t.pc (p.2.getD (t.pc + 4)) with
      | none => .ok s
      | some (.ok (t, next)) => .goto (s.modTeam x.r fun _ => t) next
      | some (.error _) => x.trapWord trapIllegal
    else .ok s

/-- LD.POLL (R145): the team is held while every lane's value is unchanged; a faulted lane ends the poll at its replay. It is an
acquire once its last lane has delivered. -/
def execLdPoll (d a : RegField) (o : BitVec 4) (z : BitVec 1) (s : State) : Host.Outcome State Fault Refusal :=
  issue (.ldPoll d a o z) s fun x =>
    let n := if z = 1 then 8 else 4
    x.access a (x.off4 o n) n (writesBase d a 1) fun c vas =>
      x.misses <|
        let lanes := pollLanes x.t d n vas
        let q := gatherLanes x.s (x.reader c true) n lanes
        if q.bad then .done (x.s.badAccess x.g x.t)
        else
          let low := x.t.lowFor d
          let s := x.request q.s c (q.done vas)
          let ps := x.t.awaiting (loadWrites d n false (onlyLow low q.vals))
          if !q.left.isEmpty then
            .ok (s.modTeam x.r fun t => ((t.freeze lanes n).addPend ps).addReplay t.prefixPc (.load d n false) q.left true low)
          else if allUnchanged lanes q.vals then
            let first := q.vals.map fun p => (p.1, BitVec.ofNat 64 (leNat p.2))
            let h : PollHold :=
              { seq := x.t.seqNo, pc := x.t.prefixPc, word := x.s.iword, dst := d, bytes := n, lanes := lanes, first := first,
                lines := polledLines q.s c lanes, ver := q.s.vers, since := q.s.clk, lc := x.t.lc, loops := x.t.loops }
            .ok (s.modTeam x.r fun t => { t.freeze lanes n with hold := .poll h })
          else x.demoted ((s.modTeam x.r fun t => t.addPend ps).acquire x.r) (someUnchanged lanes q.vals)

/-- One lane of PREF (R146, R295): a walk that succeeds sets A; an address out of range and a fault are dropped. -/
def prefLane (c : Ctx) (p : State × Bool) (va : Nat) : State × Bool :=
  if 2 ^ 52 ≤ va then p
  else
    match p.1.xlate c .read va with
    | (.ok _ _ _, s) => (s, p.2)
    | (.bad, s) => (s, true)
    | _ => p

/-- PREF (R146). -/
def execPref (a : RegField) (o : BitVec 4) (s : State) : Host.Outcome State Fault Refusal :=
  issue (.pref a o) s fun x =>
    match x.s.ctxOf x.g with
    | none => .ok x.s
    | some c =>
      if x.t.idle then .ok x.s
      else x.misses <|
        let vas := x.t.vas a (x.off4 o 1)
        let p := (vas.map (·.2)).foldl (prefLane c) (x.s, false)
        if p.2 then .done (p.1.badAccess x.g x.t) else .ok (x.request p.1 c (vas.filter fun v => decide (v.2 < 2 ^ 52)))

/-! ### Stores (R147) -/

/-- The buffered stores of one instruction, lane by lane; 128 bits are two halves, the lower first (R147, R256). -/
def storeEntries (t : Team) (d : RegField) (n : Nat) (vas : List (Nat × Nat)) : List StoreEntry :=
  vas.flatMap fun p =>
    let e : StoreEntry := { seq := t.seqNo, pc := t.prefixPc, lane := p.1, va := p.2, bytes := leBytes (min n 8) (t.reg d p.1).toNat }
    if n = 16 then [e, { e with va := p.2 + 8, bytes := leBytes 8 (t.reg (nextField d) p.1).toNat }] else [e]

/-- A store: it enters the team's buffer in program order (R147, R257). -/
def Iss.store (x : Iss) (d a : RegField) (off : Int) (n : Nat) : Act :=
  x.access a off n false fun _ vas => x.okTeam { x.t with sbuf := x.t.sbuf ++ storeEntries x.t d n vas }

/-- ST (R147). -/
def execSt (d a : RegField) (o : BitVec 4) (z : BitVec 3) (s : State) : Host.Outcome State Fault Refusal :=
  issue (.st d a o z) s fun x => x.store d a (x.off4 o (sizeBytes z)) (sizeBytes z)

/-- ST.REL (R147): a release, then the store. With no running lane it orders nothing (R142). -/
def execStRel (d a : RegField) (o : BitVec 4) (z : BitVec 3) (s : State) : Host.Outcome State Fault Refusal :=
  issue (.stRel d a o z) s fun x =>
    let n := sizeBytes z
    match vaFault n (x.t.vas a (x.off4 o n)) with
    | some (code, va) => .trap code va
    | none => if x.t.idle then .ok x.s else x.release fun x => x.store d a (x.off4 o n) n

/-! ### Atomics (R148 to R150) -/

/-- The operations of R148 by their code in bits [3:0]. -/
inductive AtomOp where
  | add | minI | maxI | minN | maxN | and | or | xor | swap | cas | fadd
  deriving DecidableEq, Repr

/-- The code of an operation (R148). -/
def atomCode (op : AtomOp) : Nat :=
  match op with
  | .add => 0
  | .minI => 1
  | .maxI => 2
  | .minN => 3
  | .maxN => 4
  | .and => 5
  | .or => 6
  | .xor => 7
  | .swap => 8
  | .cas => 9
  | .fadd => 10

/-- The operation of a code. -/
def atomOfCode (c : Nat) : AtomOp :=
  match c with
  | 0 => .add
  | 1 => .minI
  | 2 => .maxI
  | 3 => .minN
  | 4 => .maxN
  | 5 => .and
  | 6 => .or
  | 7 => .xor
  | 8 => .swap
  | 9 => .cas
  | _ => .fadd

/-- The new value of a location of `n` bits (R148), its flags, and whether a CAS failed. -/
def atomNew (op : AtomOp) (n old arg cmp : Nat) : Nat × Flags × Bool :=
  match op with
  | .add => ((old + arg) % 2 ^ n, 0#6, false)
  | .minI => (if signedOf n arg < signedOf n old then arg else old, 0#6, false)
  | .maxI => (if signedOf n old < signedOf n arg then arg else old, 0#6, false)
  | .minN => (min old arg, 0#6, false)
  | .maxN => (max old arg, 0#6, false)
  | .and => (old &&& arg, 0#6, false)
  | .or => (old ||| arg, 0#6, false)
  | .xor => (old ^^^ arg, 0#6, false)
  | .swap => (arg, 0#6, false)
  | .cas => if old = cmp then (arg, 0#6, false) else (old, 0#6, true)
  | .fadd =>
    let p := addBits .fp32 rneRounding false old arg
    (p.1, p.2, false)

/-- Whether a page's path carries an operation of `n` bytes (R150, R310). -/
def carried (op : AtomOp) (n : Nat) (host : Bool) (atom : Nat) : Bool :=
  !host ||
    match atom with
    | 0 => false
    | 1 => op == .add || op == .swap || op == .cas
    | 2 => op == .add || (op == .cas && n == 8)
    | _ => true

/-- Lanes of an atomic with their physical places; none for a lane that faults. -/
structure Places where
  s    : State
  at_  : List (LaneAcc × Bool × Nat × Nat)
  left : Bool
  bad  : Bool
  deriving DecidableEq, Repr

/-- Translates every lane for a write before any is performed (R149). -/
def placeLanes (s : State) (c : Ctx) (lanes : List LaneAcc) : Places :=
  lanes.foldl (fun q a =>
    match q.s.xlate c .write a.va with
    | (.ok host pa atom, s) => { q with s := s, at_ := q.at_ ++ [(a, host, pa, atom)] }
    | (.bad, s) => { q with s := s, bad := true }
    | (_, s) => { q with s := s, left := true }) { s := s, at_ := [], left := false, bad := false }

/-- What performing lanes has come to: state, old values, flags, a failed CAS. -/
structure Atoms where
  s     : State
  olds  : List (Nat × Nat)
  flags : Flags
  fail  : Bool
  deriving DecidableEq, Repr

/-- Performs one lane at its home, indivisibly (R149), by a team of a context. -/
def atomLane (r : TeamRef) (asid : Nat) (op : AtomOp) (n : Nat) (q : Atoms) (p : LaneAcc × Bool × Nat × Nat) : Atoms :=
  let (a, host, pa, _) := p
  let old := leNat (q.s.readPhys host pa n)
  let w := atomNew op (8 * n) old a.data.toNat a.cmp.toNat
  let key := nameOf asid a.va pa
  { s := (q.s.modTeam r fun t => t.sees (q.s.writesAt key host pa n)).writeAs (some r) (some key) host pa (leBytes n w.1)
    olds := q.olds ++ [(a.lane, old)], flags := q.flags ||| w.2.1, fail := q.fail || w.2.2 }

/-- Performs every lane in ascending lane order. -/
def atomLanes (s : State) (r : TeamRef) (asid : Nat) (op : AtomOp) (n : Nat) (ps : List (LaneAcc × Bool × Nat × Nat)) : Atoms :=
  ps.foldl (atomLane r asid op n) { s := s, olds := [], flags := 0#6, fail := false }

/-- The results of an atomic on their way to the registers; the reduction form has flags alone. -/
def atomWrites (dst : Option RegField) (n : Nat) (q : Atoms) : List PendWrite :=
  match dst with
  | none => [{ dst := 0, vals := [], flags := q.flags }]
  | some d =>
    let low : PendWrite := { dst := d, vals := q.olds.map (fun p => (p.1, BitVec.ofNat 64 p.2)), flags := q.flags }
    if n = 16 then
      [low, { dst := nextField d, vals := q.olds.map (fun p => (p.1, BitVec.ofNat 64 (p.2 / 2 ^ 64))), flags := 0 }]
    else [low]

/-- An atomic instruction over given lanes (R149): the team's own stores leave the buffer first, then every lane is
translated, its path checked, and the lanes are performed in ascending order. -/
def Iss.atomic (x : Iss) (acq : Bool) (op : AtomOp) (n : Nat) (dst : Option RegField) (a : RegField) (lane : Nat → LaneAcc → LaneAcc) : Act :=
  x.access a 0 n (match dst with | some d => writesBase d a (if n = 16 then 2 else 1) | none => false) fun c vas =>
    x.misses <|
      let lanes := (plainLanes vas).map fun p => lane p.lane p
      let s := (x.s.modTeam x.r fun t => t.freeze lanes n).drain x.r
      match s.team? x.r with
      | none => .done s
      | some t =>
        if !t.sbuf.isEmpty then .hold s
        else
          let q := placeLanes s c lanes
          if q.bad then .done (q.s.badAccess x.g x.t)
          else if q.left || vas.any (fun p => t.behind t.seqNo p.2 n) then
            .ok (q.s.modTeam x.r fun t => t.addReplay t.prefixPc (.atom (atomCode op) dst n) lanes acq)
          else if q.at_.any fun p => !carried op n p.2.1 p.2.2.2 then
            .trap trapAtompath (BitVec.ofNat 64 ((vas.head?.map (·.2)).getD 0))
          else
            let r := atomLanes q.s x.r c.asid op n q.at_
            let s := (x.request r.s c vas).modTeam x.r fun t => t.addPend (x.t.awaiting (atomWrites dst n r))
            x.demoted (if acq then s.acquire x.r else s) r.fail

/-- The operand of one lane: the low bits of a register (R149). -/
def operandOf (t : Team) (d : RegField) (n l : Nat) : BitVec 128 := BitVec.ofNat 128 ((t.reg d l).toNat % 2 ^ (8 * n))

/-- An ATOM or RED instruction: ORD.REL releases first, an acquire follows (R148, R149). -/
def Iss.atom (x : Iss) (op : AtomOp) (n : Nat) (ret : Bool) (d a : RegField) (ord : BitVec 2) : Act :=
  let body := fun (x : Iss) =>
    x.atomic (ord.getLsbD 0) op n (if ret then some d else none) a fun l p => { p with data := operandOf x.t d n l }
  match vaFault n (x.t.vas a 0) with
  | some (code, va) => if ret && writesBase d a 1 then .trap trapBounds (a.zeroExtend 64) else .trap code va
  | none => if ord.getLsbD 1 && !x.t.idle && !(ret && writesBase d a 1) then x.release body else body x

/-- A pair of registers of one lane as 128 bits. -/
def pairOf (t : Team) (d : RegField) (l : Nat) : BitVec 128 := t.reg (nextField d) l ++ t.reg d l

/-- atomAdd (R148, R149). -/
def execAtomAdd (d a : RegField) (o : BitVec 2) (z : BitVec 3) (s : State) : Host.Outcome State Fault Refusal :=
  issue (.atomAdd d a o z) s fun x => x.atom .add (sizeBytes z) true d a o

/-- atomMinI (R148, R149). -/
def execAtomMinI (d a : RegField) (o : BitVec 2) (z : BitVec 3) (s : State) : Host.Outcome State Fault Refusal :=
  issue (.atomMinI d a o z) s fun x => x.atom .minI (sizeBytes z) true d a o

/-- atomMaxI (R148, R149). -/
def execAtomMaxI (d a : RegField) (o : BitVec 2) (z : BitVec 3) (s : State) : Host.Outcome State Fault Refusal :=
  issue (.atomMaxI d a o z) s fun x => x.atom .maxI (sizeBytes z) true d a o

/-- atomMinN (R148, R149). -/
def execAtomMinN (d a : RegField) (o : BitVec 2) (z : BitVec 3) (s : State) : Host.Outcome State Fault Refusal :=
  issue (.atomMinN d a o z) s fun x => x.atom .minN (sizeBytes z) true d a o

/-- atomMaxN (R148, R149). -/
def execAtomMaxN (d a : RegField) (o : BitVec 2) (z : BitVec 3) (s : State) : Host.Outcome State Fault Refusal :=
  issue (.atomMaxN d a o z) s fun x => x.atom .maxN (sizeBytes z) true d a o

/-- atomAnd (R148, R149). -/
def execAtomAnd (d a : RegField) (o : BitVec 2) (z : BitVec 3) (s : State) : Host.Outcome State Fault Refusal :=
  issue (.atomAnd d a o z) s fun x => x.atom .and (sizeBytes z) true d a o

/-- atomOr (R148, R149). -/
def execAtomOr (d a : RegField) (o : BitVec 2) (z : BitVec 3) (s : State) : Host.Outcome State Fault Refusal :=
  issue (.atomOr d a o z) s fun x => x.atom .or (sizeBytes z) true d a o

/-- atomXor (R148, R149). -/
def execAtomXor (d a : RegField) (o : BitVec 2) (z : BitVec 3) (s : State) : Host.Outcome State Fault Refusal :=
  issue (.atomXor d a o z) s fun x => x.atom .xor (sizeBytes z) true d a o

/-- atomSwap (R148, R149). -/
def execAtomSwap (d a : RegField) (o : BitVec 2) (z : BitVec 3) (s : State) : Host.Outcome State Fault Refusal :=
  issue (.atomSwap d a o z) s fun x => x.atom .swap (sizeBytes z) true d a o

/-- CAS (R148, R149): D holds the compare value, then the new value; pairs of registers for 128 bits. A failed CAS is a
demotion event (R174). -/
def execCas (d a : RegField) (o : BitVec 2) (z : BitVec 3) (s : State) : Host.Outcome State Fault Refusal :=
  issue (.cas d a o z) s fun x =>
    let n := sizeBytes z
    let wide := n == 16
    let body := fun (x : Iss) =>
      x.atomic (o.getLsbD 0) .cas n (some d) a fun l p =>
        if wide then { p with cmp := pairOf x.t d l, data := pairOf x.t (d + 2) l }
        else { p with cmp := operandOf x.t d n l, data := operandOf x.t (nextField d) n l }
    let base := writesBase d a (if wide then 2 else 1)
    match vaFault n (x.t.vas a 0) with
    | some (code, va) => if base then .trap trapBounds (a.zeroExtend 64) else .trap code va
    | none => if o.getLsbD 1 && !x.t.idle && !base then x.release body else body x

/-- ATOM.FADD (R148, R149). -/
def execAtomFadd (d a : RegField) (o : BitVec 2) (s : State) : Host.Outcome State Fault Refusal :=
  issue (.atomFadd d a o) s fun x => x.atom .fadd 4 true d a o

/-- redAdd (R148, R149): the reduction form returns nothing. -/
def execRedAdd (d a : RegField) (o : BitVec 2) (z : BitVec 3) (s : State) : Host.Outcome State Fault Refusal :=
  issue (.redAdd d a o z) s fun x => x.atom .add (sizeBytes z) false d a o

/-- redMinI (R148, R149): the reduction form returns nothing. -/
def execRedMinI (d a : RegField) (o : BitVec 2) (z : BitVec 3) (s : State) : Host.Outcome State Fault Refusal :=
  issue (.redMinI d a o z) s fun x => x.atom .minI (sizeBytes z) false d a o

/-- redMaxI (R148, R149): the reduction form returns nothing. -/
def execRedMaxI (d a : RegField) (o : BitVec 2) (z : BitVec 3) (s : State) : Host.Outcome State Fault Refusal :=
  issue (.redMaxI d a o z) s fun x => x.atom .maxI (sizeBytes z) false d a o

/-- redMinN (R148, R149): the reduction form returns nothing. -/
def execRedMinN (d a : RegField) (o : BitVec 2) (z : BitVec 3) (s : State) : Host.Outcome State Fault Refusal :=
  issue (.redMinN d a o z) s fun x => x.atom .minN (sizeBytes z) false d a o

/-- redMaxN (R148, R149): the reduction form returns nothing. -/
def execRedMaxN (d a : RegField) (o : BitVec 2) (z : BitVec 3) (s : State) : Host.Outcome State Fault Refusal :=
  issue (.redMaxN d a o z) s fun x => x.atom .maxN (sizeBytes z) false d a o

/-- redAnd (R148, R149): the reduction form returns nothing. -/
def execRedAnd (d a : RegField) (o : BitVec 2) (z : BitVec 3) (s : State) : Host.Outcome State Fault Refusal :=
  issue (.redAnd d a o z) s fun x => x.atom .and (sizeBytes z) false d a o

/-- redOr (R148, R149): the reduction form returns nothing. -/
def execRedOr (d a : RegField) (o : BitVec 2) (z : BitVec 3) (s : State) : Host.Outcome State Fault Refusal :=
  issue (.redOr d a o z) s fun x => x.atom .or (sizeBytes z) false d a o

/-- redXor (R148, R149): the reduction form returns nothing. -/
def execRedXor (d a : RegField) (o : BitVec 2) (z : BitVec 3) (s : State) : Host.Outcome State Fault Refusal :=
  issue (.redXor d a o z) s fun x => x.atom .xor (sizeBytes z) false d a o

/-- RED.FADD (R148, R149). -/
def execRedFadd (d a : RegField) (o : BitVec 2) (s : State) : Host.Outcome State Fault Refusal :=
  issue (.redFadd d a o) s fun x => x.atom .fadd 4 false d a o

end Sys2Proof.Machine
end

