-- ==== Sys2Proof/Machine/Queues.lean ====
section
/-!
DEFINITION. Queues (R220 to R248): entries, the QUEUE instructions of major 0x17, and LDQ, LDQG and STQ.
-/

namespace Sys2Proof.Machine

/-! ### Entries (R223 to R228) -/

/-- Element size in bytes (R220). -/
def Queue.elemBytes (q : Queue) : Nat := fmtBits q.fmt / 8

/-- Places that entries popped in this a-clk still take (R228). -/
def Queue.freeing (q : Queue) (clk : Nat) : Nat := if clk < q.freeAt then q.freed else 0

/-- No place is free (R226, R228). -/
def Queue.full (q : Queue) (clk : Nat) : Bool := decide (q.depth ≤ q.entries.length + q.freeing clk)

/-- An entry is complete, in an earlier a-clk (R227). -/
def QEntry.ripe (clk : Nat) (e : QEntry) : Bool := e.complete && decide (e.since ≤ clk)

/-- The visible entries: the ones complete in an earlier a-clk, before the first that is not (R227). -/
def Queue.visible (q : Queue) (clk : Nat) : List QEntry := q.entries.takeWhile (QEntry.ripe clk)

/-- A push is refused: the queue is not OPEN, or an EOS has ended it (R224, R233). -/
def Queue.refuses (q : Queue) : Bool := q.state != .opened || q.ended

/-- CLOSING or CLOSED (R234). -/
def Queue.shut (q : Queue) : Bool := q.state == .closing || q.state == .closed

/-- Changes a queue of a group. -/
def Group.modQueue (g : Group) (n : Nat) (f : Queue → Queue) : Group :=
  { g with queues := modWhere g.queues (fun q => q.num == n) f }

/-- The group's queue progress count returns to 0 (R246). -/
def Group.touchQ (g : Group) (clk : Nat) : Group := { g with qMark := clk }

/-- Reserves the next entry of a queue in an a-clk (R226); one that is complete is visible from the next a-clk on (R227). -/
def Queue.reserve (q : Queue) (e : QEntry) (clk : Nat) : Queue :=
  { q with entries := q.entries ++ [{ e with id := q.nextId, since := clk + 1 }], nextId := q.nextId + 1, pushAt := some clk }

/-- Pops the oldest `n` entries in an a-clk: their places fall free in the next (R228). -/
def Queue.pop (q : Queue) (n clk : Nat) : Queue :=
  { q with entries := q.entries.drop n, freed := (if q.freeAt = clk + 1 then q.freed else 0) + n, freeAt := clk + 1 }

/-- The entries of a group's queue that are visible in an a-clk. -/
def Group.visibleIn (g : Group) (n clk : Nat) : Nat := ((g.queue? n).map fun q => (q.visible clk).length).getD 0

/-- A queue of a group has changed in an a-clk, and its progress count returns to 0: then, and in the next a-clk too where more
entries become visible in it (R227, R246). -/
def Group.changeQ (g : Group) (n clk : Nat) (f : Queue → Queue) : Group :=
  let h := g.modQueue n f
  h.touchQ (if g.visibleIn n (clk + 1) < h.visibleIn n (clk + 1) then clk + 1 else clk)

/-- Tags (R223). -/
def tagData : BitVec 2 := 0#2
def tagSeg : BitVec 2 := 1#2
def tagEos : BitVec 2 := 2#2
def tagRerr : BitVec 2 := 3#2

/-- An entry complete at its issue. -/
def entryOf (tag : BitVec 2) (payload : BitVec 16) (vals : List DWord) (owner : Nat) : QEntry :=
  { id := 0, tag := tag, payload := payload, vals := vals, complete := true, waiting := false, faulted := false, owner := owner }

/-- The CLOSED and EMPTY bits of a queue status (R231). -/
def stClosed : Word := 0x40000#32
def stEmpty : Word := 0x80000#32

/-- The status of an entry popped or peeked (R231). -/
def QEntry.status (e : QEntry) : Word := (e.tag.zeroExtend 32 <<< 16) ||| (if e.tag = tagSeg then e.payload.zeroExtend 32 else 0)

/-- A value of an s register that returns later. -/
def pendS (d : RegField) (w : Word) : PendWrite := { dst := d, vals := [(0, w.zeroExtend 64)], flags := 0 }

/-- The status write of a status spec (R230): none where it is 0. -/
def pendStatus (spec : BitVec 8) (w : Word) : List PendWrite :=
  if spec = 0 then [] else [pendS (spec.truncate 7) w]

/-! ### Holding on a queue (R245, R246) -/

/-- The team is held on a queue: it is blocked, and the group's progress count starts when it comes to be so; with `lost` the
hold costs decoupling, which counts once however often the instruction waits (R245). -/
def Iss.holdQueue (x : Iss) (lost : Bool) : Act :=
  if x.t.queueHeld then .holdQueue x.s
  else
    let s := x.s.modGroup x.r.uid fun g => g.touchQ x.s.clk
    .holdQueue (if lost && !x.t.lodHeld then s.modTeam x.r fun t => { t with lodcnt := t.lodcnt + 1, lodHeld := true } else s)

/-- The queue an instruction names; the issue checks have found it. -/
def Iss.withQueue (x : Iss) (n : BitVec 4) (k : Queue → Act) : Act :=
  match x.g.queue? n.toNat with
  | some q => k q
  | none => x.trapWord trapIllegal

/-- Changes the queue and adds results that return later. -/
def Iss.queueDone (x : Iss) (n : BitVec 4) (f : Queue → Queue) (ps : List PendWrite) : Act :=
  let s := x.s.modGroup x.r.uid fun g => g.changeQ n.toNat x.s.clk f
  .ok (s.modTeam x.r fun t => t.addPend ps)

/-- An effect on the team's registers alone. -/
def Iss.queueStatus (x : Iss) (ps : List PendWrite) : Act := x.okTeam (x.t.addPend ps)

/-! ### Pushes (R233) -/

/-- A push of an entry complete at issue: refused with CLOSED, held while full, else status 0. -/
def Iss.push1 (x : Iss) (n : BitVec 4) (spec : BitVec 8) (e : Queue → QEntry) (ends : Bool) : Act :=
  if x.t.idle then .ok x.s
  else
    x.withQueue n fun q =>
      if q.refuses then x.queueStatus (pendStatus spec stClosed)
      else if q.full x.s.clk then x.holdQueue false
      else
        x.queueDone n (fun q => { q.reserve (e q) x.s.clk with ended := q.ended || ends }) (pendStatus spec 0)

/-- The positions of a pushed entry: the low e bytes of each running lane's register, else zero (R223, R232). -/
def pushVals (t : Team) (f : RegField) (q : Queue) : List DWord :=
  (List.range q.width).map fun l =>
    if (t.lanes[l]?.map Lane.running).getD false then BitVec.ofNat 64 ((t.reg f l).toNat % 2 ^ fmtBits q.fmt) else 0

/-- QPUSH (R233). -/
def execQpush (d : RegField) (q : BitVec 4) (i : BitVec 8) (s : State) : Host.Outcome State Fault Refusal :=
  issue (.qpush d q i) s fun x => x.push1 q i (fun q => entryOf tagData 0 (pushVals x.t d q) x.t.tid) false

/-- QMARK.SEG (R233): the payload is an s register's low half. -/
def execQmarkSeg (d : RegField) (q : BitVec 4) (i : BitVec 8) (s : State) : Host.Outcome State Fault Refusal :=
  issue (.qmarkSeg d q i) s fun x => x.push1 q i (fun _ => entryOf tagSeg ((x.t.sreg d).truncate 16) [] x.t.tid) false

/-- QMARK.EOS (R224, R233). -/
def execQmarkEos (q : BitVec 4) (i : BitVec 8) (s : State) : Host.Outcome State Fault Refusal :=
  issue (.qmarkEos q i) s fun x => x.push1 q i (fun _ => entryOf tagEos 0 [] x.t.tid) true

/-! ### Pops (R234) -/

/-- A popped position as a register of a role receives it (R232). -/
def popVal (role : Role) (f : Fmt) (x : DWord) : DWord :=
  match f with
  | .int8 => if role = .access then BitVec.ofInt 64 (signedOf 8 x.toNat) else (BitVec.ofInt 32 (signedOf 8 x.toNat)).zeroExtend 64
  | .int32 => if role = .access then BitVec.ofInt 64 (signedOf 32 x.toNat) else x
  | _ => x

/-- The destination write of a popped DATA entry; other entries leave it unchanged (R234). -/
def popWrites (t : Team) (d : RegField) (q : Queue) (e : QEntry) : List PendWrite :=
  if e.tag = tagData then
    [{ dst := d, vals := t.run.map (fun l => (l, popVal t.role q.fmt (e.vals.getD l 0))), flags := 0 }]
  else []

/-- A pop whose producer is an execute role loses decoupling when it finds nothing (R245). -/
def losesDecoupling (t : Team) (q : Queue) : Bool := t.role == .access && q.producer != .access

/-- QPOP, QTRY and QPEEK (R234). The status is written last: where it goes to the destination, it alone remains. -/
def Iss.pop1 (x : Iss) (d : RegField) (n : BitVec 4) (spec : BitVec 8) (tries peeks : Bool) : Act :=
  if x.t.idle then .ok x.s
  else
    x.withQueue n fun q =>
      if q.shut then x.queueStatus (pendStatus spec (stClosed ||| 0x20000#32))
      else
        match q.visible x.s.clk with
        | [] => if tries then x.queueStatus (pendStatus spec stEmpty) else x.holdQueue (losesDecoupling x.t q)
        | h :: _ =>
          let ps := if spec ≠ 0 ∧ d = spec.truncate 7 then pendStatus spec h.status else popWrites x.t d q h ++ pendStatus spec h.status
          if peeks || h.tag = tagEos then x.queueStatus ps
          else x.queueDone n (fun q => q.pop 1 x.s.clk) ps

/-- QPOP (R234). -/
def execQpop (d : RegField) (q : BitVec 4) (i : BitVec 8) (s : State) : Host.Outcome State Fault Refusal :=
  issue (.qpop d q i) s fun x => x.pop1 d q i false false

/-- QTRY (R234). -/
def execQtry (d : RegField) (q : BitVec 4) (i : BitVec 8) (s : State) : Host.Outcome State Fault Refusal :=
  issue (.qtry d q i) s fun x => x.pop1 d q i true false

/-- QPEEK (R234). -/
def execQpeek (d : RegField) (q : BitVec 4) (i : BitVec 8) (s : State) : Host.Outcome State Fault Refusal :=
  issue (.qpeek d q i) s fun x => x.pop1 d q i false true

/-! ### QCLOSE, QFLUSH, QSTAT (R235 to R237, R243) -/

/-- A replay item that belongs to a queue. -/
def ReplayItem.ofQueue (n : Nat) (i : ReplayItem) : Bool :=
  match i.kind with
  | .queue q _ _ => q == n
  | _ => false

/-- The replay set without the cancelled loads; a team parked on nothing else leaves its park, and a marker's park ends with
them (R164, R243). -/
def Team.cancelQueue (n : Nat) (t : Team) : Team :=
  let rest := t.replay.filter fun i => !i.ofQueue n
  let t := { t with replay := rest, parked := t.parked && !rest.isEmpty }
  { t with swPark := t.swPark && t.outstanding }

/-- The requests that only cancelled items of a team wait on. -/
def Team.onlyQueueReqs (n : Nat) (t : Team) : List Nat :=
  let keep := (t.replay.filter fun i => !i.ofQueue n).flatMap (·.reqs)
  ((t.replay.filter fun i => i.ofQueue n).flatMap (·.reqs)).filter fun q => !keep.contains q

/-- Detaches one waiter from one request, and withdraws the request when it was the last (R303); the count says whether it
did. An expansion is no page request and goes on. -/
def State.detachOne (s : State) (part tag : Nat) (w : Waiter) : State × Nat :=
  match s.part? part with
  | none => (s, 0)
  | some pt =>
    match pt.requests.find? fun q => q.tag == tag with
    | none => (s, 0)
    | some q =>
      let left := q.waiters.filter fun x => x != w
      if left.isEmpty && q.reason != 0 then
        let s := s.modPart part fun pt => { pt with requests := pt.requests.filter fun q => q.tag != tag }
        (s.withdraw q, if q.answer.isNone then 1 else 0)
      else
        (s.modPart part fun pt => { pt with
          requests := modWhere pt.requests (fun q => q.tag == tag) fun q => { q with waiters := left } }, 0)

/-- Cancels the queue loads of a team: its requests are withdrawn and counted. -/
def State.cancelLoads (s : State) (part : Nat) (r : TeamRef) (n : Nat) (t : Team) : State × Nat :=
  let p := (t.onlyQueueReqs n).foldl (fun p tag =>
    let q := p.1.detachOne part tag (.team r)
    (q.1, p.2 + q.2)) (s, 0)
  (p.1.modTeam r (Team.cancelQueue n), p.2)

/-- The entries QFLUSH removes: visible ones before an EOS (R236). -/
def Queue.flushable (q : Queue) (clk : Nat) : Nat := ((q.visible clk).takeWhile fun e => e.tag != tagEos).length

/-- QFLUSH (R236). -/
def execQflush (d : RegField) (q : BitVec 4) (s : State) : Host.Outcome State Fault Refusal :=
  issue (.qflush d q) s fun x =>
    x.withQueue q fun qu =>
      let n := if x.t.idle || qu.shut then 0 else qu.flushable x.s.clk
      if n = 0 then x.queueStatus [pendS d 0]
      else
        x.queueDone q (fun q => { q.pop n x.s.clk with flushed := q.flushed + BitVec.ofNat 32 n })
          [pendS d (BitVec.ofNat 32 n)]

/-- STATE codes (R237). -/
def Queue.stateCode (q : Queue) : Nat :=
  match q.state with
  | .unbound => 0
  | .opened => 1
  | .closing => 2
  | .closed => 3
  | .released => 0

/-- The queue state word (R237). -/
def Queue.stateWord (q : Queue) (clk : Nat) : Word :=
  let vis := (q.visible clk).length
  BitVec.ofNat 32 (q.depth * 2 ^ 24 + (q.entries.length - vis) * 2 ^ 16 + vis * 2 ^ 8 + (if q.ended then 8 else 0) + q.stateCode)

/-- QSTAT (R237). -/
def execQstat (d : RegField) (q : BitVec 4) (k : BitVec 8) (s : State) : Host.Outcome State Fault Refusal :=
  issue (.qstat d q k) s fun x =>
    x.withQueue q fun qu =>
      x.queueStatus [pendS d (match k.toNat with
        | 0 => qu.stateWord x.s.clk
        | 1 => qu.cancelled
        | _ => qu.flushed)]

/-! ### LDQ, LDQG, STQ (R240, R241) -/

/-- The positions of an entry with the values of some lanes filled in. -/
def fillVals (vals : List DWord) (xs : List (Nat × List Byte)) : List DWord :=
  xs.foldl (fun v p => setAt v p.1 (BitVec.ofNat 64 (leNat p.2))) vals

/-- The data of an entry arrive in an a-clk (R227). Data of a cancelled entry are discarded, and the last of them
closes the queue (R243). -/
def Queue.arrive (q : Queue) (id clk : Nat) : Queue :=
  if q.entries.any fun e => e.id == id then
    { q with entries := modWhere q.entries (fun e => e.id == id) fun e =>
        if e.faulted then e else { e with complete := true, waiting := false, since := clk + 1 } }
  else if q.state == .closing && decide (0 < q.inFlight) then
    { q with inFlight := q.inFlight - 1, state := if q.inFlight = 1 then .closed else .closing }
  else q

/-- The data of an entry arrive in a group's queue: if more entries are visible in the next a-clk, the progress count returns to 0
in it (R246). -/
def Group.arriveQ (g : Group) (n id clk : Nat) : Group :=
  let h := g.modQueue n fun q => q.arrive id clk
  if g.visibleIn n (clk + 1) < h.visibleIn n (clk + 1) then h.touchQ (clk + 1) else h

/-- LDQ and LDQG (R240): the data are read now and arrive by a QUEUE_ENTRY_COMPLETE; lanes that fault join the replay set
(R242). -/
def Iss.ldq (x : Iss) (n : BitVec 4) (a : RegField) (off : Int) (guarded : Bool) : Act :=
  if x.t.idle then .ok x.s
  else
    x.withQueue n fun q =>
      let e := q.elemBytes
      let vas := (x.t.vas a off).filter fun p => !guarded || x.t.reg a p.1 != 0
      match vaFault e vas with
      | some (code, va) => .trap code va
      | none =>
        if q.refuses then .ok x.s
        else if q.full x.s.clk then x.holdQueue false
        else
          match x.s.ctxOf x.g with
          | none => .ok x.s
          | some c =>
            x.misses <|
              let w := gatherLanes x.s (x.reader c false) e (plainLanes vas)
              if w.bad then .done (x.s.badAccess x.g x.t)
              else
                let entry := { entryOf tagData 0 (fillVals (List.replicate q.width 0) w.vals) x.t.tid with
                  complete := false, waiting := true, faulted := !w.left.isEmpty, req := some x.t.seqNo }
                let s := (x.request w.s c (w.done vas)).modGroup x.r.uid fun g =>
                  g.changeQ n.toNat x.s.clk fun q => q.reserve entry x.s.clk
                .ok (s.modTeam x.r fun t =>
                  ((t.freeze (plainLanes vas) e).sees w.seen).addReplay t.prefixPc (.queue n.toNat q.nextId e) w.left)

/-- LDQ (R240). -/
def execLdq (q : BitVec 4) (a : RegField) (o : BitVec 4) (z : BitVec 3) (s : State) : Host.Outcome State Fault Refusal :=
  issue (.ldq q a o z) s fun x => x.ldq q a (x.off4 o (sizeBytes z)) false

/-- LDQG (R240): a lane whose base is 0 makes no access. -/
def execLdqg (q : BitVec 4) (a : RegField) (o : BitVec 4) (z : BitVec 3) (s : State) : Host.Outcome State Fault Refusal :=
  issue (.ldqg q a o z) s fun x => x.ldq q a (x.off4 o (sizeBytes z)) true

/-- The stores of a popped entry (R241). -/
def stqEntries (t : Team) (e : Nat) (vas : List (Nat × Nat)) (h : QEntry) : List StoreEntry :=
  if h.tag = tagData then
    vas.map fun p => { seq := t.seqNo, pc := t.prefixPc, lane := p.1, va := p.2, bytes := leBytes e (h.vals.getD p.1 0).toNat }
  else []

/-- STQ (R241): the address checks precede the pop. -/
def execStq (q : BitVec 4) (a : RegField) (o : BitVec 4) (z : BitVec 3) (s : State) : Host.Outcome State Fault Refusal :=
  issue (.stq q a o z) s fun x =>
    if x.t.idle then .ok x.s
    else
      x.withQueue q fun qu =>
        let e := qu.elemBytes
        let vas := x.t.vas a (x.off4 o (sizeBytes z))
        match vaFault e vas with
        | some (code, va) => .trap code va
        | none =>
          if qu.shut then .ok x.s
          else
            match qu.visible x.s.clk with
            | [] => x.holdQueue (losesDecoupling x.t qu)
            | h :: _ =>
              if h.tag = tagEos then .ok x.s
              else
                let s := x.s.modGroup x.r.uid fun g => g.changeQ q.toNat x.s.clk fun q => q.pop 1 x.s.clk
                .ok (s.modTeam x.r fun t => { t with sbuf := t.sbuf ++ stqEntries t e vas h })

end Sys2Proof.Machine
end

