-- ==== Sys2Proof/Machine/Pages.lean ====
section
/-!
DEFINITION. Page requests (R296 to R303), the replay of what waits on them (R298, R299) and what an answer does to each kind of
waiter.
-/

namespace Sys2Proof.Machine

/-! ### Making requests (R300) -/

/-- Kinds of access in a request record (R300). -/
def accessBits (a : Access) (engine : Bool) : Nat :=
  (match a with
    | .read => 1
    | .write => 2
    | .code => 4) + (if engine then 8 else 0)

/-- A request that a fault joins: same ASID, page and reason, and not yet answered (R300). An access to a compressed page whose
expansion waits for a frame joins that request (R307). -/
def PageReq.joins (q : PageReq) (asid va reason : Nat) : Bool :=
  q.asid == asid && q.va / 65536 == va / 65536 && (q.reason == reason || reason == 0 && q.reason == 4) && q.answer.isNone

/-- Joins an outstanding request or makes one; the result is its tag. REASON 0 is an expansion (R307). -/
def State.joinReq (s : State) (c : Ctx) (va reason level access core : Nat) (w : Waiter) : State × Nat :=
  match s.part? c.part with
  | none => (s, 0)
  | some pt =>
    let asid := asidTag c.asid va
    match pt.requests.find? fun q => q.joins asid va reason with
    | some q =>
      (s.modPart c.part fun pt => { pt with
        requests := modWhere pt.requests (fun r => r.tag == q.tag) fun r =>
          { r with waiters := if r.waiters.contains w then r.waiters else r.waiters ++ [w] } }, q.tag)
    | none =>
      let q : PageReq :=
        { tag := pt.nextTag, part := c.part, ctxid := c.ctxid, gen := c.gen, asid := asid, va := va, reason := reason,
          level := level, access := access, core := core, waiters := [w], posted := false, answer := none }
      (s.modPart c.part fun pt => { pt with requests := pt.requests ++ [q], nextTag := (pt.nextTag + 1) % 2 ^ 32 },
        pt.nextTag)

/-! ### Reports (R296) -/

/-- The access an unfinished instruction makes. -/
def replayAccess (k : ReplayKind) : Access :=
  match k with
  | .load _ _ _ => .read
  | .queue _ _ _ => .read
  | .whole => .read
  | .rewrite => .write
  | .atom _ _ _ => .write
  | .store _ => .write
  | .spill => .write

/-- What reporting a team's faults has come to: the state, and whether an entry was malformed. -/
structure Report where
  s    : State
  tags : List Nat
  bad  : Bool
  deriving DecidableEq, Repr

/-- One lane of an unfinished instruction: a request is made where its address still faults. -/
def reportLane (c : Ctx) (core : Nat) (a : Access) (w : Waiter) (p : Report) (l : LaneAcc) : Report :=
  match p.s.xlate c a l.va with
  | (.fault reason level, s) =>
    let q := s.joinReq c l.va reason level (accessBits a false) core w
    { p with s := q.1, tags := if p.tags.contains q.2 then p.tags else p.tags ++ [q.2] }
  | (.expand _, s) =>
    let q := s.joinReq c l.va 0 0 (accessBits a false) core w
    { p with s := q.1, tags := if p.tags.contains q.2 then p.tags else p.tags ++ [q.2] }
  | (.bad, s) => { p with s := s, bad := true }
  | (.ok _ _ _, s) => { p with s := s }

/-- Reports the items of a replay set that have not been reported; the result carries the items as they now stand. -/
def reportItems (c : Ctx) (core : Nat) (w : Waiter) (s : State) : List ReplayItem → Report × List ReplayItem
  | [] => ({ s := s, tags := [], bad := false }, [])
  | i :: r =>
    let p :=
      if i.reported then ({ s := s, tags := [], bad := false } : Report)
      else i.lanes.foldl (reportLane c core (replayAccess i.kind) w) { s := s, tags := [], bad := false }
    let q := reportItems c core w p.s r
    ({ q.1 with bad := q.1.bad || p.bad }, (if i.reported then i else { i with reqs := p.tags, reported := true }) :: q.2)

/-! ### Replay (R298) -/

/-- Some item of the set waits on a request. -/
def Team.waits (t : Team) : Bool := t.replay.any fun i => !i.reqs.isEmpty

/-- The marker's park ends once nothing is outstanding (R164). -/
def Team.unswitch (t : Team) : Team := { t with swPark := t.swPark && t.outstanding }

/-- Fills lanes of a reserved entry; complete data wait for their QUEUE_ENTRY_COMPLETE. -/
def Queue.fill (q : Queue) (id : Nat) (vals : List (Nat × List Byte)) (done : Bool) : Queue :=
  { q with entries := modWhere q.entries (fun e => e.id == id) fun e =>
      { e with vals := fillVals e.vals vals, faulted := !done } }

/-- Keeps an item with the lanes that faulted again. -/
def Team.keepItem (t : Team) (i : ReplayItem) (left : List LaneAcc) : Team :=
  t.addItem { i with lanes := left, reqs := [], reported := false }

/-- An acquire is one once its last lane has been performed (R144, R145, R149). -/
def State.acquireIf (s : State) (b : Bool) (r : TeamRef) : State := if b then s.acquire r else s

/-- A trap met by a replay, to be raised once every item has been run: cause, TRAPVA, address. -/
abbrev ReplayTrap := Option (Nat × DWord × Word)

/-- A replayed lane makes its request anew (R314). -/
def State.requestAgain (s : State) (c : Ctx) (r : TeamRef) (seq : Nat) (lanes : List (Nat × Nat)) : State :=
  match s.group? r.uid with
  | none => s
  | some g => s.requestFor r g.core seq c lanes

/-- The lanes of an item, with their addresses. -/
def ReplayItem.vas (i : ReplayItem) : List (Nat × Nat) := i.lanes.map fun a => (a.lane, a.va)

/-- Runs one item of the set for its unfinished lanes (R298): the state, a trap (ATOMPATH, R310) and a malformed entry. -/
def replayOne (c : Ctx) (r : TeamRef) (s : State) (i : ReplayItem) : State × ReplayTrap × Bool :=
  match s.team? r with
  | none => (s, none, false)
  | some t =>
    let w : Reader := { c := c, r := r, t := t, seq := i.seq, fresh := i.acq }
    match i.kind with
    | .load d n sx =>
      let q := gatherLanes s w n i.lanes
      (((q.s.requestAgain c r i.seq (q.done i.vas)).modTeam r fun t =>
          ((t.sees q.seen).addPend (awaitSeq i.seq (loadWrites d n sx (onlyLow i.low q.vals)))).keepItem i q.left).acquireIf
        (i.acq && q.left.isEmpty) r, none, q.bad)
    | .queue n e b =>
      let q := gatherLanes s w b i.lanes
      (((q.s.requestAgain c r i.seq (q.done i.vas)).modGroup r.uid fun g => g.modQueue n fun q' => q'.fill e q.vals q.left.isEmpty).modTeam r fun t =>
        (t.sees q.seen).keepItem i q.left, none, q.bad)
    | .atom op d n =>
      let q := placeLanes s c i.lanes
      if q.bad then (q.s, none, true)
      else if q.left || i.lanes.any (fun a => t.behind i.seq a.va n) then (q.s.modTeam r fun t => t.keepItem i i.lanes, none, false)
      else if q.at_.any fun p => !carried (atomOfCode op) n p.2.1 p.2.2.2 then
        (q.s, some (trapAtompath, BitVec.ofNat 64 ((i.lanes.head?.map (·.va)).getD 0), i.pc), false)
      else
        let w := atomLanes q.s r c.asid (atomOfCode op) n q.at_
        (((w.s.requestAgain c r i.seq i.vas).modTeam r fun t => t.addPend (awaitSeq i.seq (atomWrites d n w))).acquireIf i.acq r,
          none, false)
    | .store _ => (s.drainSeq r i.seq, none, false)
    | .whole => (s, none, false)
    | .rewrite => (s, none, false)
    | .spill => (s, none, false)

/-- Runs every item of the set in program order; the first trap and any malformed entry are kept. -/
def replayAll (c : Ctx) (r : TeamRef) : List ReplayItem → State → State × ReplayTrap × Bool
  | [], s => (s, none, false)
  | i :: rest, s =>
    let p := replayOne c r s i
    let q := replayAll c r rest p.1
    (q.1, if p.2.1.isSome then p.2.1 else q.2.1, p.2.2 || q.2.2)

/-- The team leaves its park if nothing of its replay set waits any longer (R298): every item runs again, and the team stays
parked if one faults again. What the host wrote before its answer happens before the replay (R301), so the team misses no write
made so far. Nothing happens while the context does not run (R100). -/
def State.tryReplay (s : State) (r : TeamRef) : State :=
  match s.group? r.uid with
  | none => s
  | some g =>
    match g.team? r.tid, s.ctxOf g with
    | some t, some c =>
      if !t.parked || t.waits || c.state != .running || g.state == .starting || t.replay.any (fun i => !i.reported) then s
      else
        let s := (s.modTeam r fun t => { t with replay := [] }).acquire r
        let p := replayAll c r t.replay s
        if p.2.2 then p.1.badAccess g t
        else
          let s := (p.1.modTeam r fun t => { t with parked := !t.replay.isEmpty }.unswitch).modGroup r.uid fun g => g.touchQ s.clk
          match p.2.1 with
          | some (code, va, pc) => ((s.modTeam r fun t => { t with parked := false }).raiseTrap r code va pc).moved
          | none => (s.finishTry r).moved
    | _, _ => s

/-- The store instructions of a buffer, by number, oldest first. -/
def Team.storeSeqs (t : Team) : List Nat := (t.sbuf.map (·.seq)).dedup

/-- Every store instruction of the buffer has lanes that are not performed: each is an item of the set (R296, R297). -/
def Team.joinStores (t : Team) : Team :=
  (t.storeSeqs.filter fun n => !t.replay.any fun i => i.isStore && i.seq == n).foldl (fun t n =>
    match t.sbuf.find? fun e => e.seq == n with
    | some e => t.addItem (t.storeItem e)
    | none => t) t

/-- The fault of a team is reported to its core (R296): the team parks and its unreported items make their requests. Items
whose addresses translate by now wait on none. -/
def State.reportTeam (s : State) (r : TeamRef) : State :=
  match s.group? r.uid with
  | none => s
  | some g =>
    match g.team? r.tid, s.ctxOf g with
    | some t, some c =>
      let p := reportItems c g.core (.team r) s t.joinStores.replay
      if p.1.bad then p.1.s.badAccess g t
      else (p.1.s.modTeam r fun t => { t with replay := p.2, parked := true }).tryReplay r
    | _, _ => s

/-! ### A FAIL answer (R299) -/

/-- The entries of a queue before an entry: E is discarded together with every later entry (R242). -/
def Queue.discardFrom (q : Queue) (id : Nat) : Queue := { q with entries := q.entries.filter fun e => decide (e.id < id) }

/-- Discards the queue entries of dropped items (R242). -/
def Group.discardEntries (g : Group) (items : List ReplayItem) : Group :=
  items.foldl (fun g i => match i.kind with
    | .queue n e _ => g.modQueue n fun q => q.discardFrom e
    | _ => g) g

/-- The lane of lowest number. -/
def lowestLane : List LaneAcc → Option LaneAcc
  | [] => none
  | a :: r =>
    match lowestLane r with
    | some b => if a.lane ≤ b.lane then some a else some b
    | none => some a

/-- MEMFAULT of a team on a failed request (R299): the team detaches from its other requests, everything unfinished is
dropped, the stores of its buffer among it, and the trap is taken at the earliest item that waits on the request. -/
def State.memFault (s : State) (r : TeamRef) (tag : Nat) : State :=
  match s.group? r.uid with
  | none => s
  | some g =>
    match g.team? r.tid with
    | none => s
    | some t =>
      match t.replay.find? fun i => i.reqs.contains tag with
      | none => s
      | some i =>
        let others := (t.replay.flatMap (·.reqs)).filter (· != tag)
        let s := others.foldl (fun s q => (s.detachOne g.part q (.team r)).1) s
        let s := s.modGroup r.uid fun g => (g.discardEntries t.replay).touchQ s.clk
        let s := s.modTeam r fun t =>
          { t with replay := [], parked := false, sbuf := [] }.unswitch
        (s.raiseTrap r trapMemfault (BitVec.ofNat 64 (((lowestLane i.lanes).map (·.va)).getD 0)) i.pc).moved

/-! ### Answers to waiters (R298, R299, R279, R324) -/

/-- A request resolved with SUCCESS no longer keeps a team's items waiting. -/
def Team.resolved (tag : Nat) (t : Team) : Team :=
  { t with replay := t.replay.map fun i => { i with reqs := i.reqs.filter (· != tag) } }

/-- What a resolved request does for one waiter. -/
def State.wake (s : State) (tag : Nat) (w : Waiter) : State :=
  match w with
  | .team r => (s.modTeam r (Team.resolved tag)).tryReplay r
  | .copy q => { s with copies := modWhere s.copies (fun c => c.seq == q) fun c => { c with waitReq := none } }
  | .fetch q => { s with fetches := modWhere s.fetches (fun c => c.seq == q) fun c => { c with waitReq := none } }
  | .size l => s.modLaunch l fun l => { l with waitReq := none }
  | .card _ _ => s
  | .port _ => s
  | .load _ _ => s
  | .graph n => { s with ctxs := s.ctxs.map fun c => { c with asks := modWhere c.asks (fun a => a.ord == n) fun a => { a with waitReq := none } } }

/-- The context of a waiter: that of its group or launch, which in the shared window need not be the one that asked (R290, R300). -/
def State.waiterCtx (s : State) (part : Nat) (w : Waiter) : Option Ctx :=
  match w with
  | .team r => (s.group? r.uid).bind s.ctxOf
  | .copy q => ((s.copies.find? fun c => c.seq == q).bind fun c => s.group? c.uid).bind s.ctxOf
  | .fetch q => ((s.fetches.find? fun f => f.seq == q).bind fun f => s.group? f.uid).bind s.ctxOf
  | .card uid _ => (s.group? uid).bind s.ctxOf
  | .size l => (s.launch? l).bind fun l => s.ctx? l.part l.ctxid
  | .graph n => s.ctxs.find? fun c => c.part == part && c.asks.any fun a => a.ord == n
  | .port n => s.ctx? part n
  | .load core slot =>
    ((s.core? core).bind fun k => k.slots.getD slot none).bind fun o => s.ctxs.find? fun c => c.part == part && c.asid == o.asid

/-- A failed request puts the context of a waiter into ERROR with MEMFAULT. -/
def State.failCtx (s : State) (q : PageReq) (w : Waiter) (core : Nat) : State :=
  match s.waiterCtx q.part w with
  | some c => s.ctxError c.part c.ctxid trapMemfault core 0 (BitVec.ofNat 64 q.va)
  | none => s

/-- What a failed request does to one waiter: a team takes MEMFAULT; a copy, a fetch, a size word, a graph and an overlay load put
their context into ERROR (R279, R324, R116; of the last two, log entry 51). -/
def State.failWaiter (s : State) (q : PageReq) (w : Waiter) : State :=
  match w with
  | .team r => s.memFault r q.tag
  | .fetch _ => s.failCtx q w q.core
  | .load core _ => s.failCtx q w core
  | .port _ => s
  | _ => s.failCtx q w 0xFFFF

/-- Removes a request. -/
def State.dropReq (s : State) (part tag : Nat) : State :=
  s.modPart part fun pt => { pt with requests := pt.requests.filter fun q => q.tag != tag }

/-- Removes the TLB entries of a page in every controller of the partition (R301). -/
def State.dropTlb (s : State) (part asid va : Nat) : State :=
  s.modPart part fun pt => { pt with tlb := pt.tlb.filter fun e => !(e.asid == asid && va / 2 ^ pageBits e.level == e.vpn) }

/-- A group that waits for a request and is being resumed (R99). -/
def State.restarting (s : State) (w : Waiter) : Bool :=
  match w with
  | .team r => (s.group? r.uid).any fun g => g.state == .starting
  | _ => false

/-- A waiter that an answer reaches while its context does not run: a card that runs on an engine, which finishes before its
context is saved (R377), an overlay load, and a remote access, which is served in a SAVED context too (R414). -/
def Waiter.goesOn (w : Waiter) : Bool :=
  match w with
  | .card _ _ => true
  | .port _ => true
  | .load _ _ => true
  | _ => false

/-- An answer is kept for a waiter: its context does not run, or it is a team that is being resumed (R100). -/
def State.keepsFor (s : State) (part : Nat) (w : Waiter) : Bool :=
  (!w.goesOn && (s.waiterCtx part w).any fun c => c.state == .preempting || c.state == .saved) || s.restarting w

/-- An answer is acted on for every waiter for which it is not kept: each goes on or fails, and the request is gone once no waiter
is left (R100, R298, R299). -/
def State.settle (s : State) (q : PageReq) (ok : Bool) : State :=
  let kept := q.waiters.filter (s.keepsFor q.part)
  let now := q.waiters.filter fun w => !s.keepsFor q.part w
  let s :=
    if kept.isEmpty then s.dropReq q.part q.tag
    else
      s.modPart q.part fun pt => { pt with
        requests := modWhere pt.requests (fun r => r.tag == q.tag) fun r => { r with answer := some ok, waiters := kept } }
  (now.foldl (fun s w => if ok then s.wake q.tag w else s.failWaiter q w) s).moved

/-- A request is answered, by the host or by an expansion (R298, R299). A frame that the host has freed starts the expansion again
(R307). -/
def State.answerReq (s : State) (q : PageReq) (ok : Bool) : State :=
  if ok && q.reason == 4 then
    s.modPart q.part fun pt => { pt with
      requests := modWhere pt.requests (fun r => r.tag == q.tag) fun r => { r with reason := 0, posted := false, answer := none } }
  else s.settle q ok

/-- Acts on the answers kept in a partition for waiters for which they need be kept no longer (R100). -/
def State.actKept (s : State) (part : Nat) : State :=
  ((s.part? part).elim [] fun pt => pt.requests.map (·.tag)).foldl (fun s tag =>
    match (s.part? part).bind fun pt => pt.requests.find? fun q => q.tag == tag with
    | some q =>
      match q.answer with
      | some ok => if !q.waiters.isEmpty && q.waiters.all (s.keepsFor part) then s else s.settle q ok
      | none => s
    | none => s) s

end Sys2Proof.Machine
end

