-- ==== Sys2Proof/Machine/Host.lean ====
section
/-!
DEFINITION. Driver commands in general: who may give them (R409), when they are refused (R410, R421), and their status.
-/

namespace Sys2Proof.Machine

/-- Writes the status of a function's latest command. -/
def State.setStatus (s : State) (fn : Nat) (st : CmdStatus) : State := s.modFunc fn fun f => { f with status := st }

/-- The part takes commands: READY, not held in reset, host link up (R410, R421, R433). -/
def State.commandable (s : State) : Bool := s.dev.boot.step == 6 && !s.dev.heldInReset && s.dev.hostLink && s.dev.powered

/-- A function may act on a partition: the physical function on any, a virtual function in eight-partition mode on its own
(R409). -/
def State.mayReach (s : State) (fn part : Nat) : Bool :=
  fn == 0 || (s.dev.mode == .eight && fn == part + 1 && decide (part < 8))

/-- The number of partitions in use (R16). -/
def State.partCount (s : State) : Nat := if s.dev.mode == .eight then 8 else 1

/-- The cores of a partition (R10, R16). -/
def State.coresOf (s : State) (part : Nat) : List Nat :=
  match s.dev.mode with
  | .eight => (List.range 32).map (32 * part + ·)
  | .one => List.range 256
  | .hamada => List.range 8

/-- Changes the listed cores. -/
def State.modCores (s : State) (cs : List Nat) (f : Core → Core) : State := cs.foldl (fun s c => s.modCore c f) s

/-- A command on a partition: NOTREADY or ACCESS with nothing changed, else its own effect. -/
def State.command (s : State) (fn part : Nat) (k : State → State) : State :=
  if !s.commandable then s.setStatus fn .notReady
  else if !s.mayReach fn part || decide (s.partCount ≤ part) then s.setStatus fn .access
  else k s

/-- A command that names a context, with its generation: INVALID where there is no such context; a command for another generation
is discarded and counted as a stale answer is (R91, R302; log entry 50). -/
def State.ofGen (s : State) (fn part ctxid gen : Nat) (k : State → Ctx → State) : State :=
  match s.ctx? part ctxid with
  | none => s.setStatus fn .invalid
  | some c => if c.gen = gen then k s c else s.modFunc fn fun f => { f with staleAns := f.staleAns + 1 }

/-- A command on a context of a partition. -/
def State.ctxCommand (s : State) (fn part ctxid gen : Nat) (k : State → Ctx → State) : State :=
  s.command fn part fun s => s.ofGen fn part ctxid gen k

/-- A command that the physical function alone may give (R409). -/
def State.pfCommand (s : State) (fn : Nat) (k : State → State) : State :=
  if !s.commandable then s.setStatus fn .notReady
  else if fn != 0 then s.setStatus fn .access
  else k s

/-- A command that ends with OK, if a test holds, else with INVALID and nothing changed. -/
def State.okIf (s : State) (fn : Nat) (b : Bool) (k : State → State) : State :=
  if b then ((k s).setStatus fn .ok).moved else s.setStatus fn .invalid

/-- Raises an MSI-X vector of a function (R408): 0 page request, 1 event, 2 service, 3 port. -/
def State.raiseMsix (s : State) (fn v : Nat) : State := s.modFunc fn fun f => { f with msix := f.msix ++ [v] }

/-- A part event's outcome. -/
abbrev done (s : State) : Host.Outcome State Fault Refusal := .next s

end Sys2Proof.Machine
end

