-- ==== Sys2Proof/Machine/Sha.lean ====
section
/-!
DEFINITION. SHA-256, the hash that R74, R76 and R87 name. What it computes is the published standard's (log entry 24); its
constants are worked out here from what they are, the fractions of roots of the first primes.
-/

namespace Sys2Proof.Machine

/-! ### Constants -/

/-- The first `n` primes of those numbers from `c` on, given the primes below it; `fuel` numbers are looked at. -/
def primesFrom : Nat → Nat → List Nat → Nat → List Nat
  | 0, _, ps, _ => ps
  | fuel + 1, n, ps, c =>
    if n ≤ ps.length then ps
    else if ps.any fun p => c % p == 0 then primesFrom fuel n ps (c + 1)
    else primesFrom fuel n (ps ++ [c]) (c + 1)

/-- The largest number whose `k`-th power is at most `x`: its bits from bit `i` down, beside those found. -/
def rootFrom (k x : Nat) : Nat → Nat → Nat
  | 0, r => r
  | i + 1, r => rootFrom k x i (if (r + 2 ^ i) ^ k ≤ x then r + 2 ^ i else r)

/-- The first 32 bits of the fraction of the `k`-th root of a prime. -/
def rootFraction (k p : Nat) : Word := BitVec.ofNat 32 (rootFrom k (p * 2 ^ (32 * k)) 37 0)

/-- The constants of the 64 rounds: from cube roots. -/
def shaKeys : List Word := (primesFrom 400 64 [] 2).map (rootFraction 3)

/-- The eight words that a hash starts with: from square roots. -/
def shaStart : List Word := (primesFrom 20 8 [] 2).map (rootFraction 2)

/-! ### One block -/

/-- A hash in progress within a block: the eight working words, and the next sixteen words of the message. -/
structure ShaRun where
  work : List Word
  next : List Word
  deriving DecidableEq, Repr

/-- The exclusive or of a word rotated by three amounts. -/
def rot3 (x : Word) (i j k : Nat) : Word := x.rotateRight i ^^^ x.rotateRight j ^^^ x.rotateRight k

/-- The word that follows sixteen words of a message. -/
def ShaRun.fresh (q : ShaRun) : Word :=
  let w := fun i => q.next.getD i 0
  let low := (w 1).rotateRight 7 ^^^ (w 1).rotateRight 18 ^^^ (w 1 >>> 3)
  let high := (w 14).rotateRight 17 ^^^ (w 14).rotateRight 19 ^^^ (w 14 >>> 10)
  w 0 + low + w 9 + high

/-- A round with its constant: two words are replaced and all move by one place. -/
def ShaRun.round (q : ShaRun) (key : Word) : ShaRun :=
  let v := fun i => q.work.getD i 0
  let pick := (v 4 &&& v 5) ||| (~~~(v 4) &&& v 6)
  let most := (v 0 &&& v 1) ||| (v 2 &&& (v 0 ||| v 1))
  let x := v 7 + rot3 (v 4) 6 11 25 + pick + key + q.next.getD 0 0
  let y := rot3 (v 0) 2 13 22 + most
  { work := (x + y) :: (q.work.take 3 ++ (v 3 + x) :: (q.work.drop 4).take 3), next := q.next.drop 1 ++ [q.fresh] }

/-- The words of a block of 64 bytes: big-endian. -/
def blockWords (bs : List Byte) : List Word :=
  (List.range 16).map fun i => BitVec.ofNat 32 (leNat ((bs.drop (4 * i)).take 4).reverse)

/-- A hash after one more block. -/
def shaAbsorb (keys hash : List Word) (bs : List Byte) : List Word :=
  let q := keys.foldl ShaRun.round { work := hash, next := blockWords bs }
  hash.zipWith (· + ·) q.work

/-! ### A message -/

/-- What follows a message of `n` bytes: a one bit, zeros up to 8 bytes before a block's end, and the bits' number. -/
def shaTail (n : Nat) : List Byte := 0x80#8 :: (List.replicate ((119 - n % 64) % 64) 0 ++ (leBytes 8 (8 * n)).reverse)

/-- The hash after `n` blocks of bytes. -/
def shaOver (keys : List Word) : Nat → List Word → List Byte → List Word
  | 0, hash, _ => hash
  | n + 1, hash, bs => shaOver keys n (shaAbsorb keys hash (bs.take 64)) (bs.drop 64)

/-- SHA-256 of a message, as 32 bytes. -/
def sha256 (bs : List Byte) : List Byte :=
  let m := bs ++ shaTail bs.length
  (shaOver shaKeys (m.length / 64) shaStart m).flatMap fun w => (leBytes 4 w.toNat).reverse

end Sys2Proof.Machine
end

