-- ==== Sys2Proof/Machine/Hss.lean ====
section
/-!
DEFINITION. The signatures of images (R76): HSS of one or two levels over LMS trees of SHA-256, with the parameter sets that R76
accepts. R76 names RFC 8554; the form of keys and signatures, and the steps of the check, are that text's (log entry 7).
-/

namespace Sys2Proof.Machine

/-- A number as `n` bytes, the highest first. -/
def beBytes (n x : Nat) : List Byte := (leBytes n x).reverse

/-- The big-endian 4-byte number at an offset. -/
def beAt (bs : List Byte) (off : Nat) : Nat := leNat ((bs.drop off).take 4).reverse

/-- A set of one-time parameters: bits of a digit, digits of a signature, and the shift of the checksum. -/
structure OtsParams where
  w  : Nat
  p  : Nat
  ls : Nat
  deriving DecidableEq, Repr

/-- LMOTS_SHA256_N32_W4 and W8. -/
def otsParams (t : Nat) : Option OtsParams :=
  match t with
  | 3 => some { w := 4, p := 67, ls := 4 }
  | 4 => some { w := 8, p := 34, ls := 0 }
  | _ => none

/-- The height of a tree: LMS_SHA256_M32_H10, H15 and H20. -/
def lmsHeight (t : Nat) : Option Nat :=
  match t with
  | 6 => some 10
  | 7 => some 15
  | 8 => some 20
  | _ => none

/-- Digit `i` of `w` bits, the highest digits of a byte first. -/
def digitAt (w : Nat) (s : List Byte) (i : Nat) : Nat := (s.getD (i * w / 8) 0).toNat / 2 ^ (8 - w - w * i % 8) % 2 ^ w

/-- The digits that a one-time signature signs: those of a digest and of its checksum. -/
def signedDigits (o : OtsParams) (digest : List Byte) : List Nat :=
  let sum := ((List.range (256 / o.w)).map fun i => 2 ^ o.w - 1 - digitAt o.w digest i).sum
  let all := digest ++ beBytes 2 (sum * 2 ^ o.ls)
  (List.range o.p).map (digitAt o.w all)

/-- A chain's value `n` hashes on, from place `j` of the chain. -/
def chainOn (pre : List Byte) : Nat → Nat → List Byte → List Byte
  | 0, _, x => x
  | n + 1, j, x => chainOn pre n (j + 1) (sha256 (pre ++ beBytes 1 j ++ x))

/-- The one-time public key that a signature and its message lead to; `pre` is the key's identifier and number. -/
def otsCandidate (o : OtsParams) (pre sig msg : List Byte) : List Byte :=
  let digits := signedDigits o (sha256 (pre ++ [0x81#8, 0x81#8] ++ (sig.drop 4).take 32 ++ msg))
  let ends := digits.mapIdx fun i a => chainOn (pre ++ beBytes 2 i) (2 ^ o.w - 1 - a) a ((sig.drop (36 + 32 * i)).take 32)
  sha256 (pre ++ [0x80#8, 0x80#8] ++ ends.flatten)

/-- From a node of the tree up to the root, along the path of its siblings. -/
def climbTree (id : List Byte) : List (List Byte) → Nat → List Byte → List Byte
  | [], _, x => x
  | y :: path, n, x =>
    climbTree id path (n / 2) (sha256 (id ++ beBytes 4 (n / 2) ++ [0x83#8, 0x83#8] ++ (if n % 2 = 1 then y ++ x else x ++ y)))

/-- Bytes of an LMS public key: its two types, its identifier, and its root. -/
def lmsKeyLen : Nat := 56

/-- Bytes of an LMS signature. -/
def lmsSigLen (o : OtsParams) (height : Nat) : Nat := 12 + 32 * (o.p + 1) + 32 * height

/-- The parameters of an LMS public key. -/
def lmsParams (key : List Byte) : Option (OtsParams × Nat) :=
  match lmsHeight (beAt key 0), otsParams (beAt key 4) with
  | some h, some o => some (o, h)
  | _, _ => none

/-- An LMS signature verifies a message under a public key. -/
def lmsVerify (key sig msg : List Byte) : Bool :=
  match lmsParams key with
  | none => false
  | some (o, h) =>
    let id := (key.drop 8).take 16
    let q := beAt sig 0
    let ots := 4 + 32 * (o.p + 1)
    let path := (List.range h).map fun i => (sig.drop (8 + ots + 32 * i)).take 32
    let pre := id ++ beBytes 4 q
    let leaf := sha256 (id ++ beBytes 4 (2 ^ h + q) ++ [0x82#8, 0x82#8] ++ otsCandidate o pre (sig.drop 4) msg)
    decide (sig.length = lmsSigLen o h ∧ q < 2 ^ h) && beAt sig 4 == beAt key 4 && beAt sig (4 + ots) == beAt key 0 &&
      climbTree id path (2 ^ h + q) leaf == key.drop 24

/-- An HSS signature verifies a message under a public key (R76): of one level, or of two, where the first level signs the second
level's key. -/
def hssVerify (key sig msg : List Byte) : Bool :=
  let top := key.drop 4
  let rest := sig.drop 4
  decide (key.length = 4 + lmsKeyLen ∧ 1 ≤ beAt key 0 ∧ 4 ≤ sig.length) && beAt sig 0 + 1 == beAt key 0 &&
    match beAt key 0 with
    | 1 => lmsVerify top rest msg
    | 2 =>
      match lmsParams top with
      | none => false
      | some (o, h) =>
        let n := lmsSigLen o h
        let next := (rest.drop n).take lmsKeyLen
        next.length == lmsKeyLen && lmsVerify top (rest.take n) next && lmsVerify next (rest.drop (n + lmsKeyLen)) msg
    | _ => false

end Sys2Proof.Machine
end

