-- ==== Sys2Proof/Machine/Tile.lean ====
section
/-!
DEFINITION. Tiles in a group's scratchpad: the header (R329, R330), the coefficient layout of a Haar tile (R335, R336), and
the checks every instruction on a tile makes in the order of R449.
-/

namespace Sys2Proof.Machine

/-! ### The header (R329) -/

/-- A tile header as read from its 32 bytes; `off` is its scratchpad offset, `top` the reserved bits of SURV. -/
structure Hdr where
  off     : Nat
  doff    : Nat
  rows    : Nat
  cols    : Nat
  rstride : Nat
  scale   : Word
  ibase   : Nat
  fcode   : Nat
  dom     : Nat
  cbf     : Nat
  surv    : List Nat
  top     : Nat
  deriving DecidableEq, Repr

/-- Reads a header from its bytes. -/
def hdrOf (off : Nat) (bs : List Byte) : Hdr :=
  let surv := fieldAt bs 0x16 10
  { off := off, doff := fieldAt bs 0 4, rows := fieldAt bs 4 2, cols := fieldAt bs 6 2, rstride := fieldAt bs 8 4,
    scale := BitVec.ofNat 32 (fieldAt bs 0xC 4), ibase := fieldAt bs 0x10 4, fcode := bitsOf (fieldAt bs 0x14 1) 0 4,
    dom := bitsOf (fieldAt bs 0x14 1) 4 4, cbf := fieldAt bs 0x15 1,
    surv := (List.range 6).map fun l => bitsOf surv (12 * l) 12, top := bitsOf surv 72 8 }

/-- The header at a scratchpad offset. -/
def Group.hdr (g : Group) (off : Nat) : Hdr := hdrOf off (memReadN g.pad off 32)

/-- The format of a tile; none for a reserved code. -/
def Hdr.fmt (h : Hdr) : Option Fmt := if h.fcode = 0 then none else fmtOfCode h.fcode

/-- Bits of an element. -/
def Hdr.bits (h : Hdr) : Nat := (h.fmt.map fmtBits).getD 0

/-- The row size of R330. -/
def Hdr.rowSize (h : Hdr) : Nat := ceilDiv (h.cols * h.bits) 8

/-- The data area's length (R330). -/
def Hdr.area (h : Hdr) : Nat := h.rows * h.rstride

/-- A Haar tile (R330). -/
def Hdr.isHaar (h : Hdr) : Bool := decide (1 ≤ h.dom ∧ h.dom ≤ 6)

/-- The levels of a tile: 0 for a SPATIAL one. -/
def Hdr.levels (h : Hdr) : Nat := if h.isHaar then h.dom else 0

/-- A tile that may hold `l` Haar levels (R330). -/
def Hdr.haarCapable (h : Hdr) (l : Nat) : Bool :=
  (h.fmt == some .fp32 || h.fmt == some .bf16 || h.fmt == some .fp16) && h.rows % 2 ^ l == 0 && h.rstride % 32 == 0

/-- A malformed header (R449). -/
def Hdr.malformed (h : Hdr) : Bool :=
  h.top != 0 || 16 ≤ h.cbf || h.rows == 0 || h.cols == 0 || h.doff % 32 != 0 || decide (h.rstride < h.rowSize) ||
    h.fmt.isNone || (h.isHaar && !h.haarCapable h.dom)

/-! ### The coefficient layout (R335) -/

/-- Rows of level `l`. -/
def Hdr.levelRows (h : Hdr) (l : Nat) : Nat := h.rows / 2 ^ l

/-- Bytes of the bitmap of level `l`. -/
def Hdr.bmBytes (h : Hdr) (l : Nat) : Nat := ceilDiv (h.levelRows l) 256 * 32

/-- Surviving rows of level `l`, 1 to 6. -/
def Hdr.survOf (h : Hdr) (l : Nat) : Nat := h.surv.getD (l - 1) 0

/-- Offsets from DOFF where the bitmap of each level stands, from level `l` down to 1, starting at `off`. -/
def bmOffsets (h : Hdr) : Nat → Nat → List (Nat × Nat)
  | 0, _ => []
  | l + 1, off => (l + 1, off) :: bmOffsets h l (off + h.bmBytes (l + 1) + h.survOf (l + 1) * h.rstride)

/-- The bitmaps of a Haar tile: level and offset from DOFF. -/
def Hdr.bitmaps (h : Hdr) : List (Nat × Nat) := bmOffsets h h.levels (h.levelRows h.levels * h.rstride)

/-- Offset from DOFF of the bitmap of level `l`. -/
def Hdr.bmOff (h : Hdr) (l : Nat) : Nat := ((h.bitmaps.find? fun p => p.1 == l).map (·.2)).getD 0

/-- The layout's length (R335). -/
def Hdr.layoutLen (h : Hdr) : Nat :=
  h.bitmaps.foldl (fun n p => n + h.bmBytes p.1 + h.survOf p.1 * h.rstride) (h.levelRows h.levels * h.rstride)

/-- Stored rows: A + ΣSURV; ROWS of a SPATIAL tile. -/
def Hdr.storedRows (h : Hdr) : Nat := h.bitmaps.foldl (fun n p => n + h.survOf p.1) (h.levelRows h.levels)

/-- The detail rows from level `l` down in which layout row `j` lies; none past the last. -/
def detailOff (h : Hdr) (j : Nat) : List (Nat × Nat) → Option Nat
  | [] => none
  | (l, off) :: r =>
    if j < h.survOf l then some (off + h.bmBytes l + j * h.rstride) else detailOff h (j - h.survOf l) r

/-- LOff(k) of R335; none past the last layout row. A SPATIAL tile has one row after the other. -/
def Hdr.lOff (h : Hdr) (k : Nat) : Option Nat :=
  let a := h.levelRows h.levels
  if k < a then some (k * h.rstride) else detailOff h (k - a) h.bitmaps

/-- Bit `i` of the bitmap of level `l`. -/
def Group.bmBit (g : Group) (h : Hdr) (l i : Nat) : Bool :=
  (memRead g.pad (h.doff + h.bmOff l + i / 8)).getLsbD (i % 8)

/-- The bitmap of level `l`, bits 0 to n_l − 1. -/
def Group.bitmap (g : Group) (h : Hdr) (l : Nat) : List Bool :=
  let bs := memReadN g.pad (h.doff + h.bmOff l) (ceilDiv (h.levelRows l) 8)
  (bs.flatMap fun b => (List.range 8).map fun i => b.getLsbD i).take (h.levelRows l)

/-- Set bits of a bitmap. -/
def setBits (bs : List Bool) : Nat := (bs.filter id).length

/-- A bitmap lies wholly within the data area and the scratchpad (R331). -/
def Group.bmInside (g : Group) (h : Hdr) (l : Nat) : Bool :=
  decide (h.bmOff l + h.bmBytes l ≤ h.area ∧ h.doff + h.bmOff l + h.bmBytes l ≤ g.padSize)

/-- R336 over the bitmaps that can be judged. -/
def Group.survOk (g : Group) (h : Hdr) : Bool :=
  (List.range 6).all fun k =>
    let l := k + 1
    if h.levels < l then h.survOf l == 0
    else !g.bmInside h l || setBits (g.bitmap h l) == h.survOf l

/-! ### Checks in the order of R449 -/

/-- The outcome of checks: none where they pass, else the trap's code and TRAPVA; a TRAPVA of none is one the manual does
not state, a free value (log entry 5). -/
abbrev Check := Option (Nat × Option DWord)

/-- The first check that fails. -/
def firstFail : List Check → Check
  | [] => none
  | c :: r => if c.isSome then c else firstFail r

/-- A check that fails with a given TRAPVA. -/
def failIf (b : Bool) (code : Nat) (va : DWord) : Check := if b then some (code, some va) else none

/-- Goes on if the checks pass, else traps. -/
def Iss.checked (x : Iss) (c : Check) (k : Act) : Act :=
  match c with
  | none => k
  | some (code, some va) => .trap code va
  | some (code, none) => .trapKeep x.s.freeVal.2 code x.s.freeVal.1

/-- Step 1: a handle of the team names a header that lies within the scratchpad. -/
def handleCheck (g : Group) (t : Team) (n : Nat) : Check :=
  match (handlesOf g t).getD n none with
  | none => some (trapBounds, some 0xFFFFFFFF#64)
  | some off => failIf (decide (g.padSize < off + 32)) trapBounds (BitVec.ofNat 64 off)

/-- The header a handle names; an unbound handle, which step 1 rejects, reads as offset 0. -/
def hdrAt (g : Group) (t : Team) (n : Nat) : Hdr := g.hdr (((handlesOf g t).getD n none).getD 0)

/-- Step 2 for a header. -/
def domCheck (w : DWord) (h : Hdr) : Check := failIf (decide (7 ≤ h.dom)) trapDomain w

/-- The first offset beyond the scratchpad. -/
def Group.padEnd (g : Group) : DWord := BitVec.ofNat 64 g.padSize

/-- Step 5 of R331 for a data area. -/
def Group.areaCheck (g : Group) (h : Hdr) : Check :=
  failIf (decide (g.padSize < h.doff + h.area)) trapBounds g.padEnd

/-- Step 5 of R331 for the layout of a Haar source. -/
def Hdr.layoutCheck (h : Hdr) : Check :=
  failIf (h.isHaar && decide (h.area < h.layoutLen)) trapBounds (BitVec.ofNat 64 (h.doff + h.area))

/-! ### Elements -/

/-- The raw pattern of column `c` of a row at scratchpad offset `base`; CB4 codes are packed two to a byte (R27). -/
def Group.rawAt (g : Group) (h : Hdr) (base c : Nat) : Nat :=
  if h.bits = 4 then bitsOf (memRead g.pad (base + c / 2)).toNat (4 * (c % 2)) 4
  else memNat g.pad (base + c * (h.bits / 8)) (h.bits / 8)

/-- Notes that bytes of the scratchpad, or of the codebooks (`book`), are about to be replaced (R262). -/
def Group.notePast (g : Group) (book : Bool) (off : Nat) (old : List Byte) : Group :=
  { g with
    past := { ver := g.vers, name := none, host := book, pa := off, old := old, maker := none, fenced := false, closed := false } :: g.past
    vers := g.vers + 1 }

/-- Writes bytes of the scratchpad; the bytes they replace are kept for reads that may miss the write (R262). -/
def Group.padWrite (g : Group) (off : Nat) (bs : List Byte) : Group :=
  { g.notePast false off (memReadN g.pad off bs.length) with pad := memWriteN g.pad off bs }

/-- Writes elements of `n` bytes each from an offset on, one after the other: a read may miss each by itself (R262, R265). -/
def Group.padElems (g : Group) (n off : Nat) (bs : List Byte) : Group :=
  (List.range (ceilDiv bs.length n)).foldl (fun g i => g.padWrite (off + n * i) ((bs.drop (n * i)).take n)) g

/-- The writes of number `n` and later are a team's ordinary stores. -/
def Group.madeBy (g : Group) (r : TeamRef) (n : Nat) : Group :=
  { g with past := g.past.map fun e => if n ≤ e.ver then { e with maker := some r } else e }

/-- The scratchpad of a group as another value of it has it, with the writes that led there. -/
def Group.takePad (g w : Group) : Group := { g with pad := w.pad, past := w.past, vers := w.vers }

/-- A team's writes to its scratchpad, from the group that they were worked out on. -/
def Group.storePad (g w : Group) (r : TeamRef) : Group := (g.takePad w).madeBy r g.vers

/-- The group as it was before a write. -/
def Group.undo (g : Group) (e : PastWrite) : Group :=
  if e.host then
    { g with codebooks := modAt g.codebooks (e.pa / 32) fun book => book.set (e.pa % 32 / 2) (BitVec.ofNat 16 (leNat e.old)) }
  else { g with pad := memWriteN g.pad e.pa e.old }

/-- The group for a read that misses some of the writes, latest first, and the writes it sees; as in `readPast`. -/
def missFrom (may : PastWrite → Bool) : List PastWrite → List PastWrite → Group → Group × List PastWrite
  | [], kept, g => (g, kept)
  | e :: es, kept, g =>
    if !(kept.any fun k => k.host == e.host && e.clashes k e.pa e.old.length) && may e then missFrom may es kept (g.undo e)
    else missFrom may es (e :: kept) g

/-- An ordinary read of the issuing team may miss another's write to the scratchpad or the codebooks until the team acquires
(R254, R255): the group as it is read, and the numbers of the writes it sees. -/
def Iss.padView (x : Iss) : Group × List Nat :=
  let q := missFrom (fun e => !e.closed && e.maker != some x.r && decide (x.t.padAt ≤ e.ver) && !x.t.padSeen.contains e.ver &&
    Config.lag x.s.steps (2 ^ 60 + e.pa) e.ver) x.g.past [] x.g
  (q.1, (q.2.filter fun e => e.maker != some x.r && decide (x.t.padAt ≤ e.ver)).map (·.ver))

/-- An engine may miss a team's store that FENCE.E or BAR.E has not made visible to it (R262, R265): each such store as a whole,
so each element old or new. It reads every engine's writes (R263). -/
def State.engineView (s : State) (g : Group) : Group :=
  (missFrom (fun e => !e.closed && e.maker.isSome && !e.fenced && Config.lag s.steps (2 ^ 60 + e.pa) e.ver) g.past [] g).1

/-- The writes that an engine has made on a view of the group, made in the group itself. -/
def Group.adopt (g w : Group) : Group :=
  (w.past.filter fun e => decide (g.vers ≤ e.ver)).reverse.foldl (fun g e => g.padWrite e.pa (memReadN w.pad e.pa e.old.length)) g

/-- Writes the raw pattern of a column of a row; never called for CB4, which no instruction writes by element. -/
def Group.rawPut (g : Group) (h : Hdr) (base c x : Nat) : Group :=
  g.padWrite (base + c * (h.bits / 8)) (leBytes (h.bits / 8) x)

/-- The BF16 entry that a CB4 code names in the header's codebook (R27, R217). -/
def Group.codebookEntry (g : Group) (h : Hdr) (code : Nat) : Nat :=
  (((g.codebooks.getD (h.cbf % 8) []).getD code 0 : BitVec 16)).toNat

/-- An element's format and pattern as a conversion takes it: a CB4 code as its BF16 entry. -/
def Group.elem (g : Group) (h : Hdr) (raw : Nat) : Fmt × Nat :=
  match h.fmt with
  | some .cb4 => (.bf16, g.codebookEntry h raw)
  | some f => (f, raw)
  | none => (.fp32, raw)

/-- An element widened exactly to FP32 (R36). -/
def Group.widen (g : Group) (h : Hdr) (raw : Nat) : Word × Flags :=
  let p := g.elem h raw
  toFP32 p.1 p.2

/-! ### Reconstruction (R338) -/

/-- The scratchpad offset of detail row `i` of level `l`, which survives. -/
def Group.detailBase (g : Group) (h : Hdr) (l i : Nat) : Nat :=
  h.doff + h.bmOff l + h.bmBytes l + setBits ((g.bitmap h l).take i) * h.rstride

/-- The levels from `l` down added to a coarser average (R338). -/
def recLevels (g : Group) (h : Hdr) (r c : Nat) : Nat → Word × Flags → Word × Flags
  | 0, v => v
  | l + 1, v =>
    let i := r / 2 ^ (l + 1)
    let d := if g.bmBit h (l + 1) i then g.widen h (g.rawAt h (g.detailBase h (l + 1) i) c) else (0#32, 0#6)
    let p :=
      if bitOf r l then addBits .fp32 rneRounding true v.1.toNat d.1.toNat
      else addBits .fp32 rneRounding false v.1.toNat d.1.toNat
    recLevels g h r c l (BitVec.ofNat 32 p.1, v.2 ||| d.2 ||| p.2)

/-- Rec(r, c) of a tile; a SPATIAL tile's element widened. -/
def Group.recElem (g : Group) (h : Hdr) (r c : Nat) : Word × Flags :=
  recLevels g h r c h.levels (g.widen h (g.rawAt h (h.doff + r / 2 ^ h.levels * h.rstride) c))

end Sys2Proof.Machine
end

