-- ==== Sys2Proof/Machine/Engine.lean ====
section
/-!
DEFINITION. Global memory as the engines reach it: runs of bytes translated byte by byte for a context (R279, R324), and what a
run that cannot be translated comes to.
-/

namespace Sys2Proof.Machine

/-- Why a run of bytes stops: an address with a bit in [63:52], bytes the part may not reach (R19, R292), or a page that is
not there or compressed, at its address. -/
inductive RunStop where
  | range (va : Nat)
  | bad
  | fault (va reason level : Nat)
  deriving DecidableEq, Repr

/-- A run of bytes: the state, the place of each byte, and the first byte that has none. -/
structure Run where
  s      : State
  places : List Place
  stop   : Option RunStop
  deriving DecidableEq, Repr

/-- One byte of a run; REASON 0 stands for an expansion (R307). -/
def xlateByte (c : Ctx) (a : Access) (q : Run) (va : Nat) : Run :=
  if q.stop.isSome then q
  else if 2 ^ 52 ≤ va then { q with stop := some (.range va) }
  else
    match q.s.xlate c a va with
    | (.ok host pa _, s) =>
      { q with s := s, places := q.places ++ [{ host := host, pa := pa, va := va, asid := c.asid, part := c.part }] }
    | (.bad, s) => { q with s := s, stop := some .bad }
    | (.fault reason level, s) => { q with s := s, stop := some (.fault va reason level) }
    | (.expand _, s) => { q with s := s, stop := some (.fault va 0 0) }

/-- Translates a list of byte addresses. -/
def xlateBytes (s : State) (c : Ctx) (a : Access) (vas : List Nat) : Run :=
  vas.foldl (xlateByte c a) { s := s, places := [], stop := none }

/-- The `n` byte addresses from `va` on. -/
def runFrom (va n : Nat) : List Nat := (List.range n).map (va + ·)

/-- Bytes with their places, joined into the parts that lie in one aligned 8-byte word each: such a part is read and written
whole (R256). -/
def wordParts : List (Place × Byte) → List (Place × List Byte)
  | [] => []
  | (p, b) :: r =>
    match wordParts r with
    | (q, bs) :: rest =>
      if p.host = q.host ∧ p.pa + 1 = q.pa ∧ q.pa % 8 ≠ 0 then (p, b :: bs) :: rest else (p, [b]) :: (q, bs) :: rest
    | [] => [(p, [b])]

/-- The bytes at a run's places. -/
def State.readPlaces (s : State) (ps : List Place) : List Byte :=
  (wordParts (ps.map fun p => (p, 0#8))).flatMap fun w => s.readAt w.1 w.2.length

/-- Writes bytes at a run's places, under the name that each is reached by (R288). -/
def State.writePlaces (s : State) (ps : List Place) (bs : List Byte) : State :=
  (wordParts (ps.zip bs)).foldl (fun s w => s.writeAs none (some w.1.name) w.1.host w.1.pa w.2) s

/-- The place of a byte of a scratchpad. -/
def padPlace (off : Nat) : Place := { host := false, pa := off, va := 0, asid := 0, part := 0 }

/-- An engine's write of bytes to places of the scratchpad: each part in an aligned 8-byte word whole (R140, R256). -/
def Group.padPut (g : Group) (bs : List (Nat × Byte)) : Group :=
  (wordParts (bs.map fun b => (padPlace b.1, b.2))).foldl (fun g w => g.padWrite w.1.pa w.2) g

/-- The same of bytes from an offset on. -/
def Group.padWords (g : Group) (off : Nat) (bs : List Byte) : Group := g.padPut (bs.mapIdx fun i b => (off + i, b))

/-- What a stopped run does: the context goes to ERROR, or a page request is made and its tag named (R279, R324). -/
def State.engineStop (s : State) (c : Ctx) (a : Access) (core : Nat) (w : Waiter) (stop : RunStop) : State × Option Nat :=
  match stop with
  | .range va => (s.ctxError c.part c.ctxid trapMemfault core 0 (BitVec.ofNat 64 va), none)
  | .bad => (s.ctxError c.part c.ctxid 0x22 core 0 0, none)
  | .fault va reason level =>
    let q := s.joinReq c va reason level (accessBits a true) core w
    (q.1, some q.2)

/-- An element of `bits` bits at column `c` of a row of bytes (R27). -/
def elemIn (m : Memory) (bits base c : Nat) : Nat :=
  if bits = 4 then bitsOf (memRead m (base + c / 2)).toNat (4 * (c % 2)) 4 else memNat m (base + c * (bits / 8)) (bits / 8)

/-- A byte with one of its two 4-bit codes replaced. -/
def nibbleIn (old : Byte) (c x : Nat) : Byte :=
  if c % 2 = 0 then BitVec.ofNat 8 (old.toNat / 16 * 16 + x % 16) else BitVec.ofNat 8 (old.toNat % 16 + x % 16 * 16)

/-- Replaces an element of a row of bytes. -/
def elemInto (m : Memory) (bits base c x : Nat) : Memory :=
  if bits = 4 then memWrite m (base + c / 2) (nibbleIn (memRead m (base + c / 2)) c x)
  else memWriteN m (base + c * (bits / 8)) (leBytes (bits / 8) x)

/-- The number of a core for engines that belong to none (R300). -/
def noCore : Nat := 0xFFFF

end Sys2Proof.Machine
end

