-- ==== Sys2Proof/Machine/Overlay.lean ====
section
/-!
DEFINITION. Overlays in the four slots of a core's instruction memory (R125, R126) and the OVL instructions (R127).
-/

namespace Sys2Proof.Machine

/-! ### Slots (R125) -/

/-- The overlay id of a code address (R103). -/
def ovlOf (pc : Word) : Nat := (pc.extractLsb' 16 8).toNat

/-- The slot holds an overlay. -/
def OvSlot.names (o : OvSlot) (asid handle ovl : Nat) : Bool := o.asid == asid && o.handle == handle && o.ovl == ovl

/-- The slot that holds an overlay or loads it, under a tag that no shootdown has invalidated (R308). -/
def Core.slotOf? (c : Core) (asid handle ovl : Nat) : Option OvSlot :=
  (c.slots.filterMap id).find? fun o => !o.stale && o.names asid handle ovl

/-- Code addresses that pin their overlay for a team: where it is, where an FCALL returns, where a trap returns (R125). -/
def Team.pins (t : Team) : List Word :=
  if t.finished then [] else t.pc :: (t.fcalls ++ (if t.trapInh then [t.trappc] else []))

/-- Overlays that a group pins on its core, as image and overlay id; until a resumed group starts, those among them whose OVLOAD
its pre-emption found in progress (R126). -/
def Group.pinned (g : Group) : List (Nat × Nat) :=
  (g.teams.flatMap fun t => t.pins.map fun a => ((g.forTeam t).image, ovlOf a)) ++
    if g.state == .starting then g.ovls.map fun o => (g.image, o) else []

/-- The slot is pinned: its load goes on, or a group on the core needs its overlay (R125). -/
def State.slotPinned (s : State) (core : Nat) (o : OvSlot) : Bool :=
  !o.loaded || s.groups.any fun g =>
    g.core == core && g.resident && g.pinned.contains (o.handle, o.ovl) &&
      (s.ctxOf g).any fun c => c.asid == o.asid

/-- A context with an address-space number has a group on the core. -/
def State.hasGroup (s : State) (core asid : Nat) : Bool :=
  s.groups.any fun g => g.core == core && g.resident && (s.ctxOf g).any fun c => c.asid == asid

/-- A slot that a load for a context may take over (R125). -/
def State.mayEvict (s : State) (core asid : Nat) (o : OvSlot) : Bool :=
  !s.slotPinned core o && (o.asid == asid || !s.hasGroup core o.asid)

/-- The numbers of the slots that may be taken over, with the step of their last use. -/
def State.victims (s : State) (core asid : Nat) (k : Core) : List (Nat × Nat) :=
  (List.range k.slots.length).filterMap fun i =>
    match k.slots.getD i none with
    | some o => if s.mayEvict core asid o then some (i, o.lastUse) else none
    | none => none

/-- The pair of least second component, the earlier on a tie. -/
def leastOf : List (Nat × Nat) → Option (Nat × Nat)
  | [] => none
  | a :: r =>
    match leastOf r with
    | some b => if a.2 ≤ b.2 then some a else some b
    | none => some a

/-- The slot chosen for a load: the lowest empty one, else the one least recently issued from among those that may be taken
over (R125). -/
def State.chooseSlot (s : State) (core asid : Nat) : Option Nat :=
  match s.core? core with
  | none => none
  | some k =>
    match k.slots.findIdx? fun o => o.isNone with
    | some i => some i
    | none => (leastOf (s.victims core asid k)).map (·.1)

/-- The words of an overlay of a loaded image. -/
def Ctx.overlay? (c : Ctx) (handle ovl : Nat) : Option Overlay :=
  (c.images.find? fun i => i.handle == handle).bind fun i => i.overlays.find? fun o => o.id == ovl

/-- A slot with a load in progress. -/
def loadingSlot (c : Ctx) (handle ovl : Nat) (owner : Option Nat) : OvSlot :=
  { asid := c.asid, handle := handle, ovl := ovl, words := ((c.overlay? handle ovl).map fun o => o.words).getD [],
    loaded := false, lastUse := 0, owner := owner }

/-- Starts a load into a slot. -/
def State.startLoad (s : State) (core slot : Nat) (o : OvSlot) : State :=
  s.modCore core fun k => { k with slots := setAt k.slots slot (some o) }

/-- Makes an overlay resident or loading on a core; none where no slot can be chosen. -/
def State.needOverlay (s : State) (c : Ctx) (core handle ovl : Nat) : Option State :=
  match (s.core? core).bind fun k => k.slotOf? c.asid handle ovl with
  | some _ => some s
  | none => (s.chooseSlot core c.asid).map fun i => s.startLoad core i (loadingSlot c handle ovl none)

/-- Makes every listed overlay resident or loading. -/
def State.needOverlays (c : Ctx) (core : Nat) : List (Nat × Nat) → State → Option State
  | [], s => some s
  | o :: r, s => (s.needOverlay c core o.1 o.2).bind (State.needOverlays c core r)

/-- The virtual addresses that the code read of a slot's overlay translates: where its words begin, and each page after that
(log entry 51). -/
def OvSlot.codeReads (o : OvSlot) : List Nat :=
  let a := Config.overlayVa o.asid o.handle o.ovl % 2 ^ 51
  a :: (List.range ((a + 4 * o.words.length - 1) / 65536 - a / 65536)).map fun i => (a / 65536 + 1 + i) * 65536 % 2 ^ 51

/-- The code read of a load (R293, R295): each page needs V and X, and a fault is a page request with ACCESS code, on which the
load waits (R300). The state, and whether every page could be read. -/
def State.readCode (s : State) (c : Ctx) (core slot : Nat) : List Nat → State × Bool
  | [] => (s, true)
  | va :: r =>
    match s.xlate c .code va with
    | (.ok _ _ _, s) => s.readCode c core slot r
    | (.fault reason level, s) => ((s.joinReq c va reason level (accessBits .code false) core (.load core slot)).1, false)
    | (.expand _, s) => ((s.joinReq c va 0 0 (accessBits .code false) core (.load core slot)).1, false)
    | (.bad, s) => (s.ctxError c.part c.ctxid 0x22 core 0 0, false)

/-- The load of a slot waits on a page request. -/
def State.loadWaits (s : State) (core slot : Nat) : Bool :=
  s.parts.any fun pt => pt.requests.any fun q => q.waiters.contains (.load core slot)

/-- OVERLAY_LOAD_DONE (R125, R293): the code is read, and the overlay is resident. A load of a context that is no more ends. -/
def execOverlayLoadDone (core slot : Nat) (s : State) : Host.Outcome State Fault Refusal :=
  match (s.core? core).bind fun k => k.slots.getD slot none with
  | none => .next s
  | some o =>
    if o.loaded || s.loadWaits core slot then .next s
    else
      match s.ctxs.find? fun c => c.asid == o.asid && c.state != .killed && c.state != .error with
      | none => .next (s.modCore core fun k => { k with slots := setAt k.slots slot none }).moved
      | some c =>
        let p := s.readCode c core slot o.codeReads
        if p.2 then
          .next (p.1.modCore core fun k => { k with slots := modAt k.slots slot fun o => o.map fun o => { o with loaded := true } }).moved
        else .next p.1.moved

/-! ### OVLOAD, OVWAIT, FCALL (R127) -/

/-- An overlay of the issuing kernel (R127). -/
def State.ownOverlay (s : State) (g : Group) (id : Nat) : Bool :=
  ((s.ctxOf g).bind fun c => c.overlay? g.image id).any fun o => o.kidx == g.kidx

/-- The slot of the group's core that holds or loads one of its overlays. -/
def State.slotFor (s : State) (g : Group) (id : Nat) : Option OvSlot :=
  match s.ctxOf g, s.core? g.core with
  | some c, some k => k.slotOf? c.asid g.image id
  | _, _ => none

/-- A status in an s register. -/
def Iss.status (x : Iss) (s : State) (d : RegField) (st : Nat) : Act := .ok (s.modTeam x.r fun t => t.putS d (BitVec.ofNat 32 st))

/-- OVLOAD (R127). -/
def execOvload (d : RegField) (i : BitVec 8) (s : State) : Host.Outcome State Fault Refusal :=
  issue (.ovload d i) s fun x =>
    if !x.s.ownOverlay x.g i.toNat then x.status x.s d 3
    else
      match x.s.slotFor x.g i.toNat with
      | some o => x.status x.s d (if o.loaded then 0 else 1)
      | none =>
        if x.t.idle then x.status x.s d 4
        else
          match x.s.ctxOf x.g with
          | none => .done x.s
          | some c =>
            match x.s.chooseSlot x.g.core c.asid with
            | some n => x.status (x.s.startLoad x.g.core n (loadingSlot c x.g.image i.toNat (some x.g.uid))) d 1
            | none => x.status x.s d 2

/-- OVWAIT (R127). -/
def execOvwait (d : RegField) (i : BitVec 8) (s : State) : Host.Outcome State Fault Refusal :=
  issue (.ovwait d i) s fun x =>
    if !x.s.ownOverlay x.g i.toNat then x.status x.s d 3
    else
      match x.s.slotFor x.g i.toNat with
      | some o => if o.loaded then x.status x.s d 0 else .hold x.s
      | none => x.status x.s d 4

/-- FCALL (R127): OVERLAY where the target's overlay is not resident, else a call. -/
def execFcall (e : BitVec 8) (s : State) : Host.Outcome State Fault Refusal :=
  issue (.fcall e) s fun x =>
    let target := ((x.s.kernelOf x.g).map fun k => k.entries.getD e.toNat 0).getD 0
    if (x.s.codeWord x.g target).isSome then x.outsideLoop (x.call target true) else .trap trapOverlay (target.zeroExtend 64)

end Sys2Proof.Machine
end

