-- ==== Sys2Proof/Machine/Start.lean ====
section
/-!
DEFINITION. A team as it stands before its group starts (R115, R158), and a machine in which one instruction word stands
where the next step fetches (log entry 18).
-/

namespace Sys2Proof.Machine

/-- A lane of a new team: registers and predicates 0, its counter 0 (R115). -/
def laneReset (role : Role) (nvreg : Nat) : Lane :=
  match role with
  | .access => { exited := false, cnt := 0, pred := 0, v := [], a := List.replicate 64 0 }
  | _ => { exited := false, cnt := 0, pred := 0, v := List.replicate nvreg 0, a := [] }

/-- No demotion (R172). -/
def demotionReset : Demotion := { dif := none, dk := 0, dpc := 0, dend := none, dskip := none, dksave := 0 }

/-- A team with every register at the value of R115 that needs no launch. -/
def teamReset (tid : Nat) (role : Role) (lanes nvreg : Nat) (entry : Word) : Team :=
  { tid := tid, role := role, nvreg := nvreg, age := 0, started := false, finished := false, part := 0,
    lanes := List.replicate lanes (laneReset role nvreg), sregs := List.replicate 32 0, pc := entry, lc := [0, 0, 0],
    slim := 0, sbase := 0, sp := 0, stackLow := 0, stack := [], trapvec := 0, trapInh := false, trapCause := 0,
    trapva := 0, trappc := 0, trapmask := 0, astat := 0, rmode := 0, wth := List.replicate 6 0, dropseed := 0,
    dropp := 0, dropscl := 0, stallfix := 0, lodcnt := 0, srcnt := 0, demo := demotionReset, loops := [], stalls := [],
    lastIssue := 0, readyAt := [], hints := [], pend := [], swPark := false, replay := [], parked := false, sbuf := [],
    hold := .none, heldAt := none, queueHeld := false, lodHeld := false, yielded := false, fuse := 0, seqNo := 0,
    acqAt := 0, seen := [], padAt := 0, padSeen := [], arrival := .none, cb := 0, batches := [], rstatus := 0, fcalls := [],
    censuses := [], responder := none }

/-- A group of given teams, with nothing in its scratchpad and no queue, tile or card. -/
def groupReset (uid part ctxid lid gid core image kidx : Nat) (teams : List Team) : Group :=
  { uid := uid, part := part, ctxid := ctxid, lid := lid, gid := gid, core := core, state := .starting, image := image,
    kidx := kidx, teams := teams, padSize := 0, pad := [], past := [], vers := 0, regGran := 0, l1Gran := 0, stackSz := 0,
    handles := List.replicate 16 none, queues := [], objs := List.replicate 32 { phase := 0, exp := 0, arr := 0 },
    barPhase := 0, carving := false, codebooks := List.replicate 8 (List.replicate 16 0), descs := List.replicate 16 none,
    decErr := false, cards := [], nextTask := 0, tstat := 0, lidFmts := List.replicate 16 none, qMark := 0,
    ringNode := none, ovls := [], savedEngines := [], savedKeys := [] }

/-- A context that runs, with one image (R89 to R94, R397, R401, R413). -/
def ctxReset (part ctxid gen asid prio : Nat) : Ctx :=
  { part := part, ctxid := ctxid, gen := gen, asid := asid, prio := prio, ptroot := 0, savepa := 0, savesz := 0, floor := 0,
    trapmask := 0, wdog := 0, native := false, nodrowsy := false, state := .idle, images := [], nextHandle := 1,
    graph := none, graphWait := [],
    slots := List.replicate 256 { expert := 0, valid := false, loading := false, use := false, ref := 0 }, hand := 0,
    active := none, staged := none, tabver := 0,
    peers := List.replicate 256 { valid := false, port := 0, addr := 0, job := 0 }, nextCensus := 0, saveCause := 0,
    saveClk := 0, saveSeq := 0, nabort := 0 }

/-- The role in which a word is placed: the first in which its instruction is legal. -/
def placedRole (w : Word) (legal : Instr → Role → Bool) : Role :=
  match decodeWord w with
  | .ok i => if legal i .access then .access else if legal i .vector then .vector else .matrix
  | .error _ => .access

/-- The overlay slot of a core that holds one word. -/
def placedSlot (w : Word) : OvSlot :=
  { asid := 1, handle := 1, ovl := 0, words := [w], loaded := true, lastUse := 0, owner := none }

/-- One running context, group and team of four lanes, its code address at one word in core 0: the state with an
instruction where the next step fetches. -/
def State.placed (s : State) (role : Role) (w : Word) : State :=
  let t := { teamReset 0 role 4 96 0 with started := true }
  let g := { groupReset s.nextUid 0 0 0 0 0 1 0 [t] with state := .running, padSize := 4096 }
  let c := { ctxReset 0 0 1 1 0 with
    state := .running, nextHandle := 2,
    images := [{ handle := 1, kernels := [], overlays := [{ id := 0, kidx := 0, words := [w] }], data := [],
                 record := { imgMeas := [], outMeas := [], ruleVer := 0, imgVer := 0, kind := 0, novl := 1, dropHint := [] } }] }
  let s := s.modCore 0 fun k => { k with slots := setAt k.slots 0 (some (placedSlot w)) }
  { s with agenda := [], ctxs := [c], groups := [g], launches := [], nextUid := s.nextUid + 1 }

end Sys2Proof.Machine
end

