-- ==== Sys2Proof/Machine/Sfu.lean ====
section
/-!
DEFINITION. Correctly rounded special functions (R207, R208). Quotients and square roots are rounded from exact digits
with a sticky last place. The transcendental functions are enclosed between two fixed-point bounds, at 96, 192, 384, 768
and then 1536 bits, until both ends round alike; a value that is not exactly representable is never on a rounding
boundary, so an enclosure that is narrow enough decides (R208).
-/

namespace Sys2Proof.Machine

/-! ### Quotient and square root -/

/-- The exact quotient m / n × 2^e of positive numbers with a sticky last bit, as (significand, exponent). -/
def divSticky (m n : Nat) (e : Int) : Nat × Int :=
  let k : Nat := 300 + Nat.log2 n
  let num := m * 2 ^ k
  let q := num / n
  (2 * q + (if num % n == 0 then 0 else 1), e - k - 1)

/-- √(m × 2^e) with a sticky last bit. -/
def sqrtSticky (m : Nat) (e : Int) : Nat × Int :=
  let k : Nat := 400 + (if (e - 400) % 2 == 0 then 0 else 1)
  let num := m * 2 ^ k
  let q := Nat.sqrt num
  (2 * q + (if q * q == num then 0 else 1), (e - k) / 2 - 1)

/-! ### Fixed-point enclosures: an integer x stands for x / 2^p -/

/-- Rounds a dyadic number to the fixed point below it. -/
def toFix (p : Nat) (m : Int) (e : Int) : Int :=
  if 0 ≤ e + p then m * (2 ^ (e + p).toNat : Nat) else m / (2 ^ (-(e + p)).toNat : Nat)

/-- Product of two fixed-point numbers, rounded down. -/
def mulFix (p : Nat) (x y : Int) : Int := x * y / (2 ^ p : Nat)

/-- Sum of a series with `fuel` terms: term k + 1 is term k × x / 2^p × num k / den k. -/
def series (p : Nat) (x : Int) (num den : Nat → Int) : Nat → Nat → Int → Int → Int
  | 0, _, _, acc => acc
  | fuel + 1, k, term, acc =>
    series p x num den fuel (k + 1) (mulFix p term x * num k / den k) (acc + term)

/-- Exp of a fixed-point number of magnitude below 2, by its Taylor series. -/
def expFix (p : Nat) (x : Int) : Int := series p x (fun _ => 1) (fun k => (k : Int) + 1) p 0 (2 ^ p : Nat) 0

/-- Inverse hyperbolic tangent of num / den, at most 1/3, summed as odd powers. -/
def atanhFix (p : Nat) (num den : Int) : Int :=
  let z := num * (2 ^ p : Nat) / den
  let z2 := mulFix p z z
  let rec go : Nat → Nat → Int → Int → Int
    | 0, _, _, acc => acc
    | fuel + 1, k, pow, acc => go fuel (k + 1) (mulFix p pow z2) (acc + pow / ((2 * k + 1 : Nat) : Int))
  go p 0 z 0

/-- ln 2 = 2 atanh(1/3). -/
def ln2Fix (p : Nat) : Int := 2 * atanhFix p 1 3

/-- Inverse tangent of 1 / n. -/
def atanInvFix (p : Nat) (n : Nat) : Int :=
  let z : Int := (2 ^ p : Nat) / (n : Int)
  let rec go : Nat → Nat → Int → Int → Int
    | 0, _, _, acc => acc
    | fuel + 1, k, pow, acc =>
      let t := pow / ((2 * k + 1 : Nat) : Int)
      go fuel (k + 1) (pow / ((n * n : Nat) : Int)) (if k % 2 == 0 then acc + t else acc - t)
  go p 0 z 0

/-- π by Machin's formula. -/
def piFix (p : Nat) : Int := 16 * atanInvFix p 5 - 4 * atanInvFix p 239

/-- e^x for a fixed-point x, as a fixed-point mantissa below 4 and an exponent of two. -/
def expScaled (p : Nat) (x : Int) : Int × Int :=
  let l := ln2Fix p
  let k := x / l
  (expFix p (x - k * l), k)

/-- sin of a fixed-point number of magnitude below 1. -/
def sinFix (p : Nat) (x : Int) : Int :=
  series p (mulFix p x x) (fun _ => -1) (fun k => ((2 * k + 2) * (2 * k + 3) : Nat)) p 0 x 0

/-- cos of a fixed-point number of magnitude below 1. -/
def cosFix (p : Nat) (x : Int) : Int :=
  series p (mulFix p x x) (fun _ => -1) (fun k => ((2 * k + 1) * (2 * k + 2) : Nat)) p 0 (2 ^ p : Nat) 0

/-- An approximation: value a × 2^e, in error by at most 2^(e + err). -/
structure Approx where
  a   : Int
  e   : Int
  err : Nat
  deriving DecidableEq, Repr

/-- The bound on the accumulated error of a series of at most p + 1 terms, in units of the last place: far above it. -/
def slack (p : Nat) : Nat := Nat.log2 p + 24

/-- 2^x for x = ±m × 2^e, |x| < 256. -/
def exp2Approx (p : Nat) (neg : Bool) (m : Nat) (e : Int) : Approx :=
  let x := toFix p (if neg then -(m : Int) else m) e
  let k := x / (2 ^ p : Nat)
  ⟨expFix p (mulFix p (x - k * (2 ^ p : Nat)) (ln2Fix p)), k - p, slack p⟩

/-- log2 of m × 2^e. -/
def log2Approx (p : Nat) (m : Nat) (e : Int) : Approx :=
  let k := Nat.log2 m
  let one : Int := (2 ^ k : Nat)
  let ln := 2 * atanhFix p ((m : Int) - one) ((m : Int) + one)
  ⟨((k : Int) + e) * (2 ^ p : Nat) + ln * (2 ^ p : Nat) / ln2Fix p, -(p : Int), slack p⟩

/-- sin or cos of ±m × 2^e, with the argument reduced by multiples of π/2. -/
def trigApprox (p : Nat) (cosine neg : Bool) (m : Nat) (e : Int) : Approx :=
  let w := p + 160
  let x := toFix w (if neg then -(m : Int) else m) e
  let half := piFix (w + 160) / (2 ^ 161 : Nat)
  let q := (2 * x + half) / (2 * half)
  -- the error of q multiples of the truncated π/2 stays below 2^(-p)
  let r := toFix p (x * (2 ^ 160 : Nat) - q * (piFix (w + 160) / 2)) (-((w + 160 : Nat) : Int))
  let quad := (q + (if cosine then 1 else 0)) % 4
  let v := if quad % 2 == 0 then sinFix p r else cosFix p r
  ⟨if quad < 2 then v else -v, -(p : Int), slack p⟩

/-- tanh of m × 2^e < 64, as (e^2x − 1) / (e^2x + 1). -/
def tanhApprox (p : Nat) (m : Nat) (e : Int) : Approx :=
  let w := p + 256
  let (a, k) := expScaled w (2 * toFix w m e)
  let ex := a * (2 ^ k.toNat : Nat)
  let one : Int := (2 ^ w : Nat)
  ⟨(ex - one) * (2 ^ p : Nat) / (ex + one), -(p : Int), slack p⟩

/-- erf of m × 2^e < 6, by its Taylor series at a working precision above its largest term. -/
def erfApprox (p : Nat) (m : Nat) (e : Int) : Approx :=
  let w := p + 128
  let x := toFix w m e
  let x2 := mulFix w x x
  let rec go : Nat → Nat → Int → Int → Int
    | 0, _, _, acc => acc
    | fuel + 1, n, term, acc =>
      go fuel (n + 1) (-(mulFix w term x2) / ((n + 1 : Nat) : Int)) (acc + term / ((2 * n + 1 : Nat) : Int))
  let sum := go (w + 200) 0 x 0
  let rootPi : Int := (Nat.sqrt ((piFix w).toNat * 2 ^ w) : Nat)
  ⟨toFix p (2 * sum * (2 ^ w : Nat) / rootPi) (-(w : Int)), -(p : Int), slack p⟩

/-- 1 / (1 + e^(−x)) for x = ±m × 2^e, |x| < 256: the logistic function. -/
def sigmoidApprox (p : Nat) (neg : Bool) (m : Nat) (e : Int) : Approx :=
  let w := p + 512
  let (a, k) := expScaled w (toFix w (if neg then -(m : Int) else m) e)
  let one : Int := (2 ^ w : Nat)
  let ex := if 0 ≤ k then a * (2 ^ k.toNat : Nat) else a / (2 ^ (-k).toNat : Nat)
  -- small results keep p bits of relative precision through the exponent
  let sh := if k < 0 then (-k).toNat else 0
  ⟨ex * (2 ^ (p + sh) : Nat) / (ex + one), -((p + sh : Nat) : Int), slack p⟩

/-- Rounds a value known to lie strictly inside an enclosure and to be no dyadic number; none while its ends round apart. -/
def roundApprox (f : Fmt) (r : Rounding) (x : Approx) : Option (Nat × Flags) :=
  let lo := 4 * (x.a - (2 ^ x.err : Nat)) + 1
  let hi := 4 * (x.a + (2 ^ x.err : Nat)) + 1
  if 0 < lo || hi < 0 then
    let a := roundTo f r (decide (lo < 0)) lo.natAbs (x.e - 2)
    let b := roundTo f r (decide (lo < 0)) hi.natAbs (x.e - 2)
    if a == b then some a else none
  else none

/-- Tries the precisions in turn; the last bound is taken as it stands if none decides. -/
def roundBy (f : Fmt) (r : Rounding) (approx : Nat → Approx) : List Nat → Nat × Flags
  | [] =>
    let x := approx 1536
    roundTo f r (decide (x.a < 0)) (4 * x.a.natAbs + 1) (x.e - 2)
  | p :: ps =>
    match roundApprox f r (approx p) with
    | some v => v
    | none => roundBy f r approx ps

/-- The precisions tried. -/
def sfuPrecisions : List Nat := [96, 192, 384, 768, 1536]

/-- A value just below ±m × 2^e in magnitude, by less than 2^(-96) of it: rounded like any value so near. -/
def justBelow (f : Fmt) (r : Rounding) (neg : Bool) (m : Nat) (e : Int) : Nat × Flags :=
  roundTo f r neg (m * 2 ^ 100 - 1) (e - 100)

/-- A value just above ±m × 2^e in magnitude. -/
def justAbove (f : Fmt) (r : Rounding) (neg : Bool) (m : Nat) (e : Int) : Nat × Flags :=
  roundTo f r neg (m * 2 ^ 100 + 1) (e - 100)

/-! ### The functions of R207 on FP32 patterns -/

/-- The special functions. -/
inductive SfuOp where
  | rcp | rsq | sqrt | exp2 | log2 | sin | cos | tanh | erf
  deriving DecidableEq, Repr

/-- 2^x on a finite non-zero operand (R208). -/
def exp2Round (f : Fmt) (r : Rounding) (neg : Bool) (m : Nat) (e : Int) : Nat × Flags :=
  let top := (Nat.log2 m : Int) + e
  if 8 ≤ top then
    -- |x| ≥ 256: far past overflow, or far below every subnormal
    if neg then justAbove f r false 1 (-250) else justAbove f r false 1 250
  else if m % 2 ^ (-e).toNat == 0 then
    let k := toFix 0 (if neg then -(m : Int) else m) e
    roundTo f r false 1 k
  else if top < -110 then (if neg then justBelow f r false 1 0 else justAbove f r false 1 0)
  else roundBy f r (fun p => exp2Approx p neg m e) sfuPrecisions

/-- f(x) of R208 on a finite non-zero operand inside the function's domain. -/
def sfuFinite (f : Fmt) (op : SfuOp) (r : Rounding) (neg : Bool) (m : Nat) (e : Int) : Nat × Flags :=
  let top := (Nat.log2 m : Int) + e
  match op with
  | .rcp => let (a, k) := divSticky 1 m (-e); roundTo f r neg a k
  | .sqrt => let (a, k) := sqrtSticky m e; roundTo f r neg a k
  | .rsq =>
    -- 1/√x = √(1/x): the quotient m' of R208 is exact enough that its root keeps the sticky bit
    let s := (e % 2).toNat
    let m' := m * 2 ^ s
    let k : Nat := 600
    let num := 2 ^ (2 * k)
    let q := Nat.sqrt (num / m')
    let exact := q * q * m' == num
    roundTo f r neg (2 * q + (if exact then 0 else 1)) (-(k : Int) - (e - s) / 2 - 1)
  | .exp2 => exp2Round f r neg m e
  | .log2 =>
    if m == 2 ^ Nat.log2 m then
      let k := (Nat.log2 m : Int) + e
      roundTo f r (decide (k < 0)) k.natAbs 0
    else roundBy f r (fun p => log2Approx p m e) sfuPrecisions
  | .sin =>
    if top < -60 then justBelow f r neg m e
    else roundBy f r (fun p => trigApprox p false neg m e) sfuPrecisions
  | .cos =>
    if top < -60 then justBelow f r false 1 0
    else roundBy f r (fun p => trigApprox p true neg m e) sfuPrecisions
  | .tanh =>
    if top < -60 then justBelow f r neg m e
    else if 5 ≤ top then justBelow f r neg 1 0
    else roundBy f r (fun p => let x := tanhApprox p m e; { x with a := if neg then -x.a else x.a }) sfuPrecisions
  | .erf =>
    if 3 ≤ top then justBelow f r neg 1 0
    else roundBy f r (fun p => let x := erfApprox (p + 160) m e; { x with a := if neg then -x.a else x.a }) sfuPrecisions

/-- An SFU instruction on an FP32 pattern (R208). -/
def sfuBits (op : SfuOp) (r : Rounding) (a : Nat) : Nat × Flags :=
  let x := unpackFloat .fp32 a
  match nanRule .fp32 [x] with
  | some v => v
  | none =>
    match x with
    | .inf neg =>
      match op with
      | .rcp => (signBit .fp32 neg, 0#6)
      | .rsq => if neg then invalidResult .fp32 else (0, 0#6)
      | .sqrt => if neg then invalidResult .fp32 else (a, 0#6)
      | .log2 => if neg then invalidResult .fp32 else (a, 0#6)
      | .exp2 => (if neg then 0 else a, 0#6)
      | .sin => invalidResult .fp32
      | .cos => invalidResult .fp32
      | .tanh => (signBit .fp32 neg + 0x3F800000, 0#6)
      | .erf => (signBit .fp32 neg + 0x3F800000, 0#6)
    | .fin neg m e =>
      if m == 0 then
        match op with
        | .rcp => (packInf .fp32 neg, 0#6)
        | .rsq => (packInf .fp32 neg, 0#6)
        | .sqrt => (a, 0#6)
        | .log2 => (packInf .fp32 true, 0#6)
        | .exp2 => (0x3F800000, 0#6)
        | .sin => (a, 0#6)
        | .cos => (0x3F800000, 0#6)
        | .tanh => (a, 0#6)
        | .erf => (a, 0#6)
      else if neg && (op == .rsq || op == .sqrt || op == .log2) then invalidResult .fp32
      else sfuFinite .fp32 op r neg m e
    | .nan _ _ => invalidResult .fp32

end Sys2Proof.Machine
end

