-- ==== Sys2Proof/Machine/Fpu.lean ====
section
/-!
DEFINITION. The floating-point instructions of majors 0x09 to 0x0B (R191, R200 to R208).
-/

namespace Sys2Proof.Machine

/-- How one result of a lane is rounded (R191): the team's mode, with the draw of the lane's coordinates under SR. -/
def Iss.rounding (x : Iss) (sat : Bool) (lane half : Nat) : Rounding :=
  { mode := x.t.mode, sat := sat,
    rnd := if x.t.mode = .sr then
        grainDraw (BitVec.ofNat 32 (x.g.gid % 65536 * 65536 + x.t.teamId * 1024 + lane))
          (BitVec.ofNat 32 (x.t.srcnt.toNat * 2 + half)) x.t.dropseed
      else 0 }

/-- A result pattern and flags as a register result. -/
def patWord (p : Nat × Flags) : Word × Flags := (BitVec.ofNat 32 p.1, p.2)

/-- A predicate per lane, with flags. -/
def Iss.predFlags (x : Iss) (p : BitVec 3) (f : Nat → Bool × Flags) : Act :=
  x.okTeam ((x.t.writePred p.toNat fun l => (f l).1).orFlags (orAll (x.t.run.map fun l => (f l).2)))

/-- FADD (R201). -/
def execFadd (d a b : RegField) (s : State) : Host.Outcome State Fault Refusal :=
  issue (.fadd d a b) s fun x => x.lane32 d fun l => patWord (addBits .fp32 (x.rounding false l 0) false (x.t.reg32 a l).toNat (x.t.reg32 b l).toNat)

/-- FSUB (R201). -/
def execFsub (d a b : RegField) (s : State) : Host.Outcome State Fault Refusal :=
  issue (.fsub d a b) s fun x => x.lane32 d fun l => patWord (addBits .fp32 (x.rounding false l 0) true (x.t.reg32 a l).toNat (x.t.reg32 b l).toNat)

/-- FMUL (R201). -/
def execFmul (d a b : RegField) (s : State) : Host.Outcome State Fault Refusal :=
  issue (.fmul d a b) s fun x => x.lane32 d fun l => patWord (mulBits .fp32 (x.rounding false l 0) (x.t.reg32 a l).toNat (x.t.reg32 b l).toNat)

/-- FFMA (R201). -/
def execFfma (d a b : RegField) (s : State) : Host.Outcome State Fault Refusal :=
  issue (.ffma d a b) s fun x => x.lane32 d fun l => patWord (fmaBits .fp32 (x.rounding false l 0) (x.t.reg32 a l).toNat (x.t.reg32 b l).toNat (x.t.reg32 d l).toNat)

/-- FMIN (R202). -/
def execFmin (d a b : RegField) (s : State) : Host.Outcome State Fault Refusal :=
  issue (.fmin d a b) s fun x => x.lane32 d fun l => patWord (minMaxBits .fp32 false (x.t.reg32 a l).toNat (x.t.reg32 b l).toNat)

/-- FMAX (R202). -/
def execFmax (d a b : RegField) (s : State) : Host.Outcome State Fault Refusal :=
  issue (.fmax d a b) s fun x => x.lane32 d fun l => patWord (minMaxBits .fp32 true (x.t.reg32 a l).toNat (x.t.reg32 b l).toNat)

/-- FMINT (R202). -/
def execFmint (d a b : RegField) (s : State) : Host.Outcome State Fault Refusal :=
  issue (.fmint d a b) s fun x => x.lane d fun l => minKey (x.t.reg32 a l) (x.t.reg32 b l)

/-- FMAXT (R202). -/
def execFmaxt (d a b : RegField) (s : State) : Host.Outcome State Fault Refusal :=
  issue (.fmaxt d a b) s fun x => x.lane d fun l => maxKey (x.t.reg32 a l) (x.t.reg32 b l)

/-- FABS (R202). -/
def execFabs (d a : RegField) (s : State) : Host.Outcome State Fault Refusal :=
  issue (.fabs d a) s fun x => x.lane d fun l => x.t.reg32 a l &&& 0x7FFFFFFF#32

/-- FNEG (R202). -/
def execFneg (d a : RegField) (s : State) : Host.Outcome State Fault Refusal :=
  issue (.fneg d a) s fun x => x.lane d fun l => x.t.reg32 a l ^^^ 0x80000000#32

/-- FCMP (R203). -/
def execFcmp (c : BitVec 4) (p : BitVec 3) (a b : RegField) (s : State) : Host.Outcome State Fault Refusal :=
  issue (.fcmp c p a b) s fun x => x.predFlags p fun l => fcmpBits c.toNat (x.t.reg32 a l).toNat (x.t.reg32 b l).toNat

/-- FCLASS (R204). -/
def execFclass (d a : RegField) (s : State) : Host.Outcome State Fault Refusal :=
  issue (.fclass d a) s fun x => x.lane d fun l => BitVec.ofNat 32 (classBits (x.t.reg32 a l).toNat)

/-- FSCALE (R201). -/
def execFscale (d a b : RegField) (s : State) : Host.Outcome State Fault Refusal :=
  issue (.fscale d a b) s fun x => x.lane32 d fun l => patWord (scaleBits (x.rounding false l 0) (x.t.reg32 a l).toNat (x.t.reg32 b l).toInt)

/-- FSEL (R202). -/
def execFsel (d a p : RegField) (s : State) : Host.Outcome State Fault Refusal :=
  issue (.fsel d a p) s fun x => x.lane d fun l => if x.t.pred p.toNat l then x.t.reg32 a l else x.t.reg32 d l

/-! ### Packed halves (R205, R206) -/

/-- The format of FN[3] (R205). -/
def pkFmt (f : BitVec 1) : Fmt := if f = 0 then .bf16 else .fp16

/-- Half `h` of a register. -/
def half (w : Word) (h : Nat) : Nat := bitsOf w.toNat (16 * h) 16

/-- Applies an operation to both halves, each rounded with its own draw, and ORs their flags (R206). -/
def Iss.halves (x : Iss) (d : RegField) (op : Rounding → Nat → Nat → Nat × Flags) : Act :=
  x.lane32 d fun l =>
    let lo := op (x.rounding false l 0) l 0
    let hi := op (x.rounding false l 1) l 1
    (BitVec.ofNat 32 (lo.1 % 65536 + hi.1 % 65536 * 65536), lo.2 ||| hi.2)

/-- HADD2 (R206). -/
def execHadd2 (d a b : RegField) (f : BitVec 1) (s : State) : Host.Outcome State Fault Refusal :=
  issue (.hadd2 d a b f) s fun x => x.halves d fun r l h => addBits (pkFmt f) r false (half (x.t.reg32 a l) h) (half (x.t.reg32 b l) h)

/-- HSUB2 (R206). -/
def execHsub2 (d a b : RegField) (f : BitVec 1) (s : State) : Host.Outcome State Fault Refusal :=
  issue (.hsub2 d a b f) s fun x => x.halves d fun r l h => addBits (pkFmt f) r true (half (x.t.reg32 a l) h) (half (x.t.reg32 b l) h)

/-- HMUL2 (R206). -/
def execHmul2 (d a b : RegField) (f : BitVec 1) (s : State) : Host.Outcome State Fault Refusal :=
  issue (.hmul2 d a b f) s fun x => x.halves d fun r l h => mulBits (pkFmt f) r (half (x.t.reg32 a l) h) (half (x.t.reg32 b l) h)

/-- HFMA2 (R206). -/
def execHfma2 (d a b : RegField) (f : BitVec 1) (s : State) : Host.Outcome State Fault Refusal :=
  issue (.hfma2 d a b f) s fun x => x.halves d fun r l h => fmaBits (pkFmt f) r (half (x.t.reg32 a l) h) (half (x.t.reg32 b l) h) (half (x.t.reg32 d l) h)

/-- HMAX2 (R206). -/
def execHmax2 (d a b : RegField) (f : BitVec 1) (s : State) : Host.Outcome State Fault Refusal :=
  issue (.hmax2 d a b f) s fun x => x.halves d fun _ l h => minMaxBits (pkFmt f) true (half (x.t.reg32 a l) h) (half (x.t.reg32 b l) h)

/-- HMIN2 (R206). -/
def execHmin2 (d a b : RegField) (f : BitVec 1) (s : State) : Host.Outcome State Fault Refusal :=
  issue (.hmin2 d a b f) s fun x => x.halves d fun _ l h => minMaxBits (pkFmt f) false (half (x.t.reg32 a l) h) (half (x.t.reg32 b l) h)

/-! ### Special functions (R207, R208) -/

/-- A 32-bit result of every running lane that returns later (R166). -/
def Iss.pend32 (x : Iss) (d : RegField) (f : Nat → Word × Flags) : Act :=
  let vals := x.t.run.map fun l => (l, x.t.ext32 (f l).1)
  x.okTeam (x.t.addPend [{ dst := d, vals := vals, flags := orAll (x.t.run.map fun l => (f l).2) }])

/-- RCP (R207, R208). -/
def execRcp (d a : RegField) (s : State) : Host.Outcome State Fault Refusal :=
  issue (.rcp d a) s fun x => x.pend32 d fun l => patWord (sfuBits .rcp (x.rounding false l 0) (x.t.reg32 a l).toNat)

/-- RSQ (R207, R208). -/
def execRsq (d a : RegField) (s : State) : Host.Outcome State Fault Refusal :=
  issue (.rsq d a) s fun x => x.pend32 d fun l => patWord (sfuBits .rsq (x.rounding false l 0) (x.t.reg32 a l).toNat)

/-- SQRT (R207, R208). -/
def execSqrtc (d a : RegField) (s : State) : Host.Outcome State Fault Refusal :=
  issue (.sqrtc d a) s fun x => x.pend32 d fun l => patWord (sfuBits .sqrt (x.rounding false l 0) (x.t.reg32 a l).toNat)

/-- EXP2 (R207, R208). -/
def execExp2c (d a : RegField) (s : State) : Host.Outcome State Fault Refusal :=
  issue (.exp2c d a) s fun x => x.pend32 d fun l => patWord (sfuBits .exp2 (x.rounding false l 0) (x.t.reg32 a l).toNat)

/-- LOG2 (R207, R208). -/
def execLog2c (d a : RegField) (s : State) : Host.Outcome State Fault Refusal :=
  issue (.log2c d a) s fun x => x.pend32 d fun l => patWord (sfuBits .log2 (x.rounding false l 0) (x.t.reg32 a l).toNat)

/-- SIN (R207, R208). -/
def execSinc (d a : RegField) (s : State) : Host.Outcome State Fault Refusal :=
  issue (.sinc d a) s fun x => x.pend32 d fun l => patWord (sfuBits .sin (x.rounding false l 0) (x.t.reg32 a l).toNat)

/-- COS (R207, R208). -/
def execCosc (d a : RegField) (s : State) : Host.Outcome State Fault Refusal :=
  issue (.cosc d a) s fun x => x.pend32 d fun l => patWord (sfuBits .cos (x.rounding false l 0) (x.t.reg32 a l).toNat)

/-- TANH (R207, R208). -/
def execTanhc (d a : RegField) (s : State) : Host.Outcome State Fault Refusal :=
  issue (.tanhc d a) s fun x => x.pend32 d fun l => patWord (sfuBits .tanh (x.rounding false l 0) (x.t.reg32 a l).toNat)

/-- ERF (R207, R208). -/
def execErfc (d a : RegField) (s : State) : Host.Outcome State Fault Refusal :=
  issue (.erfc d a) s fun x => x.pend32 d fun l => patWord (sfuBits .erf (x.rounding false l 0) (x.t.reg32 a l).toNat)

end Sys2Proof.Machine
end

