-- ==== Sys2Proof/Machine/Cvt.lean ====
section
/-!
DEFINITION. The conversions of major 0x0C (R209 to R217).
-/

namespace Sys2Proof.Machine

/-- A code of R66 as a format; a reserved code, which the issue checks reject, reads as implied. -/
def codeFmt (c : Nat) : Fmt := (fmtOfCode c).getD .implied

/-- A format CVT takes on both sides (R211). -/
def isCvtFmt (f : Fmt) : Bool := fmtIsFloat f || f == .int8 || f == .int32

/-- The pairs CVT allows (R211). -/
def cvtPairOk (fa fd : Fmt) : Bool :=
  fa != fd && ((isCvtFmt fa && isCvtFmt fd) || (fa == .fp32 && fd == .e8m0) || (fa == .e8m0 && fd == .fp32))

/-- How a result of a format stands in a register: an INT8 sign-extended, the others zero-extended (R210). -/
def placeResult (f : Fmt) (x : Nat) : Word := if f = .int8 then BitVec.ofInt 32 (signedOf 8 x) else BitVec.ofNat 32 x

/-- CVT (R211). -/
def execCvt (d a : RegField) (s : State) : Host.Outcome State Fault Refusal :=
  issue (.cvt d a) s fun x =>
    let q := x.t.fmtRec
    let fa := codeFmt q.fa
    let fd := codeFmt q.fd
    if !cvtPairOk fa fd then x.trapWord trapFormat
    else
      x.lane32 d fun l =>
        let p := convBits fa fd (x.rounding q.sat l 0) (x.t.reg32 a l).toNat
        (placeResult fd p.1, p.2)

/-- CVTSR (R212): the draw is the low half of vB. -/
def execCvtsr (d a b : RegField) (s : State) : Host.Outcome State Fault Refusal :=
  issue (.cvtsr d a b) s fun x =>
    let q := x.t.fmtRec
    let fa := codeFmt q.fa
    let fd := codeFmt q.fd
    if !(cvtPairOk fa fd && fmtIsFloat fa && fmtIsFloat fd) then x.trapWord trapFormat
    else
      x.lane32 d fun l =>
        patWord (convBits fa fd { mode := .sr, sat := q.sat, rnd := (x.t.reg32 b l).toNat % 65536 } (x.t.reg32 a l).toNat)

/-- The scaled value x × s of R37, a NaN by R26 where it is one; a scale of exactly 1.0 applies none. -/
def tileScaled (scale : Word) (x : FVal) : FVal :=
  if scale == 0x3F800000#32 then x
  else
    let s := unpackFloat .fp32 scale.toNat
    if isNaN x then x
    else if isNaN s then s
    else (mulVal x s).getD (.nan false 0x400000)

/-- QUANT's result for one block: the running lanes of the block with their values and roundings (R213). -/
def quantLanes (f : Fmt) (lanes : List (Nat × FVal × Rounding)) : List (Nat × Word) × Flags :=
  let q := quantBlock f (fun i => ((lanes[i]?).map (fun p => p.2.2)).getD rneRounding) (lanes.map (fun p => p.2.1))
  (lanes.mapIdx (fun i p => (p.1, BitVec.ofNat 32 (q.1 * 256 + q.2.1.getD i 0))), q.2.2)

/-- QUANT (R213). -/
def execQuant (d a b : RegField) (s : State) : Host.Outcome State Fault Refusal :=
  issue (.quant d a b) s fun x =>
    let q := x.t.fmtRec
    let fd := codeFmt q.fd
    if !(decide (q.fa ≤ 1) && (fd == .e5m2 || fd == .e4m3)) then x.trapWord trapFormat
    else
      let blocks := (List.range (ceilDiv x.t.lanes.length 32)).map fun j =>
        quantLanes fd ((x.t.run.filter fun l => l / 32 == j).map fun l =>
          (l, tileScaled (x.t.sreg b) (unpackFloat .fp32 (x.t.reg32 a l).toNat), x.rounding q.sat l 0))
      let vals := blocks.flatMap (·.1)
      x.okTeam ((x.t.write32 d fun l => ((vals.find? fun p => p.1 == l).map (·.2)).getD 0).orFlags
        (orAll (blocks.map (·.2))))

/-- DEQ of one lane (R214): code and element in the low 16 bits, the tile scale in s. -/
def deqLane (f : Fmt) (r : Rounding) (w scale : Word) : Nat × Flags :=
  let code := bitsOf w.toNat 8 8
  let v := unpackFloat f (bitsOf w.toNat 0 8)
  let s := unpackFloat .fp32 scale.toNat
  let snan := if isSNaN v || isSNaN s then flagNV else 0#6
  if code = 255 then (fmtNaN .fp32, snan)
  else
    match nanRule .fp32 [v, s] with
    | some n => n
    | none =>
      match mulVal (blockVal f code (bitsOf w.toNat 0 8)) s with
      | some p => roundVal .fp32 r p
      | none => invalidResult .fp32

/-- DEQ (R214). -/
def execDeq (d a b : RegField) (s : State) : Host.Outcome State Fault Refusal :=
  issue (.deq d a b) s fun x =>
    let q := x.t.fmtRec
    let fa := codeFmt q.fa
    if !((fa == .e5m2 || fa == .e4m3) && decide (q.fd ≤ 1)) then x.trapWord trapFormat
    else x.lane32 d fun l => patWord (deqLane fa (x.rounding false l 0) (x.t.reg32 a l) (x.t.sreg b))

/-- PACK (R215). -/
def execPack (d a b : RegField) (s : State) : Host.Outcome State Fault Refusal :=
  issue (.pack d a b) s fun x => x.lane d fun l => (x.t.reg32 b l).extractLsb' 0 16 ++ (x.t.reg32 a l).extractLsb' 0 16

/-- UNPACK's selectors (R215). -/
def unpackLane (k : Nat) (w : Word) : Word :=
  if k < 2 then BitVec.ofNat 32 (bitsOf w.toNat (16 * k) 16)
  else if k < 4 then BitVec.ofInt 32 (signedOf 16 (bitsOf w.toNat (16 * (k - 2)) 16))
  else if k < 8 then BitVec.ofNat 32 (bitsOf w.toNat (8 * (k - 4)) 8)
  else BitVec.ofInt 32 (signedOf 8 (bitsOf w.toNat (8 * (k - 8)) 8))

/-- UNPACK (R215). -/
def execUnpack (d a k : RegField) (s : State) : Host.Outcome State Fault Refusal :=
  issue (.unpack d a k) s fun x => x.lane d fun l => unpackLane k.toNat (x.t.reg32 a l)

/-- CBLD (R217): entries of lanes that do not run keep their values. Each entry is an ordinary store (R249, R262). -/
def execCbld (i a : RegField) (s : State) : Host.Outcome State Fault Refusal :=
  issue (.cbld i a) s fun x =>
    .ok (x.s.modGroup x.r.uid fun g =>
      let w := ((List.range 16).filter fun k => (x.t.lanes[k]?.map Lane.running).getD false).foldl (fun (w : Group) k =>
        let old : BitVec 16 := (w.codebooks.getD i.toNat []).getD k 0
        { w.notePast true (32 * i.toNat + 2 * k) (leBytes 2 old.toNat) with
          codebooks := modAt w.codebooks i.toNat fun book => book.set k ((x.t.reg32 a k).extractLsb' 0 16) }) g
      w.madeBy x.r g.vers)

/-- TOKEY (R216). -/
def execTokey (d a : RegField) (s : State) : Host.Outcome State Fault Refusal :=
  issue (.tokey d a) s fun x =>
    match x.t.fmtRec.fa with
    | 0 => x.lane d fun l => toKey (x.t.reg32 a l)
    | 1 => x.lane d fun l => toKey (x.t.reg32 a l)
    | 2 => x.lane d fun l => toKey (widen16 .bf16 (bitsOf (x.t.reg32 a l).toNat 0 16))
    | 3 => x.lane d fun l => toKey (widen16 .fp16 (bitsOf (x.t.reg32 a l).toNat 0 16))
    | _ => x.trapWord trapFormat

end Sys2Proof.Machine
end

