-- ==== Sys2Proof/Machine/TileMem.lean ====
section
/-!
DEFINITION. Tile loads, stores and atomics of the execute roles: majors 0x12 and 0x14 (R151 to R157).
-/

namespace Sys2Proof.Machine

/-! ### Indices (R152) -/

/-- One lane's element: its row and column, and its scratchpad offset where it has one. -/
structure ElemAt where
  lane : Nat
  row  : Nat
  col  : Nat
  base : Option Nat
  deriving DecidableEq, Repr

/-- The row and column of a lane: an element number, or a row with its column in the next register. -/
def indexOf (t : Team) (a : RegField) (pair : Bool) (cols lane : Nat) : Nat × Nat :=
  let v := (t.reg32 a lane).toNat
  if pair then (v, (t.reg32 (nextField a) lane).toNat) else (v / cols, v % cols)

/-- Every running lane's element (R152). -/
def elemsOf (t : Team) (h : Hdr) (a : RegField) (pair : Bool) : List ElemAt :=
  t.run.map fun l =>
    let p := indexOf t a pair h.cols l
    { lane := l, row := p.1, col := p.2,
      base := if h.isHaar then (h.lOff p.1).map (h.doff + ·) else some (h.doff + p.1 * h.rstride) }

/-- The scratchpad offset of an element. -/
def ElemAt.off (h : Hdr) (e : ElemAt) : Option Nat := e.base.map (· + e.col * h.bits / 8)

/-- Step 5 of R449 for an index: the lowest failing lane's element offset in TRAPVA. -/
def elemsCheck (g : Group) (h : Hdr) (rows : Nat) (stored : Bool) (es : List ElemAt) : Check :=
  let bad := fun (e : ElemAt) =>
    decide (rows ≤ e.row) || decide (h.cols ≤ e.col) ||
      (stored && ((e.off h).map fun o => decide (g.padSize < o + max 1 (h.bits / 8))).getD true)
  match es.find? bad with
  | none => none
  | some e => some (trapBounds, (e.off h).map (BitVec.ofNat 64))

/-! ### TLD, TLDR (R153, R340) -/

/-- The destination formats a tile's format allows. -/
def tldFmtOk (h : Hdr) (fd : Nat) : Bool :=
  match h.fmt with
  | some .int8 => fd == 0 || fd == 7
  | some .int32 => fd == 0 || fd == 7
  | some .b64 => false
  | some .implied => false
  | some _ => decide (fd ≤ 3)
  | none => false

/-- The value a lane receives for a raw element: a format as it is, a CB4 code through FP32 (R36). -/
def tldVal (g : Group) (h : Hdr) (fd : Nat) (raw : Nat) : Word × Flags :=
  match h.fmt with
  | some .int8 => (BitVec.ofInt 32 (signedOf 8 raw), 0#6)
  | some .int32 => (BitVec.ofNat 32 raw, 0#6)
  | some .cb4 =>
    let v := g.widen h raw
    let p := patWord (convBits .fp32 (if fd ≤ 1 then .fp32 else codeFmt fd) rneRounding v.1.toNat)
    (p.1, v.2 ||| p.2)
  | _ =>
    let e := g.elem h raw
    let dst := if fd ≤ 1 then .fp32 else codeFmt fd
    patWord (convBits e.1 dst rneRounding e.2)

/-- Steps 1 to 5 of a plain or reconstructing tile load. TRAPVA where a Haar tile's layout as a whole, not a lane's element, lies
beyond its data area or the scratchpad is the first byte past that area, or the scratchpad's end (DESIGN CHOICE, log entry 39:
R152 gives an element's offset alone). -/
def tldCheck (x : Iss) (n fd : Nat) (recon : Bool) (h : Hdr) (es : List ElemAt) : Check :=
  firstFail [handleCheck x.g x.t n, domCheck x.word h, failIf (h.malformed || !tldFmtOk h fd) trapFormat x.word,
    failIf (h.isHaar && !x.g.survOk h) trapDomain x.word, h.layoutCheck,
    failIf (h.isHaar && decide (x.g.padSize < h.doff + h.layoutLen)) trapBounds x.g.padEnd,
    elemsCheck x.g h (if recon then h.rows else h.storedRows) (!recon) es]

/-- A tile load: the values return later. -/
def Iss.tld (x : Iss) (d a : RegField) (n : Nat) (pair : Bool) : Act :=
  if x.t.idle then .ok x.s
  else
    let h := hdrAt x.g x.t n
    let fd := x.t.fmtRec.fd
    let recon := x.t.hasRec && h.isHaar
    let es := elemsOf x.t h a pair
    x.checked (tldCheck x n fd recon h es) <|
      let w := x.padView
      let vals : List (Nat × Word × Flags) := es.map fun e =>
        if recon then
          let v := w.1.recElem h e.row e.col
          let p := patWord (convBits .fp32 (if fd ≤ 1 then .fp32 else codeFmt fd) rneRounding v.1.toNat)
          (e.lane, p.1, v.2 ||| p.2)
        else
          let p := tldVal w.1 h fd (w.1.rawAt h (e.base.getD 0) e.col)
          (e.lane, p.1, p.2)
      let t : Team := { x.t with padSeen := w.2 ++ x.t.padSeen }
      x.okTeam (t.addPend [{
        dst := d, vals := vals.map (fun v => (v.1, x.t.ext32 v.2.1)), flags := orAll (vals.map fun v => v.2.2) }])

/-- TLD (R153). -/
def execTld (d a : RegField) (t : BitVec 4) (s : State) : Host.Outcome State Fault Refusal :=
  issue (.tld d a t) s fun x => x.tld d a t.toNat false

/-- TLDR (R153): row and column from two registers. -/
def execTldr (d a : RegField) (t : BitVec 4) (s : State) : Host.Outcome State Fault Refusal :=
  issue (.tldr d a t) s fun x => x.tld d a t.toNat true

/-! ### TST, TSTR (R154) -/

/-- The source format of a store into a tile; none where it does not fit. -/
def tstSource (h : Hdr) (fa : Nat) : Option Fmt :=
  match h.fmt with
  | some .int8 => if fa = 0 ∨ fa = 7 then some .int32 else none
  | some .int32 => if fa = 0 ∨ fa = 7 then some .int32 else none
  | some .cb4 => none
  | some .e8m0 => none
  | some .b64 => none
  | some .implied => none
  | some _ => if fa ≤ 1 then some .fp32 else if fa ≤ 3 then some (codeFmt fa) else none
  | none => none

/-- The pattern stored for a source value, with its flags. -/
def tstVal (h : Hdr) (src : Fmt) (sat : Bool) (w : Word) : Nat × Flags :=
  convBits src (h.fmt.getD .fp32) { mode := .rne, sat := sat, rnd := 0 } (w.toNat % 2 ^ fmtBits src)

/-- The checks of a tile store or tile atomic, whose tile must be SPATIAL. -/
def spatialCheck (x : Iss) (n : Nat) (fmtOk : Bool) (h : Hdr) (es : List ElemAt) : Check :=
  firstFail [handleCheck x.g x.t n, domCheck x.word h, failIf (h.malformed || !fmtOk) trapFormat x.word,
    failIf (h.dom != 0) trapDomain x.word, elemsCheck x.g h h.rows true es]

/-- A tile store, lane by lane (R154). -/
def Iss.tst (x : Iss) (d a : RegField) (n : Nat) (pair : Bool) : Act :=
  if x.t.idle then .ok x.s
  else
    let h := hdrAt x.g x.t n
    let src := tstSource h x.t.fmtRec.fa
    let es := elemsOf x.t h a pair
    x.checked (spatialCheck x n src.isSome h es) <|
      let puts := es.map fun e => (e, tstVal h (src.getD .fp32) x.t.fmtRec.sat (x.t.reg32 d e.lane))
      let s := x.s.modGroup x.r.uid fun g =>
        g.storePad (puts.foldl (fun g p => g.rawPut h (p.1.base.getD 0) p.1.col p.2.1) g) x.r
      .ok (s.modTeam x.r fun t => t.orFlags (orAll (puts.map fun p => p.2.2)))

/-- TST (R154). -/
def execTst (d a : RegField) (t : BitVec 4) (s : State) : Host.Outcome State Fault Refusal :=
  issue (.tst d a t) s fun x => x.tst d a t.toNat false

/-- TSTR (R154). -/
def execTstr (d a : RegField) (t : BitVec 4) (s : State) : Host.Outcome State Fault Refusal :=
  issue (.tstr d a t) s fun x => x.tst d a t.toNat true

/-! ### TBIND (R155) -/

/-- Gives a handle of the team's table a header offset: a responder's own table (R385), else the group's (R139). -/
def State.bindHandle (s : State) (r : TeamRef) (t : Team) (n : Nat) (h : Option Nat) : State :=
  match t.responder with
  | some i => s.modTeam r fun t => { t with responder := some { i with handles := i.handles.set n h } }
  | none => s.modGroup r.uid fun g => { g with handles := g.handles.set n h }

/-- TBIND (R155). -/
def execTbind (a : RegField) (t : BitVec 4) (s : State) : Host.Outcome State Fault Refusal :=
  issue (.tbind a t) s fun x =>
    if x.t.idle then .ok x.s
    else
      let off := (x.t.sreg a).toNat
      if off % 32 ≠ 0 ∨ x.g.padSize < off + 32 then .trap trapBounds (BitVec.ofNat 64 off)
      else .ok (x.s.bindHandle x.r x.t t.toNat (some off))

/-! ### Tile atomics (R156, R157) -/

/-- What one lane's update of a tile element is. -/
inductive TileOp where
  | arith (op : AtomOp) | maxpk | cast
  deriving DecidableEq, Repr

/-- The tile formats an operation allows (R156). -/
def tileOpFmtOk (op : TileOp) (h : Hdr) : Bool :=
  match op with
  | .arith .swap => h.fmt == some .int32 || h.fmt == some .fp32
  | .arith .fadd => h.fmt == some .fp32
  | .cast => h.fmt == some .int32 || h.fmt == some .fp32
  | _ => h.fmt == some .int32

/-- The elements of a tile atomic: for MAXPK the index names a slot of two elements (R156), whose low word is here. -/
def atomtElems (t : Team) (h : Hdr) (op : TileOp) (a : RegField) : List ElemAt :=
  match op with
  | .maxpk => t.run.map fun l =>
      let e := 2 * (t.reg32 a l).toNat
      { lane := l, row := e / h.cols, col := e % h.cols, base := some (h.doff + e / h.cols * h.rstride) }
  | _ => elemsOf t h a false

/-- The element after one, in row-major order: the high word of a slot. -/
def ElemAt.succ (h : Hdr) (e : ElemAt) : ElemAt :=
  let k := e.row * h.cols + e.col + 1
  { lane := e.lane, row := k / h.cols, col := k % h.cols, base := some (h.doff + k / h.cols * h.rstride) }

/-- Step 5 for a tile atomic: both words of a MAXPK slot lie within, and the slot's low word names it in TRAPVA. -/
def atomtCheck (g : Group) (h : Hdr) (op : TileOp) (es : List ElemAt) : Check :=
  match op with
  | .maxpk =>
    match es.find? fun e => (elemsCheck g h h.rows true [e, e.succ h]).isSome with
    | none => none
    | some e => some (trapBounds, (e.off h).map (BitVec.ofNat 64))
  | _ => elemsCheck g h h.rows true es

/-- What tile atomics have come to: the group, old values, flags, a failed CAST. -/
structure TileAtoms where
  g     : Group
  olds  : List (Nat × Nat)
  flags : Flags
  fail  : Bool
  deriving DecidableEq, Repr

/-- One lane's indivisible update (R157). -/
def tileAtomLane (t : Team) (h : Hdr) (op : TileOp) (d : RegField) (q : TileAtoms) (e : ElemAt) : TileAtoms :=
  let base := e.base.getD 0
  let old := q.g.rawAt h base e.col
  let arg := (t.reg32 d e.lane).toNat
  let arg2 := (t.reg32 (nextField d) e.lane).toNat
  match op with
  | .arith op =>
    let r := atomNew op 32 old arg 0
    { q with g := q.g.rawPut h base e.col r.1, olds := q.olds ++ [(e.lane, old)], flags := q.flags ||| r.2.1 }
  | .cast =>
    { q with
      g := q.g.rawPut h base e.col (if old = arg then arg2 else old)
      olds := q.olds ++ [(e.lane, old)]
      fail := q.fail || decide (old ≠ arg) }
  | .maxpk =>
    let hi := e.succ h
    let all := old + 2 ^ 32 * q.g.rawAt h (hi.base.getD 0) hi.col
    let new := max all (arg + 2 ^ 32 * arg2)
    { q with
      g := (q.g.rawPut h base e.col (new % 2 ^ 32)).rawPut h (hi.base.getD 0) hi.col (new / 2 ^ 32)
      olds := q.olds ++ [(e.lane, all)] }

/-- A tile atomic over the running lanes in ascending order (R157). -/
def Iss.atomt (x : Iss) (op : TileOp) (d a : RegField) (n : Nat) : Act :=
  if x.t.idle then .ok x.s
  else
    let h := hdrAt x.g x.t n
    let es := atomtElems x.t h op a
    let pre := firstFail [handleCheck x.g x.t n, domCheck x.word h,
      failIf (h.malformed || !tileOpFmtOk op h) trapFormat x.word, failIf (h.dom != 0) trapDomain x.word,
      atomtCheck x.g h op es]
    x.checked pre <|
      let q := es.foldl (tileAtomLane x.t h op d) { g := x.g, olds := [], flags := 0#6, fail := false }
      let low : PendWrite := { dst := d, vals := q.olds.map (fun p => (p.1, BitVec.ofNat 64 (p.2 % 2 ^ 32))), flags := q.flags }
      let high : PendWrite := { dst := nextField d, vals := q.olds.map (fun p => (p.1, BitVec.ofNat 64 (p.2 / 2 ^ 32))), flags := 0 }
      let s := x.s.modGroup x.r.uid fun g => g.storePad q.g x.r
      let s := s.modTeam x.r fun t => t.addPend (if op = .maxpk then [low, high] else [low])
      x.demoted s q.fail

/-- ATOMT operation Add (R156, R157). -/
def execAtomtAdd (d a : RegField) (t : BitVec 4) (s : State) : Host.Outcome State Fault Refusal :=
  issue (.atomtAdd d a t) s fun x => x.atomt (.arith .add) d a t.toNat

/-- ATOMT operation MinI (R156, R157). -/
def execAtomtMinI (d a : RegField) (t : BitVec 4) (s : State) : Host.Outcome State Fault Refusal :=
  issue (.atomtMinI d a t) s fun x => x.atomt (.arith .minI) d a t.toNat

/-- ATOMT operation MaxI (R156, R157). -/
def execAtomtMaxI (d a : RegField) (t : BitVec 4) (s : State) : Host.Outcome State Fault Refusal :=
  issue (.atomtMaxI d a t) s fun x => x.atomt (.arith .maxI) d a t.toNat

/-- ATOMT operation MinN (R156, R157). -/
def execAtomtMinN (d a : RegField) (t : BitVec 4) (s : State) : Host.Outcome State Fault Refusal :=
  issue (.atomtMinN d a t) s fun x => x.atomt (.arith .minN) d a t.toNat

/-- ATOMT operation MaxN (R156, R157). -/
def execAtomtMaxN (d a : RegField) (t : BitVec 4) (s : State) : Host.Outcome State Fault Refusal :=
  issue (.atomtMaxN d a t) s fun x => x.atomt (.arith .maxN) d a t.toNat

/-- ATOMT operation And (R156, R157). -/
def execAtomtAnd (d a : RegField) (t : BitVec 4) (s : State) : Host.Outcome State Fault Refusal :=
  issue (.atomtAnd d a t) s fun x => x.atomt (.arith .and) d a t.toNat

/-- ATOMT operation Or (R156, R157). -/
def execAtomtOr (d a : RegField) (t : BitVec 4) (s : State) : Host.Outcome State Fault Refusal :=
  issue (.atomtOr d a t) s fun x => x.atomt (.arith .or) d a t.toNat

/-- ATOMT operation Xor (R156, R157). -/
def execAtomtXor (d a : RegField) (t : BitVec 4) (s : State) : Host.Outcome State Fault Refusal :=
  issue (.atomtXor d a t) s fun x => x.atomt (.arith .xor) d a t.toNat

/-- ATOMT operation Swap (R156, R157). -/
def execAtomtSwap (d a : RegField) (t : BitVec 4) (s : State) : Host.Outcome State Fault Refusal :=
  issue (.atomtSwap d a t) s fun x => x.atomt (.arith .swap) d a t.toNat

/-- ATOMT operation Fadd (R156, R157). -/
def execAtomtFadd (d a : RegField) (t : BitVec 4) (s : State) : Host.Outcome State Fault Refusal :=
  issue (.atomtFadd d a t) s fun x => x.atomt (.arith .fadd) d a t.toNat

/-- ATOMT operation Maxpk (R156, R157). -/
def execAtomtMaxpk (d a : RegField) (t : BitVec 4) (s : State) : Host.Outcome State Fault Refusal :=
  issue (.atomtMaxpk d a t) s fun x => x.atomt (.maxpk) d a t.toNat

/-- CAST (R156, R157): a failed one is a demotion event (R174). -/
def execCastt (d a : RegField) (t : BitVec 4) (s : State) : Host.Outcome State Fault Refusal :=
  issue (.castt d a t) s fun x => x.atomt .cast d a t.toNat

end Sys2Proof.Machine
end

