-- ==== Sys2Proof/Machine/Copy.lean ====
section
/-!
DEFINITION. The copy engine: commands, shape records, pieces, batches (R277 to R287), and the COPY instructions (R283 to R285).
-/

namespace Sys2Proof.Machine

/-! ### Commands (R277, R278) -/

/-- LEN of a copy descriptor (R278). -/
def Copy.len (c : Copy) : Nat := bitsOf c.opB.toNat 24 24

/-- SOFF of a copy descriptor. -/
def Copy.soff (c : Copy) : Nat := bitsOf c.opB.toNat 0 22

/-- A CPY from scratchpad to global memory; CPYM takes DIR as 0. -/
def Copy.outward (c : Copy) : Bool := c.kind == .cpy && c.opB.getLsbD 22

/-- The barrier object of a descriptor, unless it counts into none. -/
def Copy.object (c : Copy) : Option Nat := if c.opB.getLsbD 53 then none else some (bitsOf c.opB.toNat 48 5)

/-- A copy of a group that stands on a core. -/
def State.copyOn (s : State) (core : Nat) (c : Copy) : Bool := (s.group? c.uid).any fun g => g.core == core && g.resident

/-- Commands that hold a place of a core's engine. -/
def State.copiesHeld (s : State) (core : Nat) : Nat :=
  (s.copies.filter fun c => c.state != .entering && s.copyOn core c).length

/-- Lets the first commands that wait to enter take up to `n` free places. -/
def admitList (on : Copy → Bool) : Nat → List Copy → List Copy
  | _, [] => []
  | 0, l => l
  | n + 1, c :: r =>
    if c.state == .entering && on c then { c with state := .queued } :: admitList on n r else c :: admitList on (n + 1) r

/-- A command may enter its core's engine: it is the first that waits there, and a place is free (R277). -/
def State.mayEnter (s : State) (c : Copy) : Bool :=
  c.state == .entering && (s.group? c.uid).any fun g =>
    g.resident && decide (s.copiesHeld g.core < 256) &&
      ((s.copies.find? fun d => d.state == .entering && s.copyOn g.core d).any fun d => d.seq == c.seq)

/-- Commands enter a core's engine while places are free: 256 in all (R277). -/
def State.admitCopies (s : State) (core : Nat) : State :=
  { s with copies := admitList (s.copyOn core) (256 - s.copiesHeld core) s.copies }

/-- The checks of R285 for one lane's operands. -/
def copyLaneFault (padSize : Nat) (kind : CopyKind) (a b : DWord) : Option (Nat × DWord) :=
  if bitsOf a.toNat 52 12 ≠ 0 then some (trapMemfault, a)
  else
    match kind with
    | .cpys => if a.toNat % 64 ≠ 0 then some (trapAlign, a) else none
    | .cpym _ => none
    | .cpy =>
      let len := bitsOf b.toNat 24 24
      let soff := bitsOf b.toNat 0 22
      if 0 < len ∧ padSize < soff + len then some (trapBounds, BitVec.ofNat 64 soff) else none

/-- The command of one lane; one of LEN 0 completes at issue (R278). -/
def laneCopy (x : Iss) (kind : CopyKind) (a b : RegField) (seq lane : Nat) : Copy :=
  { seq := seq, uid := x.r.uid, tid := x.r.tid, kind := kind, opA := x.t.reg a lane, opB := x.t.reg b lane, batch := x.t.cb,
    dropseed := x.t.dropseed, state := .entering, recv := [], pos := 0, counted := [], record := [], bits := 0,
    waitReq := none }

/-- A command that has nothing to do (R278). -/
def Copy.void (c : Copy) : Bool := c.kind != .cpys && c.len == 0

/-- CPY, CPYM and CPYS (R277, R285). -/
def Iss.copies (x : Iss) (kind : CopyKind) (a b : RegField) : Act :=
  match x.t.run.findSome? fun l => copyLaneFault x.g.padSize kind (x.t.reg a l) (x.t.reg b l) with
  | some (code, va) => .trap code va
  | none =>
    let new := x.t.run.mapIdx fun i l => laneCopy x kind a b (x.s.nextSeq + i) l
    let s := { x.s with copies := x.s.copies ++ new.filter fun (c : Copy) => !c.void, nextSeq := x.s.nextSeq + x.t.run.length }
    .ok (s.admitCopies x.g.core)

/-- CPY (R278). -/
def execCpy (a b : RegField) (s : State) : Host.Outcome State Fault Refusal :=
  issue (.cpy a b) s fun x => x.copies .cpy a b

/-- CPYM (R280): the mask is an s register. -/
def execCpym (d a b : RegField) (s : State) : Host.Outcome State Fault Refusal :=
  issue (.cpym d a b) s fun x => x.copies (.cpym (x.t.sreg d)) a b

/-- CPYS (R281). -/
def execCpys (a b : RegField) (s : State) : Host.Outcome State Fault Refusal :=
  issue (.cpys a b) s fun x => x.copies .cpys a b

/-! ### Batches (R283) -/

/-- Batches opened since a batch: 0 for the open one. -/
def Team.batchAge (t : Team) (b : BitVec 16) : Nat := (t.cb - b).toNat

/-- CBATCH (R283). -/
def execCbatch (d : RegField) (s : State) : Host.Outcome State Fault Refusal :=
  issue (.cbatch d) s fun x =>
    if x.t.idle then .ok x.s else x.okTeam { x.t.putS d (x.t.cb.zeroExtend 32) with cb := x.t.cb + 1 }

/-- ORs status bits into the record of a batch (R283). -/
def Team.noteBatch (t : Team) (b : BitVec 16) (bits : BitVec 8) : Team :=
  if bits = 0 then t
  else if t.batches.any fun x => x.batch == b then
    { t with batches := modWhere t.batches (fun x => x.batch == b) fun x => { x with bits := x.bits ||| bits } }
  else { t with batches := t.batches ++ [{ batch := b, bits := bits }] }

/-- The conversion flags of a status as ASTAT holds them (R29, R283). -/
def statusFlags (bits : BitVec 8) : Flags :=
  (if bits.getLsbD 7 then flagNV else 0#6) ||| (if bits.getLsbD 4 then flagOF else 0#6) |||
    (if bits.getLsbD 5 then flagUF else 0#6) ||| (if bits.getLsbD 6 then flagNX else 0#6)

/-- Conversion flags as a status holds them. -/
def flagBits (f : Flags) : BitVec 8 :=
  (if f.getLsbD 0 then 0x80#8 else 0) ||| (if f.getLsbD 1 then 0x10#8 else 0) ||| (if f.getLsbD 2 then 0x20#8 else 0) |||
    (if f.getLsbD 3 then 0x40#8 else 0)

/-- CWAIT (R283): held while a copy of a batch it waits for is outstanding; the bits it reports are discarded; an acquire of what the copies wrote
(R264). -/
def execCwait (d a : RegField) (s : State) : Host.Outcome State Fault Refusal :=
  issue (.cwait d a) s fun x =>
    let age := (x.t.cb - (x.t.sreg a).extractLsb' 0 16).toNat
    let cb : Word := x.t.cb.zeroExtend 32 <<< 16
    if 32767 < age then x.okTeam (x.t.putS d (cb ||| 4#32))
    else if x.s.copies.any fun c => c.uid == x.r.uid && c.tid == x.r.tid && decide (age ≤ x.t.batchAge c.batch) then .hold x.s
    else
      let bits := (x.t.batches.filter fun b => decide (age ≤ x.t.batchAge b.batch)).foldl (fun n b => n ||| b.bits) 0#8
      let t := (x.t.putS d (cb ||| bits.zeroExtend 32)).orFlags (statusFlags bits)
      .ok ((x.put { t with batches := t.batches.filter fun b => decide (t.batchAge b.batch < age) }).acquire x.r)

/-! ### Counting and completing (R274, R277, R286) -/

/-- Counts bytes into a group's object. -/
def State.countBytes (s : State) (uid bo n : Nat) : State :=
  (s.modGroup uid fun g => g.modObj bo fun o => { o with arr := o.arr + BitVec.ofNat 32 n }).moved

/-- Adds bytes to a copy's count for a receiver. -/
def addCount (uid bo n : Nat) : List (Nat × Nat × Nat) → List (Nat × Nat × Nat)
  | [] => [(uid, bo, n)]
  | p :: r => if p.1 = uid ∧ p.2.1 = bo then (uid, bo, p.2.2 + n) :: r else p :: addCount uid bo n r

/-- Changes a copy. -/
def State.modCopy (s : State) (seq : Nat) (f : Copy → Copy) : State :=
  { s with copies := modWhere s.copies (fun c => c.seq == seq) f }

/-- Counts bytes a copy has written for one receiver, in the machine and in the copy itself (R287). -/
def State.copyCount (s : State) (c : Copy) (bo : Option Nat) (n uid : Nat) : State :=
  match bo with
  | none => s
  | some b => (s.countBytes uid b n).modCopy c.seq fun c => { c with counted := addCount uid b n c.counted }

/-- A copy is COMPLETE (R286): its bits go to its batch, its place falls free, and what waited for it may go on. -/
def State.copyDone (s : State) (c : Copy) (bits : BitVec 8) : State :=
  let s := { s with copies := s.copies.filter fun x => x.seq != c.seq }
  let s := s.modTeam { uid := c.uid, tid := c.tid } fun t => t.noteBatch c.batch bits
  let s := match s.group? c.uid with
    | some g => s.admitCopies g.core
    | none => s
  s.carveTry.moved

/-! ### Shape records (R281, R282) -/

/-- A shape record's fields, with the box origin of the command. -/
structure Shape where
  gva     : Nat
  dim0    : Nat
  dim1    : Nat
  stride1 : Nat
  boxc    : Nat
  boxr    : Nat
  fsrc    : Nat
  fdst    : Nat
  flags   : Nat
  bo      : Nat
  scale   : Word
  hoff    : Nat
  doff    : Nat
  dstride : Nat
  scoff   : Nat
  rest    : Nat
  row     : Nat
  col     : Nat
  deriving DecidableEq, Repr

/-- Reads a record (R281). -/
def shapeOf (bs : List Byte) (origin : DWord) : Shape :=
  { gva := fieldAt bs 0 8, dim0 := fieldAt bs 8 4, dim1 := fieldAt bs 0xC 4, stride1 := fieldAt bs 0x10 8,
    boxc := fieldAt bs 0x18 2, boxr := fieldAt bs 0x1A 2, fsrc := fieldAt bs 0x1C 1, fdst := fieldAt bs 0x1D 1,
    flags := fieldAt bs 0x1E 1, bo := fieldAt bs 0x1F 1, scale := BitVec.ofNat 32 (fieldAt bs 0x20 4),
    hoff := fieldAt bs 0x24 4, doff := fieldAt bs 0x28 4, dstride := fieldAt bs 0x2C 4, scoff := fieldAt bs 0x30 4,
    rest := fieldAt bs 0x34 12, row := bitsOf origin.toNat 32 32, col := bitsOf origin.toNat 0 32 }

def Shape.outward (h : Shape) : Bool := bitOf h.flags 0
def Shape.trans (h : Shape) : Bool := bitOf h.flags 1
def Shape.sat (h : Shape) : Bool := bitOf h.flags 2
def Shape.bs (h : Shape) : Bool := bitOf h.flags 3
def Shape.bax (h : Shape) : Bool := bitOf h.flags 4
def Shape.sr (h : Shape) : Bool := bitOf h.flags 5
def Shape.dom (h : Shape) : Nat := bitsOf h.fdst 4 4

/-- A format code that names a format of its own; none where it is reserved or 0. -/
def shapeFmt (c : Nat) : Option Fmt := if c = 0 then none else fmtOfCode c

def Shape.src (h : Shape) : Fmt := (shapeFmt (bitsOf h.fsrc 0 4)).getD .fp32
def Shape.dst (h : Shape) : Fmt := (shapeFmt (bitsOf h.fdst 0 4)).getD .fp32

/-- The tile's format and the tensor's. -/
def Shape.tileFmt (h : Shape) : Fmt := if h.outward then h.src else h.dst
def Shape.tensorFmt (h : Shape) : Fmt := if h.outward then h.dst else h.src

/-- Tile rows and columns. -/
def Shape.rows (h : Shape) : Nat := if h.trans then h.boxc else h.boxr
def Shape.cols (h : Shape) : Nat := if h.trans then h.boxr else h.boxc

/-- Bytes of a tile row. -/
def Shape.rowSize (h : Shape) : Nat := ceilDiv (h.cols * fmtBits h.tileFmt) 8

/-- A scale of exactly 1.0. -/
def Shape.unscaled (h : Shape) : Bool := h.scale == 0x3F800000#32

def Shape.hasHdr (h : Shape) : Bool := h.hoff != 0xFFFFFFFF

/-- Formats carried raw: CB4 and E8M0. -/
def rawFmt (f : Fmt) : Bool := f == .cb4 || f == .e8m0

/-- The pairs a record may name (R282). -/
def shapePairOk (a b : Fmt) : Bool :=
  (fmtIsFloat a && fmtIsFloat b) || (a == .int32 && (b == .int32 || b == .int8)) || (a == .int8 && b == .int8) ||
    (rawFmt a && a == b)

/-- No reserved field is set. -/
def Shape.reservedOk (h : Shape) : Bool := h.fsrc / 16 == 0 && h.flags / 64 == 0 && bitsOf h.bo 5 2 == 0 && h.rest == 0

/-- Sizes and offsets are in range and everything lies in the scratchpad. -/
def Shape.rangeOk (h : Shape) (padSize : Nat) : Bool :=
  decide (1 ≤ h.boxc ∧ h.boxc ≤ 256 ∧ 1 ≤ h.boxr ∧ h.boxr ≤ 256) && h.stride1 % max 1 (fmtBits h.tensorFmt / 8) == 0 &&
    (!h.hasHdr || (h.hoff % 32 == 0 && decide (h.hoff + 32 ≤ padSize))) &&
    decide (h.doff + (h.rows - 1) * h.dstride + h.rowSize ≤ padSize) &&
    (!h.bs || decide (h.scoff + h.rows * h.cols / 32 ≤ padSize))

/-- Formats and what may stand with them. -/
def Shape.fmtOk (h : Shape) : Bool :=
  (shapeFmt (bitsOf h.fsrc 0 4)).isSome && (shapeFmt (bitsOf h.fdst 0 4)).isSome && shapePairOk h.src h.dst &&
    !((rawFmt h.src || rawFmt h.dst) && (h.trans || h.src != h.dst || !h.unscaled))

/-- DOM and what may stand with it; `hdrDom` is the DOM of the header at HOFF. -/
def Shape.domOk (h : Shape) (hdrDom : Nat) : Bool :=
  decide (h.dom ≤ 6) && (h.dom == 0 || !(h.trans || h.bs || h.sr || !h.unscaled || h.src != h.dst)) &&
    !(h.outward && h.hasHdr && hdrDom != h.dom)

/-- Block scales are legal here. -/
def Shape.bsOk (h : Shape) : Bool :=
  !h.bs || (!h.outward && (h.dst == .e4m3 || h.dst == .e5m2) && (if h.bax then h.rows else h.cols) % 32 == 0)

/-- A header's rows do not overlap. -/
def Shape.strideOk (h : Shape) : Bool := h.outward || !h.hasHdr || decide (h.rowSize ≤ h.dstride)

/-- A record that is not refused (R282). -/
def Shape.valid (h : Shape) (g : Group) : Bool :=
  h.reservedOk && h.rangeOk g.padSize && h.fmtOk && h.domOk (bitsOf (memRead g.pad (h.hoff + 0x14)).toNat 4 4) && h.bsOk &&
    h.strideOk

/-- The header fields that an inward copy writes (R282). -/
def Shape.header (h : Shape) (g : Group) : Group :=
  if h.hasHdr && !h.outward then
    ((g.padWrite (h.hoff + 4) (leBytes 2 h.rows ++ leBytes 2 h.cols ++ leBytes 4 h.dstride))).padWrite (h.hoff + 0x14)
      [BitVec.ofNat 8 h.fdst]
  else g

/-- The object of a record. -/
def Shape.object (h : Shape) : Option Nat := if bitOf h.bo 7 then none else some (bitsOf h.bo 0 5)

/-! ### The elements of a shaped copy (R282) -/

/-- The tensor row and column of a tile element. -/
def Shape.tensorAt (h : Shape) (r c : Nat) : Nat × Nat := if h.trans then (h.row + c, h.col + r) else (h.row + r, h.col + c)

/-- A tensor element inside the tensor. -/
def Shape.inside (h : Shape) (p : Nat × Nat) : Bool := decide (p.1 < h.dim1 ∧ p.2 < h.dim0)

/-- The byte addresses of a tensor element. -/
def Shape.tensorBytes (h : Shape) (p : Nat × Nat) : List Nat :=
  let bits := fmtBits h.tensorFmt
  if bits = 4 then [(h.gva + p.1 * h.stride1 + p.2 / 2) % 2 ^ 64]
  else (List.range (bits / 8)).map fun i => (h.gva + p.1 * h.stride1 + p.2 * (bits / 8) + i) % 2 ^ 64

/-- How an element is rounded (R282, R39). -/
def Shape.rounding (h : Shape) (seed : DWord) (r c : Nat) : Rounding :=
  if h.sr then { mode := .sr, sat := h.sat, rnd := grainDraw (BitVec.ofNat 32 r) (BitVec.ofNat 32 c) (seed) }
  else { mode := .rne, sat := h.sat, rnd := 0 }

/-- A conversion that meets a NaN, an element's or the tile scale, reports NV; the identity of R36 converts nothing (R283). -/
def Shape.nanFlag (h : Shape) (raw : Nat) : Flags :=
  if h.src == h.dst && h.unscaled && !h.bs then 0#6
  else if isNaN (unpackVal h.src raw) || (!h.unscaled && isNaN (unpackFloat .fp32 h.scale.toNat)) then flagNV else 0#6

/-- One element converted. -/
def Shape.conv (h : Shape) (seed : DWord) (r c raw : Nat) : Nat × Flags :=
  let p := convScaled h.src h.dst (h.rounding seed r c) h.scale raw
  (p.1, p.2 ||| h.nanFlag raw)

/-- The raw pattern of an element read from its bytes. -/
def elemOfBytes (bits c : Nat) (bs : List Byte) : Nat := if bits = 4 then bitsOf (leNat bs) (4 * (c % 2)) 4 else leNat bs

/-- An element of a piece: its tile place, and its raw pattern where it lies inside the tensor. -/
structure ShapeElem where
  r   : Nat
  c   : Nat
  raw : Option Nat
  deriving DecidableEq, Repr

/-- What a piece writes into the tile: elements with their patterns, a block code with its offset, and flags. -/
structure ShapeOut where
  elems : List (Nat × Nat × Nat)
  code  : Option (Nat × Nat)
  flags : Flags
  deriving DecidableEq, Repr

/-- The scratchpad offset of the code of the block that starts at a tile element (R282). -/
def Shape.codeOff (h : Shape) (r c : Nat) : Nat :=
  if h.bax then h.scoff + c * (h.rows / 32) + r / 32 else h.scoff + r * (h.cols / 32) + c / 32

/-- Places the patterns of present elements among all elements of a block; absent ones are +0. -/
def placePresent : List ShapeElem → List Nat → List (Nat × Nat × Nat)
  | [], _ => []
  | e :: es, xs =>
    if e.raw.isSome then (e.r, e.c, xs.headD 0) :: placePresent es (xs.drop 1) else (e.r, e.c, 0) :: placePresent es xs

/-- The converted elements of a piece (R36 to R38, R282). -/
def shapeOut (h : Shape) (seed : DWord) (es : List ShapeElem) : ShapeOut :=
  if h.bs then
    let present := es.filter fun e => e.raw.isSome
    let vals := present.map fun e => tileScaled h.scale (unpackVal h.src (e.raw.getD 0))
    let q := quantBlock h.dst (fun i => ((present[i]?).map fun e => h.rounding seed e.r e.c).getD rneRounding) vals
    { elems := placePresent es q.2.1, code := es.head?.map fun e => (h.codeOff e.r e.c, q.1),
      flags := q.2.2 ||| orAll (present.map fun e => h.nanFlag (e.raw.getD 0)) }
  else
    let outs := es.map fun e => match e.raw with
      | some raw => (e, h.conv seed e.r e.c raw)
      | none => (e, (0, 0#6))
    { elems := outs.map (fun o => (o.1.r, o.1.c, o.2.1)), code := none, flags := orAll (outs.map fun o => o.2.2) }

/-! ### The bytes that a shaped copy writes (R256, R277, R282) -/

/-- Rows of bytes: the address of the first, the distance between rows, their number and length. -/
structure Band where
  base   : Nat
  stride : Nat
  rows   : Nat
  len    : Nat
  deriving DecidableEq, Repr

/-- The rows lie apart from one another. -/
def Band.apart (b : Band) : Bool := decide (b.len ≤ b.stride) || decide (b.rows ≤ 1)

/-- The number of its bytes, one that lies in several rows counted once. -/
def Band.size (b : Band) : Nat :=
  if b.rows = 0 then 0 else if b.apart then b.rows * b.len else (b.rows - 1) * b.stride + b.len

/-- The address of a byte by its position in ascending order. -/
def Band.addr (b : Band) (p : Nat) : Nat := b.base + if b.apart then p / b.len * b.stride + p % b.len else p

/-- The row that a byte belongs to, and its place there; where rows overlap, which row is not defined (log entry 21). -/
def Band.place (b : Band) (seq p : Nat) : Nat × Nat :=
  if b.apart then (p / b.len, p % b.len)
  else
    let those := (List.range b.rows).filter fun r => decide (r * b.stride ≤ p ∧ p < r * b.stride + b.len)
    let r := those.getD (Config.overlapRow seq p % those.length) 0
    (r, p - r * b.stride)

/-- Columns and rows of the box that lie inside the tensor. -/
def Shape.boxIn (h : Shape) : Nat × Nat := (min h.boxc (h.dim0 - h.col), min h.boxr (h.dim1 - h.row))

/-- The destination's data: the tile's rows, or what lies inside the tensor of the box's rows. -/
def Shape.band (h : Shape) : Band :=
  if h.outward then
    let bits := fmtBits h.tensorFmt
    let n := h.boxIn.1
    { base := h.gva + h.row * h.stride1 + h.col * bits / 8, stride := h.stride1, rows := h.boxIn.2
      len := if n = 0 then 0 else ceilDiv ((h.col + n) * bits) 8 - h.col * bits / 8 }
  else { base := h.doff, stride := h.dstride, rows := h.rows, len := h.rowSize }

/-- Bytes that a shaped copy writes and counts: data, and the block codes. A byte of overlapping rows counts once (DEDUCED, log
entry 21). -/
def Shape.total (h : Shape) : Nat := h.band.size + if h.bs then h.rows * h.cols / 32 else 0

/-- The address of a byte of the destination, of the scratchpad or of global memory. -/
def Shape.addr (h : Shape) (p : Nat) : Nat :=
  if p < h.band.size then (if h.outward then h.band.addr p % 2 ^ 64 else h.band.addr p) else h.scoff + (p - h.band.size)

/-- A piece may end before a byte: it does not lie in the aligned 8-byte word of the byte before it (R256). -/
def Shape.cutOk (h : Shape) (p : Nat) : Bool := h.addr p != h.addr (p - 1) + 1 || h.addr p % 8 == 0

/-- The bytes of the piece from a position on: up to 128, and no aligned word is split (R256, R277). -/
def Shape.piece (h : Shape) (p : Nat) : List Nat :=
  let e := min h.total (p + 128)
  let e := if e = h.total then e else (((List.range 8).map (e - ·)).find? h.cutOk).getD e
  (List.range (e - p)).map (p + ·)

/-- What a byte of the data holds: tile elements, each with the number of its byte or, of 4-bit codes, of its half. -/
def Shape.cells (h : Shape) (seq p : Nat) : List (Nat × Nat × Nat) :=
  let bits := fmtBits (if h.outward then h.tensorFmt else h.tileFmt)
  let q := h.band.place seq p
  let first := if h.outward then h.col else 0
  let n := if h.outward then h.boxIn.1 else h.cols
  let cells :=
    if bits = 4 then ([(first / 2 * 2 + 2 * q.2, 0), (first / 2 * 2 + 2 * q.2 + 1, 1)].filter fun e => decide (first ≤ e.1 ∧ e.1 < first + n)).map
      fun e => (e.1 - first, e.2)
    else [(q.2 / (bits / 8), q.2 % (bits / 8))]
  cells.map fun e => if h.outward && h.trans then (e.1, q.1, e.2) else (q.1, e.1, e.2)

/-- The first element of the block that an element is converted with, without block scales the element itself (R38). -/
def Shape.blockOf (h : Shape) (r c : Nat) : Nat × Nat :=
  if h.bs then (if h.bax then (r / 32 * 32, c) else (r, c / 32 * 32)) else (r, c)

/-- The elements of a block. -/
def Shape.blockElems (h : Shape) (k : Nat × Nat) : List (Nat × Nat) :=
  if h.bs then (List.range 32).map fun i => if h.bax then (k.1 + i, k.2) else (k.1, k.2 + i) else [k]

/-- The block of a code by its number (R282). -/
def Shape.codeBlock (h : Shape) (i : Nat) : Nat × Nat :=
  if h.bax then (i % (h.rows / 32) * 32, i / (h.rows / 32)) else (i / (h.cols / 32), i % (h.cols / 32) * 32)

/-- The blocks that a byte of the destination depends on. -/
def Shape.blocksAt (h : Shape) (seq p : Nat) : List (Nat × Nat) :=
  if p < h.band.size then (h.cells seq p).map fun e => h.blockOf e.1 e.2.1 else [h.codeBlock (p - h.band.size)]

/-- The source bytes of an element: its tensor addresses, none outside the tensor, or its bytes of the scratchpad. -/
def Shape.sourceBytes (h : Shape) (e : Nat × Nat) : List Nat :=
  if h.outward then
    let bits := fmtBits h.tileFmt
    (List.range (max 1 (bits / 8))).map fun i => h.doff + e.1 * h.dstride + e.2 * bits / 8 + i
  else if h.inside (h.tensorAt e.1 e.2) then h.tensorBytes (h.tensorAt e.1 e.2)
  else []

/-- A byte of the words that have been read. -/
def wordByte (ws : List (Nat × List Byte)) (a : Nat) : Byte := ((ws.find? fun w => w.1 == a / 8 * 8).bind fun w => w.2[a % 8]?).getD 0

/-- An element as its source words have it. -/
def Shape.elemOf (h : Shape) (ws : List (Nat × List Byte)) (e : Nat × Nat) : ShapeElem :=
  let bs := (h.sourceBytes e).map (wordByte ws)
  let col := if h.outward then e.2 else (h.tensorAt e.1 e.2).2
  { r := e.1, c := e.2, raw := if bs.isEmpty then none else some (elemOfBytes (fmtBits (if h.outward then h.tileFmt else h.tensorFmt)) col bs) }

/-- The value of a byte of the destination, whose old value is `old`, from the converted blocks. -/
def Shape.byteAt (h : Shape) (seq : Nat) (outs : List ((Nat × Nat) × ShapeOut)) (p : Nat) (old : Byte) : Byte :=
  let out := fun (k : Nat × Nat) => (outs.find? fun o => o.1 == k).map (·.2)
  if p < h.band.size then
    (h.cells seq p).foldl (fun b e =>
      let x := (((out (h.blockOf e.1 e.2.1)).bind fun o => o.elems.find? fun y => y.1 == e.1 && y.2.1 == e.2.1).map (·.2.2)).getD 0
      if fmtBits (if h.outward then h.tensorFmt else h.tileFmt) = 4 then nibbleIn b e.2.2 x else BitVec.ofNat 8 (bitsOf x (8 * e.2.2) 8)) old
  else BitVec.ofNat 8 (((((out (h.codeBlock (p - h.band.size))).bind fun o => o.code)).map (·.2)).getD 0)

/-- The bytes that an outward element writes, given what its place holds: a 4-bit code keeps its neighbour. -/
def outBytes (bits c x : Nat) (old : List Byte) : List Byte :=
  if bits = 4 then [nibbleIn (old.headD 0) c x] else leBytes (bits / 8) x

/-- Writes the outward elements at their places, in order. -/
def writeOut (bits : Nat) (s : State) : List (Nat × Nat) → List Place → State
  | [], _ => s
  | (c, x) :: es, ps =>
    let n := max 1 (bits / 8)
    writeOut bits (s.writePlaces (ps.take n) (outBytes bits c x (s.readPlaces (ps.take n)))) es (ps.drop n)

/-! ### Starting and running (R286) -/

/-- The groups a CPYM writes: named, running or draining, and holding the whole range (R280). -/
def State.receivers (s : State) (g : Group) (mask : Word) (soff len : Nat) : List Nat :=
  (s.groups.filter fun d => maskNames g d mask && (d.state == .running || d.state == .draining) &&
    decide (soff + len ≤ d.padSize)).map (·.uid)

/-- A CPYM. -/
def Copy.multicast (c : Copy) : Bool :=
  match c.kind with
  | .cpym _ => true
  | _ => false

/-- Some group of a group's context is still to go on after a resumption, so that the receivers of a re-issued CPYM do not yet
stand (R99, R287). -/
def State.resuming (s : State) (g : Group) : Bool :=
  s.groups.any fun d => d.part == g.part && d.ctxid == g.ctxid && d.state == .starting && d.teams.any (·.started)

/-- The copy, its group and its context, where the copy is in a state and the context runs. -/
def State.copyAt (s : State) (seq : Nat) (st : CopyState) : Option (Copy × Group × Ctx) :=
  match s.copies.find? fun c => c.seq == seq && c.state == st && c.waitReq.isNone with
  | none => none
  | some c =>
    match s.group? c.uid with
    | none => none
    | some g =>
      match s.ctxOf g with
      | none => none
      | some x => if x.state == .running && !(c.multicast && s.resuming g) then some (c, g, x) else none

/-- A copy stops at a page that is not there (R279). -/
def State.copyStop (s : State) (c : Copy) (x : Ctx) (a : Access) (stop : RunStop) : State :=
  let q := s.engineStop x a noCore (.copy c.seq) stop
  match q.2 with
  | some tag => q.1.modCopy c.seq fun c => { c with waitReq := some tag }
  | none => q.1

/-- COPY_START (R286): a queued copy starts, or a command that waited for a place enters the engine (R277). -/
def execCopyStart (seq : Nat) (s : State) : Host.Outcome State Fault Refusal :=
  match s.copyAt seq .queued with
  | none =>
    if s.copies.any fun c => c.seq == seq && s.mayEnter c then
      .next (s.modCopy seq fun c => { c with state := .queued }).moved
    else .next s
  | some (c, g, x) =>
    match c.kind with
    | .cpy => .next (s.modCopy seq fun c => { c with state := .running }).moved
    | .cpym mask =>
      let recv := s.receivers g mask c.soff c.len
      let bits : BitVec 8 := if popCount 32 mask.toNat = recv.length then 0 else 2
      if recv.isEmpty then .next (s.copyDone c bits)
      else .next (s.modCopy seq fun c => { c with state := .running, recv := recv, bits := bits }).moved
    | .cpys =>
      let q := xlateBytes s x .read (runFrom c.opA.toNat 64)
      match q.stop with
      | some stop => .next (q.s.copyStop c x .read stop).moved
      | none =>
        let bs := q.s.readPlaces q.places
        let h := shapeOf bs c.opB
        if !h.valid (q.s.engineView g) then .next (q.s.copyDone c 1)
        else
          .next ((q.s.modGroup g.uid h.header).modCopy seq fun c => { c with state := .running, record := bs }).moved

/-- After a piece: on to the next, or complete after the last. -/
def State.copyNext (s : State) (c : Copy) (pos total : Nat) (bits : BitVec 8) : State :=
  if total ≤ pos then s.copyDone c bits else (s.modCopy c.seq fun c => { c with pos := pos, bits := bits }).moved

/-- Bytes that a piece takes from its source, at `src`, beside `kept` bytes that have been read already: it ends at the end of an
aligned 8-byte word, or of the copy (R256). -/
def pieceRead (src kept left : Nat) : Nat := min left (128 - kept - (src + (128 - kept)) % 8)

/-- Bytes that a piece writes at its destination, of `have` bytes that it has: up to the end of an aligned 8-byte word, or all of
them where nothing is left to read (R256). -/
def pieceWrite (dst have_ : Nat) (last : Bool) : Nat := if last then have_ else have_ - (dst + have_) % 8

/-- The copy goes on after a piece of `n` written bytes, with the bytes that it has read and not written. -/
def State.pieceDone (s : State) (c : Copy) (n : Nat) (rest : List Byte) : State :=
  (s.modCopy c.seq fun c => { c with record := rest }).copyNext c (c.pos + n) c.len c.bits

/-- A piece of a CPY or CPYM into scratchpads (R277, R280). -/
def State.pieceIn (s : State) (c : Copy) (x : Ctx) (recv : List Nat) : State :=
  let src := c.opA.toNat + c.pos + c.record.length
  let m := pieceRead src c.record.length (c.len - c.pos - c.record.length)
  let q := xlateBytes s x .read (runFrom src m)
  match q.stop with
  | some stop => (q.s.copyStop c x .read stop).moved
  | none =>
    let bs := c.record ++ q.s.readPlaces q.places
    let n := pieceWrite (c.soff + c.pos) bs.length (decide (c.len ≤ c.pos + bs.length))
    let s := recv.foldl (fun s u => (s.modGroup u fun g => g.padWords (c.soff + c.pos) (bs.take n)).copyCount c c.object n u) q.s
    s.pieceDone c n (bs.drop n)

/-- A piece of a CPY into global memory. -/
def State.pieceOut (s : State) (c : Copy) (g : Group) (x : Ctx) : State :=
  let src := c.soff + c.pos + c.record.length
  let m := pieceRead src c.record.length (c.len - c.pos - c.record.length)
  let bs := c.record ++ memReadN (s.engineView g).pad src m
  let n := pieceWrite (c.opA.toNat + c.pos) bs.length (decide (c.len ≤ c.pos + bs.length))
  let q := xlateBytes s x .write (runFrom (c.opA.toNat + c.pos) n)
  match q.stop with
  | some stop => (q.s.copyStop c x .write stop).moved
  | none => ((q.s.writePlaces q.places (bs.take n)).copyCount c c.object n g.uid).pieceDone c n (bs.drop n)

/-- The blocks that a piece of a shaped copy converts, and the source bytes of words that it has not read yet. -/
def Shape.blocks (h : Shape) (seq pos : Nat) : List (Nat × Nat) := ((h.piece pos).flatMap (h.blocksAt seq)).eraseDups
def Shape.needs (h : Shape) (c : Copy) : List Nat :=
  ((h.blocks c.seq c.pos).flatMap fun k => (h.blockElems k).flatMap h.sourceBytes).filter fun a => !c.words.any fun w => w.1 == a / 8 * 8

/-- The blocks of a piece converted. -/
def Shape.convert (h : Shape) (c : Copy) (ws : List (Nat × List Byte)) : List ((Nat × Nat) × ShapeOut) :=
  (h.blocks c.seq c.pos).map fun k => (k, shapeOut h c.dropseed ((h.blockElems k).map (h.elemOf ws)))

/-- The aligned words of places, each read as one access (R256). -/
def State.readWords (s : State) (ps : List Place) : List (Nat × List Byte) :=
  ((ps.map fun p => { p with pa := p.pa - p.va % 8, va := p.va / 8 * 8 }).eraseDups).map fun p => (p.va, s.readAt p 8)

/-- The copy goes on after a piece whose source words are kept: no word is read twice (R256). -/
def State.shapeDone (s : State) (c : Copy) (h : Shape) (ws : List (Nat × List Byte)) (outs : List ((Nat × Nat) × ShapeOut)) : State :=
  let n := (h.piece c.pos).length
  let s := (s.copyCount c h.object n c.uid).modCopy c.seq fun c => { c with words := ws }
  s.copyNext c (c.pos + n) h.total (c.bits ||| flagBits (orAll (outs.map fun o => o.2.flags)))

/-- A piece of a shaped copy into the scratchpad. -/
def State.shapeIn (s : State) (c : Copy) (g : Group) (x : Ctx) (h : Shape) : State :=
  let q := xlateBytes s x .read (h.needs c)
  match q.stop with
  | some stop => (q.s.copyStop c x .read stop).moved
  | none =>
    let ws := c.words ++ q.s.readWords q.places
    let outs := h.convert c ws
    let s := q.s.modGroup g.uid fun g =>
      g.padPut ((h.piece c.pos).map fun p => (h.addr p, h.byteAt c.seq outs p (memRead g.pad (h.addr p))))
    s.shapeDone c h ws outs

/-- A piece of a shaped copy into global memory; elements outside the tensor are not written. -/
def State.shapeOutward (s : State) (c : Copy) (g : Group) (x : Ctx) (h : Shape) : State :=
  let q := xlateBytes s x .write ((h.piece c.pos).map h.addr)
  match q.stop with
  | some stop => (q.s.copyStop c x .write stop).moved
  | none =>
    let pad := (s.engineView g).pad
    let ws := c.words ++ (((h.needs c).map fun a => a / 8 * 8).eraseDups).map fun a => (a, memReadN pad a 8)
    let outs := h.convert c ws
    let bs := ((h.piece c.pos).zip q.places).map fun p => h.byteAt c.seq outs p.1 ((q.s.readAt p.2 1).headD 0)
    (q.s.writePlaces q.places bs).shapeDone c h ws outs

/-- COPY_PIECE (R277). -/
def execCopyPiece (seq : Nat) (s : State) : Host.Outcome State Fault Refusal :=
  match s.copyAt seq .running with
  | none => .next s
  | some (c, g, x) =>
    match c.kind with
    | .cpy => if c.outward then .next (s.pieceOut c g x) else .next (s.pieceIn c x [g.uid])
    | .cpym _ => .next (s.pieceIn c x c.recv)
    | .cpys =>
      let h := shapeOf c.record c.opB
      if h.outward then .next (s.shapeOutward c g x h) else .next (s.shapeIn c g x h)

/-! ### Abort and re-issue (R96, R99, R286, R287) -/

/-- Takes back the bytes a copy has counted; the objects are not tested (R287). -/
def State.uncount (s : State) (p : Nat × Nat × Nat) : State :=
  s.modGroup p.1 fun g => { g with objs := modAt g.objs p.2.1 fun o => { o with arr := o.arr - BitVec.ofNat 32 p.2.2 } }

/-- A copy kept whole for its re-issue. -/
def Copy.abort (c : Copy) : Copy :=
  { c with state := .aborted, recv := [], pos := 0, counted := [], record := [], bits := 0, waitReq := none, words := [] }

/-- Aborts every copy of a context's groups (R286). -/
def State.abortCopies (s : State) (uids : List Nat) : State :=
  let mine := s.copies.filter fun c => uids.contains c.uid
  let s := (mine.flatMap (·.counted)).foldl State.uncount s
  { s with copies := modWhere s.copies (fun c => uids.contains c.uid) Copy.abort }

/-- Re-issues every aborted copy of a context's groups, in their order, as places are free (R277, R286). -/
def State.reissueCopies (s : State) (uids : List Nat) : State :=
  let s := { s with copies := modWhere s.copies (fun c => uids.contains c.uid) fun c => { c with state := .entering } }
  uids.foldl (fun s u =>
    match s.group? u with
    | some g => s.admitCopies g.core
    | none => s) s

end Sys2Proof.Machine
end

