-- ==== Sys2Proof/Machine/Wave.lean ====
section
/-!
DEFINITION. The wavelet domain: the Haar transform, coefficient layouts and their reconstruction (R333 to R338), the checks of
R331 and the WAVE instructions (R341 to R345).
-/

namespace Sys2Proof.Machine

/-! ### Rows in FP32 -/

/-- A row of FP32 patterns. -/
abbrev FRow := List Word

/-- Rows as coefficients: the rows of the coarsest average, and for each level from 1 up its detail rows, none where dropped. A
SPATIAL tile has no level. -/
structure Coefs where
  a     : List FRow
  det   : List (List (Option FRow))
  flags : Flags
  deriving DecidableEq, Repr

/-- Applies an operation to every element of a row. -/
def mapRow (f : Word → Word × Flags) (x : FRow) : FRow × Flags :=
  let ps := x.map f
  (ps.map (·.1), orAll (ps.map (·.2)))

/-- Applies an operation to the elements of two rows. -/
def zipRow (f : Word → Word → Word × Flags) (x y : FRow) : FRow × Flags :=
  let ps := x.zipWith f y
  (ps.map (·.1), orAll (ps.map (·.2)))

/-- RoundNE(x − y). -/
def subNE (x y : Word) : Word × Flags :=
  let p := addBits .fp32 rneRounding true x.toNat y.toNat
  (BitVec.ofNat 32 p.1, p.2)

/-- The row that starts at a scratchpad offset, widened (R36). -/
def Group.srcRow (g : Group) (h : Hdr) (base : Nat) : FRow × Flags :=
  let ps := (List.range h.cols).map fun c => g.widen h (g.rawAt h base c)
  (ps.map (·.1), orAll (ps.map (·.2)))

/-- The rows of a tile that are not details: every row of a SPATIAL tile, a_L of a Haar tile. -/
def Group.baseRows (g : Group) (h : Hdr) : List (FRow × Flags) :=
  (List.range (h.levelRows h.levels)).map fun k => g.srcRow h (h.doff + k * h.rstride)

/-- The detail rows of a level, as significance has them. -/
def Group.detRows (g : Group) (h : Hdr) (l : Nat) : List (Option (FRow × Flags)) :=
  (List.range (h.levelRows l)).map fun i => if g.bmBit h l i then some (g.srcRow h (g.detailBase h l i)) else none

/-- A tile's stored elements in FP32. -/
def Group.coefs (g : Group) (h : Hdr) : Coefs :=
  let a := g.baseRows h
  let det := (List.range h.levels).map fun k => g.detRows h (k + 1)
  { a := a.map (·.1), det := det.map fun rows => rows.map fun r => r.map (·.1),
    flags := orAll (a.map (·.2)) ||| orAll (det.flatMap fun rows => rows.filterMap fun r => r.map (·.2)) }

/-! ### Forward transform and survival (R333, R334) -/

/-- RoundNE(RoundNE(x ± y) × 0.5). -/
def haarHalf (sub : Bool) (x y : Word) : Word × Flags :=
  let p := if sub then subNE x y else addNE x y
  let q := mulNE p.1 0x3F000000#32
  (q.1, p.2 ||| q.2)

/-- One level: the averages and the differences of pairs of rows. -/
def haarLevel : List FRow → List (FRow × FRow × Flags)
  | x :: y :: r =>
    let s := zipRow (haarHalf false) x y
    let d := zipRow (haarHalf true) x y
    (s.1, d.1, s.2 ||| d.2) :: haarLevel r
  | _ => []

/-- T_l: a negative threshold or a NaN counts as +0 (R334). -/
def threshold (w : Word) : Nat := if w.msb || 0x7F800000 < w.toNat then 0 else w.toNat

/-- A detail row survives (R334): the magnitude of a NaN lies above every threshold. -/
def survives (t : Nat) (d : FRow) : Bool := d.any fun x => decide (t ≤ x.toNat % 2 ^ 31)

/-- Levels `l`, `l` + 1, … of the transform, `n` of them, with the thresholds from level `l` on. -/
def haarFrom : Nat → List Nat → List FRow → Coefs
  | 0, _, rows => { a := rows, det := [], flags := 0#6 }
  | n + 1, ts, rows =>
    let ps := haarLevel rows
    let rest := haarFrom n (ts.drop 1) (ps.map (·.1))
    { a := rest.a, det := (ps.map fun p => if survives (ts.headD 0) p.2.1 then some p.2.1 else none) :: rest.det,
      flags := rest.flags ||| orAll (ps.map fun p => p.2.2) }

/-- The thresholds of a team, level 1 first. -/
def Team.thresholds (t : Team) : List Nat := t.wth.map threshold

/-! ### Reconstruction (R338) -/

/-- One level undone: each coarse row with its detail row, an absent one reading as +0. -/
def unLevel (cols : Nat) : List FRow → List (Option FRow) → List (FRow × Flags)
  | v :: vs, d :: ds =>
    let d := d.getD (List.replicate cols 0#32)
    zipRow addNE v d :: zipRow subNE v d :: unLevel cols vs ds
  | _, _ => []

/-- Undoes the levels of a list that has the coarsest level first. -/
def recFrom (cols : Nat) : List (List (Option FRow)) → List FRow → List FRow × Flags
  | [], rows => (rows, 0#6)
  | d :: ds, rows =>
    let ps := unLevel cols rows d
    let q := recFrom cols ds (ps.map (·.1))
    (q.1, q.2 ||| orAll (ps.map (·.2)))

/-- The spatial rows of coefficients, with the flags of forming them. -/
def Coefs.rows (c : Coefs) (cols : Nat) : List FRow × Flags := recFrom cols c.det.reverse c.a

/-! ### Writing results (R335, R337, R347) -/

/-- How a result is stored: the row and column it has among the rows written, and its value, to a pattern of the destination's
format. -/
abbrev Store := Nat → Nat → Word → Nat × Flags

/-- The store of R347. -/
def plainStore (h : Hdr) (sat : Bool) : Store := fun _ _ y =>
  convBits .fp32 (h.fmt.getD .fp32) { mode := .rne, sat := sat, rnd := 0 } y.toNat

/-- The bytes of a converted row. -/
def rowBytes (h : Hdr) (st : Store) (r : Nat) (x : FRow) : List Byte × Flags :=
  let ps := x.mapIdx (st r)
  (ps.flatMap (fun p => leBytes (h.bits / 8) p.1), orAll (ps.map (·.2)))

/-- Writes rows at scratchpad offsets, element by element; the first has number `r`. -/
def putRows (h : Hdr) (st : Store) (pad : Nat) : Nat → List (Nat × FRow) → Group → Group × Flags
  | _, [], g => (g, 0#6)
  | r, (off, x) :: rest, g =>
    let b := rowBytes h st r x
    let q := putRows h st pad (r + 1) rest (g.padElems (max 1 (h.bits / 8)) off (b.1 ++ List.replicate (pad - b.1.length) 0))
    (q.1, b.2 ||| q.2)

/-- DOM, SURV and FELL of a header (R329). -/
def Group.putTag (g : Group) (h : Hdr) (dom : Nat) (surv : List Nat) (fell : Bool) : Group :=
  let s := (List.range 6).foldl (fun n l => n + surv.getD l 0 * 2 ^ (12 * l)) 0
  g.padWrite (h.off + 0x14)
    ([BitVec.ofNat 8 (h.fcode + 16 * dom), BitVec.ofNat 8 (h.cbf % 8 + (if fell then 8 else 0))] ++ leBytes 10 s)

/-- Spatial rows at DOFF + r × RSTRIDE; bytes between rows are not written. -/
def Group.putSpatial (g : Group) (h : Hdr) (st : Store) (rows : List FRow) (fell : Bool) : Group × Flags :=
  let q := putRows h st 0 0 (rows.mapIdx fun r x => (h.doff + r * h.rstride, x)) g
  (q.1.putTag h 0 [] fell, q.2)

/-- The bytes of a significance bitmap, padded (R335). -/
def bitmapBytes (n : Nat) (bits : List Bool) : List Byte :=
  (List.range n).map fun i =>
    BitVec.ofNat 8 ((List.range 8).foldl (fun b k => b + (if bits.getD (8 * i + k) false then 2 ^ k else 0)) 0)

/-- Surviving rows of each level. -/
def Coefs.surv (c : Coefs) : List Nat := c.det.map fun rows => (rows.filter (·.isSome)).length

/-- A destination's header as the result gives it. -/
def Coefs.header (c : Coefs) (h : Hdr) : Hdr :=
  { h with dom := c.det.length, surv := (List.range 6).map fun l => c.surv.getD l 0 }

/-- The result fits (R337). -/
def Coefs.fits (c : Coefs) (h : Hdr) : Bool :=
  let k := c.header h
  c.surv.all (fun n => decide (n ≤ 4095)) && decide (k.layoutLen ≤ k.area)

/-- Where the surviving rows of a level stand. -/
def Coefs.detPlaces (c : Coefs) (h : Hdr) (l : Nat) : List (Nat × FRow) :=
  let k := c.header h
  ((c.det.getD (l - 1) []).filterMap id).mapIdx fun r x => (h.doff + k.bmOff l + k.bmBytes l + r * h.rstride, x)

/-- The rows of a layout in storage order, each with its place (R335). -/
def Coefs.places (c : Coefs) (h : Hdr) : List (Nat × FRow) :=
  (c.a.mapIdx fun r x => (h.doff + r * h.rstride, x)) ++
    (List.range c.det.length).flatMap fun i => c.detPlaces h (c.det.length - i)

/-- Writes the layout of R335. -/
def Group.putLayout (g : Group) (h : Hdr) (st : Store) (c : Coefs) : Group × Flags :=
  let k := c.header h
  let g := (List.range k.levels).foldl (fun (g : Group) i =>
    g.padElems 1 (h.doff + k.bmOff (i + 1)) (bitmapBytes (k.bmBytes (i + 1)) ((c.det.getD i []).map (·.isSome)))) g
  let q := putRows h st h.rstride 0 (c.places h) g
  (q.1.putTag h k.dom k.surv false, q.2)

/-- Writes a result: SPATIAL rows, a layout that fits, or the fall-back of R337 with WOVF. `whole` are the spatial rows that a
fall-back writes in place of the reconstruction. -/
def Group.putResult (g : Group) (h : Hdr) (st : Store) (c : Coefs) (whole : Option (List FRow)) : Group × Flags :=
  if c.det.isEmpty then
    let q := g.putSpatial h st c.a false
    (q.1, c.flags ||| q.2)
  else if c.fits h then
    let q := g.putLayout h st c
    (q.1, c.flags ||| q.2)
  else
    let rows := match whole with
      | some rows => (rows, 0#6)
      | none => c.rows h.cols
    let q := g.putSpatial h st rows.1 true
    (q.1, c.flags ||| rows.2 ||| q.2 ||| flagWOVF)

/-! ### The checks of R331 -/

/-- Source and destination formats of R347. -/
def isSrcFmt (h : Hdr) : Bool :=
  h.fmt == some .fp32 || h.fmt == some .bf16 || h.fmt == some .fp16 || h.fmt == some .e5m2 || h.fmt == some .e4m3 ||
    h.fmt == some .cb4

def isDstFmt (h : Hdr) : Bool := isSrcFmt h && h.fmt != some .cb4

/-- Two tiles have one shape. -/
def sameShape (h k : Hdr) : Bool := h.rows == k.rows && h.cols == k.cols

/-- The data areas of two different tiles overlap. -/
def areasMeet (d k : Hdr) : Bool :=
  d.off != k.off && decide (d.doff < k.doff + k.area ∧ k.doff < d.doff + d.area)

/-- What an instruction's own entry adds to R331: the handles it names in order, its sources and destination, what breaks its
formats or shapes, and what breaks its domains. -/
structure TileUse where
  handles : List Nat
  srcs    : List Hdr
  dst     : Hdr
  fmtBad  : Bool
  domBad  : Bool
  deriving DecidableEq, Repr

/-- The checks of R331 in their order. -/
def tileChecks (x : Iss) (u : TileUse) : Check :=
  let hs := u.handles.map (hdrAt x.g x.t)
  firstFail [firstFail (u.handles.map (handleCheck x.g x.t)), firstFail (hs.map (domCheck x.word)),
    failIf (hs.any Hdr.malformed || u.fmtBad) trapFormat x.word,
    failIf (u.domBad || u.srcs.any fun h => h.isHaar && !x.g.survOk h) trapDomain x.word,
    firstFail (hs.map x.g.areaCheck), firstFail (u.srcs.map Hdr.layoutCheck),
    failIf (u.srcs.any (areasMeet u.dst)) trapBounds (BitVec.ofNat 64 u.dst.doff)]

/-- Runs an instruction of the tile-vector unit (R331, R332): nothing with no running lane; else its checks, and its result in
the scratchpad as ordinary stores of the team, with its flags in ASTAT. -/
def Iss.tileOp (x : Iss) (u : TileUse) (result : Unit → Group × Flags) : Act :=
  if x.t.idle then .ok x.s
  else
    x.checked (tileChecks x u) <|
      let q := result ()
      let s := x.s.modGroup x.r.uid fun g => (g.adopt q.1).madeBy x.r g.vers
      .ok (s.modTeam x.r fun t => ({ t with padSeen := x.t.padSeen }).orFlags q.2)

/-- Issues an instruction of the tile-vector unit, which reads the scratchpad as its team's ordinary reads do (R140, R254). -/
def issueTile (i : Instr) (s : State) (body : Iss → Act) : Host.Outcome State Fault Refusal :=
  issue i s fun x =>
    let q := x.padView
    body { x with g := q.1, t := { x.t with padSeen := q.2 ++ x.t.padSeen } }

/-- The saturation bit of the format record (R67, R346). -/
def Iss.sat (x : Iss) : Bool := x.t.fmtRec.sat

/-! ### WSTORE, WREC, WTH, WTAG (R342 to R345) -/

/-- WSTORE (R342). -/
def execWstore (d a : RegField) (l : BitVec 3) (s : State) : Host.Outcome State Fault Refusal :=
  issueTile (.wstore d a l) s fun x =>
    let hd := hdrAt x.g x.t d.toNat
    let ha := hdrAt x.g x.t a.toNat
    let u : TileUse :=
      { handles := [d.toNat, a.toNat], srcs := [ha], dst := hd,
        fmtBad := !isSrcFmt ha || !hd.haarCapable l.toNat || !sameShape hd ha, domBad := ha.dom != 0 }
    x.tileOp u fun _ =>
      let src := x.g.coefs ha
      let c := haarFrom l.toNat x.t.thresholds src.a
      x.g.putResult hd (plainStore hd x.sat) { c with flags := c.flags ||| src.flags } (some src.a)

/-- The spatial rows of a tile, reconstructed where it is Haar. -/
def Group.spatialRows (g : Group) (h : Hdr) : List FRow × Flags :=
  let c := g.coefs h
  let q := c.rows h.cols
  (q.1, c.flags ||| q.2)

/-- WREC (R343). -/
def execWrec (d a : RegField) (s : State) : Host.Outcome State Fault Refusal :=
  issueTile (.wrec d a) s fun x =>
    let hd := hdrAt x.g x.t d.toNat
    let ha := hdrAt x.g x.t a.toNat
    let u : TileUse :=
      { handles := [d.toNat, a.toNat], srcs := [ha], dst := hd,
        fmtBad := !isSrcFmt ha || !isDstFmt hd || !sameShape hd ha, domBad := false }
    x.tileOp u fun _ =>
      let q := x.g.spatialRows ha
      x.g.putResult hd (plainStore hd x.sat) { a := q.1, det := [], flags := q.2 } none

/-- WTH (R344): a row dropped before is never restored. -/
def execWth (d a : RegField) (s : State) : Host.Outcome State Fault Refusal :=
  issueTile (.wth d a) s fun x =>
    let hd := hdrAt x.g x.t d.toNat
    let ha := hdrAt x.g x.t a.toNat
    let u : TileUse :=
      { handles := [d.toNat, a.toNat], srcs := [ha], dst := hd,
        fmtBad := !isSrcFmt ha || !isDstFmt hd || !sameShape hd ha || (ha.isHaar && !hd.haarCapable ha.dom),
        domBad := !ha.isHaar }
    x.tileOp u fun _ =>
      let c := x.g.coefs ha
      let ts := x.t.thresholds
      let det := c.det.mapIdx fun k rows => rows.map fun r => r.filter (survives (ts.getD k 0))
      x.g.putResult hd (plainStore hd x.sat) { c with det := det } none

/-- SURV as the bitmaps give it, from level `l` down at offset `off` from DOFF: the counts with the finest level last, and the
layout's end; none where a bitmap lies past the data area (R345). -/
def retag (g : Group) (h : Hdr) : Nat → Nat → Option (List Nat × Nat)
  | 0, off => some ([], off)
  | l + 1, off =>
    let n := h.levelRows (l + 1)
    if h.area < off + h.bmBytes (l + 1) then none
    else
      let bits := (memReadN g.pad (h.doff + off) (ceilDiv n 8)).flatMap fun b => (List.range 8).map fun i => b.getLsbD i
      let k := setBits (bits.take n)
      (retag g h l (off + h.bmBytes (l + 1) + k * h.rstride)).map fun p => (k :: p.1, p.2)

/-- WTAG's result for a tile: SURV level 1 first and the stored rows; none for BAD. -/
def wtagOf (g : Group) (h : Hdr) : Option (List Nat × Nat) :=
  if !h.isHaar then some ([], h.rows)
  else
    match retag g h h.levels (h.levelRows h.levels * h.rstride) with
    | none => none
    | some (ks, len) =>
      if h.area < len ∨ ks.any (fun k => decide (4095 < k)) = true then none
      else some (ks.reverse, h.levelRows h.levels + ks.sum)

/-- WTAG status (R345). -/
def wtagStatus (stored : Option Nat) (dom : Nat) : Word :=
  match stored with
  | some n => BitVec.ofNat 32 (n * 65536 + dom)
  | none => BitVec.ofNat 32 (16 + dom)

/-- The checks of R331 that hold for WTAG: all but step 4, and no layout, since it is the layout that WTAG judges. -/
def wtagChecks (x : Iss) (n : Nat) (h : Hdr) : Check :=
  firstFail [handleCheck x.g x.t n, domCheck x.word h, failIf h.malformed trapFormat x.word, x.g.areaCheck h]

/-- WTAG (R345). -/
def execWtag (d a : RegField) (s : State) : Host.Outcome State Fault Refusal :=
  issueTile (.wtag d a) s fun x =>
    let n := a.toNat
    let h := hdrAt x.g x.t n
    let checks := wtagChecks x n h
    let dom := if (handleCheck x.g x.t n).isSome then 0 else h.dom
    if x.t.idle && checks.isSome then x.okTeam (x.t.putS d (wtagStatus none dom))
    else
      x.checked checks <|
        let q := wtagOf x.g h
        let s := x.s.modTeam x.r fun t => ({ t with padSeen := x.t.padSeen } : Team).putS d (wtagStatus (q.map (·.2)) dom)
        match q with
        | some (surv, _) =>
          .ok (if x.t.idle || !h.isHaar then s
            else s.modGroup x.r.uid fun g => g.storePad (g.putTag h h.dom surv (bitOf h.cbf 3)) x.r)
        | none => .ok s

end Sys2Proof.Machine
end

