-- ==== Sys2Proof/Machine/Xlane.lean ====
section
/-!
DEFINITION. Lane exchange, major 0x0D (R183 to R186). Results are variable-latency: they return by a later step.
-/

namespace Sys2Proof.Machine

/-! ### Reading other lanes (R183) -/

/-- The value of a register in any lane: zero from an exited lane or one at or above TEAMW (R183). -/
def Team.val (t : Team) (f : RegField) (j : Nat) : DWord :=
  match t.lanes[j]? with
  | some l => if l.exited then 0 else t.reg f j
  | none => 0

/-- The first lane of a lane's span. -/
def spanBase (l : Nat) : Nat := l / 32 * 32

/-! ### Combining operations (R185, R186) -/

/-- A value on its way through a reduction, with the flags it has gathered. -/
abbrev Part := DWord × Flags

/-- An operation on 32 bits (R185). -/
def xop32 (op : Nat) (x y : Word) : Word × Flags :=
  match op with
  | 0 => (x + y, 0#6)
  | 1 => addNE x y
  | 2 => (imaxLane x y, 0#6)
  | 3 => (iminLane x y, 0#6)
  | 4 => (maxKey x y, 0#6)
  | 5 => (minKey x y, 0#6)
  | 6 => (x &&& y, 0#6)
  | _ => (x ||| y, 0#6)

/-- An operation on 64 bits, in the ACCESS role (R185). -/
def xop64 (op : Nat) (x y : DWord) : DWord :=
  match op with
  | 0 => x + y
  | 2 => if x.toInt < y.toInt then y else x
  | 3 => if y.toInt < x.toInt then y else x
  | 6 => x &&& y
  | _ => x ||| y

/-- Combines two values of a team's role. -/
def combine (access : Bool) (op : Nat) (x y : Part) : Part :=
  if access then (xop64 op x.1 y.1, x.2 ||| y.2)
  else
    let r := xop32 op (x.1.truncate 32) (y.1.truncate 32)
    (r.1.zeroExtend 64, x.2 ||| y.2 ||| r.2)

/-- The empty result of an operation (R185). -/
def emptyOf (access : Bool) (op : Nat) : DWord :=
  match op with
  | 2 => if access then 0x8000000000000000#64 else 0x80000000#64
  | 3 => if access then 0x7FFFFFFFFFFFFFFF#64 else 0x7FFFFFFF#64
  | 4 => 0xFFFFFFFF#64
  | 5 => 0x7FFFFFFF#64
  | 6 => if access then BitVec.allOnes 64 else 0xFFFFFFFF#64
  | _ => 0

/-- One level of Tree (R186): positions 2i and 2i + 1 combine, an absent one passes its partner up. -/
def pairUp {α : Type} (f : α → α → α) : List (Option α) → List (Option α)
  | some a :: some b :: r => some (f a b) :: pairUp f r
  | some a :: none :: r => some a :: pairUp f r
  | none :: b :: r => b :: pairUp f r
  | [a] => [a]
  | [] => []

/-- Tree over at most 2^n positions (R186). -/
def treeOf {α : Type} (f : α → α → α) : Nat → List (Option α) → Option α
  | 0, l => l.head?.bind id
  | n + 1, l => treeOf f n (pairUp f l)

/-- The positions of one span: the running lanes' values. -/
def Team.spanParts (t : Team) (a : RegField) (base : Nat) : List (Option Part) :=
  (List.range 32).map fun j =>
    if (t.lanes[base + j]?.map Lane.running).getD false then some (t.reg a (base + j), 0#6) else none

/-- SRED of one span; none where no lane runs. -/
def Team.spanTree (t : Team) (a : RegField) (op base : Nat) : Option Part :=
  treeOf (combine (t.role == .access) op) 5 (t.spanParts a base)

/-- TRED: the span results combined by span number. -/
def Team.teamTree (t : Team) (a : RegField) (op : Nat) : Option Part :=
  treeOf (combine (t.role == .access) op) 5 ((List.range 32).map fun j => t.spanTree a op (32 * j))

/-- SSCAN of a span in ascending lane order: each running lane with its value. -/
def scanLanes (access : Bool) (op : Nat) (excl : Bool) : List (Nat × Part) → Option Part → List (Nat × Part)
  | [], _ => []
  | (l, v) :: r, acc =>
    let next := match acc with
      | some a => combine access op a v
      | none => v
    let out := if excl then acc.getD (emptyOf access op, 0#6) else next
    (l, out) :: scanLanes access op excl r (some next)

/-! ### Results that return later -/

/-- A result of every running lane that returns later (R166), with flags of the whole instruction. -/
def Iss.pend64 (x : Iss) (d : RegField) (flags : Flags) (f : Nat → DWord) : Act :=
  let vals := x.t.run.map fun l => (l, f l)
  x.okTeam (x.t.addPend [{ dst := d, vals := vals, flags := flags }])

/-- The result and flags of a reduction for each running lane. -/
def Iss.pendParts (x : Iss) (d : RegField) (parts : List (Nat × Part)) : Act :=
  let vals := parts.map fun p => (p.1, p.2.1)
  x.okTeam (x.t.addPend [{ dst := d, vals := vals, flags := orAll (parts.map fun p => p.2.2) }])

/-! ### Member masks (R184) -/

/-- A running lane is not named by the mask: MEMBER at step 8 of R57. -/
def Team.maskOmits (t : Team) (m : Word) : Bool := t.run.any fun l => !m.getLsbD (l % 32)

/-- A named lane that has exited sets MASKX. -/
def Team.maskFlags (t : Team) (m : Word) : Flags :=
  if (List.range t.lanes.length).any fun l => m.getLsbD (l % 32) && (t.lanes[l]?.map (·.exited)).getD false then flagMASKX
  else 0#6

/-- Bit `j` of a lane's span for each present member that satisfies a test. -/
def Team.spanBits (t : Team) (m : Word) (l : Nat) (p : Nat → Bool) : DWord :=
  let n := (List.range 32).foldl (fun acc j =>
    let k := spanBase l + j
    if m.getLsbD j && (t.lanes[k]?.map (fun x => !x.exited)).getD false && p k then acc + 2 ^ j else acc) 0
  BitVec.ofNat 64 n

/-- QXCH (R186). -/
def execQxch (d a m : RegField) (s : State) : Host.Outcome State Fault Refusal :=
  issue (.qxch d a m) s fun x => x.pend64 d 0#6 fun l => x.t.val a (l ^^^ (m.toNat + 1))

/-- QBC (R186). -/
def execQbc (d a k : RegField) (s : State) : Host.Outcome State Fault Refusal :=
  issue (.qbc d a k) s fun x => x.pend64 d 0#6 fun l => x.t.val a (l / 4 * 4 + k.toNat)

/-- SHFL (R186). -/
def execShfl (d a b : RegField) (s : State) : Host.Outcome State Fault Refusal :=
  issue (.shfl d a b) s fun x => x.pend64 d 0#6 fun l => x.t.val a (x.t.reg b l).toNat

/-- SHFL.DN (R186): the lane's own value where the source lies outside its span. -/
def execShflDn (d a : RegField) (o : BitVec 5) (s : State) : Host.Outcome State Fault Refusal :=
  issue (.shflDn d a o) s fun x =>
    x.pend64 d 0#6 fun l =>
      if spanBase (l + o.toNat) = spanBase l then x.t.val a (l + o.toNat) else x.t.reg a l

/-- SHFL.UP (R186). -/
def execShflUp (d a : RegField) (o : BitVec 5) (s : State) : Host.Outcome State Fault Refusal :=
  issue (.shflUp d a o) s fun x =>
    x.pend64 d 0#6 fun l =>
      if o.toNat ≤ l ∧ spanBase (l - o.toNat) = spanBase l then x.t.val a (l - o.toNat) else x.t.reg a l

/-- SHFL.XOR (R186): an offset below 32 never leaves the span. -/
def execShflXor (d a : RegField) (o : BitVec 5) (s : State) : Host.Outcome State Fault Refusal :=
  issue (.shflXor d a o) s fun x => x.pend64 d 0#6 fun l => x.t.val a (l ^^^ o.toNat)

/-- SRED (R186). -/
def execSred (d a : RegField) (o : BitVec 3) (s : State) : Host.Outcome State Fault Refusal :=
  issue (.sred d a o) s fun x =>
    let e : Part := (emptyOf (x.t.role == .access) o.toNat, 0#6)
    x.pendParts d (x.t.run.map fun l => (l, (x.t.spanTree a o.toNat (spanBase l)).getD e))

/-- SSCAN (R186). -/
def execSscan (d a : RegField) (e : BitVec 1) (o : BitVec 3) (s : State) : Host.Outcome State Fault Refusal :=
  issue (.sscan d a e o) s fun x =>
    x.pendParts d ((List.range 32).flatMap fun j =>
      scanLanes (x.t.role == .access) o.toNat (e == 1)
        ((x.t.run.filter fun l => l / 32 == j).map fun l => (l, (x.t.reg a l, 0#6))) none)

/-- VOTE (R184, R186). -/
def execVote (d p b : RegField) (s : State) : Host.Outcome State Fault Refusal :=
  issue (.vote d p b) s fun x =>
    let m := x.t.sreg b
    if x.t.maskOmits m then x.trapWord trapMember
    else x.pend64 d (x.t.maskFlags m) fun l => x.t.spanBits m l fun k => x.t.pred p.toNat k

/-- TRED (R186). -/
def execTred (d a : RegField) (o : BitVec 3) (s : State) : Host.Outcome State Fault Refusal :=
  issue (.tred d a o) s fun x =>
    let v := (x.t.teamTree a o.toNat).getD (emptyOf (x.t.role == .access) o.toNat, 0#6)
    x.pendParts d (x.t.run.map fun l => (l, v))

/-- TBC (R186). -/
def execTbc (d a b : RegField) (s : State) : Host.Outcome State Fault Refusal :=
  issue (.tbc d a b) s fun x => x.pend64 d 0#6 fun _ => x.t.val a (x.t.sreg b).toNat

/-- MATCH (R184, R186): bitwise equality. -/
def execMatchx (d a b : RegField) (s : State) : Host.Outcome State Fault Refusal :=
  issue (.matchx d a b) s fun x =>
    let m := x.t.sreg b
    if x.t.maskOmits m then x.trapWord trapMember
    else x.pend64 d (x.t.maskFlags m) fun l => x.t.spanBits m l fun k => x.t.reg a k == x.t.reg a l

end Sys2Proof.Machine
end

