-- ==== Sys2Proof/Machine/Tvec.lean ====
section
/-!
DEFINITION. The TVEC instructions (R346 to R351): linear forms on stored elements, activations, row normalisation, softmax and
conversion.
-/

namespace Sys2Proof.Machine

/-! ### Linear forms (R348) -/

/-- Two detail rows, an absent one reading as +0; absent where both are. -/
def joinDet (cols : Nat) (f : Word → Word → Word × Flags) (x y : Option FRow) : Option FRow × Flags :=
  if x.isNone && y.isNone then (none, 0#6)
  else
    let q := zipRow f (x.getD (List.replicate cols 0#32)) (y.getD (List.replicate cols 0#32))
    (some q.1, q.2)

/-- Combines two tiles of one domain, element by element, with the union of their significance. -/
def Coefs.join (x y : Coefs) (cols : Nat) (f : Word → Word → Word × Flags) : Coefs :=
  let a := x.a.zipWith (zipRow f) y.a
  let det := x.det.zipWith (fun r q => r.zipWith (joinDet cols f) q) y.det
  { a := a.map (·.1), det := det.map fun rows => rows.map (·.1),
    flags := x.flags ||| y.flags ||| orAll (a.map (·.2)) ||| orAll (det.flatMap fun rows => rows.map (·.2)) }

/-- Applies an operation to every stored element. -/
def Coefs.map (x : Coefs) (f : Word → Word × Flags) : Coefs :=
  let a := x.a.map (mapRow f)
  let det := x.det.map fun rows => rows.map fun r => r.map (mapRow f)
  { a := a.map (·.1), det := det.map fun rows => rows.map fun r => r.map (·.1),
    flags := x.flags ||| orAll (a.map (·.2)) ||| orAll (det.flatMap fun rows => rows.filterMap fun r => r.map (·.2)) }

/-- The formats and shapes of a linear form with the given further tiles; a Haar result needs R330. -/
def linearBad (hd ha : Hdr) (others : List Hdr) : Bool :=
  !isSrcFmt ha || !isDstFmt hd || !sameShape hd ha || others.any (fun h => !isSrcFmt h || !sameShape h ha) ||
    (ha.isHaar && !hd.haarCapable ha.dom)

/-- TVADD and TVSUB (R348). -/
def Iss.tvBinary (x : Iss) (d a b : RegField) (f : Word → Word → Word × Flags) : Act :=
  let hd := hdrAt x.g x.t d.toNat
  let ha := hdrAt x.g x.t a.toNat
  let hb := hdrAt x.g x.t b.toNat
  let u : TileUse :=
    { handles := [d.toNat, a.toNat, b.toNat], srcs := [ha, hb], dst := hd, fmtBad := linearBad hd ha [hb],
      domBad := ha.dom != hb.dom }
  x.tileOp u fun _ => x.g.putResult hd (plainStore hd x.sat) ((x.g.coefs ha).join (x.g.coefs hb) ha.cols f) none

/-- TVADD (R348). -/
def execTvadd (d a b : RegField) (s : State) : Host.Outcome State Fault Refusal :=
  issueTile (.tvadd d a b) s fun x => x.tvBinary d a b addNE

/-- TVSUB (R348). -/
def execTvsub (d a b : RegField) (s : State) : Host.Outcome State Fault Refusal :=
  issueTile (.tvsub d a b) s fun x => x.tvBinary d a b subNE

/-- TVMULC (R348). -/
def execTvmulc (d a b : RegField) (s : State) : Host.Outcome State Fault Refusal :=
  issueTile (.tvmulc d a b) s fun x =>
    let hd := hdrAt x.g x.t d.toNat
    let ha := hdrAt x.g x.t a.toNat
    let u : TileUse :=
      { handles := [d.toNat, a.toNat], srcs := [ha], dst := hd, fmtBad := linearBad hd ha [], domBad := false }
    x.tileOp u fun _ =>
      x.g.putResult hd (plainStore hd x.sat) ((x.g.coefs ha).map fun v => mulNE v (x.t.sreg b)) none

/-- Round(x × s + y), one rounding. Its operands in the order of R26: the tile's element, sB, the old tD. -/
def axpyNE (sb x y : Word) : Word × Flags := patWord (fmaBits .fp32 rneRounding x.toNat sb.toNat y.toNat)

/-- TVAXPY (R348): the old tD is a source. -/
def execTvaxpy (d a b : RegField) (s : State) : Host.Outcome State Fault Refusal :=
  issueTile (.tvaxpy d a b) s fun x =>
    let hd := hdrAt x.g x.t d.toNat
    let ha := hdrAt x.g x.t a.toNat
    let u : TileUse :=
      { handles := [d.toNat, a.toNat], srcs := [ha, hd], dst := hd, fmtBad := linearBad hd ha [],
        domBad := ha.dom != hd.dom }
    x.tileOp u fun _ =>
      x.g.putResult hd (plainStore hd x.sat) ((x.g.coefs ha).join (x.g.coefs hd) ha.cols (axpyNE (x.t.sreg b))) none

/-- TVBIAS (R348): the bias reaches SPATIAL rows and the a_L rows alone. -/
def execTvbias (d a b : RegField) (s : State) : Host.Outcome State Fault Refusal :=
  issueTile (.tvbias d a b) s fun x =>
    let hd := hdrAt x.g x.t d.toNat
    let ha := hdrAt x.g x.t a.toNat
    let hb := hdrAt x.g x.t b.toNat
    let u : TileUse :=
      { handles := [d.toNat, a.toNat, b.toNat], srcs := [ha, hb], dst := hd,
        fmtBad := linearBad hd ha [] || !isSrcFmt hb || hb.rows != 1 || hb.cols != ha.cols, domBad := hb.dom != 0 }
    x.tileOp u fun _ =>
      let c := x.g.coefs ha
      let bias := x.g.srcRow hb hb.doff
      let rows := c.a.map fun r => zipRow addNE r bias.1
      x.g.putResult hd (plainStore hd x.sat)
        { c with a := rows.map (·.1), flags := c.flags ||| bias.2 ||| orAll (rows.map (·.2)) } none

/-- TVCVT (R347): Round(x × SCALE(tD), F, RNE). -/
def execTvcvt (d a : RegField) (s : State) : Host.Outcome State Fault Refusal :=
  issueTile (.tvcvt d a) s fun x =>
    let hd := hdrAt x.g x.t d.toNat
    let ha := hdrAt x.g x.t a.toNat
    let u : TileUse :=
      { handles := [d.toNat, a.toNat], srcs := [ha], dst := hd, fmtBad := linearBad hd ha [], domBad := false }
    let st : Store := fun _ _ y => convScaled .fp32 (hd.fmt.getD .fp32) { mode := .rne, sat := x.sat, rnd := 0 } hd.scale y.toNat
    x.tileOp u fun _ => x.g.putResult hd st (x.g.coefs ha) none

/-! ### Activations (R349) -/

/-- erf(m × 2^e / √2) for |x| < 16, in units of 2^(-q) with q = p + 256: its series needs 2^185 at the most. -/
def erfRoot2 (p m : Nat) (e : Int) : Int :=
  let w := p + 512
  let x := toFix w m e
  let x2 := mulFix w x x / 2
  let rec go : Nat → Nat → Int → Int → Int
    | 0, _, _, acc => acc
    | fuel + 1, n, term, acc =>
      go fuel (n + 1) (-(mulFix w term x2) / ((n + 1 : Nat) : Int)) (acc + term / ((2 * n + 1 : Nat) : Int))
  let sum := go (w + 200) 0 x 0
  let root : Int := (Nat.sqrt ((piFix w).toNat * 2 ^ w / 2) : Nat)
  toFix (p + 256) (sum * (2 ^ w : Nat) / root) (-(w : Int))

/-- x × (1 + erf(x / √2)) / 2 for x = ±m × 2^e. -/
def geluApprox (p : Nat) (neg : Bool) (m : Nat) (e : Int) : Approx :=
  let q := p + 256
  let one : Int := (2 ^ q : Nat)
  let phi := if neg then one - erfRoot2 p m e else one + erfRoot2 p m e
  ⟨(if neg then -(m : Int) else m) * phi, e - q - 1, slack p + Nat.log2 m + 2⟩

/-- x / (1 + e^−x) for x = ±m × 2^e. -/
def siluApprox (p : Nat) (neg : Bool) (m : Nat) (e : Int) : Approx :=
  let y := sigmoidApprox p neg m e
  ⟨(if neg then -(m : Int) else m) * y.a, y.e + e, y.err + Nat.log2 m + 2⟩

/-- The activations of R349 on a finite operand that is not zero; k is their number. -/
def actFinite (k : Nat) (neg : Bool) (m : Nat) (e : Int) : Nat × Flags :=
  let f := Fmt.fp32
  let r := rneRounding
  let top := (Nat.log2 m : Int) + e
  match k with
  | 1 =>
    if top < -60 then (if neg then justBelow f r true m (e - 1) else justAbove f r false m (e - 1))
    else if 4 ≤ top then (if neg then justAbove f r true 1 (-300) else justBelow f r false m e)
    else roundBy f r (fun p => geluApprox p neg m e) sfuPrecisions
  | 2 =>
    if top < -60 then (if neg then justBelow f r true m (e - 1) else justAbove f r false m (e - 1))
    else if 8 ≤ top then (if neg then justAbove f r true 1 (-300) else justBelow f r false m e)
    else roundBy f r (fun p => siluApprox p neg m e) sfuPrecisions
  | _ =>
    if top < -60 then (if neg then justBelow f r false 1 (-1) else justAbove f r false 1 (-1))
    else if 8 ≤ top then (if neg then justAbove f r false 1 (-300) else justBelow f r false 1 0)
    else roundBy f r (fun p => sigmoidApprox p neg m e) sfuPrecisions

/-- f(x) of R349 on an FP32 pattern. -/
def actBits (k : Nat) (a : Nat) : Nat × Flags :=
  let x := unpackFloat .fp32 a
  match k with
  | 3 => sfuBits .tanh rneRounding a
  | 5 => sfuBits .exp2 rneRounding a
  | _ =>
    match nanRule .fp32 [x], x with
    | some v, _ => v
    | none, .inf neg =>
      if k = 4 then (if neg then 0 else 0x3F800000, 0#6)
      else if k = 0 then (if neg then 0 else a, 0#6)
      else (if neg then 0x80000000 else a, 0#6)
    | none, .fin neg m e =>
      if k = 0 then (if neg || m == 0 then 0 else a, 0#6)
      else if m = 0 then (if k = 4 then 0x3F000000 else a, 0#6)
      else actFinite k neg m e
    | none, .nan _ _ => invalidResult .fp32

/-- A form whose sources are reconstructed and whose result is SPATIAL (R339): `f` gives each row. -/
def Iss.tvRows (x : Iss) (d a : RegField) (f : FRow → FRow × Flags) : Act :=
  let hd := hdrAt x.g x.t d.toNat
  let ha := hdrAt x.g x.t a.toNat
  let u : TileUse :=
    { handles := [d.toNat, a.toNat], srcs := [ha], dst := hd,
      fmtBad := !isSrcFmt ha || !isDstFmt hd || !sameShape hd ha, domBad := false }
  x.tileOp u fun _ =>
    let q := x.g.spatialRows ha
    let rows := q.1.map f
    x.g.putResult hd (plainStore hd x.sat) { a := rows.map (·.1), det := [], flags := q.2 ||| orAll (rows.map (·.2)) } none

/-- TVACT (R349). -/
def execTvact (d a : RegField) (k : BitVec 3) (s : State) : Host.Outcome State Fault Refusal :=
  issueTile (.tvact d a k) s fun x => x.tvRows d a (mapRow fun v => patWord (actBits k.toNat v.toNat))

/-! ### Rows (R350, R351) -/

/-- A quotient of FP32 values rounded once, RNE (R208). -/
def divVal (x y : FVal) : Nat × Flags :=
  match nanRule .fp32 [x, y] with
  | some v => v
  | none =>
    match x, y with
    | .fin n1 m1 e1, .fin n2 m2 e2 =>
      if m2 = 0 then (if m1 = 0 then invalidResult .fp32 else (packInf .fp32 (n1 != n2), 0#6))
      else if m1 = 0 then (signBit .fp32 (n1 != n2), 0#6)
      else
        let q := divSticky m1 m2 (e1 - e2)
        roundTo .fp32 rneRounding (n1 != n2) q.1 q.2
    | .inf n1, .fin n2 _ _ => (packInf .fp32 (n1 != n2), 0#6)
    | .fin n1 _ _, .inf n2 => (signBit .fp32 (n1 != n2), 0#6)
    | _, _ => invalidResult .fp32

/-- RowTree (R350): the pairwise tree of R186 over the positions of a row. -/
def rowTree (f : Word → Word → Word × Flags) (x : FRow) : Word × Flags :=
  (treeOf (fun (a b : Word × Flags) =>
    let q := f a.1 b.1
    (q.1, a.2 ||| b.2 ||| q.2)) 16 (x.map fun v => some (v, 0#6))).getD (0#32, 0#6)

/-- RoundNE(RowTree(x) / COLS). -/
def rowMean (x : FRow) : Word × Flags :=
  let t := rowTree addNE x
  let q := patWord (divVal (unpackFloat .fp32 t.1.toNat) (.fin false x.length 0))
  (q.1, t.2 ||| q.2)

/-- RSQ(RoundNE(v + sB)). -/
def rsqSum (v sb : Word) : Word × Flags :=
  let p := addNE v sb
  let q := patWord (sfuBits .rsq rneRounding p.1.toNat)
  (q.1, p.2 ||| q.2)

/-- The row scaled by the reciprocal root of its mean square plus sB. -/
def rmsRow (sb : Word) (x : FRow) : FRow × Flags :=
  let sq := mapRow (fun v => mulNE v v) x
  let v := rowMean sq.1
  let r := rsqSum v.1 sb
  let y := mapRow (fun c => mulNE c r.1) x
  (y.1, sq.2 ||| v.2 ||| r.2 ||| y.2)

/-- A row less its mean, normalised. -/
def normRow (sb : Word) (x : FRow) : FRow × Flags :=
  let m := rowMean x
  let u := mapRow (fun v => subNE v m.1) x
  let y := rmsRow sb u.1
  (y.1, m.2 ||| u.2 ||| y.2)

/-- TVNORM (R350). -/
def execTvnorm (d a b : RegField) (s : State) : Host.Outcome State Fault Refusal :=
  issueTile (.tvnorm d a b) s fun x => x.tvRows d a (normRow (x.t.sreg b))

/-- TVNORM.RMS (R350). -/
def execTvnormRms (d a b : RegField) (s : State) : Host.Outcome State Fault Refusal :=
  issueTile (.tvnormRms d a b) s fun x => x.tvRows d a (rmsRow (x.t.sreg b))

/-- The base-2 softmax of a row (R351). -/
def smaxRow (sb : Word) (x : FRow) : FRow × Flags :=
  let z := mapRow (fun v => mulNE v sb) x
  let m := rowTree (fun a b => (maxKey a b, 0#6)) z.1
  let d := mapRow (fun v => subNE v m.1) z.1
  let e := mapRow (fun v => patWord (sfuBits .exp2 rneRounding v.toNat)) d.1
  let sum := rowTree addNE e.1
  let y := mapRow (fun v => patWord (divVal (unpackFloat .fp32 v.toNat) (unpackFloat .fp32 sum.1.toNat))) e.1
  (y.1, z.2 ||| d.2 ||| e.2 ||| sum.2 ||| y.2)

/-- TVSMAX (R351). -/
def execTvsmax (d a b : RegField) (s : State) : Host.Outcome State Fault Refusal :=
  issueTile (.tvsmax d a b) s fun x => x.tvRows d a (smaxRow (x.t.sreg b))

end Sys2Proof.Machine
end

