-- ==== Sys2Proof/Machine/Task.lean ====
section
/-!
DEFINITION. Matrix tasks: job cards and their checks at issue (R354 to R360), the order of cards (R361 to R363), engine bindings
(R352), completion (R370, R371), and the TASK instructions (R372 to R376). What a card does once it starts is in
Machine/Matrix.lean.
-/

namespace Sys2Proof.Machine

/-! ### Card fields (R354 to R359) -/

/-- A field of a card. -/
def Card.u (c : Card) (off n : Nat) : Nat := fieldAt c.bytes off n

def Card.kind (c : Card) : Nat := c.u 0 1
def Card.sig (c : Card) : Bool := bitOf (c.u 1 1) 0
def Card.release (c : Card) : Bool := bitOf (c.u 1 1) 1
def Card.lid (c : Card) : Nat := bitsOf (c.u 2 1) 0 4
def Card.bo (c : Card) : Nat := bitsOf (c.u 3 1) 0 5

/-- The bank that a STREAM, DRAIN or ACCEPT names. -/
def Card.bank (c : Card) : Nat := bitsOf (c.u 6 1) 0 1

/-- A footprint region: offset, length, and whether the card writes it (R355). -/
abbrev Region := Nat × Nat × Bool

/-- The regions of a card's bytes. -/
def regionsOf (bs : List Byte) : List Region :=
  (List.range 4).map fun i =>
    (fieldAt bs (0x20 + 8 * i) 4, bitsOf (fieldAt bs (0x24 + 8 * i) 4) 0 31, bitOf (fieldAt bs (0x24 + 8 * i) 4) 31)

/-- A well-formed region (R355). -/
def regionOk (padSize : Nat) (r : Region) : Bool := if r.2.1 = 0 then !r.2.2 else decide (r.1 + r.2.1 ≤ padSize)

/-- Two regions overlap. -/
def regionsMeet (a b : Region) : Bool := decide (0 < a.2.1 ∧ 0 < b.2.1 ∧ a.1 < b.1 + b.2.1 ∧ b.1 < a.1 + a.2.1)

/-- The footprint rule (R263): a later card waits where either writes what both touch. -/
def footprintsClash (a b : Card) : Bool :=
  (regionsOf a.bytes).any fun r => (regionsOf b.bytes).any fun q => regionsMeet r q && (r.2.2 || q.2.2)

/-! ### Validation at issue (R360) -/

/-- Every byte from an offset on, `n` of them, is zero. -/
def zeroAt (bs : List Byte) (off n : Nat) : Bool := fieldAt bs off n == 0

/-- The formats a LATCH may name. -/
def latchFmtOk (f : Option Fmt) (codes : Bool) : Bool :=
  match f with
  | some .e4m3 => true
  | some .e5m2 => true
  | some .cb4 => true
  | some .bf16 => true
  | some .fp16 => true
  | some .int8 => !codes
  | _ => false

/-- The combinations of a STREAM's format with its LID's (R360); `codes` are A's block codes. -/
def streamPairOk (a b : Fmt) (codes : Bool) : Bool :=
  match a with
  | .e4m3 => b == .e4m3 || b == .e5m2 || b == .cb4
  | .e5m2 => b == .e4m3 || b == .e5m2 || b == .cb4
  | .bf16 => b == .bf16 || b == .fp16
  | .fp16 => b == .bf16 || b == .fp16
  | .int8 => b == .int8 && !codes
  | _ => false

/-- FD of a DRAIN for a bank type (R360). -/
def drainFmtOk (int32 : Bool) (f : Fmt) : Bool :=
  if int32 then f == .int32 || f == .int8
  else f == .fp32 || f == .bf16 || f == .fp16 || f == .e5m2 || f == .e4m3

/-- A LATCH card (R356). -/
def latchOk (bs : List Byte) : Bool :=
  let u := fieldAt bs
  let mode := u 6 1
  let codes := bitOf (u 5 1) 4
  decide (u 4 1 < 16) && decide (u 5 1 < 32) && decide (mode ≤ 2) && u 7 1 == 0 && u 0xA 2 == 0 && zeroAt bs 0x14 12 &&
    latchFmtOk (shapeFmt (bitsOf (u 5 1) 0 4)) codes && (mode != 0 || (u 8 2 == 0 && u 0xC 4 == 0)) &&
    (codes || u 0x10 4 == 0) && (mode != 2 || (u 4 1 == 0 && !codes && u 0x10 4 == 0 && u 0xE 2 == 0))

/-- A STREAM card (R357) against the format of its LID. -/
def streamOk (bs : List Byte) (lidFmt : Option (Fmt × Bool)) : Bool :=
  let u := fieldAt bs
  let codes := bitOf (u 5 1) 4
  let idx := bitOf (u 5 1) 5
  decide (u 4 1 < 16) && decide (u 5 1 < 64) && decide (u 6 1 < 4) && u 7 1 == 0 && zeroAt bs 0x14 12 &&
    decide (u 0xA 2 ≤ 128) && (codes || u 0x10 4 == 0) &&
    (if idx then u 8 2 == 0 && u 0xA 2 != 0 && u 0xC 4 % 2 == 0 else u 0xC 4 == 0) &&
    match shapeFmt (bitsOf (u 5 1) 0 4), lidFmt with
    | some a, some b => streamPairOk a b.1 codes
    | _, _ => false

/-- A DRAIN card (R358). -/
def drainOk (bs : List Byte) (global : Bool) : Bool :=
  let u := fieldAt bs
  let fd := u 5 1
  let ops := u 6 1
  let dest := u 7 1
  let flags := u 1 1
  let codes := bitOf fd 5
  let drop := bitOf ops 2
  let sr := bitOf flags 2
  let fmt := shapeFmt (bitsOf fd 0 4)
  decide (u 4 1 < 16) && decide (fd < 128) && decide (ops < 8) && decide (dest ≤ 2) && u 0xD 1 == 0 &&
    decide (1 ≤ u 8 2 ∧ u 8 2 ≤ 128 ∧ 1 ≤ u 0xA 2 ∧ u 0xA 2 ≤ 256) && decide (u 0xC 1 < 16) &&
    (bitOf ops 1 || u 0xC 1 == 0) && (codes || !bitOf fd 6) && (dest == 1 || u 0xE 2 == 0) &&
    (fmt.any fun f => drainFmtOk false f || drainFmtOk true f) && (!bitOf flags 4 || dest == 2) &&
    (!codes || fmt == some .e5m2 || fmt == some .e4m3) &&
    (match dest with
      | 0 => u 0x14 4 == 0 && (codes || u 0x10 4 == 0) && (drop || sr || zeroAt bs 0x18 8)
      | 1 => u 4 1 == 0 && (fmt == some .fp32 || fmt == some .int32) && !bitOf fd 4 && !drop && !sr && !codes &&
          zeroAt bs 0x12 6 && zeroAt bs 0x18 8
      | _ => u 4 1 == 0 && !bitOf fd 4 && !drop && !codes && global)

/-- An ACCEPT card (R359). -/
def acceptOk (bs : List Byte) : Bool :=
  let u := fieldAt bs
  let n := u 7 1
  u 4 2 == 0 && decide (u 6 1 < 4) && decide (1 ≤ n ∧ n ≤ 8) && decide (1 ≤ u 0xA 2 ∧ u 0xA 2 ≤ 128) &&
    decide (1 ≤ u 0xC 2 ∧ u 0xC 2 ≤ 256) && u 0xE 2 == 0 && zeroAt bs (0x10 + 2 * n) (16 - 2 * n)

/-- DRAINs to global memory are allowed: start-up self-test, test mode, Hamada mode (R360, R425, R427). -/
def State.globalDrains (s : State) (part : Nat) : Bool :=
  s.dev.boot.step != 6 || s.dev.mode == .hamada || ((s.part? part).map fun p => p.testMode).getD false

/-- The engine that a group's latch id is bound to. -/
def State.engineOf (s : State) (g : Group) (lid : Nat) : Option (Nat × Engine) :=
  match s.core? g.core with
  | none => none
  | some k =>
    match k.engines.findIdx? fun e => e.boundTo == some (g.uid, lid) with
    | none => none
    | some i => (k.engines[i]?).map fun e => (i, e)

/-- A card that passes R360. -/
def State.cardOk (s : State) (g : Group) (bs : List Byte) : Bool :=
  let u := fieldAt bs
  let kind := u 0 1
  let flags := u 1 1
  let lid := u 2 1
  let lidFmt := g.lidFmts.getD lid none
  decide (1 ≤ kind ∧ kind ≤ 4) && decide (flags < 32) && decide (lid < 16) && decide (u 3 1 < 32) &&
    (kind == 3 || bitsOf flags 2 3 == 0) && (regionsOf bs).all (regionOk g.padSize) &&
    (kind == 1 || lidFmt.isSome || (s.engineOf g lid).isSome) &&
    match kind with
    | 1 => latchOk bs
    | 2 => streamOk bs lidFmt
    | 3 => drainOk bs (s.globalDrains g.part)
    | _ => acceptOk bs

/-! ### The order of work (R361 to R363) -/

/-- Changes a card of a group. -/
def Group.modCard (g : Group) (task : BitVec 16) (f : Card → Card) : Group :=
  { g with cards := modWhere g.cards (fun c => c.task == task) f }

/-- Two cards of one LID share the latch or a bank. -/
def shareResource (a b : Card) : Bool :=
  (decide (a.kind ≤ 2) && decide (b.kind ≤ 2)) || (decide (2 ≤ a.kind) && decide (2 ≤ b.kind) && a.bank == b.bank)

/-- An earlier card does not keep a card from starting. -/
def letsStart (c e : Card) : Bool :=
  decide (c.age ≤ e.age) || (!footprintsClash e c && (e.lid != c.lid || (e.state != .queued && !shareResource e c)))

/-- An engine of a core is bound to no group. -/
def State.engineFree (s : State) (core : Nat) : Bool := (s.core? core).any fun k => k.engines.any fun e => e.boundTo.isNone

/-- A queued card is ready (R362). -/
def State.cardReady (s : State) (g : Group) (c : Card) : Bool :=
  c.state == .queued && g.cards.all (letsStart c) &&
    (c.kind != 1 || (s.engineOf g c.lid).isSome || s.engineFree g.core)

/-- Changes the engine of a core. -/
def State.modEngine (s : State) (core e : Nat) (f : Engine → Engine) : State :=
  s.modCore core fun k => { k with engines := modAt k.engines e f }

/-- Binds a LID to the lowest free engine (R352). -/
def State.bindEngine (s : State) (g : Group) (lid : Nat) : State :=
  match (s.core? g.core).bind fun k => k.engines.findIdx? fun e => e.boundTo.isNone with
  | some i => s.modEngine g.core i fun _ => { engineReset with boundTo := some (g.uid, lid) }
  | none => s

/-! ### Completion (R370, R371) -/

/-- Bits of the task status (R370). -/
def taskBounds : Word := 0x100#32
def taskDomain : Word := 0x200#32
def taskFormat : Word := 0x400#32
def taskFootprint : Word := 0x800#32
def taskShape : Word := 0x1000#32
def taskCancelled : Word := 0x2000#32
def taskSkip : Word := 0x4000#32
def taskFuture : Word := 0x8000#32

/-- The arithmetic flags of a task, in their ASTAT places. -/
def taskFlags (f : Flags) : Word := (f &&& 0x1F#6).zeroExtend 32

/-- The format that a LID keeps once its binding has ended: that of a LATCH card that has not run yet (R360). -/
def Group.releaseLid (g : Group) (lid : Nat) : Group :=
  if g.cards.any fun c => c.kind == 1 && c.lid == lid && c.state != .running then g
  else { g with lidFmts := g.lidFmts.set lid none }

/-- A card is COMPLETE (R361): its status is ORed into TSTAT, its object is signalled, its slot is freed; a card that has run with
RELEASE ends its binding, where its LID has one (R352). -/
def State.completeCard (s : State) (uid : Nat) (c : Card) (status : Word) (ran : Bool) : State :=
  let s := s.modGroup uid fun g => { g with tstat := g.tstat ||| status, cards := g.cards.filter fun x => x.task != c.task }
  let s := if c.sig then s.modGroup uid fun g => g.modObj c.bo fun o => { o with arr := o.arr + 1 } else s
  let s :=
    match s.group? uid with
    | none => s
    | some g =>
      if ran && c.release then
        match s.engineOf g c.lid with
        | some (i, _) => (s.modEngine g.core i fun _ => engineReset).modGroup uid fun g => g.releaseLid c.lid
        | none => s
      else s
  s.carveTry.moved

/-- CARD_COMPLETE for a card whose work is done; a card that drains to global memory completes by
Machine/Matrix.lean. -/
def State.finishCard (s : State) (uid : Nat) (c : Card) : State := s.completeCard uid c c.status true

/-! ### The TASK instructions (R372 to R376) -/

/-- Card slots that a core's groups hold. -/
def State.cardsOn (s : State) (core : Nat) : Nat :=
  ((s.groups.filter fun g => g.core == core && g.resident).map fun g => g.cards.length).sum

/-- The handle entries a card names (R373): its tile and, of a DRAIN, its residual. -/
def capturedHandles (g : Group) (t : Team) (bs : List Byte) : Option Nat × Option Nat :=
  let h := fun n => (handlesOf g t).getD n none
  (h (bitsOf (fieldAt bs 4 1) 0 4), if fieldAt bs 0 1 = 3 then h (bitsOf (fieldAt bs 0xC 1) 0 4) else none)

/-- A new card. -/
def cardOf (x : Iss) (bs : List Byte) : Card :=
  let hs := capturedHandles x.g x.t bs
  { task := x.g.nextTask, age := x.s.nextSeq, owner := x.t.tid, bytes := bs, handleA := hs.1, handleB := hs.2,
    dropseed := x.t.dropseed, dropp := x.t.dropp, dropscl := x.t.dropscl, state := .queued, served := 0, status := 0 }

/-- A group with a card queued: it counts, and a LATCH gives its LID's format. -/
def Group.queueCard (g : Group) (c : Card) : Group :=
  { g with
    cards := g.cards ++ [c], nextTask := g.nextTask + 1
    lidFmts := if c.kind = 1 then g.lidFmts.set c.lid ((shapeFmt (bitsOf (c.u 5 1) 0 4)).map fun f => (f, bitOf (c.u 5 1) 4))
      else g.lidFmts }

/-- MTASK (R373). -/
def execMtask (d a : RegField) (s : State) : Host.Outcome State Fault Refusal :=
  issue (.mtask d a) s fun x =>
    let off := (x.t.sreg a).toNat
    if x.t.idle then .ok x.s
    else if off % 64 ≠ 0 ∨ x.g.padSize < off + 64 then .trap trapBounds (BitVec.ofNat 64 off)
    else
      let v := x.padView
      let bs := memReadN v.1.pad off 64
      if !x.s.cardOk x.g bs then x.trapWord trapFormat
      else if 64 ≤ x.s.cardsOn x.g.core then .hold x.s
      else
        let s := { x.s with nextSeq := x.s.nextSeq + 1 }
        let s := s.modGroup x.r.uid fun g => g.queueCard (cardOf x bs)
        .ok (s.modTeam x.r fun t => { t.putS d (x.g.nextTask.zeroExtend 32) with padSeen := v.2 ++ t.padSeen })

/-- A task id has been given (R374). -/
def Group.given (g : Group) (i : BitVec 16) : Bool :=
  let d := (g.nextTask - i).toNat
  decide (1 ≤ d ∧ d ≤ 32767)

/-- A card the group holds. -/
def Group.card? (g : Group) (i : BitVec 16) : Option Card := g.cards.find? fun c => c.task == i

/-- The task id in an s register. -/
def Iss.taskId (x : Iss) (a : RegField) : BitVec 16 := (x.t.sreg a).extractLsb' 0 16

/-- MWAIT (R374): an acquire of the task's writes (R264). -/
def execMwait (d a : RegField) (s : State) : Host.Outcome State Fault Refusal :=
  issue (.mwait d a) s fun x =>
    let i := x.taskId a
    if !x.g.given i then x.okTeam (x.t.putS d (x.g.tstat ||| taskFuture))
    else if (x.g.card? i).isSome then .hold x.s
    else
      .ok ((x.s.modTeam x.r fun t => (t.putS d x.g.tstat).orFlags ((x.g.tstat.truncate 6) &&& 0x1F#6)).acquire x.r)

/-- The counts of MSTAT (R375). -/
def State.taskCounts (s : State) (g : Group) : Word :=
  let queued := (g.cards.filter fun c => c.state == .queued).length
  let bound := match s.core? g.core with
    | some k => (k.engines.filter fun e => e.boundTo.any fun b => b.1 == g.uid).length
    | none => 0
  BitVec.ofNat 32 ((64 - s.cardsOn g.core) * 2 ^ 24 + queued * 2 ^ 16 + (g.cards.length - queued) * 2 ^ 8 + bound)

/-- The state of a task as MSTAT reports it. -/
def Group.taskState (g : Group) (i : BitVec 16) : Nat :=
  if !g.given i then 3
  else
    match g.card? i with
    | some c => if c.state = .queued then 1 else 2
    | none => 0

/-- MSTAT (R375). -/
def execMstat (d a k : RegField) (s : State) : Host.Outcome State Fault Refusal :=
  issue (.mstat d a k) s fun x =>
    match k.toNat with
    | 0 => x.okTeam (x.t.addPend [pendS d (x.s.taskCounts x.g)])
    | 1 =>
      let s := x.s.modTeam x.r fun t => t.addPend [pendS d x.g.tstat]
      .ok (if x.t.idle then s else s.modGroup x.r.uid fun g => { g with tstat := 0 })
    | _ => x.okTeam (x.t.addPend [pendS d (BitVec.ofNat 32 (x.g.taskState (x.taskId a)))])

/-- MCANCEL (R376): a cancelled card ends no binding. -/
def execMcancel (d a : RegField) (s : State) : Host.Outcome State Fault Refusal :=
  issue (.mcancel d a) s fun x =>
    let i := x.taskId a
    let put := fun (s : State) (w : Word) => s.modTeam x.r fun t => t.putS d w
    if x.t.idle then .ok x.s
    else if !x.g.given i then .ok (put x.s 3)
    else
      match x.g.card? i with
      | some c => if c.state = .queued then .ok (put (x.s.completeCard x.r.uid c taskCancelled false) 0) else .ok (put x.s 1)
      | none => .ok (put x.s 1)

end Sys2Proof.Machine
end

