-- ==== Sys2Proof/Machine/Launch.lean ====
section
/-!
DEFINITION. Launch records (R113), the selector (R116), the distributor: what a group needs, where it fits and how its teams
are bound (R117, R118, R135, R136, R138, R222), and the start of a group (R115, R133).
-/

namespace Sys2Proof.Machine

/-! ### The launch record (R113) -/

/-- Reads a launch record from its 128 bytes. -/
def launchRecOf (bs : List Byte) : LaunchRec :=
  let w := fun o => BitVec.ofNat 32 (fieldAt bs o 4)
  { kind := fieldAt bs 0 1, serial := bitOf (fieldAt bs 1 1) 0, sizePtr := bitOf (fieldAt bs 1 1) 1,
    image := fieldAt bs 2 2, kidx := fieldAt bs 4 1, affinity := fieldAt bs 5 1, strips := fieldAt bs 6 1,
    size := fieldAt bs 8 4, trapvec := w 0xC, sizeVa := fieldAt bs 0x10 8, stackVa := fieldAt bs 0x18 8,
    stackSz := fieldAt bs 0x20 4, args := (List.range 4).map fun i => w (0x28 + 4 * i),
    wth := (List.range 6).map fun i => w (0x38 + 4 * i), dropseed := BitVec.ofNat 64 (fieldAt bs 0x50 8),
    dropp := w 0x58, dropscl := w 0x5C, graphVa := fieldAt bs 0x60 8 }

/-- The kernel that a record names, among the images loaded for its context. -/
def Ctx.kernel? (c : Ctx) (image kidx : Nat) : Option Kernel :=
  (c.images.find? fun i => i.handle == image).bind fun i => i.kernels[kidx]?

/-- Every field of a KIND 1 record is in its range (R113, R117). -/
def kernelRecordOk (s : State) (c : Ctx) (bs : List Byte) : Bool :=
  let r := launchRecOf bs
  bs.length == 128 && r.kind == 1 && fieldAt bs 1 1 / 4 == 0 && (c.kernel? r.image r.kidx).isSome &&
    (r.strips == 0 || s.dev.mode == .one) && zeroAt bs 7 1 && isCodeAddr r.trapvec && (!r.sizePtr || r.sizeVa % 4 == 0) &&
    r.stackSz % 4096 == 0 && zeroAt bs 0x24 4 && r.graphVa == 0 && zeroAt bs 0x68 24

/-- Every field of a KIND 2 record is in its range: KIND, FLAGS[0] and GRAPHVA alone are used (R113). -/
def graphRecordOk (bs : List Byte) : Bool :=
  bs.length == 128 && fieldAt bs 0 1 == 2 && fieldAt bs 1 1 / 2 == 0 && zeroAt bs 2 0x5E && zeroAt bs 0x68 24 &&
    fieldAt bs 0x60 8 % 64 == 0

/-! ### What a group needs (R117, R135, R136, R222) -/

/-- What a group asks of a core: granules, bytes of queue memory, and its teams as index, role and lanes. -/
structure Need where
  granules : Nat
  queue    : Nat
  teams    : List (Nat × Role × Nat)
  deriving DecidableEq, Repr

/-- What stands on a core: granules, bytes of queue memory, ACCESS teams, and lanes and teams of each execute partition. -/
structure Usage where
  granules : Nat
  queue    : Nat
  access   : Nat
  parts    : List (Nat × Nat)
  deriving DecidableEq, Repr

/-- A core with nothing on it. -/
def Usage.empty : Usage := { granules := 0, queue := 0, access := 0, parts := List.replicate 4 (0, 0) }

/-- Granules of a team's register area (R135). -/
def teamGranules (d : TeamDecl) (stackSz : Nat) : Nat :=
  ceilDiv ((if d.role = .access then d.lanes * 512 else d.lanes * d.vregs * 4) + (if stackSz = 0 then 0 else 4096)) granule

/-- The entry width of a queue: the lanes of the lowest team of its producer role (R221). -/
def Kernel.queueWidth (k : Kernel) (q : QueueDecl) : Nat := ((k.teams.find? fun t => t.role == q.producer).map (·.lanes)).getD 0

/-- Bytes of queue memory (R222). -/
def queueBytes (depth width : Nat) (f : Fmt) : Nat := alignUp (depth * (ceilDiv (width * (fmtBits f / 8)) 32 * 32 + 8)) 1024

/-- The teams that a variant creates, with their indices (R116). -/
def Kernel.variantTeams (k : Kernel) (v : SchedDecl) : List (Nat × TeamDecl) :=
  (List.range k.teams.length).filterMap fun i => if bitOf v.mask i then (k.teams[i]?).map fun t => (i, t) else none

/-- Granules of a variant's register areas. -/
def Kernel.regGranules (k : Kernel) (v : SchedDecl) (stackSz : Nat) : Nat :=
  ((k.variantTeams v).map fun p => teamGranules p.2 stackSz).sum

/-- Queue memory of a kernel's groups. -/
def Kernel.queueMemory (k : Kernel) : Nat := (k.queues.map fun q => queueBytes q.depth (k.queueWidth q) q.fmt).sum

/-- What a group of a variant needs. -/
def Kernel.need (k : Kernel) (v : SchedDecl) (stackSz : Nat) : Need :=
  { granules := k.regGranules v stackSz + k.scratch / granule + k.l1 / granule, queue := k.queueMemory,
    teams := (k.variantTeams v).map fun p => (p.1, p.2.role, p.2.lanes) }

/-- What an existing group needs when it is placed again (R99). -/
def Group.need (g : Group) : Need :=
  { granules := g.granules, queue := (g.queues.map fun q => queueBytes q.depth q.width q.fmt).sum,
    teams := g.teams.map fun t => (t.tid, t.role, t.lanes.length) }

/-- Adds a team to the loads of the execute partitions; census responders count their lanes alone (R117, R385). -/
def addTeam (parts : List (Nat × Nat)) (t : Team) : List (Nat × Nat) :=
  if t.role = .access then parts
  else modAt parts t.part fun p => (p.1 + t.lanes.length, p.2 + (if t.responder.isSome then 0 else 1))

/-- What stands on a core. -/
def State.usage (s : State) (core : Nat) : Usage :=
  let gs := s.groups.filter fun g => g.core == core && g.resident
  let teams := gs.flatMap (·.teams)
  { granules := s.coreGranules core, queue := (gs.map fun g => g.need.queue).sum,
    access := (teams.filter fun t => t.role == .access).length, parts := teams.foldl addTeam (List.replicate 4 (0, 0)) }

/-! ### Binding teams (R117) -/

/-- The execute partition for a team: the one of fewest lanes among those with room, the lower on a tie. -/
def choosePart (parts : List (Nat × Nat)) (limit : Nat) : Option Nat :=
  (leastOf ((List.range parts.length).filterMap fun i =>
    let p := parts.getD i (0, 0)
    if p.2 < limit then some (i, p.1) else none)).map (·.1)

/-- Binds teams in ascending order; an ACCESS team goes to the access processor. A responder's index is above 15 and it never
waits for room (R385). -/
def bindTeams : List (Nat × Role × Nat) → List (Nat × Nat) → Option (List (Nat × Nat))
  | [], _ => some []
  | (tid, role, lanes) :: r, parts =>
    if role = .access then (bindTeams r parts).map fun l => (tid, 0) :: l
    else
      match choosePart parts (if tid < 16 then 16 else 1000) with
      | none => none
      | some i =>
        (bindTeams r (modAt parts i fun p => (p.1 + lanes, p.2 + (if tid < 16 then 1 else 0)))).map fun l => (tid, i) :: l

/-- Bytes of queue memory of a core. -/
def queueMemoryBytes : Nat := 524288

/-- The binding of a group's teams where it fits beside what stands on a core; overlays apart (R117). -/
def Usage.bind (u : Usage) (n : Need) : Option (List (Nat × Nat)) :=
  if u.granules + n.granules ≤ 144 ∧ u.queue + n.queue ≤ queueMemoryBytes ∧
      u.access + (n.teams.filter fun t => t.2.1 == .access).length ≤ 16 then bindTeams n.teams u.parts
  else none

/-! ### The selector (R116) -/

/-- The variant of least capacity among those at or above `size`, the lowest index on a tie. -/
def finiteVariant (k : Kernel) (size : Nat) : Option Nat :=
  (leastOf ((List.range k.scheds.length).filterMap fun i =>
    match k.scheds[i]? with
    | some v => if v.capacity ≠ 0 ∧ size ≤ v.capacity then some (i, v.capacity) else none
    | none => none)).map (·.1)

/-- The variant for a size, and the number of groups. -/
def Kernel.select (k : Kernel) (size : Nat) : Option (Nat × Nat) :=
  match finiteVariant k size with
  | some i => (k.scheds[i]?).map fun v => (i, v.groups)
  | none =>
    match k.scheds.findIdx? fun v => v.capacity == 0 with
    | some i => (k.scheds[i]?).map fun v => (i, ceilDiv size v.groups)
    | none => none

/-- The variant's group fits an empty core (R116). -/
def Kernel.fitsEmpty (k : Kernel) (v : SchedDecl) (stackSz : Nat) : Bool := (Usage.empty.bind (k.need v stackSz)).isSome

/-! ### A new group (R115, R138, R139, R330) -/

/-- The code of a format in a tile header (R66). -/
def codeOfFmt (f : Fmt) : Nat :=
  match f with
  | .implied => 0
  | .fp32 => 1
  | .bf16 => 2
  | .fp16 => 3
  | .e5m2 => 4
  | .e4m3 => 5
  | .int8 => 6
  | .int32 => 7
  | .cb4 => 8
  | .e8m0 => 9
  | .b64 => 15

/-- RSTRIDE of a declared tile (R330). -/
def TileDecl.rstride (d : TileDecl) : Nat := alignUp (ceilDiv (d.cols * fmtBits d.fmt) 8) 32

/-- The tiles with the offset of each one's data: after offset 512, in declaration order, on 128-byte boundaries (R138). -/
def placeTiles : Nat → List TileDecl → List (TileDecl × Nat)
  | _, [] => []
  | off, d :: r => (d, off) :: placeTiles (alignUp (off + d.rows * d.rstride) 128) r

/-- The header of a declared tile (R330). -/
def TileDecl.header (d : TileDecl) (doff : Nat) : List Byte :=
  leBytes 4 doff ++ leBytes 2 d.rows ++ leBytes 2 d.cols ++ leBytes 4 d.rstride ++ leBytes 4 0x3F800000 ++ leBytes 4 0 ++
    leBytes 1 (codeOfFmt d.fmt) ++ leBytes 11 0

/-- The scratchpad of a new group: the declared headers, all else unwritten (log entry 2). -/
def Kernel.pad (k : Kernel) : Memory :=
  (placeTiles 512 k.tiles).foldl (fun m p => memWriteN m (32 * p.1.num) (p.1.header p.2)) []

/-- The handle table of a new group (R138, R139). -/
def Kernel.handles (k : Kernel) : List (Option Nat) :=
  (List.range 16).map fun n => if k.tiles.any fun d => d.num == n then some (32 * n) else none

/-- A queue of a new group: OPEN and empty (R225). -/
def Kernel.newQueue (k : Kernel) (q : QueueDecl) : Queue :=
  { num := q.num, fmt := q.fmt, depth := q.depth, width := k.queueWidth q, producer := q.producer, consumer := q.consumer,
    state := .opened, ended := false, entries := [], nextId := 0, inFlight := 0, cancelled := 0, flushed := 0 }

/-- A team of a new group (R115). The reserved bits 31:24 of DROPP read as zero (R8, R108); the record's are ignored (DESIGN CHOICE,
log entry 51). -/
def Launch.newTeam (l : Launch) (c : Ctx) (gid tid : Nat) (d : TeamDecl) (part : Nat) : Team :=
  let r := l.record
  let sbase := BitVec.ofNat 64 (r.stackVa + (gid * 16 + tid) * r.stackSz)
  { teamReset tid d.role d.lanes d.vregs d.entry with
    part := part
    sregs := r.args ++ [BitVec.ofNat 32 l.sizeWord, BitVec.ofNat 32 l.first, BitVec.ofNat 32 l.count] ++ List.replicate 25 0
    slim := sbase + BitVec.ofNat 64 r.stackSz, sbase := sbase, trapvec := r.trapvec, trapmask := c.trapmask &&& 0x3FFFE#32,
    wth := r.wth, dropseed := r.dropseed, dropp := r.dropp &&& 0xFFFFFF#32, dropscl := r.dropscl }

/-- A group of a launch as it is placed on a core (R115, R133, R138). -/
def Launch.newGroup (l : Launch) (c : Ctx) (k : Kernel) (v : SchedDecl) (uid core : Nat) (parts : List (Nat × Nat)) : Group :=
  let partOf := fun tid => ((parts.find? fun p => p.1 == tid).map (·.2)).getD 0
  let teams := (k.variantTeams v).map fun p => l.newTeam c l.placed p.1 p.2 (partOf p.1)
  { groupReset uid l.part l.ctxid l.lid l.placed core l.record.image l.record.kidx teams with
    padSize := k.scratch, pad := k.pad, regGran := k.regGranules v l.record.stackSz, l1Gran := k.l1 / granule,
    stackSz := l.record.stackSz, handles := k.handles, queues := k.queues.map k.newQueue,
    ringNode := if l.count = 0 then none else l.node }

/-! ### Placing (R117, R118) -/

/-- Adds a group on a core and makes the overlays it pins resident or loading; none where one finds no slot. -/
def State.addGroup (s : State) (c : Ctx) (g : Group) : Option State :=
  State.needOverlays c g.core g.pinned { s with groups := s.groups ++ [g] }

/-- Places the next group of a launch on a core, if it fits there. -/
def State.placeOn (s : State) (l : Launch) (core : Nat) : Option State :=
  match s.ctx? l.part l.ctxid with
  | none => none
  | some c =>
    match c.kernel? l.record.image l.record.kidx with
    | none => none
    | some k =>
      match k.scheds[l.variant]? with
      | none => none
      | some v =>
        match (s.usage core).bind (k.need v l.record.stackSz) with
        | none => none
        | some parts => { s with nextUid := s.nextUid + 1 }.addGroup c (l.newGroup c k v s.nextUid core parts)

/-- A core is in service (R429). -/
def State.coreAvail (s : State) (core : Nat) : Bool := (s.core? core).any (·.avail)

/-- The cores that a record names (R117). -/
def State.namedCores (s : State) (l : Launch) : List Nat :=
  (s.coresOf l.part).filter fun c =>
    (l.record.affinity == 0 || bitOf l.record.affinity (c / 4 % 8)) && (l.record.strips == 0 || bitOf l.record.strips (c / 32))

/-- The core of fewest occupied granules among those that a test accepts, the lower on a tie. -/
def State.leastCore (s : State) (ok : Nat → Bool) (cores : List Nat) : Option Nat :=
  (leastOf ((cores.filter fun c => s.coreAvail c && ok c).map fun c => (c, s.coreGranules c))).map (·.1)

/-- The core on which the next group of a launch goes: a named core that it fits, else any (R117). -/
def State.placeFor (s : State) (l : Launch) : Option Nat :=
  let ok := fun c => (s.placeOn l c).isSome
  match s.leastCore ok (s.namedCores l) with
  | some c => some c
  | none => s.leastCore ok (s.coresOf l.part)

/-- An earlier launch of the context has groups still to be placed (R114). -/
def State.placeBlocked (s : State) (l : Launch) : Bool :=
  s.launches.any fun e =>
    e.part == l.part && e.ctxid == l.ctxid && (decide (e.ord < l.ord) || e.ord == l.ord && decide (e.lid < l.lid)) &&
      (e.state == .queued || e.state == .placing)

/-- GROUP_PLACE (R117): the next group of the launch. -/
def execGroupPlace (lid : Nat) (s : State) : Host.Outcome State Fault Refusal :=
  match s.launch? lid with
  | none => .next s
  | some l =>
    if l.state ≠ .placing ∨ s.placeBlocked l = true then .next s
    else
      match (s.placeFor l).bind (s.placeOn l) with
      | none => .next s
      | some s =>
        .next (s.modLaunch lid fun l =>
          { l with placed := l.placed + 1, state := if l.placed + 1 = l.groups then .running else .placing }).moved

/-! ### Starting (R118, R133) -/

/-- Every overlay that the group pins is resident on its core. -/
def State.overlaysReady (s : State) (g : Group) : Bool :=
  match s.ctxOf g, s.core? g.core with
  | some c, some k => g.pinned.all fun o => (k.slotOf? c.asid o.1 o.2).any (·.loaded)
  | _, _ => false

/-- The teams in the order of their new ages: that of their saved ages, and of their indices where they are new (R163). -/
def ageOrder (ts : List Team) : List Nat :=
  let insert := fun (t : Team) (l : List Team) =>
    (l.takeWhile fun x => decide (x.age ≤ t.age)) ++ t :: (l.dropWhile fun x => decide (x.age ≤ t.age))
  (ts.foldl (fun l t => insert t l) []).map (·.tid)

/-- Every team of a group starts or goes on. -/
def Group.start (g : Group) (age clk : Nat) : Group :=
  let order := ageOrder g.teams
  let ended := (g.teams.filter fun t => t.responder.isNone).all (·.finished)
  { g with
    state := if ended then .draining else .running
    ovls := [], qMark := clk
    teams := g.teams.map fun t => { t with started := true, age := age + ((order.findIdx? fun i => i == t.tid).getD 0) } }

/-- GROUP_START (R118, R99): all teams start in one a-clk, each with an acquire; a resumed group's teams act on the answers kept for
them, and a carve that waits no longer completes (R270). -/
def execGroupStart (uid : Nat) (s : State) : Host.Outcome State Fault Refusal :=
  match s.group? uid with
  | none => .next s
  | some g =>
    if g.state ≠ .starting ∨ s.overlaysReady g = false then .next s
    else
      let s := { s.modGroup uid (fun g => g.start s.nextAge s.clk) with nextAge := s.nextAge + g.teams.length }
      let s := g.teams.foldl (fun s t => s.acquire { uid := uid, tid := t.tid }) s
      let s := s.actKept g.part
      .next (g.teams.foldl (fun s t => s.tryReplay { uid := uid, tid := t.tid }) s).carveTry.moved

end Sys2Proof.Machine
end

