-- ==== Sys2Proof/Machine/Translator.lean ====
section
/-!
DEFINITION. The loader's view of code: which words each team reaches and the checks on them (R78, R79), the blocks of a unit
(R81), and the translation of Nuven words to Zilnal words, rule version 1 (R80 to R84), with the native hazard check (R86).
-/

namespace Sys2Proof.Machine

/-! ### Reachability (R78) -/

/-- A word of an image: overlay id and index. -/
abbrev CodePos := Nat × Nat

/-- Overlay id and word index of a code address (R103). -/
def posOf (w : Word) : CodePos := ((w.extractLsb' 16 8).toNat, (w.extractLsb' 2 14).toNat)

/-- The word at a position of a kernel's units. -/
def unitWord (us : List Overlay) (a : CodePos) : Option Word := (us.find? fun u => u.id == a.1).bind fun u => u.words[a.2]?

/-- The index `off` words from an index; none below 0. -/
def indexAt (i : Nat) (off : BitVec 18) : Option Nat :=
  let j := (i : Int) + off.toInt
  if 0 ≤ j then some j.toNat else none

/-- The partner or target that an OFF18 names in the same unit. -/
def offsetPos (a : CodePos) (off : BitVec 18) : List CodePos := ((indexAt a.2 off).map fun j => (a.1, j)).toList

/-- The positions that may follow a word (R78). -/
def codeNext (entries : List Word) (a : CodePos) (w : Word) : List CodePos :=
  let next : CodePos := (a.1, a.2 + 1)
  match decodeWord w with
  | .error _ => []
  | .ok i =>
    match i with
    | .jmp p off => offsetPos a off ++ (if p = 7 then [] else [next])
    | .exitc p => if p = 7 then [] else [next]
    | .retc => []
    | .tret => []
    | .callc off => offsetPos a off ++ [next]
    | .ifc _ off => offsetPos a off ++ [next]
    | .elsec off => offsetPos a off ++ [next]
    | .loopc off => offsetPos a off ++ [next]
    | .endl off => offsetPos a off ++ [next]
    | .hloop _ l => [next, (a.1, a.2 + l.toNat + 2)]
    | .hloops _ l => [next, (a.1, a.2 + l.toNat + 2)]
    | .fcall e => (entries[e.toNat]?).toList.map posOf ++ [next]
    | _ => [next]

/-- Collects what is reached from a list of positions. One that lies in no unit of the kernel reaches no word, and the load goes on
(DESIGN CHOICE, log entry 53). -/
def reachFrom (us : List Overlay) (entries : List Word) : Nat → List CodePos → List CodePos → List CodePos
  | 0, _, seen => seen
  | _, [], seen => seen
  | n + 1, a :: todo, seen =>
    match unitWord us a with
    | none => reachFrom us entries n todo seen
    | some w => if seen.contains a then reachFrom us entries n todo seen
      else reachFrom us entries n (codeNext entries a w ++ todo) (a :: seen)

/-- The words a kernel's units hold. -/
def unitsSize (us : List Overlay) : Nat := (us.map fun u => u.words.length).sum

/-- The words reached from roots: every word is expanded once and has at most two successors. -/
def reached (us : List Overlay) (entries : List Word) (roots : List CodePos) : List CodePos :=
  reachFrom us entries (2 * unitsSize us + roots.length + 1) roots []

/-- What each team of a kernel reaches: first from its entry, then from the labels of its role that no team reaches so
(R78). -/
def Kernel.reaches (k : Kernel) (us : List Overlay) : List (TeamDecl × List CodePos) :=
  let first := k.teams.map fun t => reached us k.entries [posOf t.entry]
  let free := (List.range k.entries.length).filter fun i =>
    !first.any fun r => r.contains (posOf (k.entries.getD i 0))
  k.teams.map fun t =>
    let mine := free.filter fun i => k.entryRoles.getD i .access == t.role
    (t, reached us k.entries (posOf t.entry :: mine.map fun i => posOf (k.entries.getD i 0)))

/-! ### The code checks (R78, R79) -/

/-- A HINT word of the kinds that form a prefix: HINT.IMM, HINT.MOD and HINT.FMT (R61, R62). -/
def isPrefixWord (w : Word) : Bool := fMaj w == 0x3F#6 && (fKind w == 0#3 || fKind w == 2#3 || fKind w == 3#3)

/-- A HINT.STALL word. -/
def isStallWord (w : Word) : Bool := fMaj w == 0x3F#6 && fKind w == 1#3

/-- The prefix of a word as it is met along words that are reached: the HINT words before it. -/
def prefixBefore (us : List Overlay) (r : List CodePos) (ovl : Nat) : Nat → List PrefixWord
  | 0 => []
  | j + 1 =>
    match unitWord us (ovl, j) with
    | none => []
    | some w =>
      if !r.contains (ovl, j) then []
      else if isStallWord w then prefixBefore us r ovl j
      else if isPrefixWord w then prefixBefore us r ovl j ++ [{ pc := 0, word := w }]
      else []

/-- Steps 1 to 5 of R57 for a word that a team reaches. What these steps do not read is no breach: a Q field may name a queue that
the kernel does not declare, which R229 leaves to the issue. A HINT at the end of its unit has no word to prefix and is one: R62
names the end of the overlay slot, and the model takes the unit's (both DESIGN CHOICE, log entry 53). -/
def encodingOk (k : Kernel) (us : List Overlay) (t : TeamDecl) (r : List CodePos) (a : CodePos) : Bool :=
  match unitWord us a with
  | none => true
  | some w =>
    match decodeWord w with
    | .error _ => false
    | .ok i =>
      wordStep4 t.role t.vregs k.entries.length i &&
        (if fMaj w = 0x3F#6 then (unitWord us (a.1, a.2 + 1)).isSome
        else (badHint i [] (prefixBefore us r a.1 a.2)).isNone)

/-- A word is legal in a role (R56). -/
def roleOk (us : List Overlay) (t : TeamDecl) (a : CodePos) : Bool :=
  match (unitWord us a).bind fun w => (decodeWord w).toOption with
  | some i => fMaj ((unitWord us a).getD 0) == 0x3F#6 || instrRoleOk i t.role
  | none => true

/-- The kinds of the prefix words from an index on, up to the instruction word. -/
def kindsFrom (us : List Overlay) (ovl : Nat) : Nat → Nat → List (BitVec 3)
  | 0, _ => []
  | n + 1, j =>
    match unitWord us (ovl, j) with
    | none => []
    | some w =>
      if isPrefixWord w then fKind w :: kindsFrom us ovl n (j + 1)
      else if isStallWord w then kindsFrom us ovl n (j + 1)
      else []

/-- A word of the prefix that holds these kinds stands before an index: one that some team reaches, of another kind, with
nothing but HINT.STALL words in between (R62, R78). -/
def prefixEnds (us : List Overlay) (r : List CodePos) (kinds : List (BitVec 3)) (ovl : Nat) : Nat → Bool
  | 0 => false
  | j + 1 =>
    r.contains (ovl, j) && (unitWord us (ovl, j)).any fun w =>
      (isPrefixWord w && !kinds.contains (fKind w)) || (isStallWord w && prefixEnds us r kinds ovl j)

/-- A position inside a prefix: another word of the same prefix comes before it (R79). `r` is what the teams of the kernel reach;
a word that none reaches is no part of any prefix (R60, R78). -/
def insidePrefix (us : List Overlay) (r : List CodePos) (a : CodePos) : Bool :=
  ((unitWord us a).map isPrefixWord).getD false && prefixEnds us r (kindsFrom us a.1 (unitsSize us) a.2) a.1 a.2

/-- The targets of branches and CALLs at a position. -/
def branchTargets (us : List Overlay) (a : CodePos) : List CodePos :=
  match (unitWord us a).bind fun w => (decodeWord w).toOption with
  | some (.jmp _ off) => offsetPos a off
  | some (.callc off) => offsetPos a off
  | _ => []

/-- The rules of the Nuven profile for a word that is reached (R79). -/
def profileOk (us : List Overlay) (r : List CodePos) (a : CodePos) : Bool :=
  match unitWord us a with
  | none => true
  | some w => !fSw w && !isStallWord w && !(branchTargets us a).any (insidePrefix us r)

/-- The first failure of the code checks of a kernel: 0x08 ENCODING, 0x09 ROLE, 0x0A PROFILE RULE; 0 for none. -/
def Kernel.codeStatus (k : Kernel) (us : List Overlay) (native : Bool) : Nat :=
  let rs := k.reaches us
  if !rs.all fun p => p.2.all (encodingOk k us p.1 p.2) then 0x08
  else if !rs.all fun p => p.2.all (roleOk us p.1) then 0x09
  else if native then 0
  else if !rs.all fun p => decide (p.1.vregs ≤ 96) && p.2.all (profileOk us (rs.flatMap (·.2))) then 0x0A
  else 0

/-! ### Blocks (R81) -/

/-- An instruction of a block: the index of the first word of its prefix, its own index, itself, and whether ACCESS teams alone
reach it. -/
structure Item where
  first  : Nat
  pos    : Nat
  instr  : Instr
  access : Bool
  deriving DecidableEq, Repr

/-- A block: its instructions in order, and whether it begins at a word that continues a prefix. -/
structure Block where
  bare  : Bool
  items : List Item
  deriving DecidableEq, Repr

/-- What a unit's translation looks at: its words, which some team reaches, which begin a block by a label, and which ACCESS teams
alone reach. -/
structure UnitView where
  words  : List Word
  live   : List Bool
  label  : List Bool
  access : List Bool
  deriving DecidableEq, Repr

/-- A word that a team reaches. -/
def UnitView.isLive (u : UnitView) (i : Nat) : Bool := u.live.getD i false

/-- A control word of major 0x02 or 0x03 that is reached. -/
def UnitView.isControl (u : UnitView) (i : Nat) : Bool :=
  let m := fMaj (u.words.getD i 0)
  u.isLive i && (m == 0x02#6 || m == 0x03#6)

/-- A reached prefix word. -/
def UnitView.isPrefix (u : UnitView) (i : Nat) : Bool := u.isLive i && isPrefixWord (u.words.getD i 0)

/-- A reached word begins a block (R81). -/
def UnitView.begins (u : UnitView) (i : Nat) : Bool :=
  u.isLive i && (i == 0 || !u.isLive (i - 1) || u.label.getD i false || u.isControl (i - 1))

/-- Blocks gathered so far: those closed, the open one, and the start of an open prefix. -/
structure Cutting where
  closed : List Block
  cur    : Option Block
  pre    : Option Nat
  deriving DecidableEq, Repr

/-- Closes the open block. -/
def Cutting.close (c : Cutting) : Cutting := { closed := c.closed ++ c.cur.toList, cur := none, pre := none }

/-- Takes in the word at an index. -/
def UnitView.cut (u : UnitView) (c : Cutting) (i : Nat) : Cutting :=
  if !u.isLive i then c.close
  else
    let c := if u.begins i then { c.close with cur := some { bare := 0 < i && u.isPrefix (i - 1), items := [] } } else c
    let w := u.words.getD i 0
    if isPrefixWord w then { c with pre := some (c.pre.getD i) }
    else if isStallWord w then c
    else
      match decodeWord w with
      | .error _ => c
      | .ok x =>
        let item : Item := { first := c.pre.getD i, pos := i, instr := x, access := u.access.getD i false }
        { c with cur := c.cur.map (fun b => { b with items := b.items ++ [item] }), pre := none }

/-- The blocks of a unit, in order. -/
def UnitView.blocks (u : UnitView) : List Block :=
  ((List.range u.words.length).foldl u.cut { closed := [], cur := none, pre := none }).close.closed

/-! ### Switch markers (R81) and the hazard check (R86) -/

/-- Registers outstanding after an instruction, without a marker. -/
def outstandingAfter (out : List Nat) (x : Item) : List Nat :=
  if (instrLatency x.instr).isNone then out ++ instrWrites x.instr x.access else out

/-- The positions of a block's instructions that take SW. -/
def markItems : List Nat → List Item → List Nat
  | _, [] => []
  | out, x :: rest =>
    let out := outstandingAfter out x
    let need := match rest with
      | [] => !out.isEmpty
      | y :: _ => (instrTouches y.instr y.access).any out.contains
    if need then x.pos :: markItems [] rest else markItems out rest

/-- Every position of a unit that takes SW. -/
def UnitView.markers (u : UnitView) : List Nat := u.blocks.flatMap fun b => markItems [] b.items

/-- A block of native code keeps R86: nothing outstanding is read or written before a marker, and nothing stays outstanding
at its end. -/
def nativeBlockOk (u : UnitView) : List Nat → List Item → Bool
  | out, [] => out.isEmpty
  | out, x :: rest =>
    if (instrTouches x.instr x.access).any out.contains then false
    else if fSw (u.words.getD x.pos 0) then nativeBlockOk u [] rest
    else nativeBlockOk u (outstandingAfter out x) rest

/-! ### Issue times and HINT.STALL (R82) -/

/-- The time of an instruction after those before it, newest first, with their times. -/
def issueTime (before : List (Item × Nat)) (x : Item) : Nat :=
  match before with
  | [] => 0
  | (_, tp) :: _ =>
    let srcs := instrReads x.instr
    before.foldl (fun m p =>
      match instrLatency p.1.instr with
      | some l => if (instrWrites p.1.instr p.1.access).any srcs.contains then max m (p.2 + l) else m
      | none => m) (tp + 1)

/-- The instructions of a block with their counts (R82). -/
def blockCounts : List (Item × Nat) → List Item → List (Item × Nat)
  | _, [] => []
  | before, x :: rest =>
    let t := issueTime before x
    let gap := match before with
      | [] => 0
      | (_, tp) :: _ => t - tp
    (x, if 1 < gap then min gap 15 else 0) :: blockCounts ((x, t) :: before) rest

/-- Windows: at most five instructions, ending after a marked one (R82). -/
def windowsOf (marks : List Nat) : List (Item × Nat) → List (Item × Nat) → List (List (Item × Nat))
  | cur, [] => if cur.isEmpty then [] else [cur]
  | cur, x :: rest =>
    let cur := cur ++ [x]
    if cur.length = 5 ∨ marks.contains x.1.pos then cur :: windowsOf marks [] rest else windowsOf marks cur rest

/-- The HINT.STALL word of a window's counts. -/
def stallWord (cs : List Nat) : Word :=
  let c := fun i => BitVec.ofNat 4 (cs.getD i 0)
  wordHint 1#3 (0#2 ++ c 4 ++ c 3 ++ c 2 ++ c 1 ++ c 0)

/-- The HINT.STALL words of a block: before which index, and the word. -/
def Block.stalls (b : Block) (marks : List Nat) : List (Nat × Word) :=
  let ws := windowsOf marks [] (blockCounts [] b.items)
  let all := ws.filterMap fun w =>
    match w with
    | [] => none
    | x :: _ => if w.any fun p => p.2 != 0 then some (x.1.first, stallWord (w.map (·.2))) else none
  match ws.head?.bind List.head? with
  | some x => if b.bare then all.filter fun p => p.1 != x.1.first else all
  | none => all

/-- A reached hardware-loop word: its index and LEN. -/
def UnitView.bodies (u : UnitView) : List (Nat × Nat) :=
  (List.range u.words.length).filterMap fun i =>
    if u.isLive i then
      match decodeWord (u.words.getD i 0) with
      | .ok (.hloop _ l) => some (i, l.toNat + 1)
      | .ok (.hloops _ l) => some (i, l.toNat + 1)
      | _ => none
    else none

/-- The insertion before an index lies in a body (R83). -/
def inBody (b : Nat × Nat) (at_ : Nat) : Bool := decide (b.1 < at_ ∧ at_ ≤ b.1 + b.2)

/-- Takes out what would make a body longer than 256 words, later bodies first (R83). -/
def trimBodies (bodies : List (Nat × Nat)) (ins : List (Nat × Word)) : List (Nat × Word) :=
  bodies.reverse.foldl (fun ins b =>
    if 256 < b.2 + (ins.filter fun p => inBody b p.1).length then ins.filter fun p => !inBody b p.1 else ins) ins

/-- Every HINT.STALL that a unit receives. -/
def UnitView.insertions (u : UnitView) : List (Nat × Word) :=
  trimBodies u.bodies (u.blocks.flatMap fun b => b.stalls u.markers)

/-! ### The output (R80, R83, R84) -/

/-- The new index of a word. -/
def newIndex (ins : List (Nat × Word)) (i : Nat) : Nat := i + (ins.filter fun p => decide (p.1 ≤ i)).length

/-- The new index that a branch to a word goes to: its block's HINT.STALL, if there is one. -/
def targetIndex (ins : List (Nat × Word)) (i : Nat) : Nat := newIndex ins i - (ins.filter fun p => p.1 == i).length

/-- A new OFF18 from one index to another; none outside the field. -/
def offTo (src dst : Int) : Option (BitVec 18) :=
  let d := dst - src
  if -131072 ≤ d ∧ d < 131072 then some (BitVec.ofInt 18 d) else none

/-- The word with its OFF18 recomputed; a target before the unit keeps its distance from the unit's start. -/
def withOffset (ins : List (Nat × Word)) (i : Nat) (w : Word) (partner : Bool) : Option Word :=
  let j := (i : Int) + (fImm18 w).toInt
  let dst : Int := if 0 ≤ j then ((if partner then newIndex ins j.toNat else targetIndex ins j.toNat : Nat) : Int) else j
  (offTo (newIndex ins i) dst).map fun o => (w &&& 0xFFFC0000#32) ||| o.zeroExtend 32

/-- The word with its cross-lane offset resolved: w sixteenths of a span are 2w lanes (R80). -/
def withLanes (w : Word) : Option Word :=
  let lanes := ((fB w).extractLsb' 0 5).toInt * Config.spanW / 16
  if 0 ≤ lanes ∧ lanes < 32 then some ((w &&& 0xFFFFFE0F#32) ||| BitVec.ofNat 32 (lanes.toNat * 16)) else none

/-- The word with its LEN made longer by what its body takes in (R83). -/
def withLen (ins : List (Nat × Word)) (i : Nat) (w : Word) : Word :=
  let len := (w.extractLsb' 0 8).toNat + 1
  w + BitVec.ofNat 32 (ins.filter fun p => inBody (i, len) p.1).length

/-- One reached word translated (R84); none for RANGE. -/
def translateWord (ins : List (Nat × Word)) (marks : List Nat) (i : Nat) (w : Word) : Option Word :=
  let body := match decodeWord w with
    | .ok (.jmp ..) => withOffset ins i w false
    | .ok (.callc _) => withOffset ins i w false
    | .ok (.ifc ..) => withOffset ins i w true
    | .ok (.elsec _) => withOffset ins i w true
    | .ok (.loopc _) => withOffset ins i w true
    | .ok (.endl _) => withOffset ins i w true
    | .ok (.shflDn ..) => withLanes w
    | .ok (.shflUp ..) => withLanes w
    | .ok (.shflXor ..) => withLanes w
    | .ok (.hloop ..) => some (withLen ins i w)
    | .ok (.hloops ..) => some (withLen ins i w)
    | _ => some w
  body.map fun w => if marks.contains i then w ||| 0x80000000#32 else w

/-- The words of a unit with the insertions; none for RANGE. -/
def UnitView.emit (u : UnitView) (ins : List (Nat × Word)) : Option (List Word) :=
  let marks := u.markers
  let parts := (List.range u.words.length).map fun i =>
    let w := u.words.getD i 0
    let out := if u.isLive i then translateWord ins marks i w else some w
    out.map fun w => ((ins.filter fun p => p.1 == i).map (·.2)) ++ [w]
  if parts.all Option.isSome then some ((parts.filterMap id).flatMap id) else none

/-- A translated unit: its words, its insertions, and whether it was translated again without them (R83). -/
structure UnitOut where
  words   : List Word
  ins     : List (Nat × Word)
  dropped : Bool
  deriving DecidableEq, Repr

/-- Translates a unit (R80 to R83). -/
def UnitView.translate (u : UnitView) : Option UnitOut :=
  let ins := u.insertions
  if u.words.length + ins.length ≤ 16384 then (u.emit ins).map fun ws => { words := ws, ins := ins, dropped := false }
  else (u.emit []).map fun ws => { words := ws, ins := [], dropped := true }

/-! ### A kernel's units -/

/-- A unit as its kernel's teams see it. -/
def Kernel.viewOf (k : Kernel) (us : List Overlay) (u : Overlay) : UnitView :=
  let rs := k.reaches us
  let live := fun i => rs.any fun p => p.2.contains (u.id, i)
  let labels := (k.entries ++ k.teams.map (·.entry)).map posOf ++
    rs.flatMap fun p => (p.2.filter fun a => a.1 == u.id).flatMap (branchTargets us)
  { words := u.words, live := (List.range u.words.length).map live
    label := (List.range u.words.length).map fun i => labels.contains (u.id, i)
    access := (List.range u.words.length).map fun i => !rs.any fun p => p.1.role != .access && p.2.contains (u.id, i) }

/-- The hazard check of a native kernel (R86). -/
def Kernel.hazardOk (k : Kernel) (us : List Overlay) : Bool :=
  us.all fun u =>
    let v := k.viewOf us u
    v.blocks.all fun b => nativeBlockOk v [] b.items

/-- The code address that a label names in the output: where a branch to it goes (log entry 26). -/
def newAddr (outs : List (Nat × UnitOut)) (w : Word) : Word :=
  match outs.find? fun p => p.1 == (posOf w).1 with
  | some p => (w &&& 0x00FF0000#32) ||| BitVec.ofNat 32 (4 * targetIndex p.2.ins (posOf w).2)
  | none => w

end Sys2Proof.Machine
end

