-- ==== Sys2Proof/Machine/Loader.lean ====
section
/-!
DEFINITION. The Finio loader: the image container (R74, R75), the kernel rules (R112, R138, R220, R222), the order of checks
(R77), placing the image and its translation record (R87), and the installation of keys (R76).
-/

namespace Sys2Proof.Machine

/-! ### The container (R74, R75) -/

/-- A section of an image. -/
structure Section where
  kind : Nat
  off  : Nat
  len  : Nat
  kidx : Nat
  deriving DecidableEq, Repr

/-- The fields of an image header (R74). -/
structure ImageHeader where
  profile : Nat
  kind    : Nat
  minGen  : Nat
  imgVer  : Nat
  nsec    : Nat
  imgLen  : Nat
  keyId   : Nat
  measure : List Byte
  deriving DecidableEq, Repr

/-- Reads the header. -/
def imageHeader (bs : List Byte) : ImageHeader :=
  { profile := fieldAt bs 4 2, kind := fieldAt bs 6 2, minGen := fieldAt bs 8 4, imgVer := fieldAt bs 0xC 4,
    nsec := fieldAt bs 0x14 4, imgLen := fieldAt bs 0x18 4, keyId := fieldAt bs 0x1C 4, measure := (bs.drop 0x20).take 32 }

/-- The section table. -/
def sectionsOf (bs : List Byte) (n : Nat) : List Section :=
  (List.range n).map fun i =>
    let o := 64 + 16 * i
    { kind := fieldAt bs o 4, off := fieldAt bs (o + 4) 4, len := fieldAt bs (o + 8) 4, kidx := fieldAt bs (o + 12) 4 }

/-- The bytes of a section. -/
def Section.bytes (x : Section) (bs : List Byte) : List Byte := (bs.drop x.off).take x.len

/-- The rules of R75 that one section keeps by itself. -/
def Section.ok (x : Section) (h : ImageHeader) (bs : List Byte) : Bool :=
  x.off % 8 == 0 && decide (64 + 16 * h.nsec ≤ x.off ∧ x.off + x.len ≤ h.imgLen) &&
    match x.kind with
    | 1 => decide (x.kidx < 64)
    | 2 => decide (x.kidx < 64 ∧ 4 ≤ x.len ∧ x.len ≤ 65540) && x.len % 4 == 0 && decide (fieldAt bs x.off 4 < 256)
    | 3 => decide (x.kidx < 64)
    | 4 => x.kidx == 0
    | _ => false

/-- Two sections share no byte. -/
def Section.apart (x y : Section) : Bool :=
  x.len == 0 || y.len == 0 || decide (x.off + x.len ≤ y.off) || decide (y.off + y.len ≤ x.off)

/-- A test holds of every two elements of a list. -/
def allPairs {α : Type} (p : α → α → Bool) : List α → Bool
  | [] => true
  | x :: r => r.all (p x) && allPairs p r

/-- The sections of a type. -/
def ofKind (xs : List Section) (k : Nat) : List Section := xs.filter fun x => x.kind == k

/-- The rules of R75 among the sections: none overlap, each kernel has one record, each overlay id one unit. -/
def sectionsOk (xs : List Section) (bs : List Byte) : Bool :=
  let ks := (ofKind xs 1).map (·.kidx)
  allPairs Section.apart xs && allPairs (fun a b => a != b) ks && (List.range ks.length).all ks.contains &&
    (xs.all fun x => x.kind == 4 || ks.contains x.kidx) &&
    allPairs (fun a b => fieldAt bs a.off 4 != fieldAt bs b.off 4) (ofKind xs 2)

/-- The header and the sections keep the container rules (R74, R75). An IMGLEN beyond the end of the last section is accepted
(DESIGN CHOICE, log entry 53: no rule says what a mismatch answers). -/
def containerOk (bs : List Byte) : Bool :=
  let h := imageHeader bs
  decide (64 ≤ bs.length) && fieldAt bs 0 4 == 0x4E56494D && fieldAt bs 0x10 4 == 0 && decide (h.kind ≤ 1) &&
    decide (1 ≤ h.nsec ∧ h.nsec ≤ 1024 ∧ 64 + 16 * h.nsec ≤ h.imgLen ∧ h.imgLen ≤ bs.length) &&
    (sectionsOf bs h.nsec).all (fun x => x.ok h bs) && sectionsOk (sectionsOf bs h.nsec) bs

/-! ### Kernel records (R112, R116, R136, R138, R220, R222) -/

/-- A format that a queue may carry (R220). -/
def queueFmtOk (q : QueueDecl) : Bool :=
  match q.fmt with
  | .fp32 => true
  | .bf16 => true
  | .fp16 => true
  | .e5m2 => true
  | .e4m3 => true
  | .int8 => true
  | .int32 => true
  | .b64 => q.dir == .loc && q.producer == .access
  | _ => false

/-- A queue's direction agrees with its roles (R220). -/
def queueDirOk (q : QueueDecl) : Bool :=
  let p := q.producer == .access
  let c := q.consumer == .access
  match q.dir with
  | .fwd => p && !c
  | .ret => !p && c
  | .loc => p == c

/-- A queue declaration of a kernel (R112, R220). -/
def queueDeclOk (k : Kernel) (q : QueueDecl) : Bool :=
  decide (q.num < 16 ∧ 2 ≤ q.depth ∧ q.depth ≤ 64) && queueDirOk q && queueFmtOk q &&
    (k.teams.any fun t => t.role == q.producer) && k.teams.any fun t => t.role == q.consumer

/-- A team declaration (R112). -/
def teamDeclOk (native : Bool) (t : TeamDecl) : Bool :=
  decide (4 ≤ t.lanes ∧ t.lanes ≤ 1024) && t.lanes % 4 == 0 && (!native || decide (t.vregs ≤ 96)) && isCodeAddr t.entry

/-- The overlays of the entry labels of a variant's teams. -/
def Kernel.entryOvls (k : Kernel) (v : SchedDecl) : List Nat := ((k.variantTeams v).map fun p => ovlOf p.2.entry).eraseDups

/-- A schedule variant (R112, R116). -/
def schedDeclOk (k : Kernel) (v : SchedDecl) : Bool :=
  v.mask != 0 && decide (v.mask < 2 ^ k.teams.length) && (v.capacity != 0 || v.groups != 0) && k.fitsEmpty v 0 &&
    decide ((k.entryOvls v).length ≤ 4)

/-- A tile declaration: a number, and a format that a tile may have (R66, R330). -/
def tileDeclOk (d : TileDecl) : Bool :=
  decide (d.num < 16 ∧ d.rows < 65536 ∧ d.cols < 65536) && d.fmt != .implied && d.fmt != .b64

/-- Where the last tile's data end (R138). -/
def Kernel.tilesEnd (k : Kernel) : Nat :=
  (placeTiles 512 k.tiles).foldl (fun n p => max n (p.2 + p.1.rows * p.1.rstride)) 0

/-- A kernel record keeps the rules whose breach is CONTAINER (R112, R138, R220, R222). That a size that is no multiple of 16 KiB
(R136), and a tile number declared twice (R138), are such breaches is the model's choice (DEDUCED, log entry 26). -/
def kernelOk (native : Bool) (k : Kernel) : Bool :=
  decide (1 ≤ k.teams.length ∧ k.teams.length ≤ 16) && k.teams.all (teamDeclOk native) &&
    decide (1 ≤ k.scheds.length ∧ k.scheds.length ≤ 8) && k.scheds.all (schedDeclOk k) &&
    decide (k.entries.length ≤ 256) && k.entries.all isCodeAddr && k.entryRoles.length == k.entries.length &&
    k.queues.all (queueDeclOk k) && allPairs (fun a b => a.num != b.num) k.queues &&
    k.tiles.all tileDeclOk && allPairs (fun a b => a.num != b.num) k.tiles &&
    k.scratch % granule == 0 && k.l1 % granule == 0 && decide (k.tilesEnd ≤ k.scratch)

/-- The kernels of an image in the order of their indices; none where a record describes none. -/
def kernelsOf (xs : List Section) (bs : List Byte) : Option (List Kernel) :=
  let recs := ofKind xs 1
  let ks := (List.range recs.length).map fun i =>
    (recs.find? fun x => x.kidx == i).bind fun x => Config.kernelRecordOf (x.bytes bs)
  if ks.all Option.isSome then some (ks.filterMap id) else none

/-- The units of an image. -/
def unitsOf (xs : List Section) (bs : List Byte) : List Overlay :=
  (ofKind xs 2).map fun x =>
    { id := fieldAt bs x.off 4, kidx := x.kidx, words := wordsOfBytes ((x.len - 4) / 4) (bs.drop (x.off + 4)) }

/-! ### Verification (R76, R77) -/

/-- What step 3 hashes (R74). -/
def measured (bs : List Byte) (h : ImageHeader) : List Byte := bs.take 32 ++ (bs.take h.imgLen).drop 64

/-- Steps 1 to 7 of R77 for an image whose kernels have been read: the first failure's status, 0 for none. -/
def headStatus (pt : Partition) (c : Ctx) (bs : List Byte) (ks : Option (List Kernel)) : Nat :=
  let h := imageHeader bs
  if !containerOk bs || !(ks.any fun ks => ks.all (kernelOk (h.kind == 1))) then 0x01
  else
    match pt.keys.getD h.keyId none with
    | none => 0x02
    | some key =>
      if !hssVerify key (bs.drop h.imgLen) (bs.take 64) then 0x02
      else if h.measure != sha256 (measured bs h) then 0x03
      else if h.profile / 256 != 1 || decide (3 < h.profile % 256) then 0x04
      else if Config.generation < h.minGen then 0x05
      else if h.imgVer < c.floor then 0x06
      else if h.kind == 1 && !c.native then 0x07
      else 0

/-- The units of a kernel. -/
def unitsFor (us : List Overlay) (kidx : Nat) : List Overlay := us.filter fun u => u.kidx == kidx

/-- Step 8: the first code status of a kernel that is not 0, ENCODING before ROLE before PROFILE RULE. -/
def codeStatus (ks : List Kernel) (us : List Overlay) (native : Bool) : Nat :=
  let all := ks.mapIdx fun i k => k.codeStatus (unitsFor us i) native
  (all.filter fun c => c != 0).foldl (fun m c => if m = 0 then c else min m c) 0

/-! ### Translating and placing (R80 to R87) -/

/-- Every unit as it comes out, by id; none for RANGE. A native unit comes out as it went in (R85). -/
def translateUnits (ks : List Kernel) (us : List Overlay) (native : Bool) : Option (List (Overlay × UnitOut)) :=
  let outs := us.map fun u =>
    if native then some (u, { words := u.words, ins := [], dropped := false })
    else ((ks[u.kidx]?).bind fun k => (k.viewOf (unitsFor us u.kidx) u).translate).map fun o => (u, o)
  if outs.all Option.isSome then some (outs.filterMap id) else none

/-- Units in ascending order of id. -/
def byId (us : List Overlay) : List Overlay :=
  us.foldl (fun l u => (l.takeWhile fun x => decide (x.id ≤ u.id)) ++ u :: (l.dropWhile fun x => decide (x.id ≤ u.id))) []

/-- What OUTMEAS hashes (R87). -/
def outputBytes (us : List Overlay) : List Byte :=
  (byId us).flatMap fun u => leBytes 4 u.id ++ leBytes 4 (4 * u.words.length) ++ bytesOfWords u.words

/-- The image that a load places, and its translation record (R83, R84, R87). The kernel records stay as they are; `kernels` are
what a launch runs, their labels resolved to the words that R83 moved (log entry 26). Data sections are kept with the image and
stand in no memory (DESIGN CHOICE, log entry 53: R75 gives a kernel's data region no place). -/
def placedImage (handle : Nat) (bs : List Byte) (ks : List Kernel) (outs : List (Overlay × UnitOut)) : Image :=
  let h := imageHeader bs
  let us := outs.map fun p => { p.1 with words := p.2.words }
  let moved := outs.map fun p => (p.1.id, p.2)
  let kernels := ks.map fun k => { k with
    entries := k.entries.map (newAddr moved), teams := k.teams.map fun t => { t with entry := newAddr moved t.entry } }
  let record : LoadRecord :=
    { imgMeas := h.measure, outMeas := sha256 (outputBytes us), ruleVer := 1, imgVer := h.imgVer, kind := h.kind,
      novl := us.length, dropHint := (outs.filter fun p => p.2.dropped).map fun p => p.1.id }
  { handle := handle, records := ks, kernels := kernels, overlays := us
    data := (ofKind (sectionsOf bs h.nsec) 3).map (fun x => (x.kidx, x.bytes bs)), record := record }

/-- The bytes of a translation record (R87). -/
def LoadRecord.bytes (r : LoadRecord) : List Byte :=
  let bitmap := (List.range 32).map fun i =>
    BitVec.ofNat 8 (((List.range 8).map fun j => if r.dropHint.contains (8 * i + j) then 2 ^ j else 0).sum)
  r.imgMeas ++ r.outMeas ++ leBytes 4 r.ruleVer ++ leBytes 4 r.imgVer ++ leBytes 2 r.kind ++ leBytes 2 r.novl ++
    leBytes 4 Config.spanW ++ bitmap ++ leBytes 16 0

/-- What a load comes to: its status, and the image if it is 0 (R77). -/
def loadImage (pt : Partition) (c : Ctx) (bs : List Byte) : Nat × Option Image :=
  let h := imageHeader bs
  let xs := sectionsOf bs h.nsec
  let ks := if containerOk bs then kernelsOf xs bs else none
  let st := headStatus pt c bs ks
  if st ≠ 0 then (st, none)
  else
    let ks := ks.getD []
    let us := unitsOf xs bs
    let native := h.kind == 1
    let st := codeStatus ks us native
    if st ≠ 0 then (st, none)
    else
      match translateUnits ks us native with
      | none => (0x0B, none)
      | some outs =>
        if native && !((List.range ks.length).all fun i => (ks[i]?).all fun k => k.hazardOk (unitsFor us i)) then (0x0C, none)
        else (0, some (placedImage c.nextHandle bs ks outs))

/-- IMAGE_LOAD (R77): a failed load changes nothing but the command's status. -/
def execImageLoad (fn part : Nat) (who : CtxName) (image : List Byte) (s : State) : Host.Outcome State Fault Refusal :=
  .next (s.ctxCommand fn part who.ctxid who.gen fun s c =>
    match s.part? part with
    | some pt =>
      if c.state = .error ∨ c.state = .killed then s.setStatus fn .dead
      else
        match loadImage pt c image with
        | (_, some im) =>
          ((s.modCtx part who.ctxid fun c => { c with
            images := c.images ++ [im], nextHandle := c.nextHandle + 1 }).setStatus fn (.load 0)).moved
        | (st, none) => s.setStatus fn (.load st)
    | none => s.setStatus fn .invalid)

/-- KEY_INSTALL (R76, R409). -/
def execKeyInstall (fn part idx : Nat) (key : List Byte) (s : State) : Host.Outcome State Fault Refusal :=
  .next (s.pfCommand fn fun s =>
    s.okIf fn (decide (part < s.partCount ∧ idx < 8)) fun s =>
      s.modPart part fun pt => { pt with keys := setAt pt.keys idx (some key) })

end Sys2Proof.Machine
end

