-- ==== Sys2Proof/Machine/Attest.lean ====
section
/-!
DEFINITION. Attestation (R411): each function's mailbox answers nine SPDM requests. The manual fixes which requests are
answered, the algorithms and the measurement blocks; what else an answer holds, and the order in which SPDM lets requests
follow one another, is the published standard's (log entry 17).
-/

namespace Sys2Proof.Machine

/-- A function whose mailbox answers: the PF, or a VF in eight-partition mode (R409, R411), on a part that is READY. -/
def State.answers (s : State) (fn : Nat) : Bool :=
  s.commandable && (fn == 0 || (s.dev.mode == .eight && decide (fn ≤ 8)))

/-- Posts an answer and the progress it leaves the function's SPDM connection at. -/
def State.reply (s : State) (fn code progress : Nat) (bytes : List Byte) : State :=
  s.modFunc fn fun f => { f with replies := f.replies ++ [(code, bytes)], spdm := progress }

/-- A request that is answered once the connection has come far enough. -/
def State.spdmAt (s : State) (fn least : Nat) (k : State → Nat → State) : State :=
  match s.funcs[fn]? with
  | some f => if s.answers fn && decide (least ≤ f.spdm) then k s f.spdm else s
  | none => s

/-- GET_VERSION (R411): starts the connection. -/
def execGetVersion (fn : Nat) (s : State) : Host.Outcome State Fault Refusal :=
  .next (s.spdmAt fn 0 fun s _ => s.reply fn 0x84 1 [])

/-- GET_CAPABILITIES (R411). -/
def execGetCapabilities (fn : Nat) (s : State) : Host.Outcome State Fault Refusal :=
  .next (s.spdmAt fn 1 fun s _ => s.reply fn 0xE1 2 [])

/-- NEGOTIATE_ALGORITHMS (R411): SHA-256 and HSS/LMS are all that the part offers. -/
def execNegotiateAlgorithms (fn : Nat) (sha256 hssLms : Bool) (s : State) : Host.Outcome State Fault Refusal :=
  .next (s.spdmAt fn 2 fun s _ => if sha256 && hssLms then s.reply fn 0xE3 3 [] else s.reply fn 0xE3 2 [])

/-- GET_DIGESTS (R411). -/
def execGetDigests (fn : Nat) (s : State) : Host.Outcome State Fault Refusal :=
  .next (s.spdmAt fn 3 fun s p => s.reply fn 0x81 p [])

/-- GET_CERTIFICATE (R411). -/
def execGetCertificate (fn slot : Nat) (s : State) : Host.Outcome State Fault Refusal :=
  .next (s.spdmAt fn 3 fun s p => s.reply fn 0x82 p (leBytes 1 slot))

/-- CHALLENGE (R411). -/
def execSpdmChallenge (fn slot nonce : Nat) (s : State) : Host.Outcome State Fault Refusal :=
  .next (s.spdmAt fn 3 fun s p => s.reply fn 0x83 p (leBytes 1 slot ++ leBytes 32 nonce))

/-- The partition whose contexts a function's context blocks report (R411). -/
def State.measuredPart (s : State) (fn : Nat) : Nat :=
  if fn = 0 then (if s.dev.mode == .eight then s.dev.msel.toNat else 0) else fn - 1

/-- The number of a partition mode (R16). -/
def modeNumber (m : PartMode) : Nat :=
  match m with
  | .eight => 0
  | .one => 1
  | .hamada => 2

/-- The translation record of the latest load of a context that exists (R87, R411). -/
def State.ctxBlock (s : State) (part ctxid : Nat) : Option (List Byte) :=
  match s.ctx? part ctxid with
  | none => none
  | some c => c.images.getLast?.map fun i => i.record.bytes

/-- A measurement block (R411); none where there is nothing at the index. -/
def State.block (s : State) (fn index : Nat) : Option (List Byte) :=
  let d := s.dev
  match index with
  | 1 => some (sha256 d.flash)
  | 2 => some (sha256 d.mgmt)
  | 3 => some (d.fuseKey ++ leBytes 1 d.rollback)
  | 4 => some (leBytes 1 (modeNumber d.mode) ++ d.repair.map fun c => BitVec.ofNat 8 c)
  | 5 => some (leBytes 1 (s.measuredPart fn))
  | n => if 0x10 ≤ n ∧ n ≤ 0x4F then s.ctxBlock (s.measuredPart fn) (n - 0x10) else none

/-- Every block that there is, each after its index. -/
def State.allBlocks (s : State) (fn : Nat) : List Byte :=
  (List.range 0x50).flatMap fun i => ((s.block fn i).map fun b => BitVec.ofNat 8 i :: b).getD []

/-- GET_MEASUREMENTS (R411): one block, or with 0xFF all of them. -/
def execGetMeasurements (fn index : Nat) (s : State) : Host.Outcome State Fault Refusal :=
  .next (s.spdmAt fn 3 fun s p => s.reply fn 0xE0 p (if index = 0xFF then s.allBlocks fn else (s.block fn index).getD []))

/-- KEY_EXCHANGE (R411). -/
def execKeyExchange (fn slot : Nat) (s : State) : Host.Outcome State Fault Refusal :=
  .next (s.spdmAt fn 3 fun s _ => s.reply fn 0xE4 4 (leBytes 1 slot))

/-- FINISH (R411). -/
def execSpdmFinish (fn : Nat) (s : State) : Host.Outcome State Fault Refusal :=
  .next (s.spdmAt fn 4 fun s _ => s.reply fn 0xE5 5 [])

end Sys2Proof.Machine
end

