-- ==== Sys2Proof/Machine/Snapshot.lean ====
section
/-!
DEFINITION. The snapshot of a census: what it matches, holds and deals out (R384, R385).
-/

namespace Sys2Proof.Machine

/-! ### The snapshot (R384, R385) -/

/-- An entry that a census matches. -/
def Census.matches (c : Census) (gen : Nat) (e : KeyEntry) : Bool :=
  e.part == c.part && e.ctxid == c.ctxid && e.gen == gen && (e.key &&& c.mask) == (c.key &&& c.mask)

/-- The entries of a core that a census matches, by number. -/
def Core.matched (k : Core) (c : Census) (gen : Nat) : List (Nat × KeyEntry) :=
  (List.range k.keys.length).filterMap fun i =>
    match k.keys.getD i none with
    | some e => if c.matches gen e then some (i, e) else none
    | none => none

/-- Inserts an entry, of a higher number than all those there, by GROUPID and then by number. -/
def insertMatch (p : Nat × KeyEntry) (l : List (Nat × KeyEntry)) : List (Nat × KeyEntry) :=
  let after := fun (q : Nat × KeyEntry) => decide (q.2.gid ≤ p.2.gid)
  (l.takeWhile after) ++ p :: (l.dropWhile after)

/-- Matches in the order of R385. -/
def orderMatches (l : List (Nat × KeyEntry)) : List (Nat × KeyEntry) := l.foldl (fun a p => insertMatch p a) []

/-- Cuts a list into runs of 16. -/
def chunks16 : Nat → List Nat → List (List Nat)
  | 0, _ => []
  | _, [] => []
  | n + 1, l => l.take 16 :: chunks16 n (l.drop 16)

/-- The runs of ordered matches that one group owns, each with its entries. -/
def matchRuns : List (Nat × KeyEntry) → List (Nat × List Nat)
  | [] => []
  | (i, e) :: r =>
    match matchRuns r with
    | (u, is) :: rest => if u = e.uid then (u, i :: is) :: rest else (e.uid, [i]) :: (u, is) :: rest
    | [] => [(e.uid, [i])]

/-- The pieces of a core's matches, in order (R385). -/
def corePieces (core : Nat) (l : List (Nat × KeyEntry)) : List Piece :=
  let runs := (matchRuns l).flatMap fun p => (chunks16 p.2.length p.2).map fun is => (p.1, is)
  runs.mapIdx fun n p => { core := core, order := n, uid := p.1, entries := p.2, state := .waiting }

/-- A core with a census's matches held. -/
def Core.hold (k : Core) (c : Census) (gen : Nat) : Core :=
  { k with keys := k.keys.map fun o => o.map fun e => if c.matches gen e then { e with held := e.held ++ [c.cseq] } else e }

/-- The snapshot of a census: matching entries become held and are dealt out in pieces; a core without a match answers null
at once (R384, R385). -/
def State.snapshot (s : State) (c : Census) : State :=
  let gen := ((s.ctx? c.part c.ctxid).map fun x => x.gen).getD 0
  let found := (s.coresOf c.part).map fun i => (i, ((s.core? i).map fun k => orderMatches (k.matched c gen)).getD [])
  let s := s.modCores ((found.filter fun p => !p.2.isEmpty).map (·.1)) fun k => k.hold c gen
  (s.modCensus c.cseq fun c => { c with
    snapped := true, matched := (found.map fun p => p.2.length).sum, pieces := found.flatMap fun p => corePieces p.1 p.2 }).moved

/-- Every snapshot whose a-clk S has come is taken before a directory instruction acts (R384). -/
def State.takeDue (s : State) : State :=
  (s.censuses.filter fun c => !c.snapped && decide (c.snapAt ≤ s.clk)).foldl State.snapshot s

end Sys2Proof.Machine
end

