-- ==== Sys2Proof/Machine/Graph.lean ====
section
/-!
DEFINITION. The graph walker (R119 to R124), phases from their start to their retirement (R114, R116), the retirement of groups
(R134), the launch commands (R113) and the GRAPH instructions (R128 to R131).
-/

namespace Sys2Proof.Machine

/-! ### A graph in memory (R119) -/

/-- Kinds of node by their code (R119). -/
def nodeKindOf (k : Nat) : Option NodeKind :=
  match k with
  | 1 => some .kernel
  | 2 => some .cond
  | 3 => some .while
  | 4 => some .queue
  | 5 => some .boundary
  | _ => none

/-- A power of two from 64 to 65,536. -/
def ringSizeOk (n : Nat) : Bool := (List.range 11).any fun i => n == 64 * 2 ^ i

/-- A node record's fields are in range, and those its kind does not use are zero (R119). -/
def nodeOk (nnode : Nat) (bs : List Byte) : Bool :=
  let u := fun o n => fieldAt bs o n
  let succ := fun i => u (4 + 2 * i) 2
  let common := decide (u 2 2 ≤ 256) && (List.range 4).all (fun i => succ i == 0xFFFF || decide (succ i < nnode)) && zeroAt bs 0x28 24
  match nodeKindOf (u 0 1) with
  | none => false
  | some .kernel => common && u 1 1 == 0 && u 0xC 4 == 0 && zeroAt bs 0x18 16
  | some .cond => common && decide (u 1 1 < 32) && u 0xC 4 == 0 && zeroAt bs 0x10 24
  | some .while => common && decide (u 1 1 < 32) && succ 0 != 0xFFFF && zeroAt bs 0x10 24
  | some .queue =>
    common && u 1 1 == 0 && decide (1 ≤ u 2 2) && decide (1 ≤ u 0xC 4 ∧ u 0xC 4 ≤ 65535) && u 0x18 8 % 64 == 0 &&
      ringSizeOk (u 0x20 4) && decide (1 ≤ u 0x24 4 ∧ u 0x24 4 ≤ min (u 0x20 4) 4096)
  | some .boundary => common && u 1 1 == 0 && u 0xC 4 == 0 && zeroAt bs 0x10 24

/-- A node as its graph starts (R120, R122). -/
def nodeOf (bs : List Byte) : GNode :=
  let u := fun o n => fieldAt bs o n
  { kind := (nodeKindOf (u 0 1)).getD .boundary, bit := u 1 1, npred := u 2 2, succ := (List.range 4).map fun i => u (4 + 2 * i) 2,
    param := u 0xC 4, launchVa := u 0x10 8, rqva := u 0x18 8, rqcap := u 0x20 4, tile := u 0x24 4, arrived := 0, running := 0,
    again := 0, iter := 0, inIter := false, qstate := .opened, head := 0, pending := 0, held := [], due := none, left := none }

/-- The graph that a header and its node records describe; none where it breaks a rule. -/
def graphOf (ord : Nat) (serial : Bool) (hdr recs : List Byte) : Option Graph :=
  let n := fieldAt hdr 0 2
  let nodes := (List.range n).map fun i => (recs.drop (64 * i)).take 64
  if 1 ≤ n ∧ n ≤ 256 ∧ zeroAt hdr 2 2 = true ∧ zeroAt hdr 8 56 = true ∧ nodes.all (nodeOk n) = true then
    some { ord := ord, serial := serial, cw := BitVec.ofNat 32 (fieldAt hdr 4 4), nodes := nodes.map nodeOf, todo := [] }
  else none

/-! ### The walker's state (R119) -/

/-- A context by partition and number. -/
abbrev CtxRef := Nat × Nat

def State.graph? (s : State) (p : CtxRef) : Option Graph := (s.ctx? p.1 p.2).bind fun c => c.graph

def State.modGraph (s : State) (p : CtxRef) (f : Graph → Graph) : State :=
  s.modCtx p.1 p.2 fun c => { c with graph := c.graph.map f }

def State.node? (s : State) (p : CtxRef) (n : Nat) : Option GNode := (s.graph? p).bind fun g => g.nodes[n]?

def State.modNode (s : State) (p : CtxRef) (n : Nat) (f : GNode → GNode) : State :=
  s.modGraph p fun g => { g with nodes := modAt g.nodes n f }

/-- Arrivals to nodes, still to be delivered; 0xFFFF names none (R119, R120). -/
def State.sendTo (s : State) (p : CtxRef) (ns : List Nat) : State :=
  s.modGraph p fun g => { g with todo := g.todo ++ ns.filter fun n => n != 0xFFFF }

/-- A launch record not yet read. -/
def blankRec : LaunchRec := launchRecOf []

/-- A phase of a node (R120, R122): queued for its start; `count` records from ring index `first` for a QUEUE node. -/
def State.newPhase (s : State) (p : CtxRef) (n first count : Nat) : State :=
  match s.graph? p, s.node? p n with
  | some g, some d =>
    let l : Launch :=
      { lid := s.nextSeq, ord := g.ord, part := p.1, ctxid := p.2, record := blankRec, recVa := some d.launchVa, state := .queued,
        variant := 0, groups := 0, placed := 0, retired := 0, freed := 0, sizeWord := count, node := some n, first := first,
        count := count, startClk := 0, waitReq := none }
    { s.modNode p n (fun d => { d with running := d.running + 1 }) with launches := s.launches ++ [l], nextSeq := s.nextSeq + 1 }
  | _, _ => s

/-! ### QUEUE nodes (R122, R123) -/

/-- Ring slots that are not free. -/
def GNode.taken (d : GNode) : Nat := d.pending + (d.held.map fun h => h.2.1).sum

/-- A phase over the oldest `cnt` pending records (R122); the timer stops when none is left. -/
def State.giveQueue (s : State) (p : CtxRef) (n cnt : Nat) : State :=
  match s.node? p n with
  | none => s
  | some d =>
    (s.newPhase p n d.head cnt).modNode p n fun d => { d with
      head := (d.head + cnt) % max 1 d.rqcap, pending := d.pending - cnt, held := d.held ++ [(s.nextSeq, cnt, false)]
      due := if d.pending = cnt then none else d.due }

/-- What a QUEUE node does as it stands: full tiles are launched, and a CLOSING node launches the rest and closes (R122). -/
def State.serveQueue (p : CtxRef) (n : Nat) : Nat → State → State
  | 0, s => s
  | k + 1, s =>
    match s.node? p n with
    | none => s
    | some d =>
      if d.kind ≠ .queue then s
      else if 0 < d.tile ∧ d.tile ≤ d.pending then State.serveQueue p n k (s.giveQueue p n d.tile)
      else if d.qstate = .closing ∧ 0 < d.pending then State.serveQueue p n k (s.giveQueue p n d.pending)
      else if d.qstate = .closing ∧ d.running = 0 then (s.modNode p n fun d => { d with qstate := .closed }).sendTo p d.succ
      else s

/-- Serves a QUEUE node; each round launches a pending record, or is the last. -/
def State.serve (s : State) (p : CtxRef) (n : Nat) : State :=
  State.serveQueue p n (((s.node? p n).map fun d => d.pending + 2).getD 0) s

/-- Marks a phase's ring slots free and drops the oldest ranges that are free (R123). -/
def GNode.freeSlots (d : GNode) (lid : Nat) : GNode :=
  let held := d.held.map fun h => if h.1 == lid then (h.1, h.2.1, true) else h
  { d with held := held.dropWhile fun h => h.2.2 }

/-! ### Arrivals (R120, R121) -/

/-- The boundary switch (R402). -/
def Ctx.boundary (c : Ctx) : Ctx :=
  { c with active := if c.staged.isSome then c.staged else c.active, staged := none, tabver := c.tabver + 1 }

/-- A WHILE node is evaluated (R121). -/
def State.evalWhile (s : State) (p : CtxRef) (n : Nat) (cw : Word) (d : GNode) : State :=
  if cw.getLsbD d.bit ∧ (d.param = 0 ∨ d.iter < d.param) then
    (s.modNode p n fun d => { d with iter := d.iter + 1, inIter := true }).sendTo p (d.succ.take 1)
  else (s.modNode p n fun d => { d with iter := 0, inIter := false }).sendTo p ((d.succ.drop 1).take 1)

/-- A node becomes ready (R120 to R122). -/
def State.nodeReady (s : State) (p : CtxRef) (n : Nat) : State :=
  match s.graph? p, s.node? p n with
  | some g, some d =>
    match d.kind with
    | .kernel => if d.running = 0 then s.newPhase p n 0 0 else s.modNode p n fun d => { d with again := d.again + 1 }
    | .cond => s.sendTo p (if g.cw.getLsbD d.bit then (d.succ.drop 1).take 1 else d.succ.take 1)
    | .while => s.evalWhile p n g.cw d
    | .queue => (s.modNode p n fun d => { d with qstate := .closing }).serve p n
    | .boundary => (s.modCtx p.1 p.2 Ctx.boundary).sendTo p d.succ
  | _, _ => s

/-- One arrival at a node (R120, R121); a CLOSED QUEUE node ignores it. -/
def State.arrive (s : State) (p : CtxRef) (n : Nat) : State :=
  match s.graph? p, s.node? p n with
  | some g, some d =>
    if d.kind = .while ∧ d.inIter = true then s.evalWhile p n g.cw d
    else if d.kind = .queue ∧ d.qstate = .closed then s
    else if d.arrived + 1 = d.npred then (s.modNode p n fun d => { d with arrived := 0 }).nodeReady p n
    else s.modNode p n fun d => { d with arrived := d.arrived + 1 }
  | _, _ => s

/-- Delivers the arrivals that stand, at most `k` of them; the walker goes on with the rest in a step of its own. -/
def State.walkN (p : CtxRef) : Nat → State → State
  | 0, s => s
  | k + 1, s =>
    match (s.graph? p).bind fun g => g.todo.head? with
    | none => s
    | some n => State.walkN p k ((s.modGraph p fun g => { g with todo := g.todo.drop 1 }).arrive p n)

/-- The walker's action: every arrival, at most 4,096. -/
def State.walkGraph (s : State) (p : CtxRef) : State := State.walkN p 4096 s

/-! ### The ends of phases and graphs (R114, R124) -/

/-- Nothing of the graph runs, is ready or is in an iteration, and every QUEUE node is CLOSED (R124). -/
def Graph.over (g : Graph) : Bool :=
  g.todo.isEmpty && g.nodes.all fun d =>
    d.running == 0 && d.again == 0 && !d.inIter && (d.kind != .queue || d.qstate == .closed)

/-- The waiting graph may start: no other graph runs and none submitted earlier is still to be read, and with SERIAL nothing
earlier is left (R114, R119). -/
def State.graphMayStart (s : State) (p : CtxRef) (c : Ctx) (g : Graph) : Bool :=
  c.graph.isNone && c.state == .running && (c.asks.all fun a => decide (g.ord < a.ord)) &&
    (!g.serial || !s.launches.any fun l => l.part == p.1 && l.ctxid == p.2 && decide (l.ord < g.ord))

/-- Starts a graph: every node that needs no arrival is ready (R120). -/
def State.startGraph (s : State) (p : CtxRef) (g : Graph) : State :=
  let s := s.modCtx p.1 p.2 fun c => { c with graph := some g, graphWait := c.graphWait.drop 1 }
  let roots := (List.range g.nodes.length).filter fun n => (g.nodes[n]?).any fun d => d.npred == 0
  (roots.foldl (fun s n => s.nodeReady p n) s).walkGraph p

/-- What follows the walker's actions: a graph that is over retires, a waiting one starts, and a context with nothing left is
IDLE (R93, R119, R124). -/
def State.advanceN (p : CtxRef) : Nat → State → State
  | 0, s => s
  | k + 1, s =>
    match s.ctx? p.1 p.2 with
    | none => s
    | some c =>
      match c.graph with
      | some g => if g.over then State.advanceN p k (s.modCtx p.1 p.2 fun c => { c with graph := none }) else s
      | none =>
        match c.graphWait with
        | g :: _ => if s.graphMayStart p c g then State.advanceN p k (s.startGraph p g) else s
        | [] =>
          if c.state = .running ∧ c.asks = [] ∧ !(s.launches.any fun l => l.part == p.1 && l.ctxid == p.2) then
            s.modCtx p.1 p.2 fun c => { c with state := .idle }
          else s

/-- Advances a context as far as it goes. -/
def State.advance (s : State) (p : CtxRef) : State :=
  State.advanceN p (((s.ctx? p.1 p.2).map fun c => 2 * c.graphWait.length + 2).getD 0) s

/-- A phase of a node has retired: a KERNEL node completes and starts again if it became ready meanwhile; a QUEUE node may close
(R120, R122). -/
def State.phaseOver (s : State) (p : CtxRef) (n lid : Nat) : State :=
  match s.node? p n with
  | none => s
  | some d =>
    let s := s.modNode p n fun d => { (d.freeSlots lid) with running := d.running - 1 }
    if d.kind = .queue then s.serve p n
    else
      let s := s.sendTo p d.succ
      if 0 < d.again then (s.modNode p n fun d => { d with again := d.again - 1 }).newPhase p n 0 0 else s

/-- A launch or phase retires (R114). -/
def State.endLaunch (s : State) (l : Launch) : State :=
  let p : CtxRef := (l.part, l.ctxid)
  let s := { s with launches := s.launches.filter fun x => x.lid != l.lid }
  let s := match l.node with
    | some n => (s.phaseOver p n l.lid).walkGraph p
    | none => s
  (s.advance p).moved

/-! ### PHASE_START (R116) -/

/-- Every launch and graph submitted before this one to its context has retired (R114). -/
def State.serialClear (s : State) (l : Launch) : Bool :=
  !(s.launches.any fun e => e.part == l.part && e.ctxid == l.ctxid && decide (e.ord < l.ord)) &&
    !((s.ctx? l.part l.ctxid).any fun c =>
      ((c.graph.toList ++ c.graphWait).any fun g => decide (g.ord < l.ord)) || c.asks.any fun a => decide (a.ord < l.ord))

/-- The phase can start. -/
def State.phaseReady (s : State) (l : Launch) : Bool :=
  l.state == .queued && l.waitReq.isNone && ((s.ctx? l.part l.ctxid).any fun c => c.state == .running) &&
    (!l.record.serial || s.serialClear l)

/-- Reads bytes for a phase through its context; a fault is a page request on which the phase waits, or ends the context. A phase
that has waited reads its launch record again with its size word (DESIGN CHOICE, log entry 51: whether the record is read once is
not said). -/
def State.phaseRead (s : State) (c : Ctx) (l : Launch) (va n : Nat) (k : State → List Byte → State) : State :=
  let q := xlateBytes s c .read (runFrom va n)
  match q.stop with
  | none => k q.s (q.s.readPlaces q.places)
  | some st =>
    let w := q.s.engineStop c .read noCore (.size l.lid) st
    w.1.modLaunch l.lid fun l => { l with waitReq := w.2 }

/-- The selector (R116). -/
def State.selectPhase (s : State) (l : Launch) (k : Kernel) (size : Nat) : State :=
  let fail := s.ctxError l.part l.ctxid trapLaunchSize noCore 0 (BitVec.ofNat 64 size)
  if size = 0 then s.endLaunch l
  else
    match k.select size with
    | none => fail
    | some (i, n) =>
      match k.scheds[i]? with
      | none => fail
      | some v =>
        if !k.fitsEmpty v l.record.stackSz then fail
        else if n = 0 then s.endLaunch l
        else
          s.modLaunch l.lid fun _ => { l with
            state := .placing, variant := i, groups := n, sizeWord := size, startClk := s.clk }

/-- The size word: the record count of a QUEUE node's phase, SIZE, or the word at SIZEVA (R116, R122). -/
def State.readSize (s : State) (c : Ctx) (l : Launch) (k : Kernel) : State :=
  if 0 < l.count then s.selectPhase l k l.count
  else if l.record.sizePtr then s.phaseRead c l l.record.sizeVa 4 fun s bs => s.selectPhase l k (leNat bs)
  else s.selectPhase l k l.record.size

/-- A node's launch record, once read: a record that is refused runs nothing (R113, R120). -/
def State.takeRecord (s : State) (c : Ctx) (l : Launch) (bs : List Byte) : State :=
  let r := launchRecOf bs
  match c.kernel? r.image r.kidx with
  | some k => if kernelRecordOk s c bs && !r.serial then s.readSize c { l with record := r, recVa := none } k else s.endLaunch l
  | none => s.endLaunch l

/-- PHASE_START (R116). -/
def execPhaseStart (lid : Nat) (s : State) : Host.Outcome State Fault Refusal :=
  match s.launch? lid with
  | none => .next s
  | some l =>
    match s.ctx? l.part l.ctxid with
    | none => .next s
    | some c =>
      if !s.phaseReady l then .next s
      else
        match l.recVa with
        | some va => .next (s.phaseRead c l va 128 fun s bs => s.takeRecord c l bs).moved
        | none =>
          match c.kernel? l.record.image l.record.kidx with
          | some k => .next (s.readSize c l k).moved
          | none => .next (s.endLaunch l)

/-! ### GROUP_RETIRE (R133, R134) -/

/-- Writes a team's stack cache back as far as its bytes translate: its bytes become stores (R134, R179). -/
def State.flushStack (s : State) (r : TeamRef) : State :=
  match s.group? r.uid, s.team? r with
  | some g, some t =>
    match s.ctxOf g with
    | none => s
    | some c =>
      match spillChunks c (ceilDiv t.stack.length (stackChunk t)) s t with
      | .ok s t => s.modTeam r fun _ => t
      | .wait s va => s.modTeam r fun t => t.addReplay t.prefixPc .spill [laneAt 0 va]
      | .bad => s.badAccess g t
  | _, _ => s

/-- Writes back a team's stores and stack cache. -/
def State.writeBack (s : State) (r : TeamRef) : State := ((s.drain r).flushStack r).drain r

/-- The releases that a group's retirement makes complete after the snapshots its teams have solicited (R134, R446), which are
taken before anything of the group goes (R384). -/
def State.retireClk (s : State) (g : Group) : State := (g.teams.foldl State.pastSnapshots s).takeDue

/-- A key entry of a group that an open census holds (R134). -/
def State.keyHeld (s : State) (g : Group) : Bool :=
  (s.core? g.core).any fun k => k.keys.any fun e => e.any fun e => e.uid == g.uid && !e.held.isEmpty

/-- A draining group has nothing left to wait for (R133). -/
def State.retireReady (s : State) (g : Group) : Bool :=
  g.state == .draining && ((s.ctxOf g).any fun c => c.state == .running) && g.cards.isEmpty && !s.keyHeld g &&
    !(s.copies.any fun c => c.uid == g.uid) && !(s.fetches.any fun f => f.uid == g.uid) &&
    g.teams.all fun t => !t.parked && t.replay.isEmpty && t.responder.isNone

/-- A group no longer holds its phase's ring slots; the last of its groups frees them (R123, R130). -/
def State.freeRing (s : State) (g : Group) : State :=
  match g.ringNode with
  | none => s
  | some n =>
    let s := (s.modGroup g.uid fun g => { g with ringNode := none }).modLaunch g.lid fun l => { l with freed := l.freed + 1 }
    match s.launch? g.lid with
    | some l => if l.freed = l.groups then s.modNode (g.part, g.ctxid) n fun d => d.freeSlots g.lid else s
    | none => s

/-- The group is RETIRED, and with its last group the phase (R114, R134). -/
def State.retireGroup (s : State) (g : Group) : State :=
  let s := ((s.freeRing g).removeGroup g.uid).modLaunch g.lid fun l => { l with retired := l.retired + 1 }
  match s.launch? g.lid with
  | some l => if l.state = .running ∧ l.retired = l.groups then s.endLaunch l else s
  | none => s

/-- The stores and stack caches of a group are written back; one that faults keeps the group (R134). -/
def State.retireNow (s : State) (g : Group) : State :=
  let s := g.teams.foldl (fun s t => s.writeBack { uid := g.uid, tid := t.tid }) s
  match s.group? g.uid with
  | none => s
  | some g => if g.teams.all fun t => t.performed && t.stack.isEmpty then (s.retireGroup g).moved else s.moved

/-- GROUP_RETIRE (R134). A snapshot whose a-clk comes before the retirement completes is taken first, and may hold its entries
(R384, R446). -/
def execGroupRetire (uid : Nat) (s : State) : Host.Outcome State Fault Refusal :=
  match s.group? uid with
  | none => .next s
  | some g =>
    if !s.retireReady g then .next s
    else
      let s := s.retireClk g
      match s.group? uid with
      | none => .next s
      | some g => if s.retireReady g then .next (s.retireNow g) else .next s

/-! ### Launch commands (R94, R113, R119) -/

/-- A context that takes launches is RUNNING once it has one, if it was IDLE (R93). -/
def Ctx.submit (c : Ctx) : Ctx := { c with state := if c.state = .idle then .running else c.state }

/-- A launch command on a context: DEAD in ERROR and KILLED, INVALID where there is none. One to a PREEMPTING context, of which R94
says nothing, is accepted and queued like one to a SAVED context (DEDUCED, log entry 27). -/
def State.launchCommand (s : State) (fn part : Nat) (who : CtxName) (k : State → Ctx → State) : State :=
  s.ctxCommand fn part who.ctxid who.gen fun s c => if c.state = .error ∨ c.state = .killed then s.setStatus fn .dead else k s c

/-- KERNEL_LAUNCH (R113). -/
def execKernelLaunch (fn part : Nat) (who : CtxName) (record : List Byte) (s : State) : Host.Outcome State Fault Refusal :=
  .next (s.launchCommand fn part who fun s c =>
    s.okIf fn (kernelRecordOk s c record) fun s =>
      let l : Launch :=
        { lid := s.nextSeq, ord := s.nextSeq, part := part, ctxid := who.ctxid, record := launchRecOf record, recVa := none,
          state := .queued, variant := 0, groups := 0, placed := 0, retired := 0, freed := 0, sizeWord := 0, node := none,
          first := 0, count := 0, startClk := 0, waitReq := none }
      { s.modCtx part who.ctxid Ctx.submit with launches := s.launches ++ [l], nextSeq := s.nextSeq + 1 })

/-- Reads bytes for a graph launch through its context; a fault is a page request on which the launch waits (R293, R300, R307), or
ends the context. -/
def State.askRead (s : State) (c : Ctx) (ord va n : Nat) (k : State → List Byte → State) : State :=
  let q := xlateBytes s c .read (runFrom va n)
  match q.stop with
  | none => k q.s (q.s.readPlaces q.places)
  | some st =>
    let w := q.s.engineStop c .read noCore (.graph ord) st
    w.1.modCtx c.part c.ctxid fun c => { c with asks := modWhere c.asks (fun a => a.ord == ord) fun a => { a with waitReq := w.2 } }

/-- Puts a graph among those that wait, in the order of their launches. -/
def insertGraph (g : Graph) : List Graph → List Graph
  | [] => [g]
  | h :: r => if g.ord < h.ord then g :: h :: r else h :: insertGraph g r

/-- A graph that has been read: it is refused with INVALID, or it waits for its turn (R119). -/
def State.takeGraph (s : State) (p : CtxRef) (a : GraphAsk) (g : Option Graph) : State :=
  let s := s.modCtx p.1 p.2 fun c => { c with asks := c.asks.filter fun x => x.ord != a.ord }
  match g with
  | none => (s.advance p).setStatus a.fn .invalid
  | some g =>
    ((s.modCtx p.1 p.2 fun c => { c with graphWait := insertGraph g c.graphWait }).advance p).setStatus a.fn .ok

/-- Reads a graph's header and then its node records (R119); after a page wait it begins again, and a header that breaks a rule is
refused once the records it names have been read too (DESIGN CHOICE, log entry 51). -/
def State.readGraph (s : State) (c : Ctx) (a : GraphAsk) : State :=
  s.askRead c a.ord a.va 64 fun s hdr =>
    s.askRead c a.ord (a.va + 64) (64 * min 256 (fieldAt hdr 0 2)) fun s recs =>
      (s.takeGraph (c.part, c.ctxid) a (graphOf a.ord a.serial hdr recs)).moved

/-- GRAPH_LAUNCH (R113, R119): the context is RUNNING, and the walker reads the graph, and answers once it has read it; a context
whose graph is refused is IDLE again where nothing else of it is left (R93). -/
def execGraphLaunch (fn part : Nat) (who : CtxName) (record : List Byte) (s : State) : Host.Outcome State Fault Refusal :=
  .next (s.launchCommand fn part who fun s c =>
    if !graphRecordOk record then s.setStatus fn .invalid
    else
      let a : GraphAsk :=
        { fn := fn, ord := s.nextSeq, serial := bitOf (fieldAt record 1 1) 0, va := fieldAt record 0x60 8, waitReq := none }
      ({ s with nextSeq := s.nextSeq + 1 }.modCtx part who.ctxid fun c => { c.submit with asks := c.asks ++ [a] }).readGraph c a)

/-- The walker goes on reading the graph of a launch once its page is there (R119). -/
def execGraphRead (part ctxid ord : Nat) (s : State) : Host.Outcome State Fault Refusal :=
  match s.ctx? part ctxid with
  | none => .next s
  | some c =>
    match c.asks.find? fun a => a.ord == ord && a.waitReq.isNone with
    | none => .next s
    | some a => .next (s.readGraph c a)

/-- The walker goes on delivering arrivals (R120, R121). -/
def execWalk (part ctxid : Nat) (s : State) : Host.Outcome State Fault Refusal :=
  .next ((s.walkGraph (part, ctxid)).advance (part, ctxid)).moved

/-! ### Flush timers (R122) -/

/-- A node's timer has run out. -/
def GNode.isDue (d : GNode) (clk : Nat) : Bool := (d.due.any fun t => decide (t ≤ clk)) && decide (0 < d.pending)

/-- A node launches its pending records. -/
def State.flushNode (s : State) (p : CtxRef) (n : Nat) : State :=
  match s.node? p n with
  | some d => (((s.giveQueue p n d.pending).serve p n).walkGraph p).advance p
  | none => s

/-- FLUSH_TIMER_EXPIRE (R122). -/
def execFlushTimerExpire (part ctxid node : Nat) (s : State) : Host.Outcome State Fault Refusal :=
  match s.node? (part, ctxid) node with
  | some d => if d.isDue s.clk then .next (s.flushNode (part, ctxid) node).moved else .next s
  | none => .next s

/-- A node whose timer ran out before an instruction acts on it has launched before. -/
def State.fireTimer (s : State) (p : CtxRef) (n : Nat) : State :=
  match s.node? p n with
  | some d => if d.isDue s.clk then s.flushNode p n else s
  | none => s

/-! ### The GRAPH instructions (R128 to R131) -/

/-- The context of the issuing team. -/
def Iss.ctxRef (x : Iss) : CtxRef := (x.g.part, x.g.ctxid)

/-- The QUEUE node that an instruction names, if a graph of the context runs (R128). -/
def State.queueNode? (s : State) (p : CtxRef) (n : Nat) : Option GNode :=
  match s.node? p n with
  | some d => if d.kind = .queue then some d else none
  | none => none

/-- GREC's status in every running lane, a result that returns later. -/
def Iss.grecStatus (x : Iss) (s : State) (d : RegField) (st : Nat) : Act :=
  .ok (s.modTeam x.r fun t => t.addPend [{ dst := d, vals := x.t.run.map fun l => (l, BitVec.ofNat 64 st), flags := 0 }])

/-- A run of `k` records enters a node's ring; the timer starts if none was pending (R122). -/
def GNode.append (d : GNode) (k clk : Nat) : GNode :=
  { d with pending := d.pending + k, due := if d.pending = 0 then some (clk + 700 * d.param) else d.due }

/-- The addresses of the ring slots that a run of `k` records takes. -/
def GNode.slotsVa (d : GNode) (k : Nat) : List Nat :=
  (List.range k).flatMap fun i => runFrom (d.rqva + 64 * ((d.head + d.pending + i) % max 1 d.rqcap)) 64

/-- GREC once its node has room: a release, the lanes' records, and the run's bytes in the ring (R128). -/
def Iss.appendRecords (x : Iss) (c : Ctx) (d : RegField) (n : Nat) (nd : GNode) (vas : List (Nat × Nat)) : Act :=
  x.release fun x =>
    let q := gatherLanes x.s (x.reader c false) 8 (vas.flatMap fun p => (List.range 8).map fun i => laneAt p.1 (p.2 + 8 * i))
    if q.bad then .done (x.s.badAccess x.g x.t)
    else if !q.left.isEmpty then .hold (q.s.modTeam x.r fun t => t.addReplay t.prefixPc .whole q.left)
    else
      let w := xlateBytes q.s c .write (nd.slotsVa vas.length)
      match w.stop with
      | some (.fault va _ _) => .hold (w.s.modTeam x.r fun t => t.addReplay t.prefixPc .rewrite [laneAt 0 va])
      | some (.range va) => .done (w.s.ctxError c.part c.ctxid trapMemfault x.g.core 0 (BitVec.ofNat 64 va))
      | some .bad => .done (w.s.badAccess x.g x.t)
      | none =>
        let s := ((w.s.modTeam x.r fun t => t.sees q.seen).writePlaces w.places q.bytes).modNode x.ctxRef n fun nd => nd.append vas.length w.s.clk
        x.grecStatus (((s.serve x.ctxRef n).walkGraph x.ctxRef).advance x.ctxRef) d 0

/-- GREC (R128). -/
def execGrec (d a b : RegField) (s : State) : Host.Outcome State Fault Refusal :=
  issue (.grec d a b) s fun x =>
    let n := (x.t.sreg b).toNat
    let vas := x.t.vas a 0
    match vaFault 64 vas, x.s.ctxOf x.g with
    | some (code, va), _ => .trap code va
    | none, none => .done x.s
    | none, some c =>
      if x.t.idle then .ok x.s
      else
        let x := { x with s := x.s.fireTimer x.ctxRef n }
        match x.s.queueNode? x.ctxRef n with
        | none => x.grecStatus x.s d 3
        | some nd =>
          if nd.qstate ≠ .opened then x.grecStatus x.s d 2
          else if nd.rqcap < nd.taken + vas.length then x.grecStatus x.s d 1
          else x.appendRecords c d n nd vas

/-- GCOND (R129). -/
def execGcond (a b : RegField) (s : State) : Host.Outcome State Fault Refusal :=
  issue (.gcond a b) s fun x =>
    if x.t.idle then .ok x.s
    else
      let m := x.t.sreg a
      let s := x.s.modGraph x.ctxRef fun g => { g with cw := (g.cw &&& ~~~m) ||| (x.t.sreg b &&& m) }
      .ok ((s.walkGraph x.ctxRef).advance x.ctxRef)

/-- GDONE (R130). -/
def execGdone (s : State) : Host.Outcome State Fault Refusal := issue .gdone s fun x => .ok (x.s.freeRing x.g)

/-- GFLUSH (R131). -/
def execGflush (d b : RegField) (s : State) : Host.Outcome State Fault Refusal :=
  issue (.gflush d b) s fun x =>
    let n := (x.t.sreg b).toNat
    let s := x.s.fireTimer x.ctxRef n
    match s.queueNode? x.ctxRef n with
    | none => x.status s d 3
    | some nd =>
      if nd.qstate ≠ .opened then x.status s d 2
      else if nd.pending = 0 then x.status s d 1
      else x.status (if x.t.idle then s else s.flushNode x.ctxRef n) d 0

end Sys2Proof.Machine
end

