-- ==== Sys2Proof/Machine/Census.lean ====
section
/-!
DEFINITION. The key directory, soliciting, responders, combining and the census slot (R379 to R395), with the part's steps of a
census and of a moving tile.
-/

namespace Sys2Proof.Machine

/-! ### The snapshot (R384, R385) -/

/-- CENSUS_SNAPSHOT (R384). -/
def execCensusSnapshot (cseq : Nat) (s : State) : Host.Outcome State Fault Refusal :=
  match s.censuses.find? fun c => c.cseq == cseq with
  | some c => if !c.snapped && decide (c.snapAt ≤ s.clk) then .next (s.snapshot c) else .next s
  | none => .next s

/-! ### The key directory (R379, R380, R393) -/

/-- The entry number of a header's registration on a core. -/
def Core.keyOf (k : Core) (uid header : Nat) : Option Nat :=
  k.keys.findIdx? fun o => o.any fun e => e.uid == uid && e.header == header

/-- The lowest free entry. -/
def Core.freeKey (k : Core) : Option Nat := k.keys.findIdx? fun o => o.isNone

/-- The entry of a number. -/
def Core.key (k : Core) (i : Nat) : Option KeyEntry := k.keys.getD i none

/-- The header that a handle names for a directory instruction. -/
def Iss.header (x : Iss) (n : Nat) : Nat := ((handlesOf x.g x.t).getD n none).getD 0

/-- A directory instruction: nothing with no running lane, then its handle's checks (R152, R393), then due snapshots. -/
def Iss.directory (x : Iss) (n : Nat) (k : State → Core → Act) : Act :=
  if x.t.idle then .ok x.s
  else
    x.checked (handleCheck x.g x.t n) <|
      let s := x.s.takeDue
      match s.core? x.g.core with
      | some c => k s c
      | none => .ok s

/-- ILLEGAL for a census responder (R383). -/
def Iss.noResponder (x : Iss) (k : Act) : Act := if x.t.responder.isSome then x.trapWord trapIllegal else k

/-- TREG (R380, R393). -/
def execTreg (d a t : RegField) (s : State) : Host.Outcome State Fault Refusal :=
  issue (.treg d a t) s fun x =>
    x.directory t.toNat fun s c =>
      let key := x.t.sreg (nextField a) ++ x.t.sreg a
      let h := x.header t.toNat
      match c.keyOf x.g.uid h with
      | some i =>
        x.status (s.modCore x.g.core fun c => { c with keys := modAt c.keys i fun o => o.map fun e => { e with key := key } }) d 1
      | none =>
        match c.freeKey, s.ctxOf x.g with
        | some i, some ctx =>
          let e : KeyEntry :=
            { key := key, part := x.g.part, ctxid := x.g.ctxid, gen := ctx.gen, uid := x.g.uid, gid := x.g.gid, header := h, held := []
              id := s.nextSeq }
          x.status ({ s with nextSeq := s.nextSeq + 1 }.modCore x.g.core fun c => { c with keys := setAt c.keys i (some e) }) d 0
        | _, _ => x.status s d 2

/-- The entry is held (R379). -/
def Core.keyHeld (k : Core) (i : Nat) : Bool := (k.key i).any fun e => !e.held.isEmpty

/-- TDEREG (R380): held at issue while its entry is held. -/
def execTdereg (d t : RegField) (s : State) : Host.Outcome State Fault Refusal :=
  issue (.tdereg d t) s fun x =>
    x.noResponder <| x.directory t.toNat fun s c =>
      match c.keyOf x.g.uid (x.header t.toNat) with
      | none => x.status s d 3
      | some i =>
        if c.keyHeld i then .hold s
        else x.status (s.modCore x.g.core fun c => { c with keys := setAt c.keys i none }) d 0

/-! ### TMOVE (R381) -/

/-- The group of the same phase with a number, started and not retired. -/
def State.moveTo (s : State) (g : Group) (gid : Nat) : Option Group :=
  s.groups.find? fun d =>
    d.part == g.part && d.ctxid == g.ctxid && d.lid == g.lid && d.gid == gid && (d.state == .running || d.state == .draining)

/-- A scratchpad holds a tile's header and data. -/
def Group.holdsTile (g : Group) (h : Hdr) : Bool := decide (h.off + 32 ≤ g.padSize ∧ h.doff + h.area ≤ g.padSize)

/-- TMOVE (R381): the tile's move begins and holds the team until TMOVE_COMPLETE ends it. -/
def execTmove (d b t : RegField) (s : State) : Host.Outcome State Fault Refusal :=
  issue (.tmove d b t) s fun x =>
    x.noResponder <| x.directory t.toNat fun s c =>
      let h := x.g.hdr (x.header t.toNat)
      match (c.keyOf x.g.uid h.off).bind fun i => (c.key i).map fun e => (i, e.id) with
      | none => x.status s d 3
      | some (i, id) =>
        match s.moveTo x.g ((x.t.sreg b).extractLsb' 0 16).toNat with
        | none => x.status s d 1
        | some g =>
          if !g.holdsTile h then x.status s d 4
          else if c.keyHeld i then .hold s
          else .ok (s.modTeam x.r fun t => { t with hold := .tmove d i g.uid id })

/-- The team leaves its TMOVE with a status. -/
def State.endMove (s : State) (r : TeamRef) (d : RegField) (st : Nat) : State :=
  (s.modTeam r fun t => { (t.putS d (BitVec.ofNat 32 st)) with hold := .none }).moved

/-- The bytes of a tile's data area as its move reads them; one beyond the source's scratchpad is any byte (log entry 52). -/
def movedBytes (v : Group) (h : Hdr) (n : Nat) : List Byte :=
  (List.range h.area).map fun i => if h.doff + i < v.padSize then memRead v.pad (h.doff + i) else Config.movedByte n i

/-- The entry of a group's header is held. -/
def State.headerHeld (s : State) (g : Group) (header : Nat) : Bool :=
  (s.core? g.core).any fun k => (k.keyOf g.uid header).any k.keyHeld

/-- A header has no entry. -/
def Core.unregister (k : Core) (uid header : Nat) : Core :=
  { k with keys := k.keys.map fun o => if o.any fun e => e.uid == uid && e.header == header then none else o }

/-- An entry takes the lowest free place. -/
def Core.register (k : Core) (e : KeyEntry) : Core := { k with keys := setAt k.keys (k.freeKey.getD 0) (some e) }

/-- The tile of a view of its group is copied at the same offsets, as stores of the team, and its entry switched where it is not
held and the destination's directory is not full (R381). An entry that the header has at the destination goes, once no census holds
it: a header has at most one (R379; log entry 52). -/
def State.moveTile (s : State) (r : TeamRef) (v dst : Group) (d : RegField) (i : Nat) (e : KeyEntry) : State :=
  let h := v.hdr e.header
  let s := s.modGroup dst.uid fun x =>
    ((x.padWrite h.off (memReadN v.pad h.off 32)).padWords h.doff (movedBytes v h s.steps)).madeBy r x.vers
  if !e.held.isEmpty || s.headerHeld dst e.header then s
  else if ((s.core? dst.core).bind Core.freeKey).isNone then s.endMove r d 2
  else
    let s := s.modCore v.core fun c => { c with keys := setAt c.keys i none }
    (s.modCore dst.core fun c => (c.unregister dst.uid e.header).register { e with uid := dst.uid, gid := dst.gid }).endMove r d 0

/-- A TMOVE ends, or copies again once its entry is free. -/
def State.finishMove (s : State) (r : TeamRef) : State :=
  let s := s.takeDue
  match s.group? r.uid, s.team? r with
  | some g, some t =>
    match t.hold with
    | .tmove d i destUid id =>
      let v := s.engineView g
      match ((s.core? g.core).bind fun k => k.key i).filter fun e => e.id == id, s.group? destUid with
      | none, _ => s.endMove r d 3
      | _, none => s.endMove r d 1
      | some e, some dst =>
        if !dst.holdsTile (v.hdr e.header) then s.endMove r d 4 else s.moveTile r v dst d i e
    | _ => s
  | _, _ => s

/-- TMOVE_COMPLETE (R381). -/
def execTmoveComplete (uid tid : Nat) (s : State) : Host.Outcome State Fault Refusal :=
  .next ((s.finishMove { uid := uid, tid := tid }).finishTry { uid := uid, tid := tid })

/-! ### SOLICIT (R382, R383) -/

/-- The limits on NWORDS of an operation (R382). -/
def solicitWordsOk (op n : Nat) : Bool :=
  match op with
  | 3 => decide (2 ≤ n ∧ n ≤ 66) && n % 2 == 0
  | 4 => decide (2 ≤ n ∧ n ≤ 66) && n % 2 == 0
  | 6 => n == 2
  | 7 => decide (3 ≤ n ∧ n ≤ 66)
  | _ => decide (1 ≤ n ∧ n ≤ 66)

/-- The index of the responder's team that an entry names (R382): VECTOR, 32 lanes, at most 32 registers, in no variant. -/
def Kernel.responderTeam (k : Kernel) (entry : Nat) : Option Nat :=
  match k.entries[entry]? with
  | none => none
  | some a =>
    (List.range k.teams.length).find? fun i =>
      (k.teams[i]?).any fun t =>
        t.entry == a && t.role == .vector && t.lanes == 32 && decide (t.vregs ≤ 32) && !k.scheds.any fun v => bitOf v.mask i

/-- Step 3 of R383: the responder's team where the record passes. -/
def solicitOk (padSize : Nat) (k : Kernel) (bs : List Byte) : Option Nat :=
  let roff := fieldAt bs 0x14 4
  let n := fieldAt bs 0x11 1
  if zeroAt bs 0x13 1 = true ∧ zeroAt bs 0x18 40 = true ∧ fieldAt bs 0x10 1 ≤ 7 ∧ solicitWordsOk (fieldAt bs 0x10 1) n = true ∧
      roff % 4 = 0 ∧ roff + 4 * n ≤ padSize then k.responderTeam (fieldAt bs 0x12 1)
  else none

/-- A census as SOLICIT starts it (R383, R384, R386). -/
def Iss.newCensus (x : Iss) (id : BitVec 16) (decl : Nat) (bs : List Byte) : Census :=
  { cseq := x.s.nextSeq, id := id, part := x.g.part, ctxid := x.g.ctxid, uid := x.g.uid, tid := x.t.tid, freed := false,
    key := BitVec.ofNat 64 (fieldAt bs 0 8), mask := BitVec.ofNat 64 (fieldAt bs 8 8), op := fieldAt bs 0x10 1,
    nwords := fieldAt bs 0x11 1, image := x.g.image, kidx := x.g.kidx, decl := decl, roff := fieldAt bs 0x14 4,
    args := wordsOfBytes 16 (bs.drop 0x40), snapAt := x.s.clk + 6, snapped := false, matched := 0, pieces := [], state := .opened,
    result := [], status := 0, trapvec := x.t.trapvec, rmode := x.t.rmode, wth := x.t.wth, dropseed := x.t.dropseed,
    dropp := x.t.dropp, dropscl := x.t.dropscl, askCore := x.g.core }

/-- Censuses of a partition that are OPEN. -/
def State.openCensuses (s : State) (part : Nat) : Nat := (s.censuses.filter fun c => c.part == part && c.state == .opened).length

/-- Steps 4 and 5 of R383. -/
def Iss.startCensus (x : Iss) (c : Ctx) (d : RegField) (decl : Nat) (bs : List Byte) : Act :=
  if 8 ≤ x.t.censuses.length ∨ 64 ≤ x.s.openCensuses x.g.part then x.status x.s d 0xFFFFFFFF
  else x.release fun x =>
    let s := x.s.modCtx x.g.part x.g.ctxid fun c => { c with nextCensus := c.nextCensus + 1 }
    let s := { s with censuses := s.censuses ++ [x.newCensus c.nextCensus decl bs], nextSeq := s.nextSeq + 1 }
    x.status (s.modTeam x.r fun t => { t with censuses := t.censuses ++ [x.s.nextSeq] }) d c.nextCensus.toNat

/-- SOLICIT (R383). -/
def execSolicit (d a : RegField) (s : State) : Host.Outcome State Fault Refusal :=
  issue (.solicit d a) s fun x =>
    x.noResponder <|
      if x.t.idle then .ok x.s
      else
        let off := (x.t.sreg a).toNat
        if off % 64 ≠ 0 ∨ x.g.padSize < off + 128 then .trap trapBounds (BitVec.ofNat 64 off)
        else
          let v := x.padView
          let bs := memReadN v.1.pad off 128
          let x := { x with s := x.s.modTeam x.r fun t => { t with padSeen := v.2 ++ t.padSeen } }
          match (x.s.kernelOf x.g).bind fun k => solicitOk x.g.padSize k bs, x.s.ctxOf x.g with
          | some decl, some c => x.startCensus c d decl bs
          | _, _ => x.trapWord trapFormat

/-! ### Responders (R385, R386) -/

/-- Responders that run on a core. -/
def State.respondersOn (s : State) (core : Nat) : Nat :=
  ((s.groups.filter fun g => g.core == core && g.resident).map fun g => (g.teams.filter fun t => t.responder.isSome).length).sum

/-- The first piece of a census that waits on a core. -/
def Census.nextPiece (c : Census) (core : Nat) : Option Piece := c.pieces.find? fun p => p.core == core && p.state == .waiting

/-- The responder's declaration. -/
def State.responderDecl (s : State) (c : Census) : Option TeamDecl :=
  ((s.ctx? c.part c.ctxid).bind fun x => x.kernel? c.image c.kidx).bind fun k => k.teams[c.decl]?

/-- Changes the state of a piece. -/
def Census.setPiece (c : Census) (core order : Nat) (st : PieceState) : Census :=
  { c with pieces := modWhere c.pieces (fun p => p.core == core && p.order == order) fun p => { p with state := st } }

/-- A responder as it starts (R386), an acquire (R114). Its TEAMID and stack region are those of its declared index (log entry 19). -/
def responderTeam (s : State) (c : Census) (x : Ctx) (g : Group) (p : Piece) (d : TeamDecl) (part : Nat) : Team :=
  let stackVa := ((s.launch? g.lid).map fun l => l.record.stackVa).getD 0
  let sbase := BitVec.ofNat 64 (stackVa + (g.gid * 16 + c.decl) * g.stackSz)
  let headers := p.entries.map fun i => ((s.core? p.core).bind fun k => k.key i).map fun e => e.header
  let low := [BitVec.ofNat 32 p.entries.length, c.id.zeroExtend 32, BitVec.ofNat 32 c.askCore, BitVec.ofNat 32 c.nwords]
  { (teamReset (16 + s.nextSeq) .vector 32 d.vregs d.entry).acquired s.vers g.vers with
    age := s.nextAge, started := true, part := part, sregs := low ++ List.replicate 12 0 ++ c.args, slim := sbase + BitVec.ofNat 64 g.stackSz
    sbase := sbase, trapvec := c.trapvec, trapmask := x.trapmask &&& 0x3FFFE#32, rmode := c.rmode, wth := c.wth
    dropseed := c.dropseed, dropp := c.dropp, dropscl := c.dropscl
    responder := some { decl := c.decl, cseq := c.cseq, core := p.core, order := p.order, entries := p.entries, responded := false,
                        handles := headers ++ List.replicate (16 - headers.length) none, image := c.image, kidx := c.kidx } }

/-- Starts the responder of a piece. -/
def State.startResponder (s : State) (c : Census) (x : Ctx) (g : Group) (p : Piece) (d : TeamDecl) : State :=
  let part := (choosePart (s.usage p.core).parts 1000).getD 0
  let t := responderTeam s c x g p d part
  let s := (s.acquiredOn g.core).modGroup g.uid fun g => { g with teams := g.teams ++ [t] }
  ({ s with nextSeq := s.nextSeq + 1, nextAge := s.nextAge + 1 }.modCensus c.cseq fun c => c.setPiece p.core p.order .running).moved

/-- RESPONDER_START (R385): the overlay is resident, or its load is started; where no slot can be chosen the piece answers null. -/
def execResponderStart (cseq core : Nat) (s : State) : Host.Outcome State Fault Refusal :=
  match s.censuses.find? fun c => c.cseq == cseq with
  | none => .next s
  | some c =>
    match c.nextPiece core, s.ctx? c.part c.ctxid, s.responderDecl c with
    | some p, some x, some d =>
      match s.group? p.uid with
      | none => .next (s.modCensus cseq fun c => c.setPiece core p.order .null).moved
      | some g =>
        if 4 ≤ s.respondersOn core then .next s
        else
          match (s.core? core).bind fun k => k.slotOf? x.asid c.image (ovlOf d.entry) with
          | some o => if o.loaded then .next (s.startResponder c x g p d) else .next s
          | none =>
            match s.needOverlay x core c.image (ovlOf d.entry) with
            | some s => .next s.moved
            | none =>
              .next (s.modCensus cseq fun c => { (c.setPiece core p.order .null) with status := c.status ||| 0x80#32 }).moved
    | _, _, _ => .next s

/-- Word `w` of a responder's payload (R394). -/
def payloadWord (t : Team) (a : RegField) (w : Nat) : Word :=
  let l := w % 32
  if (t.lanes[l]?.map fun x => x.exited).getD true then 0 else t.reg32 (a + BitVec.ofNat 7 (w / 32)) l

/-- RESPOND (R387, R394). -/
def execRespond (a : RegField) (s : State) : Host.Outcome State Fault Refusal :=
  issue (.respond a) s fun x =>
    match x.t.responder with
    | none => x.trapWord trapIllegal
    | some i =>
      match x.s.censuses.find? fun c => c.cseq == i.cseq with
      | none => x.trapWord trapIllegal
      | some c =>
        if i.responded || decide (x.t.nvreg < a.toNat + ceilDiv c.nwords 32) then x.trapWord trapIllegal
        else
          x.release fun x =>
            let words := (List.range c.nwords).map (payloadWord x.t a)
            let s := x.s.modCensus i.cseq fun c => c.setPiece i.core i.order (.answered words)
            .ok (s.modTeam x.r fun t => { t with responder := some { i with responded := true } })

/-! ### Combining (R388, R389) -/

/-- A payload with the flags gathered. -/
abbrev Payload := List Word × Flags

/-- One factor of LSE (R389): 1.0 for the payload that holds the maximum. -/
def lseFactor (x m : Word) : Word × Flags :=
  if x = m then (0x3F800000#32, 0#6)
  else
    let d := subNE x m
    let e := sfuBits .exp2 rneRounding d.1.toNat
    (BitVec.ofNat 32 e.1, d.2 ||| e.2)

/-- One word of an LSE combination. -/
def lseWord (fx fy x y : Word) : Word × Flags :=
  let a := mulNE x fx
  let b := mulNE y fy
  let c := addNE a.1 b.1
  (c.1, a.2 ||| b.2 ||| c.2)

/-- The LSE and LSEV combination (R389). -/
def lseCombine (x y : List Word) : Payload :=
  let x0 := x.headD 0
  let y0 := y.headD 0
  let m := maxKey x0 y0
  let fx := lseFactor x0 m
  let fy := lseFactor y0 m
  let ws := ((x.drop 1).zip (y.drop 1)).map fun p => lseWord fx.1 fy.1 p.1 p.2
  (m :: ws.map (·.1), fx.2 ||| fy.2 ||| orAll (ws.map (·.2)))

/-- ⊕ (R389): `x` is the earlier child. -/
def censusCombine (op : Nat) (x y : Payload) : Payload :=
  let each := fun (f : Word → Word → Word × Flags) =>
    let ws := (x.1.zip y.1).map fun p => f p.1 p.2
    (ws.map (·.1), orAll (ws.map (·.2)))
  let r : Payload := match op with
    | 0 => each addNE
    | 1 => each fun a b => (maxKey a b, 0#6)
    | 2 => each fun a b => (minKey a b, 0#6)
    | 3 => each fun a b => (a ||| b, 0#6)
    | 4 => each fun a b => (a &&& b, 0#6)
    | 5 => each fun a b => (a + b, 0#6)
    | _ => lseCombine x.1 y.1
  (r.1, x.2 ||| y.2 ||| r.2)

/-- The empty result of an operation (R389). -/
def censusEmpty (op n : Nat) : List Word :=
  match op with
  | 1 => List.replicate n 0xFFFFFFFF
  | 2 => List.replicate n 0x7FFFFFFF
  | 4 => List.replicate n 0xFFFFFFFF
  | 6 => 0xFF800000#32 :: List.replicate (n - 1) 0
  | 7 => 0xFF800000#32 :: List.replicate (n - 1) 0
  | _ => List.replicate n 0

/-- Folds the present children of a node in ascending order (R388). -/
def foldPresent (op : Nat) (l : List (Option Payload)) : Option Payload :=
  l.foldl (fun a b =>
    match a, b with
    | some x, some y => some (censusCombine op x y)
    | some x, none => some x
    | none, b => b) none

/-- One level of the tree: nodes of `k` children. -/
def treeLevel (op k : Nat) : Nat → List (Option Payload) → List (Option Payload)
  | 0, _ => []
  | _, [] => []
  | n + 1, l => foldPresent op (l.take k) :: treeLevel op k n (l.drop k)

/-- A piece's payload. -/
def Piece.payload (p : Piece) : Option Payload :=
  match p.state with
  | .answered ws => some (ws, 0#6)
  | _ => none

/-- A core's value: its responders' payloads in order (R388). -/
def Census.coreValue (c : Census) (core : Nat) : Option Payload :=
  foldPresent c.op ((c.pieces.filter fun p => p.core == core).map Piece.payload)

/-- The value at the root: level-1 nodes of four cores, level-2 nodes of four, partition roots of two, a top node of eight
(R388). -/
def Census.root (c : Census) : Option Payload :=
  let cores := (List.range 256).map c.coreValue
  let l1 := treeLevel c.op 4 64 cores
  let l2 := treeLevel c.op 4 16 l1
  let roots := treeLevel c.op 2 8 l2
  foldPresent c.op roots

/-! ### Closing and aborting (R390) -/

/-- Every piece has answered. -/
def Census.complete (c : Census) : Bool :=
  c.snapped && c.pieces.all fun p => match p.state with
    | .waiting => false
    | .running => false
    | _ => true

/-- Releases everything that a census holds. -/
def State.releaseAll (s : State) (cseq : Nat) : State :=
  { s with cores := s.cores.map fun k => { k with keys := k.keys.map fun o => o.map fun e =>
      { e with held := e.held.filter fun q => q != cseq } } }

/-- The census is CLOSED with its result, which the part writes at ROFF where the asker's scratchpad still holds the place. -/
def State.closeCensus (s : State) (c : Census) : State :=
  let v := c.root
  let result := (v.map (·.1)).getD (censusEmpty c.op c.nwords)
  let flags := (v.map (·.2)).getD 0#6
  let s := (s.releaseAll c.cseq).modCensus c.cseq fun c => { c with
    state := .closed, result := result
    status := c.status ||| (if v.isNone then 0x20#32 else 0) ||| ((flags &&& 0xF#6).zeroExtend 32) }
  match s.group? c.uid with
  | some g =>
    if c.roff + 4 * c.nwords ≤ g.padSize then (s.modGroup c.uid fun g => g.padWords c.roff (bytesOfWords result)).moved else s.moved
  | none => { s with censuses := s.censuses.filter fun x => x.cseq != c.cseq }.moved

/-- A responder of a census has not retired. -/
def State.responding (s : State) (cseq : Nat) : Bool := s.groups.any fun g => g.teams.any fun t => t.responder.any fun i => i.cseq == cseq

/-- The census can close: every core has answered, and its responders have retired, so that their entries stay held until then
(R379, R386, R448); in a context that is being saved they retire after it (log entry 41). -/
def State.censusDone (s : State) (c : Census) : Bool :=
  c.complete && (!s.responding c.cseq || (s.ctx? c.part c.ctxid).any fun x => x.state == .preempting)

/-- CENSUS_CLOSE (R390). -/
def execCensusClose (cseq : Nat) (s : State) : Host.Outcome State Fault Refusal :=
  match s.censuses.find? fun c => c.cseq == cseq with
  | some c => if c.state = .opened ∧ s.censusDone c = true then .next (s.closeCensus c) else .next s
  | none => .next s

/-- Discards the responders of a census (R390). -/
def State.dropResponders (s : State) (cseq : Nat) : State :=
  let ofCensus := fun (t : Team) => t.responder.any fun i => i.cseq == cseq
  s.groups.foldl (fun s g =>
    let gone := g.teams.filter ofCensus
    let s := gone.foldl (fun s t => s.detach g.part fun w => w == .team { uid := g.uid, tid := t.tid }) s
    if gone.isEmpty then s else s.modGroup g.uid fun g => { g with teams := g.teams.filter fun t => !ofCensus t }) s

/-- The census is ABORTED: its responders are stopped and discarded, its holds released, and nothing is written (R390). -/
def State.abortCensus (s : State) (c : Census) : State :=
  let s := ((s.dropResponders c.cseq).releaseAll c.cseq).modCensus c.cseq fun c => { c with state := .aborted }
  (s.modCtx c.part c.ctxid fun x => { x with nabort := x.nabort + 1 }).moved

/-- CENSUS_WAIT_EXPIRE (R96): a census still OPEN 100 µs, 70,000 a-clk, after its context stopped issuing. Its snapshot has been taken
by then (R384). -/
def execCensusWaitExpire (cseq : Nat) (s : State) : Host.Outcome State Fault Refusal :=
  let s := s.takeDue
  match s.censuses.find? fun c => c.cseq == cseq with
  | some c =>
    match s.ctx? c.part c.ctxid with
    | some x => if c.state = .opened ∧ x.state = .preempting ∧ x.saveClk + 70000 ≤ s.clk then .next (s.abortCensus c) else .next s
    | none => .next s
  | none => .next s

/-! ### CENSUS, CRES (R391, R395) -/

/-- The census of a team with an id. -/
def State.slotOf (s : State) (t : Team) (id : BitVec 16) : Option Census :=
  s.censuses.find? fun c => t.censuses.contains c.cseq && c.id == id

/-- The status word (R391); STATE 3 where no slot has the id. -/
def censusWord (c : Option Census) : Word :=
  match c with
  | none => 0x300#32
  | some c =>
    c.status ||| match c.state with
      | .opened => 0x000#32
      | .closed => 0x100#32
      | .aborted => 0x200#32

/-- Frees a census slot that is no longer OPEN. -/
def State.freeCensus (s : State) (r : TeamRef) (c : Census) : State :=
  if c.state = .opened then s
  else
    { s.modTeam r (fun t => { t with censuses := t.censuses.filter fun q => q != c.cseq }) with
      censuses := s.censuses.filter fun x => x.cseq != c.cseq }

/-- CENSUS (R395): reporting CLOSED is an acquire. -/
def execCensus (d a k : RegField) (s : State) : Host.Outcome State Fault Refusal :=
  issue (.census d a k) s fun x =>
    let c := x.s.slotOf x.t ((x.t.sreg a).extractLsb' 0 16)
    let w := censusWord c
    match c with
    | none => x.okTeam (x.t.putS d w)
    | some c =>
      if c.state = .opened ∧ k = 0 then .hold x.s
      else if c.state = .closed ∧ x.t.unread = true then .hold x.s
      else
        let s := if c.state = .closed then x.s.acquire x.r else x.s
        let s := if k = 2 then s.freeCensus x.r c else s
        .ok (s.modTeam x.r fun t =>
          if c.state = .closed then (t.putS d w).orFlags ((w.truncate 6) &&& 0xF#6) else t.putS d w)

/-- A payload word, a count or the status of a census (R395). -/
def cresWord (c : Option Census) (k : Nat) : Word :=
  match c with
  | none => if k = 68 then censusWord none else 0
  | some c =>
    if k = 66 then BitVec.ofNat 32 (c.pieces.filter fun p => p.payload.isSome).length
    else if k = 67 then BitVec.ofNat 32 c.matched
    else if k = 68 then censusWord (some c)
    else if c.state = .closed ∧ k < c.nwords then c.result.getD k 0
    else 0

/-- CRES (R395): its result returns later. A snapshot whose a-clk has come is taken first, since its matches can be read (R384). -/
def execCres (d a k : RegField) (s : State) : Host.Outcome State Fault Refusal :=
  issue (.cres d a k) s fun x =>
    let s := x.s.takeDue
    .ok (s.modTeam x.r fun t => t.addPend [pendS d (cresWord (s.slotOf x.t ((x.t.sreg a).extractLsb' 0 16)) k.toNat)])

end Sys2Proof.Machine
end

