-- ==== Sys2Proof/Machine/Close.lean ====
section
/-!
DEFINITION. QCLOSE (R235, R243): closing a queue while a producer waits.
-/

namespace Sys2Proof.Machine

/-- Closing a queue (R243): loads into it are cancelled, of which those whose data wait for a page are in flight no longer, every entry is removed, and the queue is CLOSED once nothing of it
is in flight. A team whose other requests have all been answered replays now; one that has exited may finish. -/
def State.closeQueue (s : State) (g : Group) (n : Nat) : State :=
  let p := g.teams.foldl (fun p t =>
    let q := p.1.cancelLoads g.part { uid := g.uid, tid := t.tid } n t
    (q.1, p.2 + q.2)) (s, 0)
  let s := p.1.modGroup g.uid fun g => (g.modQueue n fun q =>
    let fly := (q.entries.filter fun e => e.waiting && !e.faulted).length
    { q with
      state := if fly = 0 then .closed else .closing
      entries := [], inFlight := fly, cancelled := q.cancelled + BitVec.ofNat 32 p.2,
      flushed := q.flushed + BitVec.ofNat 32 q.entries.length }).touchQ s.clk
  (g.teams.filter fun t => t.replay.any (ReplayItem.ofQueue n)).foldl (fun s t =>
    let r : TeamRef := { uid := g.uid, tid := t.tid }
    (s.tryReplay r).finishTry r) s

/-- The a-clk of a QCLOSE: pushes of its own a-clk are refused, so it comes after those that were not (R235; log entry 3). -/
def Queue.closeClk (q : Queue) (clk : Nat) : Nat := if q.pushAt = some clk then clk + 1 else clk

/-- QCLOSE (R235). -/
def execQclose (q : BitVec 4) (s : State) : Host.Outcome State Fault Refusal :=
  issue (.qclose q) s fun x =>
    if x.t.idle then .ok x.s
    else
      x.withQueue q fun qu =>
        if qu.state == .opened then .ok ({ x.s with clk := qu.closeClk x.s.clk }.closeQueue x.g qu.num) else .ok x.s

end Sys2Proof.Machine
end

