-- ==== Sys2Proof/Machine/Fetch.lean ====
section
/-!
DEFINITION. The fetch unit: descriptors, the Huffman decoder, its cache, rows on their way into tiles (R321 to R324), and the
FETCH instructions (R326 to R328).
-/

namespace Sys2Proof.Machine

/-! ### Descriptors (R321 to R323, R326) -/

/-- The pairs the format decoder allows (R322). -/
def fetchPairOk (a b : Fmt) : Bool :=
  a == b || ((a == .e4m3 || a == .e5m2) && (b == .bf16 || b == .fp16 || b == .fp32)) ||
    ((a == .bf16 || a == .fp16) && b == .fp32) || (a == .int8 && b == .int32)

/-- The code lengths of an HTAB, symbol by symbol (R323). -/
def htabLens (bs : List Byte) : List Nat := bs.flatMap fun b => [b.toNat % 16, b.toNat / 16]

/-- A table with some symbol and Σ 2^−len at most 1 (R326). -/
def htabOk (lens : List Nat) : Bool :=
  lens.any (· != 0) && decide ((lens.map fun n => if n = 0 then 0 else 2 ^ (15 - n)).sum ≤ 2 ^ 15)

/-- The status of a record without its table (R326): fields first, then the pair. An ENC other than 0 and 1, and an OTAB or HTAB
that ENC 0 leaves unused, count as reserved fields. -/
def recordStatus (bs : List Byte) : Nat :=
  let enc := fieldAt bs 0x20 1
  let nrows := fieldAt bs 0x18 4
  let rowb := fieldAt bs 0x1C 4
  if 1 < enc ∨ (enc = 0 ∧ fieldAt bs 8 16 ≠ 0) ∨ fieldAt bs 0x22 30 ≠ 0 ∨ nrows = 0 ∨ 2 ^ 24 < nrows ∨ rowb = 0 ∨
      8192 < rowb then 1
  else
    match shapeFmt (bitsOf (fieldAt bs 0x21 1) 0 4), shapeFmt (bitsOf (fieldAt bs 0x21 1) 4 4) with
    | some a, some b => if fetchPairOk a b then 0 else 2
    | _, _ => 2

/-- The descriptor of a valid record. -/
def descOf (bs : List Byte) (lens : List Nat) : FetchDesc :=
  { base := fieldAt bs 0 8, otab := fieldAt bs 8 8, htab := fieldAt bs 0x10 8, nrows := fieldAt bs 0x18 4,
    rowb := fieldAt bs 0x1C 4, enc := fieldAt bs 0x20 1,
    fsrc := (shapeFmt (bitsOf (fieldAt bs 0x21 1) 0 4)).getD .fp32,
    fdst := (shapeFmt (bitsOf (fieldAt bs 0x21 1) 4 4)).getD .fp32, lens := lens }

/-- The descriptor that an sB names. -/
def descIndex (w : Word) : Nat := bitsOf w.toNat 0 4

/-- The home slices of a run of bytes have taken and answered its requests: the instruction is held until then (R163, R313). -/
def Iss.runServed (x : Iss) (c : Ctx) (s : State) (va n : Nat) : State :=
  match s.part? c.part with
  | none => s
  | some pt =>
    (List.range (n / 128 + 1)).foldl (fun s i => s.sliceFreed x.g.core x.r (homeOf pt c.asid (va + 128 * i))) s

/-- Ordinary loads of a run of bytes by the team, parked on a fault and replayed whole (R298, R326). Its requests need the miss
queue (R314), and earlier loads of these bytes take no later value (R254). -/
def Iss.loadRun (x : Iss) (c : Ctx) (s : State) (va n : Nat) (k : State → List Byte → Act) : Act :=
  match (runFrom va n).find? fun a => decide (2 ^ 52 ≤ a) with
  | some a => .trap trapMemfault (BitVec.ofNat 64 a)
  | none => x.misses <|
    let q := x.readRun s c false va n
    if q.bad then .done (x.s.badAccess x.g x.t)
    else if q.left.isEmpty then
      k ((x.runServed c q.s va n).modTeam x.r fun t => (t.freeze [laneAt 0 va] n).sees q.seen) q.bytes
    else .hold (q.s.modTeam x.r fun t => t.addReplay t.prefixPc .whole q.left)

/-- Puts HDEF's result in place: the status, and the descriptor where it is 0. -/
def Iss.hdefDone (x : Iss) (s : State) (d : RegField) (i st : Nat) (desc : FetchDesc) : Act :=
  let s := s.modTeam x.r fun t => t.putS d (BitVec.ofNat 32 st)
  .ok (if st = 0 then s.modGroup x.r.uid fun g => { g with descs := g.descs.set i (some desc) } else s)

/-- HDEF (R326): the record, for ENC 1 the table too, and then the status. -/
def execHdef (d a b : RegField) (s : State) : Host.Outcome State Fault Refusal :=
  issue (.hdef d a b) s fun x =>
    match x.t.low?, x.s.ctxOf x.g with
    | some l, some c =>
      let va := (x.t.reg a l).toNat
      let i := descIndex (x.t.sreg b)
      if 2 ^ 52 ≤ va then .trap trapMemfault (BitVec.ofNat 64 va)
      else if va % 64 ≠ 0 then .trap trapAlign (BitVec.ofNat 64 va)
      else
        x.loadRun c x.s va 64 fun s bs =>
          let st := recordStatus bs
          if fieldAt bs 0x20 1 = 1 then
            x.loadRun c s (fieldAt bs 0x10 8) 128 fun s tab =>
              x.hdefDone s d i (if st ≠ 0 then st else if htabOk (htabLens tab) then 0 else 3) (descOf bs (htabLens tab))
          else x.hdefDone s d i st (descOf bs [])
    | _, _ => .ok x.s

/-! ### The Huffman decoder (R323) -/

/-- Symbols of a code length. -/
def countLen (lens : List Nat) (n : Nat) : Nat := if n = 0 then 0 else (lens.filter (· == n)).length

/-- The first code of length `n` (R323). -/
def firstCode (lens : List Nat) : Nat → Nat
  | 0 => 0
  | n + 1 => (firstCode lens n + countLen lens n) * 2

/-- The symbols of a length, in ascending value. -/
def symbolsOf (lens : List Nat) (n : Nat) : List Nat := (List.range lens.length).filter fun i => lens.getD i 0 == n

/-- The symbol of a code of length `n`, if it is assigned. -/
def symbolOf (lens : List Nat) (n code : Nat) : Option Nat :=
  if code < firstCode lens n then none else (symbolsOf lens n)[code - firstCode lens n]?

/-- Reads one code from the front of a bit string, at most `fuel` further bits. -/
def readCode (lens : List Nat) : Nat → Nat → Nat → List Bool → Option (Nat × List Bool)
  | 0, _, _, _ => none
  | _, _, _, [] => none
  | fuel + 1, n, code, b :: bs =>
    let code := 2 * code + (if b then 1 else 0)
    match symbolOf lens (n + 1) code with
    | some y => some (y, bs)
    | none => readCode lens fuel (n + 1) code bs

/-- Decodes `n` symbols; none where the row is in error. -/
def decodeRow (lens : List Nat) : Nat → List Bool → Option (List Byte)
  | 0, _ => some []
  | n + 1, bits =>
    match readCode lens 15 0 0 bits with
    | none => none
    | some (y, rest) => (decodeRow lens n rest).map (BitVec.ofNat 8 y :: ·)

/-- Stream bits of bytes: bit 7 of a byte comes first. -/
def streamBits (bs : List Byte) : List Bool := bs.flatMap fun b => (List.range 8).map fun i => b.getLsbD (7 - i)

/-! ### The cache (R324) -/

/-- What reading lines has come to: the state, the bytes, and where it stopped. -/
structure FetchRead where
  s     : State
  bytes : List Byte
  stop  : Option RunStop
  deriving DecidableEq, Repr

/-- A line as the cache of a core holds it; whether one that was taken in is still there is open, as it may have been replaced
(R324; log entry 22). -/
def State.cachedLine (s : State) (core tag line : Nat) : Option (List Byte) :=
  match ((s.core? core).map fun k => k.fetchLines).getD [] |>.find? fun e => e.1 == tag && e.2.1 == line with
  | some e => if Config.fetchKeeps s.free then some e.2.2 else none
  | none => none

/-- Lines of the 128 KiB fetch cache (R22). -/
def fetchCacheLines : Nat := 1024

/-- Takes a line into the cache in place of any older copy, and of the oldest line where the cache is full. -/
def Core.takeLine (k : Core) (tag line : Nat) (bs : List Byte) : Core :=
  { k with fetchLines :=
      ((tag, line, bs) :: k.fetchLines.filter fun e => !(e.1 == tag && e.2.1 == line)).take fetchCacheLines }

/-- One 128-byte line for the fetch unit. -/
def fetchLine (c : Ctx) (core : Nat) (noAlloc : Bool) (q : FetchRead) (line : Nat) : FetchRead :=
  if q.stop.isSome then q
  else if 2 ^ 52 ≤ line then { q with stop := some (.range line) }
  else
    let tag := asidTag c.asid line
    let hit := q.s.cachedLine core tag line
    let s := q.s.freeVal.2
    match hit with
    | some bs => { q with s := s, bytes := q.bytes ++ bs }
    | none =>
      let p := xlateBytes s c .read [line]
      match p.stop, p.places with
      | none, place :: _ =>
        let bs := p.s.readAt place 128
        { q with s := if noAlloc then p.s else p.s.modCore core fun k => k.takeLine tag line bs, bytes := q.bytes ++ bs }
      | stop, _ => { q with s := p.s, stop := stop }

/-- Reads `n` bytes at an address through the cache of a core. -/
def State.fetchBytes (s : State) (c : Ctx) (core : Nat) (noAlloc : Bool) (va n : Nat) : FetchRead :=
  if n = 0 then { s := s, bytes := [], stop := none }
  else
    let first := va / 128 * 128
    let q := ((List.range ((va + n - 1) / 128 - va / 128 + 1)).map fun i => first + 128 * i).foldl (fetchLine c core noAlloc)
      { s := s, bytes := [], stop := none }
    { q with bytes := (q.bytes.drop (va - first)).take n }

/-! ### Rows (R322 to R324) -/

/-- A source row widened to the destination format (R322). -/
def widenRow (d : FetchDesc) (bs : List Byte) : List Byte :=
  if d.fsrc = d.fdst then bs
  else
    let n := fmtBits d.fsrc / 8
    (List.range (bs.length / n)).flatMap fun i =>
      leBytes (fmtBits d.fdst / 8) (convBits d.fsrc d.fdst rneRounding (fieldAt bs (n * i) n)).1

/-- Bytes of a row as written. -/
def FetchDesc.outBytes (d : FetchDesc) : Nat := d.rowb * fmtBits d.fdst / fmtBits d.fsrc

/-- The bytes read from `va` on, with those of a word that the fetch has read already as it read them: each word of its range is
read once (R256). -/
def underCarry (carry : Option (Nat × List Byte)) (va : Nat) (bs : List Byte) : List Byte :=
  match carry with
  | none => bs
  | some (a, w) => bs.mapIdx fun i b => if a ≤ va + i then (w[va + i - a]?).getD b else b

/-- What fetching a row comes to: the written bytes, the word that the row ends in, whether the row is in error, or a stop. -/
structure RowRead where
  s     : State
  bytes : List Byte
  carry : Option (Nat × List Byte)
  err   : Bool
  stop  : Option RunStop
  deriving DecidableEq, Repr

/-- A row in error: zeros (R323). -/
def FetchDesc.errorRow (d : FetchDesc) (s : State) : RowRead :=
  { s := s, bytes := List.replicate d.outBytes 0, carry := none, err := true, stop := none }

/-- Reads `n` bytes of a row's data at an address, and of the word it ends in what is left (R256). -/
def State.rowBytes (s : State) (c : Ctx) (core : Nat) (noAlloc : Bool) (carry : Option (Nat × List Byte)) (va n : Nat) :
    FetchRead × Option (Nat × List Byte) :=
  let m := (8 - (va + n) % 8) % 8
  let q := s.fetchBytes c core noAlloc va (n + m)
  let bs := underCarry carry va q.bytes
  ({ q with bytes := bs.take n }, if m = 0 then none else some (va + n, bs.drop n))

/-- Reads and decodes row `i` of a descriptor. Of an ENC 1 row it reads the stream up to the next row's start, but no more than 15
bits for each byte, before it decodes (DEDUCED, log entry 37): a fault on one of these bytes stops the row. -/
def fetchRowBytes (s : State) (c : Ctx) (core : Nat) (noAlloc : Bool) (carry : Option (Nat × List Byte)) (d : FetchDesc) (i : Nat) : RowRead :=
  if d.enc = 0 then
    let p := s.rowBytes c core noAlloc carry (d.base + i * d.rowb) d.rowb
    { s := p.1.s, bytes := widenRow d p.1.bytes, carry := p.2, err := false, stop := p.1.stop }
  else
    let o := s.fetchBytes c core noAlloc (d.otab + 4 * i) 8
    let b0 := fieldAt o.bytes 0 4
    let b1 := fieldAt o.bytes 4 4
    if o.stop.isSome then { s := o.s, bytes := [], carry := none, err := false, stop := o.stop }
    else if b1 ≤ b0 then d.errorRow o.s
    else
      let last := min (b1 - 1) (b0 + 15 * d.rowb - 1)
      let p := o.s.rowBytes c core noAlloc carry (d.base + b0 / 8) (last / 8 - b0 / 8 + 1)
      let q := p.1
      if q.stop.isSome then { s := q.s, bytes := [], carry := none, err := false, stop := q.stop }
      else
        match decodeRow d.lens d.rowb (((streamBits q.bytes).drop (b0 % 8)).take (b1 - b0)) with
        | some bs => { s := q.s, bytes := widenRow d bs, carry := p.2, err := false, stop := none }
        | none => d.errorRow q.s

/-- Changes a fetch. -/
def State.modFetch (s : State) (seq : Nat) (f : Fetch → Fetch) : State :=
  { s with fetches := modWhere s.fetches (fun c => c.seq == seq) f }

/-- Writes a row into its tile row; a row that a carve has put past the scratchpad's end is cut there. -/
def Group.putRow (g : Group) (off : Nat) (bs : List Byte) (err : Bool) : Group :=
  let p := g.padWords off (bs.take (g.padSize - off))
  if err then { p with decErr := true } else p

/-- What a fetch can write after a row: the bytes held back before it and the row's, but for those of an aligned word that the next
row goes on with (R256). -/
def Fetch.writable (f : Fetch) (row : Nat) (rest : List (Nat × Nat)) (bs : List Byte) : List Byte × List Byte :=
  let all := f.tail ++ bs
  let stop := f.doff + row * f.rstride + bs.length
  let keep := match rest with
    | (_, next) :: _ => if f.doff + next * f.rstride = stop then min all.length (stop % 8) else 0
    | [] => 0
  (all.take (all.length - keep), all.drop (all.length - keep))

/-- FETCH_ROW (R324). -/
def execFetchRow (seq : Nat) (s : State) : Host.Outcome State Fault Refusal :=
  match s.fetches.find? fun f => f.seq == seq && f.waitReq.isNone with
  | none => .next s
  | some f =>
    match s.group? f.uid with
    | none => .next s
    | some g =>
      match s.ctxOf g, f.rows with
      | some c, (src, row) :: rest =>
        if c.state != .running then .next s
        else
          let q := fetchRowBytes s c g.core f.noAlloc f.carry f.desc src
          match q.stop with
          | some stop =>
            let p := q.s.engineStop c .read g.core (.fetch seq) stop
            match p.2 with
            | some tag => .next (p.1.modFetch seq fun f => { f with waitReq := some tag }).moved
            | none => .next p.1.moved
          | none =>
            let w := f.writable row rest q.bytes
            let s := q.s.modGroup g.uid fun g => g.putRow (f.doff + row * f.rstride - f.tail.length) w.1 q.err
            let s := if f.nobo then s else s.countBytes g.uid f.bo w.1.length
            let s := s.modFetch seq fun f =>
              { f with rows := rest, carry := q.carry, tail := w.2, counted := if f.nobo then f.counted else f.counted + w.1.length }
            .next { s with fetches := s.fetches.filter fun f => !(f.seq == seq && f.rows.isEmpty) }.moved
      | _, _ => .next s

/-- Aborts every fetch of a context's groups and keeps it whole (R324, R286, R287). -/
def State.abortFetches (s : State) (uids : List Nat) : State :=
  let mine := s.fetches.filter fun f => uids.contains f.uid
  let s := mine.foldl (fun s f => s.uncount (f.uid, f.bo, f.counted)) s
  { s with fetches := modWhere s.fetches (fun f => uids.contains f.uid) fun f =>
      { f with rows := f.all, counted := 0, waitReq := none, carry := none, tail := [] } }

/-! ### FETCH, FETCHX, FINV (R327, R328) -/

/-- Fetches a core holds. -/
def State.fetchesOn (s : State) (core : Nat) : Nat :=
  (s.fetches.filter fun f => (s.group? f.uid).any fun g => g.core == core && g.resident).length

/-- Step 5 of R327 for the rows as (source row, tile row). -/
def rowsCheck (g : Group) (h : Hdr) (d : FetchDesc) (rows : List (Nat × Nat)) : Check :=
  let fail := fun (p : (Nat × Nat) → Bool) (f : (Nat × Nat) → Nat) =>
    (rows.find? p).map fun r => (trapBounds, some (BitVec.ofNat 64 (f r)))
  firstFail [fail (fun r => decide (d.nrows ≤ r.1)) (·.1), fail (fun r => decide (h.rows ≤ r.2)) (·.2),
    fail (fun r => decide (g.padSize < h.doff + r.2 * h.rstride + d.outBytes)) (·.2)]

/-- The checks of R327 in their order. The manual gives no TRAPVA for an invalid descriptor (log entry 5). -/
def fetchCheck (x : Iss) (n : Nat) (h : Hdr) (d : Option FetchDesc) (rows : List (Nat × Nat)) : Check :=
  match handleCheck x.g x.t n, d with
  | some c, _ => some c
  | none, none => some (trapBounds, none)
  | none, some d =>
    firstFail [domCheck x.word h,
      failIf (h.malformed || h.fmt != some d.fdst || h.cols * fmtBits d.fsrc != 8 * d.rowb) trapFormat x.word,
      failIf (h.dom != 0) trapDomain x.word, rowsCheck x.g h d rows]

/-- FETCH and FETCHX (R324, R327): rows as (source row, tile row). With no running lane nothing is checked or fetched; a core
that holds 64 fetches holds the team. -/
def Iss.fetch (x : Iss) (n : Nat) (b : RegField) (rowsOf : Hdr → List (Nat × Nat)) : Act :=
  if x.t.idle then .ok x.s
  else
    let h := hdrAt x.g x.t n
    let w := (x.t.sreg b).toNat
    let desc := x.g.descs.getD (descIndex (x.t.sreg b)) none
    x.checked (fetchCheck x n h desc (rowsOf h)) <|
      match desc with
      | none => .ok x.s
      | some d =>
        if 64 ≤ x.s.fetchesOn x.g.core then .hold x.s
        else
          let f : Fetch :=
            { seq := x.s.nextSeq, uid := x.r.uid, tid := x.r.tid, desc := d, doff := h.doff, rstride := h.rstride,
              rows := rowsOf h, all := rowsOf h, bo := bitsOf w 4 5, nobo := bitOf w 9, counted := 0,
              noAlloc := x.t.noAlloc, waitReq := none }
          .ok { x.s with fetches := x.s.fetches ++ [f], nextSeq := x.s.nextSeq + 1 }

/-- FETCH (R327). -/
def execFetch (t a b : RegField) (s : State) : Host.Outcome State Fault Refusal :=
  issue (.fetch t a b) s fun x =>
    x.fetch t.toNat b fun h => (List.range h.rows).map fun i => ((x.t.sreg a).toNat + i, i)

/-- FETCHX (R327). -/
def execFetchx (t a b : RegField) (s : State) : Host.Outcome State Fault Refusal :=
  issue (.fetchx t a b) s fun x =>
    x.fetch t.toNat b fun h => x.t.run.map fun l => (h.ibase + (x.t.reg32 a l).toNat, l)

/-- An address in the rows or the OTAB of a descriptor. The rows of an ENC 1 descriptor reach at most 2^29 bytes from BASE. -/
def FetchDesc.covers (d : FetchDesc) (line : Nat) : Bool :=
  let within := fun (lo n : Nat) => decide (lo < line + 128 ∧ line < lo + n)
  if d.enc = 0 then within d.base (d.nrows * d.rowb)
  else within d.base (2 ^ 29) || within d.otab (4 * (d.nrows + 1)) || within d.htab 128

/-- FINV (R328). -/
def execFinv (d b : RegField) (s : State) : Host.Outcome State Fault Refusal :=
  issue (.finv d b) s fun x =>
    let s := x.s.modTeam x.r fun t => t.putS d (if x.g.decErr then 1 else 0)
    if x.t.idle then .ok s
    else
      match x.g.descs.getD (descIndex (x.t.sreg b)) none, x.s.ctxOf x.g with
      | some desc, some c =>
        let s := s.modCore x.g.core fun k => { k with fetchLines := k.fetchLines.filter fun e =>
          !(e.1 == asidTag c.asid e.2.1 && desc.covers e.2.1) }
        .ok (s.modGroup x.r.uid fun g => { g with decErr := false })
      | _, _ => .ok s

end Sys2Proof.Machine
end

