-- ==== Sys2Proof/Machine/Matrix.lean ====
section
/-!
DEFINITION. What job cards do: latching (R365, R366), streaming with the sums of R41 to R43 (R367), draining (R368) and peer
accumulation (R369), with the start checks of R364. A card reads and writes at one instant of its run (log entry 23).
-/

namespace Sys2Proof.Machine

/-! ### Start checks (R364) -/

/-- The status bit of the first check that fails. -/
def firstBit : List (Bool × Word) → Option Word
  | [] => none
  | (b, w) :: r => if b then some w else firstBit r

/-- A handle's header lies beyond the scratchpad, or the handle was unbound. -/
def hdrBeyond (g : Group) (h : Option Nat) : Bool :=
  match h with
  | some off => decide (g.padSize < off + 32)
  | none => true

/-- The header a captured handle names. -/
def capturedHdr (g : Group) (h : Option Nat) : Hdr := g.hdr (h.getD 0)

/-- The residual tile's header as a card read it at its start (R364). -/
def Card.residual (c : Card) : Hdr := hdrOf (c.handleB.getD 0) c.hdrB

/-- A data area lies beyond the scratchpad. -/
def areaBeyond (g : Group) (h : Hdr) : Bool := decide (g.padSize < h.doff + h.area)

/-- Bytes from `lo` to `hi` lie in the given regions. -/
def coveredFrom (rs : List Region) : Nat → Nat → Nat → Bool
  | 0, lo, hi => decide (hi ≤ lo)
  | n + 1, lo, hi =>
    if hi ≤ lo then true
    else
      match rs.find? fun r => decide (r.1 ≤ lo ∧ lo < r.1 + r.2.1) with
      | some r => coveredFrom rs n (r.1 + r.2.1) hi
      | none => false

/-- A card's footprint covers ranges (offset, length) that it reads, or writes (R355). -/
def Card.covers (c : Card) (write : Bool) (ranges : List (Nat × Nat)) : Bool :=
  let rs := (regionsOf c.bytes).filter fun r => !write || r.2.2
  ranges.all fun p => coveredFrom rs 5 p.1 (p.1 + p.2)

/-- The bytes of the first `cols` columns of a row at a base. -/
def rowRange (h : Hdr) (cols base : Nat) : Nat × Nat := (base, ceilDiv (cols * h.bits) 8)

/-- The bytes of the first `n` rows of a SPATIAL tile. -/
def rowRanges (h : Hdr) (n cols : Nat) : List (Nat × Nat) := (List.range n).map fun r => rowRange h cols (h.doff + r * h.rstride)

/-- The bytes of a Haar tile's layout: its rows and its bitmaps. -/
def layoutRanges (h : Hdr) (cols : Nat) : List (Nat × Nat) :=
  ((List.range h.storedRows).map fun k => rowRange h cols (h.doff + (h.lOff k).getD 0)) ++
    h.bitmaps.map fun p => (h.doff + p.2, h.bmBytes p.1)

/-! ### Banks (R353) -/

/-- An accumulator. -/
def Bank.get (b : Bank) (i j : Nat) : Word := (b.vals.getD i []).getD j 0

/-- Replaces the first `m` rows and `n` columns. -/
def Bank.update (b : Bank) (m n : Nat) (f : Nat → Nat → Word) : Bank :=
  { b with vals := (List.range (max m b.vals.length)).map fun i =>
      if i < m then (List.range (max n (b.vals.getD i []).length)).map fun j => if j < n then f i j else b.get i j
      else b.vals.getD i [] }

/-- A bank of an engine. -/
def Engine.bank (e : Engine) (b : Nat) : Bank := if b = 0 then e.bank0 else e.bank1

/-- Replaces a bank. -/
def Engine.setBank (e : Engine) (b : Nat) (x : Bank) : Engine := if b = 0 then { e with bank0 := x } else { e with bank1 := x }

/-- The tag of a SPATIAL bank. -/
def spatialTag : BankTag := { dom := 0, rows := 0, surv := [], bits := [] }

/-- The tag a tile gives. -/
def tagOf (g : Group) (h : Hdr) : BankTag :=
  if h.isHaar then
    { dom := h.dom, rows := h.rows, surv := h.surv, bits := (List.range h.levels).map fun k => g.bitmap h (k + 1) }
  else spatialTag

/-- Stored rows of a Haar tag. -/
def BankTag.stored (t : BankTag) : Nat := t.rows / 2 ^ t.dom + t.surv.sum

/-! ### Sums (R41 to R43) -/

/-- A NaN pattern. -/
def isNaNWord (w : Word) : Bool := decide (0x7F800000 < w.toNat % 2 ^ 31)

/-- RoundNE(x + y) in a task: every NaN is 0x7FC00000 with NV (R42). -/
def taskAdd (x y : Word) : Word × Flags := if isNaNWord x || isNaNWord y then (0x7FC00000#32, flagNV) else addNE x y

/-- RoundNE(x × y) in a task. -/
def taskMul (x y : Word) : Word × Flags := if isNaNWord x || isNaNWord y then (0x7FC00000#32, flagNV) else mulNE x y

/-- x + y modulo 2^32, OF where it wraps (R43). -/
def intAdd (x : Word) (y : Int) : Word × Flags :=
  let z := x.toInt + y
  (BitVec.ofInt 32 z, if -2147483648 ≤ z ∧ z ≤ 2147483647 then 0#6 else flagOF)

/-- The exact product of operands; none for a NaN (R42). -/
def exactProduct (a b : FVal) : Option FVal := if isNaN a || isNaN b then none else mulVal a b

/-- The exact sum of products; none for a NaN. A zero sum is −0 when every product is −0 (R41). -/
def exactDot (ps : List (FVal × FVal)) : Option FVal :=
  ps.foldl (fun acc p =>
    match acc, exactProduct p.1 p.2 with
    | some x, some y => addVal false x y
    | _, _ => none) (some (.fin true 0 0))

/-- A value scaled by a power of two. -/
def FVal.scale2 (v : FVal) (k : Int) : FVal :=
  match v with
  | .fin n m e => .fin n m (e + k)
  | v => v

/-- The exponent of a block code; none for 0xFF (R28). -/
def codeExp (c : Nat) : Option Int := if c = 255 then none else some ((c : Int) - 127)

/-- RoundNE of a group's sum. -/
def groupRound (ps : List (FVal × FVal)) (sa sb : Option Int) : Word × Flags :=
  match exactDot ps, sa, sb with
  | some v, some a, some b => patWord (roundVal .fp32 rneRounding (v.scale2 (a + b)))
  | _, _, _ => (0x7FC00000#32, flagNV)

/-- The sum of R41 over a row and a column, from group `g` on, `n` groups. -/
def sumFrom (ca cb : Nat → Option Int) : Nat → Nat → List (FVal × FVal) → Word → Word × Flags
  | 0, _, _, acc => (acc, 0#6)
  | n + 1, g, ps, acc =>
    let gr := groupRound (ps.take 32) (ca g) (cb g)
    let s := taskAdd acc gr.1
    let q := sumFrom ca cb n (g + 1) (ps.drop 32) s.1
    (q.1, gr.2 ||| s.2 ||| q.2)

/-- The sum of R43. -/
def intDot (a b : List Nat) (acc : Word) : Word × Flags :=
  intAdd acc ((a.zipWith (fun x y => signedOf 8 x * signedOf 8 y) b).foldl (· + ·) 0)

/-! ### Latching (R365) -/

/-- The format whose patterns a latch holds. -/
def latchFmt (f : Fmt) : Fmt := if f = .cb4 then .bf16 else f

/-- What a LATCH reads from a B tile: the elements where R152 places them, CB4 codes packed along a row (R27; log entry 52). -/
def readLatch (g : Group) (h : Hdr) (fb : Fmt) (codes : Bool) (scoff : Nat) : Latch :=
  let k := ceilDiv h.rows 32
  { k := h.rows, n := h.cols, fmt := fb,
    elems := (List.range h.rows).map fun r => (List.range h.cols).map fun c =>
      BitVec.ofNat 32 (g.elem h (g.rawAt h (h.doff + r * h.rstride) c)).2
    codes := if codes then some ((List.range h.cols).map fun j => memReadN g.pad (scoff + j * k) k) else none }

/-- The start checks of a LATCH that reads a tile. -/
def latchChecks (g : Group) (c : Card) (h : Hdr) (fb : Fmt) (codes : Bool) (scoff : Nat) : Option Word :=
  let n := h.cols * ceilDiv h.rows 32
  firstBit [(hdrBeyond g c.handleA || areaBeyond g h || (codes && decide (g.padSize < scoff + n)), taskBounds),
    (h.dom != 0, taskDomain), (h.malformed || h.fmt != some fb, taskFormat),
    (!c.covers false (rowRanges h h.rows h.cols ++ (if codes then [(scoff, n)] else [])), taskFootprint),
    (decide (128 < h.rows) || decide (256 < h.cols), taskShape)]

/-- What starting a card has come to: the state, status bits, and whether it pairs. -/
structure Started where
  s       : State
  status  : Word
  pairing : Bool
  deriving DecidableEq, Repr

/-- A card that failed a start check. -/
def failed (s : State) (w : Word) : Started := { s := s, status := w, pairing := false }

/-- FB of a LATCH. -/
def Card.fmtB (c : Card) : Fmt := (shapeFmt (bitsOf (c.u 5 1) 0 4)).getD .fp32

/-- Starts a LATCH on its engine (R365, R366): a sender then pairs with its receivers, a receiver waits for its sender. -/
def startLatch (s : State) (g : Group) (c : Card) (e : Nat) : Started :=
  if c.u 6 1 = 2 then { s := s, status := 0, pairing := true }
  else
    let h := capturedHdr g c.handleA
    let codes := bitOf (c.u 5 1) 4
    match latchChecks g c h c.fmtB codes (c.u 0x10 4) with
    | some w => failed s w
    | none =>
      { s := s.modEngine g.core e fun x => { x with latch := some (readLatch g h c.fmtB codes (c.u 0x10 4)) }, status := 0,
        pairing := c.u 6 1 == 1 }

/-! ### Streaming (R367) -/

/-- The rows a STREAM takes: their numbers and where they stand. -/
def streamRows (g : Group) (c : Card) (h : Hdr) : List (Nat × Nat) :=
  let n := c.u 0xA 2
  if bitOf (c.u 5 1) 5 then
    (List.range n).map fun i =>
      let r := memNat g.pad (c.u 0xC 4 + 2 * i) 2
      (r, h.doff + r * h.rstride)
  else if h.isHaar then (List.range h.storedRows).map fun i => (i, h.doff + (h.lOff i).getD 0)
  else
    let m := if n = 0 then h.rows - c.u 8 2 else n
    (List.range m).map fun i => (c.u 8 2 + i, h.doff + (c.u 8 2 + i) * h.rstride)

/-- R336 of a card's Haar tile, whose layout lies within the scratchpad: every level is judged (R364). -/
def Group.survWhole (g : Group) (h : Hdr) : Bool :=
  (List.range 6).all fun k => h.survOf (k + 1) == (if h.levels ≤ k then 0 else setBits (g.bitmap h (k + 1)))

/-- The start checks of a STREAM. -/
def streamChecks (g : Group) (c : Card) (h : Hdr) (fa : Fmt) (l : Option Latch) (b : Bank) : Option Word :=
  let idx := bitOf (c.u 5 1) 5
  let codes := bitOf (c.u 5 1) 4
  let zero := bitOf (c.u 6 1) 1
  let n := c.u 0xA 2
  let k := (l.map (·.k)).getD 0
  let grp := ceilDiv k 32
  let rows := streamRows g c h
  let pastRows := if idx then rows.any fun r => decide (h.rows ≤ r.1) else decide (h.rows < c.u 8 2 + n)
  let codeRanges := if codes then rows.map fun r => (c.u 0x10 4 + r.1 * grp, grp) else []
  let listRange := if idx then [(c.u 0xC 4, 2 * n)] else []
  let dataRanges := if h.isHaar then layoutRanges h h.cols else rows.map fun r => rowRange h h.cols r.2
  firstBit [(hdrBeyond g c.handleA || areaBeyond g h || (h.isHaar && decide (g.padSize < h.doff + h.layoutLen)) ||
      listRange.any (fun p => decide (g.padSize < p.1 + p.2)) || pastRows ||
      codeRanges.any (fun p => decide (g.padSize < p.1 + p.2)), taskBounds),
    (decide (7 ≤ h.dom) || (h.isHaar && (!g.survWhole h || idx || c.u 8 2 != 0 || n != 0)) || (!zero && tagOf g h != b.tag),
      taskDomain),
    (h.malformed || h.fmt != some fa || (!zero && b.int32 != (fa == .int8)) ||
      !(l.all fun l => streamPairOk fa l.fmt codes), taskFormat),
    (!c.covers false (dataRanges ++ listRange ++ codeRanges), taskFootprint),
    (rows.isEmpty || decide (128 < rows.length) || l.isNone || h.cols != k, taskShape)]

/-- One element of A × B added to an accumulator. -/
def streamElem (fa : Fmt) (l : Latch) (row : List Nat) (ca : Nat → Option Int) (j : Nat) (acc : Word) : Word × Flags :=
  let col := l.elems.map fun r => (r.getD j 0).toNat
  if fa = .int8 then intDot row col acc
  else
    let ps := row.zipWith (fun x y => (unpackFloat fa x, unpackFloat (latchFmt l.fmt) y)) col
    let cb := fun g => match l.codes with
      | some cs => codeExp ((cs.getD j []).getD g 0).toNat
      | none => some 0
    sumFrom ca cb (ceilDiv l.k 32) 0 ps acc

/-- Starts a STREAM. -/
def startStream (s : State) (g : Group) (c : Card) (e : Nat) (eng : Engine) : Started :=
  let h := capturedHdr g c.handleA
  let fa := (shapeFmt (bitsOf (c.u 5 1) 0 4)).getD .fp32
  match streamChecks g c h fa eng.latch (eng.bank c.bank), eng.latch with
  | some w, _ => failed s w
  | none, none => failed s taskShape
  | none, some l =>
    let old := if bitOf (c.u 6 1) 1 then { bankReset with int32 := fa == .int8, tag := tagOf g h } else eng.bank c.bank
    let grp := ceilDiv l.k 32
    let sums := (streamRows g c h).mapIdx fun i r =>
      let row := (List.range l.k).map fun k => g.rawAt h r.2 k
      let ca := fun q => if bitOf (c.u 5 1) 4 then codeExp (memRead g.pad (c.u 0x10 4 + r.1 * grp + q)).toNat else some 0
      (List.range l.n).map fun j => streamElem fa l row ca j (old.get i j)
    let new := old.update sums.length l.n fun i j => (((sums.getD i [])[j]?).map (·.1)).getD 0
    { s := s.modEngine g.core e fun x => x.setBank c.bank new,
      status := taskFlags (orAll (sums.flatMap fun r => r.map (·.2))), pairing := false }

/-! ### Draining (R368) -/

def Card.rowsM (c : Card) : Nat := if c.kind = 4 then c.u 0xA 2 else c.u 8 2
def Card.colsN (c : Card) : Nat := if c.kind = 4 then c.u 0xC 2 else c.u 0xA 2
def Card.dest (c : Card) : Nat := c.u 7 1
def Card.res (c : Card) : Bool := bitOf (c.u 6 1) 1
def Card.drop (c : Card) : Bool := bitOf (c.u 6 1) 2
def Card.fd (c : Card) : Fmt := (shapeFmt (bitsOf (c.u 5 1) 0 4)).getD .fp32
def Card.sat (c : Card) : Bool := bitOf (c.u 5 1) 4
def Card.bs (c : Card) : Bool := bitOf (c.u 5 1) 5
def Card.bax (c : Card) : Bool := bitOf (c.u 5 1) 6
def Card.sr (c : Card) : Bool := bitOf (c.u 1 1) 2
def Card.clear (c : Card) : Bool := bitOf (c.u 1 1) 3

/-- Coordinates of an element in the destination (R39). -/
def Card.coord (c : Card) (i j : Nat) : Word × Word := (BitVec.ofNat 32 (c.u 0x18 4 + i), BitVec.ofNat 32 (c.u 0x1C 4 + j))

/-- How a drained element is rounded. -/
def Card.rounding (c : Card) (i j : Nat) : Rounding :=
  let p := c.coord i j
  if c.sr then { mode := .sr, sat := c.sat, rnd := grainDraw p.1 p.2 c.dropseed } else { mode := .rne, sat := c.sat, rnd := 0 }

/-- Element (i, j) of the residual tile, or of its layout for a Haar bank. -/
def residualAt (g : Group) (h : Hdr) (i j : Nat) : Nat := g.rawAt h (h.doff + (h.lOff i).getD 0) j

/-- The value of R368 for an element, before its destination's format. -/
def drainVal (g : Group) (c : Card) (b : Bank) (tr : Hdr) (i j : Nat) : Word × Flags :=
  let v := b.get i j
  let v1 :=
    if !c.res then (v, 0#6)
    else if b.int32 then intAdd v (signedOf tr.bits (residualAt g tr i j))
    else
      let r := g.widen tr (residualAt g tr i j)
      let q := taskAdd v r.1
      (q.1, r.2 ||| q.2)
  if !c.drop then v1
  else
    let p := c.coord i j
    if grainKeeps p.1 p.2 c.dropseed (bitsOf c.dropp.toNat 0 24) then
      let q := taskMul v1.1 c.dropscl
      (q.1, v1.2 ||| q.2)
    else (0#32, v1.2)

/-- Every value of a drain, row by row. -/
def drainRows (g : Group) (c : Card) (b : Bank) (tr : Hdr) : List (List (Word × Flags)) :=
  (List.range c.rowsM).map fun i => (List.range c.colsN).map fun j => drainVal g c b tr i j

/-- A conversion that a task makes: a NaN, of the value or of the tile scale, gives the canonical NaN of a float format, and
reports NV in every format (R26, R42). -/
def taskConv (int32 : Bool) (scale v : Word) (fd : Fmt) (q : Nat × Flags) : Nat × Flags :=
  if (!int32 && isNaNWord v) || (scale != 0x3F800000#32 && isNaNWord scale) then
    (if fmtIsFloat fd then fmtNaN fd else q.1, q.2 ||| flagNV)
  else q

/-- The stored pattern of a drained value (R37). -/
def drainStore (c : Card) (b : Bank) (scale : Word) : Store := fun i j v =>
  taskConv b.int32 scale v c.fd (convScaled (if b.int32 then .int32 else .fp32) c.fd (c.rounding i j) scale v.toNat)

/-- The formats a residual may have. -/
def residualFmtOk (int32 : Bool) (h : Hdr) : Bool :=
  if int32 then h.fmt == some .int8 || h.fmt == some .int32 else isSrcFmt h

/-- The levels of a tag with the rows of a bank in layout order, coarsest level first in `bits`. -/
def dealRows : List (List Bool) → List FRow → List (List (Option FRow))
  | [], _ => []
  | bs :: r, rows =>
    let n := setBits bs
    let lvl := bs.mapIdx fun i b => if b then rows[setBits (bs.take i)]? else none
    lvl :: dealRows r (rows.drop n)

/-- The coefficients that a Haar bank's rows are. -/
def bankCoefs (t : BankTag) (rows : List FRow) : Coefs :=
  let a := t.rows / 2 ^ t.dom
  { a := rows.take a, det := (dealRows t.bits.reverse (rows.drop a)).reverse, flags := 0#6 }

/-- The bytes a LOCAL drain writes: of a Haar bank the whole layout, or every spatial row where it falls back. -/
def drainWrites (c : Card) (b : Bank) (td : Hdr) : List (Nat × Nat) :=
  let m := c.rowsM
  let n := c.colsN
  if b.tag.dom = 0 then
    rowRanges td m n ++ (if c.bs then [(c.u 0x10 4, m * n / 32)] else [])
  else
    let cf := bankCoefs b.tag (List.replicate m (List.replicate n 0#32))
    if cf.fits td then
      let k := cf.header td
      (cf.places td).map (fun p => (p.1, td.rstride)) ++ k.bitmaps.map fun p => (td.doff + p.2, k.bmBytes p.1)
    else rowRanges td td.rows td.cols

/-- The start checks of a DRAIN. -/
def drainChecks (g : Group) (c : Card) (b : Bank) (td tr : Hdr) : Option Word :=
  let m := c.rowsM
  let n := c.colsN
  let isLocal := c.dest == 0
  let haar := b.tag.dom != 0
  let codeLen := m * n / 32
  let reads := if c.res then (if tr.isHaar then layoutRanges tr n else rowRanges tr m n) else []
  firstBit [((isLocal && (hdrBeyond g c.handleA || areaBeyond g td)) || (c.res && (hdrBeyond g c.handleB || areaBeyond g tr ||
        (tr.isHaar && decide (g.padSize < tr.doff + tr.layoutLen)))) ||
      (c.bs && decide (g.padSize < c.u 0x10 4 + codeLen)), taskBounds),
    ((isLocal && decide (7 ≤ td.dom)) || (c.res && (decide (7 ≤ tr.dom) || tagOf g tr != b.tag || (tr.isHaar && !g.survWhole tr))) ||
      (haar && (c.drop || c.bs)), taskDomain),
    ((isLocal && (td.malformed || td.fmt != some c.fd || (haar && !td.haarCapable b.tag.dom))) ||
      (c.res && (tr.malformed || !residualFmtOk b.int32 tr)) || !drainFmtOk b.int32 c.fd ||
      (b.int32 && (c.drop || c.sr || c.bs)), taskFormat),
    (!c.covers false reads || (isLocal && !c.covers true (drainWrites c b td)), taskFootprint),
    ((isLocal && (if haar then td.rows != b.tag.rows || td.cols != n || m != b.tag.stored
        else decide (td.rows < m) || decide (td.cols < n))) ||
      (c.res && (decide (tr.cols < n) || (!haar && decide (tr.rows < m)) || (haar && m != b.tag.stored))) ||
      (c.bs && (if c.bax then m else n) % 32 != 0), taskShape)]

/-- One block of a drain under BS: its elements as (row, column), and where its code goes (R368). -/
def drainBlock (c : Card) (q : Nat) : List (Nat × Nat) × Nat :=
  let m := c.rowsM
  let n := c.colsN
  if c.bax then
    let j := q / (m / 32)
    let k := q % (m / 32)
    ((List.range 32).map fun i => (32 * k + i, j), c.u 0x10 4 + j * (m / 32) + k)
  else
    let i := q / (n / 32)
    let k := q % (n / 32)
    ((List.range 32).map fun j => (i, 32 * k + j), c.u 0x10 4 + i * (n / 32) + k)

/-- Writes one block. -/
def putBlock (c : Card) (td : Hdr) (vals : List (List (Word × Flags))) (p : Group × Flags) (q : Nat) : Group × Flags :=
  let blk := drainBlock c q
  let at_ := fun (e : Nat × Nat) => ((vals.getD e.1 []).getD e.2 (0#32, 0#6)).1
  let xs := blk.1.map fun e =>
    let x := tileScaled td.scale (unpackFloat .fp32 (at_ e).toNat)
    if isNaN x then .nan false 0x400000 else x
  let r := quantBlock c.fd (fun i => ((blk.1[i]?).map fun e => c.rounding e.1 e.2).getD rneRounding) xs
  let g := (blk.1.zip r.2.1).foldl (fun (g : Group) e => g.rawPut td (td.doff + e.1.1 * td.rstride) e.1.2 e.2) p.1
  (g.padWrite blk.2 [BitVec.ofNat 8 r.1], p.2 ||| r.2.2)

/-- A LOCAL drain's writes and flags. -/
def drainLocal (g : Group) (c : Card) (b : Bank) (td tr : Hdr) : Group × Flags :=
  let vals := drainRows g c b tr
  let rows := vals.map fun r => r.map (·.1)
  let fl := orAll (vals.flatMap fun r => r.map (·.2))
  let st := drainStore c b td.scale
  if b.tag.dom ≠ 0 then
    let q := g.putResult td st (bankCoefs b.tag rows) none
    (q.1, fl ||| q.2)
  else if c.bs then
    let q := (List.range (c.rowsM * c.colsN / 32)).foldl (putBlock c td vals) (g, fl)
    (q.1.putTag td 0 [] false, q.2)
  else
    let q := g.putSpatial td st rows false
    (q.1, fl ||| q.2)

/-- Sets a drained bank to +0 under CLEAR. -/
def State.clearBank (s : State) (g : Group) (c : Card) (e : Nat) : State :=
  if c.clear then s.modEngine g.core e fun x => x.setBank c.bank bankReset else s

/-- Starts a DRAIN: a LOCAL one writes, a PEER one pairs, a GLOBAL one writes as it completes. -/
def startDrain (s : State) (g : Group) (c : Card) (e : Nat) (eng : Engine) : Started :=
  let b := eng.bank c.bank
  let td := capturedHdr g c.handleA
  let tr := capturedHdr g c.handleB
  match drainChecks g c b td tr with
  | some w => failed s w
  | none =>
    if c.dest = 0 then
      let q := drainLocal g c b td tr
      { s := (s.modGroup g.uid fun g => g.adopt q.1).clearBank g c e, status := taskFlags q.2, pairing := false }
    else { s := s, status := 0, pairing := c.dest == 1 }

/-! ### CARD_START (R363) -/

/-- Starts a card on its engine, bound already or now; `g` is the group as the engine reads it (R265). -/
def startCard (s : State) (g : Group) (c : Card) : Started :=
  match s.engineOf g c.lid with
  | none => failed s taskFormat
  | some (e, eng) =>
    match c.kind with
    | 1 => startLatch s g c e
    | 2 => startStream s g c e eng
    | 3 => startDrain s g c e eng
    | _ =>
      if bitOf (c.u 6 1) 1 ∧ c.served = 0 then
        { s := s.modEngine g.core e fun x => x.setBank c.bank bankReset, status := 0, pairing := true }
      else { s := s, status := 0, pairing := true }

/-- A GLOBAL drain that still has to write: `served` is 0 until it has failed or written. -/
def Card.writesGlobal (c : Card) : Bool := c.kind == 3 && c.dest == 2 && c.served == 0

/-- A card can start: it is ready, and its group's context runs (R362, R377). -/
def State.mayStart (s : State) (g : Group) (c : Card) : Bool :=
  g.resident && s.cardReady g c && (s.ctxOf g).any fun x => x.state == .running

/-- The scheduler starts the ready cards of a core in age order: none older can start (R363). -/
def State.cardTurn (s : State) (g : Group) (c : Card) : Bool :=
  s.groups.all fun d => d.core != g.core || d.cards.all fun e => decide (c.age ≤ e.age) || !s.mayStart d e

/-- CARD_START (R363, R364). -/
def execCardStart (uid task : Nat) (s : State) : Host.Outcome State Fault Refusal :=
  match s.group? uid with
  | none => .next s
  | some g =>
    match g.card? (BitVec.ofNat 16 task) with
    | some c =>
      if !(s.mayStart g c && s.cardTurn g c) then .next s
      else
        let s := if c.kind == 1 && (s.engineOf g c.lid).isNone then s.bindEngine g c.lid else s
        let v := s.engineView g
        let q := startCard s v c
        .next (q.s.modGroup uid fun g => g.modCard c.task fun c =>
          { c with state := if q.pairing then .pairing else .running, status := c.status ||| q.status
                   hdrB := memReadN v.pad (c.handleB.getD 0) 32
                   served := if q.status != 0 && c.kind == 3 then 1 else c.served }).moved
    | none => .next s

/-! ### Groups of the same phase (R366, R369) -/

/-- Where a group named by its GROUPID stands. -/
inductive Fate where
  | here (uid : Nat) | waits | gone
  deriving DecidableEq, Repr

/-- Another group of the same phase: present and started, not started yet, or retired or never to exist. -/
def State.fate (s : State) (g : Group) (gid : Nat) : Fate :=
  match s.groups.find? fun d => d.part == g.part && d.ctxid == g.ctxid && d.lid == g.lid && d.gid == gid with
  | some d => if d.state == .starting then .waits else if d.state == .retired then .gone else .here d.uid
  | none =>
    match s.launch? g.lid with
    | some l => if l.placed ≤ gid ∧ gid < l.groups then .waits else .gone
    | none => .gone

/-- A card goes from PAIRING to RUNNING with a status. -/
def State.paired (s : State) (uid : Nat) (task : BitVec 16) (status : Word) : State :=
  (s.modGroup uid fun g => g.modCard task fun c => { c with state := .running, status := c.status ||| status }).moved

/-! ### Broadcast (R366) -/

/-- The GROUPIDs a sender names, without its own. -/
def Card.receivers (c : Card) (gid : Nat) : List Nat :=
  ((List.range 32).filter fun j => bitOf (c.u 0xC 4) j).map (fun j => gid / 32 * 32 + j) |>.filter (· != gid)

/-- A receiver that the sender has neither served nor found gone. -/
def State.unserved (s : State) (g : Group) (c : Card) (gid : Nat) : Bool := !bitOf c.served (gid % 32) && s.fate g gid != .gone

/-- The sender goes on once every receiver is served or gone; SKIP where one was gone unserved. -/
def State.settleSender (s : State) (uid : Nat) (task : BitVec 16) : State :=
  match s.group? uid with
  | none => s
  | some g =>
    match g.card? task with
    | none => s
    | some c =>
      if (c.receivers g.gid).any (s.unserved g c) then s
      else s.paired uid task (if (c.receivers g.gid).any fun r => !bitOf c.served (r % 32) then taskSkip else 0)

/-- The oldest BMODE 2 card of a group that names a sender and a tag and has not been served. -/
def Group.listener (g : Group) (sender tag : Nat) : Option Card :=
  g.cards.find? fun c => c.kind == 1 && c.u 6 1 == 2 && c.u 0xC 2 == sender && c.u 8 2 == tag && c.state != .running

/-- Delivers a latch to a receiver whose card has started. -/
def State.deliver (s : State) (src : Group) (c : Card) (dst : Group) : State :=
  match dst.listener src.gid (c.u 8 2), s.engineOf src c.lid with
  | some r, some (_, se) =>
    if r.state != .pairing then s
    else
      match s.engineOf dst r.lid with
      | none => s
      | some (e, _) =>
        let same := r.fmtB == c.fmtB
        let s := if same then s.modEngine dst.core e fun x => { x with latch := se.latch } else s
        let s := s.paired dst.uid r.task (if same then 0 else taskFormat)
        s.modGroup src.uid fun g => g.modCard c.task fun c => { c with served := c.served + (if bitOf c.served (dst.gid % 32) then 0 else 2 ^ (dst.gid % 32)) }
  | _, _ => s

/-- The group's context runs: cards are paired then alone (R377). -/
def State.runs (s : State) (g : Group) : Bool := (s.ctxOf g).any fun c => c.state == .running

/-- BROADCAST_MATCH (R366). -/
def execBroadcastMatch (uid task rxUid : Nat) (s : State) : Host.Outcome State Fault Refusal :=
  match s.group? uid with
  | none => .next s
  | some g =>
    match g.card? (BitVec.ofNat 16 task) with
    | none => .next s
    | some c =>
      if !(c.kind == 1 && c.u 6 1 == 1 && c.state == .pairing && s.runs g) then .next s
      else
        let s := match s.group? rxUid with
          | some d => if (c.receivers g.gid).any fun r => s.unserved g c r && s.fate g r == Fate.here d.uid then s.deliver g c d else s
          | none => s
        .next (s.settleSender uid c.task)

/-! ### Peer accumulation (R369) -/

/-- The sender an entry of an ACCEPT names. -/
def Card.entry (c : Card) (i : Nat) : Nat := c.u (0x10 + 2 * i) 2

/-- The oldest ACCEPT of a group with a tag that lists a sender in an entry not yet served. -/
def Group.acceptor (g : Group) (sender tag : Nat) : Option Card :=
  g.cards.find? fun c => c.kind == 4 && c.u 8 2 == tag && c.state != .running &&
    (List.range (c.u 7 1)).any fun i => decide (c.served ≤ i) && c.entry i == sender

/-- A PEER drain to a group with a tag. -/
def Card.sendsTo (c : Card) (gid tag : Nat) : Bool := c.kind == 3 && c.dest == 1 && c.u 0x10 2 == gid && c.u 0xE 2 == tag

/-- What a contribution adds to a bank, and the status of the ACCEPT. -/
def addPeer (b : Bank) (m n : Nat) (v : List (List (Word × Flags))) : Bank × Flags :=
  let at_ := fun i j => ((v.getD i []).getD j (0#32, 0#6)).1
  let sum := fun i j => if b.int32 then intAdd (b.get i j) (at_ i j).toInt else taskAdd (b.get i j) (at_ i j)
  (b.update m n fun i j => (sum i j).1,
    orAll ((List.range m).flatMap fun i => (List.range n).map fun j => (sum i j).2))

/-- A PEER drain meets the ACCEPT whose next entry it is: the contribution is added, or refused in both cards. -/
def State.contribute (s : State) (g : Group) (c : Card) (h : Group) (a : Card) : State :=
  match s.engineOf g c.lid, s.engineOf h a.lid with
  | some (i, ge), some (e, he) =>
    let b := ge.bank c.bank
    let w := s.engineView g
    let v := drainRows w c b c.residual
    let fl := taskFlags (orAll (v.flatMap fun r => r.map (·.2)))
    let old := he.bank a.bank
    let first := bitOf (a.u 6 1) 1 && a.served == 0
    let acc := if first then { old with int32 := b.int32, tag := b.tag } else old
    let shapeBad := c.rowsM != a.rowsM || c.colsN != a.colsN
    let tagBad := acc.int32 != b.int32 || acc.tag != b.tag
    let q := if shapeBad || tagBad then (acc, 0#6) else addPeer acc a.rowsM a.colsN v
    let bad : Word := if shapeBad then taskShape else if tagBad then taskDomain else 0
    let s := s.modEngine h.core e fun x => x.setBank a.bank q.1
    let s := s.modGroup h.uid fun g => g.modCard a.task fun a =>
      { a with served := a.served + 1, status := a.status ||| taskFlags q.2 ||| bad
               state := if a.served + 1 = a.u 7 1 then .running else a.state }
    (s.clearBank g c i).paired g.uid c.task (fl ||| bad)
  | _, _ => s

/-- A PEER drain that adds nothing completes with a status bit. -/
def State.noPeer (s : State) (g : Group) (c : Card) (w : Word) : State :=
  let s := match s.engineOf g c.lid with
    | some (i, _) => s.clearBank g c i
    | none => s
  s.paired g.uid c.task w

/-- PEER_MATCH (R369). -/
def execPeerMatch (uid task : Nat) (s : State) : Host.Outcome State Fault Refusal :=
  match s.group? uid with
  | none => .next s
  | some g =>
    match g.card? (BitVec.ofNat 16 task) with
    | none => .next s
    | some c =>
      let gid := c.u 0x10 2
      let tag := c.u 0xE 2
      let oldest := (g.cards.find? fun d => d.sendsTo gid tag && d.state != .running).map (·.task)
      if !(c.sendsTo gid tag && c.state == .pairing && oldest == some c.task && s.runs g) then .next s
      else
        match s.fate g gid with
        | .gone => .next (s.noPeer g c taskSkip)
        | .waits => .next s
        | .here hu =>
          match s.group? hu with
          | none => .next s
          | some h =>
            match h.acceptor g.gid tag with
            | none => .next s
            | some a =>
              if hu = uid ∧ a.lid = c.lid ∧ a.bank = c.bank then .next (s.noPeer g c taskShape)
              else if a.state = .pairing ∧ a.entry a.served = g.gid then .next (s.contribute g c h a)
              else .next s

/-! ### Drains to global memory (R368) -/

/-- Why a shape record does not serve a drain. -/
def globalFault (g : Group) (c : Card) (b : Bank) (h : Shape) (va : Nat) : Option Word :=
  let hdrDom := bitsOf (memRead g.pad (h.hoff + 0x14)).toNat 4 4
  let flat := { h with doff := 0, dstride := 0, hoff := 0xFFFFFFFF }
  if va % 64 ≠ 0 || !h.reservedOk || !flat.rangeOk (2 ^ 20) || !h.fmtOk || !h.domOk hdrDom || !h.bsOk || !h.outward ||
      (h.hasHdr && (h.hoff % 32 != 0 || decide (g.padSize < h.hoff + 32))) || h.src != (if b.int32 then .int32 else .fp32) ||
      h.dst != c.fd || (bitOf (c.u 1 1) 4 && h.dst != .fp32) then some taskFormat
  else if h.rows ≠ c.rowsM ∨ h.cols ≠ c.colsN then some taskShape
  else none

/-- Adds an element at its four places, as one RED.FADD (R149); a NaN that comes of it is the task's (R42). -/
def addAt (s : State) (ps : List Place) (x : Word) : State × Flags :=
  let r := taskAdd (BitVec.ofNat 32 (leNat (s.readPlaces ps))) x
  (s.writePlaces ps (leBytes 4 r.1.toNat), r.2)

/-- Adds elements in order, four places each. -/
def addAll : List Word → List Place → State → State × Flags
  | [], _, s => (s, 0#6)
  | x :: xs, ps, s =>
    let p := addAt s (ps.take 4) x
    let q := addAll xs (ps.drop 4) p.1
    (q.1, p.2 ||| q.2)

/-- Every address lies on a page whose path carries RED.FADD (R150). -/
def pathsCarry (s : State) (x : Ctx) (vas : List Nat) : Bool :=
  vas.all fun va => match (s.xlate x .write va).1 with
    | .ok host _ atom => carried .fadd 4 host atom
    | _ => true

/-- A GLOBAL drain's writes, once its record has been read: what a CPYS of DIR 1 would write, or add (R282, R368). -/
def State.drainGlobal (s : State) (g : Group) (c : Card) (x : Ctx) (e : Nat) (b : Bank) (h : Shape) : State :=
  let done := fun (s : State) (w : Word) =>
    s.clearBank g c e |>.completeCard g.uid { c with status := c.status ||| w } (c.status ||| w) true
  let w := s.engineView g
  let vals := drainRows w c b c.residual
  let es := ((List.range h.rows).flatMap fun r => (List.range h.cols).map fun q => (r, q)).filter fun e => h.inside (h.tensorAt e.1 e.2)
  let vas := es.flatMap fun e => h.tensorBytes (h.tensorAt e.1 e.2)
  let q := xlateBytes s x .write vas
  match q.stop with
  | some stop => (q.s.engineStop x .write noCore (.card g.uid c.task) stop).1.moved
  | none =>
    let v := fun (e : Nat × Nat) => ((vals.getD e.1 []).getD e.2 (0#32, 0#6))
    let outs := es.map fun e =>
      (e, taskConv b.int32 h.scale (v e).1 h.dst (convScaled h.src h.dst (h.rounding c.dropseed e.1 e.2) h.scale (v e).1.toNat))
    let fl := orAll (es.map fun e => (v e).2) ||| orAll (outs.map fun o => o.2.2)
    if bitOf (c.u 1 1) 4 then
      if !pathsCarry q.s x vas then q.s.ctxError g.part g.ctxid trapAtompath g.core 0 0
      else
        let p := addAll (outs.map fun o => BitVec.ofNat 32 o.2.1) q.places q.s
        done p.1 (taskFlags (fl ||| p.2))
    else
      let s := writeOut (fmtBits h.tensorFmt) q.s (outs.map fun o => ((h.tensorAt o.1.1 o.1.2).2, o.2.1)) q.places
      done s (taskFlags fl)

/-- Reads a GLOBAL drain's record and writes; a page that is not there leaves the card running (R279, R368). -/
def State.completeGlobal (s : State) (g : Group) (c : Card) (x : Ctx) : State :=
  match s.engineOf g c.lid with
  | none => s.completeCard g.uid c taskFormat true
  | some (e, eng) =>
    let va := c.u 0x10 8
    let q := xlateBytes s x .read (runFrom va 64)
    match q.stop with
    | some stop => (q.s.engineStop x .read noCore (.card g.uid c.task) stop).1.moved
    | none =>
      let h := shapeOf (q.s.readPlaces q.places) (BitVec.ofNat 64 (c.u 0x18 8))
      match globalFault (s.engineView g) c (eng.bank c.bank) h va with
      | some w => q.s.completeCard g.uid c (c.status ||| w) true
      | none => q.s.drainGlobal g c x e (eng.bank c.bank) h

/-- CARD_COMPLETE (R361): a card whose last write is performed. -/
def execCardComplete (uid task : Nat) (s : State) : Host.Outcome State Fault Refusal :=
  match s.group? uid with
  | none => .next s
  | some g =>
    match g.card? (BitVec.ofNat 16 task), s.ctxOf g with
    | some c, some x =>
      if c.state != .running || !g.resident then .next s
      else if c.writesGlobal then .next (s.completeGlobal g c x)
      else .next (s.finishCard uid c)
    | _, _ => .next s

end Sys2Proof.Machine
end

