-- ==== Sys2Proof/Machine/Remote.lean ====
section
/-!
DEFINITION. Ultra Ethernet: the REMOTE instructions (R413, R417 to R420), the answers to them, incoming requests (R414, R415),
ports (R412, R416) and the tables a driver writes for them.
-/

namespace Sys2Proof.Machine

/-! ### Outgoing lane operations (R413, R417, R419) -/

/-- The peer entry that an address names (R413). -/
def Ctx.peer (c : Ctx) (ra : Nat) : Peer := c.peers.getD (bitsOf ra 56 8) { valid := false, port := 0, addr := 0, job := 0 }

/-- The first lane whose remote address fails, MEMFAULT before ALIGN (R413, R419). -/
def remoteFault (c : Ctx) (size : Nat) : List (Nat × Nat) → Option (Nat × DWord)
  | [] => none
  | (_, ra) :: r =>
    if !(c.peer ra).valid || bitsOf ra 52 4 != 0 then some (trapMemfault, BitVec.ofNat 64 ra)
    else if ra % size ≠ 0 then some (trapAlign, BitVec.ofNat 64 ra)
    else remoteFault c size r

/-- Adds a failed lane to a remote status (R417, R419). -/
def remoteFail (bit : Nat) (w : Word) : Word :=
  let fails := bitsOf w.toNat 8 8
  BitVec.ofNat 32 (min 255 (fails + 1) * 256) ||| (w &&& 7#32) ||| BitVec.ofNat 32 (2 ^ bit)

/-- Status bits by name (R419). -/
def failDown : Nat := 0
def failNack : Nat := 1
def failTimeout : Nat := 2

/-- A port is DOWN. -/
def State.portDown (s : State) (port : Nat) : Bool := (s.ports[port]?).all fun p => p.state == 0

/-- A queue entry that a failed lane belongs to is RERR (R223, R417). -/
def Queue.fail (q : Queue) (entry : Nat) : Queue :=
  { q with entries := modWhere q.entries (fun e => e.id == entry) fun e => { e with tag := tagRerr } }

/-- The entry of a read has gone: QCLOSE has cancelled it, and late responses are discarded (R243, R419). -/
def State.readGone (s : State) (o : RemoteOp) : Bool :=
  o.kind == 0 && !((s.group? o.uid).bind fun g => g.queue? o.queue).any fun q => q.entries.any fun e => e.id == o.entry

/-- A failed lane: its team's remote status, and for a read its entry. -/
def State.failLane (s : State) (o : RemoteOp) (bit : Nat) : State :=
  if s.readGone o then s
  else
    let s := s.modTeam { uid := o.uid, tid := o.tid } fun t => { t with rstatus := remoteFail bit t.rstatus }
    if o.kind = 0 then s.modGroup o.uid fun g => g.modQueue o.queue fun q => q.fail o.entry else s

/-- A lane of a read's entry answers: the entry completes with its last lane (R227, R419). -/
def State.readOver (s : State) (o : RemoteOp) : State :=
  if s.remotes.any fun p => p.kind == 0 && p.uid == o.uid && p.queue == o.queue && p.entry == o.entry then s
  else s.modGroup o.uid fun g => g.arriveQ o.queue o.entry s.clk

/-- The team of a remote atomic goes on once its last lane has answered. -/
def State.atomOver (s : State) (o : RemoteOp) : State :=
  s.modTeam { uid := o.uid, tid := o.tid } fun t =>
    match t.hold with
    | .remote d seqs =>
      let rest := seqs.filter fun q => q != o.rseq
      { t with hold := if rest.isEmpty then .none else .remote d rest }
    | _ => t

/-- What follows a lane's answer or failure. -/
def State.laneOver (s : State) (o : RemoteOp) : State :=
  let s := { s with remotes := s.remotes.filter fun p => p.rseq != o.rseq }
  if o.kind = 0 then s.readOver o else if o.kind = 1 then s else s.atomOver o

/-- Sends one lane operation, or fails it at once on a port that is DOWN (R416, R417). -/
def State.sendLane (s : State) (o : RemoteOp) : State :=
  if s.portDown o.port then s.failLane o failDown else { s with remotes := s.remotes ++ [o] }

/-- The lane operations of an instruction. -/
def Iss.laneOps (x : Iss) (c : Ctx) (kind size queue entry : Nat) (ras : List (Nat × Nat)) (data cmp : Nat → DWord) : List RemoteOp :=
  ras.mapIdx fun i p =>
    { rseq := x.s.nextSeq + i, uid := x.g.uid, tid := x.t.tid, lane := p.1, port := (c.peer p.2).port, ra := p.2, kind := kind,
      bytes := size, data := data p.1, cmp := cmp p.1, queue := queue, entry := entry, since := x.s.clk }

/-- Lane operations that a port holds, for a partition (R418). -/
def portLanes : Nat := 16384

/-- Some port would hold more than it can (R418). -/
def State.portsFull (s : State) (ops : List RemoteOp) : Bool :=
  ops.any fun o =>
    decide (portLanes < (s.remotes.filter fun p => p.port == o.port).length + (ops.filter fun p => p.port == o.port).length)

/-- A REMOTE instruction on the running lanes: the checks of R413 and R419, then its effect. -/
def Iss.remote (x : Iss) (a : RegField) (off : Int) (size : Nat) (k : Ctx → List (Nat × Nat) → Act) : Act :=
  match x.s.ctxOf x.g with
  | none => .done x.s
  | some c =>
    let ras := x.t.vas a off
    match remoteFault c size ras with
    | some (code, va) => .trap code va
    | none => if x.t.idle then .ok x.s else k c ras

/-- Sends every operation. -/
def State.sendAll (s : State) (ops : List RemoteOp) : State :=
  ops.foldl State.sendLane { s with nextSeq := s.nextSeq + ops.length }

/-- RREAD (R419): a push form. -/
def execRread (q : BitVec 4) (a : RegField) (o : BitVec 4) (z : BitVec 3) (s : State) : Host.Outcome State Fault Refusal :=
  issue (.rread q a o z) s fun x =>
    x.remote a (x.off4 o (sizeBytes z)) (sizeBytes z) fun c ras =>
      x.withQueue q fun qu =>
        if qu.refuses then .ok x.s
        else if qu.full x.s.clk then x.holdQueue false
        else
          let ops := x.laneOps c 0 (sizeBytes z) q.toNat qu.nextId ras (fun _ => 0) (fun _ => 0)
          if x.s.portsFull ops then .hold x.s
          else
            let e := { entryOf tagData 0 (List.replicate qu.width 0) x.t.tid with complete := false, waiting := true }
            let s := x.s.modGroup x.r.uid fun g => g.changeQ q.toNat x.s.clk fun q => q.reserve e x.s.clk
            let s := s.sendAll ops
            .ok (match ops with
              | op :: _ => s.readOver op
              | [] => s)

/-- RWRITE (R419). -/
def execRwrite (d a : RegField) (o : BitVec 4) (z : BitVec 2) (s : State) : Host.Outcome State Fault Refusal :=
  issue (.rwrite d a o z) s fun x =>
    let n := 2 ^ z.toNat
    x.remote a (x.off4 o n) n fun c ras =>
      let ops := x.laneOps c 1 n 0 0 ras (fun l => BitVec.ofNat 64 ((x.t.reg d l).toNat % 2 ^ (8 * n))) (fun _ => 0)
      if x.s.portsFull ops then .hold x.s else .ok (x.s.sendAll ops)

/-- A remote atomic: the team is held until every lane has answered (R418, R419). -/
def Iss.remoteAtomic (x : Iss) (d a : RegField) (kind size : Nat) (data cmp : Nat → DWord) : Act :=
  x.remote a 0 size fun c ras =>
    let ops := x.laneOps c kind size 0 0 ras data cmp
    if x.s.portsFull ops then .hold x.s
    else
      let s := x.s.sendAll ops
      let seqs := (ops.filter fun o => !x.s.portDown o.port).map (·.rseq)
      .ok (if seqs.isEmpty then s else s.modTeam x.r fun t => { t with hold := .remote d seqs })

/-- RATOM.ADD (R419). -/
def execRatomAdd (d a : RegField) (z : BitVec 1) (s : State) : Host.Outcome State Fault Refusal :=
  issue (.ratomAdd d a z) s fun x =>
    let n := if z = 1 then 8 else 4
    x.remoteAtomic d a 2 n (fun l => BitVec.ofNat 64 ((x.t.reg d l).toNat % 2 ^ (8 * n))) (fun _ => 0)

/-- RATOM.CAS (R419). -/
def execRatomCas (d a : RegField) (s : State) : Host.Outcome State Fault Refusal :=
  issue (.ratomCas d a) s fun x => x.remoteAtomic d a 3 8 (fun l => x.t.reg (nextField d) l) (fun l => x.t.reg d l)

/-- RFENCE (R419): a release, then the wait for every earlier write and atomic; it acts with no running lane too. -/
def execRfence (d : RegField) (s : State) : Host.Outcome State Fault Refusal :=
  issue (.rfence d) s fun x =>
    x.release fun x =>
      if x.s.remotes.any fun o => o.uid == x.g.uid && o.tid == x.t.tid && o.kind != 0 then .hold x.s
      else x.okTeam { x.t.putS d x.t.rstatus with rstatus := 0 }

/-! ### Answers (R417, R420) -/

/-- Fills one position of a reserved entry. -/
def Queue.fillLane (q : Queue) (entry lane : Nat) (x : DWord) : Queue :=
  { q with entries := modWhere q.entries (fun e => e.id == entry) fun e => { e with vals := setAt e.vals lane x } }

/-- The value that an answered lane delivers; an s register takes the lowest running lane's (R53). -/
def State.laneValue (s : State) (o : RemoteOp) (data : DWord) : State :=
  let v := BitVec.ofNat 64 (data.toNat % 2 ^ (8 * o.bytes))
  if o.kind = 0 then s.modGroup o.uid fun g => g.modQueue o.queue fun q => q.fillLane o.entry o.lane v
  else if o.kind = 1 then s
  else
    s.modTeam { uid := o.uid, tid := o.tid } fun t =>
      match t.hold with
      | .remote d _ => if isS d && t.low? != some o.lane then t else t.writeVals d [(o.lane, v)]
      | _ => t

/-- REMOTE_RESPONSE (R417, R419, R420): also applied to a saved group, which sees it when it resumes. -/
def execRemoteResponse (rseq : Nat) (nack : Bool) (data : DWord) (s : State) : Host.Outcome State Fault Refusal :=
  match s.remotes.find? fun o => o.rseq == rseq with
  | none => .next s
  | some o =>
    let s := if nack then s.failLane o failNack else s.laneValue o data
    .next (s.laneOver o).moved

/-- An operation has been out for RTO (R417); a millisecond is 700,000 a-clk (R7). -/
def State.timedOut (s : State) (o : RemoteOp) : Bool :=
  (s.ports[o.port]?).any fun p => decide (o.since + p.rto * 700000 ≤ s.clk)

/-- REMOTE_TIMEOUT (R417). -/
def execRemoteTimeout (rseq : Nat) (s : State) : Host.Outcome State Fault Refusal :=
  match s.remotes.find? fun o => o.rseq == rseq with
  | none => .next s
  | some o => if s.timedOut o then .next ((s.failLane o failTimeout).laneOver o).moved else .next s

/-! ### Ports (R412, R416) -/

/-- A port goes DOWN, or is told to while it is: its outstanding operations fail, and its owner's port vector is raised (R416);
DOWNS counts a transition alone (R417). -/
def State.takeDown (s : State) (port : Nat) : State :=
  let ops := s.remotes.filter fun o => o.port == port
  let s := s.modPort port fun p => { p with state := 0, downs := if p.state = 0 then p.downs else p.downs + 1 }
  let s := ops.foldl (fun s o => (s.failLane o failDown).laneOver o) s
  ((s.portPart port).elim s fun part => s.raiseMsix (s.fnOf part) 3).moved

/-- A driver command on a port, with its test. -/
def State.portCommand (s : State) (fn port : Nat) (b : Bool) (k : State → State) : State :=
  match s.portPart port with
  | none => s.setStatus fn (if s.commandable then .access else .notReady)
  | some part => s.command fn part fun s => s.okIf fn b k

/-- PORT_ENABLE (R416). -/
def execPortEnable (fn port : Nat) (s : State) : Host.Outcome State Fault Refusal :=
  .next (s.portCommand fn port true fun s => s.modPort port fun p => if p.state = 0 then { p with state := 1 } else p)

/-- PORT_DISABLE (R416). -/
def execPortDisable (fn port : Nat) (s : State) : Host.Outcome State Fault Refusal :=
  .next (s.portCommand fn port true fun s => s.takeDown port)

/-- PORT_TRAINED (R416). -/
def execPortTrained (port : Nat) (s : State) : Host.Outcome State Fault Refusal :=
  .next (s.modPort port fun p => if p.state = 1 then { p with state := 2 } else p).moved

/-- LINK_LOSS (R416): of a port that is UP. -/
def execLinkLoss (port : Nat) (s : State) : Host.Outcome State Fault Refusal :=
  if (s.ports[port]?).any fun p => p.state == 2 then .next (s.takeDown port) else .next s

/-- PEER_TABLE_WRITE (R409, R413): the physical function's alone; the port must be the partition's. -/
def execPeerTableWrite (fn part : Nat) (who : CtxName) (idx : Nat) (valid : Bool) (port addr job : Nat) (s : State) : Host.Outcome State Fault Refusal :=
  .next (s.pfCommand fn fun s => s.ofGen fn part who.ctxid who.gen fun s _ =>
    s.okIf fn (decide (idx < 256) && s.portPart port == some part && decide (job < 2 ^ 32)) fun s =>
      s.modCtx part who.ctxid fun c => { c with peers := setAt c.peers idx { valid := valid, port := port, addr := addr, job := job } })

/-- JOB_REGISTER (R414). -/
def execJobRegister (fn part job : Nat) (who : CtxName) (s : State) : Host.Outcome State Fault Refusal :=
  .next (s.ctxCommand fn part who.ctxid who.gen fun s _ =>
    s.okIf fn (decide (job < 2 ^ 32)) fun s =>
      s.modPart part fun pt => { pt with jobs := (job, who.ctxid) :: pt.jobs.filter fun j => j.1 != job })

/-! ### Incoming requests (R414, R415) -/

/-- Sends an answer. -/
def State.answerPeer (s : State) (port : Nat) (ack : Bool) (data : List Byte) : State :=
  (s.modPort port fun p => { p with sent := p.sent ++ [(ack, data)] }).moved

/-- The context bound to a JOB of a port, if requests for it are served (R414). -/
def State.jobCtx (s : State) (port job : Nat) : Option Ctx :=
  match (s.portPart port).bind s.part?, s.portPart port with
  | some pt, some part =>
    match (pt.jobs.find? fun j => j.1 == job).bind fun j => s.ctx? part j.2 with
    | some c => if c.state = .idle ∨ c.state = .running ∨ c.state = .saved then some c else none
    | none => none
  | _, _ => none

/-- What an incoming request asks of memory. -/
def Incoming.access (r : Incoming) : Access := if r.kind = 0 then .read else .write

/-- Performs an incoming request at its bytes' places and answers it: an ordinary load, a store, or an atomic of R149 (R414). -/
def State.performIncoming (s : State) (r : Incoming) (ps : List Place) : State :=
  let old := s.readPlaces ps
  match r.kind with
  | 0 => s.answerPeer r.port true old
  | 1 => (s.writePlaces ps r.data).answerPeer r.port true []
  | _ =>
    let n := atomNew (atomOfCode r.code) (8 * r.size) (leNat old) (leNat r.data) r.compare
    (s.writePlaces ps (leBytes r.size n.1)).answerPeer r.port true old

/-- Serves an incoming request through its context's tables: refused where a byte would fault or lies in host memory; a
compressed page is expanded first, and the request waits for that (R307, R414). A refused request accesses nothing: the walks
it made leave no trace. -/
def State.serveIncoming (s : State) (r : Incoming) : State :=
  if !(s.ports[r.port]?).any (fun p => p.state == 2) then s
  else
    match s.jobCtx r.port r.job with
    | none => s.answerPeer r.port false []
    | some c =>
      let q := xlateBytes s c r.access (runFrom r.va r.size)
      match q.stop with
      | none => if q.places.any (·.host) then s.answerPeer r.port false [] else q.s.performIncoming r q.places
      | some (.fault va 0 _) =>
        let w := q.s.joinReq c va 0 0 (accessBits r.access true) noCore (.port c.ctxid)
        { w.1 with incoming := w.1.incoming ++ [{ r with tag := w.2 }] }.moved
      | some .bad => (q.s.ctxError c.part c.ctxid 0x22 noCore 0 0).answerPeer r.port false []
      | some _ => s.answerPeer r.port false []

/-- A request that an incoming access waits on is still there, and without an answer. -/
def State.awaits (s : State) (r : Incoming) : Bool :=
  ((s.portPart r.port).bind s.part?).any fun pt => pt.requests.any fun q => q.tag == r.tag && q.answer.isNone

/-- Serves again the incoming requests whose expansion is over. -/
def State.serveWaiting (s : State) : State :=
  let due := s.incoming.filter fun r => !s.awaits r
  due.foldl State.serveIncoming { s with incoming := s.incoming.filter s.awaits }

/-- REMOTE_READ_REQUEST (R414): an ordinary load. -/
def execRemoteReadRequest (port job _endpoint va size : Nat) (s : State) : Host.Outcome State Fault Refusal :=
  .next (s.serveIncoming
    { port := port, job := job, va := va, size := size, kind := 0, code := 0, data := [], compare := 0, tag := 0 })

/-- REMOTE_WRITE_REQUEST (R414, R415). -/
def execRemoteWriteRequest (port job _endpoint va : Nat) (data : List Byte) (s : State) : Host.Outcome State Fault Refusal :=
  .next (s.serveIncoming
    { port := port, job := job, va := va, size := data.length, kind := 1, code := 0, data := data, compare := 0, tag := 0 })

/-- REMOTE_ATOMIC_REQUEST (R414): its operation by the codes of R148. -/
def execRemoteAtomicRequest (port job _endpoint va op size operand compare : Nat) (s : State) : Host.Outcome State Fault Refusal :=
  .next (s.serveIncoming
    { port := port, job := job, va := va, size := size, kind := 2, code := op, data := leBytes size operand,
      compare := compare % 2 ^ (8 * size), tag := 0 })

end Sys2Proof.Machine
end

