-- ==== Sys2Proof/Machine/PageEv.lean ====
section
/-!
DEFINITION. Memory events: results that return, stores accepted, polls that end, faults, page requests and answers, the page
engine, shootdowns, drowsy banks, and the host's own accesses (R145, R164, R227, R257, R266, R288 to R309, R312, R318).
-/

namespace Sys2Proof.Machine

/-! ### Results and stores -/

/-- VARIABLE_RESULT_RETURN (R164, R166, R29): an outstanding result is written, once the slices have answered (R313), which can
end the marker's park and the team. A load's value may be a later one than it was at issue (R254). -/
def execVariableResultReturn (uid tid idx : Nat) (s : State) : Host.Outcome State Fault Refusal :=
  let r : TeamRef := { uid := uid, tid := tid }
  match s.group? uid, (s.team? r).bind fun t => t.pend[idx]? with
  | some g, some p =>
    if s.resultReady g.core r p then
      let q := s.lateValue r p
      .next ((q.1.modTeam r fun t =>
        ({ (t.writeVals p.dst q.2.vals).orFlags p.flags with pend := t.pend.eraseIdx idx }).unswitch).finishTry r).moved
    else .next s
  | _, _ => .next s

/-- QUEUE_ENTRY_COMPLETE (R227): an entry whose slice requests have been answered. -/
def execQueueEntryComplete (uid q entry : Nat) (s : State) : Host.Outcome State Fault Refusal :=
  match s.group? uid with
  | none => .next s
  | some g =>
    if ((g.queue? q).any fun q => q.entries.any fun e => e.id == entry && !s.entryReady g e) then .next s
    else .next (s.modGroup uid fun g => g.arriveQ q entry s.clk).moved

/-- HOME_SLICE_ACCEPT (R257): the oldest store of a team's buffer is written at its home slice. -/
def execHomeSliceAccept (uid tid : Nat) (s : State) : Host.Outcome State Fault Refusal :=
  let r : TeamRef := { uid := uid, tid := tid }
  if s.storeTaken r then .next ((s.drainOne r).finishTry r).moved else .next s

/-! ### LD.POLL (R145) -/

/-- The second read of one lane, at home: a lane that would fault keeps its first value. -/
def rereadLane (w : Reader) (h : PollHold) (q : Gather) (a : LaneAcc) : Gather :=
  match q.s.xlate w.c .read a.va with
  | (.ok host pa _, s) =>
    { q with s := s, vals := q.vals ++ [(a.lane, w.t.forward h.seq a.va (s.readFor w [] host pa a.va h.bytes).1)] }
  | (.bad, _) => { q with bad := true }
  | (_, _) =>
    { q with vals := q.vals ++ [(a.lane, leBytes h.bytes (((h.first.find? fun p => p.1 == a.lane).map fun p => p.2.toNat).getD 0))] }

/-- The second read of every lane. -/
def rereadLanes (s : State) (w : Reader) (h : PollHold) : Gather :=
  h.lanes.foldl (rereadLane w h) { s := s, vals := [], left := [], bad := false, seen := [] }

/-- A held LD.POLL traps with none of its effects (R169, R187): its hold is over, its destination is unwritten, and the hardware
loops stand as they did before it. -/
def Team.unpoll (h : PollHold) (t : Team) : Team := { t with hold := .none, lc := h.lc, loops := h.loops }.unswitch

/-- An LD.POLL's hold ends: it reads once more and delivers (R145), an acquire; an unchanged poll is a demotion event (R174), a
jump that ends the stall counts (R64). -/
def State.endPoll (s : State) (r : TeamRef) : State :=
  match s.group? r.uid with
  | none => s
  | some g =>
    match g.team? r.tid, s.ctxOf g with
    | some t, some c =>
      match t.hold with
      | .poll h =>
        let q := rereadLanes s { c := c, r := r, t := t, seq := h.seq, fresh := true } h
        if q.bad then q.s.badAccess g t
        else
          let t2 := { (t.acquired q.s.vers g.vers).addPend (loadWrites h.dst h.bytes false (onlyLow (t.lowFor h.dst) q.vals)) with
            hold := .none }
          let s := q.s.acquiredOn g.core
          match if someUnchanged h.lanes q.vals then demote q.s (g.forTeam t) t2 h.pc t.pc else none with
          | none => (s.modTeam r fun _ => t2).moved
          | some (.ok (t3, next)) => (s.modTeam r fun _ => { t3 with pc := next, stalls := [] }).moved
          | some (.error _) => ((q.s.modTeam r (Team.unpoll h)).raiseTrap r trapIllegal (h.word.zeroExtend 64) h.pc).moved
      | _ => s
    | _, _ => s

/-- A line that an LD.POLL holds on has been written since its first read. -/
def polledChanged (s : State) (h : PollHold) : Bool :=
  s.past.any fun e => decide (h.ver ≤ e.ver) && h.lines.any fun l => e.host == l.1 && e.meets l.2 128

/-- POLL_WAKE (R145): a polled line has been written. -/
def execPollWake (uid tid : Nat) (s : State) : Host.Outcome State Fault Refusal :=
  let r : TeamRef := { uid := uid, tid := tid }
  match s.team? r with
  | some t =>
    match t.hold with
    | .poll h => if polledChanged s h then .next (s.endPoll r) else .next s
    | _ => .next s
  | none => .next s

/-- POLL_TIMEOUT (R145): 2,048 f-clk, which are 1,024 a-clk (R7), have passed. -/
def execPollTimeout (uid tid : Nat) (s : State) : Host.Outcome State Fault Refusal :=
  let r : TeamRef := { uid := uid, tid := tid }
  match s.team? r with
  | some t =>
    match t.hold with
    | .poll h => if h.since + 1024 ≤ s.clk then .next (s.endPoll r) else .next s
    | _ => .next s
  | none => .next s

/-! ### Faults and answers -/

/-- TRANSLATION_FAULT (R296). -/
def execTranslationFault (uid tid : Nat) (s : State) : Host.Outcome State Fault Refusal :=
  .next (s.reportTeam { uid := uid, tid := tid }).moved

/-- PAGE_REQUEST (R300): posted once the ring has room. -/
def execPageRequest (part tag : Nat) (s : State) : Host.Outcome State Fault Refusal :=
  match (s.part? part).bind fun pt => pt.requests.find? fun q => q.tag == tag with
  | none => .next s
  | some q =>
    let fn := s.fnOf part
    let room := ((s.funcs[fn]?).map fun f => f.ringRoom).getD 0
    if q.posted || q.reason == 0 || room == 0 || s.dev.heldInReset then .next s
    else
      let s := s.modFunc fn fun f => f.postPage (requestRec q s.clk)
      .next (s.modPart part fun pt => { pt with
        requests := modWhere pt.requests (fun r => r.tag == tag) fun r => { r with posted := true } })

/-- The context of a function that an answer record names. -/
def State.answerCtx (s : State) (fn ctxid : Nat) : Option Ctx := s.ctxs.find? fun c => s.fnOf c.part == fn && c.ctxid == ctxid

/-- The request an answer is for, if it is not to be discarded (R302). -/
def State.answered (s : State) (fn ctxid gen tag : Nat) : Option PageReq :=
  match s.answerCtx fn ctxid with
  | none => none
  | some c =>
    if c.gen ≠ gen ∨ c.state = .error ∨ c.state = .killed then none
    else
      (s.part? c.part).bind fun pt => pt.requests.find? fun q =>
        q.tag == tag && q.ctxid == ctxid && q.gen == gen && q.posted && q.answer.isNone

/-- ANSWER_RECORD (R301, R302). The host that answers has taken the records of the ring (log entry 16); while its link is down it
can answer nothing (R410). -/
def execAnswerRecord (fn : Nat) (record : List Byte) (s : State) : Host.Outcome State Fault Refusal :=
  if !s.dev.hostLink then .next s
  else
  match s.answered fn (fieldAt record 0 2) (fieldAt record 2 2) (fieldAt record 4 4) with
  | none => .next (s.modFunc fn fun f => { f.ringTaken with staleAns := f.staleAns + 1 })
  | some q =>
    let s := s.modFunc fn Function.ringTaken
    let ok := fieldAt record 8 1 == 0
    let s := if ok then s.dropTlb q.part q.asid q.va else s
    .next (s.answerReq q ok).serveWaiting.moved

/-! ### The compressed zone (R304 to R307) -/

/-- The level-1 leaf of an address of a context, as its PTE's address and value. -/
def State.smallLeaf (s : State) (c : Ctx) (va : Nat) : Option (Nat × Nat) :=
  match s.walk c va with
  | .leaf 1 pte e => some (pte, e)
  | _ => none

/-- A PTE with PA, CMP, A and AGE replaced. -/
def pteWith (e pa : Nat) (cmp acc : Bool) (age : Nat) : Nat :=
  bitsOf e 0 6 + (if cmp then 2 ^ 6 else 0) + (if acc then 2 ^ 7 else 0) + age * 2 ^ 8 + bitsOf e 12 4 * 2 ^ 12 + pa / 65536 * 2 ^ 16

/-- EXPANSION_DONE (R307): a frame takes the page's bytes and every waiter goes on; without a free frame the host is asked
(REASON 4), unless nothing waits for the page any longer. -/
def execExpansionDone (part tag : Nat) (s : State) : Host.Outcome State Fault Refusal :=
  if s.dev.heldInReset then .next s
  else
  match s.part? part with
  | none => .next s
  | some pt =>
    match pt.requests.find? fun q => q.tag == tag && q.reason == 0 && q.answer.isNone with
    | none => .next s
    | some q =>
      match s.ctx? part q.ctxid with
      | none => .next s
      | some c =>
        match s.smallLeaf c q.va with
        | none => .next (s.answerReq q true).serveWaiting.moved
        | some (pte, e) =>
          if !bitOf e 6 then .next (s.answerReq q true).serveWaiting.moved
          else
            match pt.freeFrames, pt.comp.find? fun r => r.pa == bitsOf e 16 44 * 65536 with
            | f :: rest, some r =>
              let s := { s with mem := memPaste s.mem f 65536 r.data }.closeFrame f 65536
              let s := s.writePhys false pte (leBytes 8 (pteWith e f false true 0))
              let s := s.modPart part fun pt => { pt with freeFrames := rest, comp := pt.comp.filter fun x => x.pa != r.pa }
              .next (s.answerReq q true).serveWaiting.moved
            | _, _ =>
              if q.waiters.isEmpty then .next (s.dropReq part tag).moved
              else .next (s.modPart part fun pt => { pt with
                requests := modWhere pt.requests (fun r => r.tag == tag) fun r => { r with reason := 4, posted := false } })

/-- A frame of 64 KiB that lies partly in the compressed zone (R304). -/
def State.inZone (s : State) (part f : Nat) : Bool := (s.part? part).any fun pt => pt.zones.any fun z => decide (z.1 < f + 65536 ∧ f < z.2)

/-- A frame that may join the pool: whole frames of the partition outside the zone. A command that names another one is refused
whole, one that a stack backs in part among these (DEDUCED, log entry 34). -/
def State.poolFrame (s : State) (part f : Nat) : Bool :=
  f % 65536 == 0 && s.owns part f && s.owns part (f + 65535) && !s.inZone part f

/-- PAGE_ENGINE_REGISTER (R304): a context's ranges replace its earlier ones, and the frames join the pool, but for those that have
been retired (R431). -/
def execPageEngineRegister (fn part : Nat) (who : CtxName) (ranges : List (Nat × Nat)) (frames : List Nat) (low high period : Nat)
    (s : State) : Host.Outcome State Fault Refusal :=
  .next (s.ctxCommand fn part who.ctxid who.gen fun s _ =>
    s.okIf fn (decide (1 ≤ period ∧ period ≤ 3600) &&
        frames.all (s.poolFrame part)) fun s =>
      s.modPart part fun pt => { pt with
        aged := pt.aged.filter (fun a => a.1 != who.ctxid) ++ ranges.map (fun p => (who.ctxid, p.1, p.2))
        freeFrames := pt.freeFrames ++ frames.filter fun f => !s.dev.retiredFrames.contains f, low := low, high := high, period := period, ageClk := s.clk })

/-- The pages of the registered ranges: context and address (R304). -/
def State.agedRange (s : State) (part : Nat) : List (Ctx × Nat) :=
  match s.part? part with
  | none => []
  | some pt => pt.aged.flatMap fun a =>
      match s.ctx? part a.1 with
      | none => []
      | some c =>
        let first := a.2.1 / 65536
        (List.range (ceilDiv (a.2.1 + a.2.2) 65536 - first)).map fun i => (c, 65536 * (first + i))

/-- Each present leaf of the registered ranges once, however many ranges name it (R305). -/
def State.agedPages (s : State) (part : Nat) : List (Ctx × Nat) :=
  let pte := fun (p : Ctx × Nat) => (s.smallLeaf p.1 p.2).map (·.1)
  (s.agedRange part).foldl (fun l p => if (pte p).isNone || l.any (fun q => pte q == pte p) then l else l ++ [p]) []

/-- The tables that a table at a level leads to, itself the first. -/
def tablesFrom (m : Memory) : Nat → Nat → List Nat
  | 0, _ => []
  | l + 1, base =>
    base :: (List.range 512).flatMap fun i =>
      let e := memNat m (base + 8 * i) 8
      if bitOf e 0 && bitOf e 63 then tablesFrom m l (bitsOf e 12 48 * 4096) else []

/-- A frame that holds a page table of the partition. -/
def State.holdsTable (s : State) (part frame : Nat) : Bool :=
  let roots := (s.ctxs.filter fun c => c.part == part && c.state != .killed).map (·.ptroot) ++ ((s.part? part).bind (·.sharedRoot)).toList
  roots.any fun r => (tablesFrom s.mem 4 r).any fun t => t / 65536 == frame / 65536

/-- A frame that holds part of a save area of the partition. -/
def State.holdsSave (s : State) (part frame : Nat) : Bool :=
  s.ctxs.any fun c => c.part == part && c.state != .killed && decide (c.savepa < frame + 65536 ∧ frame < c.savepa + c.savesz)

/-- A page that holds part of a record ring of a graph of the context. -/
def Ctx.holdsRing (c : Ctx) (va : Nat) : Bool :=
  (c.graph.toList ++ c.graphWait).any fun g => g.nodes.any fun d =>
    d.kind == .queue && decide (d.rqva < va + 65536 ∧ va < d.rqva + 64 * d.rqcap)

/-- A page of a context that holds part of a graph ring: in the shared window, of a graph of any context of the partition. -/
def State.ringPage (s : State) (part : Nat) (c : Ctx) (va : Nat) : Bool :=
  if isShared va then s.ctxs.any fun x => x.part == part && x.holdsRing va else c.holdsRing va

/-- A page that is never aged or compressed (R304): LOC 1, page tables, save areas and graph rings; larger pages have no such
leaf. -/
def State.neverAged (s : State) (part : Nat) (c : Ctx) (va e : Nat) : Bool :=
  bitOf e 3 || s.ringPage part c va ||
    (!bitOf e 6 && (s.holdsTable part (bitsOf e 16 44 * 65536) || s.holdsSave part (bitsOf e 16 44 * 65536)))

/-- Ages one page (R305). -/
def State.agePage (s : State) (part : Nat) (c : Ctx) (va : Nat) : State :=
  match s.smallLeaf c va with
  | none => s
  | some (pte, e) =>
    if s.neverAged part c va e then s
    else if bitOf e 7 then
      (s.writePhys false pte (leBytes 8 (pteWith e (bitsOf e 16 44 * 65536) (bitOf e 6) false 0))).dropTlb part (asidTag c.asid va) va
    else
      let age := min (bitsOf e 8 4 + 1) 15
      let s := s.writePhys false pte (leBytes 8 (pteWith e (bitsOf e 16 44 * 65536) (bitOf e 6) false age))
      if age = 15 ∧ bitsOf e 8 4 ≠ 15 then
        s.modPart part fun pt => { pt with
          coldTimes := (bitsOf e 16 44 * 65536, pt.periods) :: pt.coldTimes.filter fun x => x.1 != bitsOf e 16 44 * 65536 }
      else s

/-- AGEING_PERIOD (R305). A part that is held in reset does nothing (R433). -/
def execAgeingPeriod (part : Nat) (s : State) : Host.Outcome State Fault Refusal :=
  if s.dev.heldInReset then .next s else
  let s := s.modPart part fun pt => { pt with periods := pt.periods + 1, ageClk := s.clk }
  .next ((s.agedPages part).foldl (fun s p => s.agePage part p.1 p.2) s)

/-- A victim: its cold time, its physical page, its PTE and its address (R306). -/
structure Victim where
  cold : Nat
  pa   : Nat
  pte  : Nat
  val  : Nat
  asid : Nat
  va   : Nat
  deriving DecidableEq, Repr

/-- A registered page that may be compressed: AGE 15, A clear, in device memory, not compressed (R306). -/
def State.victimOf (s : State) (part : Nat) (pt : Partition) (p : Ctx × Nat) : Option Victim :=
  match s.smallLeaf p.1 p.2 with
  | none => none
  | some (pte, e) =>
    if s.neverAged part p.1 p.2 e || bitOf e 6 || bitOf e 7 || bitsOf e 8 4 != 15 then none
    else
      let pa := bitsOf e 16 44 * 65536
      some { cold := ((pt.coldTimes.find? fun x => x.1 == pa).map (·.2)).getD 0, pa := pa, pte := pte, val := e,
             asid := asidTag p.1.asid p.2, va := p.2 }

/-- Puts a victim in its place: earliest cold time first, lower physical address on a tie. -/
def insertVictim (v : Victim) : List Victim → List Victim
  | [] => [v]
  | w :: r => if v.cold < w.cold ∨ (v.cold = w.cold ∧ v.pa < w.pa) then v :: w :: r else w :: insertVictim v r

/-- The form a slice stores a line in, as its number in the table of R315. -/
def lineForm (ws : List DWord) : Nat :=
  let base := ws.headD 0
  let ds := ws.map fun w => (w - base).toInt
  if ws.all (· == 0) then 0
  else if ds.all (· == 0) then 1
  else if ds.all fun d => decide (-128 ≤ d ∧ d < 128) then 2
  else if ds.all fun d => decide (-32768 ≤ d ∧ d < 32768) then 3
  else if ds.all fun d => decide (-2147483648 ≤ d ∧ d < 2147483648) then 4
  else 5

/-- The forms of the 512 lines of a page. -/
def pageForms (m : Memory) (pa : Nat) : List Nat :=
  (List.range 512).map fun l => lineForm ((List.range 16).map fun i => BitVec.ofNat 64 (memNat m (pa + 128 * l + 8 * i) 8))

/-- Bytes of payload of a line in a form (R315). -/
def payloadBytes (form : Nat) : Nat :=
  match form with
  | 0 => 0
  | 1 => 8
  | 2 => 8 + 16
  | 3 => 8 + 32
  | 4 => 8 + 64
  | _ => 128

/-- Bytes of a page's record: its lines' payload, and what the record's private layout adds to it (R306, R315). -/
def recordSize (forms : List Nat) : Nat := (forms.map payloadBytes).sum + Config.recordBytes forms

/-- A free place of the compressed zone: PTEs name records by 64 KiB (R291). -/
def Partition.zonePlace (pt : Partition) : Option Nat :=
  pt.zones.findSome? fun z =>
    ((List.range ((z.2 - z.1) / 65536)).map fun i => z.1 + 65536 * i).find? fun a => !pt.comp.any fun r => r.pa == a

/-- Compresses one victim, or leaves it with AGE 0 where its record does not fit (R306). -/
def State.compressOne (s : State) (part : Nat) (v : Victim) : State :=
  match s.part? part with
  | none => s
  | some pt =>
    let size := recordSize (pageForms s.mem v.pa)
    match pt.zonePlace with
    | some z =>
      if size ≤ 49152 then
        let r : CompRec := { pa := z, size := size, data := memSlice s.mem v.pa 65536 }
        let s := (s.closeFrame v.pa 65536).writePhys false v.pte (leBytes 8 (pteWith v.val z true false (bitsOf v.val 8 4)))
        let keep := fun (l : Nat × Nat × List Byte) => !(l.1 == v.asid && l.2.1 / 65536 == v.va / 65536)
        let s := s.modCores (s.coresOf part) fun k => { k with fetchLines := k.fetchLines.filter keep }
        let freed := [v.pa].filter fun f => !s.dev.retiredFrames.contains f
        (s.modPart part fun pt => { pt with comp := pt.comp ++ [r], freeFrames := pt.freeFrames ++ freed }).dropTlb part v.asid v.va
      else s.writePhys false v.pte (leBytes 8 (pteWith v.val v.pa false false 0))
    | none => s.writePhys false v.pte (leBytes 8 (pteWith v.val v.pa false false 0))

/-- Compresses victims until the pool reaches HIGH. -/
def State.compressTo (s : State) (part : Nat) : List Victim → State
  | [] => s
  | v :: r =>
    match s.part? part with
    | none => s
    | some pt => if pt.freeFrames.length < pt.high then (s.compressOne part v).compressTo part r else s

/-- COMPRESS_VICTIM (R306): while the pool is below LOW. -/
def execCompressVictim (part : Nat) (s : State) : Host.Outcome State Fault Refusal :=
  match s.part? part with
  | none => .next s
  | some pt =>
    if pt.freeFrames.length < pt.low && !s.dev.heldInReset then
      .next (s.compressTo part (((s.agedPages part).filterMap (s.victimOf part pt)).foldl (fun l v => insertVictim v l) []))
    else .next s

/-! ### Shootdown, group table, shared tables -/

/-- The TLB entries and fetch-unit lines that a command's scope names: 0 one ASID's range, 1 one ASID, 2 every ASID. -/
def inScope (scope asid va len : Nat) (tag lo hi : Nat) : Bool :=
  match scope with
  | 0 => tag == asid && decide (lo < va + len ∧ va < hi)
  | 1 => tag == asid
  | _ => true

/-- The overlay in a slot was loaded from the scope: its place is free (R293; log entry 51). -/
def OvSlot.inShot (o : OvSlot) (scope asid va len : Nat) : Bool :=
  let a := Config.overlayVa o.asid o.handle o.ovl % 2 ^ 51
  inScope scope asid va len o.asid a (a + 4 * o.words.length)

/-- The shootdown of a command's scope. -/
def shotOf (scope asid va len ver : Nat) : Shot :=
  match scope with
  | 0 => { asid := some asid, lo := va, hi := va + len, ver := ver }
  | 1 => { asid := some asid, ver := ver }
  | _ => { ver := ver }

/-- SHOOTDOWN (R308): translations, fetch-unit lines and overlay tags of the scope are removed, and its completion is posted.
Overlays left resident stay usable (R309). -/
def execShootdown (fn part scope asid va len : Nat) (s : State) : Host.Outcome State Fault Refusal :=
  .next (s.command fn part fun s =>
    s.okIf fn (decide (scope ≤ 2) && (scope != 0 || (va % 65536 == 0 && len % 65536 == 0))) fun s =>
      let keepTlb := fun (e : TlbEntry) =>
        !inScope scope asid va len e.asid (e.vpn * 2 ^ pageBits e.level) ((e.vpn + 1) * 2 ^ pageBits e.level)
      let keepLine := fun (l : Nat × Nat × List Byte) => !inScope scope asid va len l.1 l.2.1 (l.2.1 + 128)
      let s := s.modPart part fun pt => { pt with tlb := pt.tlb.filter keepTlb, shots := shotOf scope asid va len s.vers :: pt.shots }
      let s := s.modCores (s.coresOf part) fun c => { c with
        fetchLines := c.fetchLines.filter keepLine
        slots := c.slots.map fun o => o.map fun o => { o with stale := o.stale || o.inShot scope asid va len } }
      s.modFunc fn fun f => { f with shootDone := f.shootDone + 1 })

/-- A slice group that a partition's group table may name (R312). -/
def State.groupOk (s : State) (part group : Nat) : Bool :=
  match s.dev.mode with
  | .eight => group / 3 == part
  | .one => decide (group < 24)
  | .hamada => group / 3 == s.dev.boot.strip

/-- A translation that covers a line whose index is an entry of the group table: the index is one for each 2 MiB. -/
def TlbEntry.hasIndex (e : TlbEntry) (idx : Nat) : Bool :=
  (List.range (max 1 (2 ^ pageBits e.level / 2 ^ 21))).any fun i => groupIndex e.asid (e.vpn * 2 ^ pageBits e.level + 2 ^ 21 * i) == idx

/-- GROUP_TABLE_WRITE (R312), a shootdown of the lines under the entry: they leave the fetch units, and their translations the
TLBs. The requests to their old home slices are performed before the entry changes. -/
def execGroupTableWrite (fn part idx group : Nat) (s : State) : Host.Outcome State Fault Refusal :=
  .next (s.pfCommand fn fun s =>
    s.okIf fn (decide (part < s.partCount ∧ idx < 64) && s.groupOk part group) fun s =>
      let s := s.modPart part fun pt => { pt with
        groupTable := pt.groupTable.set idx group, tlb := pt.tlb.filter fun e => !e.hasIndex idx
        shots := { index := some idx, ver := s.vers } :: pt.shots }
      s.modCores (s.coresOf part) fun c => { c with
        fetchLines := c.fetchLines.filter fun l => groupIndex l.1 l.2.1 != idx, reqs := c.reqs.filter fun q => q.index != idx })

/-- SHARED_TABLE_INSTALL (R290, R291). -/
def execSharedTableInstall (fn part root : Nat) (s : State) : Host.Outcome State Fault Refusal :=
  .next (s.pfCommand fn fun s =>
    s.okIf fn (decide (part < s.partCount) && root % 4096 == 0 && s.owns part root) fun s =>
      s.modPart part fun pt => { pt with sharedRoot := some root })

/-! ### Drowsy banks (R318) -/

/-- The partition that owns a column (R15, R16). -/
def State.partOfCol (s : State) (col : Nat) : Nat := if s.dev.mode == .eight then col / 3 else 0

/-- Drowsiness is disabled in a partition (R318). -/
def State.drowsyBarred (s : State) (part : Nat) : Bool :=
  ((s.part? part).map fun pt => pt.drowsyOff).getD true || s.ctxs.any fun c => c.part == part && c.nodrowsy && c.state != .killed

/-- BANK_DROWSY (R318). -/
def execBankDrowsy (col row bank : Nat) (s : State) : Host.Outcome State Fault Refusal :=
  if col < 24 ∧ row < 16 ∧ bank < 16 ∧ s.drowsyBarred (s.partOfCol col) = false then
    .next { s with dev := { s.dev with drowsy := s.dev.drowsy.filter (fun d => d != (col, row, bank, false)) ++ [(col, row, bank, false)] } }
  else .next s

/-- BANK_WAKE (R318). -/
def execBankWake (col row bank : Nat) (s : State) : Host.Outcome State Fault Refusal :=
  .next { s with dev := { s.dev with drowsy := s.dev.drowsy.filter fun d => !(d.1 == col && d.2.1 == row && d.2.2.1 == bank) } }

/-- DROWSY_DISABLE (R318): every bank of the partition is awake while drowsiness is disabled. -/
def execDrowsyDisable (fn part : Nat) (disable : Bool) (s : State) : Host.Outcome State Fault Refusal :=
  .next (s.command fn part fun s =>
    s.okIf fn true fun s =>
      let s := s.modPart part fun pt => { pt with drowsyOff := disable }
      if disable then { s with dev := { s.dev with drowsy := s.dev.drowsy.filter fun d => s.partOfCol d.1 != part } } else s)

/-! ### The host's accesses (R266, R408) -/

/-- Device memory that a stack backs (R19); in Hamada mode one stack alone is enabled (R425). -/
def State.backed (s : State) (pa : Nat) : Bool :=
  decide (pa < 2 ^ 42 ∧ stackOf pa < 24 ∧ pa % 2 ^ 37 < stackBytes) && (s.dev.mode != .hamada || stackOf pa == s.dev.boot.stack)

/-- The new bytes of a host AtomicOp (R408): 2 FetchAdd of 4 or 8 bytes, 3 Swap, 4 CAS with its compare value first. -/
def hostAtomic (op : Nat) (old data : List Byte) : List Byte :=
  match op with
  | 2 => leBytes old.length (leNat old + leNat data)
  | 3 => data
  | _ => if old = data.take old.length then data.drop old.length else old

/-- Bytes an operation touches: half the data of a CAS. -/
def hostBytes (op : Nat) (data : List Byte) : Nat := if op = 4 then data.length / 2 else data.length

/-- HOST_MEMORY_REQUEST (R266, R408): 0 read, 1 write, 2 to 4 AtomicOps of the sizes the port carries. A read leaves the state
unchanged; a request to bytes that no enabled stack backs is not performed, and none to a part that is held in reset (R433). -/
def execHostMemoryRequest (op : Nat) (host : Bool) (pa : Nat) (data : List Byte) (s : State) : Host.Outcome State Fault Refusal :=
  let n := hostBytes op data
  if !host && !(s.dev.hostLink && !s.dev.heldInReset && s.backed pa && (n == 0 || s.backed (pa + n - 1))) then .next s
  else
    match op with
    | 0 => .next s
    | 1 => .next (s.writePhys host pa data).moved
    | 2 => if n = 4 ∨ n = 8 then .next (s.writePhys host pa (hostAtomic 2 (s.readPhys host pa n) data)).moved else .next s
    | 3 => if n = 4 ∨ n = 8 then .next (s.writePhys host pa (hostAtomic 3 (s.readPhys host pa n) data)).moved else .next s
    | 4 =>
      if n = 4 ∨ n = 8 ∨ n = 16 then .next (s.writePhys host pa (hostAtomic 4 (s.readPhys host pa n) data)).moved else .next s
    | _ => .next s

end Sys2Proof.Machine
end

