-- ==== Sys2Proof/Machine/Context.lean ====
section
/-!
DEFINITION. Contexts: creation and destruction (R89 to R94), pre-emption, saving and resumption (R95 to R101, R126, R377,
R378), the watchdog (R104), queue deadlock (R246) and the rollback floor (R77).
-/

namespace Sys2Proof.Machine

/-! ### Creation and destruction (R89 to R93) -/

/-- The cores of a partition that are in service. -/
def State.enabledCores (s : State) (part : Nat) : Nat := ((s.coresOf part).filter s.coreAvail).length

/-- Every field of a context descriptor is in its range (R89, R90, R291). -/
def descOk (s : State) (bs : List Byte) : Bool :=
  let part := fieldAt bs 6 1
  let asid := fieldAt bs 4 2
  let root := fieldAt bs 8 8
  let pa := fieldAt bs 0x10 8
  bs.length == 64 && decide (fieldAt bs 0 2 < 64) && decide (1 ≤ asid) &&
    !(s.ctxs.any fun c => c.asid == asid && c.state != .killed) &&
    decide (part < s.partCount) && decide (fieldAt bs 7 1 ≤ 7) && root % 4096 == 0 && s.owns part root &&
    pa % 65536 == 0 && s.owns part pa && decide (65536 + 4608 * 1024 * s.enabledCores part ≤ fieldAt bs 0x18 8) &&
    decide (fieldAt bs 0x2C 4 ≤ 3) && zeroAt bs 0x30 16 &&
    (s.ctx? part (fieldAt bs 0 2)).all fun c => c.state == .killed

/-- The next generation under a number: 1 at first, then one more modulo 2^16, skipping 0 (R91). -/
def nextGen (g : Nat) : Nat := if (g + 1) % 65536 = 0 then 1 else (g + 1) % 65536

/-- The context that a descriptor describes. The PF alone marks a context NATIVE (R77). -/
def ctxOfDesc (fn gen : Nat) (bs : List Byte) : Ctx :=
  { ctxReset (fieldAt bs 6 1) (fieldAt bs 0 2) gen (fieldAt bs 4 2) (fieldAt bs 7 1) with
    ptroot := fieldAt bs 8 8, savepa := fieldAt bs 0x10 8, savesz := fieldAt bs 0x18 8, floor := fieldAt bs 0x20 4,
    trapmask := BitVec.ofNat 32 (fieldAt bs 0x24 4), wdog := fieldAt bs 0x28 4,
    native := bitOf (fieldAt bs 0x2C 4) 0 && fn == 0, nodrowsy := bitOf (fieldAt bs 0x2C 4) 1 }

/-- Wakes every bank of a partition that may not be drowsy (R318). -/
def State.wakeBanks (s : State) (part : Nat) : State :=
  if s.drowsyBarred part then { s with dev := { s.dev with drowsy := s.dev.drowsy.filter fun d => s.partOfCol d.1 != part } } else s

/-- Creates the context of a descriptor, in place of a KILLED one of the same number (R89, R91, R93). -/
def State.createCtx (s : State) (fn : Nat) (bs : List Byte) : State :=
  let part := fieldAt bs 6 1
  let id := fieldAt bs 0 2
  let gen := nextGen (((s.part? part).map fun pt => pt.gens.getD id 0).getD 0)
  let s := s.modPart part fun pt => { pt with gens := setAt pt.gens id gen }
  { s with ctxs := s.ctxs.filter (fun c => !isCtx part id c) ++ [ctxOfDesc fn gen bs] }.wakeBanks part

/-- CREATE_CONTEXT (R89). -/
def execCreateContext (fn : Nat) (desc : List Byte) (s : State) : Host.Outcome State Fault Refusal :=
  let part := fieldAt desc 6 1
  .next (
    if !s.commandable then s.setStatus fn .notReady
    else if decide (part < s.partCount) && !s.mayReach fn part then s.setStatus fn .access
    else s.okIf fn (descOk s desc) fun s => s.createCtx fn desc)

/-- Frees what carries the tags of a context: overlay slots, key entries, fetch-unit lines, TLB entries, ranges of the page
engine, jobs (R92, R93). -/
def State.freeTagged (s : State) (c : Ctx) : State :=
  let s := s.modCores (s.coresOf c.part) fun k => { k with
    slots := k.slots.map fun o => if o.any fun o => o.asid == c.asid then none else o
    keys := k.keys.map fun o => if o.any fun e => e.ctxid == c.ctxid && e.part == c.part then none else o
    fetchLines := k.fetchLines.filter fun l => l.1 != c.asid }
  s.modPart c.part fun pt => { pt with
    tlb := pt.tlb.filter (fun e => e.asid != c.asid), shots := { asid := some c.asid, ver := s.vers } :: pt.shots, aged := pt.aged.filter (fun a => a.1 != c.ctxid)
    jobs := pt.jobs.filter fun j => j.2 != c.ctxid }

/-- A context is KILLED: its work is discarded and everything of it is freed (R93). -/
def State.kill (s : State) (c : Ctx) : State :=
  let s := (s.discardCtx c.part c.ctxid).freeTagged c
  s.modCtx c.part c.ctxid fun c => { c.dropSlots with state := .killed, images := [], active := none, staged := none }

/-- DESTROY (R93). -/
def execDestroy (fn part : Nat) (who : CtxName) (s : State) : Host.Outcome State Fault Refusal :=
  .next (s.ctxCommand fn part who.ctxid who.gen fun s c => s.okIf fn (c.state != .killed) fun s => s.kill c)

/-- ROLLBACK_FLOOR_RAISE (R77): the floor never falls. -/
def execRollbackFloorRaise (fn part : Nat) (who : CtxName) (floor : Nat) (s : State) : Host.Outcome State Fault Refusal :=
  .next (s.ctxCommand fn part who.ctxid who.gen fun s c =>
    if c.state = .error ∨ c.state = .killed then s.setStatus fn .dead
    else s.okIf fn (decide (c.floor ≤ floor ∧ floor < 2 ^ 32)) fun s => s.modCtx part who.ctxid fun c => { c with floor := floor })

/-! ### Quiesce (R96) -/

/-- The groups of a context. -/
def State.groupsOf (s : State) (part ctxid : Nat) : List Group := s.groups.filter fun g => g.part == part && g.ctxid == ctxid

/-- Every team of a list of groups. -/
def refsOf (gs : List Group) : List TeamRef := gs.flatMap fun g => g.teams.map fun t => { uid := g.uid, tid := t.tid }

/-- Stopped timers keep their remaining time (R123). -/
def Graph.stopTimers (g : Graph) (clk : Nat) : Graph :=
  { g with nodes := g.nodes.map fun d => { d with due := none, left := d.due.map fun t => t - clk } }

/-- Timers go on with the time they had left (R123). -/
def Graph.startTimers (g : Graph) (clk : Nat) : Graph :=
  { g with nodes := g.nodes.map fun d => { d with due := d.left.map fun t => clk + t, left := none } }

/-- Every outstanding result of a team returns, oldest first (R96). -/
def Team.takeResults (t : Team) : Team :=
  ({ t.pend.foldl (fun (t : Team) (p : PendWrite) => (t.writeVals p.dst p.vals).orFlags p.flags) t with pend := [] }).unswitch

/-- A team that has stopped issuing: it stands before its prefix, with no HINT.STALL count left (R59, R96). -/
def Team.stop (t : Team) : Team :=
  { t.takeResults with pc := t.prefixPc, hints := [], stalls := [], heldAt := none, queueHeld := false, fuse := 0 }

/-- Some fault of the team has not been reported. -/
def Team.unreported (t : Team) : Bool := t.replay.any fun i => !i.reported

/-- A team stops: its poll ends, its results return, its faults are reported (R96). -/
def State.stopTeam (s : State) (r : TeamRef) : State :=
  let s := ((s.endPoll r).modTeam r Team.stop).finishTry r
  if (s.team? r).any Team.unreported then s.reportTeam r else s

/-- An entry whose data are in flight other than from a port (R248, R420). -/
def State.loadInFlight (s : State) (uid : Nat) (q : Queue) (e : QEntry) : Bool :=
  e.waiting && !e.faulted && !s.remotes.any fun o => o.kind == 0 && o.uid == uid && o.queue == q.num && o.entry == e.id

/-- Entries of a closed queue whose remote reads are still outstanding. -/
def State.remoteCancelled (s : State) (uid : Nat) (q : Queue) : Nat :=
  ((s.remotes.filter fun o => o.kind == 0 && o.uid == uid && o.queue == q.num && !q.entries.any fun e => e.id == o.entry).map
    (·.entry)).eraseDups.length

/-- How many cancelled loads of a CLOSING queue, other than remote reads, are in flight. -/
def State.cancelledInFlight (s : State) (uid : Nat) (q : Queue) : Nat :=
  if q.state = .closing then q.inFlight - s.remoteCancelled uid q else 0

/-- Every queue load in flight returns (R96, R248). -/
def State.returnLoads (s : State) (g : Group) : State :=
  let settle := fun (q : Queue) =>
    let ids := (q.entries.filter (s.loadInFlight g.uid q)).map (·.id) ++ List.replicate (s.cancelledInFlight g.uid q) q.nextId
    ids.foldl (fun q i => q.arrive i s.clk) q
  (s.modGroup g.uid fun g => { g with queues := g.queues.map settle }).modCore g.core fun k => k.dropReqs g.uid

/-- Overlays that a group has to find resident after its resumption (R126): those of its image whose load is in progress on its
core, whichever group began it, and those that it waited for when it had not started again yet. -/
def State.pendingOvls (s : State) (c : Ctx) (g : Group) : List Nat :=
  let loading := ((s.core? g.core).map fun k => (k.slots.filterMap id).filterMap fun o =>
    if !o.loaded && o.asid == c.asid && o.handle == g.image then some o.ovl else none).getD []
  g.ovls ++ loading.filter fun o => !g.ovls.contains o

/-- Steps 1 and 2 of R96: overlay loads in progress are noted (R126), the context is PREEMPTING, its teams stop, and what is in flight to them returns. -/
def State.quiesce (s : State) (part ctxid cause : Nat) : State :=
  let s := (s.ctx? part ctxid).elim s fun c =>
    (s.groupsOf part ctxid).foldl (fun s g => s.modGroup g.uid fun x => { x with ovls := s.pendingOvls c g }) s
  let s := s.modCtx part ctxid fun c => { c with
    state := .preempting, saveCause := cause, saveClk := s.clk, nabort := 0, graph := c.graph.map fun g => g.stopTimers s.clk }
  let s := (s.groupsOf part ctxid).foldl State.returnLoads s
  ((refsOf (s.groupsOf part ctxid)).foldl State.stopTeam s).moved

/-- PREEMPT (R93): CAUSE 2 (R97). -/
def execPreempt (fn part : Nat) (who : CtxName) (s : State) : Host.Outcome State Fault Refusal :=
  .next (s.ctxCommand fn part who.ctxid who.gen fun s c =>
    if c.state = .error ∨ c.state = .killed then s.setStatus fn .dead
    else s.okIf fn (c.state == .running) fun s => s.quiesce part who.ctxid 2)

/-! ### The distributor's choice of a context to pre-empt (R95) -/

/-- The cores of a context as they were free. -/
def State.withoutGroups (s : State) (c : Ctx) : State :=
  (s.groupsOf c.part c.ctxid).foldl (fun s g => { s.modCore g.core (fun k => k.freeGroup g.uid) with
    groups := modWhere s.groups (fun x => x.uid == g.uid) fun x => { x with state := .saved } }) s

/-- When the oldest running launch of a context started. -/
def State.oldestStart (s : State) (c : Ctx) : Nat :=
  let starts := (s.launches.filter fun l =>
    l.part == c.part && l.ctxid == c.ctxid && (l.state == .placing || l.state == .running)).map (·.startClk)
  starts.foldl min (starts.headD 0)

/-- A context that may be pre-empted for a launch (R95). -/
def State.mayPreempt (s : State) (l : Launch) (prio : Nat) (c : Ctx) : Bool :=
  c.part == l.part && c.state == .running && decide (c.prio < prio) && !(s.groupsOf c.part c.ctxid).isEmpty &&
    ((s.withoutGroups c).placeFor l).isSome

/-- The better victim of two: lower priority, then the later start. -/
def State.betterVictim (s : State) (a b : Ctx) : Ctx :=
  if b.prio < a.prio ∨ (b.prio = a.prio ∧ s.oldestStart a < s.oldestStart b) then b else a

/-- The context to pre-empt for a launch (R95). -/
def State.victim (s : State) (l : Launch) (prio : Nat) : Option Ctx :=
  match s.ctxs.filter (s.mayPreempt l prio) with
  | [] => none
  | c :: r => some (r.foldl s.betterVictim c)

/-- The decision for a launch whose next group fits nowhere; one context of a partition is pre-empted at a time. -/
def State.decision (s : State) (l : Launch) : Option Ctx :=
  match s.ctx? l.part l.ctxid with
  | none => none
  | some c =>
    if l.state = .placing ∧ c.state = .running ∧ s.placeBlocked l = false ∧ (s.placeFor l).isNone = true ∧
        !(s.ctxs.any fun x => x.part == l.part && x.state == .preempting) then s.victim l c.prio
    else none

/-- PREEMPTION_DECISION (R95): CAUSE 1 (R97). -/
def execPreemptionDecision (lid : Nat) (s : State) : Host.Outcome State Fault Refusal :=
  match (s.launch? lid).bind s.decision with
  | some c => .next (s.quiesce c.part c.ctxid 1)
  | none => .next s

/-! ### Saving (R96 to R98, R126, R377) -/

/-- The context has no open census left. -/
def State.censusesOver (s : State) (c : Ctx) : Bool :=
  !s.censuses.any fun x => x.part == c.part && x.ctxid == c.ctxid && x.state == .opened

/-- No card of the groups runs on an engine any longer (R96, R377). -/
def cardsOver (gs : List Group) : Bool := gs.all fun g => g.cards.all fun c => c.state != .running

/-- Cards are kept as unissued, pairing ones among them (R377). -/
def Group.keepCards (g : Group) : Group := { g with cards := g.cards.map fun c => { c with state := .queued } }

/-- Copies of the groups are aborted, and with them what they waited on (R303). -/
def State.dropCopies (s : State) (part : Nat) (uids : List Nat) : State :=
  let ofCopy := fun (w : Waiter) => match w with
    | .copy q => s.copies.any fun c => c.seq == q && uids.contains c.uid
    | .fetch q => s.fetches.any fun f => f.seq == q && uids.contains f.uid
    | _ => false
  ((s.detach part ofCopy).abortCopies uids).abortFetches uids

/-- Writes back a team's stores and stack cache; what faults is reported and kept (R96). -/
def State.saveTeam (s : State) (r : TeamRef) : State :=
  let s := s.writeBack r
  if (s.team? r).any Team.unreported then s.reportTeam r else s

/-- The engines bound to a group. -/
def State.boundEngines (s : State) (g : Group) : List Engine :=
  ((s.core? g.core).map fun k => k.engines.filter fun e => e.boundTo.any fun b => b.1 == g.uid).getD []

/-- The key entries of a group with their numbers. -/
def State.groupKeys (s : State) (g : Group) : List (Nat × KeyEntry) :=
  ((s.core? g.core).map fun k => (List.range k.keys.length).filterMap fun i =>
    match k.keys.getD i none with
    | some e => if e.uid == g.uid then some (i, e) else none
    | none => none).getD []

/-- The lines of an address space leave a core's fetch unit cache, which is not saved (R98). -/
def Core.dropLines (asid : Nat) (k : Core) : Core := { k with fetchLines := k.fetchLines.filter fun l => l.1 != asid }

/-- A group is saved, and its core freed (R97, R133). -/
def State.saveGroup (s : State) (g : Group) : State :=
  let es := s.boundEngines g
  let ks := s.groupKeys g
  let s := s.modGroup g.uid fun g => { g with state := .saved, savedEngines := es, savedKeys := ks }
  s.modCore g.core fun k => k.freeGroup g.uid

/-- The bytes of a save area that R90 makes every descriptor name: a context whose cores are all full is saved within them. -/
def State.saveRoom (s : State) (c : Ctx) : Nat := min c.savesz (65536 + 4608 * 1024 * s.enabledCores c.part)

/-- The records of `n` groups from an offset on, each with its offset from SAVEPA: one after the other, each on the next 256-byte
boundary, and all within `room` (R97). Their bytes are the part's own (log entry 5). -/
def recordsFrom (room free off : Nat) : Nat → List (Nat × List Byte)
  | 0 => []
  | n + 1 =>
    let bs := (Config.groupRecord free).take (room - off - 256 * n)
    (off, bs) :: recordsFrom room (free + 1) (alignUp (off + max 1 bs.length) 256) n

/-- The group records of a save; the first follows the header of 64 KiB (R97, R436). -/
def State.groupRecords (s : State) (c : Ctx) (ngroup : Nat) : List (Nat × List Byte) :=
  recordsFrom (s.saveRoom c) s.free 65536 ngroup

/-- Every byte of a range lies in memory of the partition that a stack backs (R19). -/
def State.ownsRange (s : State) (part pa n : Nat) : Bool :=
  n == 0 || (s.owns part pa && s.owns part (pa + n - 1) && stackOf pa == stackOf (pa + n - 1))

/-- A save writes only bytes that its context may reach; else it goes to ERROR (R19). -/
def State.saveAreaOk (s : State) (c : Ctx) (ngroup : Nat) : Bool :=
  s.ownsRange c.part c.savepa (0x20 + 8 * ngroup) &&
    (s.groupRecords c ngroup).all fun r => s.ownsRange c.part (c.savepa + r.1) r.2.length

/-- The driver's fields of the save-area header, and the group records (R97). -/
def State.writeHeader (s : State) (c : Ctx) (ngroup ncopy : Nat) : State :=
  let rs := s.groupRecords c ngroup
  let s := rs.foldl (fun s r => s.writePhys false (c.savepa + r.1) r.2) { s with free := s.free + ngroup }
  s.writePhys false c.savepa
    (leBytes 4 0x53415645 ++ leBytes 2 c.ctxid ++ leBytes 2 c.gen ++ leBytes 4 ngroup ++ leBytes 4 c.saveCause ++
      leBytes 8 c.saveClk ++ leBytes 4 c.nabort ++ leBytes 4 ncopy ++ rs.flatMap fun r => leBytes 8 r.1)

/-- Steps 2 to 6 of R96 as they end: the context is SAVED and its event record posted (R93). A save area that reaches beyond what
the partition's stacks back puts it into ERROR with cause 0x22 (R19, R104). -/
def State.save (s : State) (c : Ctx) : State :=
  let gs := s.groupsOf c.part c.ctxid
  let uids := gs.map (·.uid)
  let s := (refsOf gs).foldl State.finishMove s
  let s := gs.foldl (fun s g => s.modGroup g.uid Group.keepCards) s
  let ncopy := (s.copies.filter fun x => uids.contains x.uid).length
  let s := s.dropCopies c.part uids
  let s := (refsOf gs).foldl State.saveTeam s
  match s.ctx? c.part c.ctxid with
  | none => s
  | some c =>
    if c.state ≠ .preempting then s
    else
      let s := ((s.groupsOf c.part c.ctxid).foldl State.saveGroup s).modCores (s.coresOf c.part) (Core.dropLines c.asid)
      if s.saveAreaOk c gs.length then
        let s := s.writeHeader c gs.length ncopy
        let s := { s with nextSeq := s.nextSeq + 1 }.modCtx c.part c.ctxid fun c => { c with state := .saved, saveSeq := s.nextSeq }
        (s.postEvent c 1 0 noCore 0 0).moved
      else (s.ctxError c.part c.ctxid 0x22 noCore 0 0).moved

/-- SAVE_COMPLETE (R96). -/
def execSaveComplete (part ctxid : Nat) (s : State) : Host.Outcome State Fault Refusal :=
  match s.ctx? part ctxid with
  | some c => if c.state = .preempting ∧ s.censusesOver c = true ∧ cardsOver (s.groupsOf part ctxid) = true then .next (s.save c) else .next s
  | none => .next s

/-! ### Resumption (R95, R99, R126, R378) -/

/-- Makes a group's bindings again on the lowest unbound engines, in ascending LID order (R378). -/
def bindAgain (uid : Nat) : List Engine → List Engine → List Engine
  | es, [] => es
  | es, b :: r =>
    match es.findIdx? fun e => e.boundTo.isNone with
    | some i => bindAgain uid (setAt es i b) r
    | none => es

/-- The LID of a binding. -/
def Engine.lid (e : Engine) : Nat := (e.boundTo.map (·.2)).getD 0

/-- Engines in ascending LID order. -/
def byLid (es : List Engine) : List Engine :=
  es.foldl (fun l e => (l.takeWhile fun x => decide (x.lid ≤ e.lid)) ++ e :: (l.dropWhile fun x => decide (x.lid ≤ e.lid))) []

/-- Registers saved key entries in the lowest free entries of a directory; the result pairs old numbers with new ones. -/
def Core.registerAgain : List (Nat × KeyEntry) → Core → Core × List (Nat × Nat)
  | [], k => (k, [])
  | (i, e) :: r, k =>
    match k.freeKey with
    | some j =>
      let p := Core.registerAgain r { k with keys := setAt k.keys j (some e) }
      (p.1, (i, j) :: p.2)
    | none => (k, [])

/-- A responder's place on its group's new core. -/
def Team.moveResponder (core : Nat) (m : List (Nat × Nat)) (t : Team) : Team :=
  { t with responder := t.responder.map fun i => { i with
      core := core, entries := i.entries.map fun n => ((m.find? fun p => p.1 == n).map (·.2)).getD n } }

/-- A team bound to its unit on the new core. -/
def Team.bindTo (parts : List (Nat × Nat)) (t : Team) : Team :=
  { t with part := ((parts.find? fun p => p.1 == t.tid).map (·.2)).getD 0 }

/-- A core has the engines that a saved group needs (R378). -/
def State.enginesFit (s : State) (g : Group) (core : Nat) : Bool :=
  (s.core? core).any fun k => decide (g.savedEngines.length ≤ (k.engines.filter fun e => e.boundTo.isNone).length)

/-- A core has the key-directory entries that a saved group needs (R99, R379), and room for its responders: a core runs at most 4
at once (R136, R385). -/
def State.keysFit (s : State) (g : Group) (core : Nat) : Bool :=
  ((s.core? core).any fun k => decide (g.savedKeys.length ≤ (k.keys.filter Option.isNone).length)) &&
    decide (s.respondersOn core + (g.teams.filter fun t => t.responder.isSome).length ≤ 4)

/-- Places a saved group on a core, if it fits there: its engines, key entries, responders, overlays and teams (R99, R126, R136,
R378, R379). Lines of the shared window that the core has taken in before are filled again (R98, R324; log entry 22). -/
def State.replaceOn (s : State) (c : Ctx) (g : Group) (core : Nat) : Option State :=
  if !s.enginesFit g core || !s.keysFit g core then none
  else
    match (s.usage core).bind g.need, s.core? core with
    | some parts, some k =>
      let reg := Core.registerAgain g.savedKeys { k with engines := bindAgain g.uid k.engines (byLid g.savedEngines) }
      let s := (s.modCore core fun _ => reg.1.dropLines 0).modGroup g.uid fun g => { g with
        state := .starting, core := core, savedEngines := [], savedKeys := []
        teams := g.teams.map fun t => (t.bindTo parts).moveResponder core reg.2 }
      State.needOverlays c core { g with state := .starting }.pinned s
    | _, _ => none

/-- Places a saved group by the distributor's rules (R99, R117): on the fitting core of fewest occupied granules among those that
its launch names, else among all of the partition. -/
def State.replaceGroup (s : State) (c : Ctx) (g : Group) : Option State :=
  let ok := fun k => (s.replaceOn c g k).isSome
  let named := ((s.launch? g.lid).map s.namedCores).getD []
  (match s.leastCore ok named with
    | some k => some k
    | none => s.leastCore ok (s.coresOf c.part)).bind (s.replaceOn c g)

/-- Places every saved group of a context. -/
def State.replaceAll (c : Ctx) : List Group → State → Option State
  | [], s => some s
  | g :: r, s => (s.replaceGroup c g).bind (State.replaceAll c r)

/-- Resumes a SAVED context where all its groups fit (R93, R99): its copies are queued again, its timers go on, and answers
kept for it are acted on as its groups start. -/
def State.resumed (s : State) (c : Ctx) : Option State :=
  let gs := s.groupsOf c.part c.ctxid
  match State.replaceAll c gs s with
  | none => none
  | some s =>
    let s := s.reissueCopies (gs.map (·.uid))
    let s := s.modCtx c.part c.ctxid fun c => { c with state := .running, graph := c.graph.map fun g => g.startTimers s.clk }
    some ((s.actKept c.part).advance (c.part, c.ctxid)).moved

/-- The SAVED context of a partition that comes first: highest priority, oldest save on a tie (R95). -/
def State.firstSaved (s : State) (part : Nat) : Option Ctx :=
  match s.ctxs.filter fun c => c.part == part && c.state == .saved with
  | [] => none
  | c :: r => some (r.foldl (fun a b => if a.prio < b.prio ∨ (a.prio = b.prio ∧ b.saveSeq < a.saveSeq) then b else a) c)

/-- A launch that has groups to place now: its context runs and nothing earlier of it is still to be placed. -/
def State.placeable (s : State) (l : Launch) : Bool :=
  l.state == .placing && !s.placeBlocked l && (s.ctx? l.part l.ctxid).any fun c => c.state == .running

/-- A launch of higher priority than a context can place a group: it comes first (R95). -/
def State.outranked (s : State) (c : Ctx) : Bool :=
  s.launches.any fun l =>
    l.part == c.part && s.placeable l && ((s.ctx? l.part l.ctxid).any fun x => decide (c.prio < x.prio)) && (s.placeFor l).isSome

/-- The resumption of a context, if it is the distributor's next. -/
def State.resumption (s : State) (part ctxid : Nat) : Option State :=
  match s.firstSaved part with
  | some c => if c.ctxid = ctxid ∧ s.outranked c = false then s.resumed c else none
  | none => none

/-- RESUME (R99). -/
def execResume (part ctxid : Nat) (s : State) : Host.Outcome State Fault Refusal :=
  match s.resumption part ctxid with
  | some s => .next s
  | none => .next s

/-! ### The watchdog and queue deadlock (R104, R246) -/

/-- A launch has run for WDOG milliseconds of 700,000 a-clk (R7, R104). -/
def State.overtime (s : State) (l : Launch) : Bool :=
  (l.state == .placing || l.state == .running) &&
    (s.ctx? l.part l.ctxid).any fun c =>
      (c.state == .running || c.state == .preempting) && c.wdog != 0 && decide (l.startClk + c.wdog * 700000 ≤ s.clk)

/-- WATCHDOG (R104). -/
def execWatchdog (lid : Nat) (s : State) : Host.Outcome State Fault Refusal :=
  match s.launch? lid with
  | some l => if s.overtime l then .next (s.ctxError l.part l.ctxid trapWatchdog noCore 0 0).moved else .next s
  | none => .next s

/-- The group's progress count has reached 2^20 (R246). -/
def State.deadlocked (s : State) (g : Group) : Bool :=
  (g.state == .running || g.state == .draining) && ((s.ctxOf g).any fun c => c.state == .running) &&
    (g.teams.any fun t => !t.finished) && (g.teams.all fun t => t.finished || (t.queueHeld && !t.parked)) &&
    decide (g.qMark + 2 ^ 20 ≤ s.clk)

/-- The team of a group that faults first: the lowest unfinished one. -/
def Group.firstStuck (g : Group) : Option Team := g.teams.find? fun t => !t.finished

/-- QDEADLOCK (R246): never delivered to a handler (R102). -/
def execQdeadlock (uid : Nat) (s : State) : Host.Outcome State Fault Refusal :=
  match s.group? uid with
  | some g =>
    if s.deadlocked g then
      .next (s.ctxError g.part g.ctxid trapQdeadlock g.core ((g.firstStuck.map (·.prefixPc)).getD 0) 0).moved
    else .next s
  | none => .next s

end Sys2Proof.Machine
end

