-- ==== Sys2Proof/Machine/Ialu.lean ====
section
/-!
DEFINITION. The integer instructions of majors 0x04 to 0x07 (R193 to R198): 32 bits in every role (R189).
-/

namespace Sys2Proof.Machine

/-- IADD (R193, R194). -/
def execIadd (d a b : RegField) (s : State) : Host.Outcome State Fault Refusal :=
  issue (.iadd d a b) s fun x => x.lane32 d fun l => iaddLane (x.t.reg32 a l) (x.t.reg32 b l)

/-- ISUB (R193, R194). -/
def execIsub (d a b : RegField) (s : State) : Host.Outcome State Fault Refusal :=
  issue (.isub d a b) s fun x => x.lane32 d fun l => isubLane (x.t.reg32 a l) (x.t.reg32 b l)

/-- IMUL (R193, R194). -/
def execImul (d a b : RegField) (s : State) : Host.Outcome State Fault Refusal :=
  issue (.imul d a b) s fun x => x.lane32 d fun l => imulLane (x.t.reg32 a l) (x.t.reg32 b l)

/-- IMULH (R193, R194). -/
def execImulh (d a b : RegField) (s : State) : Host.Outcome State Fault Refusal :=
  issue (.imulh d a b) s fun x => x.lane d fun l => imulhLane (x.t.reg32 a l) (x.t.reg32 b l)

/-- IMULHN (R193, R194). -/
def execImulhn (d a b : RegField) (s : State) : Host.Outcome State Fault Refusal :=
  issue (.imulhn d a b) s fun x => x.lane d fun l => imulhnLane (x.t.reg32 a l) (x.t.reg32 b l)

/-- IMIN (R193, R194). -/
def execImin (d a b : RegField) (s : State) : Host.Outcome State Fault Refusal :=
  issue (.imin d a b) s fun x => x.lane d fun l => iminLane (x.t.reg32 a l) (x.t.reg32 b l)

/-- IMAX (R193, R194). -/
def execImax (d a b : RegField) (s : State) : Host.Outcome State Fault Refusal :=
  issue (.imax d a b) s fun x => x.lane d fun l => imaxLane (x.t.reg32 a l) (x.t.reg32 b l)

/-- NMIN (R193, R194). -/
def execNmin (d a b : RegField) (s : State) : Host.Outcome State Fault Refusal :=
  issue (.nmin d a b) s fun x => x.lane d fun l => nminLane (x.t.reg32 a l) (x.t.reg32 b l)

/-- NMAX (R193, R194). -/
def execNmax (d a b : RegField) (s : State) : Host.Outcome State Fault Refusal :=
  issue (.nmax d a b) s fun x => x.lane d fun l => nmaxLane (x.t.reg32 a l) (x.t.reg32 b l)

/-- AND (R193, R194). -/
def execIand (d a b : RegField) (s : State) : Host.Outcome State Fault Refusal :=
  issue (.iand d a b) s fun x => x.lane d fun l => x.t.reg32 a l &&& x.t.reg32 b l

/-- OR (R193, R194). -/
def execIor (d a b : RegField) (s : State) : Host.Outcome State Fault Refusal :=
  issue (.ior d a b) s fun x => x.lane d fun l => x.t.reg32 a l ||| x.t.reg32 b l

/-- XOR (R193, R194). -/
def execIxor (d a b : RegField) (s : State) : Host.Outcome State Fault Refusal :=
  issue (.ixor d a b) s fun x => x.lane d fun l => x.t.reg32 a l ^^^ x.t.reg32 b l

/-- ANDN (R193, R194). -/
def execAndn (d a b : RegField) (s : State) : Host.Outcome State Fault Refusal :=
  issue (.andn d a b) s fun x => x.lane d fun l => x.t.reg32 a l &&& ~~~(x.t.reg32 b l)

/-- SHL (R193, R194). -/
def execShl (d a b : RegField) (s : State) : Host.Outcome State Fault Refusal :=
  issue (.shl d a b) s fun x => x.lane d fun l => shlLane (x.t.reg32 a l) (shiftCount (x.t.reg32 b l))

/-- SHR (R193, R194). -/
def execShr (d a b : RegField) (s : State) : Host.Outcome State Fault Refusal :=
  issue (.shr d a b) s fun x => x.lane d fun l => shrLane (x.t.reg32 a l) (shiftCount (x.t.reg32 b l))

/-- SAR (R193, R194). -/
def execSar (d a b : RegField) (s : State) : Host.Outcome State Fault Refusal :=
  issue (.sar d a b) s fun x => x.lane d fun l => sarLane (x.t.reg32 a l) (shiftCount (x.t.reg32 b l))

/-- IABS (R195, R196). -/
def execIabs (d a : RegField) (s : State) : Host.Outcome State Fault Refusal :=
  issue (.iabs d a) s fun x => x.lane32 d fun l => iabsLane (x.t.reg32 a l)

/-- INEG (R195, R196). -/
def execIneg (d a : RegField) (s : State) : Host.Outcome State Fault Refusal :=
  issue (.ineg d a) s fun x => x.lane32 d fun l => inegLane (x.t.reg32 a l)

/-- NOT (R195, R196). -/
def execInot (d a : RegField) (s : State) : Host.Outcome State Fault Refusal :=
  issue (.inot d a) s fun x => x.lane d fun l => ~~~(x.t.reg32 a l)

/-- POPC (R195, R196). -/
def execPopc (d a : RegField) (s : State) : Host.Outcome State Fault Refusal :=
  issue (.popc d a) s fun x => x.lane d fun l => popcLane (x.t.reg32 a l)

/-- CLZ (R195, R196). -/
def execClz (d a : RegField) (s : State) : Host.Outcome State Fault Refusal :=
  issue (.clz d a) s fun x => x.lane d fun l => clzLane (x.t.reg32 a l)

/-- BREV (R195, R196). -/
def execBrev (d a : RegField) (s : State) : Host.Outcome State Fault Refusal :=
  issue (.brev d a) s fun x => x.lane d fun l => brevLane (x.t.reg32 a l)

/-- BFE (R196). -/
def execBfe (d a b : RegField) (s : State) : Host.Outcome State Fault Refusal :=
  issue (.bfe d a b) s fun x => x.lane d fun l => bfeLane (x.t.reg32 a l) (x.t.reg32 b l)

/-- BFI (R196). -/
def execBfi (d a b : RegField) (s : State) : Host.Outcome State Fault Refusal :=
  issue (.bfi d a b) s fun x => x.lane d fun l => bfiLane (x.t.reg32 a l) (x.t.reg32 b l) (x.t.reg32 d l)

/-- ISEL (R196). -/
def execIsel (d a p : RegField) (s : State) : Host.Outcome State Fault Refusal :=
  issue (.isel d a p) s fun x => x.lane d fun l => if x.t.pred p.toNat l then x.t.reg32 a l else x.t.reg32 d l

/-- ICMP (R192, R196). -/
def execIcmp (c : BitVec 4) (p : BitVec 3) (a b : RegField) (s : State) : Host.Outcome State Fault Refusal :=
  issue (.icmp c p a b) s fun x => x.lanePred p fun l => condHolds c (x.t.reg32 a l) (x.t.reg32 b l)

/-- MOV (R189, R196): all 64 bits in the ACCESS role. -/
def execMovc (d a : RegField) (s : State) : Host.Outcome State Fault Refusal :=
  issue (.movc d a) s fun x => x.lane64 d fun l => x.t.reg a l

/-- IMAD (R196). -/
def execImad (d a b : RegField) (s : State) : Host.Outcome State Fault Refusal :=
  issue (.imad d a b) s fun x => x.lane32 d fun l => imadLane (x.t.reg32 a l) (x.t.reg32 b l) (x.t.reg32 d l)

/-- IADDI (R197). -/
def execIaddi (d a : RegField) (i : BitVec 8) (s : State) : Host.Outcome State Fault Refusal :=
  issue (.iaddi d a i) s fun x => x.lane32 d fun l => iaddLane (x.t.reg32 a l) (x.t.imm32 8 i.toNat)

/-- ANDI (R197). -/
def execAndi (d a : RegField) (i : BitVec 8) (s : State) : Host.Outcome State Fault Refusal :=
  issue (.andi d a i) s fun x => x.lane d fun l => x.t.reg32 a l &&& x.t.imm32 8 i.toNat

/-- ORI (R197). -/
def execOri (d a : RegField) (i : BitVec 8) (s : State) : Host.Outcome State Fault Refusal :=
  issue (.ori d a i) s fun x => x.lane d fun l => x.t.reg32 a l ||| x.t.imm32 8 i.toNat

/-- XORI (R197). -/
def execXori (d a : RegField) (i : BitVec 8) (s : State) : Host.Outcome State Fault Refusal :=
  issue (.xori d a i) s fun x => x.lane d fun l => x.t.reg32 a l ^^^ x.t.imm32 8 i.toNat

/-- SHLI (R197). -/
def execShli (d a : RegField) (i : BitVec 8) (s : State) : Host.Outcome State Fault Refusal :=
  issue (.shli d a i) s fun x => x.lane d fun l => shlLane (x.t.reg32 a l) (x.t.immU 8 i.toNat)

/-- SHRI (R197). -/
def execShri (d a : RegField) (i : BitVec 8) (s : State) : Host.Outcome State Fault Refusal :=
  issue (.shri d a i) s fun x => x.lane d fun l => shrLane (x.t.reg32 a l) (x.t.immU 8 i.toNat)

/-- SARI (R197). -/
def execSari (d a : RegField) (i : BitVec 8) (s : State) : Host.Outcome State Fault Refusal :=
  issue (.sari d a i) s fun x => x.lane d fun l => sarLane (x.t.reg32 a l) (x.t.immU 8 i.toNat)

/-- ICMPI (R197): the unsigned conditions read the sign-extended immediate as unsigned. -/
def execIcmpi (c : BitVec 4) (p : BitVec 3) (a : RegField) (i : BitVec 8) (s : State) : Host.Outcome State Fault Refusal :=
  issue (.icmpi c p a i) s fun x => x.lanePred p fun l => condHolds c (x.t.reg32 a l) (x.t.imm32 8 i.toNat)

/-- MOVI (R198): sign-extended to 64 bits in the ACCESS role. -/
def execMovi (d : RegField) (i : BitVec 18) (s : State) : Host.Outcome State Fault Refusal :=
  issue (.movi d i) s fun x => x.lane64 d fun _ => BitVec.ofInt 64 (x.t.immS 18 i.toNat)

end Sys2Proof.Machine
end

