-- ==== Sys2Proof/Machine/Life.lean ====
section
/-!
DEFINITION. Start, service life and faults (R421 to R433, R105, R410): the start sequence, resets, modes, the Hairspring monitor,
errors, power and temperature, and the driver's register writes (R8).
-/

namespace Sys2Proof.Machine

/-! ### Resets (R421, R424, R432) -/

/-- The part at the release of reset: what fuses, flash, the powered counter, the recorded reason and the maps for the next
bring-up hold is kept; HBM and everything else is lost. Host memory is the host's. -/
def State.afterReset (s : State) : State :=
  let d := s.dev
  { State.reset with
    steps := s.steps, free := s.free, progress := s.progress, agenda := s.agenda, hostMem := s.hostMem, events := s.events
    dev := { deviceReset with
      boot := { step := 0, mode := 0, fails := d.boot.fails, reason := d.boot.reason, stack := 0, strip := 0 }
      modeNext := d.modeNext, flash := d.flash, fuseKey := d.fuseKey, rollback := d.rollback, repair := d.repair
      repairNext := d.repairNext, spareUsed := d.spareUsed, exhausted := d.exhausted, margins := d.margins, replans := d.replans } }

/-- FULL_DEVICE_RESET (R421): the PF alone gives it. A part that is READY takes it, and one that is held in reset or has lost its
host link takes nothing else (R410, R433); before READY it is refused like any command. -/
def execFullDeviceReset (fn : Nat) (s : State) : Host.Outcome State Fault Refusal :=
  if s.dev.boot.step ≠ 6 ∧ s.dev.heldInReset = false ∧ s.dev.hostLink = true then .next (s.setStatus fn .notReady)
  else if fn = 0 then .next s.afterReset.moved
  else .next (s.setStatus fn (if s.commandable then .access else .notReady))

/-- The failed-start counter after step 1 of a start (R424). -/
def countStart (fails : Nat) : Nat := min 3 (fails + 1)

/-- POWER_LOSS (R424): a start that has been released and has not ended counts as failed, one that follows a loss of power too. -/
def execPowerLoss (s : State) : Host.Outcome State Fault Refusal :=
  let fails := if s.dev.boot.step = 0 then countStart s.dev.boot.fails else s.dev.boot.fails
  let s := s.afterReset
  .next { s with dev := { s.dev with powered := false, boot := { s.dev.boot with fails := fails } } }.moved

/-! ### The start (R421 to R425, R429) -/

/-- A start that fails: the step it reached, or RECOVERY in Hamada mode (R426), and its reason. -/
def State.startFails (s : State) (hamada : Bool) (step reason : Nat) : State :=
  { s with dev := { s.dev with boot := { s.dev.boot with step := if hamada then 7 else step, reason := reason } } }

/-- The physical clusters of a strip: nine of the 72 numbers 0 to 71 (R15, R428). Which numbers belong to which strip is not given:
the model takes 9s to 9s + 8 (DESIGN CHOICE, log entry 53). -/
def stripClusters (strip : Nat) : List Nat := (List.range 9).map (9 * strip + ·)

/-- A strip at bring-up: its logical clusters' physical ones, whether its spare is used, and logical clusters without a
working physical one. -/
structure StripMap where
  map    : List Nat
  used   : Bool
  absent : List Nat
  deriving DecidableEq, Repr

/-- The strip's spare, if it has one that is unused and passes self-test. -/
def StripMap.spare (m : StripMap) (strip : Nat) (bad : List Nat) : Option Nat :=
  if m.used then none else (stripClusters strip).find? fun c => !m.map.contains c && !bad.contains c

/-- Puts the spare in the place of a cluster. -/
def StripMap.swap (m : StripMap) (old new : Nat) : StripMap :=
  { m with map := m.map.map (fun c => if c == old then new else c), used := true }

/-- Repairs a strip after self-test; none where more clusters fail than there are spares (R423). -/
def StripMap.repair (m : StripMap) (strip : Nat) (bad : List Nat) : Option StripMap :=
  match m.map.filter bad.contains with
  | [] => some m
  | [c] => (m.spare strip bad).map (m.swap c)
  | _ => none

/-- Replaces a strip's EXHAUSTED clusters, or marks their logical clusters absent where the spare is in use (R429). -/
def StripMap.retire (m : StripMap) (strip : Nat) (bad : List Nat) : List Nat → StripMap
  | [] => m
  | c :: r =>
    if !m.map.contains c then m.retire strip bad r
    else
      match m.spare strip (bad ++ [c]) with
      | some n => (m.swap c n).retire strip bad r
      | none => { m with absent := m.absent ++ (m.map.findIdx? fun x => x == c).toList }.retire strip bad r

/-- A strip at bring-up (R17, R423, R429). -/
def bringUp (d : Device) (bad : List Nat) (strip : Nat) : Option StripMap :=
  let m : StripMap := { map := (d.repairNext.drop (8 * strip)).take 8, used := d.spareUsed.getD strip false, absent := [] }
  (m.repair strip bad).map fun m => m.retire strip bad d.exhausted

/-- The group table of a partition at bring-up (R312). -/
def groupTableOf (mode : PartMode) (part stack : Nat) : List Nat :=
  (List.range 64).map fun i =>
    match mode with
    | .eight => 3 * part + i % 3
    | .one => i % 24
    | .hamada => stack

/-- The stacks of a partition in a mode (R15, R16, R425). -/
def stacksOf (mode : PartMode) (part stack : Nat) : List Nat :=
  match mode with
  | .eight => (List.range 3).map (3 * part + ·)
  | .one => if part = 0 then List.range 24 else []
  | .hamada => if part = 0 then [stack] else []

/-- GiB of a stack's zone: at most a quarter of 96 GB (R304). -/
def zoneSize : Nat := Config.zoneGiB % 23

/-- The compressed zone of a stack (R304). -/
def zoneOf (stack : Nat) : Nat × Nat :=
  let base := stack * 2 ^ 37 + Config.zoneStart stack % (90 - zoneSize) * 2 ^ 30
  (base, base + zoneSize * 2 ^ 30)

/-- A partition at bring-up. -/
def partitionUp (mode : PartMode) (part stack : Nat) : Partition :=
  { partitionReset part with groupTable := groupTableOf mode part stack, zones := (stacksOf mode part stack).map zoneOf }

/-- The cores that bring-up leaves out of service. -/
def coresUp (absent : List (Nat × Nat)) : List Core :=
  (List.range 256).map fun i => { coreReset with avail := !absent.any fun a => 8 * a.1 + a.2 == i / 4 }

/-- READY in normal mode (R16, R424, R429): the counter is 0 and the clock starts (R109). -/
def State.readyNormal (s : State) (ms : List StripMap) : State :=
  let d := s.dev
  let absent := (ms.mapIdx fun i m => m.absent.map fun j => (i, j)).flatMap id
  let d := { d with
    mode := d.modeNext, repair := ms.flatMap (·.map), repairNext := ms.flatMap (·.map), spareUsed := ms.map (·.used)
    zoneGiB := zoneSize, boot := { d.boot with step := 6, mode := 0, fails := 0 } }
  { s with clk := 0, dev := d, parts := (List.range 8).map fun p => partitionUp d.mode p 0, cores := coresUp absent }

/-- The maps of the strips after a Hamada start: one that self-test cannot repair keeps the map it had. -/
def mapsUp (d : Device) (ms : List (Option StripMap)) : List StripMap :=
  ms.mapIdx fun i m => m.getD { map := (d.repairNext.drop (8 * i)).take 8, used := d.spareUsed.getD i false, absent := [] }

/-- READY in Hamada mode (R425): the counter stays at 3. The swaps of R17 and R429 hold in this start too; the part has logical
clusters 0 and 1 alone, which are the first two of the chosen strip. -/
def State.readyHamada (s : State) (ms : List (Option StripMap)) (strip stack : Nat) : State :=
  let maps := mapsUp s.dev ms
  let absent := ((ms.getD strip none).map fun m => m.absent.map fun j => (0, j)).getD []
  let d := { s.dev with
    mode := .hamada, repair := ((maps[strip]?).map fun m => m.map.take 2).getD [], repairNext := maps.flatMap (·.map), spareUsed := maps.map (·.used)
    zoneGiB := zoneSize, boot := { s.dev.boot with step := 6, mode := 1, stack := stack, strip := strip } }
  { s with clk := 0, dev := d, parts := (List.range 8).map fun p => partitionUp .hamada p stack, cores := coresUp absent }

/-- Steps 4 and 5 of a normal start. -/
def State.startNormal (s : State) (badStacks badClusters : List Nat) : State :=
  if (List.range 24).any badStacks.contains then s.startFails false 4 0x04
  else
    let ms := (List.range 8).map (bringUp s.dev badClusters)
    if ms.all Option.isSome then s.readyNormal (ms.filterMap id) else s.startFails false 5 0x05

/-- Steps 4 and 5 of a Hamada start: the lowest strip whose clusters pass, a failed one replaced by its spare (R423), and the
first stack of that strip that trains (R425). -/
def State.startHamada (s : State) (badStacks badClusters : List Nat) : State :=
  let ms := (List.range 8).map (bringUp s.dev badClusters)
  match ms.findIdx? Option.isSome with
  | none => s.startFails true 5 0x05
  | some strip =>
    match ((List.range 3).map (3 * strip + ·)).find? fun c => !badStacks.contains c with
    | none => s.startFails true 4 0x04
    | some stack => s.readyHamada ms strip stack

/-- A firmware image or a command is signed by the key whose hash is fused: HSS with SHA-256, by the parameters of R76 (R421,
R422). -/
def signedBy (fuseKey image : List Byte) : Bool :=
  let p := Config.signedParts image
  sha256 p.1 == fuseKey && hssVerify p.1 p.2.1 p.2.2

/-- The checks of step 2 on a first-stage image: 0x01, 0x02, or 0 for none (R421). -/
def firmwareStatus (d : Device) (image : List Byte) : Nat :=
  if !signedBy d.fuseKey image then 0x01
  else if Config.firmwareVersion image < d.rollback then 0x02
  else 0

/-- The start from step 1 on, with the first-stage image that the flash holds. -/
def State.start (s : State) (image mgmt : List Byte) (badStacks badClusters : List Nat) : State :=
  let hamada := s.dev.boot.fails == 3
  let s := { s with dev := { s.dev with
    powered := true, flash := image, mgmt := mgmt, boot := { s.dev.boot with fails := countStart s.dev.boot.fails } } }
  let st := firmwareStatus s.dev image
  if st ≠ 0 then s.startFails hamada 2 st
  else if !signedBy s.dev.fuseKey mgmt then s.startFails hamada 3 0x03
  else if hamada then s.startHamada badStacks badClusters
  else s.startNormal badStacks badClusters

/-- RESET_RELEASE (R421): the whole start, from a part in reset. The flash holds `firmware` until an upload replaces it
(R426). -/
def execResetRelease (firmware mgmt : List Byte) (badStacks badClusters : List Nat) (s : State) : Host.Outcome State Fault Refusal :=
  if s.dev.boot.step = 0 ∧ s.dev.heldInReset = false then
    .next (s.start (if s.dev.flash.isEmpty then firmware else s.dev.flash) mgmt badStacks badClusters).moved
  else .next s

/-- START_TIMEOUT (R421): the start that is under way, after a loss of power too, fails with 0x06 at a step that is not given. -/
def execStartTimeout (s : State) : Host.Outcome State Fault Refusal :=
  if s.dev.boot.step = 0 ∧ s.dev.heldInReset = false then
    let hamada := s.dev.boot.fails == 3
    let v := s.freeVal
    let s := v.2
    let s := { s with dev := { s.dev with powered := true, boot := { s.dev.boot with fails := countStart s.dev.boot.fails } } }
    .next (s.startFails hamada (v.1.toNat % 5 + 1) 0x06).moved
  else .next s

/-- FIRMWARE_UPLOAD (R426): only in RECOVERY, with the host link up and the part not held in reset (R410, R433). -/
def execFirmwareUpload (firmware : List Byte) (s : State) : Host.Outcome State Fault Refusal :=
  if s.dev.boot.step = 7 ∧ s.dev.hostLink = true ∧ s.dev.heldInReset = false ∧ firmwareStatus s.dev firmware = 0 then
    .next { s with dev := { s.dev with flash := firmware } }.afterReset.moved
  else .next s

/-- CLEARFAIL (R425). -/
def execClearfail (fn : Nat) (s : State) : Host.Outcome State Fault Refusal :=
  .next (s.pfCommand fn fun s =>
    s.okIf fn true fun s => { s with dev := { s.dev with boot := { s.dev.boot with fails := 0 } } })

/-- ANTI_ROLLBACK_BLOW (R422): one more bit, of 64. -/
def execAntiRollbackBlow (fn : Nat) (command : List Byte) (s : State) : Host.Outcome State Fault Refusal :=
  .next (s.pfCommand fn fun s =>
    s.okIf fn (signedBy s.dev.fuseKey command && decide (s.dev.rollback < Config.firmwareVersion command ∧ s.dev.rollback < 64))
      fun s => { s with dev := { s.dev with rollback := s.dev.rollback + 1 } })

/-- BOOTSTAT as the PF reads it (R426, R427). -/
def State.bootstat (s : State) : Word :=
  let b := s.dev.boot
  let mode := if s.parts.any fun p => p.testMode then 2 else b.mode
  BitVec.ofNat 32 (b.step * 2 ^ 28 + mode * 2 ^ 26 + b.fails * 2 ^ 24 + b.reason * 2 ^ 16 + b.stack * 2 ^ 8 + b.strip)

/-! ### Partitions: reset, test mode, modes and maps (R409, R427, R432) -/

/-- The contexts of a partition that are not KILLED. -/
def State.liveCtxs (s : State) (part : Nat) : List Ctx := s.ctxs.filter fun c => c.part == part && c.state != .killed

/-- PARTITION_RESET (R432): memory, the repair map, the group table, keys and the page engine's pool stay. -/
def execPartitionReset (fn part : Nat) (s : State) : Host.Outcome State Fault Refusal :=
  .next (s.command fn part fun s =>
    s.okIf fn true fun s =>
      let s := (s.liveCtxs part).foldl (fun s c => (s.kill c).postEvent c 3 0 noCore 0 0) s
      let s := s.modCores (s.coresOf part) fun k => { coreReset with avail := k.avail }
      s.modPart part fun pt => { pt with
        sharedRoot := none, testMode := false, drowsyOff := false, aged := [], coldTimes := [], jobs := [], requests := [], tlb := []
        shots := [{ ver := s.vers }] })

/-- TEST_MODE (R427): a partition that holds no context. -/
def execTestMode (fn part : Nat) (s : State) : Host.Outcome State Fault Refusal :=
  .next (s.pfCommand fn fun s =>
    s.okIf fn (decide (part < s.partCount) && (s.liveCtxs part).isEmpty) fun s =>
      s.modPart part fun pt => { pt with testMode := true })

/-- PARTITION_MODE_WRITE (R409, R16): 0 eight partitions, 1 one partition, from the next bring-up on. -/
def execPartitionModeWrite (fn mode : Nat) (s : State) : Host.Outcome State Fault Refusal :=
  .next (s.pfCommand fn fun s =>
    s.okIf fn (decide (mode < 2)) fun s => { s with dev := { s.dev with modeNext := if mode = 0 then .eight else .one } })

/-- A strip's map names eight different clusters of the strip. -/
def stripMapOk (strip : Nat) (map : List Nat) : Bool :=
  map.length == 8 && map.all (stripClusters strip).contains && map.eraseDups.length == 8

/-- REPAIR_MAP_WRITE (R409, R17): from the next bring-up on. -/
def execRepairMapWrite (fn strip : Nat) (map : List Nat) (s : State) : Host.Outcome State Fault Refusal :=
  .next (s.pfCommand fn fun s =>
    s.okIf fn (decide (strip < 8) && stripMapOk strip map) fun s =>
      { s with dev := { s.dev with
        repairNext := s.dev.repairNext.take (8 * strip) ++ map ++ s.dev.repairNext.drop (8 * strip + 8) } })

/-! ### Power, ageing (R428, R429, R433) -/

/-- POWER_CAP (R433). -/
def execPowerCap (fn watts : Nat) (s : State) : Host.Outcome State Fault Refusal :=
  .next (s.pfCommand fn fun s =>
    s.okIf fn (decide (1000 ≤ watts ∧ watts ≤ 7500) && watts % 50 == 0) fun s =>
      { s with dev := { s.dev with powerCap := watts } })

/-- A-clk of 24 hours, at 700 MHz (R7). -/
def dayClk : Nat := 24 * 3600 * 700000000

/-- The lowest voltage of a domain, in mV, and the 5 mV steps of its range (R428), as the record's field can hold them. -/
def voltLow (i : Nat) : Nat := (Config.voltRange i).1 % 32768
def voltSteps (i : Nat) : Nat := (Config.voltRange i).2 % 6000 + 1

/-- One domain's record at a re-plan (R428): 0 to 71 clusters, 72 to 95 HBM PHYs. The voltage stands at the top of its range just
where the record says so, and stays there for a cluster that is EXHAUSTED (R429). -/
def marginRec (d : Device) (clk i : Nat) : MarginRec :=
  let r := Config.marginReading d.replans i
  let status := (r.extractLsb' 0 8).toNat % 3
  let status := if status = 0 ∧ i < 72 ∧ d.exhausted.contains i = true then 1 else status
  let pos := if status = 0 then (r.extractLsb' 8 16).toNat % voltSteps i else voltSteps i
  { domain := if i < 72 then i else i - 72, kind := if i < 72 then 0 else 1, status := status, volt := voltLow i + 5 * pos,
    margin := r.extractLsb' 24 16, clk := clk }

/-- A re-plan as it ends: one record for each domain, of which the latest 4,096 stay, and the service vector for an EXHAUSTED
one (R428, R429). -/
def State.replan (s : State) : State :=
  let d := s.dev
  let rs := (List.range 96).map (marginRec d s.clk)
  let all := d.margins ++ rs
  let worn := (rs.filter fun r => r.kind == 0 && r.status == 2).map (·.domain)
  let d := { d with
    margins := all.drop (all.length - 4096), replans := d.replans + 1, replanning := false
    replanAt := if d.replanAt + dayClk ≤ s.clk then s.clk else d.replanAt
    exhausted := d.exhausted ++ worn.filter fun c => !d.exhausted.contains c }
  let s := { s with dev := d }
  if rs.any fun r => r.status == 2 then s.raiseMsix 0 2 else s

/-- A re-plan is to end: one was commanded, or 24 hours have passed. -/
def State.replanDue (s : State) : Bool :=
  s.dev.boot.step == 6 && !s.dev.heldInReset && (s.dev.replanning || decide (s.dev.replanAt + dayClk ≤ s.clk))

/-- REPLAN_COMMAND (R428): a re-plan begins, or the command is merged into the one under way. -/
def execReplanCommand (fn : Nat) (s : State) : Host.Outcome State Fault Refusal :=
  .next (s.pfCommand fn fun s => s.okIf fn true fun s => { s with dev := { s.dev with replanning := true } })

/-- REPLAN_PERIOD (R428). -/
def execReplanPeriod (s : State) : Host.Outcome State Fault Refusal := if s.replanDue then .next s.replan.moved else .next s

/-! ### Device faults and errors (R105, R410, R430, R431) -/

/-- CAUSE of a device fault (R104). -/
def causeDevice : Nat := 0x21

/-- The contexts that a test names go to ERROR by a device fault. -/
def State.deviceFault (s : State) (p : Ctx → Bool) : State :=
  ((s.ctxs.filter p).foldl (fun s c => s.ctxError c.part c.ctxid causeDevice noCore 0 0) s).moved

/-- HOST_LINK_DOWN (R410): no record can be posted from here on, to the event queue or to a page request ring. -/
def execHostLinkDown (s : State) : Host.Outcome State Fault Refusal :=
  let full := fun (f : Function) => { f with ringRoom := 0 }
  .next ({ s with dev := { s.dev with hostLink := false }, funcs := s.funcs.map full }.deviceFault fun _ => true)

/-- THERMAL_TRIP (R433). -/
def execThermalTrip (s : State) : Host.Outcome State Fault Refusal :=
  let s := s.deviceFault fun _ => true
  .next { s with dev := { s.dev with heldInReset := true } }

/-- THERMAL_THROTTLE (R433): time only. -/
def execThermalThrottle (on : Bool) (s : State) : Host.Outcome State Fault Refusal :=
  .next { s with dev := { s.dev with throttle := on } }

/-- A block's number in a list of pairs, 0 where it stands in none. -/
def blockWord (l : List (Nat × Word)) (b : Nat) : Option Word := (l.find? fun p => p.1 == b).map (·.2)

/-- Sets a block's word. -/
def setBlock (l : List (Nat × Word)) (b : Nat) (w : Word) : List (Nat × Word) := (b, w) :: l.filter fun p => p.1 != b

/-- A block's error threshold: all ones, which no counter passes, until the driver sets one (DESIGN CHOICE, log entry 12). -/
def Device.errLimit (d : Device) (block : Nat) : Word := (blockWord d.errLimits block).getD (BitVec.allOnes 32)

/-- CORRECTABLE_ERROR (R430): the counter wraps, and passing the driver's threshold raises the service vector. -/
def execCorrectableError (block : Nat) (s : State) : Host.Outcome State Fault Refusal :=
  if s.dev.heldInReset then .next s else
  let old := (blockWord s.dev.errCounts block).getD 0
  let new := old + 1
  let t := { s with dev := { s.dev with errCounts := setBlock s.dev.errCounts block new } }
  if old ≤ s.dev.errLimit block ∧ s.dev.errLimit block < new then .next (t.raiseMsix 0 2) else .next t

/-- A context has work on a core. -/
def State.worksOn (s : State) (core : Nat) (c : Ctx) : Bool :=
  s.groups.any fun g => g.core == core && g.resident && g.part == c.part && g.ctxid == c.ctxid

/-- The contexts that an uncorrectable error affects (R105): site 0 a core, 1 a column's slices, controller or stack, 2 the
fabric or census network of a partition, or of all from 8 on. -/
def State.affected (s : State) (site index : Nat) (c : Ctx) : Bool :=
  match site with
  | 0 => s.worksOn index c
  | 1 => c.part == s.partOfCol index
  | _ => c.part == index || decide (8 ≤ index)

/-- The partition in which the error lies. -/
def State.sitePart (s : State) (site index : Nat) : Nat :=
  match site with
  | 0 => if s.dev.mode == .eight then index / 32 else 0
  | 1 => s.partOfCol index
  | 3 => s.partOfCol (stackOf index)
  | _ => index

/-- A frame that the scrub found bad, in no context's page: counted under its stack, and retired (R431). -/
def State.retireFrame (s : State) (frame : Nat) : State :=
  let b := stackOf frame
  let d := s.dev
  let counts := setBlock d.errCounts b ((blockWord d.errCounts b).getD 0 + 1)
  let d := { d with errCounts := counts, retiredFrames := d.retiredFrames ++ [frame] }
  let parts := s.parts.map fun pt => { pt with freeFrames := pt.freeFrames.filter fun f => f != frame }
  ({ s with dev := d, parts := parts }.raiseMsix 0 2).moved

/-- UNCORRECTABLE_ERROR (R431): site 3 is the scrub, in a page that no context maps. An error found while a context is being
saved puts that context into ERROR too. -/
def execUncorrectableError (site index : Nat) (saving : Bool) (s : State) : Host.Outcome State Fault Refusal :=
  let caught := fun (c : Ctx) => saving && c.state == .preempting && c.part == s.sitePart site index
  if site = 3 then .next ((s.deviceFault caught).retireFrame (index / 65536 * 65536))
  else .next (s.deviceFault fun c => s.affected site index c || caught c)

/-- SCRUB (R430): corrects what can be corrected; counted here. -/
def execScrub (s : State) : Host.Outcome State Fault Refusal :=
  if (s.dev.scrubs + 1) * dayClk ≤ s.clk ∧ s.dev.heldInReset = false then .next { s with dev := { s.dev with scrubs := s.dev.scrubs + 1 } } else .next s

/-! ### Register writes (R8, R411, R416, R430) -/

/-- REGISTER_WRITE (R8): 0 MSEL, 1 RTO of a port, 2 a block's error threshold. A value that the RTO field may not hold is
refused. -/
def execRegisterWrite (fn reg idx value : Nat) (s : State) : Host.Outcome State Fault Refusal :=
  match reg with
  | 0 => .next (s.pfCommand fn fun s =>
      s.okIf fn true fun s => { s with dev := { s.dev with msel := BitVec.ofNat 3 value } })
  | 1 =>
    let rto := value / 16 % 4096
    .next (s.portCommand fn idx (decide (1 ≤ rto ∧ rto ≤ 4000)) fun s => s.modPort idx fun p => { p with rto := rto })
  | 2 => .next (s.pfCommand fn fun s =>
      s.okIf fn true fun s =>
        { s with dev := { s.dev with errLimits := setBlock s.dev.errLimits idx (BitVec.ofNat 32 value) } })
  | _ => .next (s.pfCommand fn fun s => s.setStatus fn .invalid)

end Sys2Proof.Machine
end

