-- ==== Sys2Proof/Machine/Route.lean ====
section
/-!
DEFINITION. Expert slots and replica tables: the ROUTE instructions (R397 to R407).
-/

namespace Sys2Proof.Machine

/-! ### The slot table (R397, R398) -/

/-- A slot entry as a word (R397). -/
def Slot.word (x : Slot) : Word :=
  BitVec.ofNat 32 (x.expert.toNat * 65536 + (if x.valid then 32768 else 0) + (if x.loading then 16384 else 0) +
    (if x.use then 8192 else 0) + x.ref.toNat)

/-- A slot with every field 0. -/
def slotEmpty : Slot := { expert := 0, valid := false, loading := false, use := false, ref := 0 }

/-- A slot of a context. -/
def Ctx.slot (c : Ctx) (i : Nat) : Slot := c.slots.getD i slotEmpty

/-- The slot that holds an expert. -/
def Ctx.slotOf? (c : Ctx) (e : BitVec 16) : Option Nat := c.slots.findIdx? fun x => x.valid && x.expert == e

/-- A SLOTGET result word (R398). -/
def slotResult (res : Nat) (loading : Bool) (old slot : Nat) : Word :=
  BitVec.ofNat 32 (res * 2 ^ 30 + (if loading then 2 ^ 29 else 0) + old * 256 + slot)

/-- The sweep of the hand, at most `n` more slots (R398): the context, and the expert evicted with its slot. -/
def sweepSlots (e : BitVec 16) : Nat → Ctx → Ctx × Option (Nat × Nat)
  | 0, c => (c, none)
  | n + 1, c =>
    let i := c.hand
    let x := c.slot i
    let c := { c with hand := (i + 1) % 256 }
    if x.ref = 0 ∧ x.use = false ∧ x.loading = false then
      ({ c with slots := setAt c.slots i { expert := e, valid := true, loading := true, use := true, ref := 1 } },
        some (if x.valid then x.expert.toNat else 0xFFFF, i))
    else sweepSlots e n { c with slots := setAt c.slots i { x with use := false } }

/-- SLOTGET's effect on a context, and its result (R398). -/
def Ctx.slotGet (c : Ctx) (e : BitVec 16) : Ctx × Word :=
  if e = 0xFFFF#16 then (c, slotResult 2 false 0 0)
  else
    match c.slotOf? e with
    | some i =>
      let x := c.slot i
      if x.ref.toNat = 8191 then (c, slotResult 2 false 0 0)
      else ({ c with slots := setAt c.slots i { x with ref := x.ref + 1, use := true } }, slotResult 0 x.loading 0 i)
    | none =>
      match sweepSlots e 512 c with
      | (c, some (old, i)) => (c, slotResult 1 false old i)
      | (c, none) => (c, slotResult 2 false 0 0)

/-- SLOTREF's effect on a slot (R407). -/
def Slot.refOp (x : Slot) (k : Nat) : Slot :=
  match k with
  | 1 => if x.valid ∧ x.ref.toNat < 8191 then { x with ref := x.ref + 1, use := true } else x
  | 2 => if x.valid then { x with loading := false } else x
  | 3 => if x.valid ∧ x.ref = 0 ∧ x.loading = false then slotEmpty else x
  | _ => x

/-- SLOTREL's effect on a slot (R407). -/
def Slot.release (x : Slot) : Slot := if x.valid ∧ x.ref ≠ 0 then { x with ref := x.ref - 1 } else x

/-! ### The instructions (R406, R407) -/

/-- A ROUTE instruction: nothing with no running lane (R406). -/
def Iss.route (x : Iss) (k : Ctx → Act) : Act :=
  if x.t.idle then .ok x.s
  else
    match x.s.ctxOf x.g with
    | some c => k c
    | none => .done x.s

/-- The context changed and a result in an s register. -/
def Iss.routed (x : Iss) (c : Ctx) (d : RegField) (w : Word) : Act :=
  .ok ((x.s.modCtx c.part c.ctxid fun _ => c).modTeam x.r fun t => t.putS d w)

/-- A result that is an acquire (R399): it waits for the team's earlier loads, and later ones miss no write made so far
(R253, R255). -/
def Iss.acquiring (x : Iss) (acq : Bool) (k : Iss → Act) : Act :=
  if !acq then k x else if x.t.unread then .hold x.s else k { x with s := x.s.acquire x.r }

/-- SLOTGET (R398): a HIT on a slot that is ready is an acquire (R399). -/
def execSlotget (d a : RegField) (s : State) : Host.Outcome State Fault Refusal :=
  issue (.slotget d a) s fun x =>
    x.route fun c =>
      let r := c.slotGet ((x.t.sreg a).extractLsb' 0 16)
      x.acquiring (r.2.toNat / 2 ^ 29 == 0) fun x => x.routed r.1 d r.2

/-- SLOTREF (R407): k = 2 is a release, and a valid ready entry returned is an acquire (R399). -/
def execSlotref (d a k : RegField) (s : State) : Host.Outcome State Fault Refusal :=
  issue (.slotref d a k) s fun x =>
    let body := fun (x : Iss) => x.route fun c =>
      let i := ((x.t.sreg a).extractLsb' 0 8).toNat
      let e := (c.slot i).refOp k.toNat
      x.acquiring (e.valid && !e.loading) fun x => x.routed { c with slots := setAt c.slots i e } d e.word
    if k = 2 ∧ x.t.idle = false then x.release body else body x

/-- SLOTREL (R407). -/
def execSlotrel (d a : RegField) (s : State) : Host.Outcome State Fault Refusal :=
  issue (.slotrel d a) s fun x =>
    x.route fun c =>
      let i := ((x.t.sreg a).extractLsb' 0 8).toNat
      let e := (c.slot i).release
      x.routed { c with slots := setAt c.slots i e } d e.word

/-! ### Replica tables (R401 to R404) -/

/-- Entries of the table memory of a partition. -/
def tableEntries : Nat := 131072

/-- Entries that a context's tables take. -/
def Ctx.tableSize (c : Ctx) : Nat := ((c.active.map List.length).getD 0) + ((c.staged.map List.length).getD 0)

/-- Entries that the tables of a partition take. -/
def State.tablesOf (s : State) (part : Nat) : Nat := ((s.ctxs.filter fun c => c.part == part).map Ctx.tableSize).sum

/-- RTSTAGE (R403): with a count it does not take it reads nothing, so that no address is out of range. -/
def execRtstage (d a b : RegField) (s : State) : Host.Outcome State Fault Refusal :=
  issue (.rtstage d a b) s fun x =>
    x.route fun c =>
      let va := (x.t.reg a (x.t.low?.getD 0)).toNat
      let n := (x.t.sreg b).toNat
      let empty := decide (n = 0 ∨ 4096 < n)
      if va % 64 ≠ 0 ∧ (empty = true ∨ va < 2 ^ 52) then .trap trapAlign (BitVec.ofNat 64 va)
      else if empty then x.status x.s d 2
      else
          x.loadRun c x.s va (8 * n) fun s bs =>
            let used := s.tablesOf c.part - (c.staged.map List.length).getD 0
            if tableEntries < used + n then x.status s d 1
            else
              let table := (List.range n).map fun i => BitVec.ofNat 64 (fieldAt bs (8 * i) 8)
              x.status (s.modCtx c.part c.ctxid fun c => { c with staged := some table }) d 0

/-- Leading destinations of an entry that are in use (R401). -/
def leadDests (e : DWord) : Nat := (((List.range 4).map fun i => bitsOf e.toNat (16 * i) 16).takeWhile fun d => d != 0xFFFF).length

/-- The destination that RTLOOK finds (R404). -/
def Ctx.lookup (c : Ctx) (x y : Nat) : Nat :=
  match c.active with
  | none => 0xFFFF
  | some t =>
    match t[x]? with
    | none => 0xFFFF
    | some e => if leadDests e = 0 then 0xFFFF else bitsOf e.toNat (16 * (y % leadDests e)) 16

/-- RTLOOK (R404). -/
def execRtlook (d a b : RegField) (s : State) : Host.Outcome State Fault Refusal :=
  issue (.rtlook d a b) s fun x =>
    x.route fun c =>
      let v := c.lookup ((x.t.sreg a).extractLsb' 0 16).toNat (x.t.sreg b).toNat
      x.routed c d (BitVec.ofNat 32 (c.tabver.toNat * 65536 + v))

/-- The decision on a received record (R404): 0 PROCESS, 1 REROUTE, 2 EARLY. -/
def Ctx.admission (c : Ctx) (e v : BitVec 16) : Word :=
  let delta := (c.tabver - v).toNat
  let held := (c.slotOf? e).isSome
  if delta = 0 ∨ held = true then 0 else if delta ≤ 32767 then 1 else 2

/-- RTLOOK.ADM (R404). -/
def execRtlookAdm (d a : RegField) (s : State) : Host.Outcome State Fault Refusal :=
  issue (.rtlookAdm d a) s fun x =>
    x.route fun c => x.routed c d (c.admission ((x.t.sreg a).extractLsb' 0 16) ((x.t.sreg a).extractLsb' 16 16))

end Sys2Proof.Machine
end

