-- ==== Sys2Proof/Machine/Sys.lean ====
section
/-!
DEFINITION. The SYS instructions (R106 to R111): traps by program, return from a trap, and the state registers.
-/

namespace Sys2Proof.Machine

/-- The value of a state register for one lane (R108). -/
def stateReg (s : State) (g : Group) (t : Team) (lane n : Nat) : DWord :=
  match n with
  | 0x00 => BitVec.ofNat 64 lane
  | 0x01 => BitVec.ofNat 64 (lane / 4)
  | 0x02 => BitVec.ofNat 64 (lane / Config.spanW)
  | 0x03 => BitVec.ofNat 64 t.teamId
  | 0x04 => BitVec.ofNat 64 g.gid
  | 0x05 => BitVec.ofNat 64 Config.spanW
  | 0x06 => BitVec.ofNat 64 t.lanes.length
  | 0x07 => BitVec.ofNat 64 g.core
  | 0x08 => BitVec.ofNat 64 g.part
  | 0x09 => BitVec.ofNat 64 (s.clk % 2 ^ 32)
  | 0x0A => BitVec.ofNat 64 (s.clk / 2 ^ 32 % 2 ^ 32)
  | 0x0B => (t.lc.getD 0 0).zeroExtend 64
  | 0x0C => (t.lc.getD 1 0).zeroExtend 64
  | 0x0D => (t.lc.getD 2 0).zeroExtend 64
  | 0x0E => t.slim
  | 0x0F => t.sbase
  | 0x10 => t.trapvec.zeroExtend 64
  | 0x11 => ((BitVec.ofBool t.trapInh ++ 0#23) ++ t.trapCause).zeroExtend 64
  | 0x12 => t.trapva
  | 0x13 => t.trappc.zeroExtend 64
  | 0x14 => t.astat.zeroExtend 64
  | 0x15 => t.rmode.zeroExtend 64
  | 0x16 => t.demo.dpc.zeroExtend 64
  | 0x17 => t.trapmask.zeroExtend 64
  | 0x20 => t.dropseed &&& 0xFFFFFFFF#64
  | 0x21 => t.dropseed >>> 32
  | 0x22 => t.dropp.zeroExtend 64
  | 0x23 => t.dropscl.zeroExtend 64
  | 0x24 => ((s.ctxOf g).map (fun c => c.tabver.zeroExtend 64)).getD 0
  | 0x28 => t.stallfix.zeroExtend 64
  | 0x29 => t.lodcnt.zeroExtend 64
  | n => (t.wth.getD (n - 0x18) 0).zeroExtend 64

/-- A write to a state register under its write rule (R8, R31, R103, R107, R108). -/
def Team.writeState (t : Team) (n : Nat) (x : Word) : Team :=
  match n with
  | 0x0B => { t with lc := t.lc.set 0 x }
  | 0x0C => { t with lc := t.lc.set 1 x }
  | 0x0D => { t with lc := t.lc.set 2 x }
  | 0x10 => if isCodeAddr x then { t with trapvec := x } else t
  | 0x13 => if isCodeAddr x then { t with trappc := x } else t
  | 0x14 => { t with astat := astatWrite x }
  | 0x15 => if (x &&& 7#32).toNat ≤ 4 then { t with rmode := x &&& 7#32 } else t
  | 0x17 => { t with trapmask := x &&& 0x3FFFE#32 }
  | 0x18 => { t with wth := t.wth.set 0 x }
  | 0x19 => { t with wth := t.wth.set 1 x }
  | 0x1A => { t with wth := t.wth.set 2 x }
  | 0x1B => { t with wth := t.wth.set 3 x }
  | 0x1C => { t with wth := t.wth.set 4 x }
  | 0x1D => { t with wth := t.wth.set 5 x }
  | 0x20 => { t with dropseed := t.dropseed.extractLsb' 32 32 ++ x }
  | 0x21 => { t with dropseed := x ++ t.dropseed.extractLsb' 0 32 }
  | 0x22 => { t with dropp := x &&& 0xFFFFFF#32 }
  | 0x23 => { t with dropscl := x }
  | _ => t

/-- NOP (R110). -/
def execNop (s : State) : Host.Outcome State Fault Refusal := issue .nop s fun x => .ok x.s

/-- TRAP (R110): raises SOFT with the code in TRAPVA if any lane runs. -/
def execTrap (i : BitVec 8) (s : State) : Host.Outcome State Fault Refusal :=
  issue (.trap i) s fun x => if x.t.idle then .ok x.s else .trapNext trapSoft (i.zeroExtend 64)

/-- BKPT (R110). -/
def execBkpt (i : BitVec 8) (s : State) : Host.Outcome State Fault Refusal :=
  issue (.bkpt i) s fun x => if x.t.idle then .ok x.s else .trapNext trapBkpt (i.zeroExtend 64)

/-- TRET (R110): ILLEGAL outside a handler; OVERLAY where TRAPPC names no word of a resident overlay. -/
def execTret (s : State) : Host.Outcome State Fault Refusal :=
  issue .tret s fun x =>
    if !x.t.trapInh then x.trapWord trapIllegal
    else if (x.s.codeWord x.g x.t.trappc).isNone then .trap trapOverlay (x.t.trappc.zeroExtend 64)
    else .goto (x.put x.t.trapReturn) x.t.trappc

/-- RDS (R110). -/
def execRds (d : RegField) (i : BitVec 8) (s : State) : Host.Outcome State Fault Refusal :=
  issue (.rds d i) s fun x => x.okTeam (x.t.write d fun l => stateReg x.s x.g x.t l i.toNat)

/-- WRS (R110): the lowest running lane's value. -/
def execWrs (a : RegField) (i : BitVec 8) (s : State) : Host.Outcome State Fault Refusal :=
  issue (.wrs a i) s fun x =>
    match x.t.low? with
    | some l => x.okTeam (x.t.writeState i.toNat (x.t.reg32 a l))
    | none => .ok x.s

/-- RDCLK (R110): 64 bits in the ACCESS role, a pair of registers elsewhere. -/
def execRdclk (d : RegField) (s : State) : Host.Outcome State Fault Refusal :=
  issue (.rdclk d) s fun x =>
    let c := BitVec.ofNat 64 x.s.clk
    if x.t.role = .access then x.okTeam (x.t.write d fun _ => c)
    else x.okTeam ((x.t.write d fun _ => c &&& 0xFFFFFFFF#64).write (nextField d) fun _ => c >>> 32)

end Sys2Proof.Machine
end

