-- ==== Sys2Proof/Machine/Dispatch.lean ====
section
/-!
DEFINITION. One arm per constructor of `Instr`.
-/

namespace Sys2Proof.Machine

/-- The meaning of one instruction or event. -/
def exec (i : Instr) (s : State) : Host.Outcome State Fault Refusal :=
  match i with
  | .nop => Sys2Proof.Machine.execNop s
  | .trap im => Sys2Proof.Machine.execTrap im s
  | .tret => Sys2Proof.Machine.execTret s
  | .rds d im => Sys2Proof.Machine.execRds d im s
  | .wrs a im => Sys2Proof.Machine.execWrs a im s
  | .rdclk d => Sys2Proof.Machine.execRdclk d s
  | .bkpt im => Sys2Proof.Machine.execBkpt im s
  | .ifc p o => Sys2Proof.Machine.execIfc p o s
  | .elsec o => Sys2Proof.Machine.execElsec o s
  | .endifc => Sys2Proof.Machine.execEndifc s
  | .loopc o => Sys2Proof.Machine.execLoopc o s
  | .breakc p d => Sys2Proof.Machine.execBreakc p d s
  | .contc p d => Sys2Proof.Machine.execContc p d s
  | .endl o => Sys2Proof.Machine.execEndl o s
  | .jmp p o => Sys2Proof.Machine.execJmp p o s
  | .callc o => Sys2Proof.Machine.execCallc o s
  | .retc => Sys2Proof.Machine.execRetc s
  | .exitc p => Sys2Proof.Machine.execExitc p s
  | .yield => Sys2Proof.Machine.execYield s
  | .hloop c l => Sys2Proof.Machine.execHloop c l s
  | .hloops a l => Sys2Proof.Machine.execHloops a l s
  | .hbrk p => Sys2Proof.Machine.execHbrk p s
  | .iadd d a b => Sys2Proof.Machine.execIadd d a b s
  | .isub d a b => Sys2Proof.Machine.execIsub d a b s
  | .imul d a b => Sys2Proof.Machine.execImul d a b s
  | .imulh d a b => Sys2Proof.Machine.execImulh d a b s
  | .imulhn d a b => Sys2Proof.Machine.execImulhn d a b s
  | .imin d a b => Sys2Proof.Machine.execImin d a b s
  | .imax d a b => Sys2Proof.Machine.execImax d a b s
  | .nmin d a b => Sys2Proof.Machine.execNmin d a b s
  | .nmax d a b => Sys2Proof.Machine.execNmax d a b s
  | .iand d a b => Sys2Proof.Machine.execIand d a b s
  | .ior d a b => Sys2Proof.Machine.execIor d a b s
  | .ixor d a b => Sys2Proof.Machine.execIxor d a b s
  | .andn d a b => Sys2Proof.Machine.execAndn d a b s
  | .shl d a b => Sys2Proof.Machine.execShl d a b s
  | .shr d a b => Sys2Proof.Machine.execShr d a b s
  | .sar d a b => Sys2Proof.Machine.execSar d a b s
  | .iabs d a => Sys2Proof.Machine.execIabs d a s
  | .ineg d a => Sys2Proof.Machine.execIneg d a s
  | .inot d a => Sys2Proof.Machine.execInot d a s
  | .popc d a => Sys2Proof.Machine.execPopc d a s
  | .clz d a => Sys2Proof.Machine.execClz d a s
  | .brev d a => Sys2Proof.Machine.execBrev d a s
  | .bfe d a b => Sys2Proof.Machine.execBfe d a b s
  | .bfi d a b => Sys2Proof.Machine.execBfi d a b s
  | .isel d a p => Sys2Proof.Machine.execIsel d a p s
  | .icmp c p a b => Sys2Proof.Machine.execIcmp c p a b s
  | .movc d a => Sys2Proof.Machine.execMovc d a s
  | .imad d a b => Sys2Proof.Machine.execImad d a b s
  | .iaddi d a im => Sys2Proof.Machine.execIaddi d a im s
  | .andi d a im => Sys2Proof.Machine.execAndi d a im s
  | .ori d a im => Sys2Proof.Machine.execOri d a im s
  | .xori d a im => Sys2Proof.Machine.execXori d a im s
  | .shli d a im => Sys2Proof.Machine.execShli d a im s
  | .shri d a im => Sys2Proof.Machine.execShri d a im s
  | .sari d a im => Sys2Proof.Machine.execSari d a im s
  | .icmpi c p a im => Sys2Proof.Machine.execIcmpi c p a im s
  | .movi d im => Sys2Proof.Machine.execMovi d im s
  | .aadd d a b => Sys2Proof.Machine.execAadd d a b s
  | .asub d a b => Sys2Proof.Machine.execAsub d a b s
  | .amov d a b => Sys2Proof.Machine.execAmov d a b s
  | .acvt d a k => Sys2Proof.Machine.execAcvt d a k s
  | .acmp c p a b => Sys2Proof.Machine.execAcmp c p a b s
  | .slice d a k => Sys2Proof.Machine.execSlice d a k s
  | .ashladd d a b h => Sys2Proof.Machine.execAshladd d a b h s
  | .fadd d a b => Sys2Proof.Machine.execFadd d a b s
  | .fsub d a b => Sys2Proof.Machine.execFsub d a b s
  | .fmul d a b => Sys2Proof.Machine.execFmul d a b s
  | .ffma d a b => Sys2Proof.Machine.execFfma d a b s
  | .fmin d a b => Sys2Proof.Machine.execFmin d a b s
  | .fmax d a b => Sys2Proof.Machine.execFmax d a b s
  | .fmint d a b => Sys2Proof.Machine.execFmint d a b s
  | .fmaxt d a b => Sys2Proof.Machine.execFmaxt d a b s
  | .fabs d a => Sys2Proof.Machine.execFabs d a s
  | .fneg d a => Sys2Proof.Machine.execFneg d a s
  | .fcmp c p a b => Sys2Proof.Machine.execFcmp c p a b s
  | .fclass d a => Sys2Proof.Machine.execFclass d a s
  | .fscale d a b => Sys2Proof.Machine.execFscale d a b s
  | .fsel d a p => Sys2Proof.Machine.execFsel d a p s
  | .hadd2 d a b f => Sys2Proof.Machine.execHadd2 d a b f s
  | .hsub2 d a b f => Sys2Proof.Machine.execHsub2 d a b f s
  | .hmul2 d a b f => Sys2Proof.Machine.execHmul2 d a b f s
  | .hfma2 d a b f => Sys2Proof.Machine.execHfma2 d a b f s
  | .hmax2 d a b f => Sys2Proof.Machine.execHmax2 d a b f s
  | .hmin2 d a b f => Sys2Proof.Machine.execHmin2 d a b f s
  | .rcp d a => Sys2Proof.Machine.execRcp d a s
  | .rsq d a => Sys2Proof.Machine.execRsq d a s
  | .sqrtc d a => Sys2Proof.Machine.execSqrtc d a s
  | .exp2c d a => Sys2Proof.Machine.execExp2c d a s
  | .log2c d a => Sys2Proof.Machine.execLog2c d a s
  | .sinc d a => Sys2Proof.Machine.execSinc d a s
  | .cosc d a => Sys2Proof.Machine.execCosc d a s
  | .tanhc d a => Sys2Proof.Machine.execTanhc d a s
  | .erfc d a => Sys2Proof.Machine.execErfc d a s
  | .cvt d a => Sys2Proof.Machine.execCvt d a s
  | .cvtsr d a b => Sys2Proof.Machine.execCvtsr d a b s
  | .quant d a b => Sys2Proof.Machine.execQuant d a b s
  | .deq d a b => Sys2Proof.Machine.execDeq d a b s
  | .pack d a b => Sys2Proof.Machine.execPack d a b s
  | .unpack d a k => Sys2Proof.Machine.execUnpack d a k s
  | .cbld im a => Sys2Proof.Machine.execCbld im a s
  | .tokey d a => Sys2Proof.Machine.execTokey d a s
  | .qxch d a m => Sys2Proof.Machine.execQxch d a m s
  | .qbc d a k => Sys2Proof.Machine.execQbc d a k s
  | .shfl d a b => Sys2Proof.Machine.execShfl d a b s
  | .shflDn d a o => Sys2Proof.Machine.execShflDn d a o s
  | .shflUp d a o => Sys2Proof.Machine.execShflUp d a o s
  | .shflXor d a o => Sys2Proof.Machine.execShflXor d a o s
  | .sred d a o => Sys2Proof.Machine.execSred d a o s
  | .sscan d a x o => Sys2Proof.Machine.execSscan d a x o s
  | .vote d p b => Sys2Proof.Machine.execVote d p b s
  | .tred d a o => Sys2Proof.Machine.execTred d a o s
  | .tbc d a b => Sys2Proof.Machine.execTbc d a b s
  | .matchx d a b => Sys2Proof.Machine.execMatchx d a b s
  | .ld d a o z x => Sys2Proof.Machine.execLd d a o z x s
  | .ldAcq d a o z x => Sys2Proof.Machine.execLdAcq d a o z x s
  | .ldPoll d a o z => Sys2Proof.Machine.execLdPoll d a o z s
  | .pref a o => Sys2Proof.Machine.execPref a o s
  | .ldq q a o z => Sys2Proof.Machine.execLdq q a o z s
  | .ldqg q a o z => Sys2Proof.Machine.execLdqg q a o z s
  | .st d a o z => Sys2Proof.Machine.execSt d a o z s
  | .stRel d a o z => Sys2Proof.Machine.execStRel d a o z s
  | .stq q a o z => Sys2Proof.Machine.execStq q a o z s
  | .tld d a t => Sys2Proof.Machine.execTld d a t s
  | .tst d a t => Sys2Proof.Machine.execTst d a t s
  | .tldr d a t => Sys2Proof.Machine.execTldr d a t s
  | .tstr d a t => Sys2Proof.Machine.execTstr d a t s
  | .tbind a t => Sys2Proof.Machine.execTbind a t s
  | .atomAdd d a o z => Sys2Proof.Machine.execAtomAdd d a o z s
  | .atomMinI d a o z => Sys2Proof.Machine.execAtomMinI d a o z s
  | .atomMaxI d a o z => Sys2Proof.Machine.execAtomMaxI d a o z s
  | .atomMinN d a o z => Sys2Proof.Machine.execAtomMinN d a o z s
  | .atomMaxN d a o z => Sys2Proof.Machine.execAtomMaxN d a o z s
  | .atomAnd d a o z => Sys2Proof.Machine.execAtomAnd d a o z s
  | .atomOr d a o z => Sys2Proof.Machine.execAtomOr d a o z s
  | .atomXor d a o z => Sys2Proof.Machine.execAtomXor d a o z s
  | .atomSwap d a o z => Sys2Proof.Machine.execAtomSwap d a o z s
  | .cas d a o z => Sys2Proof.Machine.execCas d a o z s
  | .atomFadd d a o => Sys2Proof.Machine.execAtomFadd d a o s
  | .redAdd d a o z => Sys2Proof.Machine.execRedAdd d a o z s
  | .redMinI d a o z => Sys2Proof.Machine.execRedMinI d a o z s
  | .redMaxI d a o z => Sys2Proof.Machine.execRedMaxI d a o z s
  | .redMinN d a o z => Sys2Proof.Machine.execRedMinN d a o z s
  | .redMaxN d a o z => Sys2Proof.Machine.execRedMaxN d a o z s
  | .redAnd d a o z => Sys2Proof.Machine.execRedAnd d a o z s
  | .redOr d a o z => Sys2Proof.Machine.execRedOr d a o z s
  | .redXor d a o z => Sys2Proof.Machine.execRedXor d a o z s
  | .redFadd d a o => Sys2Proof.Machine.execRedFadd d a o s
  | .atomtAdd d a t => Sys2Proof.Machine.execAtomtAdd d a t s
  | .atomtMinI d a t => Sys2Proof.Machine.execAtomtMinI d a t s
  | .atomtMaxI d a t => Sys2Proof.Machine.execAtomtMaxI d a t s
  | .atomtMinN d a t => Sys2Proof.Machine.execAtomtMinN d a t s
  | .atomtMaxN d a t => Sys2Proof.Machine.execAtomtMaxN d a t s
  | .atomtAnd d a t => Sys2Proof.Machine.execAtomtAnd d a t s
  | .atomtOr d a t => Sys2Proof.Machine.execAtomtOr d a t s
  | .atomtXor d a t => Sys2Proof.Machine.execAtomtXor d a t s
  | .atomtSwap d a t => Sys2Proof.Machine.execAtomtSwap d a t s
  | .atomtFadd d a t => Sys2Proof.Machine.execAtomtFadd d a t s
  | .atomtMaxpk d a t => Sys2Proof.Machine.execAtomtMaxpk d a t s
  | .castt d a t => Sys2Proof.Machine.execCastt d a t s
  | .fenceL => Sys2Proof.Machine.execFenceL s
  | .fenceH => Sys2Proof.Machine.execFenceH s
  | .fenceE => Sys2Proof.Machine.execFenceE s
  | .acqc => Sys2Proof.Machine.execAcqc s
  | .relc => Sys2Proof.Machine.execRelc s
  | .bar => Sys2Proof.Machine.execBar s
  | .barE => Sys2Proof.Machine.execBarE s
  | .barCarve d a => Sys2Proof.Machine.execBarCarve d a s
  | .boinit d a b => Sys2Proof.Machine.execBoinit d a b s
  | .boexp d a b => Sys2Proof.Machine.execBoexp d a b s
  | .boarr d a b => Sys2Proof.Machine.execBoarr d a b s
  | .bowait a b => Sys2Proof.Machine.execBowait a b s
  | .botest d a b => Sys2Proof.Machine.execBotest d a b s
  | .qpush d q im => Sys2Proof.Machine.execQpush d q im s
  | .qpop d q im => Sys2Proof.Machine.execQpop d q im s
  | .qtry d q im => Sys2Proof.Machine.execQtry d q im s
  | .qpeek d q im => Sys2Proof.Machine.execQpeek d q im s
  | .qmarkSeg d q im => Sys2Proof.Machine.execQmarkSeg d q im s
  | .qmarkEos q im => Sys2Proof.Machine.execQmarkEos q im s
  | .qclose q => Sys2Proof.Machine.execQclose q s
  | .qflush d q => Sys2Proof.Machine.execQflush d q s
  | .qstat d q k => Sys2Proof.Machine.execQstat d q k s
  | .cpy a b => Sys2Proof.Machine.execCpy a b s
  | .cpym d a b => Sys2Proof.Machine.execCpym d a b s
  | .cpys a b => Sys2Proof.Machine.execCpys a b s
  | .cbatch d => Sys2Proof.Machine.execCbatch d s
  | .cwait d a => Sys2Proof.Machine.execCwait d a s
  | .hdef d a b => Sys2Proof.Machine.execHdef d a b s
  | .fetch t a b => Sys2Proof.Machine.execFetch t a b s
  | .fetchx t a b => Sys2Proof.Machine.execFetchx t a b s
  | .finv d b => Sys2Proof.Machine.execFinv d b s
  | .mtask d a => Sys2Proof.Machine.execMtask d a s
  | .mwait d a => Sys2Proof.Machine.execMwait d a s
  | .mstat d a k => Sys2Proof.Machine.execMstat d a k s
  | .mcancel d a => Sys2Proof.Machine.execMcancel d a s
  | .wstore d a l => Sys2Proof.Machine.execWstore d a l s
  | .wrec d a => Sys2Proof.Machine.execWrec d a s
  | .wtag d a => Sys2Proof.Machine.execWtag d a s
  | .wth d a => Sys2Proof.Machine.execWth d a s
  | .tvadd d a b => Sys2Proof.Machine.execTvadd d a b s
  | .tvsub d a b => Sys2Proof.Machine.execTvsub d a b s
  | .tvmulc d a b => Sys2Proof.Machine.execTvmulc d a b s
  | .tvaxpy d a b => Sys2Proof.Machine.execTvaxpy d a b s
  | .tvbias d a b => Sys2Proof.Machine.execTvbias d a b s
  | .tvact d a k => Sys2Proof.Machine.execTvact d a k s
  | .tvnorm d a b => Sys2Proof.Machine.execTvnorm d a b s
  | .tvnormRms d a b => Sys2Proof.Machine.execTvnormRms d a b s
  | .tvsmax d a b => Sys2Proof.Machine.execTvsmax d a b s
  | .tvcvt d a => Sys2Proof.Machine.execTvcvt d a s
  | .treg d a t => Sys2Proof.Machine.execTreg d a t s
  | .tdereg d t => Sys2Proof.Machine.execTdereg d t s
  | .tmove d b t => Sys2Proof.Machine.execTmove d b t s
  | .solicit d a => Sys2Proof.Machine.execSolicit d a s
  | .respond a => Sys2Proof.Machine.execRespond a s
  | .census d a k => Sys2Proof.Machine.execCensus d a k s
  | .cres d a k => Sys2Proof.Machine.execCres d a k s
  | .slotget d a => Sys2Proof.Machine.execSlotget d a s
  | .slotref d a k => Sys2Proof.Machine.execSlotref d a k s
  | .slotrel d a => Sys2Proof.Machine.execSlotrel d a s
  | .rtstage d a b => Sys2Proof.Machine.execRtstage d a b s
  | .rtlook d a b => Sys2Proof.Machine.execRtlook d a b s
  | .rtlookAdm d a => Sys2Proof.Machine.execRtlookAdm d a s
  | .grec d a b => Sys2Proof.Machine.execGrec d a b s
  | .gcond a b => Sys2Proof.Machine.execGcond a b s
  | .gdone => Sys2Proof.Machine.execGdone s
  | .gflush d b => Sys2Proof.Machine.execGflush d b s
  | .rread q a o z => Sys2Proof.Machine.execRread q a o z s
  | .rwrite d a o z => Sys2Proof.Machine.execRwrite d a o z s
  | .ratomAdd d a z => Sys2Proof.Machine.execRatomAdd d a z s
  | .ratomCas d a => Sys2Proof.Machine.execRatomCas d a s
  | .rfence d => Sys2Proof.Machine.execRfence d s
  | .ovload d im => Sys2Proof.Machine.execOvload d im s
  | .ovwait d im => Sys2Proof.Machine.execOvwait d im s
  | .fcall e => Sys2Proof.Machine.execFcall e s
  | .spush a => Sys2Proof.Machine.execSpush a s
  | .spop d => Sys2Proof.Machine.execSpop d s
  | .salloc n => Sys2Proof.Machine.execSalloc n s
  | .hintImm e => Sys2Proof.Machine.execHintImm e s
  | .hintStall e d c b a => Sys2Proof.Machine.execHintStall e d c b a s
  | .hintMod r c x => Sys2Proof.Machine.execHintMod r c x s
  | .hintFmt a b d sat k x => Sys2Proof.Machine.execHintFmt a b d sat k x s
  | .createContext fn desc => Sys2Proof.Machine.execCreateContext fn desc s
  | .destroy fn part who => Sys2Proof.Machine.execDestroy fn part who s
  | .preempt fn part who => Sys2Proof.Machine.execPreempt fn part who s
  | .kernelLaunch fn part who record => Sys2Proof.Machine.execKernelLaunch fn part who record s
  | .graphLaunch fn part who record => Sys2Proof.Machine.execGraphLaunch fn part who record s
  | .imageLoad fn part who image => Sys2Proof.Machine.execImageLoad fn part who image s
  | .keyInstall fn part idx key => Sys2Proof.Machine.execKeyInstall fn part idx key s
  | .groupTableWrite fn part idx group => Sys2Proof.Machine.execGroupTableWrite fn part idx group s
  | .shootdown fn part scope asid va len => Sys2Proof.Machine.execShootdown fn part scope asid va len s
  | .answerRecord fn record => Sys2Proof.Machine.execAnswerRecord fn record s
  | .pageEngineRegister fn part who ranges frames low high period => Sys2Proof.Machine.execPageEngineRegister fn part who ranges frames low high period s
  | .clearfail fn => Sys2Proof.Machine.execClearfail fn s
  | .testMode fn part => Sys2Proof.Machine.execTestMode fn part s
  | .partitionReset fn part => Sys2Proof.Machine.execPartitionReset fn part s
  | .fullDeviceReset fn => Sys2Proof.Machine.execFullDeviceReset fn s
  | .resetRelease firmware mgmt badStacks badClusters => Sys2Proof.Machine.execResetRelease firmware mgmt badStacks badClusters s
  | .startTimeout => Sys2Proof.Machine.execStartTimeout s
  | .firmwareUpload firmware => Sys2Proof.Machine.execFirmwareUpload firmware s
  | .antiRollbackBlow fn command => Sys2Proof.Machine.execAntiRollbackBlow fn command s
  | .powerCap fn watts => Sys2Proof.Machine.execPowerCap fn watts s
  | .replanCommand fn => Sys2Proof.Machine.execReplanCommand fn s
  | .replanPeriod => Sys2Proof.Machine.execReplanPeriod s
  | .portEnable fn port => Sys2Proof.Machine.execPortEnable fn port s
  | .portDisable fn port => Sys2Proof.Machine.execPortDisable fn port s
  | .portTrained port => Sys2Proof.Machine.execPortTrained port s
  | .linkLoss port => Sys2Proof.Machine.execLinkLoss port s
  | .peerTableWrite fn part who idx valid port addr job => Sys2Proof.Machine.execPeerTableWrite fn part who idx valid port addr job s
  | .jobRegister fn part job who => Sys2Proof.Machine.execJobRegister fn part job who s
  | .drowsyDisable fn part disable => Sys2Proof.Machine.execDrowsyDisable fn part disable s
  | .registerWrite fn reg idx value => Sys2Proof.Machine.execRegisterWrite fn reg idx value s
  | .getVersion fn => Sys2Proof.Machine.execGetVersion fn s
  | .getCapabilities fn => Sys2Proof.Machine.execGetCapabilities fn s
  | .negotiateAlgorithms fn sha256 hssLms => Sys2Proof.Machine.execNegotiateAlgorithms fn sha256 hssLms s
  | .getDigests fn => Sys2Proof.Machine.execGetDigests fn s
  | .getCertificate fn slot => Sys2Proof.Machine.execGetCertificate fn slot s
  | .spdmChallenge fn slot nonce => Sys2Proof.Machine.execSpdmChallenge fn slot nonce s
  | .getMeasurements fn index => Sys2Proof.Machine.execGetMeasurements fn index s
  | .keyExchange fn slot => Sys2Proof.Machine.execKeyExchange fn slot s
  | .spdmFinish fn => Sys2Proof.Machine.execSpdmFinish fn s
  | .hostLinkDown => Sys2Proof.Machine.execHostLinkDown s
  | .correctableError block => Sys2Proof.Machine.execCorrectableError block s
  | .uncorrectableError site index saving => Sys2Proof.Machine.execUncorrectableError site index saving s
  | .scrub => Sys2Proof.Machine.execScrub s
  | .thermalThrottle on => Sys2Proof.Machine.execThermalThrottle on s
  | .thermalTrip => Sys2Proof.Machine.execThermalTrip s
  | .translationFault uid tid => Sys2Proof.Machine.execTranslationFault uid tid s
  | .pageRequest part tag => Sys2Proof.Machine.execPageRequest part tag s
  | .expansionDone part tag => Sys2Proof.Machine.execExpansionDone part tag s
  | .ageingPeriod part => Sys2Proof.Machine.execAgeingPeriod part s
  | .compressVictim part => Sys2Proof.Machine.execCompressVictim part s
  | .variableResultReturn uid tid idx => Sys2Proof.Machine.execVariableResultReturn uid tid idx s
  | .queueEntryComplete uid q entry => Sys2Proof.Machine.execQueueEntryComplete uid q entry s
  | .pollWake uid tid => Sys2Proof.Machine.execPollWake uid tid s
  | .pollTimeout uid tid => Sys2Proof.Machine.execPollTimeout uid tid s
  | .copyStart seq => Sys2Proof.Machine.execCopyStart seq s
  | .copyPiece seq => Sys2Proof.Machine.execCopyPiece seq s
  | .fetchRow seq => Sys2Proof.Machine.execFetchRow seq s
  | .cardStart uid task => Sys2Proof.Machine.execCardStart uid task s
  | .broadcastMatch uid task rxUid => Sys2Proof.Machine.execBroadcastMatch uid task rxUid s
  | .peerMatch uid task => Sys2Proof.Machine.execPeerMatch uid task s
  | .cardComplete uid task => Sys2Proof.Machine.execCardComplete uid task s
  | .censusSnapshot cseq => Sys2Proof.Machine.execCensusSnapshot cseq s
  | .responderStart cseq core => Sys2Proof.Machine.execResponderStart cseq core s
  | .censusClose cseq => Sys2Proof.Machine.execCensusClose cseq s
  | .censusWaitExpire cseq => Sys2Proof.Machine.execCensusWaitExpire cseq s
  | .overlayLoadDone core slot => Sys2Proof.Machine.execOverlayLoadDone core slot s
  | .phaseStart lid => Sys2Proof.Machine.execPhaseStart lid s
  | .groupPlace lid => Sys2Proof.Machine.execGroupPlace lid s
  | .groupStart uid => Sys2Proof.Machine.execGroupStart uid s
  | .groupRetire uid => Sys2Proof.Machine.execGroupRetire uid s
  | .flushTimerExpire part ctxid node => Sys2Proof.Machine.execFlushTimerExpire part ctxid node s
  | .preemptionDecision lid => Sys2Proof.Machine.execPreemptionDecision lid s
  | .saveComplete part ctxid => Sys2Proof.Machine.execSaveComplete part ctxid s
  | .resume part ctxid => Sys2Proof.Machine.execResume part ctxid s
  | .watchdog lid => Sys2Proof.Machine.execWatchdog lid s
  | .qdeadlock uid => Sys2Proof.Machine.execQdeadlock uid s
  | .remoteReadRequest port job endpoint va size => Sys2Proof.Machine.execRemoteReadRequest port job endpoint va size s
  | .remoteWriteRequest port job endpoint va data => Sys2Proof.Machine.execRemoteWriteRequest port job endpoint va data s
  | .remoteAtomicRequest port job endpoint va op size operand compare => Sys2Proof.Machine.execRemoteAtomicRequest port job endpoint va op size operand compare s
  | .remoteResponse rseq nack data => Sys2Proof.Machine.execRemoteResponse rseq nack data s
  | .remoteTimeout rseq => Sys2Proof.Machine.execRemoteTimeout rseq s
  | .bankDrowsy col row bank => Sys2Proof.Machine.execBankDrowsy col row bank s
  | .bankWake col row bank => Sys2Proof.Machine.execBankWake col row bank s
  | .homeSliceAccept uid tid => Sys2Proof.Machine.execHomeSliceAccept uid tid s
  | .hostMemoryRequest op host pa data => Sys2Proof.Machine.execHostMemoryRequest op host pa data s
  | .powerLoss => Sys2Proof.Machine.execPowerLoss s
  | .sharedTableInstall fn part root => Sys2Proof.Machine.execSharedTableInstall fn part root s
  | .partitionModeWrite fn mode => Sys2Proof.Machine.execPartitionModeWrite fn mode s
  | .repairMapWrite fn strip map => Sys2Proof.Machine.execRepairMapWrite fn strip map s
  | .rollbackFloorRaise fn part who floor => Sys2Proof.Machine.execRollbackFloorRaise fn part who floor s
  | .tmoveComplete uid tid => Sys2Proof.Machine.execTmoveComplete uid tid s

end Sys2Proof.Machine
end

