-- ==== Sys2Proof/Machine/Events.lean ====
section
/-!
DEFINITION. The events of the part: work of its own that has its cause in the state and has not happened yet. What comes from
outside (the host, other devices, errors, temperature, drowsy banks) is never here; it stands on the agenda (log entry 3).
-/

namespace Sys2Proof.Machine

/-- An event that can arise from the state itself: named as its row of the opcode table, or, of the last four, a step of the part
that no row names: a slice's acceptance and answer of a request (R313), and the walker's steps (R119, R120). -/
inductive Ev where
  | variableResultReturn (uid tid idx : Nat)
  | queueEntryComplete (uid q entry : Nat)
  | homeSliceAccept (uid tid : Nat)
  | pollWake (uid tid : Nat)
  | pollTimeout (uid tid : Nat)
  | translationFault (uid tid : Nat)
  | tmoveComplete (uid tid : Nat)
  | pageRequest (part tag : Nat)
  | expansionDone (part tag : Nat)
  | ageingPeriod (part : Nat)
  | compressVictim (part : Nat)
  | copyStart (seq : Nat)
  | copyPiece (seq : Nat)
  | fetchRow (seq : Nat)
  | cardStart (uid task : Nat)
  | broadcastMatch (uid task rxUid : Nat)
  | peerMatch (uid task : Nat)
  | cardComplete (uid task : Nat)
  | censusSnapshot (cseq : Nat)
  | responderStart (cseq core : Nat)
  | censusClose (cseq : Nat)
  | censusWaitExpire (cseq : Nat)
  | overlayLoadDone (core slot : Nat)
  | phaseStart (lid : Nat)
  | groupPlace (lid : Nat)
  | groupStart (uid : Nat)
  | groupRetire (uid : Nat)
  | flushTimerExpire (part ctxid node : Nat)
  | preemptionDecision (lid : Nat)
  | saveComplete (part ctxid : Nat)
  | resume (part ctxid : Nat)
  | watchdog (lid : Nat)
  | qdeadlock (uid : Nat)
  | remoteTimeout (rseq : Nat)
  | replanPeriod
  | scrub
  | sliceAccept (core c n : Nat)
  | sliceAnswer (core i : Nat)
  | graphRead (part ctxid ord : Nat)
  | walk (part ctxid : Nat)
  deriving DecidableEq, Repr

/-- What an event does: the meaning of its row, or the step of the part. -/
def Ev.run (e : Ev) (s : State) : Host.Outcome State Fault Refusal :=
  match e with
  | .variableResultReturn uid tid idx => execVariableResultReturn uid tid idx s
  | .queueEntryComplete uid q entry => execQueueEntryComplete uid q entry s
  | .homeSliceAccept uid tid => execHomeSliceAccept uid tid s
  | .pollWake uid tid => execPollWake uid tid s
  | .pollTimeout uid tid => execPollTimeout uid tid s
  | .translationFault uid tid => execTranslationFault uid tid s
  | .tmoveComplete uid tid => execTmoveComplete uid tid s
  | .pageRequest part tag => execPageRequest part tag s
  | .expansionDone part tag => execExpansionDone part tag s
  | .ageingPeriod part => execAgeingPeriod part s
  | .compressVictim part => execCompressVictim part s
  | .copyStart seq => execCopyStart seq s
  | .copyPiece seq => execCopyPiece seq s
  | .fetchRow seq => execFetchRow seq s
  | .cardStart uid task => execCardStart uid task s
  | .broadcastMatch uid task rxUid => execBroadcastMatch uid task rxUid s
  | .peerMatch uid task => execPeerMatch uid task s
  | .cardComplete uid task => execCardComplete uid task s
  | .censusSnapshot cseq => execCensusSnapshot cseq s
  | .responderStart cseq core => execResponderStart cseq core s
  | .censusClose cseq => execCensusClose cseq s
  | .censusWaitExpire cseq => execCensusWaitExpire cseq s
  | .overlayLoadDone core slot => execOverlayLoadDone core slot s
  | .phaseStart lid => execPhaseStart lid s
  | .groupPlace lid => execGroupPlace lid s
  | .groupStart uid => execGroupStart uid s
  | .groupRetire uid => execGroupRetire uid s
  | .flushTimerExpire part ctxid node => execFlushTimerExpire part ctxid node s
  | .preemptionDecision lid => execPreemptionDecision lid s
  | .saveComplete part ctxid => execSaveComplete part ctxid s
  | .resume part ctxid => execResume part ctxid s
  | .watchdog lid => execWatchdog lid s
  | .qdeadlock uid => execQdeadlock uid s
  | .remoteTimeout rseq => execRemoteTimeout rseq s
  | .replanPeriod => execReplanPeriod s
  | .scrub => execScrub s
  | .sliceAccept core c n => execSliceAccept core c n s
  | .sliceAnswer core i => execSliceAnswer core i s
  | .graphRead part ctxid ord => execGraphRead part ctxid ord s
  | .walk part ctxid => execWalk part ctxid s

/-- A list with one member where a condition holds. -/
def onlyIf {α : Type} (b : Bool) (x : α) : List α := if b then [x] else []

/-! ### Teams: results, stores, polls, faults, moves (R145, R164, R257, R296, R381) -/

/-- A team's move may end: its entry is free (R381). -/
def State.moveDue (s : State) (g : Group) (t : Team) : Bool :=
  match t.hold with
  | .tmove _ i destUid _ =>
    (s.core? g.core).all fun k =>
      !k.keyHeld i && !((k.key i).any fun e => (s.group? destUid).any fun d => s.headerHeld d e.header)
  | _ => false

/-- What can happen to a team of a group that holds a core. -/
def State.teamEvents (s : State) (g : Group) (t : Team) : List Ev :=
  let uid := g.uid
  let tid := t.tid
  let r : TeamRef := { uid := uid, tid := tid }
  (((List.range t.pend.length).filter fun i => (t.pend[i]?).any (s.resultReady g.core r)).map (.variableResultReturn uid tid ·)) ++
    onlyIf (s.storeTaken { uid := uid, tid := tid } && g.resident) (.homeSliceAccept uid tid) ++
    (match t.hold with
     | .poll h =>
       onlyIf (polledChanged s h) (.pollWake uid tid) ++ onlyIf (decide (h.since + 1024 ≤ s.clk)) (.pollTimeout uid tid)
     | _ => []) ++
    onlyIf (t.unreported && g.resident && s.runs g) (.translationFault uid tid) ++
    onlyIf (s.moveDue g t && s.runs g) (.tmoveComplete uid tid)

/-- Queue loads whose data can arrive (R227, R248). -/
def State.queueEvents (s : State) (g : Group) (q : Queue) : List Ev :=
  (q.entries.filter fun e => s.loadInFlight g.uid q e && s.entryReady g e).map (fun e => .queueEntryComplete g.uid q.num e.id) ++
    onlyIf (decide (0 < s.cancelledInFlight g.uid q)) (.queueEntryComplete g.uid q.num q.nextId)

/-! ### Cards (R361 to R369) -/

/-- Broadcast deliveries that a sender can make; a sender all of whose receivers are served or gone goes on (R366). -/
def State.broadcastEvents (s : State) (g : Group) (c : Card) : List Ev :=
  if (c.receivers g.gid).any (s.unserved g c) then
    (s.groups.filter fun d =>
        ((c.receivers g.gid).any fun r => s.unserved g c r && s.fate g r == .here d.uid) &&
          ((d.listener g.gid (c.u 8 2)).any fun r => r.state == .pairing)).map
      fun d => .broadcastMatch g.uid c.task.toNat d.uid
  else [.broadcastMatch g.uid c.task.toNat g.uid]

/-- A PEER drain can go on (R369). -/
def State.peerReady (s : State) (g : Group) (c : Card) : Bool :=
  let gid := c.u 0x10 2
  let tag := c.u 0xE 2
  ((g.cards.find? fun d => d.sendsTo gid tag && d.state != .running).map (·.task)) == some c.task &&
    match s.fate g gid with
    | .gone => true
    | .waits => false
    | .here hu => (s.group? hu).any fun h => (h.acceptor g.gid tag).any fun a =>
        (hu == g.uid && a.lid == c.lid && a.bank == c.bank) || (a.state == .pairing && a.entry a.served == g.gid)

/-- What a card can do. A running card whose record or tensor page is asked for waits for the answer (R279, R368). -/
def State.cardEvents (s : State) (g : Group) (c : Card) : List Ev :=
  let task := c.task.toNat
  let waits := (s.part? g.part).any fun pt => pt.requests.any fun q => q.waiters.contains (.card g.uid c.task)
  match c.state with
  | .queued => onlyIf (s.mayStart g c && s.cardTurn g c) (.cardStart g.uid task)
  | .running => onlyIf (!waits) (.cardComplete g.uid task)
  | .pairing =>
    if !s.runs g then []
    else if c.kind == 1 && c.u 6 1 == 1 then s.broadcastEvents g c
    else onlyIf (c.kind == 3 && c.dest == 1 && s.peerReady g c) (.peerMatch g.uid task)

/-! ### Groups, copies, fetches -/

/-- What can happen to a group. -/
def State.groupEvents (s : State) (g : Group) : List Ev :=
  g.teams.flatMap (s.teamEvents g) ++ g.queues.flatMap (s.queueEvents g) ++
    (if g.resident then g.cards.flatMap (s.cardEvents g) else []) ++
    onlyIf (g.state == .starting && s.overlaysReady g && s.runs g) (.groupStart g.uid) ++
    onlyIf (s.retireReady g) (.groupRetire g.uid) ++ onlyIf (s.deadlocked g) (.qdeadlock g.uid)

/-- What can happen to a copy (R277, R286). -/
def State.copyEvents (s : State) (c : Copy) : List Ev :=
  match c.state with
  | .entering => onlyIf (s.mayEnter c) (.copyStart c.seq)
  | .queued => onlyIf (s.copyAt c.seq .queued).isSome (.copyStart c.seq)
  | .running => onlyIf (s.copyAt c.seq .running).isSome (.copyPiece c.seq)
  | _ => []

/-- A fetch can bring its next row (R324). -/
def State.fetchEvents (s : State) (f : Fetch) : List Ev :=
  onlyIf (f.waitReq.isNone && (s.group? f.uid).any fun g => s.runs g) (.fetchRow f.seq)

/-! ### Censuses (R384 to R390) -/

/-- The census whose piece is first on a core: the oldest that has one waiting there. -/
def State.firstAsked (s : State) (core : Nat) : Option Census :=
  s.censuses.find? fun c => c.state == .opened && (c.nextPiece core).isSome

/-- The responder of a piece can be started, or its overlay asked for (R385). -/
def State.responderReady (s : State) (c : Census) (core : Nat) : Bool :=
  ((s.firstAsked core).any fun x => x.cseq == c.cseq) && decide (s.respondersOn core < 4) &&
    ((s.ctx? c.part c.ctxid).any fun x => x.state == .running &&
      (s.responderDecl c).any fun d =>
        match (s.core? core).bind fun k => k.slotOf? x.asid c.image (ovlOf d.entry) with
        | some o => o.loaded
        | none => true)

/-- What can happen to a census. -/
def State.censusEvents (s : State) (c : Census) : List Ev :=
  if c.state != .opened then []
  else
    onlyIf (!c.snapped && decide (c.snapAt ≤ s.clk)) (.censusSnapshot c.cseq) ++
      ((c.pieces.filter fun p => p.state == .waiting).map (·.core)).eraseDups.flatMap (fun k =>
        onlyIf (s.responderReady c k) (.responderStart c.cseq k)) ++
      onlyIf (s.censusDone c) (.censusClose c.cseq) ++
      onlyIf ((s.ctx? c.part c.ctxid).any fun x => x.state == .preempting && decide (x.saveClk + 70000 ≤ s.clk))
        (.censusWaitExpire c.cseq)

/-! ### Launches, graphs and contexts (R95 to R99, R104, R116, R117, R122) -/

/-- A SAVED context of the partition comes before a launch of a priority (R95). -/
def State.savedFirst (s : State) (part prio : Nat) : Bool := (s.firstSaved part).any fun c => decide (prio ≤ c.prio)

/-- Of two launches of a partition, the first comes before the second: higher priority, then earlier (R95, R114). -/
def State.launchBefore (s : State) (a b : Launch) : Bool :=
  let prio := fun (l : Launch) => ((s.ctx? l.part l.ctxid).map (·.prio)).getD 0
  decide (prio b < prio a) ||
    prio a == prio b && (decide (a.ord < b.ord) || a.ord == b.ord && decide (a.lid < b.lid))

/-- The next group of a launch is placed next in its partition (R95, R117). -/
def State.placeNext (s : State) (l : Launch) : Bool :=
  s.placeable l && (s.placeFor l).isSome && ((s.ctx? l.part l.ctxid).any fun c => !s.savedFirst l.part c.prio) &&
    !s.launches.any fun o => o.part == l.part && s.launchBefore o l && s.placeable o && (s.placeFor o).isSome

/-- What can happen to a launch. -/
def State.launchEvents (s : State) (l : Launch) : List Ev :=
  onlyIf (s.phaseReady l) (.phaseStart l.lid) ++ onlyIf (s.placeNext l) (.groupPlace l.lid) ++
    onlyIf (s.decision l).isSome (.preemptionDecision l.lid) ++ onlyIf (s.overtime l) (.watchdog l.lid)

/-- Flush timers of a context that have run out (R122). -/
def Ctx.timerEvents (c : Ctx) (clk : Nat) : List Ev :=
  match c.graph with
  | some g =>
    if c.state == .running then
      (List.range g.nodes.length).flatMap fun i =>
        onlyIf ((g.nodes[i]?).any fun d => d.isDue clk) (.flushTimerExpire c.part c.ctxid i)
    else []
  | none => []

/-- What the graph walker can do for a context: go on reading a graph, or go on delivering arrivals (R119, R120). -/
def Ctx.walkerEvents (c : Ctx) : List Ev :=
  if c.state == .running then
    ((c.asks.filter fun a => a.waitReq.isNone).map fun a => .graphRead c.part c.ctxid a.ord) ++
      onlyIf (c.graph.any fun g => !g.todo.isEmpty) (.walk c.part c.ctxid)
  else []

/-- What can happen to a context. -/
def State.ctxEvents (s : State) (c : Ctx) : List Ev :=
  c.timerEvents s.clk ++ c.walkerEvents ++
    onlyIf (c.state == .preempting && s.censusesOver c && cardsOver (s.groupsOf c.part c.ctxid)) (.saveComplete c.part c.ctxid) ++
    onlyIf (c.state == .saved && (s.resumption c.part c.ctxid).isSome) (.resume c.part c.ctxid)

/-! ### Pages (R300, R305 to R307) -/

/-- What can happen to a page request. -/
def State.requestEvents (s : State) (part : Nat) (q : PageReq) : List Ev :=
  let room := ((s.funcs[s.fnOf part]?).map fun f => f.ringRoom).getD 0
  onlyIf (!q.posted && q.reason != 0 && decide (0 < room)) (.pageRequest part q.tag) ++
    onlyIf (q.reason == 0 && q.answer.isNone) (.expansionDone part q.tag)

/-- A partition has a page to compress and room is wanted (R306). -/
def State.wantsRoom (s : State) (part : Nat) (pt : Partition) : Bool :=
  decide (pt.freeFrames.length < pt.low) && !((s.agedPages part).filterMap (s.victimOf part pt)).isEmpty

/-- What can happen to a partition; a second is 700,000,000 a-clk (R7). Nothing does while the part is held in reset (R433). -/
def State.partEvents (s : State) (part : Nat) (pt : Partition) : List Ev :=
  if s.dev.heldInReset then []
  else
    pt.requests.flatMap (s.requestEvents part) ++
      onlyIf (decide (0 < pt.period ∧ pt.ageClk + pt.period * 700000000 ≤ s.clk)) (.ageingPeriod part) ++
      onlyIf (s.wantsRoom part pt) (.compressVictim part)

/-! ### Cores, ports, the device -/

/-- Overlay loads that a core can finish (R125). -/
def State.loadEvents (s : State) (core : Nat) (k : Core) : List Ev :=
  (List.range k.slots.length).flatMap fun i =>
    onlyIf (((k.slots.getD i none).any fun o => !o.loaded) && !s.loadWaits core i) (.overlayLoadDone core i)

/-- What slices can do with the requests of a core: accept the next to each home slice, or answer one (R313, R314). -/
def State.sliceEvents (s : State) (core : Nat) (k : Core) : List Ev :=
  (((k.queued.map (·.home)).eraseDups.filter fun h => (s.acceptNext core h).isSome).map fun h => .sliceAccept core h.1 h.2) ++
    ((List.range k.reqs.length).filter fun i => (k.reqs[i]?).any (·.accepted)).map (.sliceAnswer core ·)

/-- What can happen to the device itself (R428, R430). -/
def State.deviceEvents (s : State) : List Ev :=
  onlyIf s.replanDue .replanPeriod ++
    onlyIf (s.dev.boot.step == 6 && !s.dev.heldInReset && decide ((s.dev.scrubs + 1) * dayClk ≤ s.clk)) .scrub

/-- A list's members with their indices. -/
def withIndex {α : Type} : Nat → List α → List (Nat × α)
  | _, [] => []
  | n, x :: r => (n, x) :: withIndex (n + 1) r

/-- Every event of the part that can happen now. -/
def State.enabled (s : State) : List Ev :=
  s.groups.flatMap s.groupEvents ++ s.copies.flatMap s.copyEvents ++ s.fetches.flatMap s.fetchEvents ++
    s.censuses.flatMap s.censusEvents ++ s.launches.flatMap s.launchEvents ++ s.ctxs.flatMap s.ctxEvents ++
    (withIndex 0 s.parts).flatMap (fun p => s.partEvents p.1 p.2) ++
    (withIndex 0 s.cores).flatMap (fun p => s.loadEvents p.1 p.2 ++ s.sliceEvents p.1 p.2) ++
    (s.remotes.filter s.timedOut).map (fun o => .remoteTimeout o.rseq) ++ s.deviceEvents

end Sys2Proof.Machine
end

