-- ==== Sys2Proof/Machine/Sched.lean ====
section
/-!
DEFINITION. What happens next: the teams that are ready, the schedulers' choice among them (R163), the events of the part
that are enabled, and fetching an instruction word (R103, R125).
-/

namespace Sys2Proof.Machine

/-! ### Ready teams (R163) -/

/-- An instruction that is to be performed again whole keeps its team from going on (R180), and so does an unfinished
acquire (R144, R149). -/
def Team.mustReplay (t : Team) : Bool :=
  t.replay.any fun i => i.acq || match i.kind with
    | .whole => true
    | .rewrite => true
    | .spill => true
    | _ => false

/-- The team itself does not keep its next word from issuing. -/
def Team.canIssue (progress : Nat) (t : Team) : Bool :=
  t.started && !t.finished && !t.parked && !t.swPark && t.hold == .none && t.arrival == .none &&
    (t.heldAt != some progress || t.queueHeld) && !t.mustReplay

/-- The group's context runs and the group has started (R93, R133). -/
def State.mayRun (s : State) (g : Group) : Bool :=
  (g.state == .running || g.state == .draining) && (s.ctxOf g).any fun c => c.state == .running

/-- The team's copy commands have not all entered the engine, which holds it (R277). -/
def State.entering (s : State) (g : Group) (t : Team) : Bool :=
  s.copies.any fun c => c.state == .entering && c.uid == g.uid && c.tid == t.tid

/-- HINT.IMM, HINT.MOD and HINT.FMT join the prefix; HINT.STALL gives counts (R62, R64): the team as it stands at the word
that follows; none for an instruction that is no HINT word. -/
def Team.afterHint (t : Team) (w : Word) (i : Instr) : Option Team :=
  let t' := { t with pc := t.pc + 4 }
  match i with
  | .hintImm .. => some (t'.addHint w)
  | .hintMod .. => some (t'.addHint w)
  | .hintFmt .. => some (t'.addHint w)
  | .hintStall c4 c3 c2 c1 c0 => some { t' with stalls := [c0, c1, c2, c3, c4] }
  | _ => none

/-- The first a-clk at which interlocks and stall counts let the team's next instruction issue, behind at most `n` HINT words
(R64, R165). A prefix issues with its instruction (log entry 3). -/
def State.waitFrom (s : State) (g : Group) : Nat → Team → Nat
  | 0, _ => 0
  | n + 1, t =>
    match s.codeWord g t.pc with
    | none => 0
    | some w =>
      match decodeWord w with
      | .error _ => 0
      | .ok i =>
        match t.afterHint w i with
        | some t => s.waitFrom g n t
        | none => t.waitClk i (s.fusedWith g t w i)

/-- The instruction that a team issues next, behind at most `n` HINT words. -/
def State.nextInstr (s : State) (g : Group) : Nat → Team → Option Instr
  | 0, _ => none
  | n + 1, t =>
    match s.codeWord g t.pc with
    | none => none
    | some w =>
      match decodeWord w with
      | .error _ => none
      | .ok i =>
        match t.afterHint w i with
        | some t => s.nextInstr g n t
        | none => some i

/-- The a-clk after that of a team's hold in which an entry of its group's queues becomes visible, or a place falls free: what it
waits for may have come (R227, R228). -/
def Group.queueTurns (g : Group) (t : Team) : List Nat :=
  (g.queues.flatMap fun q => q.freeAt :: (q.entries.filter (·.complete)).map (·.since)).filter fun n => decide (t.heldClk < n)

/-- The first a-clk at which what held a team at issue may have ended: 0 where something has happened since, else that in which
its queues change; none where only an event can end it. -/
def State.holdClk (s : State) (g : Group) (t : Team) : Option Nat :=
  if t.heldAt != some s.progress then some 0 else (g.queueTurns t).min?

/-- The first a-clk after a YIELD in which the team may be ready (R163, R171). -/
def Team.yieldClk (t : Team) : Nat := if t.yielded then t.lastIssue + 2 else 0

/-- The first a-clk at which a team whose word waits for nothing else can issue. -/
def State.readyClk (s : State) (g : Group) (t : Team) : Nat :=
  max (s.waitFrom (g.forTeam t) 8 t) (max t.yieldClk ((s.holdClk g t).getD 0))

/-- A team whose next word could issue but for interlocks, stall counts, a YIELD and an entry's a-clk (R125, R163). -/
def State.nearReady (s : State) (g : Group) (t : Team) : Bool :=
  t.canIssue s.progress && (s.holdClk g t).isSome && s.mayRun g && !s.entering g t && (s.codeWord (g.forTeam t) t.pc).isSome

/-- A team whose next word can issue in this a-clk (R163). -/
def State.ready (s : State) (g : Group) (t : Team) : Bool :=
  s.nearReady g t && decide (s.readyClk g t ≤ s.clk)

/-- The least a-clk at which a team that waits for nothing but time can issue. -/
def State.nextClk (s : State) : Option Nat :=
  (s.groups.flatMap fun g => (g.teams.filter (s.nearReady g)).map (s.readyClk g)).min?

/-- The scheduler of a team: its execute partition, or 4 for the access processor (R161). -/
def Team.unit (t : Team) : Nat := if t.role = .access then 4 else t.part

/-- A team that may be chosen: its core and scheduler, its age and itself. -/
structure Candidate where
  core : Nat
  unit : Nat
  age  : Nat
  ref  : TeamRef
  deriving DecidableEq, Repr

/-- Every ready team. -/
def State.candidates (s : State) : List Candidate :=
  s.groups.flatMap fun g =>
    (g.teams.filter (s.ready g)).map fun t =>
      { core := g.core, unit := t.unit, age := t.age, ref := { uid := g.uid, tid := t.tid } }

/-- The candidate of least age. -/
def oldest : List Candidate → Option Candidate
  | [] => none
  | c :: r =>
    match oldest r with
    | some b => if c.age ≤ b.age then some c else some b
    | none => some c

/-- Two candidates of one scheduler. -/
def sameUnit (a b : Candidate) : Bool := a.core == b.core && a.unit == b.unit

/-- What the scheduler of a candidate has recorded. -/
def State.schedOf (s : State) (c : Candidate) : Option SchedRec := s.scheds.find? fun r => r.core == c.core && r.unit == c.unit

/-- Greedy-then-oldest (R163) among one scheduler's ready teams. -/
def State.greedyPick (s : State) (mine : List Candidate) (c : Candidate) : Candidate :=
  match s.schedOf c with
  | none => (oldest mine).getD c
  | some r =>
    match mine.find? fun x => x.ref == r.cur with
    | some x => if r.greed < 2048 then x else (oldest (mine.filter fun y => y.ref != r.cur)).getD x
    | none => (oldest mine).getD c

/-- One pick for each scheduler that has a ready team. -/
def State.picks (s : State) : List Candidate → List Candidate
  | [] => []
  | c :: r =>
    let rest := s.picks r
    if rest.any (sameUnit c) then rest else s.greedyPick (s.candidates.filter (sameUnit c)) c :: rest

/-- The context whose routing unit a candidate's next instruction reaches: it is a ROUTE operation (R400). -/
def State.routeCtx (s : State) (c : Candidate) : Option (Nat × Nat) :=
  match s.group? c.ref.uid with
  | none => none
  | some g =>
    match g.team? c.ref.tid with
    | none => none
    | some t => if (s.nextInstr (g.forTeam t) 8 t).any fun i => i.major == 0x1E then some (g.part, g.ctxid) else none

/-- A core of higher number has made a ROUTE operation of the candidate's context in this a-clk, and it is about to make one. -/
def State.routeLate (s : State) (c : Candidate) : Bool :=
  ((s.routeCtx c).bind fun k => s.ctx? k.1 k.2).any fun x => x.routeAt.any fun p => p.1 == s.clk && decide (c.core < p.2)

/-- The scheduler of a candidate has issued in this a-clk already. -/
def State.hasIssued (s : State) (c : Candidate) : Bool := (s.schedOf c).any fun r => r.clk == s.clk

/-- Of two picks of one core, the first issues before the second: schedulers that have not issued in this a-clk come first,
and among them the team of least age, the core order of R450. -/
def State.issuesBefore (s : State) (a b : Candidate) : Bool :=
  a.core == b.core &&
    ((!s.hasIssued a && s.hasIssued b) || (s.hasIssued a == s.hasIssued b && decide (a.age < b.age)))

/-- An issue now would come out of the core order within this a-clk (R450), would be a scheduler's second team in it (R163), or
would bring a ROUTE operation to its routing unit behind one of a later core (R400): it belongs to the next a-clk. -/
def State.tooLate (s : State) (c : Candidate) : Bool :=
  (s.scheds.any fun r => r.core == c.core && r.clk == s.clk && (decide (c.age < r.age) || (r.unit == c.unit && r.cur != c.ref))) ||
    s.routeLate c

/-- Of ROUTE operations of one context in one a-clk, that of the core of lower number comes first (R400). -/
def State.routesBefore (s : State) (a b : Candidate) : Bool :=
  decide (a.core < b.core) && (s.routeCtx b).isSome && s.routeCtx a == s.routeCtx b && (!s.tooLate a || s.tooLate b)

/-- The picks that may issue next: the first of each core (R450), and of ROUTE operations the first of their context. -/
def State.inOrder (s : State) (ps : List Candidate) : List Candidate :=
  ps.filter fun b => !ps.any fun a => s.issuesBefore a b || s.routesBefore a b

/-- The scheduler's record as it issues from a team: greed counts a-clk on, or starts again at another team or at the limit
(R163); a routing unit notes the a-clk and core of a ROUTE operation (R400). -/
def State.noteIssue (s : State) (c : Candidate) : State :=
  let now := if s.tooLate c then s.clk + 1 else s.clk
  let greed :=
    match s.schedOf c with
    | some r => if r.cur = c.ref ∧ r.clk = now then r.greed else if r.cur = c.ref ∧ r.greed < 2048 then r.greed + 1 else 1
    | none => 1
  { (match s.routeCtx c with
      | some k => s.modCtx k.1 k.2 fun x => { x with routeAt := some (now, c.core) }
      | none => s) with
    clk := now
    cur := some c.ref
    scheds := { core := c.core, unit := c.unit, cur := c.ref, age := c.age, greed := greed, clk := now } ::
      s.scheds.filter fun r => !(r.core == c.core && r.unit == c.unit) }

/-! ### Fetch (R103, R125) -/

/-- What a step does. -/
inductive Todo where
  | run (i : Instr) (s : State)
  | event (e : Ev) (s : State)
  | rest (s : State)
  deriving DecidableEq, Repr

/-- Marks the slot a word is issued from (R125). -/
def Core.touch (c : Core) (asid handle : Nat) (pc : Word) (now : Nat) : Core :=
  { c with slots := c.slots.map fun o =>
      match o with
      | some x =>
        if x.loaded && x.asid == asid && x.handle == handle && x.ovl == (pc.extractLsb' 16 8).toNat then
          some { x with lastUse := now }
        else some x
      | none => none }

/-- Fetches the next word of a team and decodes it; a word that decodes to nothing is ILLEGAL (R57, R58). -/
def State.fetchFrom (s : State) (r : TeamRef) : Todo :=
  match s.group? r.uid with
  | none => .rest s
  | some g =>
    match g.team? r.tid, s.ctxOf g with
    | some t, some c =>
      let g := g.forTeam t
      match s.codeWord g t.pc with
      | none => .rest s
      | some w =>
        let s := { s.modCore g.core (fun k => k.touch c.asid g.image t.pc s.steps) with iword := w }
        match decodeWord w with
        | .ok i => .run i s
        | .error _ => .rest (s.raiseTrap r trapIllegal (w.zeroExtend 64) t.prefixPc).moved
    | _, _ => .rest s

/-! ### The turn -/

/-- The things that can happen next. -/
inductive Turn where
  | team (c : Candidate)
  | event (e : Ev)
  deriving DecidableEq, Repr

/-- A team that has issued a prefix goes on with the word the prefix belongs to (R62), and one that has begun a fused
operation with its next word (R219). -/
def State.inPrefix (s : State) : Option Candidate :=
  s.candidates.find? fun c => ((s.team? c.ref).map fun t => !t.hints.isEmpty || t.fuse != 0).getD false

/-- Everything that can happen next: of each core the pick that issues first, and each event of the part that is enabled. -/
def State.turns (s : State) : List Turn :=
  match s.inPrefix with
  | some c => [.team c]
  | none => ((s.inOrder (s.picks s.candidates)).map .team) ++ s.enabled.map .event

/-- Nothing can happen: the clock goes on to where a team's interlocks and counts end. -/
def State.rested (s : State) : State := { s with clk := max s.clk (s.nextClk.getD 0) }

/-- After the issue of a step: a team that its word held was not ready (R163), so its scheduler has chosen nothing. -/
def State.afterIssue (before s : State) : State :=
  if (s.cur.bind s.team?).any fun t => t.heldAt == some s.progress then { s with scheds := before.scheds } else s

/-- What a step's issue comes to. -/
def afterExec (before : State) (o : Host.Outcome State Fault Refusal) : Host.Outcome State Fault Refusal :=
  match o with
  | .next s => .next (before.afterIssue s)
  | o => o

/-- The start of a step: the step's a-clk pass. -/
def State.begin (s : State) : State := { s with steps := s.steps + 1, clk := s.clk + Config.stepClocks s.steps }

/-- The turn that happens: the only one, or the one that the free choice of the step names (log entry 3). -/
def State.chosen (s : State) : Option Turn :=
  match s.turns with
  | [] => none
  | [t] => some t
  | ts => ts[Config.turn s.steps % ts.length]?

/-- What this step does: an input that stands on the agenda comes first. -/
def State.plan (s : State) : Todo :=
  let s := s.begin
  match s.agenda with
  | some i :: rest => .run i { s with agenda := rest, cur := none }
  | _ =>
    let s := { s with agenda := s.agenda.drop 1 }
    match s.chosen with
    | none => .rest { s.rested with cur := none }
    | some (.event e) => .event e { s with cur := none }
    | some (.team c) => (s.noteIssue c).fetchFrom c.ref

end Sys2Proof.Machine
end

