-- ==== Sys2Proof/Machine/Step.lean ====
section
/-!
DEFINITION. One step of the machine: an input from outside, the issue of one instruction word, an event of the part, or the
passing of time.
-/

namespace Sys2Proof.Machine

/-- One step (log entry 3). -/
def step (s : State) : Host.Outcome State Fault Refusal :=
  match s.plan with
  | .run i u => afterExec s (exec i u)
  | .event e u => e.run u
  | .rest u => .next u

/-- The state with an instruction word where `step` fetches next. A program is loaded from outside the machine, by IMAGE_LOAD
and a launch; this stands for that load (log entry 18). -/
def State.withFetchWord (s : State) (nbits w : Nat) : State :=
  let w := BitVec.ofNat 32 (w % 2 ^ nbits)
  s.placed (placedRole w instrRoleOk) w

end Sys2Proof.Machine
end

