-- ==== Sys2Proof/Safety.lean ====
section
/-!
DEFINITION. The terms that claims use: what a safe state is, when an instruction word issues, and what a completed word leaves
of the rest of the machine.
-/

namespace Sys2Proof

open Sys2Proof.Machine

/-- Device memory, host memory, every scratchpad and every compressed page is in the canonical form. -/
def Safe (s : State) : Prop :=
  Memory.wf s.mem = true ∧ Memory.wf s.hostMem = true ∧ (∀ g ∈ s.groups, Memory.wf g.pad = true) ∧
    ∀ p ∈ s.parts, ∀ r ∈ p.comp, Memory.wf r.data = true

/-- The issue of a word: the current team, its group and the clock at issue, where every check of R57 passes before the
instruction's own checks; none where it does not issue. -/
def issueOf (i : Instr) (s : State) : Option Iss :=
  match s.cur with
  | none => none
  | some r =>
    match s.group? r.uid with
    | none => none
    | some g =>
      match g.team? r.tid with
      | none => none
      | some t =>
        match issueFault s (g.forTeam t) t i with
        | some _ => none
        | none => some { s := s.issueClk (g.forTeam t) t i, r := r, g := g.forTeam t, t := t }

/-- Two teams differ at most in what every issued word changes: the pc, loop counters and open loop levels (R176), the
prefix (R62), stall counts and STALLFIX (R64), latencies (R165), SRCNT (R191), the marker's park (R164), the words left of a
fused operation (R219), the team's instruction number, and notes of holds and YIELD (R163, R245). -/
def SameButIssue (u v : Team) : Prop :=
  v = { u with
    pc := v.pc, lc := v.lc, loops := v.loops, hints := v.hints, stalls := v.stalls, stallfix := v.stallfix
    lastIssue := v.lastIssue, readyAt := v.readyAt, srcnt := v.srcnt, swPark := v.swPark, heldAt := v.heldAt
    queueHeld := v.queueHeld, lodHeld := v.lodHeld, yielded := v.yielded, fuse := v.fuse, seqNo := v.seqNo }

/-- What moving on makes of the issuing team, where no branch is taken: the word at `pc` was issued, its prefix is used up, and
the next word is the one that follows, or the start of a loop body that goes round again; loop counters and levels are as
the end-of-body rule leaves them (R62, R176). -/
def Continues (pc : Word) (u v : Team) : Prop :=
  SameButIssue u v ∧ v.hints = [] ∧ v.heldAt = none ∧ v.seqNo = u.seqNo + 1 ∧
    v.pc = ((u.loopEnd pc).2.getD (pc + 4)) ∧ v.lc = (u.loopEnd pc).1.lc ∧ v.loops = (u.loopEnd pc).1.loops

/-- The same, where the word sends the team to a code address: loop counters and levels stay, and the stall counts end (R64). -/
def Goes (target : Word) (u v : Team) : Prop :=
  SameButIssue u v ∧ v.hints = [] ∧ v.heldAt = none ∧ v.seqNo = u.seqNo + 1 ∧ v.pc = target ∧ v.lc = u.lc ∧ v.loops = u.loops ∧
    v.stalls = []

/-- `t` is `s` after a word that changed the issuing team alone, into `u` but for its moving on: every other team, group,
context, core, table, queue of work and every byte of memory is as before. The clock is that of the issue. -/
def TeamStep (s t : State) (x : Iss) (u : Team) : Prop :=
  ∃ v : Team, Continues x.t.pc u v ∧ t = { s.modTeam x.r (fun _ => v) with clk := x.s.clk, progress := s.progress + 1 }

/-- The same, where the word sends the team to a code address. -/
def TeamStepAt (s t : State) (x : Iss) (u : Team) (pc : Word) : Prop :=
  ∃ v : Team, Goes pc u v ∧ t = { s.modTeam x.r (fun _ => v) with clk := x.s.clk, progress := s.progress + 1 }

/-- `t` is what `u` becomes as the word of an issue completes: the issuing team moves on, as `Continues` says. -/
def MovesOn (u t : State) (x : Iss) : Prop :=
  ∃ f : Team → Team, (∀ a, Continues x.t.pc a (f a)) ∧ t = { u.modTeam x.r f with progress := u.progress + 1 }

/-- The same, where the word sends the team to a code address. -/
def MovesTo (u t : State) (x : Iss) (pc : Word) : Prop :=
  ∃ f : Team → Team, (∀ a, Goes pc a (f a)) ∧ t = { u.modTeam x.r f with progress := u.progress + 1 }

/-- The issue of a releasing word once every store of the team is performed (R258): none where one cannot be, and the team is
held or its context has ended. -/
def releasedBy (x : Iss) : Option Iss :=
  let s := x.written
  match s.group? x.r.uid with
  | none => none
  | some g =>
    match g.team? x.r.tid with
    | none => none
    | some t => if t.performed then some { x with s := s, g := g.forTeam t, t := t } else none

end Sys2Proof
end

