-- ==== Sys2Proof/Certificates/Slice0/Obligations.lean ====
section
/-!
DEFINITION. The statements about this machine that are to be proved, and the tables in the manual's own terms that they use.
-/

namespace Sys2Proof.Claim

open Sys2Proof.Machine

/-! ### Integer words (R193 to R198) -/

/-- The destination of the integer words that write a v, a or s register. -/
def intDest : Instr → Option RegField
  | .iadd d _ _ => some d
  | .isub d _ _ => some d
  | .imul d _ _ => some d
  | .imulh d _ _ => some d
  | .imulhn d _ _ => some d
  | .imin d _ _ => some d
  | .imax d _ _ => some d
  | .nmin d _ _ => some d
  | .nmax d _ _ => some d
  | .iand d _ _ => some d
  | .ior d _ _ => some d
  | .ixor d _ _ => some d
  | .andn d _ _ => some d
  | .shl d _ _ => some d
  | .shr d _ _ => some d
  | .sar d _ _ => some d
  | .iabs d _ => some d
  | .ineg d _ => some d
  | .inot d _ => some d
  | .popc d _ => some d
  | .clz d _ => some d
  | .brev d _ => some d
  | .bfe d _ _ => some d
  | .bfi d _ _ => some d
  | .isel d _ _ => some d
  | .imad d _ _ => some d
  | .iaddi d _ _ => some d
  | .andi d _ _ => some d
  | .ori d _ _ => some d
  | .xori d _ _ => some d
  | .shli d _ _ => some d
  | .shri d _ _ => some d
  | .sari d _ _ => some d
  | _ => none

/-- The exact signed result of the words that can overflow (R194, R196, R197), before it is cut to 32 bits. -/
def intExact (t : Team) (l : Nat) : Instr → Option Int
  | .iadd _ a b => some ((t.reg32 a l).toInt + (t.reg32 b l).toInt)
  | .isub _ a b => some ((t.reg32 a l).toInt - (t.reg32 b l).toInt)
  | .imul _ a b => some ((t.reg32 a l).toInt * (t.reg32 b l).toInt)
  | .imad d a b => some ((t.reg32 a l).toInt * (t.reg32 b l).toInt + (t.reg32 d l).toInt)
  | .iabs _ a => some ((t.reg32 a l).toInt.natAbs : Int)
  | .ineg _ a => some (-(t.reg32 a l).toInt)
  | .iaddi _ a i => some ((t.reg32 a l).toInt + (t.imm32 8 i.toNat).toInt)
  | _ => none

/-- The fields of BFE and BFI: position and length (R196). -/
def fieldPos (b : Word) : Nat := b.toNat % 256
def fieldLen (b : Word) : Nat := min (b.toNat / 256 % 256) 32

/-- The result of an integer word in one lane (R194, R196, R197). -/
def intValue (t : Team) (i : Instr) (l : Nat) : Word :=
  let v := fun f => t.reg32 f l
  match intExact t l i with
  | some e => BitVec.ofInt 32 e
  | none =>
    match i with
    | .imulh _ a b => BitVec.ofInt 32 ((v a).toInt * (v b).toInt / 2 ^ 32)
    | .imulhn _ a b => BitVec.ofNat 32 ((v a).toNat * (v b).toNat / 2 ^ 32)
    | .imin _ a b => BitVec.ofInt 32 (min (v a).toInt (v b).toInt)
    | .imax _ a b => BitVec.ofInt 32 (max (v a).toInt (v b).toInt)
    | .nmin _ a b => BitVec.ofNat 32 (min (v a).toNat (v b).toNat)
    | .nmax _ a b => BitVec.ofNat 32 (max (v a).toNat (v b).toNat)
    | .iand _ a b => v a &&& v b
    | .ior _ a b => v a ||| v b
    | .ixor _ a b => v a ^^^ v b
    | .andn _ a b => v a &&& ~~~(v b)
    | .shl _ a b => BitVec.ofNat 32 ((v a).toNat * 2 ^ ((v b).toNat % 256))
    | .shr _ a b => BitVec.ofNat 32 ((v a).toNat / 2 ^ ((v b).toNat % 256))
    | .sar _ a b => BitVec.ofInt 32 ((v a).toInt / 2 ^ ((v b).toNat % 256))
    | .inot _ a => ~~~(v a)
    | .popc _ a => BitVec.ofNat 32 ((List.range 32).countP fun k => (v a).getLsbD k)
    | .clz _ a => BitVec.ofNat 32 (32 - Nat.size (v a).toNat)
    | .brev _ a => BitVec.ofFnLE fun k : Fin 32 => (v a).getLsbD (31 - k)
    | .bfe _ a b =>
      let f := (v a).toNat / 2 ^ fieldPos (v b) % 2 ^ fieldLen (v b)
      if (v b).getLsbD 16 = true ∧ 0 < fieldLen (v b) then BitVec.ofInt 32 (Int.bmod f (2 ^ fieldLen (v b))) else BitVec.ofNat 32 f
    | .bfi d a b =>
      BitVec.ofFnLE fun k : Fin 32 =>
        if fieldPos (v b) ≤ k.val ∧ k.val < fieldPos (v b) + fieldLen (v b) then (v a).getLsbD (k.val - fieldPos (v b))
        else (v d).getLsbD k.val
    | .isel d a p => if t.pred p.toNat l then v a else v d
    | .andi _ a n => v a &&& t.imm32 8 n.toNat
    | .ori _ a n => v a ||| t.imm32 8 n.toNat
    | .xori _ a n => v a ^^^ t.imm32 8 n.toNat
    | .shli _ a n => BitVec.ofNat 32 ((v a).toNat * 2 ^ t.immU 8 n.toNat)
    | .shri _ a n => BitVec.ofNat 32 ((v a).toNat / 2 ^ t.immU 8 n.toNat)
    | .sari _ a n => BitVec.ofInt 32 ((v a).toInt / 2 ^ t.immU 8 n.toNat)
    | _ => 0

/-- An integer word overflows in a lane: its exact result does not fit 32 signed bits (R194, R196). -/
def intOver (t : Team) (i : Instr) (l : Nat) : Bool :=
  match intExact t l i with
  | some e => decide (e < -2 ^ 31 ∨ 2 ^ 31 ≤ e)
  | none => false

/-! ### Predicates and addresses (R192, R196, R197, R199, R203) -/

/-- The predicate that a comparing word writes: its number and its value in each lane (R192, R196, R197, R199). -/
def comparison (t : Team) : Instr → Option (BitVec 3 × (Nat → Bool))
  | .icmp c p a b => some (p, fun l => condHolds c (t.reg32 a l) (t.reg32 b l))
  | .icmpi c p a i => some (p, fun l => condHolds c (t.reg32 a l) (t.imm32 8 i.toNat))
  | .acmp c p a b => some (p, fun l => condHolds c (t.reg a l) (t.reg b l))
  | _ => none

/-- The 64-bit result of an address word, of MOV and of MOVI: destination and value in each lane, modulo 2^64 (R196, R198,
R199). -/
def wideResult (t : Team) : Instr → Option (RegField × (Nat → DWord))
  | .aadd d a b => some (d, fun l => BitVec.ofNat 64 ((t.reg a l).toNat + (t.reg b l).toNat))
  | .asub d a b => some (d, fun l => BitVec.ofInt 64 ((t.reg a l).toInt - (t.reg b l).toInt))
  | .amov d a b => some (d, fun _ => BitVec.ofNat 64 ((t.sreg b).toNat * 2 ^ 32 + (t.sreg a).toNat))
  | .acvt d a k => some (d, fun l =>
      let x := (t.reg a l).toNat
      match k.toNat with
      | 0 => BitVec.ofInt 64 (Int.bmod (x % 2 ^ 32 : Nat) (2 ^ 32))
      | 1 => BitVec.ofNat 64 (x % 2 ^ 32)
      | 2 => BitVec.ofInt 64 (Int.bmod (x % 2 ^ 16 : Nat) (2 ^ 16))
      | 3 => BitVec.ofNat 64 (x % 2 ^ 16)
      | 4 => BitVec.ofInt 64 (Int.bmod (x % 2 ^ 8 : Nat) (2 ^ 8))
      | _ => BitVec.ofNat 64 (x % 2 ^ 8))
  | .ashladd d a b h => some (d, fun l => BitVec.ofNat 64 ((t.reg a l).toNat + (t.reg b l).toNat * 2 ^ h.toNat))
  | .movc d a => some (d, t.reg a)
  | .movi d i => some (d, fun _ => BitVec.ofInt 64 (t.immS 18 i.toNat))
  | _ => none

/-! ### Numbers and rounding (R24 to R40) -/

/-- Bits of the exponent and of the mantissa, and the bias, of a floating-point format (R24). -/
def fields : Fmt → ℕ × ℕ × ℤ
  | .fp32 => (8, 23, 127)
  | .bf16 => (8, 7, 127)
  | .fp16 => (5, 10, 15)
  | .e5m2 => (5, 2, 15)
  | _ => (4, 3, 7)

/-- The patterns, without a sign, of the largest finite value, of infinity and of the canonical NaN (R25). E4M3 has no infinity:
its largest value stands for it (R34). -/
def limits : Fmt → ℕ × ℕ × ℕ
  | .fp32 => (0x7F7FFFFF, 0x7F800000, 0x7FC00000)
  | .bf16 => (0x7F7F, 0x7F80, 0x7FC0)
  | .fp16 => (0x7BFF, 0x7C00, 0x7E00)
  | .e5m2 => (0x7B, 0x7C, 0x7E)
  | _ => (0x7E, 0x7E, 0x7F)

/-- The sign bit's weight, and with it the sign and the rest of a pattern. -/
def signWeight (f : Fmt) : ℕ := 2 ^ ((fields f).1 + (fields f).2.1)
def negative (f : Fmt) (p : ℕ) : Bool := decide (p / signWeight f % 2 = 1)
def body (f : Fmt) (p : ℕ) : ℕ := p % signWeight f
def signed (f : Fmt) (neg : Bool) (b : ℕ) : ℕ := if neg = true then signWeight f + b else b

/-- A pattern's class (R25): a NaN, a signalling NaN, an infinity; any other is a number. -/
def nanPat (f : Fmt) (p : ℕ) : Bool := decide ((limits f).2.1 < body f p)
def signals (f : Fmt) (p : ℕ) : Bool :=
  nanPat f p && decide (f ≠ .e4m3 ∧ body f p % 2 ^ (fields f).2.1 < 2 ^ ((fields f).2.1 - 1))
def infPat (f : Fmt) (p : ℕ) : Bool := decide (f ≠ .e4m3 ∧ body f p = (limits f).2.1)

/-- The magnitude of a pattern that is a number (R24), and its value with the sign. -/
noncomputable def magnitude (f : Fmt) (p : ℕ) : ℝ :=
  let (_, man, bias) := fields f
  let ex := body f p / 2 ^ man
  let frac := body f p % 2 ^ man
  if ex = 0 then frac * 2 ^ (1 - bias - man) else ((2 ^ man + frac : ℕ) : ℝ) * 2 ^ (ex - bias - man)
noncomputable def number (f : Fmt) (p : ℕ) : ℝ := if negative f p = true then -magnitude f p else magnitude f p

/-- A NaN as a result (R26): quieted, its sign and payload kept; canonical with its sign in the formats of 8 bits. -/
def quieted (f : Fmt) (p : ℕ) : ℕ :=
  if f = .e4m3 ∨ f = .e5m2 then signed f (negative f p) (limits f).2.2
  else if signals f p = true then p + 2 ^ ((fields f).2.1 - 1) else p

/-- The NaN rule of R26: the first operand that is one, with NV where any operand signals. -/
def firstNaN (f : Fmt) (ops : List ℕ) : Option (ℕ × Flags) :=
  (ops.find? (nanPat f)).map fun p => (quieted f p, if ops.any (signals f) = true then flagNV else 0)

/-- An invalid operation (R26). -/
def invalid (f : Fmt) : ℕ × Flags := ((limits f).2.2, flagNV)

/-- A magnitude of q units rounds up (R33, R35): RNE above the half and, at it, from an odd last bit; RU and RD by the sign; SR
where the first 16 bits below the unit and the draw reach 2^16. -/
def roundsUp (r : Rounding) (neg : Bool) (q : ℝ) : Prop :=
  match r.mode with
  | .rne => 1 / 2 < Int.fract q ∨ (Int.fract q = 1 / 2 ∧ ⌊q⌋₊ % 2 = 1)
  | .rz => False
  | .ru => neg = false ∧ Int.fract q ≠ 0
  | .rd => neg = true ∧ Int.fract q ≠ 0
  | .sr => 65536 ≤ ⌊Int.fract q * 65536⌋₊ + r.rnd

/-- The whole number of units that q units round to. -/
def RoundsTo (r : Rounding) (neg : Bool) (q : ℝ) (n : ℕ) : Prop :=
  (roundsUp r neg q → n = ⌊q⌋₊ + 1) ∧ (¬roundsUp r neg q → n = ⌊q⌋₊)

/-- What an overflow delivers (R34). -/
def overflowed (f : Fmt) (r : Rounding) (neg : Bool) : ℕ :=
  let largest := signed f neg (limits f).1
  let infinite := signed f neg (limits f).2.1
  if r.sat = true then largest
  else
    match r.mode, neg with
    | .rz, _ => largest
    | .ru, true => largest
    | .rd, false => largest
    | _, _ => infinite

/-- Round(±x, F, m) of R33 to R35 with the flags of R30, R33 and R34. The magnitude is rounded to the units of its binade, or of
the subnormals where it is smaller. A result above the largest value overflows. Any other is a pattern of that value and sign;
it sets NX where it differs from x, and UF too where x, rounded as if the exponent had no bound below, is less than the
smallest normal value. -/
def Rounds (f : Fmt) (r : Rounding) (neg : Bool) (x : ℝ) (out : ℕ × Flags) : Prop :=
  let (_, man, bias) := fields f
  let unit : ℤ := max (Int.log 2 x) (1 - bias) - man
  let free : ℤ := Int.log 2 x - man
  ∀ n k : ℕ, RoundsTo r neg (x / 2 ^ unit) n → RoundsTo r neg (x / 2 ^ free) k →
    let y : ℝ := n * 2 ^ unit
    (magnitude f (limits f).1 < y → out = (overflowed f r neg, flagOF ||| flagNX)) ∧
    (y ≤ magnitude f (limits f).1 →
      out.1 < 2 * signWeight f ∧ body f out.1 ≤ (limits f).1 ∧ negative f out.1 = neg ∧ magnitude f out.1 = y ∧
      (y = x → out.2 = 0) ∧ (y ≠ x → 2 ^ (1 - bias) ≤ (k : ℝ) * 2 ^ free → out.2 = flagNX) ∧
      (y ≠ x → (k : ℝ) * 2 ^ free < 2 ^ (1 - bias) → out.2 = flagNX ||| flagUF))

/-- An exact sum x, rounded (R201); `zneg` is the sign of an exact zero. -/
def SumRounds (f : Fmt) (r : Rounding) (x : ℝ) (zneg : Bool) (out : ℕ × Flags) : Prop :=
  (0 < x → Rounds f r false x out) ∧ (x < 0 → Rounds f r true (-x) out) ∧ (x = 0 → out = (signed f zneg 0, 0))

/-- FADD and FSUB of R201 in a format, FSUB with B's sign inverted. -/
def SumRule (f : Fmt) : Prop :=
  ∀ (r : Rounding) (sub : Bool) (a b : ℕ), r.rnd < 65536 → a < 2 * signWeight f → b < 2 * signWeight f →
    let b' := if sub = true then signed f (!negative f b) (body f b) else b
    let out := addBits f r sub a b
    (∀ n, firstNaN f [a, b] = some n → out = n) ∧
    (firstNaN f [a, b] = none →
      (infPat f a = true → infPat f b = true → negative f a ≠ negative f b' → out = invalid f) ∧
      (infPat f a = true → (infPat f b = true → negative f a = negative f b') → out = (a, 0)) ∧
      (infPat f a = false → infPat f b = true → out = (b', 0)) ∧
      (infPat f a = false → infPat f b = false → SumRounds f r (number f a + number f b')
        (if body f a = 0 ∧ body f b = 0 ∧ negative f a = negative f b' then negative f a else decide (r.mode = .rd)) out))

/-- FMUL of R201 in a format. -/
def ProductRule (f : Fmt) : Prop :=
  ∀ (r : Rounding) (a b : ℕ), r.rnd < 65536 → a < 2 * signWeight f → b < 2 * signWeight f →
    let neg := negative f a != negative f b
    let out := mulBits f r a b
    (∀ n, firstNaN f [a, b] = some n → out = n) ∧
    (firstNaN f [a, b] = none →
      ((infPat f a = true ∧ body f b = 0) ∨ (body f a = 0 ∧ infPat f b = true) → out = invalid f) ∧
      (infPat f a = true ∨ infPat f b = true → body f a ≠ 0 → body f b ≠ 0 → out = (signed f neg (limits f).2.1, 0)) ∧
      (infPat f a = false → infPat f b = false → Rounds f r neg (magnitude f a * magnitude f b) out))

/-- FFMA of R201 in a format: A × B + C rounded once. 0 × ∞ sets NV even where C is a quiet NaN, which it then delivers. -/
def FusedRule (f : Fmt) : Prop :=
  ∀ (r : Rounding) (a b c : ℕ), r.rnd < 65536 → a < 2 * signWeight f → b < 2 * signWeight f → c < 2 * signWeight f →
    let neg := negative f a != negative f b
    let zeroInf := (infPat f a && body f b == 0) || (body f a == 0 && infPat f b)
    let infinite := infPat f a || infPat f b
    let out := fmaBits f r a b c
    (∀ n, firstNaN f [a, b, c] = some n → out = (n.1, if zeroInf = true then flagNV else n.2)) ∧
    (firstNaN f [a, b, c] = none →
      (zeroInf = true → out = invalid f) ∧
      (zeroInf = false → infinite = true → (infPat f c = true → negative f c = neg) → out = (signed f neg (limits f).2.1, 0)) ∧
      (zeroInf = false → infinite = true → infPat f c = true → negative f c ≠ neg → out = invalid f) ∧
      (infinite = false → infPat f c = true → out = (c, 0)) ∧
      (infinite = false → infPat f c = false → SumRounds f r (number f a * number f b + number f c)
        (if (body f a = 0 ∨ body f b = 0) ∧ body f c = 0 ∧ negative f c = neg then neg else decide (r.mode = .rd)) out))

/-- FSCALE of R201: zeros, infinities and quiet NaNs pass, whatever n is. -/
def ScaleRule : Prop :=
  ∀ (r : Rounding) (a : ℕ) (n : ℤ), r.rnd < 65536 → a < 2 ^ 32 →
    (∀ q, firstNaN .fp32 [a] = some q → scaleBits r a n = q) ∧
    (infPat .fp32 a = true ∨ body .fp32 a = 0 → scaleBits r a n = (a, 0)) ∧
    (nanPat .fp32 a = false → infPat .fp32 a = false →
      Rounds .fp32 r (negative .fp32 a) (magnitude .fp32 a * 2 ^ n) (scaleBits r a n))

/-- The place of a pattern in the total order of R40. -/
def rank (f : Fmt) (p : ℕ) : ℤ := if negative f p = true then -(body f p : ℤ) - 1 else body f p

/-- FMIN and FMAX of R202 in a format. -/
def MinMaxRule (f : Fmt) : Prop :=
  ∀ (a b : ℕ), a < 2 * signWeight f → b < 2 * signWeight f →
    let nv : Flags := if signals f a = true ∨ signals f b = true then flagNV else 0
    (nanPat f a = true → nanPat f b = true → ∀ m, minMaxBits f m a b = (quieted f a, nv)) ∧
    (nanPat f a = true → nanPat f b = false → ∀ m, minMaxBits f m a b = (b, nv)) ∧
    (nanPat f a = false → nanPat f b = true → ∀ m, minMaxBits f m a b = (a, nv)) ∧
    (nanPat f a = false → nanPat f b = false →
      minMaxBits f false a b = (if rank f b < rank f a then b else a, 0) ∧
      minMaxBits f true a b = (if rank f a < rank f b then b else a, 0))

/-- ToKey of R40 and the words that compare by it (R202): keys are ranks, and ranks of numbers follow their values, −0 below +0. -/
def KeyRule : Prop :=
  (∀ p : Word, ((toKey p).toNat : ℤ) = 2 ^ 31 + rank .fp32 p.toNat) ∧
  (∀ a b : Word, minKey a b = (if rank .fp32 b.toNat < rank .fp32 a.toNat then b else a) ∧
    maxKey a b = if rank .fp32 a.toNat < rank .fp32 b.toNat then b else a) ∧
  ∀ (f : Fmt) (a b : ℕ), body f a ≤ (limits f).1 → body f b ≤ (limits f).1 →
    (rank f a < rank f b ↔ number f a < number f b ∨
      (body f a = 0 ∧ body f b = 0 ∧ negative f a = true ∧ negative f b = false))

/-- The grain generator of R39, and its 16 bits for stochastic rounding. -/
def grains : ℕ → ℕ → ℕ
  | 0, x => x
  | n + 1, x =>
    let x := (x ^^^ x / 2 ^ 31) * 0xA3C59AC25F1B6D27 % 2 ^ 64
    let x := (x ^^^ x / 2 ^ 27) * 0x8F3ED5B12C497A63 % 2 ^ 64
    grains n (x ^^^ x / 2 ^ 33)
def draw (row col seed : ℕ) : ℕ := grains 3 ((row * 2 ^ 32 + col) ^^^ (seed ^^^ 2 ^ 63)) / 2 ^ 48

/-- How a lane's result is rounded (R191): in the mode that HINT.MOD names where its RM is not zero, else in RMODE's; under SR with
the draw of the lane's coordinates. -/
def RoundingRule : Prop :=
  ∀ (x : Iss) (sat : Bool) (l h : ℕ), l < 1024 → x.t.teamId < 64 → h < 2 →
    let r := x.rounding sat l h
    r.sat = sat ∧ r.rnd < 65536 ∧
    (∀ p, x.t.hint? 2 = some p → modRM p ≠ 0 → r.mode = modeOfCode (modRM p - 1)) ∧
    ((∀ p, x.t.hint? 2 = some p → modRM p = 0) → r.mode = modeOfCode (x.t.rmode.toNat % 8)) ∧
    (r.mode = .sr → r.rnd = draw (x.g.gid % 65536 * 65536 + x.t.teamId * 1024 + l) (x.t.srcnt.toNat * 2 + h) x.t.dropseed.toNat)

/-- The special operands of R208: result and flags. -/
def sfuSpecial (op : SfuOp) (p : ℕ) : Option (ℕ × Flags) :=
  let inf := 0x7F800000
  let minus := 0x80000000
  if op = .rcp then
    if body .fp32 p = 0 then some (p + inf, 0) else if body .fp32 p = inf then some (p - inf, 0) else none
  else if op = .rsq then
    if p = 0 then some (inf, 0) else if p = minus then some (minus + inf, 0) else if p = inf then some (0, 0)
    else if minus < p then some (0x7FC00000, flagNV) else none
  else if op = .sqrt then
    if body .fp32 p = 0 ∨ p = inf then some (p, 0) else if minus < p then some (0x7FC00000, flagNV) else none
  else if op = .exp2 then
    if p = minus + inf then some (0, 0) else if p = inf then some (inf, 0)
    else if body .fp32 p = 0 then some (0x3F800000, 0) else none
  else if op = .log2 then
    if body .fp32 p = 0 then some (minus + inf, 0) else if p = inf then some (inf, 0) else if p = 0x3F800000 then some (0, 0)
    else if minus < p then some (0x7FC00000, flagNV) else none
  else if op = .sin ∨ op = .cos then
    if body .fp32 p = 0 then some (if op = .sin then p else 0x3F800000, 0)
    else if body .fp32 p = inf then some (0x7FC00000, flagNV) else none
  else if body .fp32 p = 0 then some (p, 0)
  else if body .fp32 p = inf then some (p - inf + 0x3F800000, 0) else none

/-- The special functions of R207 and R208: the NaN rule, the special operands, and the correctly rounded reciprocal, roots, and
powers and logarithms of 2 that are whole. -/
def SpecialRule : Prop :=
  ∀ (r : Rounding) (a : ℕ), r.rnd < 65536 → a < 2 ^ 32 →
    (∀ op q, firstNaN .fp32 [a] = some q → sfuBits op r a = q) ∧
    (∀ op q, nanPat .fp32 a = false → sfuSpecial op a = some q → sfuBits op r a = q) ∧
    (nanPat .fp32 a = false → infPat .fp32 a = false → body .fp32 a ≠ 0 →
      let x := magnitude .fp32 a
      Rounds .fp32 r (negative .fp32 a) (1 / x) (sfuBits .rcp r a) ∧
      (negative .fp32 a = false → Rounds .fp32 r false (√x) (sfuBits .sqrt r a) ∧
        Rounds .fp32 r false (1 / √x) (sfuBits .rsq r a)) ∧
      (∀ k : ℤ, k.natAbs < 256 → number .fp32 a = k → Rounds .fp32 r false (2 ^ k) (sfuBits .exp2 r a)) ∧
      ∀ k : ℤ, negative .fp32 a = false → x = 2 ^ k → Rounds .fp32 r (decide (k < 0)) |(k : ℝ)| (sfuBits .log2 r a))

/-- A NaN carried from a format to another (R26, R36): its sign, and its payload cut or extended at the right, quiet; canonical with
that sign to and from E4M3, whose NaN has no payload, and to E5M2. -/
def nanTo (fa fd : Fmt) (p : ℕ) : ℕ :=
  let ma := (fields fa).2.1
  let md := (fields fd).2.1
  signed fd (negative fa p)
    (if fa = .e4m3 ∨ fd = .e4m3 ∨ fd = .e5m2 then (limits fd).2.2
    else (limits fd).2.1 + 2 ^ (md - 1) + body fa p % 2 ^ ma * 2 ^ md / 2 ^ ma % 2 ^ (md - 1))

/-- The range of an integer format, and an integer as its pattern (R23). -/
def intRange (f : Fmt) : ℤ × ℤ := if f = .int8 then (-2 ^ 7, 2 ^ 7 - 1) else (-2 ^ 31, 2 ^ 31 - 1)
def intPat (f : Fmt) (v : ℤ) : ℕ := if f = .int8 then (BitVec.ofInt 8 v).toNat else (BitVec.ofInt 32 v).toNat

/-- Conversion of a float (R36, R28). -/
def ConvertsFloat (fa fd : Fmt) (r : Rounding) (p : ℕ) (out : ℕ × Flags) : Prop :=
  let neg := negative fa p
  let nv : Flags := if signals fa p = true then flagNV else 0
  if fmtIsFloat fd = true then
    (nanPat fa p = true → out = (nanTo fa fd p, nv)) ∧
    (infPat fa p = true → out = if fd = .e4m3 ∨ r.sat = true then (signed fd neg (limits fd).1, flagOF) else (signed fd neg (limits fd).2.1, 0)) ∧
    (nanPat fa p = false → infPat fa p = false → Rounds fd r neg (magnitude fa p) out)
  else if fd = .e8m0 then
    let e := Int.log 2 (magnitude fa p)
    (nanPat fa p = true ∨ infPat fa p = true → out = (255, flagNV)) ∧
    (body fa p = 0 → out = (0, flagNX ||| flagUF)) ∧
    (nanPat fa p = false → infPat fa p = false → body fa p ≠ 0 →
      out.1 = (max (-127) (min e 127) + 127).toNat ∧
      out.2 = (if magnitude fa p = 2 ^ e then 0 else flagNX) ||| if e < -127 then flagUF else 0)
  else
    let (lo, hi) := intRange fd
    (nanPat fa p = true → out = (0, flagNV)) ∧
    (infPat fa p = true → out = (intPat fd (if neg = true then lo else hi), flagNV)) ∧
    (nanPat fa p = false → infPat fa p = false → ∀ n : ℕ, RoundsTo r neg (magnitude fa p) n →
      let v : ℤ := if neg = true then -n else n
      (v < lo → out = (intPat fd lo, flagNV)) ∧ (hi < v → out = (intPat fd hi, flagNV)) ∧
      (lo ≤ v → v ≤ hi → out = (intPat fd v, if (n : ℝ) = magnitude fa p then 0 else flagNX)))

/-- The conversions of R36 and R28 that a format record may name, and the widening of R40. That zero sets NX beside UF on its way to
E8M0 is log entry 39 (DEDUCED). -/
def ConvertRule : Prop :=
  (∀ (f : Fmt) (r : Rounding) (p : ℕ), convBits f f r p = (p % 2 ^ fmtBits f, 0)) ∧
  (∀ (fa fd : Fmt) (r : Rounding) (p : ℕ), r.rnd < 65536 → fmtIsFloat fa = true → cvtPairOk fa fd = true →
    ConvertsFloat fa fd r (p % (2 * signWeight fa)) (convBits fa fd r p)) ∧
  (∀ (r : Rounding) (v : ℤ), -2 ^ 31 ≤ v → v < 2 ^ 31 →
    let w := max (-128) (min v 127)
    convBits .int32 .int8 r (intPat .int32 v) = (intPat .int8 w, if w = v then 0 else flagOF) ∧
    (w = v → convBits .int8 .int32 r (intPat .int8 v) = (intPat .int32 v, 0))) ∧
  (∀ (fa fd : Fmt) (r : Rounding) (v : ℤ), r.rnd < 65536 → fa = .int8 ∨ fa = .int32 → fmtIsFloat fd = true →
    (intRange fa).1 ≤ v → v ≤ (intRange fa).2 → Rounds fd r (decide (v < 0)) |(v : ℝ)| (convBits fa fd r (intPat fa v))) ∧
  (∀ (r : Rounding) (c : ℕ), c < 255 → ∃ p, convBits .e8m0 .fp32 r c = (p, 0) ∧ p < 2 ^ 31 ∧
    magnitude .fp32 p = 2 ^ ((c : ℤ) - 127)) ∧
  (∀ r : Rounding, convBits .e8m0 .fp32 r 255 = (0x7FC00000, 0)) ∧
  ∀ (f : Fmt) (p : ℕ), f = .bf16 ∨ f = .fp16 → p < 2 ^ 16 →
    let w := (widen16 f p).toNat
    negative .fp32 w = negative f p ∧ (nanPat f p = false → infPat f p = false → body .fp32 w ≤ (limits .fp32).1 ∧
      magnitude .fp32 w = magnitude f p) ∧
    (nanPat f p = true ∨ infPat f p = true → body .fp32 w = 0x7F800000 + body f p % 2 ^ (fields f).2.1 * 2 ^ (23 - (fields f).2.1))

/-- The magnitude of an unpacked number. -/
noncomputable def finite : FVal → Option (Bool × ℝ)
  | .fin neg m e => some (neg, m * 2 ^ e)
  | _ => none

/-- The sign of an unpacked value. -/
def signOf : FVal → Bool
  | .nan neg _ => neg
  | .inf neg => neg
  | .fin neg _ _ => neg

/-- Block quantisation (R38). Element i is rounded by `r i`. -/
def BlockRule : Prop :=
  ∀ (f : Fmt) (r : ℕ → Rounding) (xs : List FVal), f = .e4m3 ∨ f = .e5m2 → (∀ i, (r i).rnd < 65536) →
    let (code, els, flags) := quantBlock f r xs
    ((∃ x ∈ xs, finite x = none) → code = 255 ∧ els = xs.map (fun x => signed f (signOf x) (limits f).2.2) ∧ flags = flagNV) ∧
    ((∀ x ∈ xs, ∃ neg, finite x = some (neg, 0)) → code = 0 ∧ els = xs.map (fun x => signed f (signOf x) 0) ∧ flags = 0) ∧
    ∀ amax : ℝ, 0 < amax → (∀ x ∈ xs, ∃ neg q, finite x = some (neg, q) ∧ q ≤ amax) → (∃ x ∈ xs, ∃ neg, finite x = some (neg, amax)) →
      let e : ℤ := Int.log 2 amax - if f = .e4m3 then 8 else 15
      let s := max (-127) (min e 127)
      (code : ℤ) = s + 127 ∧ els.length = xs.length ∧ ∃ fl : List Flags, fl.length = xs.length ∧
        flags = (if e < -127 then flagUF else 0) ||| orAll fl ∧
        ∀ i neg q, (xs[i]?).bind finite = some (neg, q) → ∃ b u, els[i]? = some b ∧ fl[i]? = some u ∧ Rounds f (r i) neg (q / 2 ^ s) (b, u)

/-- A value under a tile scale that is a number: the exact product (R37). -/
def ScaledRule : Prop :=
  ∀ (scale : Word) (x : FVal) (neg : Bool) (q : ℝ), finite x = some (neg, q) → body .fp32 scale.toNat ≤ (limits .fp32).1 →
    finite (tileScaled scale x) = some (neg != negative .fp32 scale.toNat, q * magnitude .fp32 scale.toNat)

/-- DEQ of R214 on one lane: code and element in the low half, under a scale. A code of 0xFF gives NaN; numbers give their exact
product rounded once. -/
def DeqRule : Prop :=
  ∀ (f : Fmt) (r : Rounding) (w scale : Word), f = .e4m3 ∨ f = .e5m2 → r.rnd < 65536 →
    let code : ℕ := w.toNat / 2 ^ 8 % 2 ^ 8
    let p := w.toNat % 2 ^ 8
    let s := scale.toNat
    let nv : Flags := if signals f p = true ∨ signals .fp32 s = true then flagNV else 0
    (code = 255 → deqLane f r w scale = (0x7FC00000, nv)) ∧
    (code ≠ 255 → nanPat f p = true → deqLane f r w scale = (nanTo f .fp32 p, nv)) ∧
    (code ≠ 255 → nanPat f p = false → nanPat .fp32 s = true → deqLane f r w scale = (quieted .fp32 s, nv)) ∧
    (code ≠ 255 → body f p ≤ (limits f).1 → body .fp32 s ≤ (limits .fp32).1 →
      Rounds .fp32 r (negative f p != negative .fp32 s) (magnitude f p * 2 ^ ((code : ℤ) - 127) * magnitude .fp32 s)
        (deqLane f r w scale))

/-! ### Floating point (R201 to R208) -/

/-- The result and flags of one lane of the words that compute on FP32 (R201, R202, R204), by the rounding of R191. -/
def fpResult (x : Iss) : Instr → Option (RegField × (Nat → Word × Flags))
  | .fadd d a b => some (d, fun l => patWord (addBits .fp32 (x.rounding false l 0) false (x.t.reg32 a l).toNat (x.t.reg32 b l).toNat))
  | .fsub d a b => some (d, fun l => patWord (addBits .fp32 (x.rounding false l 0) true (x.t.reg32 a l).toNat (x.t.reg32 b l).toNat))
  | .fmul d a b => some (d, fun l => patWord (mulBits .fp32 (x.rounding false l 0) (x.t.reg32 a l).toNat (x.t.reg32 b l).toNat))
  | .ffma d a b => some (d, fun l =>
      patWord (fmaBits .fp32 (x.rounding false l 0) (x.t.reg32 a l).toNat (x.t.reg32 b l).toNat (x.t.reg32 d l).toNat))
  | .fscale d a b => some (d, fun l => patWord (scaleBits (x.rounding false l 0) (x.t.reg32 a l).toNat (x.t.reg32 b l).toInt))
  | .fmin d a b => some (d, fun l => patWord (minMaxBits .fp32 false (x.t.reg32 a l).toNat (x.t.reg32 b l).toNat))
  | .fmax d a b => some (d, fun l => patWord (minMaxBits .fp32 true (x.t.reg32 a l).toNat (x.t.reg32 b l).toNat))
  | .fmint d a b => some (d, fun l => (minKey (x.t.reg32 a l) (x.t.reg32 b l), 0))
  | .fmaxt d a b => some (d, fun l => (maxKey (x.t.reg32 a l) (x.t.reg32 b l), 0))
  | .fabs d a => some (d, fun l => (BitVec.ofNat 32 ((x.t.reg32 a l).toNat % 2 ^ 31), 0))
  | .fneg d a => some (d, fun l => (BitVec.ofNat 32 ((x.t.reg32 a l).toNat + 2 ^ 31), 0))
  | .fclass d a => some (d, fun l => (BitVec.ofNat 32 (classBits (x.t.reg32 a l).toNat), 0))
  | .fsel d a p => some (d, fun l => (if x.t.pred p.toNat l then x.t.reg32 a l else x.t.reg32 d l, 0))
  | _ => none

/-- The operation on one half of a register of the packed words, in their format (R205, R206). -/
def halfResult (x : Iss) : Instr → Option (RegField × (Nat → Nat → Nat × Flags))
  | .hadd2 d a b f => some (d, fun l h => addBits (pkFmt f) (x.rounding false l h) false (half (x.t.reg32 a l) h) (half (x.t.reg32 b l) h))
  | .hsub2 d a b f => some (d, fun l h => addBits (pkFmt f) (x.rounding false l h) true (half (x.t.reg32 a l) h) (half (x.t.reg32 b l) h))
  | .hmul2 d a b f => some (d, fun l h => mulBits (pkFmt f) (x.rounding false l h) (half (x.t.reg32 a l) h) (half (x.t.reg32 b l) h))
  | .hfma2 d a b f => some (d, fun l h =>
      fmaBits (pkFmt f) (x.rounding false l h) (half (x.t.reg32 a l) h) (half (x.t.reg32 b l) h) (half (x.t.reg32 d l) h))
  | .hmax2 d a b f => some (d, fun l h => minMaxBits (pkFmt f) true (half (x.t.reg32 a l) h) (half (x.t.reg32 b l) h))
  | .hmin2 d a b f => some (d, fun l h => minMaxBits (pkFmt f) false (half (x.t.reg32 a l) h) (half (x.t.reg32 b l) h))
  | _ => none

/-- The special functions (R207). -/
def special : Instr → Option (RegField × RegField × SfuOp)
  | .rcp d a => some (d, a, .rcp)
  | .rsq d a => some (d, a, .rsq)
  | .sqrtc d a => some (d, a, .sqrt)
  | .exp2c d a => some (d, a, .exp2)
  | .log2c d a => some (d, a, .log2)
  | .sinc d a => some (d, a, .sin)
  | .cosc d a => some (d, a, .cos)
  | .tanhc d a => some (d, a, .tanh)
  | .erfc d a => some (d, a, .erf)
  | _ => none

/-! ### Conversions (R211 to R217) -/

/-- The formats of a HINT.FMT record that a converting word allows (R211 to R216). -/
def formatsOk (t : Team) : Instr → Bool
  | .cvt .. => cvtPairOk (codeFmt t.fmtRec.fa) (codeFmt t.fmtRec.fd)
  | .cvtsr .. =>
    cvtPairOk (codeFmt t.fmtRec.fa) (codeFmt t.fmtRec.fd) && fmtIsFloat (codeFmt t.fmtRec.fa) && fmtIsFloat (codeFmt t.fmtRec.fd)
  | .deq .. => (codeFmt t.fmtRec.fa == .e5m2 || codeFmt t.fmtRec.fa == .e4m3) && decide (t.fmtRec.fd ≤ 1)
  | .tokey .. => decide (t.fmtRec.fa ≤ 3)
  | .pack .. => true
  | .unpack .. => true
  | _ => false

/-- The result and flags of one lane of a converting word (R211, R212, R214 to R216). -/
def cvtResult (x : Iss) : Instr → Option (RegField × (Nat → Word × Flags))
  | .cvt d a => some (d, fun l =>
      let q := convBits (codeFmt x.t.fmtRec.fa) (codeFmt x.t.fmtRec.fd) (x.rounding x.t.fmtRec.sat l 0) (x.t.reg32 a l).toNat
      (placeResult (codeFmt x.t.fmtRec.fd) q.1, q.2))
  | .cvtsr d a b => some (d, fun l =>
      patWord (convBits (codeFmt x.t.fmtRec.fa) (codeFmt x.t.fmtRec.fd)
        { mode := .sr, sat := x.t.fmtRec.sat, rnd := (x.t.reg32 b l).toNat % 65536 } (x.t.reg32 a l).toNat))
  | .deq d a b => some (d, fun l => patWord (deqLane (codeFmt x.t.fmtRec.fa) (x.rounding false l 0) (x.t.reg32 a l) (x.t.sreg b)))
  | .tokey d a => some (d, fun l =>
      (toKey (match x.t.fmtRec.fa with
        | 2 => widen16 .bf16 ((x.t.reg32 a l).toNat % 2 ^ 16)
        | 3 => widen16 .fp16 ((x.t.reg32 a l).toNat % 2 ^ 16)
        | _ => x.t.reg32 a l), 0))
  | .pack d a b => some (d, fun l => (BitVec.ofNat 32 ((x.t.reg32 b l).toNat % 2 ^ 16 * 2 ^ 16 + (x.t.reg32 a l).toNat % 2 ^ 16), 0))
  | .unpack d a k => some (d, fun l => (unpackLane k.toNat (x.t.reg32 a l), 0))
  | _ => none

/-! ### Lane exchange (R183 to R186) -/

/-- What each running lane gets from an exchanging word, with the flags of the whole word (R186). The last field says where
the word traps with MEMBER instead (R184). -/
def exchange (t : Team) : Instr → Option (RegField × (Nat → DWord) × Flags × Bool)
  | .qxch d a m => some (d, fun l => t.val a (l ^^^ (m.toNat + 1)), 0, false)
  | .qbc d a k => some (d, fun l => t.val a (4 * (l / 4) + k.toNat), 0, false)
  | .shfl d a b => some (d, fun l => t.val a (t.reg b l).toNat, 0, false)
  | .shflDn d a o => some (d, fun l => if (l + o.toNat) / 32 = l / 32 then t.val a (l + o.toNat) else t.reg a l, 0, false)
  | .shflUp d a o => some (d, fun l => if o.toNat ≤ l % 32 then t.val a (l - o.toNat) else t.reg a l, 0, false)
  | .shflXor d a o => some (d, fun l => t.val a (l ^^^ o.toNat), 0, false)
  | .tbc d a b => some (d, fun _ => t.val a (t.sreg b).toNat, 0, false)
  | .vote d p b => some (d, fun l => t.spanBits (t.sreg b) l fun k => t.pred p.toNat k, t.maskFlags (t.sreg b), t.maskOmits (t.sreg b))
  | .matchx d a b => some (d, fun l => t.spanBits (t.sreg b) l fun k => t.reg a k == t.reg a l, t.maskFlags (t.sreg b),
      t.maskOmits (t.sreg b))
  | _ => none

/-- What each running lane gets from a reduction or a scan, with its flags (R186). -/
def reduction (t : Team) : Instr → Option (RegField × List (Nat × Part))
  | .sred d a o => some (d, t.run.map fun l => (l, (t.spanTree a o.toNat (l / 32 * 32)).getD (emptyOf (t.role == .access) o.toNat, 0)))
  | .tred d a o => some (d, t.run.map fun l => (l, (t.teamTree a o.toNat).getD (emptyOf (t.role == .access) o.toNat, 0)))
  | .sscan d a e o => some (d, (List.range 32).flatMap fun j =>
      scanLanes (t.role == .access) o.toNat (e == 1) ((t.run.filter fun l => l / 32 == j).map fun l => (l, (t.reg a l, 0))) none)
  | _ => none

/-! ### Control words (R168 to R171) -/

/-- The machine after a precise trap of a word (R58, R102). -/
def trapped (x : Iss) (code : Nat) (va : DWord) : State := (x.s.raiseTrap x.r code va x.t.prefixPc).moved

/-- The machine after a word that holds its team at issue (R163). -/
def held (x : Iss) (s : State) : State := s.modTeam x.r fun v => { v with heldAt := some s.progress, queueHeld := false }

/-- The machine after a word of a team that waits for a page: an item of the replay set holds its lanes (R296), and the word is
performed again. -/
def waits (x : Iss) (s : State) (kind : ReplayKind) (lanes : List LaneAcc) : State :=
  held x (s.modTeam x.r fun v => v.addReplay v.prefixPc kind lanes)

/-- The counters of the lanes that have not exited, changed; registers and predicates stay. -/
def counters (t : Team) (f : Lane → Nat) : List Lane := t.lanes.map fun l => if l.exited then l else { l with cnt := f l }

/-- No counter would pass 255 (R169). -/
def nestOk (t : Team) (f : Lane → Nat) : Bool := t.lanes.all fun l => l.exited || decide (f l ≤ 255)

/-- The demotion state after IF, LOOP, BREAK and CONT (R173): an IF whose running lanes part makes its partner DIF and DK 1, any
other IF counts DK on by one and a LOOP by two where DK is above 0; while DPC is occupied DK stays. -/
def demoAfter (x : Iss) : Instr → Demotion
  | .ifc p o =>
    if (∃ l ∈ x.t.run, x.t.pred p.toNat l = true) ∧ ∃ l ∈ x.t.run, x.t.pred p.toNat l = false then
      { x.t.demo with dk := if x.t.demo.dpc = 0 then 1 else x.t.demo.dk, dif := some (branchTo x.t.pc o) }
    else if x.t.demo.dpc = 0 ∧ 0 < x.t.demo.dk then { x.t.demo with dk := x.t.demo.dk + 1 } else x.t.demo
  | .loopc _ => if x.t.demo.dpc = 0 ∧ 0 < x.t.demo.dk then { x.t.demo with dk := x.t.demo.dk + 2 } else x.t.demo
  | _ => x.t.demo

/-- A lane's counter after IF p, LOOP, BREAK p d and CONT p d where it runs on (R168). -/
def counterAfter : Instr → Option (Lane → Nat)
  | .ifc p _ => some fun l => if 0 < l.cnt then l.cnt + 1 else if l.predOf p.toNat then 0 else 1
  | .loopc _ => some fun l => if 0 < l.cnt then l.cnt + 2 else 0
  | .breakc p d => some fun l => if l.cnt = 0 ∧ l.predOf p.toNat = true then d.toNat + 2 else l.cnt
  | .contc p d => some fun l => if l.cnt = 0 ∧ l.predOf p.toNat = true then d.toNat + 1 else l.cnt
  | _ => none

end Sys2Proof.Claim

open Sys2Proof Sys2Proof.Machine

/-- The integer words (R194, R196, R197): the destination gets the lane's result in every running lane, OF is set where a running
lane's exact result does not fit, and nothing else of the machine changes. -/
def Obligations.IntegerResults : Prop :=
  ∀ (i : Instr) (d : RegField) (s : State) (x : Iss), Claim.intDest i = some d → issueOf i s = some x →
    ∃ t, exec i s = .next t ∧
      TeamStep s t x ((x.t.write32 d (Claim.intValue x.t i)).orFlags (if x.t.run.any (Claim.intOver x.t i) then flagOF else 0#6))

/-- The comparing words (R192, R196, R197, R199, R203): the predicate gets the condition in every running lane, and a write to p7
is discarded. ICMP, ICMPI and ACMP change no flag; FCMP ORs the NV flags of the running lanes into ASTAT. -/
def Obligations.PredicateResults : Prop :=
  (∀ (i : Instr) (p : BitVec 3) (f : Nat → Bool) (s : State) (x : Iss), issueOf i s = some x → Claim.comparison x.t i = some (p, f) →
    ∃ t, exec i s = .next t ∧ TeamStep s t x (x.t.writePred p.toNat f)) ∧
  ∀ (c : BitVec 4) (p : BitVec 3) (a b : RegField) (s : State) (x : Iss), issueOf (.fcmp c p a b) s = some x →
    ∃ t, exec (.fcmp c p a b) s = .next t ∧
      TeamStep s t x ((x.t.writePred p.toNat fun l => (fcmpBits c.toNat (x.t.reg32 a l).toNat (x.t.reg32 b l).toNat).1).orFlags
        (orAll (x.t.run.map fun l => (fcmpBits c.toNat (x.t.reg32 a l).toNat (x.t.reg32 b l).toNat).2)))

/-- The address words, MOV and MOVI (R196, R198, R199): 64 bits, modulo 2^64, no flag. SLICE (R325, R435) reports of each lane's
address the home slice for k = 0, the core's requests that this slice has accepted and not answered for k = 1 and those to it
that wait in the core's miss queue, of 128 places, for k = 2, and all ones where a bit above 51 is set. -/
def Obligations.AddressResults : Prop :=
  (∀ (i : Instr) (d : RegField) (f : Nat → DWord) (s : State) (x : Iss), issueOf i s = some x → Claim.wideResult x.t i = some (d, f) →
    ∃ t, exec i s = .next t ∧ TeamStep s t x (x.t.write d f)) ∧
  (∀ (d a k : RegField) (s : State) (x : Iss), issueOf (.slice d a k) s = some x →
    ∃ t, exec (.slice d a k) s = .next t ∧ TeamStep s t x (x.t.write d fun l => sliceValue x.s x.g k.toNat (x.t.reg a l))) ∧
  ∀ (s : State) (g : Group) (c : Ctx) (pt : Partition) (core : Core) (n : Nat) (va : DWord), s.ctxOf g = some c →
    s.part? g.part = some pt → s.core? g.core = some core →
    let home := homeOf pt c.asid va.toNat
    (2 ^ 52 ≤ va.toNat → sliceValue s g n va = BitVec.allOnes 64) ∧
    (va.toNat < 2 ^ 52 → sliceValue s g 0 va = BitVec.ofNat 64 (home.1 * 16 + home.2)) ∧
    (va.toNat < 2 ^ 52 → sliceValue s g 1 va =
      BitVec.ofNat 64 (core.reqs.filter fun q => q.accepted && decide (q.home = home)).length) ∧
    (va.toNat < 2 ^ 52 → sliceValue s g 2 va = BitVec.ofNat 64
      ((core.reqs.filter fun q => !q.accepted).take 128 |>.filter fun q => decide (q.home = home)).length)

/-- The FP32 words (R201, R202, R204): each running lane's destination gets the result rounded by R191, the flags of the
running lanes are ORed into ASTAT, and nothing else of the machine changes. The results are those of the rules: sums, products
and fused products are exact and rounded once (R24, R25, R30, R33 to R35), NaNs follow R26, the draw of stochastic rounding is
the grain of R39, minimum and maximum order −0 below +0, and the total order is that of the keys of R40. -/
def Obligations.FloatResults : Prop :=
  (∀ (i : Instr) (d : RegField) (f : Nat → Word × Flags) (s : State) (x : Iss),
    issueOf i s = some x → Claim.fpResult x i = some (d, f) →
    ∃ t, exec i s = .next t ∧
      TeamStep s t x ((x.t.write32 d fun l => (f l).1).orFlags (orAll (x.t.run.map fun l => (f l).2)))) ∧
  Claim.RoundingRule ∧ Claim.SumRule .fp32 ∧ Claim.ProductRule .fp32 ∧ Claim.FusedRule .fp32 ∧ Claim.ScaleRule ∧
  Claim.MinMaxRule .fp32 ∧ Claim.KeyRule

/-- The packed words (R206): both halves of the destination, each half by the FP32 rule of R201 or R202 in its format, rounded in the
mode of R191 with the half's draw; the flags of both halves of the running lanes are ORed into ASTAT, and nothing else changes.
Sums, products and fused products in BF16 and FP16 are exact and rounded once, NaNs follow R26, and minimum and maximum are
R202's. -/
def Obligations.PackedResults : Prop :=
  (∀ (i : Instr) (d : RegField) (f : Nat → Nat → Nat × Flags) (s : State) (x : Iss),
    issueOf i s = some x → Claim.halfResult x i = some (d, f) →
    ∃ t, exec i s = .next t ∧
      TeamStep s t x ((x.t.write32 d fun l => BitVec.ofNat 32 ((f l 0).1 % 2 ^ 16 + (f l 1).1 % 2 ^ 16 * 2 ^ 16)).orFlags
        (orAll (x.t.run.map fun l => (f l 0).2 ||| (f l 1).2)))) ∧
  Claim.RoundingRule ∧ pkFmt 0 = .bf16 ∧ pkFmt 1 = .fp16 ∧
  ∀ f, f = .bf16 ∨ f = .fp16 → Claim.SumRule f ∧ Claim.ProductRule f ∧ Claim.FusedRule f ∧ Claim.MinMaxRule f

/-- The special functions (R207, R208): the results of the running lanes are outstanding, and return by a later step (R164,
R166); no register has changed yet. The results are those of R208 for NaN and the special operands, and correctly rounded for
the reciprocal, the roots, and powers and logarithms of 2 that are whole. What EXP2 and LOG2 give elsewhere, and SIN, COS, TANH
and ERF of numbers, is not stated. -/
def Obligations.SpecialFunctions : Prop :=
  (∀ (i : Instr) (d a : RegField) (f : SfuOp) (s : State) (x : Iss), Claim.special i = some (d, a, f) → issueOf i s = some x →
    ∃ t, exec i s = .next t ∧
      TeamStep s t x (x.t.addPend
        [{ dst := d, vals := x.t.run.map fun l => (l, x.t.ext32 (patWord (sfuBits f (x.rounding false l 0) (x.t.reg32 a l).toNat)).1),
           flags := orAll (x.t.run.map fun l => (patWord (sfuBits f (x.rounding false l 0) (x.t.reg32 a l).toNat)).2) }])) ∧
  Claim.SpecialRule

/-- The converting words (R211, R212, R214 to R216), where the format record is one that the word allows; FORMAT where it is
not. The conversions are those of R36 with the NaNs of R26, of R28 to and from E8M0 (that zero sets NX beside UF is log entry
39, DEDUCED), of R40 where TOKEY widens, and of R214. -/
def Obligations.Conversions : Prop :=
  (∀ (i : Instr) (d : RegField) (f : Nat → Word × Flags) (s : State) (x : Iss),
    issueOf i s = some x → Claim.cvtResult x i = some (d, f) →
    (Claim.formatsOk x.t i = true → ∃ t, exec i s = .next t ∧
      TeamStep s t x ((x.t.write32 d fun l => (f l).1).orFlags (orAll (x.t.run.map fun l => (f l).2)))) ∧
    (Claim.formatsOk x.t i = false → exec i s = .next (x.s.raiseTrap x.r trapFormat x.word x.t.prefixPc).moved)) ∧
  Claim.ConvertRule ∧ Claim.DeqRule

/-- Lane exchange (R183, R184, R186): what each running lane is to get is outstanding; where a running lane is not named by
its member mask the word traps with MEMBER. -/
def Obligations.LaneExchange : Prop :=
  (∀ (i : Instr) (d : RegField) (f : Nat → DWord) (fl : Flags) (bad : Bool) (s : State) (x : Iss),
    issueOf i s = some x → Claim.exchange x.t i = some (d, f, fl, bad) →
    (bad = false → ∃ t, exec i s = .next t ∧
      TeamStep s t x (x.t.addPend [{ dst := d, vals := x.t.run.map fun l => (l, f l), flags := fl }])) ∧
    (bad = true → exec i s = .next (x.s.raiseTrap x.r trapMember x.word x.t.prefixPc).moved)) ∧
  ∀ (i : Instr) (d : RegField) (v : List (Nat × Part)) (s : State) (x : Iss),
    issueOf i s = some x → Claim.reduction x.t i = some (d, v) →
    ∃ t, exec i s = .next t ∧
      TeamStep s t x (x.t.addPend [{ dst := d, vals := v.map fun p => (p.1, p.2.1), flags := orAll (v.map fun p => p.2.2) }])

/-- RDS and RDCLK (R108, R110): the state register's value, and the a-clk count as a 64-bit register or as a pair, in every
running lane. WRS (R110): the lowest running lane's value goes to the state register under its write rule, and nothing else
changes; with no running lane nothing is written. A written register reads back (R8, R29, R31, R103, R107, R108) with reserved bits
zero; a value that RMODE, TRAPVEC or TRAPPC may not hold is discarded, and the two halves of DROPSEED are written apart. -/
def Obligations.StateRegisterAccess : Prop :=
  (∀ (d : RegField) (n : BitVec 8) (s : State) (x : Iss), issueOf (.rds d n) s = some x →
    ∃ t, exec (.rds d n) s = .next t ∧ TeamStep s t x (x.t.write d fun l => stateReg x.s x.g x.t l n.toNat)) ∧
  (∀ (a : RegField) (n : BitVec 8) (s : State) (x : Iss), issueOf (.wrs a n) s = some x →
    (∀ l, x.t.low? = some l → ∃ t, exec (.wrs a n) s = .next t ∧ TeamStep s t x (x.t.writeState n.toNat (x.t.reg32 a l))) ∧
    (x.t.low? = none → ∃ t, exec (.wrs a n) s = .next t ∧ MovesOn x.s t x)) ∧
  (∀ (d : RegField) (s : State) (x : Iss), issueOf (.rdclk d) s = some x →
    (x.t.role = .access → ∃ t, exec (.rdclk d) s = .next t ∧ TeamStep s t x (x.t.write d fun _ => BitVec.ofNat 64 x.s.clk)) ∧
    (x.t.role ≠ .access → ∃ t, exec (.rdclk d) s = .next t ∧
      TeamStep s t x ((x.t.write d fun _ => BitVec.ofNat 64 (x.s.clk % 2 ^ 32)).write (d + 1) fun _ =>
        BitVec.ofNat 64 (x.s.clk / 2 ^ 32 % 2 ^ 32)))) ∧
  ∀ (s : State) (g : Group) (t : Team) (l : Nat) (v : Word),
    stateReg s g (t.writeState 0x14 v) l 0x14 = BitVec.ofNat 64 (v.toNat % 2 ^ 6) ∧
    stateReg s g (t.writeState 0x15 v) l 0x15 = (if v.toNat % 8 ≤ 4 then BitVec.ofNat 64 (v.toNat % 8) else t.rmode.zeroExtend 64) ∧
    stateReg s g (t.writeState 0x17 v) l 0x17 = BitVec.ofNat 64 (v.toNat % 2 ^ 18 / 2 * 2) ∧
    stateReg s g (t.writeState 0x10 v) l 0x10 =
      (if v.toNat < 2 ^ 24 ∧ v.toNat % 4 = 0 then v.zeroExtend 64 else t.trapvec.zeroExtend 64) ∧
    stateReg s g (t.writeState 0x13 v) l 0x13 =
      (if v.toNat < 2 ^ 24 ∧ v.toNat % 4 = 0 then v.zeroExtend 64 else t.trappc.zeroExtend 64) ∧
    stateReg s g (t.writeState 0x20 v) l 0x20 = v.zeroExtend 64 ∧
    stateReg s g (t.writeState 0x20 v) l 0x21 = stateReg s g t l 0x21 ∧
    stateReg s g (t.writeState 0x21 v) l 0x21 = v.zeroExtend 64 ∧
    stateReg s g (t.writeState 0x21 v) l 0x20 = stateReg s g t l 0x20 ∧
    stateReg s g (t.writeState 0x22 v) l 0x22 = BitVec.ofNat 64 (v.toNat % 2 ^ 24) ∧
    stateReg s g (t.writeState 0x23 v) l 0x23 = v.zeroExtend 64

/-- NOP and YIELD change nothing but the team's place (R110, R171). TRAP and BKPT raise SOFT and BKPT with the code in TRAPVA and
TRAPPC at the next word where a lane runs, and do nothing else (R102, R110); at the end of a loop body the next word is the
one that the end-of-body rule leads to (R176, log entry 48). TRET clears INH and goes on at TRAPPC; it is ILLEGAL outside a
handler, and OVERLAY where TRAPPC names no word of a resident overlay (R110). -/
def Obligations.SystemWords : Prop :=
  (∀ (i : Instr) (s : State) (x : Iss), i = .nop ∨ i = .yield → issueOf i s = some x →
    ∃ t, exec i s = .next t ∧ MovesOn x.s t x) ∧
  (∀ (i : Instr) (code : Nat) (n : BitVec 8) (s : State) (x : Iss),
    (i = .trap n ∧ code = trapSoft) ∨ (i = .bkpt n ∧ code = trapBkpt) → issueOf i s = some x →
    let e := x.t.loopEnd x.t.pc
    (x.t.idle = false → exec i s =
      .next ((x.s.modTeam x.r fun _ => e.1).raiseTrap x.r code (n.zeroExtend 64) (e.2.getD (x.t.pc + 4))).moved) ∧
    (x.t.idle = true → ∃ t, exec i s = .next t ∧ MovesOn x.s t x)) ∧
  ∀ (s : State) (x : Iss), issueOf .tret s = some x →
    (x.t.trapInh = true → (x.s.codeWord x.g x.t.trappc).isSome = true →
      ∃ t, exec .tret s = .next t ∧ TeamStepAt s t x { x.t with trapInh := false, pc := x.t.trappc } x.t.trappc) ∧
    (x.t.trapInh = false → exec .tret s = .next (Claim.trapped x trapIllegal x.word)) ∧
    (x.t.trapInh = true → (x.s.codeWord x.g x.t.trappc).isSome = false →
      exec .tret s = .next (Claim.trapped x trapOverlay (x.t.trappc.zeroExtend 64)))

/-- IF, LOOP, BREAK and CONT complete (R168, R169, R173): where no counter would pass 255 every lane that has not exited gets its new
counter, and the demotion state follows; nothing else changes, and the next word follows (of an IF, while a lane is left
running). Where a counter would pass 255 the word traps with NEST and TRAPVA names the lowest such lane. In a hardware loop
body LOOP, BREAK and CONT are ILLEGAL (R177). -/
def Obligations.NestingCounters : Prop :=
  ∀ (i : Instr) (f : Lane → Nat) (s : State) (x : Iss), Claim.counterAfter i = some f → issueOf i s = some x →
    (((∃ p o, i = .ifc p o) ∨ x.t.inLoop = false) → (∀ o, i = .loopc o → x.t.idle = false) →
      (Claim.nestOk x.t f = true → (∀ p o, i = .ifc p o → (Claim.counters x.t f).any Lane.running = true) →
        ∃ t, exec i s = .next t ∧ TeamStep s t x { x.t with lanes := Claim.counters x.t f, demo := Claim.demoAfter x i }) ∧
      (∀ n l, x.t.lanes[n]? = some l → l.exited = false → 255 < f l →
        (∀ m k, m < n → x.t.lanes[m]? = some k → k.exited = true ∨ f k ≤ 255) →
        exec i s = .next (Claim.trapped x trapNest (BitVec.ofNat 64 n)))) ∧
    ((∀ p o, i ≠ .ifc p o) → x.t.inLoop = true → exec i s = .next (Claim.trapped x trapIllegal x.word))

/-- ELSE, ENDIF and ENDL with no demotion at the word, and the jumps of IF, ELSE, LOOP and ENDL, complete (R168, R169, R173): where
the new counters leave a lane running the team goes on, ENDL at the word after its LOOP; where they leave none it goes to
the partner, or past it, and a partner of another kind is ILLEGAL. An ELSE or ENDIF at DIF clears DIF; ENDIF counts DK down
by one, and an ENDL that leaves its loop by two from 3 on. In a hardware loop body ENDL is ILLEGAL (R177). -/
def Obligations.StructuredControl : Prop :=
  (∀ (p : BitVec 3) (o : BitVec 18) (s : State) (x : Iss) (f : Lane → Nat), issueOf (.ifc p o) s = some x →
    Claim.counterAfter (.ifc p o) = some f → Claim.nestOk x.t f = true → (Claim.counters x.t f).any Lane.running = false →
    (x.partnerOk .elseOrEndif (branchTo x.t.pc o) = true → ∃ t, exec (.ifc p o) s = .next t ∧
      TeamStepAt s t x { x.t with lanes := Claim.counters x.t f, demo := Claim.demoAfter x (.ifc p o) } (branchTo x.t.pc o)) ∧
    (x.partnerOk .elseOrEndif (branchTo x.t.pc o) = false → exec (.ifc p o) s = .next (Claim.trapped x trapIllegal x.word))) ∧
  (∀ (o : BitVec 18) (s : State) (x : Iss), issueOf (.elsec o) s = some x → x.t.demo.dskip ≠ some x.t.pc →
    let new := Claim.counters x.t fun l => if l.cnt = 0 then 1 else if l.cnt = 1 then 0 else l.cnt
    let u := { x.t with
      lanes := new, demo := if x.t.demo.dif = some x.t.pc then { x.t.demo with dif := none, dskip := none } else x.t.demo }
    (new.any Lane.running = true → ∃ t, exec (.elsec o) s = .next t ∧ TeamStep s t x u) ∧
    (new.any Lane.running = false → x.partnerOk .endif (branchTo x.t.pc o) = true →
      ∃ t, exec (.elsec o) s = .next t ∧ TeamStepAt s t x u (branchTo x.t.pc o)) ∧
    (new.any Lane.running = false → x.partnerOk .endif (branchTo x.t.pc o) = false →
      exec (.elsec o) s = .next (Claim.trapped x trapIllegal x.word))) ∧
  (∀ (s : State) (x : Iss), issueOf .endifc s = some x → (x.t.demo.dpc = 0 ∨ x.t.demo.dend ≠ some x.t.pc) →
    ∃ t, exec .endifc s = .next t ∧
      TeamStep s t x { x.t with
        lanes := Claim.counters x.t fun l => l.cnt - 1
        demo := { x.t.demo with
          dk := if x.t.demo.dpc = 0 then x.t.demo.dk - 1 else x.t.demo.dk
          dif := if x.t.demo.dif = some x.t.pc then none else x.t.demo.dif } }) ∧
  (∀ (o : BitVec 18) (s : State) (x : Iss), issueOf (.loopc o) s = some x → x.t.inLoop = false → x.t.idle = true →
    (x.partnerOk .endl (branchTo x.t.pc o) = true → ∃ t, exec (.loopc o) s = .next t ∧ TeamStepAt s t x x.t (branchTo x.t.pc o + 4)) ∧
    (x.partnerOk .endl (branchTo x.t.pc o) = false → exec (.loopc o) s = .next (Claim.trapped x trapIllegal x.word))) ∧
  ∀ (o : BitVec 18) (s : State) (x : Iss), issueOf (.endl o) s = some x →
    let back := Claim.counters x.t fun l => if l.cnt = 1 then 0 else l.cnt
    let out := Claim.counters x.t fun l => if l.cnt ≤ 2 then 0 else l.cnt - 2
    (x.t.inLoop = false → back.any Lane.running = true → x.partnerOk .loop (branchTo x.t.pc o) = true →
      ∃ t, exec (.endl o) s = .next t ∧ TeamStepAt s t x { x.t with lanes := back } (branchTo x.t.pc o + 4)) ∧
    (x.t.inLoop = false → back.any Lane.running = true → x.partnerOk .loop (branchTo x.t.pc o) = false →
      exec (.endl o) s = .next (Claim.trapped x trapIllegal x.word)) ∧
    (x.t.inLoop = false → back.any Lane.running = false →
      ∃ t, exec (.endl o) s = .next t ∧ TeamStep s t x { x.t with
        lanes := out
        demo := if x.t.demo.dpc = 0 ∧ 3 ≤ x.t.demo.dk then { x.t.demo with dk := x.t.demo.dk - 2 } else x.t.demo }) ∧
    (x.t.inLoop = true → exec (.endl o) s = .next (Claim.trapped x trapIllegal x.word))

/-- What an instruction's demotion event does (R174; log entry 48), after an effect that leaves the state `u`: with no demotion to
make the team moves on; with one it goes on at the word after its ELSE; and where the word at DEND is no ENDIF of the
instruction's overlay the instruction traps with none of its effect (R169). -/
def Sys2Proof.Claim.afterEvent (i : Instr) (s : State) (x : Iss) (u : State) : Prop :=
  ∀ w, u.team? x.r = some w →
    let e := w.loopEnd w.pc
    let d := demote u x.g e.1 w.pc (e.2.getD (w.pc + 4))
    (d = none → ∃ t, exec i s = .next t ∧ MovesOn u t x) ∧
    (∀ v a, d = some (.ok (v, a)) → ∃ t, exec i s = .next t ∧ MovesTo (u.modTeam x.r fun _ => v) t x a) ∧
    (∀ z, d = some (.error z) → exec i s = .next (Claim.trapped x trapIllegal x.word))

/-- Demotion (R172, R174). An ENDIF at DEND with DPC occupied swaps the lanes back and goes on at DPC, and an ELSE at DSKIP
sends the team to its ENDIF. A demotion event does nothing while DPC is occupied, with DIF empty, or with no ELSE at DIF;
else it keeps the next word in DPC, swaps the running lanes and those of counter DK, and goes on after the ELSE, where
the ELSE's partner is an ENDIF of the instruction's overlay, and is an error where it is not (R169). -/
def Obligations.DemotionReturns : Prop :=
  (∀ (s : State) (x : Iss), issueOf .endifc s = some x → x.t.demo.dpc ≠ 0 → x.t.demo.dend = some x.t.pc →
    ∃ t, exec .endifc s = .next t ∧
      TeamStepAt s t x
        { x.t with
          lanes := Claim.counters x.t fun l => if l.cnt = 0 then x.t.demo.dksave else if l.cnt = x.t.demo.dksave then 0 else l.cnt
          demo := { x.t.demo with dpc := 0, dk := x.t.demo.dksave } }
        (x.t.demo.dpc &&& ~~~1#32)) ∧
  (∀ (o : BitVec 18) (s : State) (x : Iss), issueOf (.elsec o) s = some x → x.t.demo.dskip = some x.t.pc →
    (x.partnerOk .endif (branchTo x.t.pc o) = true →
      ∃ t, exec (.elsec o) s = .next t ∧
        TeamStepAt s t x
          { x.t with
            lanes := Claim.counters x.t fun l => if l.cnt = 0 then 1 else l.cnt
            demo := { x.t.demo with dskip := none, dif := none } }
          (branchTo x.t.pc o)) ∧
    (x.partnerOk .endif (branchTo x.t.pc o) = false → exec (.elsec o) s = .next (Claim.trapped x trapIllegal x.word))) ∧
  ∀ (s : State) (g : Group) (t : Team) (pc next : Word),
    (t.demo.dpc ≠ 0 ∨ t.demo.dif = none → demote s g t pc next = none) ∧
    ∀ dif, t.demo.dpc = 0 → t.demo.dif = some dif →
      ((∀ o, instrAt s g dif dif ≠ some (.elsec o)) → demote s g t pc next = none) ∧
      ∀ o, instrAt s g dif dif = some (.elsec o) →
        (instrAt s g pc (branchTo dif o) = some .endifc →
          demote s g t pc next = some (.ok
            ({ t with
               lanes := Claim.counters t fun l => if l.cnt = 0 then t.demo.dk else if l.cnt = t.demo.dk then 0 else l.cnt
               demo := { t.demo with dpc := next ||| 1#32, dksave := t.demo.dk, dskip := some dif, dend := some (branchTo dif o) } },
             dif + 4))) ∧
        (instrAt s g pc (branchTo dif o) ≠ some .endifc → demote s g t pc next = some (.error ()))

/-- Where a push fits the stack (R180): the outcome of spilling the bytes that no longer fit the stack cache, each once its
address translates (R179). -/
def Sys2Proof.Claim.pushes (x : Iss) (c : Ctx) (bs : List Byte) : Moved :=
  let t := { x.t with stack := x.t.stack ++ bs, sp := x.t.sp + bs.length }
  spillChunks c (ceilDiv (t.stack.length - stackCacheBytes) (stackChunk t)) x.s t

/-- Where the stack holds `n` bytes: the outcome of filling those of them that are not in the stack cache. -/
def Sys2Proof.Claim.pops (x : Iss) (c : Ctx) (n : Nat) : Moved :=
  fillChunks c (ceilDiv (x.t.stackLow - (x.t.sp - n)) (stackChunk x.t)) x.s x.t

/-- The words that push, with their bytes: SPUSH, SALLOC of a count that is not negative, CALL and FCALL (R127, R170, R182). -/
def Sys2Proof.Claim.pushing (x : Iss) : Instr → Option (List Byte)
  | .spush a => some (pushBytes x.t a)
  | .salloc n => if 0 ≤ x.t.immS 8 n.toNat then some (List.replicate (16 * (x.t.immS 8 n.toNat).toNat) 0) else none
  | .callc _ => if x.t.inLoop then none else some (leBytes 16 (x.t.pc + 4).toNat)
  | .fcall e =>
    let target := ((x.s.kernelOf x.g).map fun k => k.entries.getD e.toNat 0).getD 0
    if x.t.inLoop = false ∧ (x.s.codeWord x.g target).isSome = true then some (leBytes 16 (x.t.pc + 4).toNat) else none
  | _ => none

/-- The words that pop, with how many bytes: SPOP and RET (R170, R182). -/
def Sys2Proof.Claim.popping (x : Iss) : Instr → Option Nat
  | .spop d => some (pushSize x.t d)
  | .retc => if x.t.inLoop then none else some 16
  | _ => none

/-- JMP, CALL and RET complete (R170): JMP is taken where its predicate holds in every running lane, one running, or is p7, and goes
on to the next word otherwise. CALL pushes a record of 16 bytes with the address of the next word; RET pops one and goes on
at its address, or traps with OVERLAY, the record popped, where that address is in no resident overlay. All three are
ILLEGAL in a hardware loop body (R177). -/
def Obligations.Branches : Prop :=
  (∀ (p : BitVec 3) (o : BitVec 18) (s : State) (x : Iss), issueOf (.jmp p o) s = some x → x.t.inLoop = false →
    ((p = 7 ∨ (x.t.run ≠ [] ∧ ∀ l ∈ x.t.run, x.t.pred p.toNat l = true)) →
      ∃ t, exec (.jmp p o) s = .next t ∧ MovesTo x.s t x (x.t.pc + BitVec.ofInt 32 (4 * o.toInt))) ∧
    (p ≠ 7 → (x.t.run = [] ∨ ∃ l ∈ x.t.run, x.t.pred p.toNat l = false) → ∃ t, exec (.jmp p o) s = .next t ∧ MovesOn x.s t x)) ∧
  (∀ (o : BitVec 18) (s u : State) (x : Iss) (c : Ctx) (v : Team), issueOf (.callc o) s = some x → x.t.inLoop = false →
    x.s.ctxOf x.g = some c → x.t.sp + 16 ≤ x.g.stackSz → Claim.pushes x c (leBytes 16 (x.t.pc + 4).toNat) = .ok u v →
    ∃ t, exec (.callc o) s = .next t ∧ MovesTo (u.modTeam x.r fun _ => v) t x (x.t.pc + BitVec.ofInt 32 (4 * o.toInt))) ∧
  (∀ (s u : State) (x : Iss) (c : Ctx) (v : Team), issueOf .retc s = some x → x.t.inLoop = false →
    x.s.ctxOf x.g = some c → 16 ≤ x.t.sp → Claim.pops x c 16 = .ok u v →
    let target : Word := BitVec.ofNat 32 (fieldAt (v.stack.drop (v.stack.length - 16)) 0 4)
    let w := { v with
      stack := v.stack.take (v.stack.length - 16), sp := v.sp - 16
      fcalls := if v.fcalls.getLast? = some target then v.fcalls.dropLast else v.fcalls }
    ((u.codeWord x.g target).isSome = true → ∃ t, exec .retc s = .next t ∧ MovesTo (u.modTeam x.r fun _ => w) t x target) ∧
    ((u.codeWord x.g target).isSome = false →
      exec .retc s = .next ((u.modTeam x.r fun _ => w).raiseTrap x.r trapOverlay (target.zeroExtend 64) x.t.prefixPc).moved)) ∧
  ∀ (i : Instr) (s : State) (x : Iss), (∃ p o, i = .jmp p o) ∨ (∃ o, i = .callc o) ∨ i = .retc → issueOf i s = some x →
    x.t.inLoop = true → exec i s = .next (Claim.trapped x trapIllegal x.word)

/-- EXIT (R171): every running lane in which the predicate holds has exited, its registers as they were; a team that has not ended
by that goes on, and one that has ends as `finishTry` says. -/
def Obligations.Exit : Prop :=
  ∀ (p : BitVec 3) (s : State) (x : Iss), issueOf (.exitc p) s = some x →
    let u := { x.t with lanes := x.t.lanes.map fun l => { l with exited := l.exited || (l.running && l.predOf p.toNat) } }
    (u.ended = false → ∃ t, exec (.exitc p) s = .next t ∧ TeamStep s t x u) ∧
    ∃ t, exec (.exitc p) s = .next t ∧ MovesOn ((x.put u).finishTry x.r) t x

/-- HLOOP, HLOOPS and HBRK complete (R176): a fourth level, and a body that ends after the open level's, are ILLEGAL; a count of 0
goes past the body; otherwise a level opens over the next words with its counter. HBRK with its predicate in every running
lane closes the innermost level with counter 0, and goes on after its body unless the word ends an outer body that goes
round again; without it nothing happens; with no level open it is ILLEGAL. That the jump of a count of 0 and of a
taken HBRK ends the pending stall counts is the model's choice, log entry 49 (DESIGN CHOICE). -/
def Obligations.HardwareLoops : Prop :=
  (∀ (i : Instr) (n : Nat) (len : BitVec 8) (s : State) (x : Iss), issueOf i s = some x →
    ((∃ c, i = .hloop c len ∧ n = c.toNat) ∨ (∃ a, i = .hloops a len ∧ n = (x.t.sregs.getD a.toNat 0).toNat)) →
    let last := x.t.pc + BitVec.ofNat 32 (4 * (len.toNat + 1))
    let bad := x.t.loops.length = 3 ∨ ∃ l, x.t.loops.getLast? = some l ∧ l.last.toNat < last.toNat
    (bad → exec i s = .next (Claim.trapped x trapIllegal x.word)) ∧
    (¬bad → n = 0 → ∃ t, exec i s = .next t ∧ MovesTo x.s t x (last + 4)) ∧
    (¬bad → 0 < n → ∃ t, exec i s = .next t ∧
      TeamStep s t x { x.t with loops := x.t.loops ++ [{ start := x.t.pc + 4, last := last }]
                                lc := x.t.lc.set x.t.loops.length (BitVec.ofNat 32 n) })) ∧
  ∀ (p : BitVec 3) (s : State) (x : Iss), issueOf (.hbrk p) s = some x →
    (x.t.loops = [] → exec (.hbrk p) s = .next (Claim.trapped x trapIllegal x.word)) ∧
    (x.t.loops ≠ [] → x.t.allPred p = false → ∃ t, exec (.hbrk p) s = .next t ∧ MovesOn x.s t x) ∧
    (∀ l, x.t.loops.getLast? = some l → x.t.allPred p = true →
      let u := { x.t with loops := x.t.loops.dropLast, lc := x.t.lc.set (x.t.loops.length - 1) 0 }
      let e := u.loopEnd x.t.pc
      ∃ t, exec (.hbrk p) s = .next t ∧ TeamStepAt s t x e.1 (e.2.getD (l.last + 4)))

/-- The end of a hardware loop body (R176, R177): at the last word of the innermost open level, outside a handler, a count above 1
goes down by one and the body starts again; a count of 1 or 0 becomes 0, the level closes, and the word may end the next outer
body too. A word that ends no open level is followed by the next word. -/
def Obligations.LoopEnd : Prop :=
  ∀ (t : Team) (pc : Word),
    (t.trapInh = true → t.loopEnd pc = (t, none)) ∧
    (t.loops = [] → t.loopEnd pc = (t, none)) ∧
    (∀ l, t.trapInh = false → t.loops.getLast? = some l → l.last ≠ pc → t.loopEnd pc = (t, none)) ∧
    (∀ l, t.trapInh = false → t.loops.getLast? = some l → l.last = pc → 1 < (t.lc.getD (t.loops.length - 1) 0).toNat →
      t.loopEnd pc =
        ({ t with lc := t.lc.set (t.loops.length - 1) (t.lc.getD (t.loops.length - 1) 0 - 1) }, some l.start)) ∧
    ∀ l, t.trapInh = false → t.loops.getLast? = some l → l.last = pc → (t.lc.getD (t.loops.length - 1) 0).toNat ≤ 1 →
      t.loopEnd pc = { t with loops := t.loops.dropLast, lc := t.lc.set (t.loops.length - 1) 0 }.loopEnd pc

/-- SPUSH, SPOP and SALLOC complete (R180, R182): every lane's register is pushed, whatever the lane's condition, and popped into
every lane; SALLOC pushes zero bytes or drops bytes. Beyond STACKSZ, and below 0, the words that push and pop, CALL, FCALL
and RET among them, trap with STACK before any change. Where a byte that spills or fills faults the team waits for its page at the
word, and an access that R19 or R292 forbids ends its context. -/
def Obligations.StackWords : Prop :=
  (∀ (a : RegField) (s u : State) (x : Iss) (c : Ctx) (v : Team), issueOf (.spush a) s = some x → x.s.ctxOf x.g = some c →
    x.t.sp + (pushBytes x.t a).length ≤ x.g.stackSz → Claim.pushes x c (pushBytes x.t a) = .ok u v →
    ∃ t, exec (.spush a) s = .next t ∧ MovesOn (u.modTeam x.r fun _ => v) t x) ∧
  (∀ (d : RegField) (s u : State) (x : Iss) (c : Ctx) (v : Team), issueOf (.spop d) s = some x → x.s.ctxOf x.g = some c →
    pushSize x.t d ≤ x.t.sp → Claim.pops x c (pushSize x.t d) = .ok u v →
    let keep := v.stack.length - pushSize x.t d
    ∃ t, exec (.spop d) s = .next t ∧ MovesOn
      (u.modTeam x.r fun _ => popInto { v with stack := v.stack.take keep, sp := v.sp - pushSize x.t d } d (v.stack.drop keep)) t x) ∧
  (∀ (n : BitVec 8) (s u : State) (x : Iss) (c : Ctx) (v : Team), issueOf (.salloc n) s = some x → x.s.ctxOf x.g = some c →
    0 ≤ x.t.immS 8 n.toNat → x.t.sp + 16 * (x.t.immS 8 n.toNat).toNat ≤ x.g.stackSz →
    Claim.pushes x c (List.replicate (16 * (x.t.immS 8 n.toNat).toNat) 0) = .ok u v →
    ∃ t, exec (.salloc n) s = .next t ∧ MovesOn (u.modTeam x.r fun _ => v) t x) ∧
  (∀ (n : BitVec 8) (s : State) (x : Iss), issueOf (.salloc n) s = some x → x.t.immS 8 n.toNat < 0 →
    let m := 16 * (x.t.immS 8 n.toNat).natAbs
    (m ≤ x.t.sp → ∃ t, exec (.salloc n) s = .next t ∧
      TeamStep s t x { x.t with sp := x.t.sp - m, stack := x.t.stack.take (x.t.stack.length - m)
                                stackLow := min x.t.stackLow (x.t.sp - m) }) ∧
    (x.t.sp < m → exec (.salloc n) s =
      .next (Claim.trapped x trapStack (x.t.sbase + BitVec.ofNat 64 x.t.sp - BitVec.ofNat 64 m)))) ∧
  (∀ (i : Instr) (s : State) (x : Iss) (bs : List Byte), issueOf i s = some x → Claim.pushing x i = some bs →
    (x.g.stackSz < x.t.sp + bs.length →
      exec i s = .next (Claim.trapped x trapStack (x.t.sbase + BitVec.ofNat 64 (x.t.sp + bs.length)))) ∧
    ∀ c, x.t.sp + bs.length ≤ x.g.stackSz → x.s.ctxOf x.g = some c →
      (∀ u va, Claim.pushes x c bs = .wait u va → exec i s = .next (Claim.waits x u .spill [laneAt 0 va])) ∧
      (Claim.pushes x c bs = .bad → exec i s = .next (x.s.badAccess x.g x.t).moved)) ∧
  ∀ (i : Instr) (s : State) (x : Iss) (n : Nat), issueOf i s = some x → Claim.popping x i = some n →
    (x.t.sp < n → exec i s =
      .next (Claim.trapped x trapStack (x.t.sbase + BitVec.ofNat 64 x.t.sp - BitVec.ofNat 64 n))) ∧
    ∀ c, n ≤ x.t.sp → x.s.ctxOf x.g = some c →
      (∀ u va, Claim.pops x c n = .wait u va → exec i s = .next (Claim.waits x u .whole [laneAt 0 va])) ∧
      (Claim.pops x c n = .bad → exec i s = .next (x.s.badAccess x.g x.t).moved)

/-! ### HINT words, barriers, fences -/

/-- What a HINT word leaves of its team beside the next pc (R62 to R67): HINT.STALL sets the counts, the others join the prefix. -/
def Sys2Proof.Claim.hinted (w : Word) : Instr → Option (Team → Team)
  | .hintStall c4 c3 c2 c1 c0 => some fun v => { v with stalls := [c0, c1, c2, c3, c4] }
  | .hintImm _ => some fun v => { v with hints := v.hints ++ [{ pc := v.pc, word := w }] }
  | .hintMod .. => some fun v => { v with hints := v.hints ++ [{ pc := v.pc, word := w }] }
  | .hintFmt .. => some fun v => { v with hints := v.hints ++ [{ pc := v.pc, word := w }] }
  | _ => none

/-- HINT words complete (R61 to R67): one with no reserved field, not the last word of any open loop body (R177), whose next word is
in the same overlay, is recorded for the word it belongs to, and the team stands at the next word; nothing else changes.
Otherwise it is ILLEGAL (that a HINT at the end of a short overlay is too is the model's choice, log entry 14). -/
def Obligations.HintWords : Prop :=
  ∀ (i : Instr) (f : Team → Team) (s : State) (r : TeamRef) (g : Group) (u : Team), s.cur = some r → s.group? r.uid = some g →
    g.team? r.tid = some u → Claim.hinted s.iword i = some f →
    let good := i.wellFormed = true ∧ (u.inLoop = true → ∀ l ∈ u.loops, l.last ≠ u.pc) ∧
      (s.codeWord (g.forTeam u) (u.pc + 4)).isSome = true ∧ (u.pc + 4).extractLsb' 16 8 = u.pc.extractLsb' 16 8
    (good → exec i s = .next { s.modTeam r (fun v =>
      { f v with pc := u.pc + 4, heldAt := none, queueHeld := false, lodHeld := false, yielded := false }) with
        progress := s.progress + 1 }) ∧
    (¬good → exec i s = .next (s.raiseTrap r trapIllegal (s.iword.zeroExtend 64) u.prefixPc).moved)

/-- What a team that arrives by a BAR word waits with (R269, R272). -/
def Sys2Proof.Claim.arrivalOf (t : Team) : Instr → Option Arrival
  | .bar => some .plain
  | .barE => some .engine
  | .barCarve d a => some (.carve d (t.sreg a).toNat)
  | _ => none

/-- Writes to a scratchpad after a phase of a group: where a team arrived by BAR.E, engines see those that every arrived team
made (R262, R269). -/
def Sys2Proof.Claim.fencedPast (g : Group) (es : List PastWrite) : List PastWrite :=
  es.map fun e =>
    if (∃ t ∈ g.teams, t.arrival = .engine) ∧
        ∃ t ∈ g.teams, t.arrival ≠ .none ∧ e.maker = some { uid := g.uid, tid := t.tid } then { e with fenced := true }
    else e

/-- The state once a releasing word has written what it can of its team's stores (R258): none of them while the core's miss queue
is full (R314). -/
def Sys2Proof.Claim.releasing (x : Iss) : State :=
  if x.t.sbuf ≠ [] ∧ x.missFull = true then x.s else ((x.s.pastSnapshots x.t).modTeam x.r Team.freezeAll).drain x.r

/-- What a releasing word does while a store of its team is not performed: the team is held, and where the release has ended the
team's context nothing more happens. -/
def Sys2Proof.Claim.unreleased (i : Instr) (s : State) (x : Iss) : Prop :=
  (∀ v, (Claim.releasing x).team? x.r = some v → v.performed = false → exec i s = .next (Claim.held x (Claim.releasing x))) ∧
  ((Claim.releasing x).team? x.r = none → exec i s = .next (Claim.releasing x).moved)

/-- The group barrier (R268 to R272). A BAR word of a member, its stores performed, arrives and completes; before that it is held, and
of a responder it is ILLEGAL. Nothing more happens until every member has arrived, and in a phase with a carve while copies or
cards keep it waiting; then the phase completes: every team that arrived leaves its hold with an acquire, engines see
every arrived team's stores where one came by BAR.E, and the phase counts on. A carve takes the size asked for by the arrival of lowest TEAMID
where that is a multiple of 16 KiB, at least 16 KiB, and fits, and its status goes to every carving team.
An acquire that misses no write made so far is more than R251 asks (log entry 8). -/
def Obligations.GroupBarrier : Prop :=
  (∀ (i : Instr) (a : Arrival) (s : State) (x : Iss), issueOf i s = some x → Claim.arrivalOf x.t i = some a →
    (x.t.responder = none →
      (∀ y, releasedBy x = some y →
        ∃ t, exec i s = .next t ∧ MovesOn ((y.put { y.t with arrival := a }).barrierTry x.r.uid) t x) ∧
      Claim.unreleased i s x) ∧
    (x.t.responder.isSome = true → exec i s = .next (Claim.trapped x trapIllegal x.word))) ∧
  ∀ (s : State) (g : Group), s.group? g.uid = some g →
    (g.allArrived = false → s.barrierTry g.uid = s) ∧
    (g.allArrived = true → g.carveReq.isSome = true → s.carveWaits g = true →
      s.barrierTry g.uid = s.modGroup g.uid fun v => { v with carving := true }) ∧
    (g.allArrived = true → (g.carveReq = none ∨ s.carveWaits g = false) →
      let req := g.carveReq.getD g.padSize
      let bad := req % 16384 ≠ 0 ∨ req < 16384
      let fits := req ≤ g.padSize ∨ s.coreGranules g.core - g.padSize / 16384 + req / 16384 ≤ 144
      let size := if ¬bad ∧ fits then req else g.padSize
      let status := (if bad then 2 ^ 17 else 0) + (if bad ∨ ¬fits then 2 ^ 16 else 0) + size / 16384
      (∀ u, u ≠ g.uid → (s.barrierTry g.uid).group? u =
        (s.group? u).map fun v => { v with past := Claim.fencedPast g v.past }) ∧
      (s.barrierTry g.uid).group? g.uid = some { g with
        teams := g.teams.map fun v => match v.arrival with
          | .none => v
          | .carve d _ => Team.acquired { v.putS d (BitVec.ofNat 32 status) with arrival := .none } s.vers g.vers
          | _ => Team.acquired { v with arrival := .none } s.vers g.vers
        padSize := size, pad := memTruncate g.pad size
        past := closePast false size (g.padSize - size) (Claim.fencedPast g g.past)
        barPhase := g.barPhase + 1, carving := false })

/-- A barrier object after a change (R274): the phase completes where EXP is not 0 and ARR, signed, has reached it; EXP goes
to 0 and ARR keeps what is over. -/
def Sys2Proof.Claim.tested (o : BarObj) : BarObj :=
  if o.exp ≠ 0 ∧ (o.exp.toNat : Int) ≤ o.arr.toInt then { phase := o.phase + 1, exp := 0, arr := o.arr - o.exp } else o

/-- What BOINIT, BOEXP and BOARR do to an object with an s register's value (R275). -/
def Sys2Proof.Claim.objectChange (t : Team) : Instr → Option (RegField × Nat × (BarObj → BarObj))
  | .boinit d a b => some (d, b.toNat, fun o => { o with exp := t.sreg a, arr := 0 })
  | .boexp d a b => some (d, b.toNat, fun o => { o with exp := o.exp + t.sreg a })
  | .boarr d a b => some (d, b.toNat, fun o => { o with arr := o.arr + t.sreg a })
  | _ => none

/-- Barrier objects (R273 to R275). BOINIT, BOEXP and BOARR change and test one object and give sD the phase as it stood before the test;
with no running lane they do nothing. BOTEST gives sD 1, with an acquire (R276), where the phase in sA is complete: 1 to 32767 phases before the object's;
BOWAIT goes on then with an acquire (R264) and is held otherwise. What an acquire then sees is log entry 8. -/
def Obligations.BarrierObjects : Prop :=
  (∀ (i : Instr) (d : RegField) (b : Nat) (f : BarObj → BarObj) (s : State) (x : Iss), issueOf i s = some x →
    Claim.objectChange x.t i = some (d, b, f) →
    (x.t.idle = true → ∃ t, exec i s = .next t ∧ MovesOn x.s t x) ∧
    (x.t.idle = false → ∃ t, exec i s = .next t ∧
      MovesOn ((x.s.modGroup x.r.uid fun g => { g with objs := modAt g.objs b fun o => Claim.tested (f o) }).modTeam x.r
        fun v => v.putS d (((x.g.objs.getD b { phase := 0, exp := 0, arr := 0 }).phase).zeroExtend 32)).moved t x)) ∧
  ∀ (a d : RegField) (b : BitVec 8) (s : State) (x : Iss),
    let past := ((x.g.objs.getD b.toNat { phase := 0, exp := 0, arr := 0 }).phase - (x.t.sreg a).extractLsb' 0 16).toNat
    (issueOf (.botest d a b) s = some x → ∃ t, exec (.botest d a b) s = .next t ∧
      MovesOn (if 1 ≤ past ∧ past ≤ 32767 then (x.s.acquire x.r).modTeam x.r fun v => v.putS d 1
        else x.s.modTeam x.r fun v => v.putS d 0) t x) ∧
    (issueOf (.bowait a b) s = some x → 1 ≤ past → past ≤ 32767 → ∃ t, exec (.bowait a b) s = .next t ∧
      MovesOn (x.s.acquire x.r) t x) ∧
    (issueOf (.bowait a b) s = some x → (past = 0 ∨ 32767 < past) → exec (.bowait a b) s = .next (Claim.held x x.s))

/-- Fences complete (R253, R258 to R262, R267). REL and FENCE.E go on once every store of the team is performed, and FENCE.E then
makes its scratchpad stores visible to engines; ACQ and FENCE.L go on once every load of the team is performed, FENCE.L with
those loads' values fixed, ACQ with an acquire. FENCE.H drains, beside its own, the store buffer of every team of the partition,
and each of them acquires. Till then the team is held. After an acquire the team's ordinary reads miss no write made so far under
their own name, and those of host memory by any team of its core neither (R266): that an acquire sees every earlier write is
the model's, log entry 8 (DEDUCED, more than R251 asks). -/
def Obligations.Fences : Prop :=
  (∀ (i : Instr) (s : State) (x : Iss), i = .acqc ∨ i = .fenceL → issueOf i s = some x → x.t.unread = true →
    exec i s = .next (Claim.held x x.s)) ∧
  (∀ (s : State) (x : Iss), issueOf .acqc s = some x → x.t.unread = false →
    ∃ t, exec .acqc s = .next t ∧ MovesOn (x.s.acquire x.r) t x) ∧
  (∀ (s : State) (x : Iss), issueOf .fenceL s = some x → x.t.unread = false →
    ∃ t, exec .fenceL s = .next t ∧ TeamStep s t x x.t.freezeAll) ∧
  (∀ (i : Instr) (s : State) (x : Iss), i = .relc ∨ i = .fenceE ∨ i = .fenceH → issueOf i s = some x → Claim.unreleased i s x) ∧
  (∀ (s : State) (x y : Iss), issueOf .relc s = some x → releasedBy x = some y →
    ∃ t, exec .relc s = .next t ∧ MovesOn y.s t x) ∧
  (∀ (s : State) (x y : Iss), issueOf .fenceE s = some x → releasedBy x = some y →
    ∃ t, exec .fenceE s = .next t ∧ MovesOn (y.s.fenceStores x.r) t x) ∧
  (∀ (s : State) (x y : Iss), issueOf .fenceH s = some x → releasedBy x = some y →
    let u := (y.s.teamsOf y.g.part).foldl State.drain y.s
    (u.drained y.g.part = true → ∃ t, exec .fenceH s = .next t ∧ MovesOn (u.acquireAll y.g.part) t x) ∧
    (u.drained y.g.part = false → exec .fenceH s = .next (Claim.held x u))) ∧
  ∀ (s : State) (r q : TeamRef) (g : Group) (t : Team), s.group? r.uid = some g → g.team? r.tid = some t →
    (s.acquire r).team? r = some (t.acquired s.vers g.vers) ∧ (q ≠ r → (s.acquire r).team? q = s.team? q) ∧
    (s.acquire r).mem = s.mem ∧ (s.acquire r).hostMem = s.hostMem ∧ (s.acquire r).past = s.past ∧
    (s.acquire r).cores = modAt s.cores g.core fun k => { k with acqAt := s.vers }

/-! ### Global memory of the ACCESS role -/

/-- Where a load, store or atomic of majors 0x10, 0x11 and 0x13 goes: base register, byte offset, size, and whether it writes its
own base (R142, R148). -/
def Sys2Proof.Claim.accessForm (x : Iss) : Instr → Option (RegField × Int × Nat × Bool)
  | .ld d a o z _ => some (a, x.off4 o (2 ^ z.toNat), 2 ^ z.toNat, writesBase d a (if z = 4 then 2 else 1))
  | .ldAcq d a o z _ => some (a, x.off4 o (2 ^ z.toNat), 2 ^ z.toNat, writesBase d a (if z = 4 then 2 else 1))
  | .ldPoll d a o z => some (a, x.off4 o (if z = 1 then 8 else 4), if z = 1 then 8 else 4, writesBase d a 1)
  | .st _ a o z => some (a, x.off4 o (2 ^ z.toNat), 2 ^ z.toNat, false)
  | .stRel _ a o z => some (a, x.off4 o (2 ^ z.toNat), 2 ^ z.toNat, false)
  | .atomAdd d a _ z => some (a, 0, 2 ^ z.toNat, writesBase d a 1)
  | .atomMinI d a _ z => some (a, 0, 2 ^ z.toNat, writesBase d a 1)
  | .atomMaxI d a _ z => some (a, 0, 2 ^ z.toNat, writesBase d a 1)
  | .atomMinN d a _ z => some (a, 0, 2 ^ z.toNat, writesBase d a 1)
  | .atomMaxN d a _ z => some (a, 0, 2 ^ z.toNat, writesBase d a 1)
  | .atomAnd d a _ z => some (a, 0, 2 ^ z.toNat, writesBase d a 1)
  | .atomOr d a _ z => some (a, 0, 2 ^ z.toNat, writesBase d a 1)
  | .atomXor d a _ z => some (a, 0, 2 ^ z.toNat, writesBase d a 1)
  | .atomSwap d a _ z => some (a, 0, 2 ^ z.toNat, writesBase d a 1)
  | .cas d a _ z => some (a, 0, 2 ^ z.toNat, writesBase d a (if z = 4 then 2 else 1))
  | .atomFadd d a _ => some (a, 0, 4, writesBase d a 1)
  | .redAdd _ a _ z => some (a, 0, 2 ^ z.toNat, false)
  | .redMinI _ a _ z => some (a, 0, 2 ^ z.toNat, false)
  | .redMaxI _ a _ z => some (a, 0, 2 ^ z.toNat, false)
  | .redMinN _ a _ z => some (a, 0, 2 ^ z.toNat, false)
  | .redMaxN _ a _ z => some (a, 0, 2 ^ z.toNat, false)
  | .redAnd _ a _ z => some (a, 0, 2 ^ z.toNat, false)
  | .redOr _ a _ z => some (a, 0, 2 ^ z.toNat, false)
  | .redXor _ a _ z => some (a, 0, 2 ^ z.toNat, false)
  | .redFadd _ a _ => some (a, 0, 4, false)
  | _ => none

/-- A lane's address of an access of `n` bytes is in range and aligned (R142). -/
def Sys2Proof.Claim.laneOk (n : Nat) (p : Nat × Nat) : Prop := p.2 < 2 ^ 52 ∧ p.2 % n = 0

/-- The traps of lanes' addresses for an access of `n` bytes (R142): the first lane whose address is out of range or misaligned
traps, with MEMFAULT before ALIGN (log entry 35), and its address in TRAPVA. -/
def Sys2Proof.Claim.laneTraps (i : Instr) (s : State) (x : Iss) (n : Nat) (vas : List (Nat × Nat)) : Prop :=
  ∀ (pre post : List (Nat × Nat)) (l va : Nat), vas = pre ++ (l, va) :: post → (∀ p ∈ pre, Claim.laneOk n p) →
    (2 ^ 52 ≤ va → exec i s = .next (Claim.trapped x trapMemfault (BitVec.ofNat 64 va))) ∧
    (va < 2 ^ 52 → va % n ≠ 0 → exec i s = .next (Claim.trapped x trapAlign (BitVec.ofNat 64 va)))

/-- The address checks (R142): BOUNDS with the field where the base is a register written; else the lowest running lane whose
address is out of range or misaligned traps, with MEMFAULT before ALIGN, and its address in TRAPVA. With no running lane
nothing is accessed. That MEMFAULT comes before ALIGN within one lane is the model's reading, log entry 35 (DEDUCED). -/
def Obligations.AddressTraps : Prop :=
  ∀ (i : Instr) (a : RegField) (off : Int) (n : Nat) (base : Bool) (s : State) (x : Iss), issueOf i s = some x →
    Claim.accessForm x i = some (a, off, n, base) →
    (base = true → exec i s = .next (Claim.trapped x trapBounds (a.zeroExtend 64))) ∧
    (base = false → Claim.laneTraps i s x n (x.t.vas a off)) ∧
    (base = false → x.t.run = [] → ∃ t, exec i s = .next t ∧ MovesOn x.s t x)

/-- An access of `n` bytes at base and offset passes the checks of R142 and at least one lane makes it. -/
def Sys2Proof.Claim.accesses (x : Iss) (a : RegField) (off : Int) (n : Nat) (base : Bool) : Prop :=
  base = false ∧ x.t.vas a off ≠ [] ∧ ∀ p ∈ x.t.vas a off, Claim.laneOk n p

/-- LD, LD.ACQ, LD.POLL and PREF complete (R142 to R146, R254, R255, R288, R289, R313, R314). A load reads each running lane's address, the team's
earlier buffered stores over the bytes of memory; a lane that faults joins the replay set and the other lanes' values are on
their way to the register, sign- or zero-extended, each once its slice request is answered. LD.POLL does the same once some
lane's value differs from the register, with a demotion event where another lane's does not; while none differs it holds
the team. PREF changes no register. All are held while the miss queue is full. With the last lane of
an acquire read the team acquires. A load reads what stands at home where each write to its bytes made under another name came
before the latest shootdown of its address, and where, if it is no acquire, each other write is the team's own or came before
the latest acquire that bounds it: its own, or for host memory its core's; one without a name also before its TLB entry was
entered. Nothing but TLB entries and A bits of the tables changes by translating. That an acquire sees every earlier write is log
entry 8 (DEDUCED, unsafe for that claim), and one slice request for each lane is log entry 25. -/
def Obligations.Loads : Prop :=
  (∀ (i : Instr) (d a : RegField) (off : Int) (z : BitVec 3) (sx acq : Bool) (s : State) (x : Iss) (c : Ctx), issueOf i s = some x →
    ((∃ o e, i = .ld d a o z e ∧ off = x.off4 o (2 ^ z.toNat) ∧ sx = (e == 1) ∧ acq = false) ∨
      (∃ o e, i = .ldAcq d a o z e ∧ off = x.off4 o (2 ^ z.toNat) ∧ sx = (e == 1) ∧ acq = true)) →
    Claim.accesses x a off (2 ^ z.toNat) (writesBase d a (if z = 4 then 2 else 1)) → x.s.ctxOf x.g = some c →
    let n := 2 ^ z.toNat
    let lanes := plainLanes (x.t.vas a off)
    let q := gatherLanes x.s (x.reader c acq) n lanes
    let vals := onlyLow (x.t.lowFor d) q.vals
    let ps := if acq = true then loadWrites d n sx vals else lateWrites d n sx x.t.seqNo x.s.vers lanes vals
    let u := (x.request q.s c (q.done (x.t.vas a off))).modTeam x.r fun v =>
      (((v.freeze lanes n).sees q.seen).addPend (x.t.awaiting ps)).addReplay v.prefixPc (.load d n sx) q.left acq (x.t.lowFor d)
    (x.missFull = true → exec i s = .next (Claim.held x x.s)) ∧
    (x.missFull = false → q.bad = true → exec i s = .next (x.s.badAccess x.g x.t).moved) ∧
    (x.missFull = false → q.bad = false → ∃ t, exec i s = .next t ∧
      MovesOn (if acq = true ∧ q.left = [] then u.acquire x.r else u) t x)) ∧
  (∀ (d a : RegField) (o : BitVec 4) (z : BitVec 1) (s : State) (x : Iss) (c : Ctx), issueOf (.ldPoll d a o z) s = some x →
    let n := if z = 1 then 8 else 4
    Claim.accesses x a (x.off4 o n) n (writesBase d a 1) → x.s.ctxOf x.g = some c →
    let vas := x.t.vas a (x.off4 o n)
    let lanes := pollLanes x.t d n vas
    let q := gatherLanes x.s (x.reader c true) n lanes
    let ps := x.t.awaiting (loadWrites d n false (onlyLow (x.t.lowFor d) q.vals))
    let u := x.request q.s c (q.done vas)
    (x.missFull = true → exec (.ldPoll d a o z) s = .next (Claim.held x x.s)) ∧
    (x.missFull = false → q.bad = true → exec (.ldPoll d a o z) s = .next (x.s.badAccess x.g x.t).moved) ∧
    (x.missFull = false → q.bad = false →
      (q.left ≠ [] → ∃ t, exec (.ldPoll d a o z) s = .next t ∧ MovesOn (u.modTeam x.r fun v =>
        ((v.freeze lanes n).addPend ps).addReplay v.prefixPc (.load d n false) q.left true (x.t.lowFor d)) t x) ∧
      (q.left = [] → allUnchanged lanes q.vals = true → ∃ t, exec (.ldPoll d a o z) s = .next t ∧
        MovesOn (u.modTeam x.r fun v => { v.freeze lanes n with
          hold := .poll { seq := x.t.seqNo, pc := x.t.prefixPc, word := x.s.iword, dst := d, bytes := n, lanes := lanes
                          first := q.vals.map fun p => (p.1, BitVec.ofNat 64 (leNat p.2)), lines := polledLines q.s c lanes
                          ver := q.s.vers, since := q.s.clk, lc := x.t.lc, loops := x.t.loops } }) t x) ∧
      (q.left = [] → allUnchanged lanes q.vals = false →
        let v := (u.modTeam x.r fun v => v.addPend ps).acquire x.r
        (someUnchanged lanes q.vals = false → ∃ t, exec (.ldPoll d a o z) s = .next t ∧ MovesOn v t x) ∧
        (someUnchanged lanes q.vals = true → Claim.afterEvent (.ldPoll d a o z) s x v)))) ∧
  (∀ (a : RegField) (o : BitVec 4) (s : State) (x : Iss) (c : Ctx), issueOf (.pref a o) s = some x → x.s.ctxOf x.g = some c →
    let vas := x.t.vas a (x.off4 o 1)
    let p := (vas.map (·.2)).foldl (prefLane c) (x.s, false)
    (x.t.idle = true → ∃ t, exec (.pref a o) s = .next t ∧ MovesOn x.s t x) ∧
    (x.t.idle = false → x.missFull = true → exec (.pref a o) s = .next (Claim.held x x.s)) ∧
    (x.t.idle = false → x.missFull = false → p.2 = true → exec (.pref a o) s = .next (p.1.badAccess x.g x.t).moved) ∧
    (x.t.idle = false → x.missFull = false → p.2 = false → ∃ t, exec (.pref a o) s = .next t ∧
      MovesOn (x.request p.1 c (vas.filter fun v => decide (v.2 < 2 ^ 52))) t x)) ∧
  (∀ (s : State) (w : Reader) (seen : List (Nat × Nat × Int)) (host : Bool) (pa va n : Nat),
    (∀ e ∈ s.past, e.host = host → e.meets pa n = true → e.closed = true ∨
      (if e.name = none ∨ e.name = some (nameOf w.c.asid va pa) then
        w.fresh = true ∨ e.maker = some w.r ∨ e.ver < w.t.acqAt ∨ (host = true ∧ e.ver < w.acqAt s true) ∨
          (e.name = none ∧ e.ver < s.leafSince w.c va)
      else e.ver < s.shotAt w.c.part w.c.asid va)) →
    (s.readFor w seen host pa va n).1 = s.readPhys host pa n) ∧
  ∀ (s : State) (c : Ctx) (va : Nat) (k : Access), (s.xlate c k va).2.groups = s.groups ∧ (s.xlate c k va).2.hostMem = s.hostMem

/-- What a load's bytes become in a register (R144): zero-extended, or sign-extended from the access size; 16 bytes fill two registers. -/
def Obligations.LoadValues : Prop :=
  ∀ (d : RegField) (n : Nat) (sx : Bool) (vals : List (Nat × List Byte)),
    n = 1 ∨ n = 2 ∨ n = 4 ∨ n = 8 ∨ n = 16 → (∀ p ∈ vals, p.2.length = n) → (n = 16 → sx = false) →
    ((loadWrites d n sx vals).map (·.dst) = if n = 16 then [d, d + 1] else [d]) ∧
    (∀ w ∈ loadWrites d n sx vals, w.flags = 0 ∧ w.vals.map (·.1) = vals.map (·.1)) ∧
    ∀ l bs, (l, bs) ∈ vals →
      (∀ w, (loadWrites d n sx vals)[0]? = some w →
        (l, if sx = true ∧ n ≤ 8 then BitVec.ofInt 64 (Int.bmod (leNat bs) (2 ^ (8 * n))) else BitVec.ofNat 64 (leNat bs)) ∈ w.vals) ∧
      ∀ w, (loadWrites d n sx vals)[1]? = some w → (l, BitVec.ofNat 64 (leNat bs / 2 ^ 64)) ∈ w.vals

/-- ST and ST.REL complete (R147, R256 to R258): the bytes of each running lane's register enter the team's store buffer behind its
earlier stores, at base plus offset, under the instruction's number; ST.REL does so once the earlier accesses are performed, and
is held till then. No byte of memory changes until the store reaches its home slice. -/
def Obligations.Stores : Prop :=
  (∀ (d a : RegField) (o : BitVec 4) (z : BitVec 3) (s : State) (x : Iss), issueOf (.st d a o z) s = some x →
    Claim.accesses x a (x.off4 o (2 ^ z.toNat)) (2 ^ z.toNat) false → (x.s.ctxOf x.g).isSome = true →
    ∃ t, exec (.st d a o z) s = .next t ∧ TeamStep s t x
      { x.t with sbuf := x.t.sbuf ++ storeEntries x.t d (2 ^ z.toNat) (x.t.vas a (x.off4 o (2 ^ z.toNat))) } ∧
      t.mem = s.mem ∧ t.hostMem = s.hostMem) ∧
  (∀ (d a : RegField) (o : BitVec 4) (z : BitVec 3) (s : State) (x : Iss), issueOf (.stRel d a o z) s = some x →
    Claim.accesses x a (x.off4 o (2 ^ z.toNat)) (2 ^ z.toNat) false → (x.s.ctxOf x.g).isSome = true →
    (∀ y, releasedBy x = some y → ∃ t, exec (.stRel d a o z) s = .next t ∧ MovesOn (y.put
      { y.t with sbuf := storeEntries x.t d (2 ^ z.toNat) (x.t.vas a (x.off4 o (2 ^ z.toNat))) }) t x) ∧
    Claim.unreleased (.stRel d a o z) s x) ∧
  ∀ (t : Team) (d : RegField) (n l va : Nat), n = 1 ∨ n = 2 ∨ n = 4 ∨ n = 8 ∨ n = 16 →
    (storeEntries t d n [(l, va)]).map (fun e => (e.seq, e.pc, e.lane, e.va, e.bytes)) =
      (t.seqNo, t.prefixPc, l, va, leBytes (min n 8) (t.reg d l).toNat) ::
        if n = 16 then [(t.seqNo, t.prefixPc, l, va + 8, leBytes 8 (t.reg (d + 1) l).toNat)] else []

/-- The oldest store of a team at its home slice (R254, R257, R296, R297, R313): while it waits for an earlier access nothing happens
(the model's reading, log entry 15, DEDUCED). Where its address translates for a write, it leaves the buffer and its bytes stand
at the place found; every byte elsewhere is as the translation left it, the bytes replaced are kept for reads that may miss the
write, and the slice holds a place for it, which it had, or got by answering what stood before (log entry 25). A store that faults, or whose page
is compressed, stays in the buffer with every later one and waits in the replay set with all its lanes that stand there; one
that may not reach its bytes ends the context. -/
def Obligations.StoreReachesHome : Prop :=
  ∀ (s : State) (r : TeamRef) (g : Group) (t : Team) (c : Ctx) (e : StoreEntry) (rest : List StoreEntry), s.group? r.uid = some g →
    g.team? r.tid = some t → s.ctxOf g = some c → t.sbuf = e :: rest →
    (t.storeWaits e = true → s.drainOne r = s) ∧
    (t.storeWaits e = false →
      (∀ host pa atom u, s.xlate c .write e.va = (.ok host pa atom, u) → Memory.wf u.mem = true → Memory.wf u.hostMem = true →
        let v := s.drainOne r
        (∀ k, k < e.bytes.length → memRead (if host then v.hostMem else v.mem) (pa + k) = e.bytes.getD k 0) ∧
        (∀ a, a < pa ∨ pa + e.bytes.length ≤ a →
          memRead (if host then v.hostMem else v.mem) a = memRead (if host then u.hostMem else u.mem) a) ∧
        (if host then v.mem = u.mem else v.hostMem = u.hostMem) ∧
        v.past = { ver := u.vers, name := some (nameOf c.asid e.va pa), host := host, pa := pa
                   old := u.readPhys host pa e.bytes.length, maker := some r, fenced := false, closed := false } :: u.past ∧
        v.vers = u.vers + 1 ∧
        v.groups = (u.modTeam r fun w => { w with sbuf := rest }).groups ∧ v.ctxs = s.ctxs ∧
        (∀ pt, s.part? c.part = some pt →
          let home := homeOf pt c.asid e.va
          let q : SliceReq :=
            { team := r, seq := e.seq, lane := e.lane, home := home, accepted := true
              index := groupIndex (asidTag c.asid e.va) e.va }
          let free := s.sliceFill home < 32 ∧ ∀ k, s.core? g.core = some k →
            ∀ a ∈ k.reqs, a.accepted = true ∨ a.team ≠ r ∨ a.home ≠ home
          (free → v.cores = modAt s.cores g.core fun k => { k with reqs := k.reqs ++ [q] }) ∧
          (¬free → v.cores = modAt (s.sliceEmptied g.core home).cores g.core fun k => { k with reqs := k.reqs ++ [q] }))) ∧
      (∀ res u, s.xlate c .write e.va = (res, u) → ((∃ reason level, res = .fault reason level) ∨ ∃ pte, res = .expand pte) →
        s.drainOne r = u.modTeam r fun w => w.addItem
          { seq := e.seq, pc := e.pc, kind := .store e.bytes.length
            lanes := (w.sbuf.filter fun k => k.seq == e.seq).map fun k => laneAt k.lane k.va
            reqs := [], reported := false, acq := false, low := none }) ∧
      (∀ u, s.xlate c .write e.va = (.bad, u) → s.drainOne r = u.badAccess g t))

/-- The operation of an atomic, whether it returns the old values, its destination, base, ordering and size (R148). -/
def Sys2Proof.Claim.atomForm : Instr → Option (AtomOp × Bool × RegField × RegField × BitVec 2 × Nat)
  | .atomAdd d a o z => some (.add, true, d, a, o, 2 ^ z.toNat)
  | .atomMinI d a o z => some (.minI, true, d, a, o, 2 ^ z.toNat)
  | .atomMaxI d a o z => some (.maxI, true, d, a, o, 2 ^ z.toNat)
  | .atomMinN d a o z => some (.minN, true, d, a, o, 2 ^ z.toNat)
  | .atomMaxN d a o z => some (.maxN, true, d, a, o, 2 ^ z.toNat)
  | .atomAnd d a o z => some (.and, true, d, a, o, 2 ^ z.toNat)
  | .atomOr d a o z => some (.or, true, d, a, o, 2 ^ z.toNat)
  | .atomXor d a o z => some (.xor, true, d, a, o, 2 ^ z.toNat)
  | .atomSwap d a o z => some (.swap, true, d, a, o, 2 ^ z.toNat)
  | .cas d a o z => some (.cas, true, d, a, o, 2 ^ z.toNat)
  | .atomFadd d a o => some (.fadd, true, d, a, o, 4)
  | .redAdd d a o z => some (.add, false, d, a, o, 2 ^ z.toNat)
  | .redMinI d a o z => some (.minI, false, d, a, o, 2 ^ z.toNat)
  | .redMaxI d a o z => some (.maxI, false, d, a, o, 2 ^ z.toNat)
  | .redMinN d a o z => some (.minN, false, d, a, o, 2 ^ z.toNat)
  | .redMaxN d a o z => some (.maxN, false, d, a, o, 2 ^ z.toNat)
  | .redAnd d a o z => some (.and, false, d, a, o, 2 ^ z.toNat)
  | .redOr d a o z => some (.or, false, d, a, o, 2 ^ z.toNat)
  | .redXor d a o z => some (.xor, false, d, a, o, 2 ^ z.toNat)
  | .redFadd d a o => some (.fadd, false, d, a, o, 4)
  | _ => none

/-- The operands of an atomic in one lane (R149): data, and for CAS the compare value, in pairs of registers for 16 bytes. -/
def Sys2Proof.Claim.atomLane (t : Team) (op : AtomOp) (n : Nat) (d : RegField) (p : Nat × Nat) : LaneAcc :=
  let low := fun (f : RegField) => BitVec.ofNat 128 ((t.reg f p.1).toNat % 2 ^ (8 * n))
  let pair := fun (f : RegField) => t.reg (f + 1) p.1 ++ t.reg f p.1
  if op = .cas then
    if n = 16 then { lane := p.1, va := p.2, data := pair (d + 2), cmp := pair d }
    else { lane := p.1, va := p.2, data := low (d + 1), cmp := low d }
  else { lane := p.1, va := p.2, data := low d, cmp := 0 }

/-- The issue of an atomic as its lanes are performed: past the release that ORD.REL asks for. -/
def Sys2Proof.Claim.ordered (x : Iss) (o : BitVec 2) : Option Iss := if o.getLsbD 1 = true then releasedBy x else some x

/-- Atomics and reductions complete (R148 to R150, R174, R313): past the release that ORD.REL asks for, and with the team's own stores
written, where every lane translates and its path carries the operation, the lanes are performed at their homes in ascending
order and the old values are on their way to the destination; ORD.ACQ acquires, and a failed CAS is a demotion event. A lane that
faults, or an unfinished earlier access to the same bytes, puts all lanes into the replay set. A path that does not carry the
operation is ATOMPATH at the lowest running lane's address. A full miss queue, and stores that cannot be written, hold it. That an
unfinished earlier access to the same bytes sends all lanes into the replay set is the model's, log entries 15 and 40 (DEDUCED). -/
def Obligations.Atomics : Prop :=
  ∀ (i : Instr) (op : AtomOp) (ret : Bool) (d a : RegField) (o : BitVec 2) (n : Nat) (s : State) (x : Iss) (c : Ctx),
    issueOf i s = some x → Claim.atomForm i = some (op, ret, d, a, o, n) →
    Claim.accesses x a 0 n (ret && writesBase d a (if op = .cas ∧ n = 16 then 2 else 1)) → x.s.ctxOf x.g = some c →
    (o.getLsbD 1 = true → Claim.unreleased i s x) ∧
    ∀ y, Claim.ordered x o = some y →
      let lanes := (x.t.vas a 0).map (Claim.atomLane x.t op n d)
      let u := (y.s.modTeam y.r fun v => v.freeze lanes n).drain y.r
      let dst := if ret then some d else none
      (y.missFull = true → exec i s = .next (Claim.held x y.s)) ∧
      (y.missFull = false → u.team? y.r = none → exec i s = .next u.moved) ∧
      (y.missFull = false → ∀ w, u.team? y.r = some w →
        let q := placeLanes u c lanes
        let later := q.left = true ∨ ∃ p ∈ x.t.vas a 0, w.behind w.seqNo p.2 n = true
        (w.sbuf ≠ [] → exec i s = .next (Claim.held x u)) ∧
        (w.sbuf = [] → q.bad = true → exec i s = .next (q.s.badAccess y.g y.t).moved) ∧
        (w.sbuf = [] → q.bad = false → later → ∃ t, exec i s = .next t ∧ MovesOn (q.s.modTeam x.r fun v =>
          v.addReplay v.prefixPc (.atom (atomCode op) dst n) lanes (o.getLsbD 0)) t x) ∧
        (w.sbuf = [] → q.bad = false → ¬later →
          ((q.at_.all fun p => carried op n p.2.1 p.2.2.2) = true →
            let k := atomLanes q.s x.r c.asid op n q.at_
            let v := (y.request k.s c (x.t.vas a 0)).modTeam x.r fun v => v.addPend (x.t.awaiting (atomWrites dst n k))
            let v := if o.getLsbD 0 = true then v.acquire x.r else v
            (k.fail = false → ∃ t, exec i s = .next t ∧ MovesOn v t x) ∧
            (k.fail = true → Claim.afterEvent i s x v)) ∧
          ((q.at_.all fun p => carried op n p.2.1 p.2.2.2) = false →
            ∀ l va rest, x.t.vas a 0 = (l, va) :: rest → exec i s = .next (Claim.trapped x trapAtompath (BitVec.ofNat 64 va)))))

/-- One lane of an atomic at its home (R148, R149): the location of `n` bytes gets the operation's result, the old value is returned,
the team has seen every write to it, and no other byte and nothing else changes but the record of the write. -/
def Obligations.AtomicAtHome : Prop :=
  ∀ (r : TeamRef) (asid : Nat) (op : AtomOp) (n : Nat) (q : Atoms) (e : LaneAcc) (host : Bool) (pa atom : Nat),
    n = 4 ∨ n = 8 ∨ n = 16 →
    Memory.wf q.s.mem = true → Memory.wf q.s.hostMem = true → e.data.toNat < 2 ^ (8 * n) →
    let old := leNat (memReadN (if host then q.s.hostMem else q.s.mem) pa n)
    let arg := e.data.toNat
    let new := match op with
      | .add => (old + arg) % 2 ^ (8 * n)
      | .minI => if Int.bmod arg (2 ^ (8 * n)) < Int.bmod old (2 ^ (8 * n)) then arg else old
      | .maxI => if Int.bmod old (2 ^ (8 * n)) < Int.bmod arg (2 ^ (8 * n)) then arg else old
      | .minN => min old arg
      | .maxN => max old arg
      | .and => old &&& arg
      | .or => old ||| arg
      | .xor => old ^^^ arg
      | .swap => arg
      | .cas => if old = e.cmp.toNat then arg else old
      | .fadd => (addBits .fp32 rneRounding false old arg).1
    let w := atomLane r asid op n q (e, host, pa, atom)
    w.olds = q.olds ++ [(e.lane, old)] ∧
    (op ≠ .fadd ∨ n = 4 → leNat (memReadN (if host then w.s.hostMem else w.s.mem) pa n) = new % 2 ^ (8 * n)) ∧
    (∀ a, a < pa ∨ pa + n ≤ a → memRead (if host then w.s.hostMem else w.s.mem) a = memRead (if host then q.s.hostMem else q.s.mem) a) ∧
    (if host then w.s.mem = q.s.mem else w.s.hostMem = q.s.hostMem) ∧
    w.s.groups = (q.s.modTeam r fun t =>
      { t with seen := ((q.s.past.filter fun k => k.host == host && k.meets pa n).map fun k => (k.ver, nameOf asid e.va pa)) ++ t.seen }).groups ∧
    w.s.vers = q.s.vers + 1 ∧ w.s.ctxs = q.s.ctxs ∧ w.s.cores = q.s.cores ∧ w.s.parts = q.s.parts ∧
    (w.fail = true ↔ q.fail = true ∨ (op = .cas ∧ old ≠ e.cmp.toNat))

/-! ### Queues -/

/-- The machine after a word that holds its team on a queue: from the start of the hold the group's progress count runs, and a hold
that costs decoupling is counted, once for the instruction (R245, R246). -/
def Sys2Proof.Claim.heldOnQueue (x : Iss) (lost : Bool) : State :=
  let s :=
    if x.t.queueHeld then x.s
    else
      let s := x.s.modGroup x.r.uid fun g => { g with qMark := x.s.clk }
      if lost = true ∧ x.t.lodHeld = false then s.modTeam x.r fun v => { v with lodcnt := v.lodcnt + 1, lodHeld := true } else s
  s.modTeam x.r fun v => { v with heldAt := some s.progress, queueHeld := true, heldClk := s.clk }

/-- The visible entries of a queue in an a-clk (R227): those complete in an earlier one, before the first that is not. -/
def Sys2Proof.Claim.visible (q : Queue) (clk : Nat) : List QEntry := q.entries.takeWhile fun e => e.complete && decide (e.since ≤ clk)

/-- Places of a queue that are not free in an a-clk: its entries, and what was popped in that a-clk (R226, R228). -/
def Sys2Proof.Claim.taken (q : Queue) (clk : Nat) : Nat := q.entries.length + if clk < q.freeAt then q.freed else 0

/-- A queue once an entry has been reserved in an a-clk: it is visible at the earliest in the next (R226, R227). -/
def Sys2Proof.Claim.pushed (clk : Nat) (e : QEntry) (ends : Bool) (q : Queue) : Queue :=
  { q with
    entries := q.entries ++ [{ e with id := q.nextId, since := clk + 1 }], nextId := q.nextId + 1, pushAt := some clk
    ended := q.ended || ends }

/-- A queue once its oldest `n` entries have been removed in an a-clk: their places fall free in the next (R228). -/
def Sys2Proof.Claim.popped (clk n : Nat) (q : Queue) : Queue :=
  { q with entries := q.entries.drop n, freed := (if q.freeAt = clk + 1 then q.freed else 0) + n, freeAt := clk + 1 }

/-- A group of which a queue has changed in an a-clk: its progress count is 0 then, and in the next a-clk too where more
entries become visible in it (R246). -/
def Sys2Proof.Claim.queueChanged (clk n : Nat) (f : Queue → Queue) (g : Group) : Group :=
  let qs := modWhere g.queues (fun q => q.num == n) f
  let seen := fun (l : List Queue) => ((l.find? fun q => q.num == n).map fun q => (Claim.visible q (clk + 1)).length).getD 0
  { g with queues := qs, qMark := if seen g.queues < seen qs then clk + 1 else clk }

/-- A queue of the issuing team's group changes and results are on their way to the team. -/
def Sys2Proof.Claim.queueMoved (x : Iss) (n : Nat) (f : Queue → Queue) (ps : List PendWrite) : State :=
  (x.s.modGroup x.r.uid (Claim.queueChanged x.s.clk n f)).modTeam x.r fun v => v.addPend ps

/-- What QPUSH, QMARK.SEG and QMARK.EOS push (R233): queue, status register, entry, and whether it ends the queue. -/
def Sys2Proof.Claim.pushForm (t : Team) : Instr → Option (BitVec 4 × BitVec 8 × (Queue → QEntry) × Bool)
  | .qpush d q i => some (q, i, fun qu => entryOf 0 0 (pushVals t d qu) t.tid, false)
  | .qmarkSeg d q i => some (q, i, fun _ => entryOf 1 ((t.sreg d).truncate 16) [] t.tid, false)
  | .qmarkEos q i => some (q, i, fun _ => entryOf 2 0 [] t.tid, true)
  | _ => none

/-- QPOP, QTRY and QPEEK: destination, queue, status register, and whether it tries, and only looks. -/
def Sys2Proof.Claim.popForm : Instr → Option (RegField × BitVec 4 × BitVec 8 × Bool × Bool)
  | .qpop d q i => some (d, q, i, false, false)
  | .qtry d q i => some (d, q, i, true, false)
  | .qpeek d q i => some (d, q, i, false, true)
  | _ => none

/-- Pushes and pops complete (R223 to R234, R245, R246). With no running lane nothing happens. A push into a queue that is not OPEN or has ended
changes nothing and reports CLOSED; into a full one it is held; else the entry goes behind the others with status 0. A pop
from a CLOSING or CLOSED queue reports CLOSED with the tag EOS; with no visible entry QTRY reports EMPTY and the others are
held; else the oldest entry's values go to the running lanes, the status last, and, but for EOS and QPEEK, it leaves the
queue. An entry is visible at the earliest in the a-clk after its push, and its place is free in the a-clk after its pop. -/
def Obligations.QueueEntries : Prop :=
  (∀ (i : Instr) (n : BitVec 4) (spec : BitVec 8) (e : Queue → QEntry) (ends : Bool) (s : State) (x : Iss) (q : Queue),
    issueOf i s = some x → Claim.pushForm x.t i = some (n, spec, e, ends) → x.g.queue? n.toNat = some q →
    (x.t.idle = true → ∃ t, exec i s = .next t ∧ MovesOn x.s t x) ∧
    (x.t.idle = false → (q.state ≠ .opened ∨ q.ended = true) → ∃ t, exec i s = .next t ∧
      TeamStep s t x (x.t.addPend (pendStatus spec 0x40000#32))) ∧
    (x.t.idle = false → q.state = .opened → q.ended = false → q.depth ≤ Claim.taken q x.s.clk →
      exec i s = .next (Claim.heldOnQueue x false)) ∧
    (x.t.idle = false → q.state = .opened → q.ended = false → Claim.taken q x.s.clk < q.depth → ∃ t, exec i s = .next t ∧
      MovesOn (Claim.queueMoved x n.toNat (fun q => Claim.pushed x.s.clk (e q) ends q)
        (pendStatus spec 0)) t x)) ∧
  ∀ (i : Instr) (d : RegField) (n : BitVec 4) (spec : BitVec 8) (tries peeks : Bool) (s : State) (x : Iss) (q : Queue),
    issueOf i s = some x → Claim.popForm i = some (d, n, spec, tries, peeks) → x.g.queue? n.toNat = some q →
    (x.t.idle = true → ∃ t, exec i s = .next t ∧ MovesOn x.s t x) ∧
    (x.t.idle = false → (q.state = .closing ∨ q.state = .closed) → ∃ t, exec i s = .next t ∧
      TeamStep s t x (x.t.addPend (pendStatus spec 0x60000#32))) ∧
    (x.t.idle = false → q.state ≠ .closing → q.state ≠ .closed → Claim.visible q x.s.clk = [] →
      (tries = true → ∃ t, exec i s = .next t ∧ TeamStep s t x (x.t.addPend (pendStatus spec 0x80000#32))) ∧
      (tries = false → exec i s = .next (Claim.heldOnQueue x (x.t.role == .access && q.producer != .access)))) ∧
    (x.t.idle = false → q.state ≠ .closing → q.state ≠ .closed → ∀ h rest, Claim.visible q x.s.clk = h :: rest →
      let status := pendStatus spec (h.tag.zeroExtend 32 <<< 16 ||| if h.tag = 1 then h.payload.zeroExtend 32 else 0)
      let ps := if spec ≠ 0 ∧ d = spec.truncate 7 then status else popWrites x.t d q h ++ status
      ((peeks = true ∨ h.tag = 2) → ∃ t, exec i s = .next t ∧ TeamStep s t x (x.t.addPend ps)) ∧
      (peeks = false → h.tag ≠ 2 → ∃ t, exec i s = .next t ∧
        MovesOn (Claim.queueMoved x n.toNat (Claim.popped x.s.clk 1) ps) t x))

/-- QCLOSE, QFLUSH and QSTAT complete (R227, R235 to R237, R243). Closing an OPEN queue removes every entry, counts them, and leaves it
CLOSED, or CLOSING with as many loads in flight as entries waited for data that no page request holds back, and with no load
into it waiting for a page nothing else changes; a queue that is not OPEN is left alone. A close comes in the a-clk after that of
a push that was not refused (log entry 3). QFLUSH removes the visible entries before an EOS, counts them and reports their number;
their places fall free in the next a-clk (DEDUCED, log entry 54). QSTAT reports the state word, or one of the two counts. -/
def Obligations.QueueControl : Prop :=
  (∀ (n : BitVec 4) (s : State) (x : Iss) (q : Queue), issueOf (.qclose n) s = some x → x.g.queue? n.toNat = some q →
    ((x.t.idle = true ∨ q.state ≠ .opened) → ∃ t, exec (.qclose n) s = .next t ∧ MovesOn x.s t x) ∧
    (x.t.idle = false → q.state = .opened →
      let u := { x.s with clk := if q.pushAt = some x.s.clk then x.s.clk + 1 else x.s.clk }.closeQueue x.g n.toNat
      let fly := (q.entries.filter fun e => e.waiting && !e.faulted).length
      (∃ t, exec (.qclose n) s = .next t ∧ MovesOn u t x) ∧
      ((∀ v ∈ x.g.teams, v.replay.any (ReplayItem.ofQueue n.toNat) = false) →
        u.mem = x.s.mem ∧ u.hostMem = x.s.hostMem ∧ u.ctxs = x.s.ctxs ∧ u.cores = x.s.cores ∧ u.parts = x.s.parts ∧
        (∀ k, k ≠ x.r.uid → u.group? k = x.s.group? k) ∧
        (u.group? x.r.uid).bind (fun g => g.queue? n.toNat) = some { q with
          state := if fly = 0 then .closed else .closing, entries := [], inFlight := fly
          flushed := q.flushed + BitVec.ofNat 32 q.entries.length }))) ∧
  (∀ (d : RegField) (n : BitVec 4) (s : State) (x : Iss) (q : Queue), issueOf (.qflush d n) s = some x → x.g.queue? n.toNat = some q →
    let k := if x.t.idle = true ∨ q.state = .closing ∨ q.state = .closed then 0
      else ((Claim.visible q x.s.clk).takeWhile fun e => e.tag != 2).length
    (k = 0 → ∃ t, exec (.qflush d n) s = .next t ∧ TeamStep s t x (x.t.addPend [pendS d 0])) ∧
    (0 < k → ∃ t, exec (.qflush d n) s = .next t ∧
      MovesOn (Claim.queueMoved x n.toNat
        (fun q => { Claim.popped x.s.clk k q with flushed := q.flushed + BitVec.ofNat 32 k })
        [pendS d (BitVec.ofNat 32 k)]) t x)) ∧
  ∀ (d : RegField) (n : BitVec 4) (k : BitVec 8) (s : State) (x : Iss) (q : Queue), issueOf (.qstat d n k) s = some x →
    x.g.queue? n.toNat = some q →
    let vis := (Claim.visible q x.s.clk).length
    let code := match q.state with
      | .opened => 1
      | .closing => 2
      | .closed => 3
      | _ => 0
    let word := match k.toNat with
      | 0 => BitVec.ofNat 32 (q.depth * 2 ^ 24 + (q.entries.length - vis) * 2 ^ 16 + vis * 2 ^ 8 + (if q.ended then 8 else 0) + code)
      | 1 => q.cancelled
      | _ => q.flushed
    ∃ t, exec (.qstat d n k) s = .next t ∧ TeamStep s t x (x.t.addPend [pendS d word])

/-- The lanes that LDQ and LDQG load for, with their addresses: LDQG skips a lane whose base is 0 (R240). -/
def Sys2Proof.Claim.queueLanes (x : Iss) : Instr → Option (BitVec 4 × List (Nat × Nat))
  | .ldq q a o z => some (q, x.t.vas a (x.off4 o (2 ^ z.toNat)))
  | .ldqg q a o z => some (q, (x.t.vas a (x.off4 o (2 ^ z.toNat))).filter fun p => x.t.reg a p.1 != 0)
  | _ => none

/-- The store of a popped DATA entry in one lane (R241). -/
def Sys2Proof.Claim.queueStore (x : Iss) (n : Nat) (h : QEntry) (p : Nat × Nat) : StoreEntry :=
  { seq := x.t.seqNo, pc := x.t.prefixPc, lane := p.1, va := p.2, bytes := leBytes n (h.vals.getD p.1 0).toNat }

/-- LDQ, LDQG and STQ complete (R240 to R242, R314). A load reserves the next entry, whose data are those read at issue and arrive
later; lanes that fault join the replay set. STQ pops the oldest visible entry and its values enter the store buffer at the
running lanes' addresses. All three check their addresses as loads and stores do and wait as pushes and pops do; a load waits
for the miss queue too. That MEMFAULT comes before ALIGN within one lane is log entry 35 (DEDUCED). -/
def Obligations.QueueMemory : Prop :=
  (∀ (i : Instr) (n : BitVec 4) (vas : List (Nat × Nat)) (s : State) (x : Iss) (q : Queue) (c : Ctx), issueOf i s = some x →
    Claim.queueLanes x i = some (n, vas) → x.g.queue? n.toNat = some q → x.s.ctxOf x.g = some c →
    (x.t.idle = true → ∃ t, exec i s = .next t ∧ MovesOn x.s t x) ∧
    (x.t.idle = false → Claim.laneTraps i s x q.elemBytes vas) ∧
    (x.t.idle = false → (∀ p ∈ vas, Claim.laneOk q.elemBytes p) →
      ((q.state ≠ .opened ∨ q.ended = true) → ∃ t, exec i s = .next t ∧ MovesOn x.s t x) ∧
      (q.state = .opened → q.ended = false → q.depth ≤ Claim.taken q x.s.clk → exec i s = .next (Claim.heldOnQueue x false)) ∧
      (q.state = .opened → q.ended = false → Claim.taken q x.s.clk < q.depth →
        let w := gatherLanes x.s (x.reader c false) q.elemBytes (plainLanes vas)
        (x.missFull = true → exec i s = .next (Claim.held x x.s)) ∧
        (x.missFull = false → w.bad = true → exec i s = .next (x.s.badAccess x.g x.t).moved) ∧
        (x.missFull = false → w.bad = false → ∃ t, exec i s = .next t ∧
          MovesOn (((x.request w.s c (w.done vas)).modGroup x.r.uid <| Claim.queueChanged x.s.clk n.toNat <|
              Claim.pushed x.s.clk
                { id := 0, tag := 0, payload := 0, vals := fillVals (List.replicate q.width 0) w.vals, complete := false
                  waiting := true, faulted := !w.left.isEmpty, owner := x.t.tid, req := some x.t.seqNo } false).modTeam x.r fun v =>
            ((v.freeze (plainLanes vas) q.elemBytes).sees w.seen).addReplay v.prefixPc
              (.queue n.toNat q.nextId q.elemBytes) w.left) t x)))) ∧
  ∀ (n o : BitVec 4) (a : RegField) (z : BitVec 3) (s : State) (x : Iss) (q : Queue), issueOf (.stq n a o z) s = some x →
    x.g.queue? n.toNat = some q →
    let vas := x.t.vas a (x.off4 o (2 ^ z.toNat))
    (x.t.idle = true → ∃ t, exec (.stq n a o z) s = .next t ∧ MovesOn x.s t x) ∧
    (x.t.idle = false → Claim.laneTraps (.stq n a o z) s x q.elemBytes vas) ∧
    (x.t.idle = false → (∀ p ∈ vas, Claim.laneOk q.elemBytes p) →
      ((q.state = .closing ∨ q.state = .closed) → ∃ t, exec (.stq n a o z) s = .next t ∧ MovesOn x.s t x) ∧
      (q.state ≠ .closing → q.state ≠ .closed → Claim.visible q x.s.clk = [] →
        exec (.stq n a o z) s = .next (Claim.heldOnQueue x (x.t.role == .access && q.producer != .access))) ∧
      (q.state ≠ .closing → q.state ≠ .closed → ∀ h rest, Claim.visible q x.s.clk = h :: rest →
        let stores := if h.tag = 0 then vas.map (Claim.queueStore x q.elemBytes h) else []
        (h.tag = 2 → ∃ t, exec (.stq n a o z) s = .next t ∧ MovesOn x.s t x) ∧
        (h.tag ≠ 2 → ∃ t, exec (.stq n a o z) s = .next t ∧
          MovesOn ((x.s.modGroup x.r.uid (Claim.queueChanged x.s.clk n.toNat (Claim.popped x.s.clk 1))).modTeam x.r fun v =>
            { v with sbuf := v.sbuf ++ stores }) t x)))

/-! ### Tiles -/

/-- What a check that failed does (R449): a trap, whose TRAPVA is a free value where the manual gives none. -/
def Sys2Proof.Claim.checkTrap (x : Iss) (code : Nat) (va : Option DWord) : State :=
  match va with
  | some va => Claim.trapped x code va
  | none => (x.s.freeVal.2.raiseTrap x.r code x.s.freeVal.1 x.t.prefixPc).moved

/-- The value and flags that a tile load gives one lane (R153, R338, R340), reading the group as `g`. -/
def Sys2Proof.Claim.tileValue (x : Iss) (g : Group) (h : Hdr) (recon : Bool) (e : ElemAt) : Word × Flags :=
  if recon then
    let v := g.recElem h e.row e.col
    let p := patWord (convBits .fp32 (if x.t.fmtRec.fd ≤ 1 then .fp32 else codeFmt x.t.fmtRec.fd) rneRounding v.1.toNat)
    (p.1, v.2 ||| p.2)
  else tldVal g h x.t.fmtRec.fd (g.rawAt h (e.base.getD 0) e.col)

/-- The issue of a word that reads the scratchpad as its team's ordinary reads do (R140, R254): the group as the team reads it, and
the team with the writes it has then seen. -/
def Sys2Proof.Claim.viewed (x : Iss) : Iss :=
  { x with g := x.padView.1, t := { x.t with padSeen := x.padView.2 ++ x.t.padSeen } }

/-- Tile loads, tile stores and TBIND complete (R151 to R155, R254, R449). With no running lane nothing is checked or done (log
entry 39, DEDUCED). A check that fails traps. TLD and TLDR:
each running lane's element, converted, is on its way to the register, with the conversion flags. TST and TSTR: each running
lane's value, converted by the functions whose results Conversions states, goes to its element, and the flags to ASTAT, and the bytes replaced are kept for reads that may miss
the store. A load misses no store of its own team and none from before its latest acquire, which is more than
the rules ask (log entry 9). TBIND gives a handle an aligned offset in the
scratchpad. -/
def Obligations.TileAccess : Prop :=
  (∀ (i : Instr) (d a : RegField) (n : BitVec 4) (pair : Bool) (s : State) (x : Iss), issueOf i s = some x →
    (i = .tld d a n ∧ pair = false) ∨ (i = .tldr d a n ∧ pair = true) →
    let h := hdrAt x.g x.t n.toNat
    let recon := x.t.hasRec && h.isHaar
    let es := elemsOf x.t h a pair
    let check := tldCheck x n.toNat x.t.fmtRec.fd recon h es
    (x.t.idle = true → ∃ t, exec i s = .next t ∧ MovesOn x.s t x) ∧
    (x.t.idle = false → check = none → ∃ t, exec i s = .next t ∧ TeamStep s t x ((Claim.viewed x).t.addPend [{
      dst := d, vals := es.map fun e => (e.lane, x.t.ext32 (Claim.tileValue x (Claim.viewed x).g h recon e).1)
      flags := orAll (es.map fun e => (Claim.tileValue x (Claim.viewed x).g h recon e).2) }])) ∧
    (x.t.idle = false → ∀ code va, check = some (code, va) → exec i s = .next (Claim.checkTrap x code va))) ∧
  (∀ (i : Instr) (d a : RegField) (n : BitVec 4) (pair : Bool) (s : State) (x : Iss), issueOf i s = some x →
    (i = .tst d a n ∧ pair = false) ∨ (i = .tstr d a n ∧ pair = true) →
    let h := hdrAt x.g x.t n.toNat
    let src := tstSource h x.t.fmtRec.fa
    let es := elemsOf x.t h a pair
    let out := fun (e : ElemAt) => tstVal h (src.getD .fp32) x.t.fmtRec.sat (x.t.reg32 d e.lane)
    let check := spatialCheck x n.toNat src.isSome h es
    (x.t.idle = true → ∃ t, exec i s = .next t ∧ MovesOn x.s t x) ∧
    (x.t.idle = false → check = none → ∃ t, exec i s = .next t ∧
      MovesOn ((x.s.modGroup x.r.uid fun g =>
          (es.foldl (fun g e => g.rawPut h (e.base.getD 0) e.col (out e).1) g).madeBy x.r g.vers).modTeam x.r
        fun v => v.orFlags (orAll (es.map fun e => (out e).2))) t x) ∧
    (x.t.idle = false → ∀ code va, check = some (code, va) → exec i s = .next (Claim.checkTrap x code va))) ∧
  (∀ (g : Group) (h : Hdr) (base col v : Nat), Memory.wf g.pad = true → h.bits % 8 = 0 →
    memNat (g.rawPut h base col v).pad (base + col * (h.bits / 8)) (h.bits / 8) = v % 2 ^ h.bits ∧
    ∀ a, a < base + col * (h.bits / 8) ∨ base + col * (h.bits / 8) + h.bits / 8 ≤ a →
      memRead (g.rawPut h base col v).pad a = memRead g.pad a) ∧
  (∀ x : Iss, (∀ e ∈ x.g.past, e.closed = true ∨ e.maker = some x.r ∨ e.ver < x.t.padAt ∨ e.ver ∈ x.t.padSeen) → x.padView.1 = x.g) ∧
  ∀ (a : RegField) (n : BitVec 4) (s : State) (x : Iss), issueOf (.tbind a n) s = some x →
    let off := (x.t.sreg a).toNat
    let good := off % 32 = 0 ∧ off + 32 ≤ x.g.padSize
    (x.t.idle = true → ∃ t, exec (.tbind a n) s = .next t ∧ MovesOn x.s t x) ∧
    (x.t.idle = false → ¬good → exec (.tbind a n) s = .next (Claim.trapped x trapBounds (BitVec.ofNat 64 off))) ∧
    (x.t.idle = false → good → x.t.responder = none → ∃ t, exec (.tbind a n) s = .next t ∧
      MovesOn (x.s.modGroup x.r.uid fun g => { g with handles := g.handles.set n.toNat (some off) }) t x) ∧
    (x.t.idle = false → good → ∀ i, x.t.responder = some i → ∃ t, exec (.tbind a n) s = .next t ∧
      MovesOn (x.s.modTeam x.r fun v => { v with responder := some { i with handles := i.handles.set n.toNat (some off) } }) t x)

/-- The operation of a tile atomic (R156). -/
def Sys2Proof.Claim.tileAtom : Instr → Option (TileOp × RegField × RegField × BitVec 4)
  | .atomtAdd d a t => some (.arith .add, d, a, t)
  | .atomtMinI d a t => some (.arith .minI, d, a, t)
  | .atomtMaxI d a t => some (.arith .maxI, d, a, t)
  | .atomtMinN d a t => some (.arith .minN, d, a, t)
  | .atomtMaxN d a t => some (.arith .maxN, d, a, t)
  | .atomtAnd d a t => some (.arith .and, d, a, t)
  | .atomtOr d a t => some (.arith .or, d, a, t)
  | .atomtXor d a t => some (.arith .xor, d, a, t)
  | .atomtSwap d a t => some (.arith .swap, d, a, t)
  | .atomtFadd d a t => some (.arith .fadd, d, a, t)
  | .atomtMaxpk d a t => some (.maxpk, d, a, t)
  | .castt d a t => some (.cast, d, a, t)
  | _ => none

/-- Tile atomics (R156, R157, R174), QUANT (R213) and CBLD (R217) complete. A tile atomic whose checks pass updates the running lanes' elements one
after the other, the old values are on their way to the destination (MAXPK: to a pair), and a failed CAST is a demotion event. QUANT rounds each block of 32 lanes with one code, its values under the
scale exact products (R37), the code and the elements those of R38. CBLD loads a codebook's entries of the
running lanes. That a tile atomic with no running lane makes no check is a reading (log entry 39). -/
def Obligations.TileAtomics : Prop :=
  (∀ (i : Instr) (op : TileOp) (d a : RegField) (n : BitVec 4) (s : State) (x : Iss), issueOf i s = some x →
    Claim.tileAtom i = some (op, d, a, n) →
    let h := hdrAt x.g x.t n.toNat
    let es := atomtElems x.t h op a
    let check := firstFail [handleCheck x.g x.t n.toNat, domCheck x.word h,
      failIf (h.malformed || !tileOpFmtOk op h) trapFormat x.word, failIf (h.dom != 0) trapDomain x.word, atomtCheck x.g h op es]
    let q := es.foldl (tileAtomLane x.t h op d) { g := x.g, olds := [], flags := 0, fail := false }
    let low : PendWrite := { dst := d, vals := q.olds.map fun p => (p.1, BitVec.ofNat 64 (p.2 % 2 ^ 32)), flags := q.flags }
    let high : PendWrite := { dst := d + 1, vals := q.olds.map fun p => (p.1, BitVec.ofNat 64 (p.2 / 2 ^ 32)), flags := 0 }
    (x.t.idle = true → ∃ t, exec i s = .next t ∧ MovesOn x.s t x) ∧
    (x.t.idle = false → ∀ code va, check = some (code, va) → exec i s = .next (Claim.checkTrap x code va)) ∧
    (x.t.idle = false → check = none →
      let u := (x.s.modGroup x.r.uid fun g => g.storePad q.g x.r).modTeam x.r fun v =>
        v.addPend (if op = .maxpk then [low, high] else [low])
      (q.fail = false → ∃ t, exec i s = .next t ∧ MovesOn u t x) ∧ (q.fail = true → Claim.afterEvent i s x u))) ∧
  Claim.BlockRule ∧ Claim.ScaledRule ∧
  (∀ (g w : Group) (r : TeamRef), (g.storePad w r).pad = w.pad ∧ (g.storePad w r).vers = w.vers ∧
    (g.storePad w r).past = w.past.map fun e => if g.vers ≤ e.ver then { e with maker := some r } else e) ∧
  (∀ (d a b : RegField) (s : State) (x : Iss), issueOf (.quant d a b) s = some x →
    let ok := x.t.fmtRec.fa ≤ 1 ∧ (codeFmt x.t.fmtRec.fd = .e5m2 ∨ codeFmt x.t.fmtRec.fd = .e4m3)
    let blocks := (List.range (ceilDiv x.t.lanes.length 32)).map fun j =>
      quantLanes (codeFmt x.t.fmtRec.fd) ((x.t.run.filter fun l => l / 32 == j).map fun l =>
        (l, tileScaled (x.t.sreg b) (unpackFloat .fp32 (x.t.reg32 a l).toNat), x.rounding x.t.fmtRec.sat l 0))
    (¬ok → exec (.quant d a b) s = .next (Claim.trapped x trapFormat x.word)) ∧
    (ok → ∃ t, exec (.quant d a b) s = .next t ∧ TeamStep s t x ((x.t.write32 d fun l =>
      (((blocks.flatMap (·.1)).find? fun p => p.1 == l).map (·.2)).getD 0).orFlags (orAll (blocks.map (·.2)))))) ∧
  ∀ (i a : RegField) (s : State) (x : Iss), issueOf (.cbld i a) s = some x →
    let lanes := x.t.run.filter fun l => decide (l < 16)
    let note := fun (n l : Nat) => ({
      ver := x.g.vers + n, name := none, host := true, pa := 32 * i.toNat + 2 * l
      old := leBytes 2 ((x.g.codebooks.getD i.toNat []).getD l 0 : BitVec 16).toNat
      maker := some x.r, fenced := false, closed := false } : PastWrite)
    ∃ t, exec (.cbld i a) s = .next t ∧ MovesOn (x.s.modGroup x.r.uid fun g => { g with
      past := (lanes.mapIdx note).reverse ++ g.past.map fun e => if g.vers ≤ e.ver then { e with maker := some x.r } else e
      vers := g.vers + lanes.length
      codebooks := modAt g.codebooks i.toNat fun book => book.mapIdx fun k e =>
        if k ∈ lanes then BitVec.ofNat 16 (x.t.reg32 a k).toNat else e }) t x

/-! ### Copies, fetches, tasks -/

/-- The kind and operands of a copy command (R277, R280). -/
def Sys2Proof.Claim.copyForm (t : Team) : Instr → Option (CopyKind × RegField × RegField)
  | .cpy a b => some (.cpy, a, b)
  | .cpym d a b => some (.cpym (t.sreg d), a, b)
  | .cpys a b => some (.cpys, a, b)
  | _ => none

/-- The copy command of one lane as it stands behind the others, numbered in lane order (R277). -/
def Sys2Proof.Claim.laneCommand (x : Iss) (k : CopyKind) (a b : RegField) (i l : Nat) : Copy :=
  { seq := x.s.nextSeq + i, uid := x.r.uid, tid := x.r.tid, kind := k, opA := x.t.reg a l, opB := x.t.reg b l, batch := x.t.cb,
    dropseed := x.t.dropseed, state := .entering, recv := [], pos := 0, counted := [], record := [], bits := 0, waitReq := none }

/-- CPY, CPYM, CPYS, CBATCH and CWAIT complete (R264, R277 to R285). The lowest running lane whose operands fail traps; else each running lane's
command waits to enter the engine, one of LEN 0 having nothing to do, and commands enter while places are free. CBATCH gives
sD the open batch and opens the next. CWAIT reports a batch not opened yet, is held while a copy it waits for is outstanding, and
else reports the bits of the batches it waited for, which are then discarded, and acquires. -/
def Obligations.CopyWords : Prop :=
  (∀ (i : Instr) (k : CopyKind) (a b : RegField) (s : State) (x : Iss), issueOf i s = some x → Claim.copyForm x.t i = some (k, a, b) →
    let fault := x.t.run.findSome? fun l => copyLaneFault x.g.padSize k (x.t.reg a l) (x.t.reg b l)
    (∀ code va, fault = some (code, va) → exec i s = .next (Claim.trapped x code va)) ∧
    (fault = none → ∃ t, exec i s = .next t ∧ MovesOn ({ x.s with
      copies := x.s.copies ++ (x.t.run.mapIdx (Claim.laneCommand x k a b)).filter fun (c : Copy) =>
        k == CopyKind.cpys || bitsOf c.opB.toNat 24 24 != 0
      nextSeq := x.s.nextSeq + x.t.run.length }.admitCopies x.g.core) t x)) ∧
  (∀ (pad : Nat) (k : CopyKind) (a b : DWord),
    (2 ^ 52 ≤ a.toNat → copyLaneFault pad k a b = some (trapMemfault, a)) ∧
    (a.toNat < 2 ^ 52 → k = .cpys → copyLaneFault pad k a b = if a.toNat % 64 = 0 then none else some (trapAlign, a)) ∧
    (a.toNat < 2 ^ 52 → k = .cpy → copyLaneFault pad k a b =
      if 0 < bitsOf b.toNat 24 24 ∧ pad < bitsOf b.toNat 0 22 + bitsOf b.toNat 24 24 then
        some (trapBounds, BitVec.ofNat 64 (bitsOf b.toNat 0 22)) else none)) ∧
  (∀ (d : RegField) (s : State) (x : Iss), issueOf (.cbatch d) s = some x →
    (x.t.idle = true → ∃ t, exec (.cbatch d) s = .next t ∧ MovesOn x.s t x) ∧
    (x.t.idle = false → ∃ t, exec (.cbatch d) s = .next t ∧
      TeamStep s t x { x.t.putS d (x.t.cb.zeroExtend 32) with cb := x.t.cb + 1 })) ∧
  ∀ (d a : RegField) (s : State) (x : Iss), issueOf (.cwait d a) s = some x →
    let age := (x.t.cb - (x.t.sreg a).extractLsb' 0 16).toNat
    let mine := x.s.copies.filter fun c => c.uid == x.r.uid && c.tid == x.r.tid && decide (age ≤ (x.t.cb - c.batch).toNat)
    let bits := (x.t.batches.filter fun b => decide (age ≤ (x.t.cb - b.batch).toNat)).foldl (fun n b => n ||| b.bits) 0#8
    (32767 < age → ∃ t, exec (.cwait d a) s = .next t ∧
      TeamStep s t x (x.t.putS d (x.t.cb.zeroExtend 32 <<< 16 ||| 4#32))) ∧
    (age ≤ 32767 → mine ≠ [] → exec (.cwait d a) s = .next (Claim.held x x.s)) ∧
    (age ≤ 32767 → mine = [] → ∃ t, exec (.cwait d a) s = .next t ∧
      MovesOn ((x.put { (x.t.putS d (x.t.cb.zeroExtend 32 <<< 16 ||| bits.zeroExtend 32)).orFlags (statusFlags bits) with
        batches := x.t.batches.filter fun b => decide ((x.t.cb - b.batch).toNat < age) }).acquire x.r) t x)

/-- The rows that a FETCH or FETCHX brings, as source row and tile row (R327). -/
def Sys2Proof.Claim.fetchForm (x : Iss) : Instr → Option (RegField × RegField × (Hdr → List (Nat × Nat)))
  | .fetch t a b => some (t, b, fun h => (List.range h.rows).map fun i => ((x.t.sreg a).toNat + i, i))
  | .fetchx t a b => some (t, b, fun h => x.t.run.map fun l => (h.ibase + (x.t.reg32 a l).toNat, l))
  | _ => none

/-- A run of `n` bytes that the issuing team reads by ordinary loads, with what the word goes on to do with them (R298, R314, R326):
MEMFAULT at the first byte beyond the address space; held while the miss queue is full; ERROR where the part may not read it; a
lane that faults makes the team wait and perform the word again whole. Once the bytes are read, the home slices have room
for their requests, which are answered by then (log entry 25), and earlier loads of the bytes take no later value. -/
def Sys2Proof.Claim.reads (i : Instr) (s : State) (x : Iss) (c : Ctx) (u : State) (va n : Nat)
    (k : State → List Byte → Prop) : Prop :=
  let q := x.readRun u c false va n
  (2 ^ 52 < va + n → 0 < n → exec i s = .next (Claim.trapped x trapMemfault (BitVec.ofNat 64 (max va (2 ^ 52))))) ∧
  (va + n ≤ 2 ^ 52 → x.missFull = true → exec i s = .next (Claim.held x x.s)) ∧
  (va + n ≤ 2 ^ 52 → x.missFull = false → q.bad = true → exec i s = .next (x.s.badAccess x.g x.t).moved) ∧
  (va + n ≤ 2 ^ 52 → x.missFull = false → q.bad = false → q.left ≠ [] → exec i s = .next (Claim.waits x q.s .whole q.left)) ∧
  (va + n ≤ 2 ^ 52 → x.missFull = false → q.bad = false → q.left = [] →
    k ((x.runServed c q.s va n).modTeam x.r fun v =>
      let w := v.freeze [laneAt 0 va] n
      { w with seen := q.seen ++ w.seen }) q.bytes)

/-- HDEF, FETCH, FETCHX and FINV complete (R324, R326 to R328). HDEF reads the record of the lowest running lane, and for ENC 1 its table, reports
the status, and puts a valid descriptor in place. A fetch whose checks pass is queued behind the others unless the core holds
64, which holds the team. FINV reports and clears the group's decode-error flag and drops the descriptor's lines from the
cache. The model's readings (DEDUCED): a fetch with no running lane makes no check (log entry 39), HDEF reads the table of a bad
record too (37), and of HDEF's address MEMFAULT comes before ALIGN (35). -/
def Obligations.FetchWords : Prop :=
  (∀ (d a b : RegField) (s : State) (x : Iss) (l : Nat) (c : Ctx), issueOf (.hdef d a b) s = some x → x.t.low? = some l →
    x.s.ctxOf x.g = some c →
    let va := (x.t.reg a l).toNat
    let n := bitsOf (x.t.sreg b).toNat 0 4
    let put := fun (u : State) (st : Nat) (desc : FetchDesc) =>
      let u := u.modTeam x.r fun v => v.putS d (BitVec.ofNat 32 st)
      if st = 0 then u.modGroup x.r.uid fun g => { g with descs := g.descs.set n (some desc) } else u
    (2 ^ 52 ≤ va → exec (.hdef d a b) s = .next (Claim.trapped x trapMemfault (BitVec.ofNat 64 va))) ∧
    (va < 2 ^ 52 → va % 64 ≠ 0 → exec (.hdef d a b) s = .next (Claim.trapped x trapAlign (BitVec.ofNat 64 va))) ∧
    (va < 2 ^ 52 → va % 64 = 0 → Claim.reads (.hdef d a b) s x c x.s va 64 fun u bs =>
      let st := recordStatus bs
      (fieldAt bs 0x20 1 ≠ 1 → ∃ t, exec (.hdef d a b) s = .next t ∧ MovesOn (put u st (descOf bs [])) t x) ∧
      (fieldAt bs 0x20 1 = 1 → Claim.reads (.hdef d a b) s x c u (fieldAt bs 0x10 8) 128 fun w tab =>
        ∃ t, exec (.hdef d a b) s = .next t ∧
          MovesOn (put w (if st ≠ 0 then st else if htabOk (htabLens tab) then 0 else 3) (descOf bs (htabLens tab))) t x))) ∧
  (∀ (d a b : RegField) (s : State) (x : Iss), issueOf (.hdef d a b) s = some x → x.t.run = [] →
    ∃ t, exec (.hdef d a b) s = .next t ∧ MovesOn x.s t x) ∧
  (∀ (i : Instr) (n b : RegField) (rows : Hdr → List (Nat × Nat)) (s : State) (x : Iss), issueOf i s = some x →
    Claim.fetchForm x i = some (n, b, rows) →
    let h := hdrAt x.g x.t n.toNat
    let w := (x.t.sreg b).toNat
    let desc := x.g.descs.getD (bitsOf w 0 4) none
    let check := fetchCheck x n.toNat h desc (rows h)
    (x.t.idle = true → ∃ t, exec i s = .next t ∧ MovesOn x.s t x) ∧
    (x.t.idle = false → ∀ code va, check = some (code, va) → exec i s = .next (Claim.checkTrap x code va)) ∧
    (x.t.idle = false → check = none → 64 ≤ x.s.fetchesOn x.g.core → exec i s = .next (Claim.held x x.s)) ∧
    (x.t.idle = false → check = none → x.s.fetchesOn x.g.core < 64 → ∀ e, desc = some e → ∃ t, exec i s = .next t ∧
      MovesOn { x.s with
        fetches := x.s.fetches ++ [{ seq := x.s.nextSeq, uid := x.r.uid, tid := x.r.tid, desc := e, doff := h.doff,
                                     rstride := h.rstride, rows := rows h, all := rows h, bo := bitsOf w 4 5, nobo := bitOf w 9,
                                     counted := 0, noAlloc := x.t.noAlloc, waitReq := none, carry := none }]
        nextSeq := x.s.nextSeq + 1 } t x)) ∧
  ∀ (d b : RegField) (s : State) (x : Iss) (c : Ctx), issueOf (.finv d b) s = some x → x.s.ctxOf x.g = some c →
    let put := x.s.modTeam x.r fun v => v.putS d (if x.g.decErr then 1 else 0)
    (x.t.idle = true → ∃ t, exec (.finv d b) s = .next t ∧ MovesOn put t x) ∧
    (x.t.idle = false → ∀ desc, x.g.descs.getD (bitsOf (x.t.sreg b).toNat 0 4) none = some desc →
      ∃ t, exec (.finv d b) s = .next t ∧
        MovesOn ((put.modCore x.g.core fun k => { k with fetchLines := k.fetchLines.filter fun e =>
          !(e.1 == asidTag c.asid e.2.1 && desc.covers e.2.1) }).modGroup x.r.uid fun g => { g with decErr := false }) t x)

/-- MTASK, MWAIT, MSTAT and MCANCEL complete (R264, R372 to R376). MTASK queues the card at a 64-byte offset where it passes the checks of R360, gives
sD its id, and is held while the core has no free slot. MWAIT reports a future id, is held while the card is not COMPLETE, and
else reports TSTAT, whose arithmetic flags go to ASTAT, and acquires. MSTAT reports counts, TSTAT which it clears, or a task's state.
MCANCEL removes a queued card and reports 0, a card that has started or completed 1, a future id 3. -/
def Obligations.TaskWords : Prop :=
  (∀ (d a : RegField) (s : State) (x : Iss), issueOf (.mtask d a) s = some x →
    let off := (x.t.sreg a).toNat
    let bs := memReadN (Claim.viewed x).g.pad off 64
    let fits := off % 64 = 0 ∧ off + 64 ≤ x.g.padSize
    (x.t.idle = true → ∃ t, exec (.mtask d a) s = .next t ∧ MovesOn x.s t x) ∧
    (x.t.idle = false → ¬fits → exec (.mtask d a) s = .next (Claim.trapped x trapBounds (BitVec.ofNat 64 off))) ∧
    (x.t.idle = false → fits → x.s.cardOk x.g bs = false → exec (.mtask d a) s = .next (Claim.trapped x trapFormat x.word)) ∧
    (x.t.idle = false → fits → x.s.cardOk x.g bs = true → 64 ≤ x.s.cardsOn x.g.core →
      exec (.mtask d a) s = .next (Claim.held x x.s)) ∧
    (x.t.idle = false → fits → x.s.cardOk x.g bs = true → x.s.cardsOn x.g.core < 64 → ∃ t, exec (.mtask d a) s = .next t ∧
      MovesOn (({ x.s with nextSeq := x.s.nextSeq + 1 }.modGroup x.r.uid fun g => { g with
          cards := g.cards ++ [cardOf x bs], nextTask := g.nextTask + 1
          lidFmts := if fieldAt bs 0 1 = 1 then g.lidFmts.set (bitsOf (fieldAt bs 2 1) 0 4)
              ((shapeFmt (bitsOf (fieldAt bs 5 1) 0 4)).map fun f => (f, bitOf (fieldAt bs 5 1) 4)) else g.lidFmts }).modTeam x.r
        fun v => { v.putS d (x.g.nextTask.zeroExtend 32) with padSeen := x.padView.2 ++ v.padSeen }) t x)) ∧
  (∀ (d a : RegField) (s : State) (x : Iss), issueOf (.mwait d a) s = some x →
    let id := (x.t.sreg a).extractLsb' 0 16
    let past := (x.g.nextTask - id).toNat
    (past = 0 ∨ 32767 < past → ∃ t, exec (.mwait d a) s = .next t ∧ TeamStep s t x (x.t.putS d (x.g.tstat ||| 0x8000#32))) ∧
    (1 ≤ past → past ≤ 32767 → (∃ c ∈ x.g.cards, c.task = id) → exec (.mwait d a) s = .next (Claim.held x x.s)) ∧
    (1 ≤ past → past ≤ 32767 → (∀ c ∈ x.g.cards, c.task ≠ id) → ∃ t, exec (.mwait d a) s = .next t ∧
      MovesOn ((x.put ((x.t.putS d x.g.tstat).orFlags (x.g.tstat.truncate 6 &&& 0x1F#6))).acquire x.r) t x)) ∧
  (∀ (d a k : RegField) (s : State) (x : Iss), issueOf (.mstat d a k) s = some x →
    (k = 0 → ∃ t, exec (.mstat d a k) s = .next t ∧ TeamStep s t x (x.t.addPend [pendS d (x.s.taskCounts x.g)])) ∧
    (k = 1 → ∃ t, exec (.mstat d a k) s = .next t ∧
      MovesOn (let u := x.s.modTeam x.r fun v => v.addPend [pendS d x.g.tstat]
        if x.t.idle then u else u.modGroup x.r.uid fun g => { g with tstat := 0 }) t x) ∧
    (1 < k.toNat → ∃ t, exec (.mstat d a k) s = .next t ∧
      TeamStep s t x (x.t.addPend [pendS d (BitVec.ofNat 32 (x.g.taskState ((x.t.sreg a).extractLsb' 0 16)))]))) ∧
  ∀ (d a : RegField) (s : State) (x : Iss), issueOf (.mcancel d a) s = some x →
    let id := (x.t.sreg a).extractLsb' 0 16
    let past := (x.g.nextTask - id).toNat
    let put := fun (u : State) (w : Word) => u.modTeam x.r fun v => v.putS d w
    (x.t.idle = true → ∃ t, exec (.mcancel d a) s = .next t ∧ MovesOn x.s t x) ∧
    (x.t.idle = false → past = 0 ∨ 32767 < past → ∃ t, exec (.mcancel d a) s = .next t ∧ MovesOn (put x.s 3) t x) ∧
    (x.t.idle = false → 1 ≤ past → past ≤ 32767 → ∀ c, x.g.card? id = some c → c.state = .queued →
      ∃ t, exec (.mcancel d a) s = .next t ∧ MovesOn (put (x.s.completeCard x.r.uid c 0x2000#32 false) 0) t x) ∧
    (x.t.idle = false → 1 ≤ past → past ≤ 32767 → (∀ c, x.g.card? id = some c → c.state ≠ .queued) →
      ∃ t, exec (.mcancel d a) s = .next t ∧ MovesOn (put x.s 1) t x)

/-! ### The tile-vector unit -/

/-- What TVADD and TVSUB read and write: two tiles of one domain, combined element by element (R348). -/
def Sys2Proof.Claim.linear (x : Iss) (d a b : RegField) (f : Word → Word → Word × Flags) : TileUse × (Group × Flags) :=
  let hd := hdrAt x.g x.t d.toNat
  let ha := hdrAt x.g x.t a.toNat
  let hb := hdrAt x.g x.t b.toNat
  ({ handles := [d.toNat, a.toNat, b.toNat], srcs := [ha, hb], dst := hd, fmtBad := linearBad hd ha [hb], domBad := ha.dom != hb.dom },
    x.g.putResult hd (plainStore hd x.t.fmtRec.sat) ((x.g.coefs ha).join (x.g.coefs hb) ha.cols f) none)

/-- The rows form of TVACT, TVNORM and TVSMAX: reconstructed rows, each replaced, with a SPATIAL result (R339, R349 to R351). -/
def Sys2Proof.Claim.rowsForm (x : Iss) (d a : RegField) (f : FRow → FRow × Flags) : TileUse × (Group × Flags) :=
  let hd := hdrAt x.g x.t d.toNat
  let ha := hdrAt x.g x.t a.toNat
  let q := x.g.spatialRows ha
  ({ handles := [d.toNat, a.toNat], srcs := [ha], dst := hd, fmtBad := !isSrcFmt ha || !isDstFmt hd || !sameShape hd ha,
     domBad := false },
    x.g.putResult hd (plainStore hd x.t.fmtRec.sat)
      { a := q.1.map fun r => (f r).1, det := [], flags := q.2 ||| orAll (q.1.map fun r => (f r).2) } none)

/-- What each instruction of the tile-vector unit reads, checks and writes (R342 to R344, R347 to R351). -/
def Sys2Proof.Claim.tileForm (x : Iss) : Instr → Option (TileUse × (Group × Flags))
  | .wstore d a l =>
    let hd := hdrAt x.g x.t d.toNat
    let ha := hdrAt x.g x.t a.toNat
    let src := x.g.coefs ha
    let c := haarFrom l.toNat (x.t.wth.map threshold) src.a
    some ({ handles := [d.toNat, a.toNat], srcs := [ha], dst := hd,
            fmtBad := !isSrcFmt ha || !hd.haarCapable l.toNat || !sameShape hd ha, domBad := ha.dom != 0 },
      x.g.putResult hd (plainStore hd x.t.fmtRec.sat) { c with flags := c.flags ||| src.flags } (some src.a))
  | .wrec d a =>
    let hd := hdrAt x.g x.t d.toNat
    let ha := hdrAt x.g x.t a.toNat
    some ({ handles := [d.toNat, a.toNat], srcs := [ha], dst := hd, fmtBad := !isSrcFmt ha || !isDstFmt hd || !sameShape hd ha,
            domBad := false },
      x.g.putResult hd (plainStore hd x.t.fmtRec.sat) { a := (x.g.spatialRows ha).1, det := [], flags := (x.g.spatialRows ha).2 } none)
  | .wth d a =>
    let hd := hdrAt x.g x.t d.toNat
    let ha := hdrAt x.g x.t a.toNat
    let c := x.g.coefs ha
    let keep := fun (k : Nat) (r : FRow) => survives ((x.t.wth.map threshold).getD k 0) r
    some ({ handles := [d.toNat, a.toNat], srcs := [ha], dst := hd,
            fmtBad := !isSrcFmt ha || !isDstFmt hd || !sameShape hd ha || (ha.isHaar && !hd.haarCapable ha.dom),
            domBad := !ha.isHaar },
      x.g.putResult hd (plainStore hd x.t.fmtRec.sat)
        { c with det := c.det.mapIdx fun k rows => rows.map fun r => r.filter (keep k) } none)
  | .tvadd d a b => some (Claim.linear x d a b addNE)
  | .tvsub d a b => some (Claim.linear x d a b subNE)
  | .tvmulc d a b =>
    let hd := hdrAt x.g x.t d.toNat
    let ha := hdrAt x.g x.t a.toNat
    some ({ handles := [d.toNat, a.toNat], srcs := [ha], dst := hd, fmtBad := linearBad hd ha [], domBad := false },
      x.g.putResult hd (plainStore hd x.t.fmtRec.sat) ((x.g.coefs ha).map fun v => mulNE v (x.t.sreg b)) none)
  | .tvaxpy d a b =>
    let hd := hdrAt x.g x.t d.toNat
    let ha := hdrAt x.g x.t a.toNat
    some ({ handles := [d.toNat, a.toNat], srcs := [ha, hd], dst := hd, fmtBad := linearBad hd ha [], domBad := ha.dom != hd.dom },
      x.g.putResult hd (plainStore hd x.t.fmtRec.sat) ((x.g.coefs ha).join (x.g.coefs hd) ha.cols fun p q =>
        patWord (fmaBits .fp32 rneRounding p.toNat (x.t.sreg b).toNat q.toNat)) none)
  | .tvbias d a b =>
    let hd := hdrAt x.g x.t d.toNat
    let ha := hdrAt x.g x.t a.toNat
    let hb := hdrAt x.g x.t b.toNat
    let c := x.g.coefs ha
    let bias := x.g.srcRow hb hb.doff
    let rows := c.a.map fun r => zipRow addNE r bias.1
    some ({ handles := [d.toNat, a.toNat, b.toNat], srcs := [ha, hb], dst := hd,
            fmtBad := linearBad hd ha [] || !isSrcFmt hb || hb.rows != 1 || hb.cols != ha.cols, domBad := hb.dom != 0 },
      x.g.putResult hd (plainStore hd x.t.fmtRec.sat)
        { c with a := rows.map (·.1), flags := c.flags ||| bias.2 ||| orAll (rows.map (·.2)) } none)
  | .tvcvt d a =>
    let hd := hdrAt x.g x.t d.toNat
    let ha := hdrAt x.g x.t a.toNat
    let store := fun (_ _ : Nat) (y : Word) =>
      convScaled .fp32 (hd.fmt.getD .fp32) { mode := .rne, sat := x.t.fmtRec.sat, rnd := 0 } hd.scale y.toNat
    some ({ handles := [d.toNat, a.toNat], srcs := [ha], dst := hd, fmtBad := linearBad hd ha [], domBad := false },
      x.g.putResult hd store (x.g.coefs ha) none)
  | .tvact d a k => some (Claim.rowsForm x d a (mapRow fun v => patWord (actBits k.toNat v.toNat)))
  | .tvnorm d a b => some (Claim.rowsForm x d a (normRow (x.t.sreg b)))
  | .tvnormRms d a b => some (Claim.rowsForm x d a (rmsRow (x.t.sreg b)))
  | .tvsmax d a b => some (Claim.rowsForm x d a (smaxRow (x.t.sreg b)))
  | _ => none

/-- The tile-vector unit (R331, R332, R342 to R351): its words complete. They read the scratchpad as their team's ordinary reads do.
With no running lane nothing is checked or done. Their FP32 sums and products come by the functions whose results
FloatResults states. A check of R331 that fails traps in the order of R331. Else the result goes to the group's scratchpad as stores of the team and its flags to ASTAT, and nothing else changes. WTAG rewrites a Haar tile's
SURV from its bitmaps and reports the stored rows, or BAD. -/
def Obligations.TileVectors : Prop :=
  (∀ (i : Instr) (u : TileUse) (q : Group × Flags) (s : State) (x : Iss), issueOf i s = some x →
    let y := Claim.viewed x
    Claim.tileForm y i = some (u, q) →
    (x.t.idle = true → ∃ t, exec i s = .next t ∧ MovesOn x.s t x) ∧
    (x.t.idle = false → ∀ code va, tileChecks y u = some (code, va) → exec i s = .next (Claim.checkTrap x code va)) ∧
    (x.t.idle = false → tileChecks y u = none → ∃ t, exec i s = .next t ∧
      MovesOn ((x.s.modGroup x.r.uid fun g => (g.adopt q.1).madeBy x.r g.vers).modTeam x.r fun v =>
        ({ v with padSeen := y.t.padSeen }).orFlags q.2) t x)) ∧
  ∀ (d a : RegField) (s : State) (x : Iss), issueOf (.wtag d a) s = some x →
    let y := Claim.viewed x
    let h := hdrAt y.g y.t a.toNat
    let check := firstFail [handleCheck y.g y.t a.toNat, domCheck x.word h, failIf h.malformed trapFormat x.word, y.g.areaCheck h]
    (check = none → wtagOf y.g h = none → ∃ t, exec (.wtag d a) s = .next t ∧
      MovesOn (x.s.modTeam x.r fun v => ({ v with padSeen := y.t.padSeen }).putS d (BitVec.ofNat 32 (16 + h.dom))) t x) ∧
    (check = none → ∀ surv n, wtagOf y.g h = some (surv, n) →
      let u := x.s.modTeam x.r fun v => ({ v with padSeen := y.t.padSeen }).putS d (BitVec.ofNat 32 (n * 65536 + h.dom))
      ((x.t.idle = true ∨ h.isHaar = false) → ∃ t, exec (.wtag d a) s = .next t ∧ MovesOn u t x) ∧
      (x.t.idle = false → h.isHaar = true → ∃ t, exec (.wtag d a) s = .next t ∧
        MovesOn (u.modGroup x.r.uid fun g => g.storePad (g.putTag h h.dom surv (bitOf h.cbf 3)) x.r) t x)) ∧
    (x.t.idle = false → ∀ code va, check = some (code, va) → exec (.wtag d a) s = .next (Claim.checkTrap x code va)) ∧
    (x.t.idle = true → check ≠ none → ∃ t, exec (.wtag d a) s = .next t ∧ TeamStep s t x
      (y.t.putS d (BitVec.ofNat 32 (16 + if (handleCheck y.g y.t a.toNat).isSome then 0 else h.dom))))

/-! ### Keys and censuses -/

/-- The machine after an instruction that gives its team a status in an s register. -/
def Sys2Proof.Claim.status (x : Iss) (u : State) (d : RegField) (n : Nat) : State := u.modTeam x.r fun v => v.putS d (BitVec.ofNat 32 n)

/-- TREG, TDEREG and TMOVE complete (R379 to R381, R384, R393), a snapshot that is due being taken first (that the instruction's own
step takes it is the model's order, log entry 41, DEDUCED). TREG gives the header's entry its key (status 1), else
takes the lowest free entry (0), or reports 2. TDEREG frees the entry (0), reports 3 where there is none, and is held while a
census holds it. TMOVE reports 3 without an entry, 1 without a destination, 4 where the tile does not fit there; else it begins
the move and holds the team. TDEREG and TMOVE of a responder are ILLEGAL, an unbound handle traps, and with no running lane
nothing happens. -/
def Obligations.KeyDirectory : Prop :=
  (∀ (i : Instr) (t : RegField) (s : State) (x : Iss), issueOf i s = some x →
    (∃ d a, i = .treg d a t) ∨ ((∃ d, i = .tdereg d t) ∧ x.t.responder = none) ∨ ((∃ d b, i = .tmove d b t) ∧ x.t.responder = none) →
    (x.t.idle = true → ∃ v, exec i s = .next v ∧ MovesOn x.s v x) ∧
    (x.t.idle = false → ∀ code va, handleCheck x.g x.t t.toNat = some (code, va) → exec i s = .next (Claim.checkTrap x code va))) ∧
  (∀ (i : Instr) (t : RegField) (s : State) (x : Iss), issueOf i s = some x → (∃ d, i = .tdereg d t) ∨ (∃ d b, i = .tmove d b t) →
    x.t.responder.isSome = true → exec i s = .next (Claim.trapped x trapIllegal x.word)) ∧
  ∀ (s : State) (x : Iss) (t : RegField) (k : Core) (h : Nat), x.t.idle = false → handleCheck x.g x.t t.toNat = none →
    (handlesOf x.g x.t).getD t.toNat none = some h → x.s.takeDue.core? x.g.core = some k →
    let u := x.s.takeDue
    let own := k.keyOf x.g.uid h
    (∀ d a, issueOf (.treg d a t) s = some x →
      let key := x.t.sreg (a + 1) ++ x.t.sreg a
      (∀ n, own = some n → ∃ v, exec (.treg d a t) s = .next v ∧ MovesOn (Claim.status x (u.modCore x.g.core fun c =>
        { c with keys := modAt c.keys n fun o => o.map fun e => { e with key := key } }) d 1) v x) ∧
      (own = none → ∀ n c, k.freeKey = some n → u.ctxOf x.g = some c → ∃ v, exec (.treg d a t) s = .next v ∧
        MovesOn (Claim.status x ({ u with nextSeq := u.nextSeq + 1 }.modCore x.g.core fun q => { q with keys := q.keys.set n (some
          { key := key, part := x.g.part, ctxid := x.g.ctxid, gen := c.gen, uid := x.g.uid, gid := x.g.gid, header := h, held := []
            id := u.nextSeq }) }) d 0) v x) ∧
      (own = none → k.freeKey = none → ∃ v, exec (.treg d a t) s = .next v ∧ MovesOn (Claim.status x u d 2) v x)) ∧
    (∀ d, issueOf (.tdereg d t) s = some x → x.t.responder = none →
      (own = none → ∃ v, exec (.tdereg d t) s = .next v ∧ MovesOn (Claim.status x u d 3) v x) ∧
      (∀ n, own = some n → k.keyHeld n = true → exec (.tdereg d t) s = .next (Claim.held x u)) ∧
      (∀ n, own = some n → k.keyHeld n = false → ∃ v, exec (.tdereg d t) s = .next v ∧
        MovesOn (Claim.status x (u.modCore x.g.core fun q => { q with keys := q.keys.set n none }) d 0) v x)) ∧
    (∀ d b, issueOf (.tmove d b t) s = some x → x.t.responder = none →
      let hd := x.g.hdr h
      let dest := u.moveTo x.g ((x.t.sreg b).extractLsb' 0 16).toNat
      (own = none → ∃ v, exec (.tmove d b t) s = .next v ∧ MovesOn (Claim.status x u d 3) v x) ∧
      (∀ n, own = some n → dest = none → ∃ v, exec (.tmove d b t) s = .next v ∧ MovesOn (Claim.status x u d 1) v x) ∧
      (∀ n g, own = some n → dest = some g → g.holdsTile hd = false →
        ∃ v, exec (.tmove d b t) s = .next v ∧ MovesOn (Claim.status x u d 4) v x) ∧
      (∀ n g, own = some n → dest = some g → g.holdsTile hd = true → k.keyHeld n = true →
        exec (.tmove d b t) s = .next (Claim.held x u)) ∧
      (∀ n e g, own = some n → k.key n = some e → dest = some g → g.holdsTile hd = true → k.keyHeld n = false →
        ∃ v, exec (.tmove d b t) s = .next v ∧ MovesOn (u.modTeam x.r fun w => { w with hold := .tmove d n g.uid e.id }) v x))

/-- SOLICIT, RESPOND, CENSUS and CRES complete (R382 to R395). SOLICIT checks its offset (BOUNDS) and record (FORMAT), reports 0xFFFFFFFF where the
team holds 8 slots or the partition has 64 open censuses, and else starts one after a release and reports its id. RESPOND
answers the responder's piece with NWORDS words after a release. CENSUS reports the slot's status, held while it is OPEN unless
it polls, acquires where that is CLOSED, and can free it. CRES reports a payload word, a count or the status, a snapshot that is due
being taken first. That the instruction's own step takes the due snapshot (R384) is the model's order, log entry 41 (DEDUCED), and
that an acquire sees every write made so far is log entry 8. -/
def Obligations.CensusWords : Prop :=
  (∀ (d a : RegField) (s : State) (x : Iss), issueOf (.solicit d a) s = some x →
    let off := (x.t.sreg a).toNat
    let bs := memReadN (Claim.viewed x).g.pad off 128
    let z := { x with s := x.s.modTeam x.r fun v => { v with padSeen := x.padView.2 ++ v.padSeen } }
    let fits := off % 64 = 0 ∧ off + 128 ≤ x.g.padSize
    let team := (x.s.kernelOf x.g).bind fun k => solicitOk x.g.padSize k bs
    (x.t.responder.isSome = true → exec (.solicit d a) s = .next (Claim.trapped x trapIllegal x.word)) ∧
    (x.t.responder = none → x.t.idle = true → ∃ t, exec (.solicit d a) s = .next t ∧ MovesOn x.s t x) ∧
    (x.t.responder = none → x.t.idle = false → ¬fits →
      exec (.solicit d a) s = .next (Claim.trapped x trapBounds (BitVec.ofNat 64 off))) ∧
    (x.t.responder = none → x.t.idle = false → fits → team = none →
      exec (.solicit d a) s = .next (Claim.trapped x trapFormat x.word)) ∧
    (x.t.responder = none → x.t.idle = false → fits → ∀ n c, team = some n → x.s.ctxOf x.g = some c →
      let room := x.t.censuses.length < 8 ∧ x.s.openCensuses x.g.part < 64
      (¬room → ∃ t, exec (.solicit d a) s = .next t ∧ MovesOn (Claim.status x z.s d 0xFFFFFFFF) t x) ∧
      (room → Claim.unreleased (.solicit d a) s z) ∧
      (room → ∀ y, releasedBy z = some y → ∃ t, exec (.solicit d a) s = .next t ∧
        MovesOn (Claim.status x ({ y.s.modCtx y.g.part y.g.ctxid (fun q => { q with nextCensus := q.nextCensus + 1 }) with
            censuses := y.s.censuses ++ [y.newCensus c.nextCensus n bs], nextSeq := y.s.nextSeq + 1 }.modTeam x.r fun v =>
          { v with censuses := v.censuses ++ [y.s.nextSeq] }) d c.nextCensus.toNat) t x))) ∧
  (∀ (a : RegField) (s : State) (x : Iss), issueOf (.respond a) s = some x →
    (x.t.responder = none → exec (.respond a) s = .next (Claim.trapped x trapIllegal x.word)) ∧
    (∀ i, x.t.responder = some i → x.s.censuses.find? (fun c => c.cseq == i.cseq) = none →
      exec (.respond a) s = .next (Claim.trapped x trapIllegal x.word)) ∧
    ∀ i c, x.t.responder = some i → x.s.censuses.find? (fun c => c.cseq == i.cseq) = some c →
      let good := i.responded = false ∧ a.toNat + ceilDiv c.nwords 32 ≤ x.t.nvreg
      (¬good → exec (.respond a) s = .next (Claim.trapped x trapIllegal x.word)) ∧
      (good → Claim.unreleased (.respond a) s x) ∧
      (good → ∀ y, releasedBy x = some y → ∃ t, exec (.respond a) s = .next t ∧
        MovesOn ((y.s.modCensus i.cseq fun q => q.setPiece i.core i.order
            (.answered ((List.range c.nwords).map (payloadWord y.t a)))).modTeam x.r fun v =>
          { v with responder := some { i with responded := true } }) t x)) ∧
  (∀ (d a k : RegField) (s : State) (x : Iss), issueOf (.census d a k) s = some x →
    let slot := x.s.censuses.find? fun c => x.t.censuses.contains c.cseq && c.id == (x.t.sreg a).extractLsb' 0 16
    (slot = none → ∃ t, exec (.census d a k) s = .next t ∧ TeamStep s t x (x.t.putS d 0x300#32)) ∧
    (∀ c, slot = some c → c.state = .opened → k = 0 → exec (.census d a k) s = .next (Claim.held x x.s)) ∧
    (∀ c, slot = some c → c.state = .opened → k ≠ 0 → ∃ t, exec (.census d a k) s = .next t ∧
      MovesOn (x.s.modTeam x.r fun v => v.putS d c.status) t x) ∧
    (∀ c, slot = some c → c.state = .closed → x.t.unread = true → exec (.census d a k) s = .next (Claim.held x x.s)) ∧
    (∀ c, slot = some c → c.state = .closed → x.t.unread = false → ∃ t, exec (.census d a k) s = .next t ∧
      MovesOn ((if k = 2 then (x.s.acquire x.r).freeCensus x.r c else x.s.acquire x.r).modTeam x.r fun v =>
        (v.putS d (c.status ||| 0x100#32)).orFlags (((c.status ||| 0x100#32).truncate 6) &&& 0xF#6)) t x) ∧
    (∀ c, slot = some c → c.state = .aborted → ∃ t, exec (.census d a k) s = .next t ∧
      MovesOn ((if k = 2 then x.s.freeCensus x.r c else x.s).modTeam x.r fun v => v.putS d (c.status ||| 0x200#32)) t x)) ∧
  ∀ (d a k : RegField) (s : State) (x : Iss), issueOf (.cres d a k) s = some x →
    let u := x.s.takeDue
    let slot := u.censuses.find? fun c => x.t.censuses.contains c.cseq && c.id == (x.t.sreg a).extractLsb' 0 16
    let answers := fun (c : Census) => (c.pieces.filter fun p => match p.state with
      | .answered _ => true
      | _ => false).length
    let word := match slot with
      | none => if k = 68 then 0x300#32 else 0
      | some c =>
        if k = 66 then BitVec.ofNat 32 (answers c)
        else if k = 67 then BitVec.ofNat 32 c.matched
        else if k = 68 then c.status ||| (match c.state with
          | .opened => 0x000#32
          | .closed => 0x100#32
          | .aborted => 0x200#32)
        else if c.state = .closed ∧ k.toNat < c.nwords then c.result.getD k.toNat 0
        else 0
    ∃ t, exec (.cres d a k) s = .next t ∧ MovesOn (u.modTeam x.r fun v => v.addPend [pendS d word]) t x

/-! ### Routing, graphs, Ultra Ethernet, overlays -/

/-- The ROUTE instructions complete (R397 to R407). With no running lane nothing happens. SLOTGET reports and counts a hit, or takes the slot its hand
finds; SLOTREF and SLOTREL change one slot and report it; RTSTAGE stages a table read from memory, or reports that it is too long
or does not fit; RTLOOK and RTLOOK.ADM report and change nothing else. A result that is an acquire waits for the team's earlier
loads; that its later ones miss no write made so far is log entry 8 (DEDUCED, more than R399 and R251 ask), and that RTSTAGE of a
table that is not empty reports MEMFAULT before ALIGN is log entry 35. -/
def Obligations.RouteWords : Prop :=
  (∀ (i : Instr) (s : State) (x : Iss), issueOf i s = some x → x.t.idle = true →
    (∃ d a, i = .slotget d a) ∨ (∃ d a k, i = .slotref d a k) ∨ (∃ d a, i = .slotrel d a) ∨ (∃ d a b, i = .rtstage d a b) ∨
      (∃ d a b, i = .rtlook d a b) ∨ (∃ d a, i = .rtlookAdm d a) →
    ∃ t, exec i s = .next t ∧ MovesOn x.s t x) ∧
  (∀ (s : State) (x : Iss) (c : Ctx), x.t.idle = false → x.s.ctxOf x.g = some c →
    let putIn := fun (u : State) (d : RegField) (q : Ctx) (w : Word) => (u.modCtx c.part c.ctxid fun _ => q).modTeam x.r fun v => v.putS d w
    let put := putIn x.s
    let acq := fun (b : Bool) => if b then x.s.acquire x.r else x.s
    (∀ d a, issueOf (.slotget d a) s = some x →
      let r := c.slotGet ((x.t.sreg a).extractLsb' 0 16)
      (x.t.unread = true → r.2.toNat < 2 ^ 29 → exec (.slotget d a) s = .next (Claim.held x x.s)) ∧
      ((x.t.unread = false ∨ 2 ^ 29 ≤ r.2.toNat) → ∃ t, exec (.slotget d a) s = .next t ∧
        MovesOn (putIn (acq (decide (r.2.toNat < 2 ^ 29))) d r.1 r.2) t x)) ∧
    (∀ d a, issueOf (.slotrel d a) s = some x →
      let n := ((x.t.sreg a).extractLsb' 0 8).toNat
      let e := c.slot n
      let e' := if e.valid = true ∧ e.ref ≠ 0 then { e with ref := e.ref - 1 } else e
      ∃ t, exec (.slotrel d a) s = .next t ∧ MovesOn (put d { c with slots := c.slots.set n e' } e'.word) t x) ∧
    (∀ d a k, issueOf (.slotref d a k) s = some x → k ≠ 2 →
      let n := ((x.t.sreg a).extractLsb' 0 8).toNat
      let e := (c.slot n).refOp k.toNat
      (x.t.unread = true → e.valid = true → e.loading = false → exec (.slotref d a k) s = .next (Claim.held x x.s)) ∧
      ((x.t.unread = false ∨ e.valid = false ∨ e.loading = true) →
        ∃ t, exec (.slotref d a k) s = .next t ∧
          MovesOn (putIn (acq (e.valid && !e.loading)) d { c with slots := c.slots.set n e } e.word) t x)) ∧
    (∀ d a b, issueOf (.rtlook d a b) s = some x →
      let v := c.lookup ((x.t.sreg a).extractLsb' 0 16).toNat (x.t.sreg b).toNat
      ∃ t, exec (.rtlook d a b) s = .next t ∧ MovesOn (put d c (BitVec.ofNat 32 (c.tabver.toNat * 65536 + v))) t x) ∧
    (∀ d a, issueOf (.rtlookAdm d a) s = some x →
      ∃ t, exec (.rtlookAdm d a) s = .next t ∧
        MovesOn (put d c (c.admission ((x.t.sreg a).extractLsb' 0 16) ((x.t.sreg a).extractLsb' 16 16))) t x) ∧
    (∀ d a b l, issueOf (.rtstage d a b) s = some x → x.t.low? = some l →
      let va := (x.t.reg a l).toNat
      let n := (x.t.sreg b).toNat
      let empty := n = 0 ∨ 4096 < n
      (va % 64 ≠ 0 → (empty ∨ va < 2 ^ 52) → exec (.rtstage d a b) s = .next (Claim.trapped x trapAlign (BitVec.ofNat 64 va))) ∧
      (va % 64 = 0 → empty → ∃ t, exec (.rtstage d a b) s = .next t ∧ MovesOn (Claim.status x x.s d 2) t x) ∧
      ((va % 64 = 0 ∨ 2 ^ 52 ≤ va) → ¬empty → Claim.reads (.rtstage d a b) s x c x.s va (8 * n) fun u bs =>
        let used := u.tablesOf c.part - (c.staged.map List.length).getD 0
        (131072 < used + n → ∃ t, exec (.rtstage d a b) s = .next t ∧ MovesOn (Claim.status x u d 1) t x) ∧
        (used + n ≤ 131072 → ∃ t, exec (.rtstage d a b) s = .next t ∧
          MovesOn (Claim.status x (u.modCtx c.part c.ctxid fun p => { p with
            staged := some ((List.range n).map fun i => BitVec.ofNat 64 (fieldAt bs (8 * i) 8)) }) d 0) t x)))) ∧
  (∀ (d a : RegField) (s : State) (x : Iss) (c : Ctx), issueOf (.slotref d a 2) s = some x → x.t.idle = false →
    x.s.ctxOf x.g = some c → Claim.unreleased (.slotref d a 2) s x ∧
    ∀ y, releasedBy x = some y →
    let n := ((x.t.sreg a).extractLsb' 0 8).toNat
    let e := c.slot n
    let e' := if e.valid = true then { e with loading := false } else e
    ∃ t, exec (.slotref d a 2) s = .next t ∧
      MovesOn (((if e.valid = true then y.s.acquire x.r else y.s).modCtx c.part c.ctxid fun _ => { c with slots := c.slots.set n e' }).modTeam
        x.r fun v => v.putS d e'.word) t x) ∧
  ∀ (c : Ctx) (e v : BitVec 16), c.admission e v =
    if c.tabver = v ∨ (c.slotOf? e).isSome = true then 0 else if (c.tabver - v).toNat ≤ 32767 then 1 else 2

/-- The GRAPH instructions complete (R128 to R131), a flush timer that has run out having launched first. GREC appends the running lanes' records to a
QUEUE node's ring, or reports that the node is none (3), is not OPEN (2) or is full (1), in every running lane. GCOND changes the
condition word under a mask. A page that GREC waits for makes it wait at the word. GDONE frees the group's ring slots. GFLUSH launches what is pending, or reports 3, 2, or 1 where
nothing is. The model's readings (DEDUCED): GREC checks its addresses before it looks for the node, a fault of the ring parks its
team, and GDONE acts with no running lane (log entry 27); MEMFAULT comes before ALIGN within one lane (35). -/
def Obligations.GraphWords : Prop :=
  (∀ (d a b : RegField) (s : State) (x : Iss) (c : Ctx), issueOf (.grec d a b) s = some x → x.s.ctxOf x.g = some c →
    Claim.laneTraps (.grec d a b) s x 64 (x.t.vas a 0) ∧
    ((∀ p ∈ x.t.vas a 0, Claim.laneOk 64 p) →
    let n := (x.t.sreg b).toNat
    let vas := x.t.vas a 0
    let u := x.s.fireTimer (x.g.part, x.g.ctxid) n
    let put := fun (v : State) (st : Nat) => v.modTeam x.r fun w =>
      w.addPend [{ dst := d, vals := x.t.run.map fun l => (l, BitVec.ofNat 64 st), flags := 0 }]
    (x.t.idle = true → ∃ t, exec (.grec d a b) s = .next t ∧ MovesOn x.s t x) ∧
    (x.t.idle = false → u.queueNode? (x.g.part, x.g.ctxid) n = none →
      ∃ t, exec (.grec d a b) s = .next t ∧ MovesOn (put u 3) t x) ∧
    (x.t.idle = false → ∀ nd, u.queueNode? (x.g.part, x.g.ctxid) n = some nd →
      (nd.qstate ≠ .opened → ∃ t, exec (.grec d a b) s = .next t ∧ MovesOn (put u 2) t x) ∧
      (nd.qstate = .opened → nd.rqcap < nd.taken + vas.length → ∃ t, exec (.grec d a b) s = .next t ∧ MovesOn (put u 1) t x) ∧
      (nd.qstate = .opened → nd.taken + vas.length ≤ nd.rqcap → Claim.unreleased (.grec d a b) s { x with s := u }) ∧
      (nd.qstate = .opened → nd.taken + vas.length ≤ nd.rqcap → ∀ y, releasedBy { x with s := u } = some y →
        let q := gatherLanes y.s (y.reader c false) 8 (vas.flatMap fun p => (List.range 8).map fun i => laneAt p.1 (p.2 + 8 * i))
        let w := xlateBytes q.s c .write (nd.slotsVa vas.length)
        (q.bad = true → exec (.grec d a b) s = .next (y.s.badAccess y.g y.t).moved) ∧
        (q.bad = false → q.left ≠ [] → exec (.grec d a b) s = .next (Claim.waits x q.s .whole q.left)) ∧
        (q.bad = false → q.left = [] →
          (∀ va m l, w.stop = some (.fault va m l) → exec (.grec d a b) s = .next (Claim.waits x w.s .rewrite [laneAt 0 va])) ∧
          (∀ va, w.stop = some (.range va) → exec (.grec d a b) s =
            .next (w.s.ctxError c.part c.ctxid trapMemfault x.g.core 0 (BitVec.ofNat 64 va)).moved) ∧
          (w.stop = some .bad → exec (.grec d a b) s = .next (w.s.badAccess y.g y.t).moved) ∧
          (w.stop = none →
            let v := ((w.s.modTeam x.r fun t => t.sees q.seen).writePlaces w.places q.bytes).modNode (x.g.part, x.g.ctxid) n fun e =>
              { e with pending := e.pending + vas.length, due := if e.pending = 0 then some (w.s.clk + 700 * e.param) else e.due }
            ∃ t, exec (.grec d a b) s = .next t ∧ MovesOn
              (put (((v.serve (x.g.part, x.g.ctxid) n).walkGraph (x.g.part, x.g.ctxid)).advance (x.g.part, x.g.ctxid)) 0) t x)))))) ∧
  (∀ (a b : RegField) (s : State) (x : Iss), issueOf (.gcond a b) s = some x →
    (x.t.idle = true → ∃ t, exec (.gcond a b) s = .next t ∧ MovesOn x.s t x) ∧
    (x.t.idle = false → ∃ t, exec (.gcond a b) s = .next t ∧
      MovesOn (((x.s.modGraph (x.g.part, x.g.ctxid) fun g => { g with
        cw := (g.cw &&& ~~~(x.t.sreg a)) ||| (x.t.sreg b &&& x.t.sreg a) }).walkGraph (x.g.part, x.g.ctxid)).advance
          (x.g.part, x.g.ctxid)) t x)) ∧
  (∀ (s : State) (x : Iss), issueOf .gdone s = some x → ∃ t, exec .gdone s = .next t ∧ MovesOn (x.s.freeRing x.g) t x) ∧
  ∀ (d b : RegField) (s : State) (x : Iss), issueOf (.gflush d b) s = some x →
    let n := (x.t.sreg b).toNat
    let u := x.s.fireTimer (x.g.part, x.g.ctxid) n
    (u.queueNode? (x.g.part, x.g.ctxid) n = none → ∃ t, exec (.gflush d b) s = .next t ∧ MovesOn (Claim.status x u d 3) t x) ∧
    ∀ nd, u.queueNode? (x.g.part, x.g.ctxid) n = some nd →
      (nd.qstate ≠ .opened → ∃ t, exec (.gflush d b) s = .next t ∧ MovesOn (Claim.status x u d 2) t x) ∧
      (nd.qstate = .opened → nd.pending = 0 → ∃ t, exec (.gflush d b) s = .next t ∧ MovesOn (Claim.status x u d 1) t x) ∧
      (nd.qstate = .opened → 0 < nd.pending → ∃ t, exec (.gflush d b) s = .next t ∧
        MovesOn (Claim.status x (if x.t.idle then u else u.flushNode (x.g.part, x.g.ctxid) n) d 0) t x)

/-- The REMOTE instructions complete (R413, R417 to R420). A lane whose peer entry is not valid, or whose address has a bit in [55:52], is MEMFAULT, a
misaligned one ALIGN, the lowest such lane first. RWRITE, RATOM.ADD and RATOM.CAS send one operation for each running lane, or
hold the team where a port has no room; an atomic then holds the team until its lanes have answered. RREAD reserves an entry of
its queue for the answers. RFENCE, once the team's writes and atomics have been answered, reports and clears the remote
status. That a lane's MEMFAULT comes before its ALIGN, and that a lane to a port in TRAINING stays outstanding, is the model's
reading, log entry 42 (DEDUCED). -/
def Obligations.RemoteWords : Prop :=
  (∀ (i : Instr) (a : RegField) (off : Int) (n : Nat) (s : State) (x : Iss) (c : Ctx), issueOf i s = some x → x.s.ctxOf x.g = some c →
    ((∃ q o z, i = .rread q a o z ∧ off = x.off4 o (2 ^ z.toNat) ∧ n = 2 ^ z.toNat) ∨
      (∃ d o z, i = .rwrite d a o z ∧ off = x.off4 o (2 ^ z.toNat) ∧ n = 2 ^ z.toNat) ∨
      (∃ d z, i = .ratomAdd d a z ∧ off = 0 ∧ n = if z = 1 then 8 else 4) ∨ (∃ d, i = .ratomCas d a ∧ off = 0 ∧ n = 8)) →
    (∀ pre post l ra, x.t.vas a off = pre ++ (l, ra) :: post →
      (∀ p ∈ pre, (c.peer p.2).valid = true ∧ bitsOf p.2 52 4 = 0 ∧ p.2 % n = 0) →
      (((c.peer ra).valid = false ∨ bitsOf ra 52 4 ≠ 0) → exec i s = .next (Claim.trapped x trapMemfault (BitVec.ofNat 64 ra))) ∧
      ((c.peer ra).valid = true → bitsOf ra 52 4 = 0 → ra % n ≠ 0 →
        exec i s = .next (Claim.trapped x trapAlign (BitVec.ofNat 64 ra)))) ∧
    (x.t.run = [] → ∃ t, exec i s = .next t ∧ MovesOn x.s t x)) ∧
  (∀ (s : State) (x : Iss) (c : Ctx) (a : RegField), x.t.idle = false → x.s.ctxOf x.g = some c →
    (∀ d o z, issueOf (.rwrite d a o z) s = some x →
      let n := 2 ^ z.toNat
      let ras := x.t.vas a (x.off4 o n)
      let ops := x.laneOps c 1 n 0 0 ras (fun l => BitVec.ofNat 64 ((x.t.reg d l).toNat % 2 ^ (8 * n))) (fun _ => 0)
      remoteFault c n ras = none →
      (x.s.portsFull ops = true → exec (.rwrite d a o z) s = .next (Claim.held x x.s)) ∧
      (x.s.portsFull ops = false → ∃ t, exec (.rwrite d a o z) s = .next t ∧ MovesOn (x.s.sendAll ops) t x)) ∧
    (∀ i d kind n data cmp, issueOf i s = some x →
      (∃ z, i = .ratomAdd d a z ∧ kind = 2 ∧ n = (if z = 1 then 8 else 4) ∧
        data = (fun l => BitVec.ofNat 64 ((x.t.reg d l).toNat % 2 ^ (8 * n))) ∧ cmp = fun _ => 0) ∨
      (i = .ratomCas d a ∧ kind = 3 ∧ n = 8 ∧ data = x.t.reg (d + 1) ∧ cmp = x.t.reg d) →
      let ras := x.t.vas a 0
      let ops := x.laneOps c kind n 0 0 ras data cmp
      let out := (ops.filter fun o => !x.s.portDown o.port).map (·.rseq)
      (remoteFault c n ras = none → x.s.portsFull ops = true → exec i s = .next (Claim.held x x.s)) ∧
      (remoteFault c n ras = none → x.s.portsFull ops = false → ∃ t, exec i s = .next t ∧
        MovesOn (if out = [] then x.s.sendAll ops else (x.s.sendAll ops).modTeam x.r fun v => { v with hold := .remote d out }) t x)) ∧
    (∀ n o z q, issueOf (.rread n a o z) s = some x → x.g.queue? n.toNat = some q →
      let ras := x.t.vas a (x.off4 o (2 ^ z.toNat))
      let ops := x.laneOps c 0 (2 ^ z.toNat) n.toNat q.nextId ras (fun _ => 0) (fun _ => 0)
      remoteFault c (2 ^ z.toNat) ras = none →
      ((q.state ≠ .opened ∨ q.ended = true) → ∃ t, exec (.rread n a o z) s = .next t ∧ MovesOn x.s t x) ∧
      (q.state = .opened → q.ended = false → q.depth ≤ Claim.taken q x.s.clk → exec (.rread n a o z) s = .next (Claim.heldOnQueue x false)) ∧
      (q.state = .opened → q.ended = false → Claim.taken q x.s.clk < q.depth → x.s.portsFull ops = true →
        exec (.rread n a o z) s = .next (Claim.held x x.s)) ∧
      (q.state = .opened → q.ended = false → Claim.taken q x.s.clk < q.depth → x.s.portsFull ops = false →
        ∀ op rest, ops = op :: rest → ∃ t, exec (.rread n a o z) s = .next t ∧
          MovesOn (((x.s.modGroup x.r.uid <| Claim.queueChanged x.s.clk n.toNat <| Claim.pushed x.s.clk
              { id := 0, tag := 0, payload := 0, vals := List.replicate q.width 0, complete := false, waiting := true
                faulted := false, owner := x.t.tid } false).sendAll ops).readOver op) t x))) ∧
  (∀ (d : RegField) (s : State) (x : Iss), issueOf (.rfence d) s = some x → Claim.unreleased (.rfence d) s x) ∧
  ∀ (d : RegField) (s : State) (x y : Iss), issueOf (.rfence d) s = some x → releasedBy x = some y →
    let waits := ∃ o ∈ y.s.remotes, o.uid = y.g.uid ∧ o.tid = y.t.tid ∧ o.kind ≠ 0
    (waits → exec (.rfence d) s = .next (Claim.held x y.s)) ∧
    (¬waits → ∃ t, exec (.rfence d) s = .next t ∧ MovesOn (y.put { y.t.putS d y.t.rstatus with rstatus := 0 }) t x)

/-- OVLOAD, OVWAIT and FCALL complete (R127). An overlay that is not of the issuing kernel is status 3. OVLOAD reports 0 for a resident overlay, 1 for one
that loads, and starts a load into the slot of R125 or reports 2; with no running lane it starts none and reports 4. OVWAIT is
held while the overlay loads and reports 4 for one neither resident nor loading. FCALL calls the entry's address, or is OVERLAY
where its overlay is not resident. -/
def Obligations.OverlayWords : Prop :=
  (∀ (i : Instr) (d : RegField) (n : BitVec 8) (s : State) (x : Iss), issueOf i s = some x → i = .ovload d n ∨ i = .ovwait d n →
    x.s.ownOverlay x.g n.toNat = false → ∃ t, exec i s = .next t ∧ MovesOn (Claim.status x x.s d 3) t x) ∧
  (∀ (d : RegField) (n : BitVec 8) (s : State) (x : Iss) (c : Ctx), issueOf (.ovload d n) s = some x → x.s.ctxOf x.g = some c →
    x.s.ownOverlay x.g n.toNat = true →
    (∀ o, x.s.slotFor x.g n.toNat = some o →
      ∃ t, exec (.ovload d n) s = .next t ∧ MovesOn (Claim.status x x.s d (if o.loaded then 0 else 1)) t x) ∧
    (x.s.slotFor x.g n.toNat = none → x.t.idle = true → ∃ t, exec (.ovload d n) s = .next t ∧ MovesOn (Claim.status x x.s d 4) t x) ∧
    (x.s.slotFor x.g n.toNat = none → x.t.idle = false →
      (x.s.chooseSlot x.g.core c.asid = none → ∃ t, exec (.ovload d n) s = .next t ∧ MovesOn (Claim.status x x.s d 2) t x) ∧
      ∀ k, x.s.chooseSlot x.g.core c.asid = some k → ∃ t, exec (.ovload d n) s = .next t ∧
        MovesOn (Claim.status x (x.s.modCore x.g.core fun q => { q with slots := q.slots.set k (some
          { asid := c.asid, handle := x.g.image, ovl := n.toNat,
            words := ((c.overlay? x.g.image n.toNat).map fun o => o.words).getD [], loaded := false, lastUse := 0,
            owner := some x.g.uid, stale := false }) }) d 1) t x)) ∧
  (∀ (d : RegField) (n : BitVec 8) (s : State) (x : Iss), issueOf (.ovwait d n) s = some x → x.s.ownOverlay x.g n.toNat = true →
    (∀ o, x.s.slotFor x.g n.toNat = some o → o.loaded = true →
      ∃ t, exec (.ovwait d n) s = .next t ∧ MovesOn (Claim.status x x.s d 0) t x) ∧
    (∀ o, x.s.slotFor x.g n.toNat = some o → o.loaded = false → exec (.ovwait d n) s = .next (Claim.held x x.s)) ∧
    (x.s.slotFor x.g n.toNat = none → ∃ t, exec (.ovwait d n) s = .next t ∧ MovesOn (Claim.status x x.s d 4) t x)) ∧
  ∀ (e : BitVec 8) (s : State) (x : Iss) (k : Kernel), issueOf (.fcall e) s = some x → x.s.kernelOf x.g = some k →
    let target := k.entries.getD e.toNat 0
    ((x.s.codeWord x.g target).isSome = false → exec (.fcall e) s = .next (Claim.trapped x trapOverlay (target.zeroExtend 64))) ∧
    ((x.s.codeWord x.g target).isSome = true → x.t.inLoop = true → exec (.fcall e) s = .next (Claim.trapped x trapIllegal x.word)) ∧
    ((x.s.codeWord x.g target).isSome = true → x.t.inLoop = false → ∀ c u v, x.s.ctxOf x.g = some c → x.t.sp + 16 ≤ x.g.stackSz →
      Claim.pushes x c (leBytes 16 (x.t.pc + 4).toNat) = .ok u v →
      ∃ t, exec (.fcall e) s = .next t ∧
        MovesTo (u.modTeam x.r fun _ => { v with fcalls := v.fcalls ++ [v.pc + 4] }) t x target)

/-! ### Commands of the driver -/

/-- The part takes commands (R410, R421, R433): READY, not held in reset, its host link up, powered. -/
def Sys2Proof.Claim.ready (s : State) : Prop :=
  s.dev.boot.step = 6 ∧ s.dev.heldInReset = false ∧ s.dev.hostLink = true ∧ s.dev.powered = true

/-- A function may act on a partition in use (R409). -/
def Sys2Proof.Claim.reaches (s : State) (fn part : Nat) : Prop :=
  (fn = 0 ∨ (s.dev.mode = .eight ∧ fn = part + 1 ∧ part < 8)) ∧ part < s.partCount

/-- The status of a function's latest command is written. -/
def Sys2Proof.Claim.answer (s : State) (fn : Nat) (st : CmdStatus) : State := s.modFunc fn fun f => { f with status := st }

/-- A command is done: its status is OK, and held teams may look again. -/
def Sys2Proof.Claim.commanded (s : State) (fn : Nat) : State :=
  let t := Claim.answer s fn .ok
  { t with progress := t.progress + 1 }

/-- A slice group that a group table may name (R312). -/
def Sys2Proof.Claim.groupOf (s : State) (part group : Nat) : Prop :=
  match s.dev.mode with
  | .eight => group / 3 = part
  | .one => group < 24
  | .hamada => group / 3 = s.dev.boot.strip

/-- The driver's commands on tables and registers: the function that gives each, who may give it (R409), the context and generation it names if it
names one (R91), what its operands must be, and the machine after it. -/
def Sys2Proof.Claim.driver (s : State) : Instr → Option (Nat × Prop × Option (Nat × Nat × Nat) × Prop × State)
  | .keyInstall fn part idx key =>
    some (fn, fn = 0, none, part < s.partCount ∧ idx < 8, s.modPart part fun p => { p with keys := p.keys.set idx (some key) })
  | .groupTableWrite fn part idx group =>
    some (fn, fn = 0, none, part < s.partCount ∧ idx < 64 ∧ Claim.groupOf s part group,
      (s.modPart part fun p => { p with
        groupTable := p.groupTable.set idx group, tlb := p.tlb.filter fun e => !e.hasIndex idx
        shots := { index := some idx, ver := s.vers } :: p.shots }).modCores (s.coresOf part)
        fun k => { k with
          fetchLines := k.fetchLines.filter fun l => groupIndex l.1 l.2.1 != idx
          reqs := k.reqs.filter fun q => q.index != idx })
  | .sharedTableInstall fn part root =>
    some (fn, fn = 0, none, part < s.partCount ∧ root % 4096 = 0 ∧ s.owns part root = true,
      s.modPart part fun p => { p with sharedRoot := some root })
  | .clearfail fn => some (fn, fn = 0, none, True, { s with dev := { s.dev with boot := { s.dev.boot with fails := 0 } } })
  | .testMode fn part =>
    some (fn, fn = 0, none, part < s.partCount ∧ ∀ c ∈ s.ctxs, c.part = part → c.state = .killed,
      s.modPart part fun p => { p with testMode := true })
  | .antiRollbackBlow fn cmd =>
    some (fn, fn = 0, none, signedBy s.dev.fuseKey cmd = true ∧ s.dev.rollback < Config.firmwareVersion cmd ∧ s.dev.rollback < 64,
      { s with dev := { s.dev with rollback := s.dev.rollback + 1 } })
  | .powerCap fn w => some (fn, fn = 0, none, 1000 ≤ w ∧ w ≤ 7500 ∧ w % 50 = 0, { s with dev := { s.dev with powerCap := w } })
  | .replanCommand fn => some (fn, fn = 0, none, True, { s with dev := { s.dev with replanning := true } })
  | .partitionModeWrite fn mode =>
    some (fn, fn = 0, none, mode < 2, { s with dev := { s.dev with modeNext := if mode = 0 then .eight else .one } })
  | .repairMapWrite fn strip map =>
    some (fn, fn = 0, none, strip < 8 ∧ map.length = 8 ∧ (∀ c ∈ map, c ∈ stripClusters strip) ∧ map.eraseDups.length = 8,
      { s with dev := { s.dev with
        repairNext := s.dev.repairNext.take (8 * strip) ++ map ++ s.dev.repairNext.drop (8 * strip + 8) } })
  | .peerTableWrite fn part ⟨ctxid, gen⟩ idx valid port addr job =>
    some (fn, fn = 0, some (part, ctxid, gen), idx < 256 ∧ s.portPart port = some part ∧ job < 2 ^ 32,
      s.modCtx part ctxid fun c => { c with peers := c.peers.set idx { valid := valid, port := port, addr := addr, job := job } })
  | .registerWrite fn 0 _ v => some (fn, fn = 0, none, True, { s with dev := { s.dev with msel := BitVec.ofNat 3 v } })
  | .registerWrite fn 1 port v =>
    some (fn, (∃ p, s.portPart port = some p ∧ Claim.reaches s fn p), none, 1 ≤ v / 16 % 4096 ∧ v / 16 % 4096 ≤ 4000,
      s.modPort port fun p => { p with rto := v / 16 % 4096 })
  | .registerWrite fn 2 b v =>
    some (fn, fn = 0, none, True, { s with dev := { s.dev with
      errLimits := (b, BitVec.ofNat 32 v) :: s.dev.errLimits.filter fun p => p.1 != b } })
  | .registerWrite fn (_ + 3) _ _ => some (fn, fn = 0, none, False, s)
  | .partitionReset fn part =>
    let t := (s.ctxs.filter fun c => c.part == part && c.state != .killed).foldl
      (fun s c => (s.kill c).postEvent c 3 0 noCore 0 0) s
    some (fn, Claim.reaches s fn part, none, True,
      (t.modCores (t.coresOf part) fun k => { coreReset with avail := k.avail }).modPart part fun p => { p with
        sharedRoot := none, testMode := false, drowsyOff := false, aged := [], coldTimes := [], jobs := [], requests := [], tlb := []
        shots := [{ ver := t.vers }] })
  | .pageEngineRegister fn part ⟨ctxid, gen⟩ ranges frames low high period =>
    some (fn, Claim.reaches s fn part, some (part, ctxid, gen),
      1 ≤ period ∧ period ≤ 3600 ∧ ∀ f ∈ frames, f % 65536 = 0 ∧ s.owns part f = true ∧
        s.owns part (f + 65535) = true ∧ s.inZone part f = false,
      s.modPart part fun p => { p with
        aged := p.aged.filter (fun a => a.1 != ctxid) ++ ranges.map (fun q => (ctxid, q.1, q.2))
        freeFrames := p.freeFrames ++ frames.filter fun f => !s.dev.retiredFrames.contains f, low := low, high := high, period := period, ageClk := s.clk })
  | .shootdown fn part scope asid va len =>
    let hit := fun (tag lo hi : Nat) => scope == 2 || (tag == asid && (scope == 1 || decide (lo < va + len ∧ va < hi)))
    let tlbHit := fun (e : TlbEntry) => hit e.asid (e.vpn * 2 ^ pageBits e.level) ((e.vpn + 1) * 2 ^ pageBits e.level)
    let lineHit := fun (l : Nat × Nat × List Byte) => hit l.1 l.2.1 (l.2.1 + 128)
    let ovlHit := fun (o : OvSlot) =>
      let a := Config.overlayVa o.asid o.handle o.ovl % 2 ^ 51
      hit o.asid a (a + 4 * o.words.length)
    let shot : Shot :=
      if scope = 0 then { asid := some asid, lo := va, hi := va + len, ver := s.vers }
      else if scope = 1 then { asid := some asid, ver := s.vers } else { ver := s.vers }
    some (fn, Claim.reaches s fn part, none, scope ≤ 2 ∧ (scope = 0 → va % 65536 = 0 ∧ len % 65536 = 0),
      ((s.modPart part fun p => { p with tlb := p.tlb.filter (fun e => !tlbHit e), shots := shot :: p.shots }).modCores (s.coresOf part)
        fun k => { k with
          fetchLines := k.fetchLines.filter (fun l => !lineHit l)
          slots := k.slots.map fun o => o.map fun o => { o with stale := o.stale || ovlHit o } }).modFunc fn
          fun f => { f with shootDone := f.shootDone + 1 })
  | .drowsyDisable fn part off =>
    let t := s.modPart part fun p => { p with drowsyOff := off }
    some (fn, Claim.reaches s fn part, none, True,
      if off then { t with dev := { t.dev with drowsy := t.dev.drowsy.filter fun d => t.partOfCol d.1 != part } } else t)
  | .jobRegister fn part job ⟨ctxid, gen⟩ =>
    some (fn, Claim.reaches s fn part, some (part, ctxid, gen), job < 2 ^ 32,
      s.modPart part fun p => { p with jobs := (job, ctxid) :: p.jobs.filter fun j => j.1 != job })
  | .portEnable fn port =>
    some (fn, (∃ p, s.portPart port = some p ∧ Claim.reaches s fn p), none, True,
      s.modPort port fun p => if p.state = 0 then { p with state := 1 } else p)
  | .portDisable fn port => some (fn, (∃ p, s.portPart port = some p ∧ Claim.reaches s fn p), none, True, s.takeDown port)
  | _ => none

/-- A command for another generation of a context is discarded and counted (R91, R302; log entry 50). -/
def Sys2Proof.Claim.discarded (s : State) (fn : Nat) : State := s.modFunc fn fun f => { f with staleAns := f.staleAns + 1 }

/-- The driver's commands complete (R8, R76, R91, R290, R304, R308, R312, R318, R409, R413, R416, R427, R432): NOTREADY on a part that takes none, ACCESS
for a function that may not give it, INVALID for a context that does not exist or operands out of range, each with nothing
else changed; a command for another generation of a context is discarded and counted; any other has its effect and answers OK.
Register numbers, which of two failures is reported first, what a partition reset clears, the numbers of a strip's clusters,
the frames that may join the pool, the count of discarded commands and the place of an overlay's code are the model's (log entries
12, 31, 33, 34, 50, 51 and 53). -/
def Obligations.DriverCommands : Prop :=
  ∀ (i : Instr) (s t : State) (fn : Nat) (own good : Prop) (who : Option (Nat × Nat × Nat)),
    Claim.driver s i = some (fn, own, who, good, t) →
    let named := ∀ p, who = some p → ∃ c, s.ctx? p.1 p.2.1 = some c ∧ c.gen = p.2.2
    (¬Claim.ready s → exec i s = .next (Claim.answer s fn .notReady)) ∧
    (Claim.ready s → ¬own → exec i s = .next (Claim.answer s fn .access)) ∧
    (∀ part id gen, Claim.ready s → own → who = some (part, id, gen) →
      (s.ctx? part id = none → exec i s = .next (Claim.answer s fn .invalid)) ∧
      ∀ c, s.ctx? part id = some c → c.gen ≠ gen → exec i s = .next (Claim.discarded s fn)) ∧
    (Claim.ready s → own → named → ¬good → exec i s = .next (Claim.answer s fn .invalid)) ∧
    (Claim.ready s → own → named → good → exec i s = .next (Claim.commanded t fn))

/-- A command on the work of a context: function, partition, number and generation. -/
def Sys2Proof.Claim.ofContext : Instr → Option (Nat × Nat × Nat × Nat)
  | .preempt fn p ⟨c, g⟩ => some (fn, p, c, g)
  | .kernelLaunch fn p ⟨c, g⟩ _ => some (fn, p, c, g)
  | .graphLaunch fn p ⟨c, g⟩ _ => some (fn, p, c, g)
  | .imageLoad fn p ⟨c, g⟩ _ => some (fn, p, c, g)
  | .rollbackFloorRaise fn p ⟨c, g⟩ _ => some (fn, p, c, g)
  | _ => none

/-- The life of a context (R77, R89 to R99, R104, R113, R119, R246). A valid descriptor creates an IDLE context with the next GEN of its number,
and no other context changes. DESTROY leaves it KILLED, with no image, group, launch or translation, and memory as it was. A
command on an ended context is DEAD, and one of another generation is discarded and counted (log entry 50). A launch is queued in a
context that runs from then on, and so is a graph's, whose graph is read once its pages are there and queued, or refused; an image that passes every check of the loader is added, else its load status is reported. PREEMPT and the distributor's decision
begin the quiesce; SAVE_COMPLETE ends it once no census is open and no card runs; the first SAVED context is resumed; WATCHDOG
and QDEADLOCK put the context into ERROR. Readings: log entries 26 (the loader), 27 (a graph's reading and its answer), 28 and 29; that a
loaded image is added has no example, since kernel records have a private layout (log entry 13). -/
def Obligations.ContextLife : Prop :=
  (∀ (fn : Nat) (bs : List Byte) (s : State),
    (¬Claim.ready s → exec (.createContext fn bs) s = .next (Claim.answer s fn .notReady)) ∧
    (Claim.ready s → fieldAt bs 6 1 < s.partCount → ¬Claim.reaches s fn (fieldAt bs 6 1) →
      exec (.createContext fn bs) s = .next (Claim.answer s fn .access)) ∧
    (Claim.ready s → s.partCount ≤ fieldAt bs 6 1 → exec (.createContext fn bs) s = .next (Claim.answer s fn .invalid))) ∧
  (∀ (fn : Nat) (bs : List Byte) (s : State), Claim.ready s → Claim.reaches s fn (fieldAt bs 6 1) →
    let part := fieldAt bs 6 1
    let id := fieldAt bs 0 2
    (descOk s bs = false → exec (.createContext fn bs) s = .next (Claim.answer s fn .invalid)) ∧
    (descOk s bs = true → ∃ t c, exec (.createContext fn bs) s = .next t ∧ t.ctx? part id = some c ∧ c.state = .idle ∧
      c.gen = (let g : Nat := ((s.part? part).map fun p => p.gens.getD id 0).getD 0; if (g + 1) % 65536 = 0 then 1 else (g + 1) % 65536) ∧
      c.asid = fieldAt bs 4 2 ∧ c.prio = fieldAt bs 7 1 ∧ c.ptroot = fieldAt bs 8 8 ∧ c.floor = fieldAt bs 0x20 4 ∧
      c.wdog = fieldAt bs 0x28 4 ∧ (∀ p n, (p ≠ part ∨ n ≠ id) → t.ctx? p n = s.ctx? p n) ∧ t.groups = s.groups ∧ t.mem = s.mem)) ∧
  (∀ (i : Instr) (fn part id gen : Nat) (s : State), Claim.ofContext i = some (fn, part, id, gen) ∨ i = .destroy fn part ⟨id, gen⟩ →
    (¬Claim.ready s → exec i s = .next (Claim.answer s fn .notReady)) ∧
    (Claim.ready s → ¬Claim.reaches s fn part → exec i s = .next (Claim.answer s fn .access)) ∧
    (Claim.ready s → Claim.reaches s fn part → s.ctx? part id = none → exec i s = .next (Claim.answer s fn .invalid)) ∧
    ∀ c, Claim.ready s → Claim.reaches s fn part → s.ctx? part id = some c → c.gen ≠ gen → exec i s = .next (Claim.discarded s fn)) ∧
  (∀ (i : Instr) (fn part id gen : Nat) (s : State) (c : Ctx) (pt : Partition), Claim.ready s → Claim.reaches s fn part →
    s.ctx? part id = some c → c.gen = gen → s.part? part = some pt →
    (Claim.ofContext i = some (fn, part, id, gen) → (c.state = .error ∨ c.state = .killed) →
      exec i s = .next (Claim.answer s fn .dead)) ∧
    (i = .destroy fn part ⟨id, gen⟩ → c.state = .killed → exec i s = .next (Claim.answer s fn .invalid)) ∧
    (i = .destroy fn part ⟨id, gen⟩ → c.state ≠ .killed → ∃ t, exec i s = .next t ∧ t.mem = s.mem ∧ t.hostMem = s.hostMem ∧
      (∀ d, t.ctx? part id = some d → d.state = .killed ∧ d.images = []) ∧ (∀ g ∈ t.groups, g.part = part → g.ctxid ≠ id) ∧
      (∀ l ∈ t.launches, l.part = part → l.ctxid ≠ id) ∧ ∀ q, t.part? part = some q → ∀ e ∈ q.tlb, e.asid ≠ c.asid) ∧
    (c.state ≠ .error → c.state ≠ .killed →
      (i = .preempt fn part ⟨id, gen⟩ →
        (c.state = .running → exec i s = .next (Claim.commanded (s.quiesce part id 2) fn)) ∧
        (c.state ≠ .running → exec i s = .next (Claim.answer s fn .invalid))) ∧
      (∀ n, i = .rollbackFloorRaise fn part ⟨id, gen⟩ n →
        (c.floor ≤ n → n < 2 ^ 32 → exec i s = .next (Claim.commanded (s.modCtx part id fun d => { d with floor := n }) fn)) ∧
        ((n < c.floor ∨ 2 ^ 32 ≤ n) → exec i s = .next (Claim.answer s fn .invalid))) ∧
      (∀ bs, i = .kernelLaunch fn part ⟨id, gen⟩ bs → kernelRecordOk s c bs = true →
        exec i s = .next (Claim.commanded { s.modCtx part id (fun d => { d with state := if d.state = .idle then .running else d.state }) with
          nextSeq := s.nextSeq + 1
          launches := s.launches ++ [
            { lid := s.nextSeq, ord := s.nextSeq, part := part, ctxid := id, record := launchRecOf bs, recVa := none,
              state := .queued, variant := 0, groups := 0, placed := 0, retired := 0, freed := 0, sizeWord := 0, node := none,
              first := 0, count := 0, startClk := 0, waitReq := none }] } fn)) ∧
      (∀ bs, i = .kernelLaunch fn part ⟨id, gen⟩ bs → kernelRecordOk s c bs = false → exec i s = .next (Claim.answer s fn .invalid)) ∧
      (∀ bs, i = .graphLaunch fn part ⟨id, gen⟩ bs → graphRecordOk bs = false → exec i s = .next (Claim.answer s fn .invalid)) ∧
      (∀ bs, i = .graphLaunch fn part ⟨id, gen⟩ bs → graphRecordOk bs = true →
        let a : GraphAsk := { fn := fn, ord := s.nextSeq, serial := bitOf (fieldAt bs 1 1) 0, va := fieldAt bs 0x60 8, waitReq := none }
        exec i s = .next ((({ s with nextSeq := s.nextSeq + 1 } : State).modCtx part id fun d =>
          { d with state := if d.state = .idle then .running else d.state, asks := d.asks ++ [a] }).readGraph c a)) ∧
      (∀ bs, i = .imageLoad fn part ⟨id, gen⟩ bs →
        (∀ st, loadImage pt c bs = (st, none) → exec i s = .next (Claim.answer s fn (.load st))) ∧
        ∀ st im, loadImage pt c bs = (st, some im) → ∃ t, exec i s = .next t ∧
          t = { (s.modCtx part id fun d => { d with images := d.images ++ [im], nextHandle := d.nextHandle + 1 }).modFunc fn
            (fun f => { f with status := .load 0 }) with progress := s.progress + 1 }))) ∧
  (∀ (s : State) (c : Ctx) (a : GraphAsk), s.ctx? c.part c.ctxid = some c →
    c.asks.find? (fun b => b.ord == a.ord && b.waitReq.isNone) = some a →
    Ev.run (.graphRead c.part c.ctxid a.ord) s = .next (s.readGraph c a)) ∧
  (∀ (s : State) (c : Ctx) (a : GraphAsk),
    let q := xlateBytes s c .read (runFrom a.va 64)
    let hdr := q.s.readPlaces q.places
    let r := xlateBytes q.s c .read (runFrom (a.va + 64) (64 * min 256 (fieldAt hdr 0 2)))
    let g := graphOf a.ord a.serial hdr (r.s.readPlaces r.places)
    let u := r.s.modCtx c.part c.ctxid fun d => { d with asks := d.asks.filter fun b => b.ord != a.ord }
    let waits := fun (v : State) (st : RunStop) =>
      let w := v.engineStop c .read noCore (.graph a.ord) st
      w.1.modCtx c.part c.ctxid fun d => { d with asks := modWhere d.asks (fun b => b.ord == a.ord) fun b => { b with waitReq := w.2 } }
    (∀ st, q.stop = some st → s.readGraph c a = waits q.s st) ∧
    (∀ st, q.stop = none → r.stop = some st → s.readGraph c a = waits r.s st) ∧
    (q.stop = none → r.stop = none → g = none →
      s.readGraph c a = (Claim.answer (u.advance (c.part, c.ctxid)) a.fn .invalid).moved) ∧
    ∀ h, q.stop = none → r.stop = none → g = some h → s.readGraph c a = (Claim.answer ((u.modCtx c.part c.ctxid fun d =>
      { d with graphWait := insertGraph h d.graphWait }).advance
        (c.part, c.ctxid)) a.fn .ok).moved) ∧
  (∀ (s : State) (l : Launch) (c : Ctx), s.launch? l.lid = some l → s.decision l = some c →
    exec (.preemptionDecision l.lid) s = .next (s.quiesce c.part c.ctxid 1)) ∧
  (∀ (s : State) (part id : Nat) (c : Ctx), s.ctx? part id = some c →
    (c.state = .preempting → s.censusesOver c = true → cardsOver (s.groupsOf part id) = true →
      exec (.saveComplete part id) s = .next (s.save c)) ∧
    (∀ t, s.firstSaved part = some c → c.ctxid = id → s.outranked c = false → s.resumed c = some t →
      exec (.resume part id) s = .next t)) ∧
  (∀ (s : State) (l : Launch) (c : Ctx), s.launch? l.lid = some l → (l.state = .placing ∨ l.state = .running) →
    s.ctx? l.part l.ctxid = some c → (c.state = .running ∨ c.state = .preempting) → c.wdog ≠ 0 →
    l.startClk + c.wdog * 700000 ≤ s.clk →
    exec (.watchdog l.lid) s = .next (s.ctxError l.part l.ctxid 0x11 0xFFFF 0 0).moved) ∧
  ∀ (s : State) (g : Group) (c : Ctx) (t : Team), s.group? g.uid = some g →
    (g.state = .running ∨ g.state = .draining) → s.ctxOf g = some c → c.state = .running →
    g.teams.find? (fun t => !t.finished) = some t → (∀ u ∈ g.teams, u.finished = true ∨ (u.queueHeld = true ∧ u.parked = false)) →
    g.qMark + 2 ^ 20 ≤ s.clk →
    exec (.qdeadlock g.uid) s = .next (s.ctxError g.part g.ctxid 0x09 g.core t.prefixPc 0).moved

/-! ### The device -/

/-- An SPDM request (R411): function, how far the connection must be, the answer's code, how far it then is, and the bytes answered. -/
def Sys2Proof.Claim.spdm (s : State) (p : Nat) : Instr → Option (Nat × Nat × Nat × Nat × List Byte)
  | .getVersion fn => some (fn, 0, 0x84, 1, [])
  | .getCapabilities fn => some (fn, 1, 0xE1, 2, [])
  | .negotiateAlgorithms fn sha lms => some (fn, 2, 0xE3, if sha = true ∧ lms = true then 3 else 2, [])
  | .getDigests fn => some (fn, 3, 0x81, p, [])
  | .getCertificate fn slot => some (fn, 3, 0x82, p, leBytes 1 slot)
  | .spdmChallenge fn slot nonce => some (fn, 3, 0x83, p, leBytes 1 slot ++ leBytes 32 nonce)
  | .getMeasurements fn i => some (fn, 3, 0xE0, p, if i = 0xFF then s.allBlocks fn else (s.block fn i).getD [])
  | .keyExchange fn slot => some (fn, 3, 0xE4, 4, leBytes 1 slot)
  | .spdmFinish fn => some (fn, 4, 0xE5, 5, [])
  | _ => none

/-- Attestation (R411, R409): a function whose mailbox answers, on a part that takes commands, gets one answer to each request its connection
has come far enough for, and nothing else changes; other requests change nothing. The codes and the order of requests are those
of the SPDM standard (log entry 17). -/
def Obligations.Attestation : Prop :=
  ∀ (i : Instr) (s : State) (f : Function) (fn least code next : Nat) (bs : List Byte), s.funcs[fn]? = some f →
    Claim.spdm s f.spdm i = some (fn, least, code, next, bs) →
    let answers := Claim.ready s ∧ (fn = 0 ∨ (s.dev.mode = .eight ∧ fn ≤ 8))
    (answers → least ≤ f.spdm →
      exec i s = .next (s.modFunc fn fun f => { f with replies := f.replies ++ [(code, bs)], spdm := next })) ∧
    (¬answers ∨ f.spdm < least → exec i s = .next s)

/-- Start, resets, ageing and errors (R105, R410, R421, R424 to R426, R428 to R431, R433). A start counts a failed start, checks the first stage (0x01, 0x02)
and the management image (0x03), trains the stacks (0x04) and repairs the strips, each with its own spare (0x05); it ends READY with
the counter 0, or, when the counter was 3, in Hamada mode with one strip and one stack, or in RECOVERY. A start that takes too long fails with 0x06.
A full reset, which a part that is READY takes, or one held in reset or without its host link, an upload that passes, and a loss of power,
which counts a start that has not ended, leave device memory empty and the part in reset. Every 24 hours or on
command a re-plan writes 96 margin records, and a scrub is counted. A corrected error is counted, and crossing its threshold
raises the service vector, which none does until the driver has set one (log entry 12); an uncorrectable one puts the contexts it affects into ERROR with cause 0x21, as do the loss of
the host link, after which no record is posted and every ring is full, and the thermal trip. Readings: log entries 30 to 32 and 53. -/
def Obligations.DeviceService : Prop :=
  (∀ (fw mg : List Byte) (bad clusters : List Nat) (s : State), s.dev.heldInReset = true →
    exec (.resetRelease fw mg bad clusters) s = .next s ∧ exec .startTimeout s = .next s ∧ exec .scrub s = .next s ∧
    exec (.firmwareUpload fw) s = .next s ∧ ∀ b, exec (.correctableError b) s = .next s) ∧
  (∀ (fw mg : List Byte) (bad clusters : List Nat) (s : State), s.dev.boot.step = 0 → s.dev.heldInReset = false →
    let image := if s.dev.flash = [] then fw else s.dev.flash
    let hamada := s.dev.boot.fails = 3
    let d := { s.dev with flash := image, mgmt := mg, powered := true, boot := { s.dev.boot with fails := min 3 (s.dev.boot.fails + 1) } }
    let maps := (List.range 8).map (bringUp d clusters)
    let strip := (List.range 8).find? fun i => (maps.getD i none).isSome
    let kept := (List.range 8).map fun i => match maps.getD i none with
      | some m => m.map
      | none => (s.dev.repairNext.drop (8 * i)).take 8
    let stack := strip.bind fun i => ((List.range 3).map (3 * i + ·)).find? fun c => !bad.contains c
    let ends := fun (step reason : Nat) => ∃ t, exec (.resetRelease fw mg bad clusters) s = .next t ∧ t.dev.boot.step = step ∧
      t.dev.boot.reason = reason ∧ t.dev.boot.fails = min 3 (s.dev.boot.fails + 1) ∧ t.dev.flash = image ∧ t.dev.mgmt = mg
    let fails := fun (step reason : Nat) => ends (if s.dev.boot.fails = 3 then 7 else step) reason
    let signed := signedBy s.dev.fuseKey image = true
    let current := s.dev.rollback ≤ Config.firmwareVersion image
    let managed := signedBy s.dev.fuseKey mg = true
    (¬signed → fails 2 0x01) ∧ (signed → ¬current → fails 2 0x02) ∧ (signed → current → ¬managed → fails 3 0x03) ∧
    (signed → current → managed → ¬hamada →
      ((∃ c < 24, c ∈ bad) → ends 4 0x04) ∧
      ((∀ c < 24, c ∉ bad) → (∃ m ∈ maps, m = none) → ends 5 0x05) ∧
      ((∀ c < 24, c ∉ bad) → (∀ m ∈ maps, m ≠ none) → ∃ t, exec (.resetRelease fw mg bad clusters) s = .next t ∧ t.dev.boot.step = 6 ∧
        t.dev.boot.mode = 0 ∧ t.dev.boot.fails = 0 ∧ t.clk = 0 ∧ t.dev.mode = s.dev.modeNext ∧
        t.dev.repair = (maps.filterMap id).flatMap (·.map))) ∧
    (signed → current → managed → hamada →
      (strip = none → ends 7 0x05) ∧ (strip ≠ none → stack = none → ends 7 0x04) ∧
      (∀ i k, strip = some i → stack = some k → ∃ t, exec (.resetRelease fw mg bad clusters) s = .next t ∧ t.dev.boot.step = 6 ∧
        t.dev.boot.mode = 1 ∧ t.dev.boot.fails = 3 ∧ t.clk = 0 ∧ t.dev.mode = .hamada ∧ t.dev.boot.strip = i ∧
        t.dev.boot.stack = k ∧ t.dev.repair = (kept.getD i []).take 2 ∧ t.dev.repairNext = kept.flatMap id))) ∧
  (∀ s : State, s.dev.boot.step = 0 → s.dev.heldInReset = false → ∃ t n, exec .startTimeout s = .next t ∧ 1 ≤ n ∧ n ≤ 5 ∧
    t.dev.boot.step = (if s.dev.boot.fails = 3 then 7 else n) ∧ t.dev.boot.reason = 0x06 ∧
    t.dev.boot.fails = min 3 (s.dev.boot.fails + 1)) ∧
  (∀ (i : Instr) (s : State) (flash : List Byte) (powered : Bool) (fails : Nat),
    (i = .fullDeviceReset 0 ∧ (s.dev.boot.step = 6 ∨ s.dev.heldInReset = true ∨ s.dev.hostLink = false) ∧ flash = s.dev.flash ∧
      powered = true ∧ fails = s.dev.boot.fails) ∨
    (i = .firmwareUpload flash ∧ s.dev.boot.step = 7 ∧ s.dev.hostLink = true ∧ s.dev.heldInReset = false ∧
      firmwareStatus s.dev flash = 0 ∧ powered = true ∧ fails = s.dev.boot.fails) ∨
    (i = .powerLoss ∧ flash = s.dev.flash ∧ powered = false ∧
      fails = if s.dev.boot.step = 0 then min 3 (s.dev.boot.fails + 1) else s.dev.boot.fails) →
    ∃ t, exec i s = .next t ∧ t.dev.boot.step = 0 ∧ t.dev.flash = flash ∧ t.dev.powered = powered ∧ t.dev.boot.fails = fails ∧
      t.dev.rollback = s.dev.rollback ∧ t.dev.fuseKey = s.dev.fuseKey ∧ t.mem = [] ∧ t.ctxs = [] ∧ t.groups = [] ∧
      t.hostMem = s.hostMem) ∧
  (∀ (fn : Nat) (s : State),
    (s.dev.boot.step ≠ 6 → s.dev.heldInReset = false → s.dev.hostLink = true →
      exec (.fullDeviceReset fn) s = .next (Claim.answer s fn .notReady)) ∧
    (Claim.ready s → fn ≠ 0 → exec (.fullDeviceReset fn) s = .next (Claim.answer s fn .access))) ∧
  (∀ s : State, s.dev.boot.step = 6 → s.dev.heldInReset = false →
    (s.dev.replanning = true ∨ s.dev.replanAt + 24 * 3600 * 700000000 ≤ s.clk) →
    let new := (List.range 96).map (marginRec s.dev s.clk)
    let all := s.dev.margins ++ new
    ∃ t, exec .replanPeriod s = .next t ∧ t.dev.margins = all.drop (all.length - 4096) ∧ t.dev.replanning = false ∧
      t.dev.replans = s.dev.replans + 1 ∧
      (∀ c, c ∈ t.dev.exhausted ↔ c ∈ s.dev.exhausted ∨ ∃ r ∈ new, r.kind = 0 ∧ r.status = 2 ∧ r.domain = c) ∧
      (∀ i < 96, ∃ r k, new[i]? = some r ∧ k ≤ voltSteps i ∧ r.volt = voltLow i + 5 * k ∧ (r.status ≠ 0 → k = voltSteps i)) ∧
      t.funcs = if ∃ r ∈ new, r.status = 2 then (s.modFunc 0 fun f => { f with msix := f.msix ++ [2] }).funcs else s.funcs) ∧
  (∀ s : State, (s.dev.scrubs + 1) * (24 * 3600 * 700000000) ≤ s.clk → s.dev.heldInReset = false →
    exec .scrub s = .next { s with dev := { s.dev with scrubs := s.dev.scrubs + 1 } }) ∧
  (∀ (b : Nat) (s : State), s.dev.heldInReset = false →
    let old := ((s.dev.errCounts.find? fun p => p.1 == b).map (·.2)).getD 0
    let t := { s with dev := { s.dev with errCounts := (b, old + 1) :: s.dev.errCounts.filter fun p => p.1 != b } }
    let limit := (s.dev.errLimits.find? fun p => p.1 == b).map (·.2)
    ((∃ l, limit = some l ∧ old ≤ l ∧ l < old + 1) →
      exec (.correctableError b) s = .next (t.modFunc 0 fun f => { f with msix := f.msix ++ [2] })) ∧
    ((∀ l, limit = some l → l < old ∨ old + 1 ≤ l) → exec (.correctableError b) s = .next t)) ∧
  (∀ (s : State) (i : Instr) (p : Ctx → Bool) (v u : State → State),
    (∃ site n saving, i = .uncorrectableError site n saving ∧ site ≠ 3 ∧ v = id ∧ u = id ∧
      p = fun c => s.affected site n c || saving && c.state == .preempting && c.part == s.sitePart site n) ∨
    (i = .hostLinkDown ∧ p = (fun _ => true) ∧ u = id ∧
      v = fun t => { t with dev := { t.dev with hostLink := false }, funcs := t.funcs.map fun f => { f with ringRoom := 0 } }) ∨
    (i = .thermalTrip ∧ p = (fun _ => true) ∧ v = id ∧ u = fun t => { t with dev := { t.dev with heldInReset := true } }) →
    exec i s = .next (u ((s.ctxs.filter p).foldl (fun s c => s.ctxError c.part c.ctxid 0x21 0xFFFF 0 0) (v s)).moved)) ∧
  (∀ (s : State) (on : Bool), exec (.thermalThrottle on) s = .next { s with dev := { s.dev with throttle := on } }) ∧
  ∀ (s : State) (n : Nat) (saving : Bool),
    let frame := n / 65536 * 65536
    let caught := fun (c : Ctx) => saving && c.state == .preempting && c.part == s.partOfCol (n / 2 ^ 37)
    let u := ((s.ctxs.filter caught).foldl (fun s c => s.ctxError c.part c.ctxid 0x21 0xFFFF 0 0) s).moved
    ∃ t, exec (.uncorrectableError 3 n saving) s = .next t ∧ t.dev.retiredFrames = u.dev.retiredFrames ++ [frame] ∧
      (∀ pt ∈ t.parts, frame ∉ pt.freeFrames) ∧ t.mem = u.mem ∧ t.ctxs = u.ctxs ∧ t.groups = u.groups

/-! ### Events of memory -/

/-- What returns to a team and what leaves it completes (R29, R145, R164, R166, R227, R254, R257, R296). Once the slices have answered, a result is
written to its destination and its flags are ORed into ASTAT, and it is outstanding no longer; a load's value is the one it read, or
the home value of now where the team has written nothing there since (log entry 8), and results may return in any order (log entry
10). A queue entry's data arrive, and are visible in the a-clk after; the oldest store reaches its home slice once that has room
(log entry 25); a poll ends when a line it read has been written or 2,048 f-clk (1,024 a-clk) have passed: it reads once more and
delivers, an acquire, and is a demotion event where a lane is unchanged. A fault is reported. Each may end its team. -/
def Obligations.TeamEvents : Prop :=
  (∀ (s : State) (r : TeamRef) (g : Group) (t : Team) (p : PendWrite) (k : Nat), s.group? r.uid = some g → s.team? r = some t →
    t.pend[k]? = some p →
    (s.resultReady g.core r p = false → exec (.variableResultReturn r.uid r.tid k) s = .next s) ∧
    (s.resultReady g.core r p = true → ∃ u q, s.lateValue r p = (u, q) ∧ exec (.variableResultReturn r.uid r.tid k) s =
      .next ((u.modTeam r fun t =>
        let w := t.writeVals p.dst q.vals
        ({ w with pend := t.pend.eraseIdx k, astat := w.astat ||| p.flags.zeroExtend 32 } : Team).unswitch).finishTry r).moved) ∧
    (s.lateValue r p = (s, p) ∨ ∃ c l lane v host pa u seen, s.ctxOf g = some c ∧ p.late = some l ∧ p.vals = [(lane, v)] ∧
      (∃ n, s.xlate c .read l.va = (.ok host pa n, u)) ∧
      (∀ e ∈ s.past, e.host = host → e.maker = some r → l.ver ≤ e.ver → e.meets pa l.bytes = false) ∧
      let n := leNat (t.forward l.seq l.va (u.readPhys host pa l.bytes))
      s.lateValue r p = (u.modTeam r fun t => { t with seen := seen ++ t.seen },
        { p with vals := [(lane, if l.sx = true then BitVec.ofInt 64 (signedOf (8 * l.bytes) n) else BitVec.ofNat 64 n)] }))) ∧
  (∀ t : Team, t.unswitch = { t with swPark := t.swPark && t.outstanding }) ∧
  (∀ (s : State) (uid q e : Nat) (g : Group), s.group? uid = some g →
    ((∃ p y, g.queue? q = some p ∧ y ∈ p.entries ∧ y.id = e ∧ s.entryReady g y = false) →
      exec (.queueEntryComplete uid q e) s = .next s) ∧
    ((∀ p y, g.queue? q = some p → y ∈ p.entries → y.id = e → s.entryReady g y = true) →
      exec (.queueEntryComplete uid q e) s = .next (s.modGroup uid fun g => g.arriveQ q e s.clk).moved)) ∧
  (∀ (q : Queue) (e clk : Nat), (∃ x ∈ q.entries, x.id = e) → (q.arrive e clk).entries = q.entries.map fun x =>
    if x.id = e ∧ x.faulted = false then { x with complete := true, waiting := false, since := clk + 1 } else x) ∧
  (∀ (g : Group) (n e clk : Nat),
    let seen := fun (q : Queue) => (Claim.visible q (clk + 1)).length
    (g.arriveQ n e clk).queues = modWhere g.queues (fun p => p.num == n) (fun p => p.arrive e clk) ∧
    ∀ p, g.queue? n = some p →
      (seen p < seen (p.arrive e clk) → (g.arriveQ n e clk).qMark = clk + 1) ∧
      (seen (p.arrive e clk) ≤ seen p → (g.arriveQ n e clk).qMark = g.qMark)) ∧
  (∀ (s : State) (r : TeamRef),
    (s.storeTaken r = false → exec (.homeSliceAccept r.uid r.tid) s = .next s) ∧
    (s.storeTaken r = true → exec (.homeSliceAccept r.uid r.tid) s = .next ((s.drainOne r).finishTry r).moved)) ∧
  (∀ (s : State) (r : TeamRef) (g : Group) (t : Team) (c : Ctx) (e : StoreEntry) (rest : List StoreEntry) (pt : Partition),
    s.group? r.uid = some g → g.team? r.tid = some t → s.ctxOf g = some c → t.sbuf = e :: rest → s.part? c.part = some pt →
    let home := homeOf pt c.asid e.va
    (s.storeTaken r = true ↔ t.storeReady = true ∧ s.sliceFill home < 32 ∧ ∀ k, s.core? g.core = some k →
      ∀ a ∈ k.reqs, a.accepted = true ∨ a.team ≠ r ∨ a.home ≠ home)) ∧
  (∀ (s : State) (r : TeamRef) (t : Team) (h : PollHold), s.team? r = some t → t.hold = .poll h →
    let written := ∃ e ∈ s.past, ∃ l ∈ h.lines, h.ver ≤ e.ver ∧ e.host = l.1 ∧ e.meets l.2 128 = true
    (written → exec (.pollWake r.uid r.tid) s = .next (s.endPoll r)) ∧
    (¬written → exec (.pollWake r.uid r.tid) s = .next s) ∧
    (h.since + 1024 ≤ s.clk → exec (.pollTimeout r.uid r.tid) s = .next (s.endPoll r)) ∧
    (s.clk < h.since + 1024 → exec (.pollTimeout r.uid r.tid) s = .next s)) ∧
  (∀ (s : State) (r : TeamRef) (g : Group) (t : Team) (c : Ctx) (h : PollHold), s.group? r.uid = some g → g.team? r.tid = some t →
    s.ctxOf g = some c → t.hold = .poll h →
    let q := rereadLanes s { c := c, r := r, t := t, seq := h.seq, fresh := true } h
    let u := { (t.acquired q.s.vers g.vers).addPend (loadWrites h.dst h.bytes false (onlyLow (t.lowFor h.dst) q.vals)) with hold := .none }
    let w := q.s.modCore g.core fun k => { k with acqAt := q.s.vers }
    let unchanged := ∃ a ∈ h.lanes, ∃ p, q.vals.find? (fun p => p.1 == a.lane) = some p ∧ leNat p.2 = a.cmp.toNat
    (q.bad = true → s.endPoll r = q.s.badAccess g t) ∧
    (q.bad = false → (¬unchanged ∨ demote q.s (g.forTeam t) u h.pc t.pc = none) → s.endPoll r = (w.modTeam r fun _ => u).moved) ∧
    (q.bad = false → unchanged →
      (∀ v next, demote q.s (g.forTeam t) u h.pc t.pc = some (.ok (v, next)) →
        s.endPoll r = (w.modTeam r fun _ => { v with pc := next, stalls := [] }).moved) ∧
      (demote q.s (g.forTeam t) u h.pc t.pc = some (.error ()) →
        s.endPoll r = ((q.s.modTeam r fun w => ({ w with hold := .none, lc := h.lc, loops := h.loops } : Team).unswitch).raiseTrap r
          trapIllegal (h.word.zeroExtend 64) h.pc).moved))) ∧
  ∀ (s : State) (r : TeamRef), exec (.translationFault r.uid r.tid) s = .next (s.reportTeam r).moved

/-- The walk of a context's tables for an address ends at a leaf of 64 KiB, whose entry stands at an address with a value. -/
def Sys2Proof.Claim.leaf (s : State) (c : Ctx) (va pte e : Nat) : Prop := s.walk c va = .leaf 1 pte e

/-- A leaf entry rewritten: its permission bits stay; place, CMP, A and AGE are given (R291). -/
def Sys2Proof.Claim.entry (e pa : Nat) (cmp acc : Bool) (age : Nat) : List Byte :=
  leBytes 8 (e % 64 + (if cmp then 64 else 0) + (if acc then 128 else 0) + age * 256 + e / 4096 % 16 * 4096 + pa / 65536 * 65536)

/-- Pages and banks (R266, R300 to R302, R305 to R307, R318, R408). A request is posted once the ring has room. An answer that names no posted,
unanswered request of a live context of its GEN is counted in STALEANS; another drops the page's translations and goes to the
waiters. While the host link is down the host neither answers nor reaches memory.
That an answer frees the places of the ring too is the model's choice (log entry 16). An
expansion gives the page a free frame, or asks the host with REASON 4 for whoever waits. An ageing period ages every registered page once. A victim
is compressed while the pool is below LOW. A part that is held in reset does none of this. The host's accesses read and write the
bytes that an enabled stack or host memory backs. An expansion's asking, and which pages an ageing period visits and compresses,
are readings (log entry 34). -/
def Obligations.PageEvents : Prop :=
  (∀ (s : State) (part tag : Nat) (pt : Partition) (q : PageReq) (f : Function), s.part? part = some pt →
    pt.requests.find? (fun q => q.tag == tag) = some q → q.posted = false → q.reason ≠ 0 → s.funcs[s.fnOf part]? = some f →
    0 < f.ringRoom → s.dev.heldInReset = false →
    let post : PageRec := { ctxid := q.ctxid, gen := q.gen, kind := 1, reason := q.reason, core := q.core, tag := q.tag,
                            access := q.access, level := if q.reason = 4 then 0 else q.level, va := q.va, clk := s.clk }
    exec (.pageRequest part tag) s = .next
      ((s.modFunc (s.fnOf part) fun f => { f with
          pageRing := f.pageRing ++ [post]
          ringRoom := f.ringRoom - 1, msix := f.msix ++ [0] }).modPart part fun p => { p with
        requests := modWhere p.requests (fun r => r.tag == tag) fun r => { r with posted := true } })) ∧
  (∀ (s : State) (part tag : Nat), ((∃ f, s.funcs[s.fnOf part]? = some f ∧ f.ringRoom = 0) ∨ s.dev.heldInReset = true) →
    exec (.pageRequest part tag) s = .next s) ∧
  (∀ (s : State) (part tag : Nat), s.dev.heldInReset = true →
    exec (.expansionDone part tag) s = .next s ∧ exec (.ageingPeriod part) s = .next s ∧ exec (.compressVictim part) s = .next s) ∧
  (∀ (s : State) (fn id gen tag : Nat) (c : Ctx), s.answerCtx fn id = some c →
    ((c.gen ≠ gen ∨ c.state = .error ∨ c.state = .killed) → s.answered fn id gen tag = none) ∧
    (c.gen = gen → c.state ≠ .error → c.state ≠ .killed → ∀ pt, s.part? c.part = some pt → s.answered fn id gen tag =
      pt.requests.find? fun q => q.tag == tag && q.ctxid == id && q.gen == gen && q.posted && q.answer.isNone)) ∧
  (∀ (s : State) (fn : Nat) (bs : List Byte), s.dev.hostLink = false → exec (.answerRecord fn bs) s = .next s) ∧
  (∀ (s : State) (fn : Nat) (bs : List Byte), s.dev.hostLink = true →
    (s.answered fn (fieldAt bs 0 2) (fieldAt bs 2 2) (fieldAt bs 4 4) = none →
      exec (.answerRecord fn bs) s = .next (s.modFunc fn fun f => { f.ringTaken with staleAns := f.staleAns + 1 })) ∧
    (∀ q, s.answered fn (fieldAt bs 0 2) (fieldAt bs 2 2) (fieldAt bs 4 4) = some q →
      (fieldAt bs 8 1 = 0 → exec (.answerRecord fn bs) s =
        .next ((((s.modFunc fn Function.ringTaken).modPart q.part fun p => { p with
          tlb := p.tlb.filter fun e => !(e.asid == q.asid && q.va / 2 ^ pageBits e.level == e.vpn) }).answerReq q true).serveWaiting).moved) ∧
      (fieldAt bs 8 1 ≠ 0 → exec (.answerRecord fn bs) s =
        .next (((s.modFunc fn Function.ringTaken).answerReq q false).serveWaiting).moved))) ∧
  (∀ f : Function, f.stalePend = [] → f.ringTaken = { f with pageRing := [], ringRoom := f.ringRoom + f.pageRing.length }) ∧
  (∀ (s : State) (part tag : Nat) (pt : Partition) (q : PageReq) (c : Ctx) (pte e : Nat), s.part? part = some pt →
    pt.requests.find? (fun q => q.tag == tag && q.reason == 0 && q.answer.isNone) = some q → s.ctx? part q.ctxid = some c →
    s.dev.heldInReset = false → Claim.leaf s c q.va pte e →
    (bitOf e 6 = false → exec (.expansionDone part tag) s = .next ((s.answerReq q true).serveWaiting).moved) ∧
    (bitOf e 6 = true →
    (∀ f rest r, pt.freeFrames = f :: rest → pt.comp.find? (fun r => r.pa == bitsOf e 16 44 * 65536) = some r →
      exec (.expansionDone part tag) s = .next ((((({ s with mem := memPaste s.mem f 65536 r.data }.closeFrame f 65536).writePhys false pte
        (Claim.entry e f false true 0)).modPart part fun p => { p with
          freeFrames := rest, comp := p.comp.filter fun x => x.pa != r.pa }).answerReq q true).serveWaiting).moved) ∧
    (pt.freeFrames = [] →
      (q.waiters ≠ [] → exec (.expansionDone part tag) s = .next (s.modPart part fun p => { p with
        requests := modWhere p.requests (fun r => r.tag == tag) fun r => { r with reason := 4, posted := false } })) ∧
      (q.waiters = [] → exec (.expansionDone part tag) s = .next (s.modPart part fun p => { p with
        requests := p.requests.filter fun r => r.tag != tag }).moved)))) ∧
  (∀ (s : State) (part : Nat), s.dev.heldInReset = false → exec (.ageingPeriod part) s =
    let u := s.modPart part fun p => { p with periods := p.periods + 1, ageClk := s.clk }
    .next ((u.agedPages part).foldl (fun s p => s.agePage part p.1 p.2) u)) ∧
  (∀ (s : State) (part : Nat) (c : Ctx) (va pte e : Nat), Claim.leaf s c va pte e →
    (s.neverAged part c va e = true → s.agePage part c va = s) ∧
    (s.neverAged part c va e = false →
    let pa := bitsOf e 16 44 * 65536
    (bitOf e 7 = true → s.agePage part c va =
      (s.writePhys false pte (Claim.entry e pa (bitOf e 6) false 0)).dropTlb part (asidTag c.asid va) va) ∧
    (bitOf e 7 = false → (s.agePage part c va).mem =
      (s.writePhys false pte (Claim.entry e pa (bitOf e 6) false (min 15 (bitsOf e 8 4 + 1)))).mem))) ∧
  (∀ (s : State) (part : Nat) (pt : Partition), s.part? part = some pt → pt.freeFrames.length < pt.low → s.dev.heldInReset = false →
    exec (.compressVictim part) s =
      .next (s.compressTo part (((s.agedPages part).filterMap (s.victimOf part pt)).foldl (fun l v => insertVictim v l) []))) ∧
  (∀ (s : State) (part : Nat) (pt : Partition), s.part? part = some pt → pt.low ≤ pt.freeFrames.length →
    exec (.compressVictim part) s = .next s) ∧
  (∀ (s : State) (op pa : Nat) (host : Bool) (data : List Byte),
    let n := if op = 4 then data.length / 2 else data.length
    let old := s.readPhys host pa n
    let reached := host = true ∨ (s.dev.hostLink = true ∧ s.dev.heldInReset = false ∧ s.backed pa = true ∧
      (n = 0 ∨ s.backed (pa + n - 1) = true))
    (¬reached → exec (.hostMemoryRequest op host pa data) s = .next s) ∧
    (reached →
    (op = 0 → exec (.hostMemoryRequest op host pa data) s = .next s) ∧
    (op = 1 → exec (.hostMemoryRequest op host pa data) s = .next (s.writePhys host pa data).moved) ∧
    (op = 2 → (n = 4 ∨ n = 8) → exec (.hostMemoryRequest op host pa data) s =
      .next (s.writePhys host pa (leBytes n (leNat old + leNat data))).moved) ∧
    (op = 3 → (n = 4 ∨ n = 8) → exec (.hostMemoryRequest op host pa data) s = .next (s.writePhys host pa data).moved) ∧
    (op = 4 → (n = 4 ∨ n = 8 ∨ n = 16) → exec (.hostMemoryRequest op host pa data) s =
      .next (s.writePhys host pa (if old = data.take n then data.drop n else old)).moved))) ∧
  ∀ (s : State) (col row bank : Nat),
    (col < 24 → row < 16 → bank < 16 → s.drowsyBarred (s.partOfCol col) = false → exec (.bankDrowsy col row bank) s =
      .next { s with dev := { s.dev with
        drowsy := s.dev.drowsy.filter (fun d => d != (col, row, bank, false)) ++ [(col, row, bank, false)] } }) ∧
    exec (.bankWake col row bank) s = .next { s with dev := { s.dev with
      drowsy := s.dev.drowsy.filter fun d => !(d.1 == col && d.2.1 == row && d.2.2.1 == bank) } }

/-! ### Engines, the distributor, censuses, ports -/

/-- Copies, fetches, cards and tile moves complete (R140, R256, R277 to R286, R324, R361 to R369, R381). A command that waited enters once it may. A queued
copy of a context that runs starts: a CPYM takes the receivers that can hold its range, and completes with SKIP where there is
none; a CPYS reads its record first and completes with a format status if it is not valid. A piece of a copy ends at the end of an
aligned word of its source and of its destination, and is written by such words and counted. A fetch writes its next row and counts
it, but for the bytes of a word that the row after goes on with. A ready card, with no older one of its core that can start, starts on its engine, which may read a scratchpad that misses
stores no FENCE.E has made visible; a pairing sender and drain meet their partners; a running card completes. A tile move copies
the tile, switches its entry unless a census holds it or the entry that its header has at the destination, and answers 0 to 4. That
a card reads its tiles at its start (log entry 23), what an engine's view may miss (9), where a piece is cut within R277's bound
(36), the order of a card's checks (38) and a tile move's corners (52) are the model's. -/
def Obligations.EngineEvents : Prop :=
  (∀ (s : State) (n : Nat), s.copyAt n .queued = none →
    ((∃ c ∈ s.copies, c.seq = n ∧ s.mayEnter c = true) →
      exec (.copyStart n) s = .next (s.modCopy n fun c => { c with state := .queued }).moved) ∧
    ((∀ c ∈ s.copies, c.seq = n → s.mayEnter c = false) → exec (.copyStart n) s = .next s)) ∧
  (∀ (s : State) (c : Copy) (g : Group) (x : Ctx), s.copyAt c.seq .queued = some (c, g, x) →
    let runs := fun (u : State) (f : Copy → Copy) => (u.modCopy c.seq fun d => { f d with state := .running }).moved
    (c.kind = .cpy → exec (.copyStart c.seq) s = .next (runs s id)) ∧
    (∀ m, c.kind = .cpym m →
      let recv := s.receivers g m c.soff c.len
      let bits := if popCount 32 m.toNat = recv.length then 0 else 2
      (recv = [] → exec (.copyStart c.seq) s = .next (s.copyDone c bits)) ∧
      (recv ≠ [] → exec (.copyStart c.seq) s = .next (runs s fun d => { d with recv := recv, bits := bits }))) ∧
    (c.kind = .cpys →
      let q := xlateBytes s x .read (runFrom c.opA.toNat 64)
      let bs := q.s.readPlaces q.places
      (∀ stop, q.stop = some stop → exec (.copyStart c.seq) s = .next (q.s.copyStop c x .read stop).moved) ∧
      (q.stop = none → (shapeOf bs c.opB).valid (q.s.engineView g) = false → exec (.copyStart c.seq) s = .next (q.s.copyDone c 1)) ∧
      (q.stop = none → (shapeOf bs c.opB).valid (q.s.engineView g) = true →
        exec (.copyStart c.seq) s = .next (runs (q.s.modGroup g.uid (shapeOf bs c.opB).header) fun d => { d with record := bs })))) ∧
  (∀ (s : State) (c : Copy) (g : Group) (x : Ctx), s.copyAt c.seq .running = some (c, g, x) →
    let kept := c.record
    let left := c.len - c.pos - kept.length
    let take := fun (src : Nat) => min left (128 - kept.length - (src + (128 - kept.length)) % 8)
    let give := fun (dst : Nat) (bs : List Byte) =>
      if c.len ≤ c.pos + bs.length then bs.length else bs.length - (dst + bs.length) % 8
    let goes := fun (u : State) (n : Nat) (bs : List Byte) =>
      (u.modCopy c.seq fun d => { d with record := bs.drop n }).copyNext c (c.pos + n) c.len c.bits
    (∀ m recv, (c.kind = .cpy ∧ c.outward = false ∧ recv = [g.uid]) ∨ (c.kind = .cpym m ∧ recv = c.recv) →
      let src := c.opA.toNat + c.pos + kept.length
      let q := xlateBytes s x .read (runFrom src (take src))
      let bs := kept ++ q.s.readPlaces q.places
      let n := give (c.soff + c.pos) bs
      (∀ stop, q.stop = some stop → exec (.copyPiece c.seq) s = .next (q.s.copyStop c x .read stop).moved) ∧
      (q.stop = none → exec (.copyPiece c.seq) s = .next (goes (recv.foldl (fun s u =>
        (s.modGroup u fun g => g.padWords (c.soff + c.pos) (bs.take n)).copyCount c c.object n u) q.s) n bs))) ∧
    (c.kind = .cpy → c.outward = true →
      let src := c.soff + c.pos + kept.length
      let bs := kept ++ memReadN (s.engineView g).pad src (take src)
      let n := give (c.opA.toNat + c.pos) bs
      let q := xlateBytes s x .write (runFrom (c.opA.toNat + c.pos) n)
      (∀ stop, q.stop = some stop → exec (.copyPiece c.seq) s = .next (q.s.copyStop c x .write stop).moved) ∧
      (q.stop = none → exec (.copyPiece c.seq) s =
        .next (goes ((q.s.writePlaces q.places (bs.take n)).copyCount c c.object n g.uid) n bs))) ∧
    (c.kind = .cpys → exec (.copyPiece c.seq) s = .next
      (if (shapeOf c.record c.opB).outward then s.shapeOutward c g x (shapeOf c.record c.opB)
       else s.shapeIn c g x (shapeOf c.record c.opB)))) ∧
  (∀ (s : State) (f : Fetch) (g : Group) (c : Ctx) (src row : Nat) (rest : List (Nat × Nat)),
    s.fetches.find? (fun d => d.seq == f.seq && d.waitReq.isNone) = some f → s.group? f.uid = some g → s.ctxOf g = some c →
    f.rows = (src, row) :: rest → c.state = .running →
    let q := fetchRowBytes s c g.core f.noAlloc f.carry f.desc src
    (∀ stop, q.stop = some stop → exec (.fetchRow f.seq) s =
      let w := q.s.engineStop c .read g.core (.fetch f.seq) stop
      .next (w.2.elim w.1 fun tag => w.1.modFetch f.seq fun d => { d with waitReq := some tag }).moved) ∧
    (q.stop = none →
      let all := f.tail ++ q.bytes
      let stop := f.doff + row * f.rstride + q.bytes.length
      let keep := match rest with
        | (_, next) :: _ => if f.doff + next * f.rstride = stop then min all.length (stop % 8) else 0
        | [] => 0
      let now := all.take (all.length - keep)
      ∃ t, exec (.fetchRow f.seq) s = .next t ∧
      t.groups = (let u := q.s.modGroup g.uid fun g => g.putRow (stop - all.length) now q.err
        if f.nobo then u else u.countBytes g.uid f.bo now.length).groups ∧
      (∀ d ∈ t.fetches, d.seq = f.seq →
        d.rows = rest ∧ d.carry = q.carry ∧ d.tail = all.drop (all.length - keep) ∧ rest ≠ []))) ∧
  (∀ (s : State) (g : Group) (c : Card) (x : Ctx) (n : Nat), s.group? g.uid = some g → g.card? (BitVec.ofNat 16 n) = some c →
    s.ctxOf g = some x →
    ((s.mayStart g c = false ∨ s.cardTurn g c = false) → exec (.cardStart g.uid n) s = .next s) ∧
    (s.mayStart g c = true ↔ s.cardReady g c = true ∧ x.state = .running ∧ g.resident = true) ∧
    (s.cardTurn g c = true ↔
      ∀ h ∈ s.groups, h.core = g.core → ∀ e ∈ h.cards, e.age < c.age → s.mayStart h e = false) ∧
    (s.mayStart g c = true → s.cardTurn g c = true →
      let u := if c.kind = 1 ∧ s.engineOf g c.lid = none then s.bindEngine g c.lid else s
      let q := startCard u (u.engineView g) c
      exec (.cardStart g.uid n) s = .next (q.s.modGroup g.uid fun g => g.modCard c.task fun d => { d with
        state := if q.pairing then .pairing else .running, status := d.status ||| q.status
        hdrB := memReadN (u.engineView g).pad (d.handleB.getD 0) 32
        served := if q.status ≠ 0 ∧ d.kind = 3 then 1 else d.served }).moved) ∧
    (c.state = .running → g.resident = true → exec (.cardComplete g.uid n) s = .next
      (if c.writesGlobal then s.completeGlobal g c x else s.finishCard g.uid c)) ∧
    (x.state = .running → c.kind = 1 → c.u 6 1 = 1 → c.state = .pairing → ∀ d, s.group? d.uid = some d →
      (∃ r ∈ c.receivers g.gid, s.unserved g c r = true ∧ s.fate g r = .here d.uid) →
        exec (.broadcastMatch g.uid n d.uid) s = .next ((s.deliver g c d).settleSender g.uid c.task)) ∧
    (x.state = .running → c.sendsTo (c.u 0x10 2) (c.u 0xE 2) = true → c.state = .pairing →
      (g.cards.find? fun d => d.sendsTo (c.u 0x10 2) (c.u 0xE 2) && d.state != .running) = some c →
      (s.fate g (c.u 0x10 2) = .gone → exec (.peerMatch g.uid n) s = .next (s.noPeer g c taskSkip)) ∧
      ∀ h a, s.fate g (c.u 0x10 2) = .here h.uid → s.group? h.uid = some h → h.acceptor g.gid (c.u 0xE 2) = some a →
        (h.uid = g.uid ∧ a.lid = c.lid ∧ a.bank = c.bank → exec (.peerMatch g.uid n) s = .next (s.noPeer g c taskShape)) ∧
        (¬(h.uid = g.uid ∧ a.lid = c.lid ∧ a.bank = c.bank) → a.state = .pairing → a.entry a.served = g.gid →
          exec (.peerMatch g.uid n) s = .next (s.contribute g c h a)))) ∧
  (∀ (s : State) (r : TeamRef), exec (.tmoveComplete r.uid r.tid) s = .next ((s.finishMove r).finishTry r)) ∧
  ∀ (s : State) (r : TeamRef) (g : Group) (t : Team) (d : RegField) (i dest id : Nat), s.takeDue.group? r.uid = some g →
    s.takeDue.team? r = some t → t.hold = .tmove d i dest id →
    let u := s.takeDue
    let ends := fun (w : State) (st : Nat) => (w.modTeam r fun t => { (t.putS d (BitVec.ofNat 32 st)) with hold := .none }).moved
    let here := ((u.core? g.core).bind fun k => k.key i).filter fun e => e.id == id
    (here = none → s.finishMove r = ends u 3) ∧
    (∀ e, here = some e → u.group? dest = none → s.finishMove r = ends u 1) ∧
    ∀ e x, here = some e → u.group? dest = some x →
      let v := u.engineView g
      let h := v.hdr e.header
      let w := u.modGroup x.uid fun x =>
        ((x.padWrite h.off (memReadN v.pad h.off 32)).padWords h.doff (movedBytes v h u.steps)).madeBy r x.vers
      let full := ((w.core? x.core).bind Core.freeKey) = none
      (x.holdsTile h = false → s.finishMove r = ends u 4) ∧
      let held := e.held ≠ [] ∨ ∃ k j y, w.core? x.core = some k ∧ k.keyOf x.uid e.header = some j ∧ k.key j = some y ∧ y.held ≠ []
      (x.holdsTile h = true → held → s.finishMove r = w) ∧
      (x.holdsTile h = true → ¬held → full → s.finishMove r = ends w 2) ∧
      (x.holdsTile h = true → ¬held → ¬full → s.finishMove r =
        ends ((w.modCore g.core fun k => { k with keys := k.keys.set i none }).modCore x.core fun k =>
          let ks := k.keys.map fun o => if o.any fun y => y.uid == x.uid && y.header == e.header then none else o
          { k with keys := ks.set ((ks.findIdx? Option.isNone).getD 0) (some { e with uid := x.uid, gid := x.gid }) }) 0)

/-- The distributor completes its work (R114 to R118, R122, R125, R133, R134, R293, R384). A phase that can start takes its size and selects a schedule variant, a size of 0 ending
it. The next group of a launch that no earlier one blocks goes to the core chosen for it. A group starts once its overlays are
resident, all its teams at once, each with an acquire. A group's retirement comes after the snapshots of the
censuses that its teams have solicited, and a snapshot that is due is taken first; a drained group whose stores and stack caches are
all written back retires. A node's timer that has run out launches its pending records. An overlay load reads its code and ends with
the slot resident, waits for a page, or ends with its context. That a variant of 0 groups retires its phase, a record that is refused
too, and the order of a graph's phases are readings (log entry 27), as is the snapshot's own step (41); where an overlay's code lies
and a launch record read again after a wait are the model's (51). -/
def Obligations.DistributorEvents : Prop :=
  (∀ (s : State) (l : Launch) (c : Ctx), s.launch? l.lid = some l → s.ctx? l.part l.ctxid = some c → s.phaseReady l = true →
    (∀ va, l.recVa = some va → exec (.phaseStart l.lid) s = .next (s.phaseRead c l va 128 fun s bs => s.takeRecord c l bs).moved) ∧
    (l.recVa = none → ∀ k, c.kernel? l.record.image l.record.kidx = some k →
      exec (.phaseStart l.lid) s = .next (s.readSize c l k).moved)) ∧
  (∀ (s : State) (l : Launch) (k : Kernel) (size : Nat),
    (size = 0 → s.selectPhase l k size = s.endLaunch l) ∧
    (0 < size → ∀ i n v, k.select size = some (i, n) → k.scheds[i]? = some v →
      (Usage.empty.bind (k.need v l.record.stackSz)).isSome = true → 0 < n → s.selectPhase l k size =
        s.modLaunch l.lid fun _ => { l with state := .placing, variant := i, groups := n, sizeWord := size, startClk := s.clk }) ∧
    (0 < size → ∀ i v, k.select size = some (i, 0) → k.scheds[i]? = some v →
      (Usage.empty.bind (k.need v l.record.stackSz)).isSome = true → s.selectPhase l k size = s.endLaunch l) ∧
    (0 < size → ∀ i n v, k.select size = some (i, n) → k.scheds[i]? = some v →
      Usage.empty.bind (k.need v l.record.stackSz) = none →
      s.selectPhase l k size = s.ctxError l.part l.ctxid 0x10 0xFFFF 0 (BitVec.ofNat 64 size)) ∧
    (0 < size → k.select size = none → s.selectPhase l k size =
      s.ctxError l.part l.ctxid 0x10 0xFFFF 0 (BitVec.ofNat 64 size))) ∧
  (∀ (s t : State) (l : Launch) (core : Nat), s.launch? l.lid = some l → l.state = .placing → s.placeBlocked l = false →
    s.placeFor l = some core → s.placeOn l core = some t →
    exec (.groupPlace l.lid) s = .next (t.modLaunch l.lid fun l => { l with
      placed := l.placed + 1, state := if l.placed + 1 = l.groups then .running else .placing }).moved) ∧
  (∀ (s : State) (g : Group), s.group? g.uid = some g → g.state = .starting → s.overlaysReady g = true →
    let u := ({ s.modGroup g.uid (fun g => g.start s.nextAge s.clk) with nextAge := s.nextAge + g.teams.length } : State)
    let v := (g.teams.foldl (fun s t => s.acquire { uid := g.uid, tid := t.tid }) u).actKept g.part
    exec (.groupStart g.uid) s = .next (g.teams.foldl (fun s t => s.tryReplay { uid := g.uid, tid := t.tid }) v).carveTry.moved) ∧
  (∀ (s : State) (g : Group), s.group? g.uid = some g → (g.state ≠ .starting ∨ s.overlaysReady g = false) →
    exec (.groupStart g.uid) s = .next s) ∧
  (∀ (g : Group) (age clk : Nat), (∀ t ∈ (g.start age clk).teams, t.started = true) ∧
    ((∃ t ∈ g.teams, t.responder = none ∧ t.finished = false) → (g.start age clk).state = .running)) ∧
  (∀ (s : State) (g : Group), s.group? g.uid = some g → s.retireReady g = false → exec (.groupRetire g.uid) s = .next s) ∧
  (∀ (s : State) (g h : Group), s.group? g.uid = some g → s.retireReady g = true →
    let w := (g.teams.foldl State.pastSnapshots s).takeDue
    (∀ t ∈ g.teams, ∀ c ∈ s.censuses, c.cseq ∈ t.censuses → c.snapAt < w.clk) ∧
    (w.group? g.uid = some h →
    (w.retireReady h = false → exec (.groupRetire g.uid) s = .next w) ∧
    (w.retireReady h = true →
      let u := h.teams.foldl (fun s t => s.writeBack { uid := h.uid, tid := t.tid }) w
      ∀ k, u.group? h.uid = some k →
      ((∀ t ∈ k.teams, t.performed = true ∧ t.stack = []) → exec (.groupRetire g.uid) s = .next (u.retireGroup k).moved) ∧
      ((∃ t ∈ k.teams, ¬(t.performed = true ∧ t.stack = [])) → exec (.groupRetire g.uid) s = .next u.moved)))) ∧
  (∀ (s : State) (part id n : Nat) (d : GNode) (due : Nat), s.node? (part, id) n = some d → d.due = some due → due ≤ s.clk →
    0 < d.pending → exec (.flushTimerExpire part id n) s = .next (s.flushNode (part, id) n).moved) ∧
  (∀ (s : State) (core k : Nat) (q : Core) (o : OvSlot), s.core? core = some q → q.slots.getD k none = some o → o.loaded = false →
    s.loadWaits core k = false →
    (∀ c, s.ctxs.find? (fun c => c.asid == o.asid && c.state != .killed && c.state != .error) = some c →
      ∀ u done, s.readCode c core k o.codeReads = (u, done) →
        (done = true → exec (.overlayLoadDone core k) s = .next (u.modCore core fun q => { q with
          slots := modAt q.slots k fun o => o.map fun o => { o with loaded := true } }).moved) ∧
        (done = false → exec (.overlayLoadDone core k) s = .next u.moved)) ∧
    (s.ctxs.find? (fun c => c.asid == o.asid && c.state != .killed && c.state != .error) = none →
      exec (.overlayLoadDone core k) s = .next (s.modCore core fun q => { q with slots := q.slots.set k none }).moved)) ∧
  ∀ (s : State) (core k : Nat), s.loadWaits core k = true → exec (.overlayLoadDone core k) s = .next s

/-- Censuses, remote answers, requests and ports go on to their ends (R96, R384 to R390, R412 to R417). A snapshot is taken once its a-clk has come; a responder starts on
a core of fewer than four once its overlay is resident, and a census with no slot left for it answers null with a status bit; a
census closes with all its pieces answered and its responders retired, or is aborted 70,000 a-clk into a pre-emption. An answer delivers its lane's value, a
NACK or a timeout its failure. An incoming request on a port that is UP is answered NACK where its JOB is bound to no context that
serves or a byte faults or lies in host memory, waits for the expansion of a compressed page, and is else performed at its bytes'
places. A trained port is UP; a lost one goes DOWN, its operations fail, and its owner's port vector is raised, as when a port that
is DOWN is disabled. The snapshot's own step, and a census that closes before its responders retire in a context that is being saved,
are readings (log entry 41), and so is the incoming access to an address that no stack backs, which puts its context into ERROR and
is refused (log entry 42). -/
def Obligations.CensusAndPortEvents : Prop :=
  (∀ (s : State) (c : Census), s.censuses.find? (fun d => d.cseq == c.cseq) = some c →
    (c.snapped = false → c.snapAt ≤ s.clk → exec (.censusSnapshot c.cseq) s = .next (s.snapshot c)) ∧
    (let done := (∀ g ∈ s.groups, ∀ t ∈ g.teams, ∀ i, t.responder = some i → i.cseq ≠ c.cseq) ∨
      ∃ x, s.ctx? c.part c.ctxid = some x ∧ x.state = .preempting
    (c.state = .opened → c.complete = true → done → exec (.censusClose c.cseq) s = .next (s.closeCensus c)) ∧
    ((c.state ≠ .opened ∨ c.complete = false ∨ ¬done) → exec (.censusClose c.cseq) s = .next s)) ∧
    ∀ core p x d g k, c.nextPiece core = some p → s.ctx? c.part c.ctxid = some x → s.responderDecl c = some d →
      s.group? p.uid = some g → s.core? core = some k →
      (4 ≤ s.respondersOn core → exec (.responderStart c.cseq core) s = .next s) ∧
      (s.respondersOn core < 4 →
      (∀ o, k.slotOf? x.asid c.image (ovlOf d.entry) = some o → o.loaded = false →
        exec (.responderStart c.cseq core) s = .next s) ∧
      (∀ o, k.slotOf? x.asid c.image (ovlOf d.entry) = some o → o.loaded = true →
        exec (.responderStart c.cseq core) s = .next (s.startResponder c x g p d)) ∧
      (k.slotOf? x.asid c.image (ovlOf d.entry) = none → ∀ t, s.needOverlay x core c.image (ovlOf d.entry) = some t →
        exec (.responderStart c.cseq core) s = .next t.moved) ∧
      (k.slotOf? x.asid c.image (ovlOf d.entry) = none → s.needOverlay x core c.image (ovlOf d.entry) = none →
        exec (.responderStart c.cseq core) s = .next (s.modCensus c.cseq fun c => { c with
          pieces := modWhere c.pieces (fun q => q.core == core && q.order == p.order) (fun q => { q with state := .null })
          status := c.status ||| 0x80#32 }).moved))) ∧
  (∀ (s : State) (c : Census) (x : Ctx),
    let u := s.takeDue
    let expires := c.state = .opened ∧ x.state = .preempting ∧ x.saveClk + 70000 ≤ u.clk
    u.censuses.find? (fun d => d.cseq == c.cseq) = some c → u.ctx? c.part c.ctxid = some x →
    (expires → exec (.censusWaitExpire c.cseq) s = .next (u.abortCensus c)) ∧
    (¬expires → exec (.censusWaitExpire c.cseq) s = .next u)) ∧
  (∀ (s : State) (o : RemoteOp) (nack : Bool) (x : DWord), s.remotes.find? (fun p => p.rseq == o.rseq) = some o →
    (exec (.remoteResponse o.rseq nack x) s = .next
      ((if nack then s.failLane o 1 else s.laneValue o x).laneOver o).moved) ∧
    ∀ p, s.ports[o.port]? = some p → o.since + p.rto * 700000 ≤ s.clk →
      exec (.remoteTimeout o.rseq) s = .next ((s.failLane o 2).laneOver o).moved) ∧
  (∀ (i : Instr) (s : State) (r : Incoming) (p : Port),
    (∃ port job e va n, i = .remoteReadRequest port job e va n ∧
      r = { port := port, job := job, va := va, size := n, kind := 0, code := 0, data := [], compare := 0, tag := 0 }) ∨
    (∃ port job e va bs, i = .remoteWriteRequest port job e va bs ∧
      r = { port := port, job := job, va := va, size := bs.length, kind := 1, code := 0, data := bs, compare := 0, tag := 0 }) ∨
    (∃ port job e va op n x y, i = .remoteAtomicRequest port job e va op n x y ∧ r =
      { port := port, job := job, va := va, size := n, kind := 2, code := op, data := leBytes n x, compare := y % 2 ^ (8 * n), tag := 0 }) →
    s.ports[r.port]? = some p →
    (p.state ≠ 2 → exec i s = .next s) ∧
    (p.state = 2 → s.jobCtx r.port r.job = none → exec i s = .next (s.answerPeer r.port false [])) ∧
    ∀ c, p.state = 2 → s.jobCtx r.port r.job = some c →
      let q := xlateBytes s c (if r.kind = 0 then .read else .write) (runFrom r.va r.size)
      let old := q.s.readPlaces q.places
      (∀ va l, q.stop = some (.fault va 0 l) →
        let w := q.s.joinReq c va 0 0 (accessBits (if r.kind = 0 then .read else .write) true) noCore (.port c.ctxid)
        exec i s = .next ({ w.1 with incoming := w.1.incoming ++ [{ r with tag := w.2 }] } : State).moved) ∧
      (∀ va k l, k ≠ 0 → q.stop = some (.fault va k l) → exec i s = .next (s.answerPeer r.port false [])) ∧
      (∀ va, q.stop = some (.range va) → exec i s = .next (s.answerPeer r.port false [])) ∧
      (q.stop = some .bad →
        exec i s = .next ((q.s.ctxError c.part c.ctxid 0x22 0xFFFF 0 0).answerPeer r.port false [])) ∧
      (q.stop = none → (∃ x ∈ q.places, x.host = true) → exec i s = .next (s.answerPeer r.port false [])) ∧
      (q.stop = none → (∀ x ∈ q.places, x.host = false) →
        (r.kind = 0 → exec i s = .next (q.s.answerPeer r.port true old)) ∧
        (r.kind = 1 → exec i s = .next ((q.s.writePlaces q.places r.data).answerPeer r.port true [])) ∧
        (r.kind = 2 → exec i s = .next ((q.s.writePlaces q.places (leBytes r.size
          (atomNew (atomOfCode r.code) (8 * r.size) (leNat old) (leNat r.data) r.compare).1)).answerPeer r.port true old)))) ∧
  ∀ (s : State) (n : Nat) (p : Port), s.ports[n]? = some p →
    (p.state = 1 → exec (.portTrained n) s = .next { s with
      ports := s.ports.set n { p with state := 2 }, progress := s.progress + 1 }) ∧
    (p.state ≠ 1 → exec (.portTrained n) s = .next { s with progress := s.progress + 1 }) ∧
    (p.state = 2 → exec (.linkLoss n) s = .next (s.takeDown n)) ∧
    (p.state ≠ 2 → exec (.linkLoss n) s = .next s) ∧
    (∃ q, (s.takeDown n).ports[n]? = some q ∧ q.state = 0 ∧ q.downs = if p.state = 0 then p.downs else p.downs + 1) ∧
    (∀ o ∈ (s.takeDown n).remotes, o.port ≠ n) ∧
    ∀ part, s.portPart n = some part →
      (s.takeDown n).funcs = (s.modFunc (s.fnOf part) fun f => { f with msix := f.msix ++ [3] }).funcs

/-! ### The machine as a whole -/

/-- Words of the encoding (R46 to R48, R55), each written out from its format: SW, MAJ, then the fields. Both values of the switch marker
give the instruction, but for a HINT word. The word of zeros, a reserved major and an unassigned code are no instruction. -/
def Obligations.DecodesSpecWords : Prop :=
  decodeWord 0x02000000#32 = .ok .nop ∧ decodeWord 0x82000000#32 = .ok .nop ∧
  decodeWord 0x041C0005#32 = .ok (.ifc 7 5) ∧ decodeWord 0x0C000000#32 = .ok (.iaddi 0 0 0) ∧
  decodeWord 0x08141871#32 = .ok (.isub 5 3 7) ∧ decodeWord 0x0E157FFF#32 = .ok (.movi 5 0x17FFF) ∧
  decodeWord 0x10142813#32 = .ok (.acvt 5 5 1) ∧ decodeWord 0x12141873#32 = .ok (.ffma 5 3 7) ∧
  decodeWord 0x201418AC#32 = .error .unassigned ∧ decodeWord 0xFE000000#32 = .error .fixedField ∧
  decodeWord 0x7E000001#32 = .ok (.hintImm 1) ∧ decodeWord 0x02000001#32 = .error .fixedField ∧
  decodeWord 0x00000000#32 = .error .reservedMajor ∧ decodeWord 0x46000000#32 = .error .reservedMajor

/-- Encoding and decoding agree (R46 to R48, R55, R57): a well-formed instruction's word decodes to it, with every operand at every value; a
word that decodes is the word of the instruction it decodes to, but for its switch marker; an instruction has a word exactly if it
is no command or event. -/
def Obligations.DecodeEncode : Prop :=
  (∀ (i : Instr) (w : Word), i.wellFormed = true → encode i = some w → decodeWord w = .ok i) ∧
  (∀ (i : Instr) (w : Word), decodeWord w = .ok i → encode i = some (w &&& 0x7FFFFFFF#32)) ∧
  ∀ i : Instr, (encode i).isSome = true ↔ i.major ≠ 0

/-- The machine at the release of reset (R312, R413, R417, R421): the start has not begun, no context, launch, group or copy exists, device memory
lists nothing (the model's choice, log entry 1), no overlay, key or engine binding stands in any core, the group tables hold 3p + (i mod 3), every port is DOWN with
RTO 100, and the memories are in the canonical form of log entry 1. Registers without a reset value of the manual's are not part of it. -/
def Obligations.ResetState : Prop :=
  let s := State.reset
  Safe s ∧ s.dev.boot.step = 0 ∧ s.mem = [] ∧ s.ctxs = [] ∧ s.launches = [] ∧ s.groups = [] ∧ s.copies = [] ∧ s.censuses = [] ∧
    s.cores.length = 256 ∧ (∀ k ∈ s.cores, (∀ o ∈ k.slots, o = none) ∧ (∀ o ∈ k.keys, o = none) ∧ ∀ e ∈ k.engines, e.boundTo = none) ∧
    (∀ p < 8, (s.part? p).map (·.groupTable) = some ((List.range 64).map fun i => 3 * p + i % 3)) ∧
    ∀ p ∈ s.ports, p.state = 0 ∧ p.rto = 100 ∧ p.downs = 0

/-- What a step does (R57, R58, R103, R163). An input that stands on the agenda is performed. Else, where the turn falls to a team, the word
at its pc in its core's overlays is decoded: a word that decodes is executed by its meaning, in the state with that word and team
current; any other is ILLEGAL, with the word in TRAPVA. Where the turn falls to an event, the event happens; where nothing can
happen, the clock goes on to where an interlock, a stall count, a YIELD or an entry's a-clk ends. A team that its word has held was
not ready, so its scheduler has chosen nothing. The agenda and the choice among several turns are the model's (log entry 3). -/
def Obligations.StepRunsDecoded : Prop :=
  (∀ s t : State,
    let held := ∃ r v, t.cur = some r ∧ t.team? r = some v ∧ v.heldAt = some t.progress
    (held → afterExec s (.next t) = .next { t with scheds := s.scheds }) ∧ (¬held → afterExec s (.next t) = .next t)) ∧
  (∀ (s : State) (i : Instr) (rest : List (Option Instr)), s.agenda = some i :: rest →
    step s = afterExec s (exec i { s.begin with agenda := rest, cur := none })) ∧
  ∀ s : State, (∀ i rest, s.agenda ≠ some i :: rest) →
    let u := { s.begin with agenda := s.agenda.drop 1 }
    (u.chosen = none → step s = .next ({ u with clk := max u.clk (u.nextClk.getD 0), cur := none } : State)) ∧
    (∀ e, u.chosen = some (.event e) → step s = e.run { u with cur := none }) ∧
    ∀ c, u.chosen = some (.team c) →
      let v := u.noteIssue c
      ∀ g t x w, v.group? c.ref.uid = some g → g.team? c.ref.tid = some t → v.ctxOf g = some x →
        v.codeWord (g.forTeam t) t.pc = some w →
        let z := { v.modCore g.core (fun k => k.touch x.asid (g.forTeam t).image t.pc v.steps) with iword := w }
        (∀ i, decodeWord w = .ok i → step s = afterExec s (exec i z)) ∧
        (∀ e, decodeWord w = .error e → step s = .next (z.raiseTrap c.ref 0x01 (w.zeroExtend 64) t.prefixPc).moved)

/-- Traps (R57, R58, R102, R104). A word other than a HINT that fails a check of R57 raises its trap and has no other effect. A trap whose
cause is in TRAPMASK and may be delivered, of a team that has not INH set and whose handler's word is resident, writes TRAPCAUSE,
TRAPPC and TRAPVA, sets INH and sends the team to TRAPVEC; nothing else of the machine changes but the counts and the prefix. Any
other puts the context into ERROR, with cause 0x20 where INH was set: its work is discarded, its slot table is dropped, memory
is unchanged, and the event record is posted, or waits while the host link is down. -/
def Obligations.Traps : Prop :=
  (∀ (i : Instr) (s : State) (r : TeamRef) (g : Group) (t : Team) (code : Nat) (w : Word), i.major ≠ 0 → i.major ≠ 0x3F →
    s.cur = some r → s.group? r.uid = some g → g.team? r.tid = some t → issueFault s (g.forTeam t) t i = some (code, w) →
    exec i s = .next (s.raiseTrap r code (w.zeroExtend 64) (match t.hints with
      | h :: _ => h.pc
      | [] => t.pc)).moved) ∧
  (∀ (s : State) (g : Group) (t : Team) (i : Instr),
    (i.wellFormed = false → issueFault s g t i = some (0x01, s.iword)) ∧
    (step4Ok s g t i = true → queueFault g t i ≠ some 0x01 → t.hints = [] →
      instrRoleOk i t.role = false → issueFault s g t i = some (0x02, s.iword)) ∧
    (step4Ok s g t i = true → t.hints = [] → instrRoleOk i t.role = true →
      (∀ c, queueFault g t i = some c → c ≠ 0x01 → issueFault s g t i = some (c, s.iword)) ∧
      (queueFault g t i = none → tileRecBad t i = true → issueFault s g t i = some (0x03, s.iword)) ∧
      (queueFault g t i = none → tileRecBad t i = false → issueFault s g t i = none))) ∧
  (∀ (s : State) (r : TeamRef) (g : Group) (t : Team) (code : Nat) (va : DWord) (pc : Word), s.group? r.uid = some g →
    g.team? r.tid = some t →
    let delivered := t.trapInh = false ∧ code ≠ 0x09 ∧ code ≠ 0x10 ∧ code ≠ 0x11 ∧ t.trapmask.getLsbD code = true ∧
      (s.codeWord (g.forTeam t) t.trapvec).isSome = true
    let kept := if t.role = .access then va else va &&& 0xFFFFFFFF#64
    (delivered → s.raiseTrap r code va pc = s.modTeam r fun u => { u with
      trapCause := BitVec.ofNat 8 code, trappc := pc, trapva := if u.role = .access then va else va &&& 0xFFFFFFFF#64
      trapInh := true, pc := u.trapvec, stalls := [], hints := [], queueHeld := false, lodHeld := false, fuse := 0 }) ∧
    (¬delivered → s.raiseTrap r code va pc = s.ctxError g.part g.ctxid (if t.trapInh then 0x20 else code) g.core pc kept)) ∧
  ∀ (s : State) (part id cause core : Nat) (pc : Word) (va : DWord) (c : Ctx), s.ctx? part id = some c →
    let t := s.ctxError part id cause core pc va
    ((c.state = .error ∨ c.state = .killed) → t = s) ∧
    (c.state ≠ .error → c.state ≠ .killed →
      (∀ d, t.ctx? part id = some d → d.state = .error ∧ d.slots = List.replicate 256 slotReset ∧ d.hand = 0 ∧ d.gen = c.gen) ∧
      (∀ g ∈ t.groups, g.part = part → g.ctxid ≠ id) ∧ (∀ l ∈ t.launches, l.part = part → l.ctxid ≠ id) ∧
      t.mem = s.mem ∧ t.hostMem = s.hostMem ∧
      let e : EventRec := { fn := if s.dev.mode = .eight then c.part + 1 else 0, ctxid := c.ctxid, gen := c.gen, kind := 2,
                            cause := cause, core := core, trappc := pc, trapva := va, clk := s.clk }
      (s.dev.hostLink = true → t.events = s.events ++ [e]) ∧
      (s.dev.hostLink = false → t.events = s.events ∧ t.dev.unposted = s.dev.unposted ++ [e]))

/-- Register, predicate and flag writes (R29, R51 to R54, R188, R189). A write to a v or a register gives each running lane its value, v registers bits
[31:0], and leaves every other register and lane; a write to an s register keeps bits [31:0] of the lowest running lane's value, and
without a running lane changes nothing; no write changes another register. A read of an s register is extended by the role. A write to
p7 is discarded, and p7 reads as true. A raised flag stays set. -/
def Obligations.RegisterWrites : Prop :=
  (∀ (t : Team) (f : RegField) (v : Nat → DWord) (l : Nat) (k : Lane), isS f = false → t.lanes[l]? = some k →
    (t.role = .access → f.toNat < k.a.length) → (t.role ≠ .access → f.toNat < k.v.length) →
    (l ∈ t.run → (t.write f v).reg f l = if t.role = .access then v l else v l &&& 0xFFFFFFFF#64) ∧
    (l ∉ t.run → (t.write f v).lanes[l]? = some k) ∧
    (∀ q : RegField, q ≠ f → (t.write f v).reg q l = t.reg q l)) ∧
  (∀ (t : Team) (f : RegField) (v : Nat → DWord), isS f = true → t.sregs.length = 32 →
    (∀ l, t.low? = some l → (t.write f v).sreg f = (v l).truncate 32 ∧ ∀ q : RegField, isS q = true → q ≠ f → (t.write f v).sreg q = t.sreg q) ∧
    (t.low? = none → t.write f v = t) ∧ (t.write f v).lanes = t.lanes) ∧
  (∀ (t : Team) (f : RegField) (l : Nat), isS f = true →
    t.reg f l = if t.role = .access then (t.sreg f).signExtend 64 else (t.sreg f).zeroExtend 64) ∧
  (∀ (t : Team) (p : Nat) (v : Nat → Bool),
    (p = 7 → t.writePred p v = t) ∧
    (p < 7 → ∀ l ∈ t.run, (t.writePred p v).pred p l = v l ∧ ∀ q < 7, q ≠ p → (t.writePred p v).pred q l = t.pred q l) ∧
    (p < 7 → ∀ l, l ∉ t.run → (t.writePred p v).lanes[l]? = t.lanes[l]?) ∧ ∀ l, t.pred 7 l = true) ∧
  ∀ (t : Team) (f : Flags) (k : Nat), (t.orFlags f).astat.getLsbD k = (t.astat.getLsbD k || f.getLsbD k)

/-- From every state whose memories are all in the canonical form, a step of the machine, and a command or event given to it, leads to such a
state. The canonical form is the model's (log entry 1). -/
def Obligations.StepKeepsSafe : Prop :=
  (∀ s t : State, Safe s → step s = .next t → Safe t) ∧
  ∀ (i : Instr) (s t : State), Safe s → exec i s = .next t → Safe t
end

