-- ==== Sys2Proof/Laws/State.lean ====
section
/-!
SUPPORT. What each named update of the state leaves of each field: one lemma a field, true by unfolding.
-/

namespace Sys2Proof.Machine

@[simp] theorem State.modGroup_steps (s : State) (u : Nat) (f : Group → Group) : (s.modGroup u f).steps = s.steps := rfl
@[simp] theorem State.modGroup_clk (s : State) (u : Nat) (f : Group → Group) : (s.modGroup u f).clk = s.clk := rfl
@[simp] theorem State.modGroup_free (s : State) (u : Nat) (f : Group → Group) : (s.modGroup u f).free = s.free := rfl
@[simp] theorem State.modGroup_progress (s : State) (u : Nat) (f : Group → Group) : (s.modGroup u f).progress = s.progress := rfl
@[simp] theorem State.modGroup_iword (s : State) (u : Nat) (f : Group → Group) : (s.modGroup u f).iword = s.iword := rfl
@[simp] theorem State.modGroup_cur (s : State) (u : Nat) (f : Group → Group) : (s.modGroup u f).cur = s.cur := rfl
@[simp] theorem State.modGroup_scheds (s : State) (u : Nat) (f : Group → Group) : (s.modGroup u f).scheds = s.scheds := rfl
@[simp] theorem State.modGroup_nextAge (s : State) (u : Nat) (f : Group → Group) : (s.modGroup u f).nextAge = s.nextAge := rfl
@[simp] theorem State.modGroup_nextUid (s : State) (u : Nat) (f : Group → Group) : (s.modGroup u f).nextUid = s.nextUid := rfl
@[simp] theorem State.modGroup_nextSeq (s : State) (u : Nat) (f : Group → Group) : (s.modGroup u f).nextSeq = s.nextSeq := rfl
@[simp] theorem State.modGroup_agenda (s : State) (u : Nat) (f : Group → Group) : (s.modGroup u f).agenda = s.agenda := rfl
@[simp] theorem State.modGroup_mem (s : State) (u : Nat) (f : Group → Group) : (s.modGroup u f).mem = s.mem := rfl
@[simp] theorem State.modGroup_past (s : State) (u : Nat) (f : Group → Group) : (s.modGroup u f).past = s.past := rfl
@[simp] theorem State.modGroup_vers (s : State) (u : Nat) (f : Group → Group) : (s.modGroup u f).vers = s.vers := rfl
@[simp] theorem State.modGroup_hostMem (s : State) (u : Nat) (f : Group → Group) : (s.modGroup u f).hostMem = s.hostMem := rfl
@[simp] theorem State.modGroup_dev (s : State) (u : Nat) (f : Group → Group) : (s.modGroup u f).dev = s.dev := rfl
@[simp] theorem State.modGroup_parts (s : State) (u : Nat) (f : Group → Group) : (s.modGroup u f).parts = s.parts := rfl
@[simp] theorem State.modGroup_ports (s : State) (u : Nat) (f : Group → Group) : (s.modGroup u f).ports = s.ports := rfl
@[simp] theorem State.modGroup_funcs (s : State) (u : Nat) (f : Group → Group) : (s.modGroup u f).funcs = s.funcs := rfl
@[simp] theorem State.modGroup_events (s : State) (u : Nat) (f : Group → Group) : (s.modGroup u f).events = s.events := rfl
@[simp] theorem State.modGroup_ctxs (s : State) (u : Nat) (f : Group → Group) : (s.modGroup u f).ctxs = s.ctxs := rfl
@[simp] theorem State.modGroup_launches (s : State) (u : Nat) (f : Group → Group) : (s.modGroup u f).launches = s.launches := rfl
@[simp] theorem State.modGroup_cores (s : State) (u : Nat) (f : Group → Group) : (s.modGroup u f).cores = s.cores := rfl
@[simp] theorem State.modGroup_copies (s : State) (u : Nat) (f : Group → Group) : (s.modGroup u f).copies = s.copies := rfl
@[simp] theorem State.modGroup_fetches (s : State) (u : Nat) (f : Group → Group) : (s.modGroup u f).fetches = s.fetches := rfl
@[simp] theorem State.modGroup_remotes (s : State) (u : Nat) (f : Group → Group) : (s.modGroup u f).remotes = s.remotes := rfl
@[simp] theorem State.modGroup_incoming (s : State) (u : Nat) (f : Group → Group) : (s.modGroup u f).incoming = s.incoming := rfl
@[simp] theorem State.modGroup_censuses (s : State) (u : Nat) (f : Group → Group) : (s.modGroup u f).censuses = s.censuses := rfl

@[simp] theorem State.modTeam_steps (s : State) (r : TeamRef) (f : Team → Team) : (s.modTeam r f).steps = s.steps := rfl
@[simp] theorem State.modTeam_clk (s : State) (r : TeamRef) (f : Team → Team) : (s.modTeam r f).clk = s.clk := rfl
@[simp] theorem State.modTeam_free (s : State) (r : TeamRef) (f : Team → Team) : (s.modTeam r f).free = s.free := rfl
@[simp] theorem State.modTeam_progress (s : State) (r : TeamRef) (f : Team → Team) : (s.modTeam r f).progress = s.progress := rfl
@[simp] theorem State.modTeam_iword (s : State) (r : TeamRef) (f : Team → Team) : (s.modTeam r f).iword = s.iword := rfl
@[simp] theorem State.modTeam_cur (s : State) (r : TeamRef) (f : Team → Team) : (s.modTeam r f).cur = s.cur := rfl
@[simp] theorem State.modTeam_scheds (s : State) (r : TeamRef) (f : Team → Team) : (s.modTeam r f).scheds = s.scheds := rfl
@[simp] theorem State.modTeam_nextAge (s : State) (r : TeamRef) (f : Team → Team) : (s.modTeam r f).nextAge = s.nextAge := rfl
@[simp] theorem State.modTeam_nextUid (s : State) (r : TeamRef) (f : Team → Team) : (s.modTeam r f).nextUid = s.nextUid := rfl
@[simp] theorem State.modTeam_nextSeq (s : State) (r : TeamRef) (f : Team → Team) : (s.modTeam r f).nextSeq = s.nextSeq := rfl
@[simp] theorem State.modTeam_agenda (s : State) (r : TeamRef) (f : Team → Team) : (s.modTeam r f).agenda = s.agenda := rfl
@[simp] theorem State.modTeam_mem (s : State) (r : TeamRef) (f : Team → Team) : (s.modTeam r f).mem = s.mem := rfl
@[simp] theorem State.modTeam_past (s : State) (r : TeamRef) (f : Team → Team) : (s.modTeam r f).past = s.past := rfl
@[simp] theorem State.modTeam_vers (s : State) (r : TeamRef) (f : Team → Team) : (s.modTeam r f).vers = s.vers := rfl
@[simp] theorem State.modTeam_hostMem (s : State) (r : TeamRef) (f : Team → Team) : (s.modTeam r f).hostMem = s.hostMem := rfl
@[simp] theorem State.modTeam_dev (s : State) (r : TeamRef) (f : Team → Team) : (s.modTeam r f).dev = s.dev := rfl
@[simp] theorem State.modTeam_parts (s : State) (r : TeamRef) (f : Team → Team) : (s.modTeam r f).parts = s.parts := rfl
@[simp] theorem State.modTeam_ports (s : State) (r : TeamRef) (f : Team → Team) : (s.modTeam r f).ports = s.ports := rfl
@[simp] theorem State.modTeam_funcs (s : State) (r : TeamRef) (f : Team → Team) : (s.modTeam r f).funcs = s.funcs := rfl
@[simp] theorem State.modTeam_events (s : State) (r : TeamRef) (f : Team → Team) : (s.modTeam r f).events = s.events := rfl
@[simp] theorem State.modTeam_ctxs (s : State) (r : TeamRef) (f : Team → Team) : (s.modTeam r f).ctxs = s.ctxs := rfl
@[simp] theorem State.modTeam_launches (s : State) (r : TeamRef) (f : Team → Team) : (s.modTeam r f).launches = s.launches := rfl
@[simp] theorem State.modTeam_cores (s : State) (r : TeamRef) (f : Team → Team) : (s.modTeam r f).cores = s.cores := rfl
@[simp] theorem State.modTeam_copies (s : State) (r : TeamRef) (f : Team → Team) : (s.modTeam r f).copies = s.copies := rfl
@[simp] theorem State.modTeam_fetches (s : State) (r : TeamRef) (f : Team → Team) : (s.modTeam r f).fetches = s.fetches := rfl
@[simp] theorem State.modTeam_remotes (s : State) (r : TeamRef) (f : Team → Team) : (s.modTeam r f).remotes = s.remotes := rfl
@[simp] theorem State.modTeam_incoming (s : State) (r : TeamRef) (f : Team → Team) : (s.modTeam r f).incoming = s.incoming := rfl
@[simp] theorem State.modTeam_censuses (s : State) (r : TeamRef) (f : Team → Team) : (s.modTeam r f).censuses = s.censuses := rfl

@[simp] theorem State.modCtx_steps (s : State) (p c : Nat) (f : Ctx → Ctx) : (s.modCtx p c f).steps = s.steps := rfl
@[simp] theorem State.modCtx_clk (s : State) (p c : Nat) (f : Ctx → Ctx) : (s.modCtx p c f).clk = s.clk := rfl
@[simp] theorem State.modCtx_free (s : State) (p c : Nat) (f : Ctx → Ctx) : (s.modCtx p c f).free = s.free := rfl
@[simp] theorem State.modCtx_progress (s : State) (p c : Nat) (f : Ctx → Ctx) : (s.modCtx p c f).progress = s.progress := rfl
@[simp] theorem State.modCtx_iword (s : State) (p c : Nat) (f : Ctx → Ctx) : (s.modCtx p c f).iword = s.iword := rfl
@[simp] theorem State.modCtx_cur (s : State) (p c : Nat) (f : Ctx → Ctx) : (s.modCtx p c f).cur = s.cur := rfl
@[simp] theorem State.modCtx_scheds (s : State) (p c : Nat) (f : Ctx → Ctx) : (s.modCtx p c f).scheds = s.scheds := rfl
@[simp] theorem State.modCtx_nextAge (s : State) (p c : Nat) (f : Ctx → Ctx) : (s.modCtx p c f).nextAge = s.nextAge := rfl
@[simp] theorem State.modCtx_nextUid (s : State) (p c : Nat) (f : Ctx → Ctx) : (s.modCtx p c f).nextUid = s.nextUid := rfl
@[simp] theorem State.modCtx_nextSeq (s : State) (p c : Nat) (f : Ctx → Ctx) : (s.modCtx p c f).nextSeq = s.nextSeq := rfl
@[simp] theorem State.modCtx_agenda (s : State) (p c : Nat) (f : Ctx → Ctx) : (s.modCtx p c f).agenda = s.agenda := rfl
@[simp] theorem State.modCtx_mem (s : State) (p c : Nat) (f : Ctx → Ctx) : (s.modCtx p c f).mem = s.mem := rfl
@[simp] theorem State.modCtx_past (s : State) (p c : Nat) (f : Ctx → Ctx) : (s.modCtx p c f).past = s.past := rfl
@[simp] theorem State.modCtx_vers (s : State) (p c : Nat) (f : Ctx → Ctx) : (s.modCtx p c f).vers = s.vers := rfl
@[simp] theorem State.modCtx_hostMem (s : State) (p c : Nat) (f : Ctx → Ctx) : (s.modCtx p c f).hostMem = s.hostMem := rfl
@[simp] theorem State.modCtx_dev (s : State) (p c : Nat) (f : Ctx → Ctx) : (s.modCtx p c f).dev = s.dev := rfl
@[simp] theorem State.modCtx_parts (s : State) (p c : Nat) (f : Ctx → Ctx) : (s.modCtx p c f).parts = s.parts := rfl
@[simp] theorem State.modCtx_ports (s : State) (p c : Nat) (f : Ctx → Ctx) : (s.modCtx p c f).ports = s.ports := rfl
@[simp] theorem State.modCtx_funcs (s : State) (p c : Nat) (f : Ctx → Ctx) : (s.modCtx p c f).funcs = s.funcs := rfl
@[simp] theorem State.modCtx_events (s : State) (p c : Nat) (f : Ctx → Ctx) : (s.modCtx p c f).events = s.events := rfl
@[simp] theorem State.modCtx_launches (s : State) (p c : Nat) (f : Ctx → Ctx) : (s.modCtx p c f).launches = s.launches := rfl
@[simp] theorem State.modCtx_groups (s : State) (p c : Nat) (f : Ctx → Ctx) : (s.modCtx p c f).groups = s.groups := rfl
@[simp] theorem State.modCtx_cores (s : State) (p c : Nat) (f : Ctx → Ctx) : (s.modCtx p c f).cores = s.cores := rfl
@[simp] theorem State.modCtx_copies (s : State) (p c : Nat) (f : Ctx → Ctx) : (s.modCtx p c f).copies = s.copies := rfl
@[simp] theorem State.modCtx_fetches (s : State) (p c : Nat) (f : Ctx → Ctx) : (s.modCtx p c f).fetches = s.fetches := rfl
@[simp] theorem State.modCtx_remotes (s : State) (p c : Nat) (f : Ctx → Ctx) : (s.modCtx p c f).remotes = s.remotes := rfl
@[simp] theorem State.modCtx_incoming (s : State) (p c : Nat) (f : Ctx → Ctx) : (s.modCtx p c f).incoming = s.incoming := rfl
@[simp] theorem State.modCtx_censuses (s : State) (p c : Nat) (f : Ctx → Ctx) : (s.modCtx p c f).censuses = s.censuses := rfl

@[simp] theorem State.modCore_steps (s : State) (c : Nat) (f : Core → Core) : (s.modCore c f).steps = s.steps := rfl
@[simp] theorem State.modCore_clk (s : State) (c : Nat) (f : Core → Core) : (s.modCore c f).clk = s.clk := rfl
@[simp] theorem State.modCore_free (s : State) (c : Nat) (f : Core → Core) : (s.modCore c f).free = s.free := rfl
@[simp] theorem State.modCore_progress (s : State) (c : Nat) (f : Core → Core) : (s.modCore c f).progress = s.progress := rfl
@[simp] theorem State.modCore_iword (s : State) (c : Nat) (f : Core → Core) : (s.modCore c f).iword = s.iword := rfl
@[simp] theorem State.modCore_cur (s : State) (c : Nat) (f : Core → Core) : (s.modCore c f).cur = s.cur := rfl
@[simp] theorem State.modCore_scheds (s : State) (c : Nat) (f : Core → Core) : (s.modCore c f).scheds = s.scheds := rfl
@[simp] theorem State.modCore_nextAge (s : State) (c : Nat) (f : Core → Core) : (s.modCore c f).nextAge = s.nextAge := rfl
@[simp] theorem State.modCore_nextUid (s : State) (c : Nat) (f : Core → Core) : (s.modCore c f).nextUid = s.nextUid := rfl
@[simp] theorem State.modCore_nextSeq (s : State) (c : Nat) (f : Core → Core) : (s.modCore c f).nextSeq = s.nextSeq := rfl
@[simp] theorem State.modCore_agenda (s : State) (c : Nat) (f : Core → Core) : (s.modCore c f).agenda = s.agenda := rfl
@[simp] theorem State.modCore_mem (s : State) (c : Nat) (f : Core → Core) : (s.modCore c f).mem = s.mem := rfl
@[simp] theorem State.modCore_past (s : State) (c : Nat) (f : Core → Core) : (s.modCore c f).past = s.past := rfl
@[simp] theorem State.modCore_vers (s : State) (c : Nat) (f : Core → Core) : (s.modCore c f).vers = s.vers := rfl
@[simp] theorem State.modCore_hostMem (s : State) (c : Nat) (f : Core → Core) : (s.modCore c f).hostMem = s.hostMem := rfl
@[simp] theorem State.modCore_dev (s : State) (c : Nat) (f : Core → Core) : (s.modCore c f).dev = s.dev := rfl
@[simp] theorem State.modCore_parts (s : State) (c : Nat) (f : Core → Core) : (s.modCore c f).parts = s.parts := rfl
@[simp] theorem State.modCore_ports (s : State) (c : Nat) (f : Core → Core) : (s.modCore c f).ports = s.ports := rfl
@[simp] theorem State.modCore_funcs (s : State) (c : Nat) (f : Core → Core) : (s.modCore c f).funcs = s.funcs := rfl
@[simp] theorem State.modCore_events (s : State) (c : Nat) (f : Core → Core) : (s.modCore c f).events = s.events := rfl
@[simp] theorem State.modCore_ctxs (s : State) (c : Nat) (f : Core → Core) : (s.modCore c f).ctxs = s.ctxs := rfl
@[simp] theorem State.modCore_launches (s : State) (c : Nat) (f : Core → Core) : (s.modCore c f).launches = s.launches := rfl
@[simp] theorem State.modCore_groups (s : State) (c : Nat) (f : Core → Core) : (s.modCore c f).groups = s.groups := rfl
@[simp] theorem State.modCore_copies (s : State) (c : Nat) (f : Core → Core) : (s.modCore c f).copies = s.copies := rfl
@[simp] theorem State.modCore_fetches (s : State) (c : Nat) (f : Core → Core) : (s.modCore c f).fetches = s.fetches := rfl
@[simp] theorem State.modCore_remotes (s : State) (c : Nat) (f : Core → Core) : (s.modCore c f).remotes = s.remotes := rfl
@[simp] theorem State.modCore_incoming (s : State) (c : Nat) (f : Core → Core) : (s.modCore c f).incoming = s.incoming := rfl
@[simp] theorem State.modCore_censuses (s : State) (c : Nat) (f : Core → Core) : (s.modCore c f).censuses = s.censuses := rfl

@[simp] theorem State.modPart_steps (s : State) (p : Nat) (f : Partition → Partition) : (s.modPart p f).steps = s.steps := rfl
@[simp] theorem State.modPart_clk (s : State) (p : Nat) (f : Partition → Partition) : (s.modPart p f).clk = s.clk := rfl
@[simp] theorem State.modPart_free (s : State) (p : Nat) (f : Partition → Partition) : (s.modPart p f).free = s.free := rfl
@[simp] theorem State.modPart_progress (s : State) (p : Nat) (f : Partition → Partition) : (s.modPart p f).progress = s.progress := rfl
@[simp] theorem State.modPart_iword (s : State) (p : Nat) (f : Partition → Partition) : (s.modPart p f).iword = s.iword := rfl
@[simp] theorem State.modPart_cur (s : State) (p : Nat) (f : Partition → Partition) : (s.modPart p f).cur = s.cur := rfl
@[simp] theorem State.modPart_scheds (s : State) (p : Nat) (f : Partition → Partition) : (s.modPart p f).scheds = s.scheds := rfl
@[simp] theorem State.modPart_nextAge (s : State) (p : Nat) (f : Partition → Partition) : (s.modPart p f).nextAge = s.nextAge := rfl
@[simp] theorem State.modPart_nextUid (s : State) (p : Nat) (f : Partition → Partition) : (s.modPart p f).nextUid = s.nextUid := rfl
@[simp] theorem State.modPart_nextSeq (s : State) (p : Nat) (f : Partition → Partition) : (s.modPart p f).nextSeq = s.nextSeq := rfl
@[simp] theorem State.modPart_agenda (s : State) (p : Nat) (f : Partition → Partition) : (s.modPart p f).agenda = s.agenda := rfl
@[simp] theorem State.modPart_mem (s : State) (p : Nat) (f : Partition → Partition) : (s.modPart p f).mem = s.mem := rfl
@[simp] theorem State.modPart_past (s : State) (p : Nat) (f : Partition → Partition) : (s.modPart p f).past = s.past := rfl
@[simp] theorem State.modPart_vers (s : State) (p : Nat) (f : Partition → Partition) : (s.modPart p f).vers = s.vers := rfl
@[simp] theorem State.modPart_hostMem (s : State) (p : Nat) (f : Partition → Partition) : (s.modPart p f).hostMem = s.hostMem := rfl
@[simp] theorem State.modPart_dev (s : State) (p : Nat) (f : Partition → Partition) : (s.modPart p f).dev = s.dev := rfl
@[simp] theorem State.modPart_ports (s : State) (p : Nat) (f : Partition → Partition) : (s.modPart p f).ports = s.ports := rfl
@[simp] theorem State.modPart_funcs (s : State) (p : Nat) (f : Partition → Partition) : (s.modPart p f).funcs = s.funcs := rfl
@[simp] theorem State.modPart_events (s : State) (p : Nat) (f : Partition → Partition) : (s.modPart p f).events = s.events := rfl
@[simp] theorem State.modPart_ctxs (s : State) (p : Nat) (f : Partition → Partition) : (s.modPart p f).ctxs = s.ctxs := rfl
@[simp] theorem State.modPart_launches (s : State) (p : Nat) (f : Partition → Partition) : (s.modPart p f).launches = s.launches := rfl
@[simp] theorem State.modPart_groups (s : State) (p : Nat) (f : Partition → Partition) : (s.modPart p f).groups = s.groups := rfl
@[simp] theorem State.modPart_cores (s : State) (p : Nat) (f : Partition → Partition) : (s.modPart p f).cores = s.cores := rfl
@[simp] theorem State.modPart_copies (s : State) (p : Nat) (f : Partition → Partition) : (s.modPart p f).copies = s.copies := rfl
@[simp] theorem State.modPart_fetches (s : State) (p : Nat) (f : Partition → Partition) : (s.modPart p f).fetches = s.fetches := rfl
@[simp] theorem State.modPart_remotes (s : State) (p : Nat) (f : Partition → Partition) : (s.modPart p f).remotes = s.remotes := rfl
@[simp] theorem State.modPart_incoming (s : State) (p : Nat) (f : Partition → Partition) : (s.modPart p f).incoming = s.incoming := rfl
@[simp] theorem State.modPart_censuses (s : State) (p : Nat) (f : Partition → Partition) : (s.modPart p f).censuses = s.censuses := rfl

@[simp] theorem State.modLaunch_steps (s : State) (l : Nat) (f : Launch → Launch) : (s.modLaunch l f).steps = s.steps := rfl
@[simp] theorem State.modLaunch_clk (s : State) (l : Nat) (f : Launch → Launch) : (s.modLaunch l f).clk = s.clk := rfl
@[simp] theorem State.modLaunch_free (s : State) (l : Nat) (f : Launch → Launch) : (s.modLaunch l f).free = s.free := rfl
@[simp] theorem State.modLaunch_progress (s : State) (l : Nat) (f : Launch → Launch) : (s.modLaunch l f).progress = s.progress := rfl
@[simp] theorem State.modLaunch_iword (s : State) (l : Nat) (f : Launch → Launch) : (s.modLaunch l f).iword = s.iword := rfl
@[simp] theorem State.modLaunch_cur (s : State) (l : Nat) (f : Launch → Launch) : (s.modLaunch l f).cur = s.cur := rfl
@[simp] theorem State.modLaunch_scheds (s : State) (l : Nat) (f : Launch → Launch) : (s.modLaunch l f).scheds = s.scheds := rfl
@[simp] theorem State.modLaunch_nextAge (s : State) (l : Nat) (f : Launch → Launch) : (s.modLaunch l f).nextAge = s.nextAge := rfl
@[simp] theorem State.modLaunch_nextUid (s : State) (l : Nat) (f : Launch → Launch) : (s.modLaunch l f).nextUid = s.nextUid := rfl
@[simp] theorem State.modLaunch_nextSeq (s : State) (l : Nat) (f : Launch → Launch) : (s.modLaunch l f).nextSeq = s.nextSeq := rfl
@[simp] theorem State.modLaunch_agenda (s : State) (l : Nat) (f : Launch → Launch) : (s.modLaunch l f).agenda = s.agenda := rfl
@[simp] theorem State.modLaunch_mem (s : State) (l : Nat) (f : Launch → Launch) : (s.modLaunch l f).mem = s.mem := rfl
@[simp] theorem State.modLaunch_past (s : State) (l : Nat) (f : Launch → Launch) : (s.modLaunch l f).past = s.past := rfl
@[simp] theorem State.modLaunch_vers (s : State) (l : Nat) (f : Launch → Launch) : (s.modLaunch l f).vers = s.vers := rfl
@[simp] theorem State.modLaunch_hostMem (s : State) (l : Nat) (f : Launch → Launch) : (s.modLaunch l f).hostMem = s.hostMem := rfl
@[simp] theorem State.modLaunch_dev (s : State) (l : Nat) (f : Launch → Launch) : (s.modLaunch l f).dev = s.dev := rfl
@[simp] theorem State.modLaunch_parts (s : State) (l : Nat) (f : Launch → Launch) : (s.modLaunch l f).parts = s.parts := rfl
@[simp] theorem State.modLaunch_ports (s : State) (l : Nat) (f : Launch → Launch) : (s.modLaunch l f).ports = s.ports := rfl
@[simp] theorem State.modLaunch_funcs (s : State) (l : Nat) (f : Launch → Launch) : (s.modLaunch l f).funcs = s.funcs := rfl
@[simp] theorem State.modLaunch_events (s : State) (l : Nat) (f : Launch → Launch) : (s.modLaunch l f).events = s.events := rfl
@[simp] theorem State.modLaunch_ctxs (s : State) (l : Nat) (f : Launch → Launch) : (s.modLaunch l f).ctxs = s.ctxs := rfl
@[simp] theorem State.modLaunch_groups (s : State) (l : Nat) (f : Launch → Launch) : (s.modLaunch l f).groups = s.groups := rfl
@[simp] theorem State.modLaunch_cores (s : State) (l : Nat) (f : Launch → Launch) : (s.modLaunch l f).cores = s.cores := rfl
@[simp] theorem State.modLaunch_copies (s : State) (l : Nat) (f : Launch → Launch) : (s.modLaunch l f).copies = s.copies := rfl
@[simp] theorem State.modLaunch_fetches (s : State) (l : Nat) (f : Launch → Launch) : (s.modLaunch l f).fetches = s.fetches := rfl
@[simp] theorem State.modLaunch_remotes (s : State) (l : Nat) (f : Launch → Launch) : (s.modLaunch l f).remotes = s.remotes := rfl
@[simp] theorem State.modLaunch_incoming (s : State) (l : Nat) (f : Launch → Launch) : (s.modLaunch l f).incoming = s.incoming := rfl
@[simp] theorem State.modLaunch_censuses (s : State) (l : Nat) (f : Launch → Launch) : (s.modLaunch l f).censuses = s.censuses := rfl

@[simp] theorem State.modFunc_steps (s : State) (n : Nat) (f : Function → Function) : (s.modFunc n f).steps = s.steps := rfl
@[simp] theorem State.modFunc_clk (s : State) (n : Nat) (f : Function → Function) : (s.modFunc n f).clk = s.clk := rfl
@[simp] theorem State.modFunc_free (s : State) (n : Nat) (f : Function → Function) : (s.modFunc n f).free = s.free := rfl
@[simp] theorem State.modFunc_progress (s : State) (n : Nat) (f : Function → Function) : (s.modFunc n f).progress = s.progress := rfl
@[simp] theorem State.modFunc_iword (s : State) (n : Nat) (f : Function → Function) : (s.modFunc n f).iword = s.iword := rfl
@[simp] theorem State.modFunc_cur (s : State) (n : Nat) (f : Function → Function) : (s.modFunc n f).cur = s.cur := rfl
@[simp] theorem State.modFunc_scheds (s : State) (n : Nat) (f : Function → Function) : (s.modFunc n f).scheds = s.scheds := rfl
@[simp] theorem State.modFunc_nextAge (s : State) (n : Nat) (f : Function → Function) : (s.modFunc n f).nextAge = s.nextAge := rfl
@[simp] theorem State.modFunc_nextUid (s : State) (n : Nat) (f : Function → Function) : (s.modFunc n f).nextUid = s.nextUid := rfl
@[simp] theorem State.modFunc_nextSeq (s : State) (n : Nat) (f : Function → Function) : (s.modFunc n f).nextSeq = s.nextSeq := rfl
@[simp] theorem State.modFunc_agenda (s : State) (n : Nat) (f : Function → Function) : (s.modFunc n f).agenda = s.agenda := rfl
@[simp] theorem State.modFunc_mem (s : State) (n : Nat) (f : Function → Function) : (s.modFunc n f).mem = s.mem := rfl
@[simp] theorem State.modFunc_past (s : State) (n : Nat) (f : Function → Function) : (s.modFunc n f).past = s.past := rfl
@[simp] theorem State.modFunc_vers (s : State) (n : Nat) (f : Function → Function) : (s.modFunc n f).vers = s.vers := rfl
@[simp] theorem State.modFunc_hostMem (s : State) (n : Nat) (f : Function → Function) : (s.modFunc n f).hostMem = s.hostMem := rfl
@[simp] theorem State.modFunc_dev (s : State) (n : Nat) (f : Function → Function) : (s.modFunc n f).dev = s.dev := rfl
@[simp] theorem State.modFunc_parts (s : State) (n : Nat) (f : Function → Function) : (s.modFunc n f).parts = s.parts := rfl
@[simp] theorem State.modFunc_ports (s : State) (n : Nat) (f : Function → Function) : (s.modFunc n f).ports = s.ports := rfl
@[simp] theorem State.modFunc_events (s : State) (n : Nat) (f : Function → Function) : (s.modFunc n f).events = s.events := rfl
@[simp] theorem State.modFunc_ctxs (s : State) (n : Nat) (f : Function → Function) : (s.modFunc n f).ctxs = s.ctxs := rfl
@[simp] theorem State.modFunc_launches (s : State) (n : Nat) (f : Function → Function) : (s.modFunc n f).launches = s.launches := rfl
@[simp] theorem State.modFunc_groups (s : State) (n : Nat) (f : Function → Function) : (s.modFunc n f).groups = s.groups := rfl
@[simp] theorem State.modFunc_cores (s : State) (n : Nat) (f : Function → Function) : (s.modFunc n f).cores = s.cores := rfl
@[simp] theorem State.modFunc_copies (s : State) (n : Nat) (f : Function → Function) : (s.modFunc n f).copies = s.copies := rfl
@[simp] theorem State.modFunc_fetches (s : State) (n : Nat) (f : Function → Function) : (s.modFunc n f).fetches = s.fetches := rfl
@[simp] theorem State.modFunc_remotes (s : State) (n : Nat) (f : Function → Function) : (s.modFunc n f).remotes = s.remotes := rfl
@[simp] theorem State.modFunc_incoming (s : State) (n : Nat) (f : Function → Function) : (s.modFunc n f).incoming = s.incoming := rfl
@[simp] theorem State.modFunc_censuses (s : State) (n : Nat) (f : Function → Function) : (s.modFunc n f).censuses = s.censuses := rfl

@[simp] theorem State.modCensus_steps (s : State) (q : Nat) (f : Census → Census) : (s.modCensus q f).steps = s.steps := rfl
@[simp] theorem State.modCensus_clk (s : State) (q : Nat) (f : Census → Census) : (s.modCensus q f).clk = s.clk := rfl
@[simp] theorem State.modCensus_free (s : State) (q : Nat) (f : Census → Census) : (s.modCensus q f).free = s.free := rfl
@[simp] theorem State.modCensus_progress (s : State) (q : Nat) (f : Census → Census) : (s.modCensus q f).progress = s.progress := rfl
@[simp] theorem State.modCensus_iword (s : State) (q : Nat) (f : Census → Census) : (s.modCensus q f).iword = s.iword := rfl
@[simp] theorem State.modCensus_cur (s : State) (q : Nat) (f : Census → Census) : (s.modCensus q f).cur = s.cur := rfl
@[simp] theorem State.modCensus_scheds (s : State) (q : Nat) (f : Census → Census) : (s.modCensus q f).scheds = s.scheds := rfl
@[simp] theorem State.modCensus_nextAge (s : State) (q : Nat) (f : Census → Census) : (s.modCensus q f).nextAge = s.nextAge := rfl
@[simp] theorem State.modCensus_nextUid (s : State) (q : Nat) (f : Census → Census) : (s.modCensus q f).nextUid = s.nextUid := rfl
@[simp] theorem State.modCensus_nextSeq (s : State) (q : Nat) (f : Census → Census) : (s.modCensus q f).nextSeq = s.nextSeq := rfl
@[simp] theorem State.modCensus_agenda (s : State) (q : Nat) (f : Census → Census) : (s.modCensus q f).agenda = s.agenda := rfl
@[simp] theorem State.modCensus_mem (s : State) (q : Nat) (f : Census → Census) : (s.modCensus q f).mem = s.mem := rfl
@[simp] theorem State.modCensus_past (s : State) (q : Nat) (f : Census → Census) : (s.modCensus q f).past = s.past := rfl
@[simp] theorem State.modCensus_vers (s : State) (q : Nat) (f : Census → Census) : (s.modCensus q f).vers = s.vers := rfl
@[simp] theorem State.modCensus_hostMem (s : State) (q : Nat) (f : Census → Census) : (s.modCensus q f).hostMem = s.hostMem := rfl
@[simp] theorem State.modCensus_dev (s : State) (q : Nat) (f : Census → Census) : (s.modCensus q f).dev = s.dev := rfl
@[simp] theorem State.modCensus_parts (s : State) (q : Nat) (f : Census → Census) : (s.modCensus q f).parts = s.parts := rfl
@[simp] theorem State.modCensus_ports (s : State) (q : Nat) (f : Census → Census) : (s.modCensus q f).ports = s.ports := rfl
@[simp] theorem State.modCensus_funcs (s : State) (q : Nat) (f : Census → Census) : (s.modCensus q f).funcs = s.funcs := rfl
@[simp] theorem State.modCensus_events (s : State) (q : Nat) (f : Census → Census) : (s.modCensus q f).events = s.events := rfl
@[simp] theorem State.modCensus_ctxs (s : State) (q : Nat) (f : Census → Census) : (s.modCensus q f).ctxs = s.ctxs := rfl
@[simp] theorem State.modCensus_launches (s : State) (q : Nat) (f : Census → Census) : (s.modCensus q f).launches = s.launches := rfl
@[simp] theorem State.modCensus_groups (s : State) (q : Nat) (f : Census → Census) : (s.modCensus q f).groups = s.groups := rfl
@[simp] theorem State.modCensus_cores (s : State) (q : Nat) (f : Census → Census) : (s.modCensus q f).cores = s.cores := rfl
@[simp] theorem State.modCensus_copies (s : State) (q : Nat) (f : Census → Census) : (s.modCensus q f).copies = s.copies := rfl
@[simp] theorem State.modCensus_fetches (s : State) (q : Nat) (f : Census → Census) : (s.modCensus q f).fetches = s.fetches := rfl
@[simp] theorem State.modCensus_remotes (s : State) (q : Nat) (f : Census → Census) : (s.modCensus q f).remotes = s.remotes := rfl
@[simp] theorem State.modCensus_incoming (s : State) (q : Nat) (f : Census → Census) : (s.modCensus q f).incoming = s.incoming := rfl

@[simp] theorem State.modCopy_steps (s : State) (q : Nat) (f : Copy → Copy) : (s.modCopy q f).steps = s.steps := rfl
@[simp] theorem State.modCopy_clk (s : State) (q : Nat) (f : Copy → Copy) : (s.modCopy q f).clk = s.clk := rfl
@[simp] theorem State.modCopy_free (s : State) (q : Nat) (f : Copy → Copy) : (s.modCopy q f).free = s.free := rfl
@[simp] theorem State.modCopy_progress (s : State) (q : Nat) (f : Copy → Copy) : (s.modCopy q f).progress = s.progress := rfl
@[simp] theorem State.modCopy_iword (s : State) (q : Nat) (f : Copy → Copy) : (s.modCopy q f).iword = s.iword := rfl
@[simp] theorem State.modCopy_cur (s : State) (q : Nat) (f : Copy → Copy) : (s.modCopy q f).cur = s.cur := rfl
@[simp] theorem State.modCopy_scheds (s : State) (q : Nat) (f : Copy → Copy) : (s.modCopy q f).scheds = s.scheds := rfl
@[simp] theorem State.modCopy_nextAge (s : State) (q : Nat) (f : Copy → Copy) : (s.modCopy q f).nextAge = s.nextAge := rfl
@[simp] theorem State.modCopy_nextUid (s : State) (q : Nat) (f : Copy → Copy) : (s.modCopy q f).nextUid = s.nextUid := rfl
@[simp] theorem State.modCopy_nextSeq (s : State) (q : Nat) (f : Copy → Copy) : (s.modCopy q f).nextSeq = s.nextSeq := rfl
@[simp] theorem State.modCopy_agenda (s : State) (q : Nat) (f : Copy → Copy) : (s.modCopy q f).agenda = s.agenda := rfl
@[simp] theorem State.modCopy_mem (s : State) (q : Nat) (f : Copy → Copy) : (s.modCopy q f).mem = s.mem := rfl
@[simp] theorem State.modCopy_past (s : State) (q : Nat) (f : Copy → Copy) : (s.modCopy q f).past = s.past := rfl
@[simp] theorem State.modCopy_vers (s : State) (q : Nat) (f : Copy → Copy) : (s.modCopy q f).vers = s.vers := rfl
@[simp] theorem State.modCopy_hostMem (s : State) (q : Nat) (f : Copy → Copy) : (s.modCopy q f).hostMem = s.hostMem := rfl
@[simp] theorem State.modCopy_dev (s : State) (q : Nat) (f : Copy → Copy) : (s.modCopy q f).dev = s.dev := rfl
@[simp] theorem State.modCopy_parts (s : State) (q : Nat) (f : Copy → Copy) : (s.modCopy q f).parts = s.parts := rfl
@[simp] theorem State.modCopy_ports (s : State) (q : Nat) (f : Copy → Copy) : (s.modCopy q f).ports = s.ports := rfl
@[simp] theorem State.modCopy_funcs (s : State) (q : Nat) (f : Copy → Copy) : (s.modCopy q f).funcs = s.funcs := rfl
@[simp] theorem State.modCopy_events (s : State) (q : Nat) (f : Copy → Copy) : (s.modCopy q f).events = s.events := rfl
@[simp] theorem State.modCopy_ctxs (s : State) (q : Nat) (f : Copy → Copy) : (s.modCopy q f).ctxs = s.ctxs := rfl
@[simp] theorem State.modCopy_launches (s : State) (q : Nat) (f : Copy → Copy) : (s.modCopy q f).launches = s.launches := rfl
@[simp] theorem State.modCopy_groups (s : State) (q : Nat) (f : Copy → Copy) : (s.modCopy q f).groups = s.groups := rfl
@[simp] theorem State.modCopy_cores (s : State) (q : Nat) (f : Copy → Copy) : (s.modCopy q f).cores = s.cores := rfl
@[simp] theorem State.modCopy_fetches (s : State) (q : Nat) (f : Copy → Copy) : (s.modCopy q f).fetches = s.fetches := rfl
@[simp] theorem State.modCopy_remotes (s : State) (q : Nat) (f : Copy → Copy) : (s.modCopy q f).remotes = s.remotes := rfl
@[simp] theorem State.modCopy_incoming (s : State) (q : Nat) (f : Copy → Copy) : (s.modCopy q f).incoming = s.incoming := rfl
@[simp] theorem State.modCopy_censuses (s : State) (q : Nat) (f : Copy → Copy) : (s.modCopy q f).censuses = s.censuses := rfl

@[simp] theorem State.modFetch_steps (s : State) (q : Nat) (f : Fetch → Fetch) : (s.modFetch q f).steps = s.steps := rfl
@[simp] theorem State.modFetch_clk (s : State) (q : Nat) (f : Fetch → Fetch) : (s.modFetch q f).clk = s.clk := rfl
@[simp] theorem State.modFetch_free (s : State) (q : Nat) (f : Fetch → Fetch) : (s.modFetch q f).free = s.free := rfl
@[simp] theorem State.modFetch_progress (s : State) (q : Nat) (f : Fetch → Fetch) : (s.modFetch q f).progress = s.progress := rfl
@[simp] theorem State.modFetch_iword (s : State) (q : Nat) (f : Fetch → Fetch) : (s.modFetch q f).iword = s.iword := rfl
@[simp] theorem State.modFetch_cur (s : State) (q : Nat) (f : Fetch → Fetch) : (s.modFetch q f).cur = s.cur := rfl
@[simp] theorem State.modFetch_scheds (s : State) (q : Nat) (f : Fetch → Fetch) : (s.modFetch q f).scheds = s.scheds := rfl
@[simp] theorem State.modFetch_nextAge (s : State) (q : Nat) (f : Fetch → Fetch) : (s.modFetch q f).nextAge = s.nextAge := rfl
@[simp] theorem State.modFetch_nextUid (s : State) (q : Nat) (f : Fetch → Fetch) : (s.modFetch q f).nextUid = s.nextUid := rfl
@[simp] theorem State.modFetch_nextSeq (s : State) (q : Nat) (f : Fetch → Fetch) : (s.modFetch q f).nextSeq = s.nextSeq := rfl
@[simp] theorem State.modFetch_agenda (s : State) (q : Nat) (f : Fetch → Fetch) : (s.modFetch q f).agenda = s.agenda := rfl
@[simp] theorem State.modFetch_mem (s : State) (q : Nat) (f : Fetch → Fetch) : (s.modFetch q f).mem = s.mem := rfl
@[simp] theorem State.modFetch_past (s : State) (q : Nat) (f : Fetch → Fetch) : (s.modFetch q f).past = s.past := rfl
@[simp] theorem State.modFetch_vers (s : State) (q : Nat) (f : Fetch → Fetch) : (s.modFetch q f).vers = s.vers := rfl
@[simp] theorem State.modFetch_hostMem (s : State) (q : Nat) (f : Fetch → Fetch) : (s.modFetch q f).hostMem = s.hostMem := rfl
@[simp] theorem State.modFetch_dev (s : State) (q : Nat) (f : Fetch → Fetch) : (s.modFetch q f).dev = s.dev := rfl
@[simp] theorem State.modFetch_parts (s : State) (q : Nat) (f : Fetch → Fetch) : (s.modFetch q f).parts = s.parts := rfl
@[simp] theorem State.modFetch_ports (s : State) (q : Nat) (f : Fetch → Fetch) : (s.modFetch q f).ports = s.ports := rfl
@[simp] theorem State.modFetch_funcs (s : State) (q : Nat) (f : Fetch → Fetch) : (s.modFetch q f).funcs = s.funcs := rfl
@[simp] theorem State.modFetch_events (s : State) (q : Nat) (f : Fetch → Fetch) : (s.modFetch q f).events = s.events := rfl
@[simp] theorem State.modFetch_ctxs (s : State) (q : Nat) (f : Fetch → Fetch) : (s.modFetch q f).ctxs = s.ctxs := rfl
@[simp] theorem State.modFetch_launches (s : State) (q : Nat) (f : Fetch → Fetch) : (s.modFetch q f).launches = s.launches := rfl
@[simp] theorem State.modFetch_groups (s : State) (q : Nat) (f : Fetch → Fetch) : (s.modFetch q f).groups = s.groups := rfl
@[simp] theorem State.modFetch_cores (s : State) (q : Nat) (f : Fetch → Fetch) : (s.modFetch q f).cores = s.cores := rfl
@[simp] theorem State.modFetch_copies (s : State) (q : Nat) (f : Fetch → Fetch) : (s.modFetch q f).copies = s.copies := rfl
@[simp] theorem State.modFetch_remotes (s : State) (q : Nat) (f : Fetch → Fetch) : (s.modFetch q f).remotes = s.remotes := rfl
@[simp] theorem State.modFetch_incoming (s : State) (q : Nat) (f : Fetch → Fetch) : (s.modFetch q f).incoming = s.incoming := rfl
@[simp] theorem State.modFetch_censuses (s : State) (q : Nat) (f : Fetch → Fetch) : (s.modFetch q f).censuses = s.censuses := rfl

@[simp] theorem State.modPort_steps (s : State) (p : Nat) (f : Port → Port) : (s.modPort p f).steps = s.steps := rfl
@[simp] theorem State.modPort_clk (s : State) (p : Nat) (f : Port → Port) : (s.modPort p f).clk = s.clk := rfl
@[simp] theorem State.modPort_free (s : State) (p : Nat) (f : Port → Port) : (s.modPort p f).free = s.free := rfl
@[simp] theorem State.modPort_progress (s : State) (p : Nat) (f : Port → Port) : (s.modPort p f).progress = s.progress := rfl
@[simp] theorem State.modPort_iword (s : State) (p : Nat) (f : Port → Port) : (s.modPort p f).iword = s.iword := rfl
@[simp] theorem State.modPort_cur (s : State) (p : Nat) (f : Port → Port) : (s.modPort p f).cur = s.cur := rfl
@[simp] theorem State.modPort_scheds (s : State) (p : Nat) (f : Port → Port) : (s.modPort p f).scheds = s.scheds := rfl
@[simp] theorem State.modPort_nextAge (s : State) (p : Nat) (f : Port → Port) : (s.modPort p f).nextAge = s.nextAge := rfl
@[simp] theorem State.modPort_nextUid (s : State) (p : Nat) (f : Port → Port) : (s.modPort p f).nextUid = s.nextUid := rfl
@[simp] theorem State.modPort_nextSeq (s : State) (p : Nat) (f : Port → Port) : (s.modPort p f).nextSeq = s.nextSeq := rfl
@[simp] theorem State.modPort_agenda (s : State) (p : Nat) (f : Port → Port) : (s.modPort p f).agenda = s.agenda := rfl
@[simp] theorem State.modPort_mem (s : State) (p : Nat) (f : Port → Port) : (s.modPort p f).mem = s.mem := rfl
@[simp] theorem State.modPort_past (s : State) (p : Nat) (f : Port → Port) : (s.modPort p f).past = s.past := rfl
@[simp] theorem State.modPort_vers (s : State) (p : Nat) (f : Port → Port) : (s.modPort p f).vers = s.vers := rfl
@[simp] theorem State.modPort_hostMem (s : State) (p : Nat) (f : Port → Port) : (s.modPort p f).hostMem = s.hostMem := rfl
@[simp] theorem State.modPort_dev (s : State) (p : Nat) (f : Port → Port) : (s.modPort p f).dev = s.dev := rfl
@[simp] theorem State.modPort_parts (s : State) (p : Nat) (f : Port → Port) : (s.modPort p f).parts = s.parts := rfl
@[simp] theorem State.modPort_funcs (s : State) (p : Nat) (f : Port → Port) : (s.modPort p f).funcs = s.funcs := rfl
@[simp] theorem State.modPort_events (s : State) (p : Nat) (f : Port → Port) : (s.modPort p f).events = s.events := rfl
@[simp] theorem State.modPort_ctxs (s : State) (p : Nat) (f : Port → Port) : (s.modPort p f).ctxs = s.ctxs := rfl
@[simp] theorem State.modPort_launches (s : State) (p : Nat) (f : Port → Port) : (s.modPort p f).launches = s.launches := rfl
@[simp] theorem State.modPort_groups (s : State) (p : Nat) (f : Port → Port) : (s.modPort p f).groups = s.groups := rfl
@[simp] theorem State.modPort_cores (s : State) (p : Nat) (f : Port → Port) : (s.modPort p f).cores = s.cores := rfl
@[simp] theorem State.modPort_copies (s : State) (p : Nat) (f : Port → Port) : (s.modPort p f).copies = s.copies := rfl
@[simp] theorem State.modPort_fetches (s : State) (p : Nat) (f : Port → Port) : (s.modPort p f).fetches = s.fetches := rfl
@[simp] theorem State.modPort_remotes (s : State) (p : Nat) (f : Port → Port) : (s.modPort p f).remotes = s.remotes := rfl
@[simp] theorem State.modPort_incoming (s : State) (p : Nat) (f : Port → Port) : (s.modPort p f).incoming = s.incoming := rfl
@[simp] theorem State.modPort_censuses (s : State) (p : Nat) (f : Port → Port) : (s.modPort p f).censuses = s.censuses := rfl

@[simp] theorem State.moved_steps (s : State) : (s.moved).steps = s.steps := rfl
@[simp] theorem State.moved_clk (s : State) : (s.moved).clk = s.clk := rfl
@[simp] theorem State.moved_free (s : State) : (s.moved).free = s.free := rfl
@[simp] theorem State.moved_iword (s : State) : (s.moved).iword = s.iword := rfl
@[simp] theorem State.moved_cur (s : State) : (s.moved).cur = s.cur := rfl
@[simp] theorem State.moved_scheds (s : State) : (s.moved).scheds = s.scheds := rfl
@[simp] theorem State.moved_nextAge (s : State) : (s.moved).nextAge = s.nextAge := rfl
@[simp] theorem State.moved_nextUid (s : State) : (s.moved).nextUid = s.nextUid := rfl
@[simp] theorem State.moved_nextSeq (s : State) : (s.moved).nextSeq = s.nextSeq := rfl
@[simp] theorem State.moved_agenda (s : State) : (s.moved).agenda = s.agenda := rfl
@[simp] theorem State.moved_mem (s : State) : (s.moved).mem = s.mem := rfl
@[simp] theorem State.moved_past (s : State) : (s.moved).past = s.past := rfl
@[simp] theorem State.moved_vers (s : State) : (s.moved).vers = s.vers := rfl
@[simp] theorem State.moved_hostMem (s : State) : (s.moved).hostMem = s.hostMem := rfl
@[simp] theorem State.moved_dev (s : State) : (s.moved).dev = s.dev := rfl
@[simp] theorem State.moved_parts (s : State) : (s.moved).parts = s.parts := rfl
@[simp] theorem State.moved_ports (s : State) : (s.moved).ports = s.ports := rfl
@[simp] theorem State.moved_funcs (s : State) : (s.moved).funcs = s.funcs := rfl
@[simp] theorem State.moved_events (s : State) : (s.moved).events = s.events := rfl
@[simp] theorem State.moved_ctxs (s : State) : (s.moved).ctxs = s.ctxs := rfl
@[simp] theorem State.moved_launches (s : State) : (s.moved).launches = s.launches := rfl
@[simp] theorem State.moved_groups (s : State) : (s.moved).groups = s.groups := rfl
@[simp] theorem State.moved_cores (s : State) : (s.moved).cores = s.cores := rfl
@[simp] theorem State.moved_copies (s : State) : (s.moved).copies = s.copies := rfl
@[simp] theorem State.moved_fetches (s : State) : (s.moved).fetches = s.fetches := rfl
@[simp] theorem State.moved_remotes (s : State) : (s.moved).remotes = s.remotes := rfl
@[simp] theorem State.moved_incoming (s : State) : (s.moved).incoming = s.incoming := rfl
@[simp] theorem State.moved_censuses (s : State) : (s.moved).censuses = s.censuses := rfl

@[simp] theorem State.fenceStores_steps (s : State) (r : TeamRef) : (s.fenceStores r).steps = s.steps := rfl
@[simp] theorem State.fenceStores_clk (s : State) (r : TeamRef) : (s.fenceStores r).clk = s.clk := rfl
@[simp] theorem State.fenceStores_free (s : State) (r : TeamRef) : (s.fenceStores r).free = s.free := rfl
@[simp] theorem State.fenceStores_progress (s : State) (r : TeamRef) : (s.fenceStores r).progress = s.progress := rfl
@[simp] theorem State.fenceStores_iword (s : State) (r : TeamRef) : (s.fenceStores r).iword = s.iword := rfl
@[simp] theorem State.fenceStores_cur (s : State) (r : TeamRef) : (s.fenceStores r).cur = s.cur := rfl
@[simp] theorem State.fenceStores_scheds (s : State) (r : TeamRef) : (s.fenceStores r).scheds = s.scheds := rfl
@[simp] theorem State.fenceStores_nextAge (s : State) (r : TeamRef) : (s.fenceStores r).nextAge = s.nextAge := rfl
@[simp] theorem State.fenceStores_nextUid (s : State) (r : TeamRef) : (s.fenceStores r).nextUid = s.nextUid := rfl
@[simp] theorem State.fenceStores_nextSeq (s : State) (r : TeamRef) : (s.fenceStores r).nextSeq = s.nextSeq := rfl
@[simp] theorem State.fenceStores_agenda (s : State) (r : TeamRef) : (s.fenceStores r).agenda = s.agenda := rfl
@[simp] theorem State.fenceStores_mem (s : State) (r : TeamRef) : (s.fenceStores r).mem = s.mem := rfl
@[simp] theorem State.fenceStores_past (s : State) (r : TeamRef) : (s.fenceStores r).past = s.past := rfl
@[simp] theorem State.fenceStores_vers (s : State) (r : TeamRef) : (s.fenceStores r).vers = s.vers := rfl
@[simp] theorem State.fenceStores_hostMem (s : State) (r : TeamRef) : (s.fenceStores r).hostMem = s.hostMem := rfl
@[simp] theorem State.fenceStores_dev (s : State) (r : TeamRef) : (s.fenceStores r).dev = s.dev := rfl
@[simp] theorem State.fenceStores_parts (s : State) (r : TeamRef) : (s.fenceStores r).parts = s.parts := rfl
@[simp] theorem State.fenceStores_ports (s : State) (r : TeamRef) : (s.fenceStores r).ports = s.ports := rfl
@[simp] theorem State.fenceStores_funcs (s : State) (r : TeamRef) : (s.fenceStores r).funcs = s.funcs := rfl
@[simp] theorem State.fenceStores_events (s : State) (r : TeamRef) : (s.fenceStores r).events = s.events := rfl
@[simp] theorem State.fenceStores_ctxs (s : State) (r : TeamRef) : (s.fenceStores r).ctxs = s.ctxs := rfl
@[simp] theorem State.fenceStores_launches (s : State) (r : TeamRef) : (s.fenceStores r).launches = s.launches := rfl
@[simp] theorem State.fenceStores_cores (s : State) (r : TeamRef) : (s.fenceStores r).cores = s.cores := rfl
@[simp] theorem State.fenceStores_copies (s : State) (r : TeamRef) : (s.fenceStores r).copies = s.copies := rfl
@[simp] theorem State.fenceStores_fetches (s : State) (r : TeamRef) : (s.fenceStores r).fetches = s.fetches := rfl
@[simp] theorem State.fenceStores_remotes (s : State) (r : TeamRef) : (s.fenceStores r).remotes = s.remotes := rfl
@[simp] theorem State.fenceStores_incoming (s : State) (r : TeamRef) : (s.fenceStores r).incoming = s.incoming := rfl
@[simp] theorem State.fenceStores_censuses (s : State) (r : TeamRef) : (s.fenceStores r).censuses = s.censuses := rfl

@[simp] theorem State.writeAs_steps (s : State) (r : Option TeamRef) (n : Option (Nat × Int)) (h : Bool) (a : Nat) (bs : List Byte) :
    (s.writeAs r n h a bs).steps = s.steps := rfl
@[simp] theorem State.writeAs_clk (s : State) (r : Option TeamRef) (n : Option (Nat × Int)) (h : Bool) (a : Nat) (bs : List Byte) :
    (s.writeAs r n h a bs).clk = s.clk := rfl
@[simp] theorem State.writeAs_free (s : State) (r : Option TeamRef) (n : Option (Nat × Int)) (h : Bool) (a : Nat) (bs : List Byte) :
    (s.writeAs r n h a bs).free = s.free := rfl
@[simp] theorem State.writeAs_progress (s : State) (r : Option TeamRef) (n : Option (Nat × Int)) (h : Bool) (a : Nat) (bs : List Byte) :
    (s.writeAs r n h a bs).progress = s.progress := rfl
@[simp] theorem State.writeAs_iword (s : State) (r : Option TeamRef) (n : Option (Nat × Int)) (h : Bool) (a : Nat) (bs : List Byte) :
    (s.writeAs r n h a bs).iword = s.iword := rfl
@[simp] theorem State.writeAs_cur (s : State) (r : Option TeamRef) (n : Option (Nat × Int)) (h : Bool) (a : Nat) (bs : List Byte) :
    (s.writeAs r n h a bs).cur = s.cur := rfl
@[simp] theorem State.writeAs_scheds (s : State) (r : Option TeamRef) (n : Option (Nat × Int)) (h : Bool) (a : Nat) (bs : List Byte) :
    (s.writeAs r n h a bs).scheds = s.scheds := rfl
@[simp] theorem State.writeAs_nextAge (s : State) (r : Option TeamRef) (n : Option (Nat × Int)) (h : Bool) (a : Nat) (bs : List Byte) :
    (s.writeAs r n h a bs).nextAge = s.nextAge := rfl
@[simp] theorem State.writeAs_nextUid (s : State) (r : Option TeamRef) (n : Option (Nat × Int)) (h : Bool) (a : Nat) (bs : List Byte) :
    (s.writeAs r n h a bs).nextUid = s.nextUid := rfl
@[simp] theorem State.writeAs_nextSeq (s : State) (r : Option TeamRef) (n : Option (Nat × Int)) (h : Bool) (a : Nat) (bs : List Byte) :
    (s.writeAs r n h a bs).nextSeq = s.nextSeq := rfl
@[simp] theorem State.writeAs_agenda (s : State) (r : Option TeamRef) (n : Option (Nat × Int)) (h : Bool) (a : Nat) (bs : List Byte) :
    (s.writeAs r n h a bs).agenda = s.agenda := rfl
@[simp] theorem State.writeAs_dev (s : State) (r : Option TeamRef) (n : Option (Nat × Int)) (h : Bool) (a : Nat) (bs : List Byte) :
    (s.writeAs r n h a bs).dev = s.dev := rfl
@[simp] theorem State.writeAs_parts (s : State) (r : Option TeamRef) (n : Option (Nat × Int)) (h : Bool) (a : Nat) (bs : List Byte) :
    (s.writeAs r n h a bs).parts = s.parts := rfl
@[simp] theorem State.writeAs_ports (s : State) (r : Option TeamRef) (n : Option (Nat × Int)) (h : Bool) (a : Nat) (bs : List Byte) :
    (s.writeAs r n h a bs).ports = s.ports := rfl
@[simp] theorem State.writeAs_funcs (s : State) (r : Option TeamRef) (n : Option (Nat × Int)) (h : Bool) (a : Nat) (bs : List Byte) :
    (s.writeAs r n h a bs).funcs = s.funcs := rfl
@[simp] theorem State.writeAs_events (s : State) (r : Option TeamRef) (n : Option (Nat × Int)) (h : Bool) (a : Nat) (bs : List Byte) :
    (s.writeAs r n h a bs).events = s.events := rfl
@[simp] theorem State.writeAs_ctxs (s : State) (r : Option TeamRef) (n : Option (Nat × Int)) (h : Bool) (a : Nat) (bs : List Byte) :
    (s.writeAs r n h a bs).ctxs = s.ctxs := rfl
@[simp] theorem State.writeAs_launches (s : State) (r : Option TeamRef) (n : Option (Nat × Int)) (h : Bool) (a : Nat) (bs : List Byte) :
    (s.writeAs r n h a bs).launches = s.launches := rfl
@[simp] theorem State.writeAs_groups (s : State) (r : Option TeamRef) (n : Option (Nat × Int)) (h : Bool) (a : Nat) (bs : List Byte) :
    (s.writeAs r n h a bs).groups = s.groups := rfl
@[simp] theorem State.writeAs_cores (s : State) (r : Option TeamRef) (n : Option (Nat × Int)) (h : Bool) (a : Nat) (bs : List Byte) :
    (s.writeAs r n h a bs).cores = s.cores := rfl
@[simp] theorem State.writeAs_copies (s : State) (r : Option TeamRef) (n : Option (Nat × Int)) (h : Bool) (a : Nat) (bs : List Byte) :
    (s.writeAs r n h a bs).copies = s.copies := rfl
@[simp] theorem State.writeAs_fetches (s : State) (r : Option TeamRef) (n : Option (Nat × Int)) (h : Bool) (a : Nat) (bs : List Byte) :
    (s.writeAs r n h a bs).fetches = s.fetches := rfl
@[simp] theorem State.writeAs_remotes (s : State) (r : Option TeamRef) (n : Option (Nat × Int)) (h : Bool) (a : Nat) (bs : List Byte) :
    (s.writeAs r n h a bs).remotes = s.remotes := rfl
@[simp] theorem State.writeAs_incoming (s : State) (r : Option TeamRef) (n : Option (Nat × Int)) (h : Bool) (a : Nat) (bs : List Byte) :
    (s.writeAs r n h a bs).incoming = s.incoming := rfl
@[simp] theorem State.writeAs_censuses (s : State) (r : Option TeamRef) (n : Option (Nat × Int)) (h : Bool) (a : Nat) (bs : List Byte) :
    (s.writeAs r n h a bs).censuses = s.censuses := rfl

@[simp] theorem State.noteShot_steps (s : State) (p : Nat) (h : Shot) : (s.noteShot p h).steps = s.steps := rfl
@[simp] theorem State.noteShot_clk (s : State) (p : Nat) (h : Shot) : (s.noteShot p h).clk = s.clk := rfl
@[simp] theorem State.noteShot_free (s : State) (p : Nat) (h : Shot) : (s.noteShot p h).free = s.free := rfl
@[simp] theorem State.noteShot_progress (s : State) (p : Nat) (h : Shot) : (s.noteShot p h).progress = s.progress := rfl
@[simp] theorem State.noteShot_iword (s : State) (p : Nat) (h : Shot) : (s.noteShot p h).iword = s.iword := rfl
@[simp] theorem State.noteShot_cur (s : State) (p : Nat) (h : Shot) : (s.noteShot p h).cur = s.cur := rfl
@[simp] theorem State.noteShot_scheds (s : State) (p : Nat) (h : Shot) : (s.noteShot p h).scheds = s.scheds := rfl
@[simp] theorem State.noteShot_nextAge (s : State) (p : Nat) (h : Shot) : (s.noteShot p h).nextAge = s.nextAge := rfl
@[simp] theorem State.noteShot_nextUid (s : State) (p : Nat) (h : Shot) : (s.noteShot p h).nextUid = s.nextUid := rfl
@[simp] theorem State.noteShot_nextSeq (s : State) (p : Nat) (h : Shot) : (s.noteShot p h).nextSeq = s.nextSeq := rfl
@[simp] theorem State.noteShot_agenda (s : State) (p : Nat) (h : Shot) : (s.noteShot p h).agenda = s.agenda := rfl
@[simp] theorem State.noteShot_mem (s : State) (p : Nat) (h : Shot) : (s.noteShot p h).mem = s.mem := rfl
@[simp] theorem State.noteShot_past (s : State) (p : Nat) (h : Shot) : (s.noteShot p h).past = s.past := rfl
@[simp] theorem State.noteShot_vers (s : State) (p : Nat) (h : Shot) : (s.noteShot p h).vers = s.vers := rfl
@[simp] theorem State.noteShot_hostMem (s : State) (p : Nat) (h : Shot) : (s.noteShot p h).hostMem = s.hostMem := rfl
@[simp] theorem State.noteShot_dev (s : State) (p : Nat) (h : Shot) : (s.noteShot p h).dev = s.dev := rfl
@[simp] theorem State.noteShot_ports (s : State) (p : Nat) (h : Shot) : (s.noteShot p h).ports = s.ports := rfl
@[simp] theorem State.noteShot_funcs (s : State) (p : Nat) (h : Shot) : (s.noteShot p h).funcs = s.funcs := rfl
@[simp] theorem State.noteShot_events (s : State) (p : Nat) (h : Shot) : (s.noteShot p h).events = s.events := rfl
@[simp] theorem State.noteShot_ctxs (s : State) (p : Nat) (h : Shot) : (s.noteShot p h).ctxs = s.ctxs := rfl
@[simp] theorem State.noteShot_launches (s : State) (p : Nat) (h : Shot) : (s.noteShot p h).launches = s.launches := rfl
@[simp] theorem State.noteShot_groups (s : State) (p : Nat) (h : Shot) : (s.noteShot p h).groups = s.groups := rfl
@[simp] theorem State.noteShot_cores (s : State) (p : Nat) (h : Shot) : (s.noteShot p h).cores = s.cores := rfl
@[simp] theorem State.noteShot_copies (s : State) (p : Nat) (h : Shot) : (s.noteShot p h).copies = s.copies := rfl
@[simp] theorem State.noteShot_fetches (s : State) (p : Nat) (h : Shot) : (s.noteShot p h).fetches = s.fetches := rfl
@[simp] theorem State.noteShot_remotes (s : State) (p : Nat) (h : Shot) : (s.noteShot p h).remotes = s.remotes := rfl
@[simp] theorem State.noteShot_incoming (s : State) (p : Nat) (h : Shot) : (s.noteShot p h).incoming = s.incoming := rfl
@[simp] theorem State.noteShot_censuses (s : State) (p : Nat) (h : Shot) : (s.noteShot p h).censuses = s.censuses := rfl

@[simp] theorem State.acquiredOn_steps (s : State) (c : Nat) : (s.acquiredOn c).steps = s.steps := rfl
@[simp] theorem State.acquiredOn_clk (s : State) (c : Nat) : (s.acquiredOn c).clk = s.clk := rfl
@[simp] theorem State.acquiredOn_free (s : State) (c : Nat) : (s.acquiredOn c).free = s.free := rfl
@[simp] theorem State.acquiredOn_progress (s : State) (c : Nat) : (s.acquiredOn c).progress = s.progress := rfl
@[simp] theorem State.acquiredOn_iword (s : State) (c : Nat) : (s.acquiredOn c).iword = s.iword := rfl
@[simp] theorem State.acquiredOn_cur (s : State) (c : Nat) : (s.acquiredOn c).cur = s.cur := rfl
@[simp] theorem State.acquiredOn_scheds (s : State) (c : Nat) : (s.acquiredOn c).scheds = s.scheds := rfl
@[simp] theorem State.acquiredOn_nextAge (s : State) (c : Nat) : (s.acquiredOn c).nextAge = s.nextAge := rfl
@[simp] theorem State.acquiredOn_nextUid (s : State) (c : Nat) : (s.acquiredOn c).nextUid = s.nextUid := rfl
@[simp] theorem State.acquiredOn_nextSeq (s : State) (c : Nat) : (s.acquiredOn c).nextSeq = s.nextSeq := rfl
@[simp] theorem State.acquiredOn_agenda (s : State) (c : Nat) : (s.acquiredOn c).agenda = s.agenda := rfl
@[simp] theorem State.acquiredOn_mem (s : State) (c : Nat) : (s.acquiredOn c).mem = s.mem := rfl
@[simp] theorem State.acquiredOn_past (s : State) (c : Nat) : (s.acquiredOn c).past = s.past := rfl
@[simp] theorem State.acquiredOn_vers (s : State) (c : Nat) : (s.acquiredOn c).vers = s.vers := rfl
@[simp] theorem State.acquiredOn_hostMem (s : State) (c : Nat) : (s.acquiredOn c).hostMem = s.hostMem := rfl
@[simp] theorem State.acquiredOn_dev (s : State) (c : Nat) : (s.acquiredOn c).dev = s.dev := rfl
@[simp] theorem State.acquiredOn_parts (s : State) (c : Nat) : (s.acquiredOn c).parts = s.parts := rfl
@[simp] theorem State.acquiredOn_ports (s : State) (c : Nat) : (s.acquiredOn c).ports = s.ports := rfl
@[simp] theorem State.acquiredOn_funcs (s : State) (c : Nat) : (s.acquiredOn c).funcs = s.funcs := rfl
@[simp] theorem State.acquiredOn_events (s : State) (c : Nat) : (s.acquiredOn c).events = s.events := rfl
@[simp] theorem State.acquiredOn_ctxs (s : State) (c : Nat) : (s.acquiredOn c).ctxs = s.ctxs := rfl
@[simp] theorem State.acquiredOn_launches (s : State) (c : Nat) : (s.acquiredOn c).launches = s.launches := rfl
@[simp] theorem State.acquiredOn_groups (s : State) (c : Nat) : (s.acquiredOn c).groups = s.groups := rfl
@[simp] theorem State.acquiredOn_copies (s : State) (c : Nat) : (s.acquiredOn c).copies = s.copies := rfl
@[simp] theorem State.acquiredOn_fetches (s : State) (c : Nat) : (s.acquiredOn c).fetches = s.fetches := rfl
@[simp] theorem State.acquiredOn_remotes (s : State) (c : Nat) : (s.acquiredOn c).remotes = s.remotes := rfl
@[simp] theorem State.acquiredOn_incoming (s : State) (c : Nat) : (s.acquiredOn c).incoming = s.incoming := rfl
@[simp] theorem State.acquiredOn_censuses (s : State) (c : Nat) : (s.acquiredOn c).censuses = s.censuses := rfl

end Sys2Proof.Machine
end

