-- ==== Sys2Proof/Laws/Issue.lean ====
section
/-!
SUPPORT. What issuing a word does, once for every instruction: the checks pass and the word completes, traps or is held, or a
check fails and traps.
-/

namespace Sys2Proof.Machine

open Sys2Proof

/-- A word that issues does what its own effect says. -/
theorem issue_of {i : Instr} {s : State} {x : Iss} (h : issueOf i s = some x) (body : Iss → Act) :
    issue i s body = .next (conclude i x (body x)) := by
  unfold issueOf at h
  unfold issue
  split at h
  · cases h
  · split at h
    · cases h
    · split at h
      · cases h
      · split at h
        · cases h
        · injection h with h
          subst h
          simp_all

/-- Where the issue comes from. -/
theorem issueOf_spec {i : Instr} {s : State} {x : Iss} (h : issueOf i s = some x) :
    ∃ g, s.cur = some x.r ∧ s.group? x.r.uid = some g ∧ g.team? x.r.tid = some x.t ∧ x.g = g.forTeam x.t ∧
      issueFault s x.g x.t i = none ∧ x.s = s.issueClk x.g x.t i := by
  unfold issueOf at h
  split at h
  · cases h
  · split at h
    · cases h
    · split at h
      · cases h
      · split at h
        · cases h
        · injection h with h
          subst h
          exact ⟨_, by assumption, by assumption, by assumption, rfl, by assumption, rfl⟩

/-- A team found under a number bears it. -/
theorem team?_tid {g : Group} {n : Nat} {t : Team} (h : g.team? n = some t) : t.tid = n := by
  have := List.find?_some h
  simpa using this

/-- The issuing team's number is the reference's. -/
theorem issueOf_tid {i : Instr} {s : State} {x : Iss} (h : issueOf i s = some x) : x.t.tid = x.r.tid := by
  obtain ⟨g, -, -, ht, -⟩ := issueOf_spec h
  exact team?_tid ht

/-- The end of a loop body changes loop counters and levels alone. -/
theorem loopEndFrom_same (pc : Word) (ls : List HwLoop) (t : Team) :
    (loopEndFrom t pc ls).1 = { t with lc := (loopEndFrom t pc ls).1.lc, loops := (loopEndFrom t pc ls).1.loops } := by
  induction ls generalizing t with
  | nil => rfl
  | cons l r ih =>
    unfold loopEndFrom
    split
    · simp only
      split
      · rfl
      · rw [ih]
    · rfl

theorem loopEnd_same (pc : Word) (t : Team) :
    (t.loopEnd pc).1 = { t with lc := (t.loopEnd pc).1.lc, loops := (t.loopEnd pc).1.loops } := by
  unfold Team.loopEnd
  split
  · rfl
  · exact loopEndFrom_same ..

theorem loopEndFrom_congr (pc : Word) (ls : List HwLoop) {t u : Team} (hl : u.lc = t.lc) :
    (loopEndFrom u pc ls).2 = (loopEndFrom t pc ls).2 ∧ (loopEndFrom u pc ls).1.lc = (loopEndFrom t pc ls).1.lc ∧
      (loopEndFrom u pc ls).1.loops = (loopEndFrom t pc ls).1.loops := by
  induction ls generalizing t u with
  | nil => exact ⟨rfl, hl, rfl⟩
  | cons l r ih =>
    unfold loopEndFrom
    rw [hl]
    split
    · dsimp only
      split
      · exact ⟨rfl, rfl, rfl⟩
      · exact ih rfl
    · exact ⟨rfl, rfl, rfl⟩

/-- The end-of-body rule looks at INH, the loop counters and the open levels alone. -/
theorem loopEnd_congr (pc : Word) {t u : Team} (hi : u.trapInh = t.trapInh) (hl : u.lc = t.lc) (ho : u.loops = t.loops) :
    (u.loopEnd pc).2 = (t.loopEnd pc).2 ∧ (u.loopEnd pc).1.lc = (t.loopEnd pc).1.lc ∧
      (u.loopEnd pc).1.loops = (t.loopEnd pc).1.loops := by
  unfold Team.loopEnd
  rw [hi, ho]
  split
  · exact ⟨rfl, hl, ho⟩
  · exact loopEndFrom_congr _ _ hl

theorem SameButIssue.refl (t : Team) : SameButIssue t t := rfl

theorem SameButIssue.trans {a b c : Team} (h : SameButIssue a b) (k : SameButIssue b c) : SameButIssue a c := by
  unfold SameButIssue at *
  rw [k, h]

theorem SameButIssue.tid {a b : Team} (h : SameButIssue a b) : b.tid = a.tid := by rw [h]

/-- What a completed word leaves of its team. -/
theorem retire_same (i : Instr) (later : List Instr) (pc : Word) (clk : Nat) (sw : Bool) (a : Option Word) (t : Team) :
    SameButIssue t (t.retire i later pc clk sw a) := by
  have h1 : SameButIssue t ((t.countSr i).account i later clk) := by
    unfold Team.countSr Team.account SameButIssue
    dsimp only
    split <;> split <;> rfl
  have h3 : ∀ u : Team, SameButIssue u (u.marker sw) := fun u => by
    unfold Team.marker SameButIssue
    split <;> rfl
  unfold Team.retire
  refine SameButIssue.trans h1 ?_
  generalize (t.countSr i).account i later clk = u
  have h2 : SameButIssue u (u.nextWord pc a) := by
    unfold Team.nextWord
    split
    · rfl
    · have := loopEnd_same pc u
      split <;> rename_i h <;> rw [h] at this <;> unfold SameButIssue <;> dsimp only at this ⊢ <;> rw [this]
  refine SameButIssue.trans h2 (SameButIssue.trans (h3 _) ?_)
  rfl

/-- Two changes of one team in turn. -/
theorem modTeam_modTeam (s : State) (r : TeamRef) (f g : Team → Team) (hf : ∀ t, t.tid = r.tid → (f t).tid = r.tid) :
    (s.modTeam r f).modTeam r g = s.modTeam r fun t => g (f t) := by
  unfold State.modTeam State.modGroup modWhere Group.modTeam modWhere
  congr 1
  simp only [List.map_map]
  apply List.map_congr_left
  intro x _
  by_cases h : x.uid = r.uid
  · simp [h]
    intro a _
    by_cases h2 : a.tid = r.tid
    · simp [h2, hf a h2]
    · simp [h2]
  · simp [h]

/-- What moving on makes of a team, with no branch taken. -/
theorem retire_continues (i : Instr) (later : List Instr) (pc : Word) (clk : Nat) (sw : Bool) (t : Team) :
    Continues pc t (t.retire i later pc clk sw none) := by
  refine ⟨retire_same .., ?_⟩
  have h1 : ((t.countSr i).account i later clk).trapInh = t.trapInh ∧ ((t.countSr i).account i later clk).lc = t.lc ∧
      ((t.countSr i).account i later clk).loops = t.loops := by
    unfold Team.countSr Team.account
    dsimp only
    split <;> split <;> exact ⟨rfl, rfl, rfl⟩
  have h2 := loopEnd_congr pc h1.1 h1.2.1 h1.2.2
  unfold Team.retire Team.nextWord Team.marker
  generalize (t.countSr i).account i later clk = u at *
  dsimp only
  rw [← h2.1, ← h2.2.1, ← h2.2.2]
  split <;> rename_i h <;> rw [h] <;> split <;> exact ⟨rfl, rfl, rfl, rfl, rfl, rfl⟩

/-- The same for a word that goes on at an address. -/
theorem retire_goes (i : Instr) (later : List Instr) (pc : Word) (clk : Nat) (sw : Bool) (a : Word) (t : Team) :
    Goes a t (t.retire i later pc clk sw (some a)) := by
  refine ⟨retire_same .., ?_⟩
  have h1 : ((t.countSr i).account i later clk).lc = t.lc ∧ ((t.countSr i).account i later clk).loops = t.loops := by
    unfold Team.countSr Team.account
    dsimp only
    split <;> split <;> exact ⟨rfl, rfl⟩
  unfold Team.retire Team.nextWord Team.marker
  generalize (t.countSr i).account i later clk = u at *
  dsimp only
  split <;> exact ⟨rfl, rfl, rfl, rfl, h1.1, h1.2, rfl⟩

/-- A word that completes with a new team changes that team alone. -/
theorem conclude_put {i : Instr} {s : State} {x : Iss} (h : issueOf i s = some x) (u : Team) (hu : u.tid = x.t.tid) :
    TeamStep s (conclude i x (.ok (x.put u))) x u := by
  obtain ⟨g, -, -, -, -, -, hs⟩ := issueOf_spec h
  refine ⟨u.retire i (x.later i) x.t.pc x.s.clk (x.s.iword.getLsbD 31) none, retire_continues .., ?_⟩
  have := issueOf_tid h
  simp only [conclude, Iss.put]
  rw [modTeam_modTeam _ _ _ _ (by intro _ _; omega)]
  rw [hs]
  rfl

/-- The same for a word that goes on at an address. -/
theorem conclude_goto {i : Instr} {s : State} {x : Iss} (h : issueOf i s = some x) (u : Team) (hu : u.tid = x.t.tid)
    (a : Word) : TeamStepAt s (conclude i x (.goto (x.put u) a)) x u a := by
  obtain ⟨g, -, -, -, -, -, hs⟩ := issueOf_spec h
  refine ⟨u.retire i (x.later i) x.t.pc x.s.clk (x.s.iword.getLsbD 31) (some a), retire_goes .., ?_⟩
  have := issueOf_tid h
  simp only [conclude, Iss.put]
  rw [modTeam_modTeam _ _ _ _ (by intro _ _; omega)]
  rw [hs]
  rfl

/-- A word that completes with any state leaves that state but for the issuing team's moving on. -/
theorem conclude_ok (i : Instr) (x : Iss) (u : State) : MovesOn u (conclude i x (.ok u)) x :=
  ⟨_, fun a => retire_continues i (x.later i) x.t.pc x.s.clk (x.s.iword.getLsbD 31) a, rfl⟩

theorem conclude_to (i : Instr) (x : Iss) (u : State) (pc : Word) : MovesTo u (conclude i x (.goto u pc)) x pc :=
  ⟨_, fun a => retire_goes i (x.later i) x.t.pc x.s.clk (x.s.iword.getLsbD 31) pc a, rfl⟩

/-- A releasing word goes on once its team's stores are performed (R258). -/
theorem release_of {x y : Iss} (h : releasedBy x = some y) (k : Iss → Act) : x.release k = k y := by
  unfold releasedBy at h
  unfold Iss.release
  dsimp only at h ⊢
  cases hg : x.written.group? x.r.uid with
  | none => simp only [hg] at h; cases h
  | some g =>
    simp only [hg] at h ⊢
    cases ht : g.team? x.r.tid with
    | none => simp only [ht] at h; cases h
    | some t =>
      simp only [ht] at h ⊢
      by_cases hp : t.performed = true
      · rw [if_pos hp] at h ⊢
        injection h with h
        rw [h]
      · rw [if_neg hp] at h
        cases h

end Sys2Proof.Machine
end

