-- ==== Sys2Proof/Laws/Alu.lean ====
section
/-!
SUPPORT. The integer results of one lane in the terms of the manual: exact arithmetic, powers of two and single bits.
-/

namespace Sys2Proof.Machine

open Sys2Proof

/-- The OR of flags that are each one flag or nothing. -/
theorem orAll_ite (f : Flags) (ls : List Nat) (p : Nat → Bool) :
    orAll (ls.map fun l => if p l then f else 0#6) = if ls.any p then f else 0#6 := by
  have key : ∀ a : Flags, (a = 0#6 ∨ a = f) →
      (ls.map fun l => if p l then f else 0#6).foldl (fun a b => a ||| b) a = if a = f ∨ ls.any p = true then f else a := by
    induction ls with
    | nil => intro a h; rcases h with rfl | rfl <;> simp
    | cons l r ih =>
      intro a h
      simp only [List.map_cons, List.foldl_cons, List.any_cons]
      rw [ih]
      · rcases h with rfl | rfl <;> by_cases hp : p l <;> simp [hp]
      · rcases h with rfl | rfl <;> by_cases hp : p l <;> simp [hp]
  have := key 0#6 (Or.inl rfl)
  unfold orAll
  rw [this]
  by_cases hf : (0#6) = f
  · subst hf; simp
  · simp [hf]

theorem orAll_overflow (ls : List Nat) (e : Nat → Int) :
    orAll (ls.map fun l => overflowFlag (e l)) = if ls.any fun l => decide (e l < -2147483648 ∨ 2147483647 < e l) then flagOF else 0#6 := by
  rw [← orAll_ite]
  congr 1
  apply List.map_congr_left
  intro l _
  simp [overflowFlag]

/-- ORing no flag in changes nothing. -/
@[simp] theorem orFlags_none (t : Team) : t.orFlags 0#6 = t := by
  unfold Team.orFlags
  simp

theorem shlLane_eq (a : Word) (n : Nat) : shlLane a n = BitVec.ofNat 32 (a.toNat * 2 ^ n) := by
  unfold shlLane
  split
  · apply BitVec.eq_of_toNat_eq
    simp [Nat.shiftLeft_eq]
  · rename_i h
    apply BitVec.eq_of_toNat_eq
    have : 2 ^ 32 ∣ a.toNat * 2 ^ n := Dvd.dvd.mul_left (pow_dvd_pow 2 (by omega)) _
    rw [BitVec.toNat_ofNat, Nat.mod_eq_zero_of_dvd this]
    rfl

theorem shrLane_eq (a : Word) (n : Nat) : shrLane a n = BitVec.ofNat 32 (a.toNat / 2 ^ n) := by
  unfold shrLane
  split
  · apply BitVec.eq_of_toNat_eq
    have := Nat.div_le_self a.toNat (2 ^ n)
    simp only [BitVec.toNat_ushiftRight, Nat.shiftRight_eq_div_pow, BitVec.toNat_ofNat]
    rw [Nat.mod_eq_of_lt]; omega
  · rename_i h
    have : a.toNat / 2 ^ n = 0 := Nat.div_eq_of_lt (lt_of_lt_of_le a.isLt (Nat.pow_le_pow_right (by omega) (by omega)))
    rw [this]; rfl

theorem sarLane_eq (a : Word) (n : Nat) : sarLane a n = BitVec.ofInt 32 (a.toInt / 2 ^ n) := by
  unfold sarLane
  apply BitVec.eq_of_toInt_eq
  rw [BitVec.toInt_sshiftRight, Int.shiftRight_eq_div_pow, BitVec.toInt_ofInt]
  have lo := BitVec.le_two_mul_toInt (x := a)
  have hi := BitVec.two_mul_toInt_lt (x := a)
  have b1 : -2147483648 ≤ a.toInt := by omega
  have b2 : a.toInt ≤ 2147483647 := by omega
  have bound : ∀ k : Nat, a.toInt / 2 ^ k = (a.toInt / 2 ^ k).bmod (2 ^ 32) := by
    intro k
    have hk : (1 : Int) ≤ 2 ^ k := one_le_pow₀ (by norm_num)
    have h1 : -2147483648 ≤ a.toInt / 2 ^ k := by
      rw [Int.le_ediv_iff_mul_le (by omega)]
      nlinarith
    have h2 : a.toInt / 2 ^ k ≤ 2147483647 := by
      apply Int.ediv_le_of_le_mul (by omega)
      nlinarith
    rw [Int.bmod_eq_of_le] <;> norm_num <;> omega
  rw [← bound]
  by_cases h : n ≤ 31
  · simp [Nat.min_eq_left h]
  · have h31 : min n 31 = 31 := by omega
    rw [h31]
    have hn : (2147483648 : Int) ≤ 2 ^ n := by
      calc (2147483648 : Int) = 2 ^ 31 := by norm_num
        _ ≤ 2 ^ n := pow_le_pow_right₀ (by norm_num) (by omega)
    push_cast
    rcases lt_or_ge a.toInt 0 with h0 | h0
    · have : a.toInt / 2 ^ n = -1 := by
        apply Int.ediv_eq_neg_one_of_neg_of_le h0; omega
      rw [this]; omega
    · have : a.toInt / 2 ^ n = 0 := Int.ediv_eq_zero_of_lt h0 (by omega)
      rw [this]; omega

theorem popCount_eq (n x : Nat) : popCount n x = (List.range n).countP fun k => x.testBit k := by
  induction n generalizing x with
  | zero => simp [popCount]
  | succ n ih =>
    rw [popCount, ih, List.range_succ_eq_map, List.countP_cons, List.countP_map]
    have : (fun k => x.testBit k) ∘ Nat.succ = fun k => (x / 2).testBit k := by
      funext k; simp [Nat.testBit_succ]
    rw [this]
    simp only [Nat.testBit_zero]
    by_cases h : x % 2 = 1 <;> simp [h] <;> omega

theorem popcLane_eq (a : Word) : popcLane a = BitVec.ofNat 32 ((List.range 32).countP fun k => a.getLsbD k) := by
  unfold popcLane
  rw [popCount_eq]
  rfl

theorem clzLane_eq (a : Word) : clzLane a = BitVec.ofNat 32 (32 - Nat.size a.toNat) := by
  unfold clzLane
  split
  · rename_i h; subst h; rfl
  · rename_i h
    have : a.toNat ≠ 0 := fun e => h (BitVec.eq_of_toNat_eq (by simpa using e))
    have size : Nat.size a.toNat = Nat.log2 a.toNat + 1 :=
      le_antisymm (Nat.size_le.2 ((Nat.log2_lt this).1 (Nat.lt_succ_self _))) (Nat.lt_size.2 (Nat.log2_self_le this))
    rw [size]
    congr 1
    omega

theorem bitRev_testBit (n x k : Nat) (h : k < n) : (bitRev n x).testBit k = x.testBit (n - 1 - k) := by
  induction n generalizing x k with
  | zero => omega
  | succ n ih =>
    have lt : bitRev n (x / 2) < 2 ^ n := by
      clear ih h
      generalize x / 2 = y
      induction n generalizing y with
      | zero => simp [bitRev]
      | succ n ih =>
        simp only [bitRev]
        have := ih (y / 2)
        have : y % 2 ≤ 1 := by omega
        have : y % 2 * 2 ^ n ≤ 2 ^ n := by nlinarith
        rw [pow_succ]; omega
    rw [bitRev, Nat.mul_comm, Nat.testBit_two_pow_mul_add _ lt]
    by_cases hk : k < n
    · rw [if_pos hk, ih _ _ hk, ← Nat.testBit_succ]
      congr 1; omega
    · have : k = n := by omega
      subst this
      simp [Nat.testBit_zero]

theorem brevLane_eq (a : Word) : brevLane a = BitVec.ofFnLE fun k : Fin 32 => a.getLsbD (31 - k) := by
  apply BitVec.eq_of_getLsbD_eq
  intro i hi
  unfold brevLane
  rw [BitVec.getLsbD_ofFnLE, dif_pos hi, BitVec.getLsbD_ofNat, bitRev_testBit _ _ _ hi]
  simp [hi, BitVec.testBit_toNat]

/-- A field of a word, read bit by bit. -/
theorem bitsOf_testBit (x lo n k : Nat) : (bitsOf x lo n).testBit k = (decide (k < n) && x.testBit (lo + k)) := by
  unfold bitsOf
  rw [Nat.testBit_mod_two_pow, Nat.testBit_div_two_pow, Nat.add_comm]

/-- The signed value of a field of `n` bits. -/
theorem signedOf_eq (n x : Nat) (h : 0 < n) : signedOf n x = Int.bmod x (2 ^ n) := by
  unfold signedOf Int.bmod
  obtain ⟨k, rfl⟩ : ∃ k, n = k + 1 := ⟨n - 1, by omega⟩
  have e : ((x % 2 ^ (k + 1) : Nat) : Int) = (x : Int) % ((2 ^ (k + 1) : Nat) : Int) := by norm_cast
  have p : ((2 ^ (k + 1) : Nat) : Int) = 2 * ((2 ^ k : Nat) : Int) := by push_cast; ring
  simp only [Nat.add_sub_cancel]
  split <;> split <;> omega

theorem bfeLane_eq (a b : Word) :
    bfeLane a b =
      let n := min (b.toNat / 256 % 256) 32
      let f := a.toNat / 2 ^ (b.toNat % 256) % 2 ^ n
      if b.getLsbD 16 = true ∧ 0 < n then BitVec.ofInt 32 (Int.bmod f (2 ^ n)) else BitVec.ofNat 32 f := by
  unfold bfeLane
  dsimp only [bitsOf]
  generalize min (b.toNat / 256 % 256) 32 = n
  by_cases h : b.getLsbD 16 = true ∧ 0 < n
  · rw [if_pos h, if_pos (by simpa using h), signedOf_eq _ _ h.2]
  · rw [if_neg h, if_neg (by simpa using h)]

/-- BFI bit by bit. -/
theorem bfiLane_eq (a b old : Word) :
    bfiLane a b old = BitVec.ofFnLE fun k : Fin 32 =>
      if b.toNat % 256 ≤ k.val ∧ k.val < b.toNat % 256 + min (b.toNat / 256 % 256) 32 then a.getLsbD (k.val - b.toNat % 256)
      else old.getLsbD k.val := by
  apply BitVec.eq_of_getLsbD_eq
  intro i hi
  rw [BitVec.getLsbD_ofFnLE, dif_pos hi]
  unfold bfiLane
  generalize hp : b.toNat % 256 = p
  generalize hl : min (b.toNat / 256 % 256) 32 = l
  have m1 : ∀ y, (BitVec.ofNat 32 (y * 2 ^ p)).getLsbD i = (decide (p ≤ i) && y.testBit (i - p)) := by
    intro y
    rw [BitVec.getLsbD_ofNat, Nat.mul_comm, Nat.testBit_two_pow_mul]
    simp [hi]
  simp only [BitVec.getLsbD_or, BitVec.getLsbD_and, BitVec.getLsbD_not, m1, Nat.testBit_two_pow_sub_one,
    Nat.testBit_mod_two_pow, BitVec.testBit_toNat, hi, decide_true, Bool.true_and]
  by_cases h1 : p ≤ i
  · by_cases h2 : i < p + l
    · have : i - p < l := by omega
      simp [h1, h2, this]
    · have : ¬ i - p < l := by omega
      simp [h1, h2, this]
  · simp [h1]

end Sys2Proof.Machine
end

