-- ==== Sys2Proof/Laws/Decode.lean ====
section
/-!
SUPPORT. The fields of a word of each format read back as they were placed (R48), and its switch marker is clear.
-/

namespace Sys2Proof

@[simp] theorem fMaj_wordG3 (maj : BitVec 6) (d : BitVec 7) (a : BitVec 7) (b : BitVec 7) (fn : BitVec 4) : fMaj (wordG3 maj d a b fn) = maj := by
  change BitVec.extractLsb' 25 6 (0#1 ++ maj ++ d ++ a ++ b ++ fn : BitVec (1 + 6 + 7 + 7 + 7 + 4)) = maj
  ext i hi
  simp only [BitVec.getElem_extractLsb', BitVec.getLsbD_append]
  repeat (first | rw [if_pos (by omega)] | rw [if_neg (by omega)])
  rw [← BitVec.getLsbD_eq_getElem]
  congr 1
  omega

@[simp] theorem fD_wordG3 (maj : BitVec 6) (d : BitVec 7) (a : BitVec 7) (b : BitVec 7) (fn : BitVec 4) : fD (wordG3 maj d a b fn) = d := by
  change BitVec.extractLsb' 18 7 (0#1 ++ maj ++ d ++ a ++ b ++ fn : BitVec (1 + 6 + 7 + 7 + 7 + 4)) = d
  ext i hi
  simp only [BitVec.getElem_extractLsb', BitVec.getLsbD_append]
  repeat (first | rw [if_pos (by omega)] | rw [if_neg (by omega)])
  rw [← BitVec.getLsbD_eq_getElem]
  congr 1
  omega

@[simp] theorem fA_wordG3 (maj : BitVec 6) (d : BitVec 7) (a : BitVec 7) (b : BitVec 7) (fn : BitVec 4) : fA (wordG3 maj d a b fn) = a := by
  change BitVec.extractLsb' 11 7 (0#1 ++ maj ++ d ++ a ++ b ++ fn : BitVec (1 + 6 + 7 + 7 + 7 + 4)) = a
  ext i hi
  simp only [BitVec.getElem_extractLsb', BitVec.getLsbD_append]
  repeat (first | rw [if_pos (by omega)] | rw [if_neg (by omega)])
  rw [← BitVec.getLsbD_eq_getElem]
  congr 1
  omega

@[simp] theorem fB_wordG3 (maj : BitVec 6) (d : BitVec 7) (a : BitVec 7) (b : BitVec 7) (fn : BitVec 4) : fB (wordG3 maj d a b fn) = b := by
  change BitVec.extractLsb' 4 7 (0#1 ++ maj ++ d ++ a ++ b ++ fn : BitVec (1 + 6 + 7 + 7 + 7 + 4)) = b
  ext i hi
  simp only [BitVec.getElem_extractLsb', BitVec.getLsbD_append]
  repeat (first | rw [if_pos (by omega)] | rw [if_neg (by omega)])
  rw [← BitVec.getLsbD_eq_getElem]
  congr 1
  omega

@[simp] theorem fFn_wordG3 (maj : BitVec 6) (d : BitVec 7) (a : BitVec 7) (b : BitVec 7) (fn : BitVec 4) : fFn (wordG3 maj d a b fn) = fn := by
  change BitVec.extractLsb' 0 4 (0#1 ++ maj ++ d ++ a ++ b ++ fn : BitVec (1 + 6 + 7 + 7 + 7 + 4)) = fn
  ext i hi
  simp only [BitVec.getElem_extractLsb', BitVec.getLsbD_append]
  repeat (first | rw [if_pos (by omega)] | rw [if_neg (by omega)])
  rw [← BitVec.getLsbD_eq_getElem]
  congr 1
  omega

@[simp] theorem fSw_wordG3 (maj : BitVec 6) (d : BitVec 7) (a : BitVec 7) (b : BitVec 7) (fn : BitVec 4) : fSw (wordG3 maj d a b fn) = false := by
  change BitVec.getLsbD (0#1 ++ maj ++ d ++ a ++ b ++ fn : BitVec (1 + 6 + 7 + 7 + 7 + 4)) 31 = false
  simp only [BitVec.getLsbD_append]
  repeat (first | rw [if_pos (by omega)] | rw [if_neg (by omega)])
  rfl

@[simp] theorem fMaj_wordG2i (maj : BitVec 6) (d : BitVec 7) (a : BitVec 7) (sub : BitVec 3) (imm8 : BitVec 8) : fMaj (wordG2i maj d a sub imm8) = maj := by
  change BitVec.extractLsb' 25 6 (0#1 ++ maj ++ d ++ a ++ sub ++ imm8 : BitVec (1 + 6 + 7 + 7 + 3 + 8)) = maj
  ext i hi
  simp only [BitVec.getElem_extractLsb', BitVec.getLsbD_append]
  repeat (first | rw [if_pos (by omega)] | rw [if_neg (by omega)])
  rw [← BitVec.getLsbD_eq_getElem]
  congr 1
  omega

@[simp] theorem fD_wordG2i (maj : BitVec 6) (d : BitVec 7) (a : BitVec 7) (sub : BitVec 3) (imm8 : BitVec 8) : fD (wordG2i maj d a sub imm8) = d := by
  change BitVec.extractLsb' 18 7 (0#1 ++ maj ++ d ++ a ++ sub ++ imm8 : BitVec (1 + 6 + 7 + 7 + 3 + 8)) = d
  ext i hi
  simp only [BitVec.getElem_extractLsb', BitVec.getLsbD_append]
  repeat (first | rw [if_pos (by omega)] | rw [if_neg (by omega)])
  rw [← BitVec.getLsbD_eq_getElem]
  congr 1
  omega

@[simp] theorem fA_wordG2i (maj : BitVec 6) (d : BitVec 7) (a : BitVec 7) (sub : BitVec 3) (imm8 : BitVec 8) : fA (wordG2i maj d a sub imm8) = a := by
  change BitVec.extractLsb' 11 7 (0#1 ++ maj ++ d ++ a ++ sub ++ imm8 : BitVec (1 + 6 + 7 + 7 + 3 + 8)) = a
  ext i hi
  simp only [BitVec.getElem_extractLsb', BitVec.getLsbD_append]
  repeat (first | rw [if_pos (by omega)] | rw [if_neg (by omega)])
  rw [← BitVec.getLsbD_eq_getElem]
  congr 1
  omega

@[simp] theorem fSub_wordG2i (maj : BitVec 6) (d : BitVec 7) (a : BitVec 7) (sub : BitVec 3) (imm8 : BitVec 8) : fSub (wordG2i maj d a sub imm8) = sub := by
  change BitVec.extractLsb' 8 3 (0#1 ++ maj ++ d ++ a ++ sub ++ imm8 : BitVec (1 + 6 + 7 + 7 + 3 + 8)) = sub
  ext i hi
  simp only [BitVec.getElem_extractLsb', BitVec.getLsbD_append]
  repeat (first | rw [if_pos (by omega)] | rw [if_neg (by omega)])
  rw [← BitVec.getLsbD_eq_getElem]
  congr 1
  omega

@[simp] theorem fImm8_wordG2i (maj : BitVec 6) (d : BitVec 7) (a : BitVec 7) (sub : BitVec 3) (imm8 : BitVec 8) : fImm8 (wordG2i maj d a sub imm8) = imm8 := by
  change BitVec.extractLsb' 0 8 (0#1 ++ maj ++ d ++ a ++ sub ++ imm8 : BitVec (1 + 6 + 7 + 7 + 3 + 8)) = imm8
  ext i hi
  simp only [BitVec.getElem_extractLsb', BitVec.getLsbD_append]
  repeat (first | rw [if_pos (by omega)] | rw [if_neg (by omega)])
  rw [← BitVec.getLsbD_eq_getElem]
  congr 1
  omega

@[simp] theorem fSw_wordG2i (maj : BitVec 6) (d : BitVec 7) (a : BitVec 7) (sub : BitVec 3) (imm8 : BitVec 8) : fSw (wordG2i maj d a sub imm8) = false := by
  change BitVec.getLsbD (0#1 ++ maj ++ d ++ a ++ sub ++ imm8 : BitVec (1 + 6 + 7 + 7 + 3 + 8)) 31 = false
  simp only [BitVec.getLsbD_append]
  repeat (first | rw [if_pos (by omega)] | rw [if_neg (by omega)])
  rfl

@[simp] theorem fMaj_wordGi (maj : BitVec 6) (d : BitVec 7) (imm18 : BitVec 18) : fMaj (wordGi maj d imm18) = maj := by
  change BitVec.extractLsb' 25 6 (0#1 ++ maj ++ d ++ imm18 : BitVec (1 + 6 + 7 + 18)) = maj
  ext i hi
  simp only [BitVec.getElem_extractLsb', BitVec.getLsbD_append]
  repeat (first | rw [if_pos (by omega)] | rw [if_neg (by omega)])
  rw [← BitVec.getLsbD_eq_getElem]
  congr 1
  omega

@[simp] theorem fD_wordGi (maj : BitVec 6) (d : BitVec 7) (imm18 : BitVec 18) : fD (wordGi maj d imm18) = d := by
  change BitVec.extractLsb' 18 7 (0#1 ++ maj ++ d ++ imm18 : BitVec (1 + 6 + 7 + 18)) = d
  ext i hi
  simp only [BitVec.getElem_extractLsb', BitVec.getLsbD_append]
  repeat (first | rw [if_pos (by omega)] | rw [if_neg (by omega)])
  rw [← BitVec.getLsbD_eq_getElem]
  congr 1
  omega

@[simp] theorem fImm18_wordGi (maj : BitVec 6) (d : BitVec 7) (imm18 : BitVec 18) : fImm18 (wordGi maj d imm18) = imm18 := by
  change BitVec.extractLsb' 0 18 (0#1 ++ maj ++ d ++ imm18 : BitVec (1 + 6 + 7 + 18)) = imm18
  ext i hi
  simp only [BitVec.getElem_extractLsb', BitVec.getLsbD_append]
  repeat (first | rw [if_pos (by omega)] | rw [if_neg (by omega)])
  rw [← BitVec.getLsbD_eq_getElem]
  congr 1
  omega

@[simp] theorem fSw_wordGi (maj : BitVec 6) (d : BitVec 7) (imm18 : BitVec 18) : fSw (wordGi maj d imm18) = false := by
  change BitVec.getLsbD (0#1 ++ maj ++ d ++ imm18 : BitVec (1 + 6 + 7 + 18)) 31 = false
  simp only [BitVec.getLsbD_append]
  repeat (first | rw [if_pos (by omega)] | rw [if_neg (by omega)])
  rfl

@[simp] theorem fMaj_wordC (maj : BitVec 6) (op : BitVec 4) (p : BitVec 3) (imm18 : BitVec 18) : fMaj (wordC maj op p imm18) = maj := by
  change BitVec.extractLsb' 25 6 (0#1 ++ maj ++ op ++ p ++ imm18 : BitVec (1 + 6 + 4 + 3 + 18)) = maj
  ext i hi
  simp only [BitVec.getElem_extractLsb', BitVec.getLsbD_append]
  repeat (first | rw [if_pos (by omega)] | rw [if_neg (by omega)])
  rw [← BitVec.getLsbD_eq_getElem]
  congr 1
  omega

@[simp] theorem fOp_wordC (maj : BitVec 6) (op : BitVec 4) (p : BitVec 3) (imm18 : BitVec 18) : fOp (wordC maj op p imm18) = op := by
  change BitVec.extractLsb' 21 4 (0#1 ++ maj ++ op ++ p ++ imm18 : BitVec (1 + 6 + 4 + 3 + 18)) = op
  ext i hi
  simp only [BitVec.getElem_extractLsb', BitVec.getLsbD_append]
  repeat (first | rw [if_pos (by omega)] | rw [if_neg (by omega)])
  rw [← BitVec.getLsbD_eq_getElem]
  congr 1
  omega

@[simp] theorem fP_wordC (maj : BitVec 6) (op : BitVec 4) (p : BitVec 3) (imm18 : BitVec 18) : fP (wordC maj op p imm18) = p := by
  change BitVec.extractLsb' 18 3 (0#1 ++ maj ++ op ++ p ++ imm18 : BitVec (1 + 6 + 4 + 3 + 18)) = p
  ext i hi
  simp only [BitVec.getElem_extractLsb', BitVec.getLsbD_append]
  repeat (first | rw [if_pos (by omega)] | rw [if_neg (by omega)])
  rw [← BitVec.getLsbD_eq_getElem]
  congr 1
  omega

@[simp] theorem fImm18_wordC (maj : BitVec 6) (op : BitVec 4) (p : BitVec 3) (imm18 : BitVec 18) : fImm18 (wordC maj op p imm18) = imm18 := by
  change BitVec.extractLsb' 0 18 (0#1 ++ maj ++ op ++ p ++ imm18 : BitVec (1 + 6 + 4 + 3 + 18)) = imm18
  ext i hi
  simp only [BitVec.getElem_extractLsb', BitVec.getLsbD_append]
  repeat (first | rw [if_pos (by omega)] | rw [if_neg (by omega)])
  rw [← BitVec.getLsbD_eq_getElem]
  congr 1
  omega

@[simp] theorem fSw_wordC (maj : BitVec 6) (op : BitVec 4) (p : BitVec 3) (imm18 : BitVec 18) : fSw (wordC maj op p imm18) = false := by
  change BitVec.getLsbD (0#1 ++ maj ++ op ++ p ++ imm18 : BitVec (1 + 6 + 4 + 3 + 18)) 31 = false
  simp only [BitVec.getLsbD_append]
  repeat (first | rw [if_pos (by omega)] | rw [if_neg (by omega)])
  rfl

@[simp] theorem fMaj_wordM (maj : BitVec 6) (d : BitVec 7) (a : BitVec 7) (off4 : BitVec 4) (sz : BitVec 3) (fn : BitVec 4) : fMaj (wordM maj d a off4 sz fn) = maj := by
  change BitVec.extractLsb' 25 6 (0#1 ++ maj ++ d ++ a ++ off4 ++ sz ++ fn : BitVec (1 + 6 + 7 + 7 + 4 + 3 + 4)) = maj
  ext i hi
  simp only [BitVec.getElem_extractLsb', BitVec.getLsbD_append]
  repeat (first | rw [if_pos (by omega)] | rw [if_neg (by omega)])
  rw [← BitVec.getLsbD_eq_getElem]
  congr 1
  omega

@[simp] theorem fD_wordM (maj : BitVec 6) (d : BitVec 7) (a : BitVec 7) (off4 : BitVec 4) (sz : BitVec 3) (fn : BitVec 4) : fD (wordM maj d a off4 sz fn) = d := by
  change BitVec.extractLsb' 18 7 (0#1 ++ maj ++ d ++ a ++ off4 ++ sz ++ fn : BitVec (1 + 6 + 7 + 7 + 4 + 3 + 4)) = d
  ext i hi
  simp only [BitVec.getElem_extractLsb', BitVec.getLsbD_append]
  repeat (first | rw [if_pos (by omega)] | rw [if_neg (by omega)])
  rw [← BitVec.getLsbD_eq_getElem]
  congr 1
  omega

@[simp] theorem fA_wordM (maj : BitVec 6) (d : BitVec 7) (a : BitVec 7) (off4 : BitVec 4) (sz : BitVec 3) (fn : BitVec 4) : fA (wordM maj d a off4 sz fn) = a := by
  change BitVec.extractLsb' 11 7 (0#1 ++ maj ++ d ++ a ++ off4 ++ sz ++ fn : BitVec (1 + 6 + 7 + 7 + 4 + 3 + 4)) = a
  ext i hi
  simp only [BitVec.getElem_extractLsb', BitVec.getLsbD_append]
  repeat (first | rw [if_pos (by omega)] | rw [if_neg (by omega)])
  rw [← BitVec.getLsbD_eq_getElem]
  congr 1
  omega

@[simp] theorem fOff4_wordM (maj : BitVec 6) (d : BitVec 7) (a : BitVec 7) (off4 : BitVec 4) (sz : BitVec 3) (fn : BitVec 4) : fOff4 (wordM maj d a off4 sz fn) = off4 := by
  change BitVec.extractLsb' 7 4 (0#1 ++ maj ++ d ++ a ++ off4 ++ sz ++ fn : BitVec (1 + 6 + 7 + 7 + 4 + 3 + 4)) = off4
  ext i hi
  simp only [BitVec.getElem_extractLsb', BitVec.getLsbD_append]
  repeat (first | rw [if_pos (by omega)] | rw [if_neg (by omega)])
  rw [← BitVec.getLsbD_eq_getElem]
  congr 1
  omega

@[simp] theorem fSz_wordM (maj : BitVec 6) (d : BitVec 7) (a : BitVec 7) (off4 : BitVec 4) (sz : BitVec 3) (fn : BitVec 4) : fSz (wordM maj d a off4 sz fn) = sz := by
  change BitVec.extractLsb' 4 3 (0#1 ++ maj ++ d ++ a ++ off4 ++ sz ++ fn : BitVec (1 + 6 + 7 + 7 + 4 + 3 + 4)) = sz
  ext i hi
  simp only [BitVec.getElem_extractLsb', BitVec.getLsbD_append]
  repeat (first | rw [if_pos (by omega)] | rw [if_neg (by omega)])
  rw [← BitVec.getLsbD_eq_getElem]
  congr 1
  omega

@[simp] theorem fFn_wordM (maj : BitVec 6) (d : BitVec 7) (a : BitVec 7) (off4 : BitVec 4) (sz : BitVec 3) (fn : BitVec 4) : fFn (wordM maj d a off4 sz fn) = fn := by
  change BitVec.extractLsb' 0 4 (0#1 ++ maj ++ d ++ a ++ off4 ++ sz ++ fn : BitVec (1 + 6 + 7 + 7 + 4 + 3 + 4)) = fn
  ext i hi
  simp only [BitVec.getElem_extractLsb', BitVec.getLsbD_append]
  repeat (first | rw [if_pos (by omega)] | rw [if_neg (by omega)])
  rw [← BitVec.getLsbD_eq_getElem]
  congr 1
  omega

@[simp] theorem fSw_wordM (maj : BitVec 6) (d : BitVec 7) (a : BitVec 7) (off4 : BitVec 4) (sz : BitVec 3) (fn : BitVec 4) : fSw (wordM maj d a off4 sz fn) = false := by
  change BitVec.getLsbD (0#1 ++ maj ++ d ++ a ++ off4 ++ sz ++ fn : BitVec (1 + 6 + 7 + 7 + 4 + 3 + 4)) 31 = false
  simp only [BitVec.getLsbD_append]
  repeat (first | rw [if_pos (by omega)] | rw [if_neg (by omega)])
  rfl

@[simp] theorem fMaj_wordQ (maj : BitVec 6) (d : BitVec 7) (q : BitVec 4) (tag : BitVec 2) (qimm : BitVec 8) (fn : BitVec 4) : fMaj (wordQ maj d q tag qimm fn) = maj := by
  change BitVec.extractLsb' 25 6 (0#1 ++ maj ++ d ++ q ++ tag ++ qimm ++ fn : BitVec (1 + 6 + 7 + 4 + 2 + 8 + 4)) = maj
  ext i hi
  simp only [BitVec.getElem_extractLsb', BitVec.getLsbD_append]
  repeat (first | rw [if_pos (by omega)] | rw [if_neg (by omega)])
  rw [← BitVec.getLsbD_eq_getElem]
  congr 1
  omega

@[simp] theorem fD_wordQ (maj : BitVec 6) (d : BitVec 7) (q : BitVec 4) (tag : BitVec 2) (qimm : BitVec 8) (fn : BitVec 4) : fD (wordQ maj d q tag qimm fn) = d := by
  change BitVec.extractLsb' 18 7 (0#1 ++ maj ++ d ++ q ++ tag ++ qimm ++ fn : BitVec (1 + 6 + 7 + 4 + 2 + 8 + 4)) = d
  ext i hi
  simp only [BitVec.getElem_extractLsb', BitVec.getLsbD_append]
  repeat (first | rw [if_pos (by omega)] | rw [if_neg (by omega)])
  rw [← BitVec.getLsbD_eq_getElem]
  congr 1
  omega

@[simp] theorem fQ_wordQ (maj : BitVec 6) (d : BitVec 7) (q : BitVec 4) (tag : BitVec 2) (qimm : BitVec 8) (fn : BitVec 4) : fQ (wordQ maj d q tag qimm fn) = q := by
  change BitVec.extractLsb' 14 4 (0#1 ++ maj ++ d ++ q ++ tag ++ qimm ++ fn : BitVec (1 + 6 + 7 + 4 + 2 + 8 + 4)) = q
  ext i hi
  simp only [BitVec.getElem_extractLsb', BitVec.getLsbD_append]
  repeat (first | rw [if_pos (by omega)] | rw [if_neg (by omega)])
  rw [← BitVec.getLsbD_eq_getElem]
  congr 1
  omega

@[simp] theorem fTag_wordQ (maj : BitVec 6) (d : BitVec 7) (q : BitVec 4) (tag : BitVec 2) (qimm : BitVec 8) (fn : BitVec 4) : fTag (wordQ maj d q tag qimm fn) = tag := by
  change BitVec.extractLsb' 12 2 (0#1 ++ maj ++ d ++ q ++ tag ++ qimm ++ fn : BitVec (1 + 6 + 7 + 4 + 2 + 8 + 4)) = tag
  ext i hi
  simp only [BitVec.getElem_extractLsb', BitVec.getLsbD_append]
  repeat (first | rw [if_pos (by omega)] | rw [if_neg (by omega)])
  rw [← BitVec.getLsbD_eq_getElem]
  congr 1
  omega

@[simp] theorem fQImm_wordQ (maj : BitVec 6) (d : BitVec 7) (q : BitVec 4) (tag : BitVec 2) (qimm : BitVec 8) (fn : BitVec 4) : fQImm (wordQ maj d q tag qimm fn) = qimm := by
  change BitVec.extractLsb' 4 8 (0#1 ++ maj ++ d ++ q ++ tag ++ qimm ++ fn : BitVec (1 + 6 + 7 + 4 + 2 + 8 + 4)) = qimm
  ext i hi
  simp only [BitVec.getElem_extractLsb', BitVec.getLsbD_append]
  repeat (first | rw [if_pos (by omega)] | rw [if_neg (by omega)])
  rw [← BitVec.getLsbD_eq_getElem]
  congr 1
  omega

@[simp] theorem fFn_wordQ (maj : BitVec 6) (d : BitVec 7) (q : BitVec 4) (tag : BitVec 2) (qimm : BitVec 8) (fn : BitVec 4) : fFn (wordQ maj d q tag qimm fn) = fn := by
  change BitVec.extractLsb' 0 4 (0#1 ++ maj ++ d ++ q ++ tag ++ qimm ++ fn : BitVec (1 + 6 + 7 + 4 + 2 + 8 + 4)) = fn
  ext i hi
  simp only [BitVec.getElem_extractLsb', BitVec.getLsbD_append]
  repeat (first | rw [if_pos (by omega)] | rw [if_neg (by omega)])
  rw [← BitVec.getLsbD_eq_getElem]
  congr 1
  omega

@[simp] theorem fSw_wordQ (maj : BitVec 6) (d : BitVec 7) (q : BitVec 4) (tag : BitVec 2) (qimm : BitVec 8) (fn : BitVec 4) : fSw (wordQ maj d q tag qimm fn) = false := by
  change BitVec.getLsbD (0#1 ++ maj ++ d ++ q ++ tag ++ qimm ++ fn : BitVec (1 + 6 + 7 + 4 + 2 + 8 + 4)) 31 = false
  simp only [BitVec.getLsbD_append]
  repeat (first | rw [if_pos (by omega)] | rw [if_neg (by omega)])
  rfl

@[simp] theorem fKind_wordHint (kind : BitVec 3) (pay : BitVec 22) : fKind (wordHint kind pay) = kind := by
  change BitVec.extractLsb' 22 3 (0#1 ++ 63#6 ++ kind ++ pay : BitVec (1 + 6 + 3 + 22)) = kind
  ext i hi
  simp only [BitVec.getElem_extractLsb', BitVec.getLsbD_append]
  repeat (first | rw [if_pos (by omega)] | rw [if_neg (by omega)])
  rw [← BitVec.getLsbD_eq_getElem]
  congr 1
  omega

@[simp] theorem fPay_wordHint (kind : BitVec 3) (pay : BitVec 22) : fPay (wordHint kind pay) = pay := by
  change BitVec.extractLsb' 0 22 (0#1 ++ 63#6 ++ kind ++ pay : BitVec (1 + 6 + 3 + 22)) = pay
  ext i hi
  simp only [BitVec.getElem_extractLsb', BitVec.getLsbD_append]
  repeat (first | rw [if_pos (by omega)] | rw [if_neg (by omega)])
  rw [← BitVec.getLsbD_eq_getElem]
  congr 1
  omega

@[simp] theorem fMaj_wordHint (kind : BitVec 3) (pay : BitVec 22) : fMaj (wordHint kind pay) = 63#6 := by
  change BitVec.extractLsb' 25 6 (0#1 ++ 63#6 ++ kind ++ pay : BitVec (1 + 6 + 3 + 22)) = 63#6
  ext i hi
  simp only [BitVec.getElem_extractLsb', BitVec.getLsbD_append]
  repeat (first | rw [if_pos (by omega)] | rw [if_neg (by omega)])
  rw [← BitVec.getLsbD_eq_getElem]
  congr 1
  omega

@[simp] theorem fSw_wordHint (kind : BitVec 3) (pay : BitVec 22) : fSw (wordHint kind pay) = false := by
  change BitVec.getLsbD (0#1 ++ 63#6 ++ kind ++ pay : BitVec (1 + 6 + 3 + 22)) 31 = false
  simp only [BitVec.getLsbD_append]
  repeat (first | rw [if_pos (by omega)] | rw [if_neg (by omega)])
  rfl

end Sys2Proof
end

