-- ==== Sys2Proof/Laws/Events.lean ====
section
/-!
SUPPORT. An event that arises from the state does what its row's meaning does.
-/

namespace Sys2Proof.Machine

open Sys2Proof

theorem Ev.run_variableResultReturn (uid tid idx : Nat) (s : State) : (Ev.variableResultReturn uid tid idx).run s = exec (.variableResultReturn uid tid idx) s := rfl

theorem Ev.run_queueEntryComplete (uid q entry : Nat) (s : State) : (Ev.queueEntryComplete uid q entry).run s = exec (.queueEntryComplete uid q entry) s := rfl

theorem Ev.run_homeSliceAccept (uid tid : Nat) (s : State) : (Ev.homeSliceAccept uid tid).run s = exec (.homeSliceAccept uid tid) s := rfl

theorem Ev.run_pollWake (uid tid : Nat) (s : State) : (Ev.pollWake uid tid).run s = exec (.pollWake uid tid) s := rfl

theorem Ev.run_pollTimeout (uid tid : Nat) (s : State) : (Ev.pollTimeout uid tid).run s = exec (.pollTimeout uid tid) s := rfl

theorem Ev.run_translationFault (uid tid : Nat) (s : State) : (Ev.translationFault uid tid).run s = exec (.translationFault uid tid) s := rfl

theorem Ev.run_tmoveComplete (uid tid : Nat) (s : State) : (Ev.tmoveComplete uid tid).run s = exec (.tmoveComplete uid tid) s := rfl

theorem Ev.run_pageRequest (part tag : Nat) (s : State) : (Ev.pageRequest part tag).run s = exec (.pageRequest part tag) s := rfl

theorem Ev.run_expansionDone (part tag : Nat) (s : State) : (Ev.expansionDone part tag).run s = exec (.expansionDone part tag) s := rfl

theorem Ev.run_ageingPeriod (part : Nat) (s : State) : (Ev.ageingPeriod part).run s = exec (.ageingPeriod part) s := rfl

theorem Ev.run_compressVictim (part : Nat) (s : State) : (Ev.compressVictim part).run s = exec (.compressVictim part) s := rfl

theorem Ev.run_copyStart (seq : Nat) (s : State) : (Ev.copyStart seq).run s = exec (.copyStart seq) s := rfl

theorem Ev.run_copyPiece (seq : Nat) (s : State) : (Ev.copyPiece seq).run s = exec (.copyPiece seq) s := rfl

theorem Ev.run_fetchRow (seq : Nat) (s : State) : (Ev.fetchRow seq).run s = exec (.fetchRow seq) s := rfl

theorem Ev.run_cardStart (uid task : Nat) (s : State) : (Ev.cardStart uid task).run s = exec (.cardStart uid task) s := rfl

theorem Ev.run_broadcastMatch (uid task rxUid : Nat) (s : State) : (Ev.broadcastMatch uid task rxUid).run s = exec (.broadcastMatch uid task rxUid) s := rfl

theorem Ev.run_peerMatch (uid task : Nat) (s : State) : (Ev.peerMatch uid task).run s = exec (.peerMatch uid task) s := rfl

theorem Ev.run_cardComplete (uid task : Nat) (s : State) : (Ev.cardComplete uid task).run s = exec (.cardComplete uid task) s := rfl

theorem Ev.run_censusSnapshot (cseq : Nat) (s : State) : (Ev.censusSnapshot cseq).run s = exec (.censusSnapshot cseq) s := rfl

theorem Ev.run_responderStart (cseq core : Nat) (s : State) : (Ev.responderStart cseq core).run s = exec (.responderStart cseq core) s := rfl

theorem Ev.run_censusClose (cseq : Nat) (s : State) : (Ev.censusClose cseq).run s = exec (.censusClose cseq) s := rfl

theorem Ev.run_censusWaitExpire (cseq : Nat) (s : State) : (Ev.censusWaitExpire cseq).run s = exec (.censusWaitExpire cseq) s := rfl

theorem Ev.run_overlayLoadDone (core slot : Nat) (s : State) : (Ev.overlayLoadDone core slot).run s = exec (.overlayLoadDone core slot) s := rfl

theorem Ev.run_phaseStart (lid : Nat) (s : State) : (Ev.phaseStart lid).run s = exec (.phaseStart lid) s := rfl

theorem Ev.run_groupPlace (lid : Nat) (s : State) : (Ev.groupPlace lid).run s = exec (.groupPlace lid) s := rfl

theorem Ev.run_groupStart (uid : Nat) (s : State) : (Ev.groupStart uid).run s = exec (.groupStart uid) s := rfl

theorem Ev.run_groupRetire (uid : Nat) (s : State) : (Ev.groupRetire uid).run s = exec (.groupRetire uid) s := rfl

theorem Ev.run_flushTimerExpire (part ctxid node : Nat) (s : State) : (Ev.flushTimerExpire part ctxid node).run s = exec (.flushTimerExpire part ctxid node) s := rfl

theorem Ev.run_preemptionDecision (lid : Nat) (s : State) : (Ev.preemptionDecision lid).run s = exec (.preemptionDecision lid) s := rfl

theorem Ev.run_saveComplete (part ctxid : Nat) (s : State) : (Ev.saveComplete part ctxid).run s = exec (.saveComplete part ctxid) s := rfl

theorem Ev.run_resume (part ctxid : Nat) (s : State) : (Ev.resume part ctxid).run s = exec (.resume part ctxid) s := rfl

theorem Ev.run_watchdog (lid : Nat) (s : State) : (Ev.watchdog lid).run s = exec (.watchdog lid) s := rfl

theorem Ev.run_qdeadlock (uid : Nat) (s : State) : (Ev.qdeadlock uid).run s = exec (.qdeadlock uid) s := rfl

theorem Ev.run_remoteTimeout (rseq : Nat) (s : State) : (Ev.remoteTimeout rseq).run s = exec (.remoteTimeout rseq) s := rfl

theorem Ev.run_replanPeriod (s : State) : (Ev.replanPeriod).run s = exec (.replanPeriod) s := rfl

theorem Ev.run_scrub (s : State) : (Ev.scrub).run s = exec (.scrub) s := rfl

end Sys2Proof.Machine
end

