-- ==== Sys2Proof/Laws/Lane.lean ====
section
/-!
SUPPORT. Team updates keep the team's number, and what a word that computes lane by lane comes to.
-/

namespace Sys2Proof.Machine

open Sys2Proof

@[simp] theorem orFlags_tid (t : Team) (f : Flags) : (t.orFlags f).tid = t.tid := rfl
@[simp] theorem putS_tid (t : Team) (f : RegField) (w : Word) : (t.putS f w).tid = t.tid := rfl

@[simp] theorem write_tid (t : Team) (f : RegField) (v : Nat → DWord) : (t.write f v).tid = t.tid := by
  unfold Team.write
  split
  · split <;> rfl
  · rfl

@[simp] theorem write32_tid (t : Team) (f : RegField) (v : Nat → Word) : (t.write32 f v).tid = t.tid := write_tid ..

@[simp] theorem writePred_tid (t : Team) (p : Nat) (v : Nat → Bool) : (t.writePred p v).tid = t.tid := by
  unfold Team.writePred
  split <;> rfl

@[simp] theorem addPend_tid (t : Team) (ps : List PendWrite) : (t.addPend ps).tid = t.tid := rfl

/-- A word whose effect is a new team. -/
theorem okTeam_steps {i : Instr} {s : State} {x : Iss} (h : issueOf i s = some x) (body : Iss → Act) (u : Team)
    (hb : body x = x.okTeam u) (hu : u.tid = x.t.tid) : ∃ t, issue i s body = .next t ∧ TeamStep s t x u :=
  ⟨_, issue_of h _, by rw [hb]; exact conclude_put h u hu⟩

/-- A 32-bit result with flags. -/
theorem lane32_steps {i : Instr} {s : State} {x : Iss} (h : issueOf i s = some x) (body : Iss → Act) (d : RegField)
    (v : Nat → Word) (f : Nat → Flags) (fl : Flags) (hb : body x = x.lane32 d fun l => (v l, f l))
    (hf : orAll (x.t.run.map f) = fl) :
    ∃ t, issue i s body = .next t ∧ TeamStep s t x ((x.t.write32 d v).orFlags fl) :=
  okTeam_steps h body _ (by rw [hb, ← hf]; rfl) (by simp)

/-- A 32-bit result without flags. -/
theorem lane_steps {i : Instr} {s : State} {x : Iss} (h : issueOf i s = some x) (body : Iss → Act) (d : RegField)
    (v : Nat → Word) (hb : body x = x.lane d v) : ∃ t, issue i s body = .next t ∧ TeamStep s t x (x.t.write32 d v) :=
  okTeam_steps h body _ hb (by simp)

end Sys2Proof.Machine
end

