-- ==== Sys2Proof/Laws/Memory.lean ====
section
/-!
SUPPORT. Memory in its canonical form: every operation keeps it, a byte written is read back, and every other byte is as before.
-/

namespace Sys2Proof.Machine

/-! ### The canonical form from an address on -/

theorem memWf_mono {lo lo' : Nat} (h : lo' ≤ lo) {m : Memory} (w : memWfFrom lo m = true) : memWfFrom lo' m = true := by
  cases m with
  | nil => rfl
  | cons c m =>
    obtain ⟨a, b⟩ := c
    simp only [memWfFrom, Bool.and_eq_true, decide_eq_true_eq] at w ⊢
    exact ⟨⟨by omega, w.1.2⟩, w.2⟩

theorem memWf_wf {lo : Nat} {m : Memory} (w : memWfFrom lo m = true) : Memory.wf m = true := memWf_mono (Nat.zero_le lo) w

theorem memWrite_wfFrom (a : Nat) (b : Byte) : ∀ (m : Memory) (lo : Nat), lo ≤ a → memWfFrom lo m = true →
    memWfFrom lo (memWrite m a b) = true
  | [], lo, h, _ => by
    by_cases hb : b = memDefault
    · simp [memWrite, hb, memWfFrom]
    · simp [memWrite, hb, memWfFrom, h]
  | (x, v) :: m, lo, h, w => by
    simp only [memWfFrom, Bool.and_eq_true, decide_eq_true_eq] at w
    obtain ⟨⟨hx, hv⟩, hm⟩ := w
    unfold memWrite
    split
    · split
      · simp only [memWfFrom, Bool.and_eq_true, decide_eq_true_eq]
        exact ⟨⟨hx, hv⟩, hm⟩
      · rename_i hb
        simp only [memWfFrom, Bool.and_eq_true, decide_eq_true_eq]
        exact ⟨⟨h, hb⟩, ⟨by omega, hv⟩, hm⟩
    · split
      · rename_i he
        split
        · exact memWf_mono (by omega) hm
        · rename_i hb
          simp only [memWfFrom, Bool.and_eq_true, decide_eq_true_eq]
          exact ⟨⟨by omega, hb⟩, he ▸ hm⟩
      · simp only [memWfFrom, Bool.and_eq_true, decide_eq_true_eq]
        exact ⟨⟨hx, hv⟩, memWrite_wfFrom a b m (x + 1) (by omega) hm⟩

theorem memWrite_wf {m : Memory} (w : Memory.wf m = true) (a : Nat) (b : Byte) : Memory.wf (memWrite m a b) = true :=
  memWrite_wfFrom a b m 0 (Nat.zero_le a) w

theorem memWriteN_wf : ∀ (bs : List Byte) (m : Memory) (a : Nat), Memory.wf m = true → Memory.wf (memWriteN m a bs) = true
  | [], _, _, w => w
  | b :: bs, m, a, w => memWriteN_wf bs (memWrite m a b) (a + 1) (memWrite_wf w a b)

/-! ### Reading -/

/-- Below the first address that a list can hold, every byte reads as the default. -/
theorem memRead_below {a : Nat} : ∀ {m : Memory} {lo : Nat}, memWfFrom lo m = true → a < lo → memRead m a = memDefault
  | [], _, _, _ => rfl
  | (x, v) :: m, lo, w, h => by
    simp only [memWfFrom, Bool.and_eq_true, decide_eq_true_eq] at w
    unfold memRead
    rw [if_pos (by omega)]

theorem memRead_writeFrom (a : Nat) (b : Byte) (k : Nat) : ∀ (m : Memory) (lo : Nat), memWfFrom lo m = true →
    memRead (memWrite m a b) k = if k = a then b else memRead m k
  | [], _, _ => by
    by_cases hb : b = memDefault
    · simp [memWrite, hb, memRead]
    · simp only [memWrite, hb, if_false, memRead]
      split
      · rw [if_neg (by omega)]
      · rfl
  | (x, v) :: m, lo, w => by
    simp only [memWfFrom, Bool.and_eq_true, decide_eq_true_eq] at w
    obtain ⟨⟨hx, hv⟩, hm⟩ := w
    unfold memWrite
    split
    · rename_i ha
      split
      · rename_i hb
        split
        · rename_i hk
          rw [hk, hb]
          unfold memRead
          rw [if_pos ha]
        · rfl
      · by_cases hk : k = a
        · rw [if_pos hk]
          unfold memRead
          rw [if_neg (by omega), if_pos hk]
        · rw [if_neg hk]
          by_cases hlt : k < a
          · unfold memRead
            rw [if_pos hlt, if_pos (by omega)]
          · conv => lhs; unfold memRead
            rw [if_neg hlt, if_neg hk]
    · split
      · rename_i he
        subst he
        split
        · rename_i hb
          split
          · rename_i hk
            rw [hk, hb]
            exact memRead_below hm (by omega)
          · rename_i hk
            conv => rhs; unfold memRead
            split
            · exact memRead_below hm (by omega)
            · rfl
        · by_cases hk : k = a
          · rw [if_pos hk]
            unfold memRead
            rw [if_neg (by omega), if_pos hk]
          · rw [if_neg hk]
            unfold memRead
            split
            · rfl
            · rfl
      · conv => lhs; unfold memRead
        conv => rhs; unfold memRead
        split
        · rw [if_neg (by omega)]
        · split
          · rw [if_neg (by omega)]
          · exact memRead_writeFrom a b k m (x + 1) hm

/-- A byte written is read back, and every other byte is as before. -/
theorem memRead_write {m : Memory} (w : Memory.wf m = true) (a : Nat) (b : Byte) (k : Nat) :
    memRead (memWrite m a b) k = if k = a then b else memRead m k := memRead_writeFrom a b k m 0 w

/-- Bytes written are read back, and every other byte is as before. -/
theorem memRead_writeN (k : Nat) : ∀ (bs : List Byte) (m : Memory) (a : Nat), Memory.wf m = true →
    memRead (memWriteN m a bs) k = if a ≤ k ∧ k < a + bs.length then bs.getD (k - a) 0 else memRead m k
  | [], m, a, _ => by
    rw [if_neg (by simp only [List.length_nil]; omega)]
    rfl
  | b :: bs, m, a, w => by
    rw [memWriteN, memRead_writeN k bs _ (a + 1) (memWrite_wf w a b), memRead_write w]
    by_cases h1 : a + 1 ≤ k ∧ k < a + 1 + bs.length
    · rw [if_pos h1, if_pos (by simp only [List.length_cons]; omega)]
      obtain ⟨n, hn⟩ : ∃ n, k - a = n + 1 := ⟨k - a - 1, by omega⟩
      rw [hn, List.getD_cons_succ]
      congr 1
      omega
    · rw [if_neg h1]
      by_cases h2 : k = a
      · subst h2
        rw [if_pos rfl, if_pos (by simp only [List.length_cons]; omega), Nat.sub_self]
        rfl
      · rw [if_neg h2, if_neg (by simp only [List.length_cons]; omega)]

/-! ### Cutting and joining -/

theorem memTruncate_wfFrom (n : Nat) : ∀ (m : Memory) (lo : Nat), memWfFrom lo m = true → memWfFrom lo (memTruncate m n) = true
  | [], _, _ => rfl
  | (x, v) :: m, lo, w => by
    simp only [memWfFrom, Bool.and_eq_true, decide_eq_true_eq] at w
    unfold memTruncate
    split
    · simp only [memWfFrom, Bool.and_eq_true, decide_eq_true_eq]
      exact ⟨w.1, memTruncate_wfFrom n m (x + 1) w.2⟩
    · rfl

theorem memTruncate_wf {m : Memory} (w : Memory.wf m = true) (n : Nat) : Memory.wf (memTruncate m n) = true :=
  memTruncate_wfFrom n m 0 w

/-- Every cell of a truncated list lies below the cut. -/
theorem memTruncate_lt (n : Nat) : ∀ (m : Memory), ∀ c ∈ memTruncate m n, c.1 < n
  | [], c, h => by simp [memTruncate] at h
  | (x, v) :: m, c, h => by
    unfold memTruncate at h
    split at h
    · rcases List.mem_cons.mp h with rfl | h
      · assumption
      · exact memTruncate_lt n m c h
    · simp at h

theorem memFrom_wfFrom (n : Nat) : ∀ (m : Memory) (lo : Nat), memWfFrom lo m = true → memWfFrom (max lo n) (memFrom m n) = true
  | [], _, _ => rfl
  | (x, v) :: m, lo, w => by
    simp only [memWfFrom, Bool.and_eq_true, decide_eq_true_eq] at w
    unfold memFrom
    split
    · exact memWf_mono (by omega) (memFrom_wfFrom n m (x + 1) w.2)
    · simp only [memWfFrom, Bool.and_eq_true, decide_eq_true_eq]
      exact ⟨⟨by omega, w.1.2⟩, w.2⟩

/-- Two canonical lists, the second from where the first ends on, joined. -/
theorem memAppend_wfFrom (hi : Nat) {q : Memory} (wq : memWfFrom hi q = true) : ∀ (p : Memory) (lo : Nat), lo ≤ hi →
    memWfFrom lo p = true → (∀ c ∈ p, c.1 < hi) → memWfFrom lo (p ++ q) = true
  | [], _, h, _, _ => memWf_mono h wq
  | (x, v) :: p, lo, _, wp, hp => by
    simp only [memWfFrom, List.cons_append, Bool.and_eq_true, decide_eq_true_eq] at wp ⊢
    exact ⟨wp.1, memAppend_wfFrom hi wq p (x + 1) (hp (x, v) (List.mem_cons_self ..)) wp.2
      fun c hc => hp c (List.mem_cons_of_mem _ hc)⟩

/-- A list counted from another start, up. -/
theorem memShiftUp_wf (a : Nat) : ∀ (m : Memory) (lo : Nat), memWfFrom lo m = true →
    memWfFrom (a + lo) (m.map fun c => (a + c.1, c.2)) = true
  | [], _, _ => rfl
  | (x, v) :: m, lo, w => by
    simp only [memWfFrom, List.map_cons, Bool.and_eq_true, decide_eq_true_eq] at w ⊢
    refine ⟨⟨by omega, w.1.2⟩, ?_⟩
    have := memShiftUp_wf a m (x + 1) w.2
    rwa [← Nat.add_assoc] at this

/-- The same, down. -/
theorem memShiftDown_wf (a : Nat) : ∀ (m : Memory) (lo : Nat), memWfFrom (a + lo) m = true →
    memWfFrom lo (m.map fun c => (c.1 - a, c.2)) = true
  | [], _, _ => rfl
  | (x, v) :: m, lo, w => by
    simp only [memWfFrom, List.map_cons, Bool.and_eq_true, decide_eq_true_eq] at w ⊢
    refine ⟨⟨by omega, w.1.2⟩, ?_⟩
    refine memShiftDown_wf a m (x - a + 1) ?_
    rw [show a + (x - a + 1) = x + 1 by omega]
    exact w.2

theorem memSlice_wf {m : Memory} (w : Memory.wf m = true) (a n : Nat) : Memory.wf (memSlice m a n) = true := by
  have h := memTruncate_wfFrom (a + n) _ _ (memFrom_wfFrom a m 0 w)
  rw [Nat.zero_max] at h
  exact memShiftDown_wf a _ 0 h

theorem memClear_wf {m : Memory} (w : Memory.wf m = true) (a n : Nat) : Memory.wf (memClear m a n) = true := by
  have h := memFrom_wfFrom (a + n) m 0 w
  rw [Nat.zero_max] at h
  exact memAppend_wfFrom (a + n) h _ 0 (Nat.zero_le _) (memTruncate_wf w a)
    fun c hc => by have := memTruncate_lt a m c hc; omega

theorem memPaste_wf {m cells : Memory} (w : Memory.wf m = true) (wc : Memory.wf cells = true) (a n : Nat) :
    Memory.wf (memPaste m a n cells) = true := by
  have h := memFrom_wfFrom (a + n) m 0 w
  rw [Nat.zero_max] at h
  have hs := memShiftUp_wf a _ 0 (memTruncate_wf wc n)
  have hlt : ∀ c ∈ (memTruncate cells n).map fun c => (a + c.1, c.2), c.1 < a + n := by
    intro c hc
    obtain ⟨d, hd, rfl⟩ := List.mem_map.mp hc
    have := memTruncate_lt n cells d hd
    simp only
    omega
  refine memAppend_wfFrom (a + n) h _ 0 (Nat.zero_le _) ?_ ?_
  · exact memAppend_wfFrom a hs _ 0 (Nat.zero_le _) (memTruncate_wf w a) (memTruncate_lt a m)
  · intro c hc
    rcases List.mem_append.mp hc with hc | hc
    · have := memTruncate_lt a m c hc
      omega
    · exact hlt c hc

end Sys2Proof.Machine
end

