-- ==== Sys2Proof/Laws/PerInstr.lean ====
section
/-!
SUPPORT. The family EncodedMajor: the word of an instruction holds the major opcode of its row, with the switch marker clear.
-/

namespace Sys2Proof.Laws.EncodedMajor

/-- The word of an instruction, where it has one, has the major opcode of its row (R46, R55) and SW clear (R47). -/
def Statement (i : Instr) : Prop :=
  ∀ w, encode i = some w → (fMaj w).toNat = i.major ∧ fSw w = false

theorem nop : Statement (.nop) := by
  rintro _ ⟨⟩
  exact ⟨by rw [fMaj_wordG2i]; rfl, fSw_wordG2i ..⟩

theorem trap (i : BitVec 8) : Statement (.trap i) := by
  rintro _ ⟨⟩
  exact ⟨by rw [fMaj_wordG2i]; rfl, fSw_wordG2i ..⟩

theorem tret : Statement (.tret) := by
  rintro _ ⟨⟩
  exact ⟨by rw [fMaj_wordG2i]; rfl, fSw_wordG2i ..⟩

theorem rds (d : RegField) (i : BitVec 8) : Statement (.rds d i) := by
  rintro _ ⟨⟩
  exact ⟨by rw [fMaj_wordG2i]; rfl, fSw_wordG2i ..⟩

theorem wrs (a : RegField) (i : BitVec 8) : Statement (.wrs a i) := by
  rintro _ ⟨⟩
  exact ⟨by rw [fMaj_wordG2i]; rfl, fSw_wordG2i ..⟩

theorem rdclk (d : RegField) : Statement (.rdclk d) := by
  rintro _ ⟨⟩
  exact ⟨by rw [fMaj_wordG2i]; rfl, fSw_wordG2i ..⟩

theorem bkpt (i : BitVec 8) : Statement (.bkpt i) := by
  rintro _ ⟨⟩
  exact ⟨by rw [fMaj_wordG2i]; rfl, fSw_wordG2i ..⟩

theorem ifc (p : BitVec 3) (o : BitVec 18) : Statement (.ifc p o) := by
  rintro _ ⟨⟩
  exact ⟨by rw [fMaj_wordC]; rfl, fSw_wordC ..⟩

theorem elsec (o : BitVec 18) : Statement (.elsec o) := by
  rintro _ ⟨⟩
  exact ⟨by rw [fMaj_wordC]; rfl, fSw_wordC ..⟩

theorem endifc : Statement (.endifc) := by
  rintro _ ⟨⟩
  exact ⟨by rw [fMaj_wordC]; rfl, fSw_wordC ..⟩

theorem loopc (o : BitVec 18) : Statement (.loopc o) := by
  rintro _ ⟨⟩
  exact ⟨by rw [fMaj_wordC]; rfl, fSw_wordC ..⟩

theorem breakc (p : BitVec 3) (d : BitVec 8) : Statement (.breakc p d) := by
  rintro _ ⟨⟩
  exact ⟨by rw [fMaj_wordC]; rfl, fSw_wordC ..⟩

theorem contc (p : BitVec 3) (d : BitVec 8) : Statement (.contc p d) := by
  rintro _ ⟨⟩
  exact ⟨by rw [fMaj_wordC]; rfl, fSw_wordC ..⟩

theorem endl (o : BitVec 18) : Statement (.endl o) := by
  rintro _ ⟨⟩
  exact ⟨by rw [fMaj_wordC]; rfl, fSw_wordC ..⟩

theorem jmp (p : BitVec 3) (o : BitVec 18) : Statement (.jmp p o) := by
  rintro _ ⟨⟩
  exact ⟨by rw [fMaj_wordC]; rfl, fSw_wordC ..⟩

theorem callc (o : BitVec 18) : Statement (.callc o) := by
  rintro _ ⟨⟩
  exact ⟨by rw [fMaj_wordC]; rfl, fSw_wordC ..⟩

theorem retc : Statement (.retc) := by
  rintro _ ⟨⟩
  exact ⟨by rw [fMaj_wordC]; rfl, fSw_wordC ..⟩

theorem exitc (p : BitVec 3) : Statement (.exitc p) := by
  rintro _ ⟨⟩
  exact ⟨by rw [fMaj_wordC]; rfl, fSw_wordC ..⟩

theorem yield : Statement (.yield) := by
  rintro _ ⟨⟩
  exact ⟨by rw [fMaj_wordC]; rfl, fSw_wordC ..⟩

theorem hloop (c : BitVec 10) (l : BitVec 8) : Statement (.hloop c l) := by
  rintro _ ⟨⟩
  exact ⟨by rw [fMaj_wordC]; rfl, fSw_wordC ..⟩

theorem hloops (a : BitVec 5) (l : BitVec 8) : Statement (.hloops a l) := by
  rintro _ ⟨⟩
  exact ⟨by rw [fMaj_wordC]; rfl, fSw_wordC ..⟩

theorem hbrk (p : BitVec 3) : Statement (.hbrk p) := by
  rintro _ ⟨⟩
  exact ⟨by rw [fMaj_wordC]; rfl, fSw_wordC ..⟩

theorem iadd (d a b : RegField) : Statement (.iadd d a b) := by
  rintro _ ⟨⟩
  exact ⟨by rw [fMaj_wordG3]; rfl, fSw_wordG3 ..⟩

theorem isub (d a b : RegField) : Statement (.isub d a b) := by
  rintro _ ⟨⟩
  exact ⟨by rw [fMaj_wordG3]; rfl, fSw_wordG3 ..⟩

theorem imul (d a b : RegField) : Statement (.imul d a b) := by
  rintro _ ⟨⟩
  exact ⟨by rw [fMaj_wordG3]; rfl, fSw_wordG3 ..⟩

theorem imulh (d a b : RegField) : Statement (.imulh d a b) := by
  rintro _ ⟨⟩
  exact ⟨by rw [fMaj_wordG3]; rfl, fSw_wordG3 ..⟩

theorem imulhn (d a b : RegField) : Statement (.imulhn d a b) := by
  rintro _ ⟨⟩
  exact ⟨by rw [fMaj_wordG3]; rfl, fSw_wordG3 ..⟩

theorem imin (d a b : RegField) : Statement (.imin d a b) := by
  rintro _ ⟨⟩
  exact ⟨by rw [fMaj_wordG3]; rfl, fSw_wordG3 ..⟩

theorem imax (d a b : RegField) : Statement (.imax d a b) := by
  rintro _ ⟨⟩
  exact ⟨by rw [fMaj_wordG3]; rfl, fSw_wordG3 ..⟩

theorem nmin (d a b : RegField) : Statement (.nmin d a b) := by
  rintro _ ⟨⟩
  exact ⟨by rw [fMaj_wordG3]; rfl, fSw_wordG3 ..⟩

theorem nmax (d a b : RegField) : Statement (.nmax d a b) := by
  rintro _ ⟨⟩
  exact ⟨by rw [fMaj_wordG3]; rfl, fSw_wordG3 ..⟩

theorem iand (d a b : RegField) : Statement (.iand d a b) := by
  rintro _ ⟨⟩
  exact ⟨by rw [fMaj_wordG3]; rfl, fSw_wordG3 ..⟩

theorem ior (d a b : RegField) : Statement (.ior d a b) := by
  rintro _ ⟨⟩
  exact ⟨by rw [fMaj_wordG3]; rfl, fSw_wordG3 ..⟩

theorem ixor (d a b : RegField) : Statement (.ixor d a b) := by
  rintro _ ⟨⟩
  exact ⟨by rw [fMaj_wordG3]; rfl, fSw_wordG3 ..⟩

theorem andn (d a b : RegField) : Statement (.andn d a b) := by
  rintro _ ⟨⟩
  exact ⟨by rw [fMaj_wordG3]; rfl, fSw_wordG3 ..⟩

theorem shl (d a b : RegField) : Statement (.shl d a b) := by
  rintro _ ⟨⟩
  exact ⟨by rw [fMaj_wordG3]; rfl, fSw_wordG3 ..⟩

theorem shr (d a b : RegField) : Statement (.shr d a b) := by
  rintro _ ⟨⟩
  exact ⟨by rw [fMaj_wordG3]; rfl, fSw_wordG3 ..⟩

theorem sar (d a b : RegField) : Statement (.sar d a b) := by
  rintro _ ⟨⟩
  exact ⟨by rw [fMaj_wordG3]; rfl, fSw_wordG3 ..⟩

theorem iabs (d a : RegField) : Statement (.iabs d a) := by
  rintro _ ⟨⟩
  exact ⟨by rw [fMaj_wordG3]; rfl, fSw_wordG3 ..⟩

theorem ineg (d a : RegField) : Statement (.ineg d a) := by
  rintro _ ⟨⟩
  exact ⟨by rw [fMaj_wordG3]; rfl, fSw_wordG3 ..⟩

theorem inot (d a : RegField) : Statement (.inot d a) := by
  rintro _ ⟨⟩
  exact ⟨by rw [fMaj_wordG3]; rfl, fSw_wordG3 ..⟩

theorem popc (d a : RegField) : Statement (.popc d a) := by
  rintro _ ⟨⟩
  exact ⟨by rw [fMaj_wordG3]; rfl, fSw_wordG3 ..⟩

theorem clz (d a : RegField) : Statement (.clz d a) := by
  rintro _ ⟨⟩
  exact ⟨by rw [fMaj_wordG3]; rfl, fSw_wordG3 ..⟩

theorem brev (d a : RegField) : Statement (.brev d a) := by
  rintro _ ⟨⟩
  exact ⟨by rw [fMaj_wordG3]; rfl, fSw_wordG3 ..⟩

theorem bfe (d a b : RegField) : Statement (.bfe d a b) := by
  rintro _ ⟨⟩
  exact ⟨by rw [fMaj_wordG3]; rfl, fSw_wordG3 ..⟩

theorem bfi (d a b : RegField) : Statement (.bfi d a b) := by
  rintro _ ⟨⟩
  exact ⟨by rw [fMaj_wordG3]; rfl, fSw_wordG3 ..⟩

theorem isel (d a p : RegField) : Statement (.isel d a p) := by
  rintro _ ⟨⟩
  exact ⟨by rw [fMaj_wordG3]; rfl, fSw_wordG3 ..⟩

theorem icmp (c : BitVec 4) (p : BitVec 3) (a b : RegField) : Statement (.icmp c p a b) := by
  rintro _ ⟨⟩
  exact ⟨by rw [fMaj_wordG3]; rfl, fSw_wordG3 ..⟩

theorem movc (d a : RegField) : Statement (.movc d a) := by
  rintro _ ⟨⟩
  exact ⟨by rw [fMaj_wordG3]; rfl, fSw_wordG3 ..⟩

theorem imad (d a b : RegField) : Statement (.imad d a b) := by
  rintro _ ⟨⟩
  exact ⟨by rw [fMaj_wordG3]; rfl, fSw_wordG3 ..⟩

theorem iaddi (d a : RegField) (i : BitVec 8) : Statement (.iaddi d a i) := by
  rintro _ ⟨⟩
  exact ⟨by rw [fMaj_wordG2i]; rfl, fSw_wordG2i ..⟩

theorem andi (d a : RegField) (i : BitVec 8) : Statement (.andi d a i) := by
  rintro _ ⟨⟩
  exact ⟨by rw [fMaj_wordG2i]; rfl, fSw_wordG2i ..⟩

theorem ori (d a : RegField) (i : BitVec 8) : Statement (.ori d a i) := by
  rintro _ ⟨⟩
  exact ⟨by rw [fMaj_wordG2i]; rfl, fSw_wordG2i ..⟩

theorem xori (d a : RegField) (i : BitVec 8) : Statement (.xori d a i) := by
  rintro _ ⟨⟩
  exact ⟨by rw [fMaj_wordG2i]; rfl, fSw_wordG2i ..⟩

theorem shli (d a : RegField) (i : BitVec 8) : Statement (.shli d a i) := by
  rintro _ ⟨⟩
  exact ⟨by rw [fMaj_wordG2i]; rfl, fSw_wordG2i ..⟩

theorem shri (d a : RegField) (i : BitVec 8) : Statement (.shri d a i) := by
  rintro _ ⟨⟩
  exact ⟨by rw [fMaj_wordG2i]; rfl, fSw_wordG2i ..⟩

theorem sari (d a : RegField) (i : BitVec 8) : Statement (.sari d a i) := by
  rintro _ ⟨⟩
  exact ⟨by rw [fMaj_wordG2i]; rfl, fSw_wordG2i ..⟩

theorem icmpi (c : BitVec 4) (p : BitVec 3) (a : RegField) (i : BitVec 8) : Statement (.icmpi c p a i) := by
  rintro _ ⟨⟩
  exact ⟨by rw [fMaj_wordG2i]; rfl, fSw_wordG2i ..⟩

theorem movi (d : RegField) (i : BitVec 18) : Statement (.movi d i) := by
  rintro _ ⟨⟩
  exact ⟨by rw [fMaj_wordGi]; rfl, fSw_wordGi ..⟩

theorem aadd (d a b : RegField) : Statement (.aadd d a b) := by
  rintro _ ⟨⟩
  exact ⟨by rw [fMaj_wordG3]; rfl, fSw_wordG3 ..⟩

theorem asub (d a b : RegField) : Statement (.asub d a b) := by
  rintro _ ⟨⟩
  exact ⟨by rw [fMaj_wordG3]; rfl, fSw_wordG3 ..⟩

theorem amov (d a b : RegField) : Statement (.amov d a b) := by
  rintro _ ⟨⟩
  exact ⟨by rw [fMaj_wordG3]; rfl, fSw_wordG3 ..⟩

theorem acvt (d a k : RegField) : Statement (.acvt d a k) := by
  rintro _ ⟨⟩
  exact ⟨by rw [fMaj_wordG3]; rfl, fSw_wordG3 ..⟩

theorem acmp (c : BitVec 4) (p : BitVec 3) (a b : RegField) : Statement (.acmp c p a b) := by
  rintro _ ⟨⟩
  exact ⟨by rw [fMaj_wordG3]; rfl, fSw_wordG3 ..⟩

theorem slice (d a k : RegField) : Statement (.slice d a k) := by
  rintro _ ⟨⟩
  exact ⟨by rw [fMaj_wordG3]; rfl, fSw_wordG3 ..⟩

theorem ashladd (d a b : RegField) (h : BitVec 3) : Statement (.ashladd d a b h) := by
  rintro _ ⟨⟩
  exact ⟨by rw [fMaj_wordG3]; rfl, fSw_wordG3 ..⟩

theorem fadd (d a b : RegField) : Statement (.fadd d a b) := by
  rintro _ ⟨⟩
  exact ⟨by rw [fMaj_wordG3]; rfl, fSw_wordG3 ..⟩

theorem fsub (d a b : RegField) : Statement (.fsub d a b) := by
  rintro _ ⟨⟩
  exact ⟨by rw [fMaj_wordG3]; rfl, fSw_wordG3 ..⟩

theorem fmul (d a b : RegField) : Statement (.fmul d a b) := by
  rintro _ ⟨⟩
  exact ⟨by rw [fMaj_wordG3]; rfl, fSw_wordG3 ..⟩

theorem ffma (d a b : RegField) : Statement (.ffma d a b) := by
  rintro _ ⟨⟩
  exact ⟨by rw [fMaj_wordG3]; rfl, fSw_wordG3 ..⟩

theorem fmin (d a b : RegField) : Statement (.fmin d a b) := by
  rintro _ ⟨⟩
  exact ⟨by rw [fMaj_wordG3]; rfl, fSw_wordG3 ..⟩

theorem fmax (d a b : RegField) : Statement (.fmax d a b) := by
  rintro _ ⟨⟩
  exact ⟨by rw [fMaj_wordG3]; rfl, fSw_wordG3 ..⟩

theorem fmint (d a b : RegField) : Statement (.fmint d a b) := by
  rintro _ ⟨⟩
  exact ⟨by rw [fMaj_wordG3]; rfl, fSw_wordG3 ..⟩

theorem fmaxt (d a b : RegField) : Statement (.fmaxt d a b) := by
  rintro _ ⟨⟩
  exact ⟨by rw [fMaj_wordG3]; rfl, fSw_wordG3 ..⟩

theorem fabs (d a : RegField) : Statement (.fabs d a) := by
  rintro _ ⟨⟩
  exact ⟨by rw [fMaj_wordG3]; rfl, fSw_wordG3 ..⟩

theorem fneg (d a : RegField) : Statement (.fneg d a) := by
  rintro _ ⟨⟩
  exact ⟨by rw [fMaj_wordG3]; rfl, fSw_wordG3 ..⟩

theorem fcmp (c : BitVec 4) (p : BitVec 3) (a b : RegField) : Statement (.fcmp c p a b) := by
  rintro _ ⟨⟩
  exact ⟨by rw [fMaj_wordG3]; rfl, fSw_wordG3 ..⟩

theorem fclass (d a : RegField) : Statement (.fclass d a) := by
  rintro _ ⟨⟩
  exact ⟨by rw [fMaj_wordG3]; rfl, fSw_wordG3 ..⟩

theorem fscale (d a b : RegField) : Statement (.fscale d a b) := by
  rintro _ ⟨⟩
  exact ⟨by rw [fMaj_wordG3]; rfl, fSw_wordG3 ..⟩

theorem fsel (d a p : RegField) : Statement (.fsel d a p) := by
  rintro _ ⟨⟩
  exact ⟨by rw [fMaj_wordG3]; rfl, fSw_wordG3 ..⟩

theorem hadd2 (d a b : RegField) (f : BitVec 1) : Statement (.hadd2 d a b f) := by
  rintro _ ⟨⟩
  exact ⟨by rw [fMaj_wordG3]; rfl, fSw_wordG3 ..⟩

theorem hsub2 (d a b : RegField) (f : BitVec 1) : Statement (.hsub2 d a b f) := by
  rintro _ ⟨⟩
  exact ⟨by rw [fMaj_wordG3]; rfl, fSw_wordG3 ..⟩

theorem hmul2 (d a b : RegField) (f : BitVec 1) : Statement (.hmul2 d a b f) := by
  rintro _ ⟨⟩
  exact ⟨by rw [fMaj_wordG3]; rfl, fSw_wordG3 ..⟩

theorem hfma2 (d a b : RegField) (f : BitVec 1) : Statement (.hfma2 d a b f) := by
  rintro _ ⟨⟩
  exact ⟨by rw [fMaj_wordG3]; rfl, fSw_wordG3 ..⟩

theorem hmax2 (d a b : RegField) (f : BitVec 1) : Statement (.hmax2 d a b f) := by
  rintro _ ⟨⟩
  exact ⟨by rw [fMaj_wordG3]; rfl, fSw_wordG3 ..⟩

theorem hmin2 (d a b : RegField) (f : BitVec 1) : Statement (.hmin2 d a b f) := by
  rintro _ ⟨⟩
  exact ⟨by rw [fMaj_wordG3]; rfl, fSw_wordG3 ..⟩

theorem rcp (d a : RegField) : Statement (.rcp d a) := by
  rintro _ ⟨⟩
  exact ⟨by rw [fMaj_wordG3]; rfl, fSw_wordG3 ..⟩

theorem rsq (d a : RegField) : Statement (.rsq d a) := by
  rintro _ ⟨⟩
  exact ⟨by rw [fMaj_wordG3]; rfl, fSw_wordG3 ..⟩

theorem sqrtc (d a : RegField) : Statement (.sqrtc d a) := by
  rintro _ ⟨⟩
  exact ⟨by rw [fMaj_wordG3]; rfl, fSw_wordG3 ..⟩

theorem exp2c (d a : RegField) : Statement (.exp2c d a) := by
  rintro _ ⟨⟩
  exact ⟨by rw [fMaj_wordG3]; rfl, fSw_wordG3 ..⟩

theorem log2c (d a : RegField) : Statement (.log2c d a) := by
  rintro _ ⟨⟩
  exact ⟨by rw [fMaj_wordG3]; rfl, fSw_wordG3 ..⟩

theorem sinc (d a : RegField) : Statement (.sinc d a) := by
  rintro _ ⟨⟩
  exact ⟨by rw [fMaj_wordG3]; rfl, fSw_wordG3 ..⟩

theorem cosc (d a : RegField) : Statement (.cosc d a) := by
  rintro _ ⟨⟩
  exact ⟨by rw [fMaj_wordG3]; rfl, fSw_wordG3 ..⟩

theorem tanhc (d a : RegField) : Statement (.tanhc d a) := by
  rintro _ ⟨⟩
  exact ⟨by rw [fMaj_wordG3]; rfl, fSw_wordG3 ..⟩

theorem erfc (d a : RegField) : Statement (.erfc d a) := by
  rintro _ ⟨⟩
  exact ⟨by rw [fMaj_wordG3]; rfl, fSw_wordG3 ..⟩

theorem cvt (d a : RegField) : Statement (.cvt d a) := by
  rintro _ ⟨⟩
  exact ⟨by rw [fMaj_wordG3]; rfl, fSw_wordG3 ..⟩

theorem cvtsr (d a b : RegField) : Statement (.cvtsr d a b) := by
  rintro _ ⟨⟩
  exact ⟨by rw [fMaj_wordG3]; rfl, fSw_wordG3 ..⟩

theorem quant (d a b : RegField) : Statement (.quant d a b) := by
  rintro _ ⟨⟩
  exact ⟨by rw [fMaj_wordG3]; rfl, fSw_wordG3 ..⟩

theorem deq (d a b : RegField) : Statement (.deq d a b) := by
  rintro _ ⟨⟩
  exact ⟨by rw [fMaj_wordG3]; rfl, fSw_wordG3 ..⟩

theorem pack (d a b : RegField) : Statement (.pack d a b) := by
  rintro _ ⟨⟩
  exact ⟨by rw [fMaj_wordG3]; rfl, fSw_wordG3 ..⟩

theorem unpack (d a k : RegField) : Statement (.unpack d a k) := by
  rintro _ ⟨⟩
  exact ⟨by rw [fMaj_wordG3]; rfl, fSw_wordG3 ..⟩

theorem cbld (i a : RegField) : Statement (.cbld i a) := by
  rintro _ ⟨⟩
  exact ⟨by rw [fMaj_wordG3]; rfl, fSw_wordG3 ..⟩

theorem tokey (d a : RegField) : Statement (.tokey d a) := by
  rintro _ ⟨⟩
  exact ⟨by rw [fMaj_wordG3]; rfl, fSw_wordG3 ..⟩

theorem qxch (d a m : RegField) : Statement (.qxch d a m) := by
  rintro _ ⟨⟩
  exact ⟨by rw [fMaj_wordG3]; rfl, fSw_wordG3 ..⟩

theorem qbc (d a k : RegField) : Statement (.qbc d a k) := by
  rintro _ ⟨⟩
  exact ⟨by rw [fMaj_wordG3]; rfl, fSw_wordG3 ..⟩

theorem shfl (d a b : RegField) : Statement (.shfl d a b) := by
  rintro _ ⟨⟩
  exact ⟨by rw [fMaj_wordG3]; rfl, fSw_wordG3 ..⟩

theorem shflDn (d a : RegField) (o : BitVec 5) : Statement (.shflDn d a o) := by
  rintro _ ⟨⟩
  exact ⟨by rw [fMaj_wordG3]; rfl, fSw_wordG3 ..⟩

theorem shflUp (d a : RegField) (o : BitVec 5) : Statement (.shflUp d a o) := by
  rintro _ ⟨⟩
  exact ⟨by rw [fMaj_wordG3]; rfl, fSw_wordG3 ..⟩

theorem shflXor (d a : RegField) (o : BitVec 5) : Statement (.shflXor d a o) := by
  rintro _ ⟨⟩
  exact ⟨by rw [fMaj_wordG3]; rfl, fSw_wordG3 ..⟩

theorem sred (d a : RegField) (o : BitVec 3) : Statement (.sred d a o) := by
  rintro _ ⟨⟩
  exact ⟨by rw [fMaj_wordG3]; rfl, fSw_wordG3 ..⟩

theorem sscan (d a : RegField) (x : BitVec 1) (o : BitVec 3) : Statement (.sscan d a x o) := by
  rintro _ ⟨⟩
  exact ⟨by rw [fMaj_wordG3]; rfl, fSw_wordG3 ..⟩

theorem vote (d p b : RegField) : Statement (.vote d p b) := by
  rintro _ ⟨⟩
  exact ⟨by rw [fMaj_wordG3]; rfl, fSw_wordG3 ..⟩

theorem tred (d a : RegField) (o : BitVec 3) : Statement (.tred d a o) := by
  rintro _ ⟨⟩
  exact ⟨by rw [fMaj_wordG3]; rfl, fSw_wordG3 ..⟩

theorem tbc (d a b : RegField) : Statement (.tbc d a b) := by
  rintro _ ⟨⟩
  exact ⟨by rw [fMaj_wordG3]; rfl, fSw_wordG3 ..⟩

theorem matchx (d a b : RegField) : Statement (.matchx d a b) := by
  rintro _ ⟨⟩
  exact ⟨by rw [fMaj_wordG3]; rfl, fSw_wordG3 ..⟩

theorem ld (d a : RegField) (o : BitVec 4) (z : BitVec 3) (x : BitVec 1) : Statement (.ld d a o z x) := by
  rintro _ ⟨⟩
  exact ⟨by rw [fMaj_wordM]; rfl, fSw_wordM ..⟩

theorem ldAcq (d a : RegField) (o : BitVec 4) (z : BitVec 3) (x : BitVec 1) : Statement (.ldAcq d a o z x) := by
  rintro _ ⟨⟩
  exact ⟨by rw [fMaj_wordM]; rfl, fSw_wordM ..⟩

theorem ldPoll (d a : RegField) (o : BitVec 4) (z : BitVec 1) : Statement (.ldPoll d a o z) := by
  rintro _ ⟨⟩
  exact ⟨by rw [fMaj_wordM]; rfl, fSw_wordM ..⟩

theorem pref (a : RegField) (o : BitVec 4) : Statement (.pref a o) := by
  rintro _ ⟨⟩
  exact ⟨by rw [fMaj_wordM]; rfl, fSw_wordM ..⟩

theorem ldq (q : BitVec 4) (a : RegField) (o : BitVec 4) (z : BitVec 3) : Statement (.ldq q a o z) := by
  rintro _ ⟨⟩
  exact ⟨by rw [fMaj_wordM]; rfl, fSw_wordM ..⟩

theorem ldqg (q : BitVec 4) (a : RegField) (o : BitVec 4) (z : BitVec 3) : Statement (.ldqg q a o z) := by
  rintro _ ⟨⟩
  exact ⟨by rw [fMaj_wordM]; rfl, fSw_wordM ..⟩

theorem st (d a : RegField) (o : BitVec 4) (z : BitVec 3) : Statement (.st d a o z) := by
  rintro _ ⟨⟩
  exact ⟨by rw [fMaj_wordM]; rfl, fSw_wordM ..⟩

theorem stRel (d a : RegField) (o : BitVec 4) (z : BitVec 3) : Statement (.stRel d a o z) := by
  rintro _ ⟨⟩
  exact ⟨by rw [fMaj_wordM]; rfl, fSw_wordM ..⟩

theorem stq (q : BitVec 4) (a : RegField) (o : BitVec 4) (z : BitVec 3) : Statement (.stq q a o z) := by
  rintro _ ⟨⟩
  exact ⟨by rw [fMaj_wordM]; rfl, fSw_wordM ..⟩

theorem tld (d a : RegField) (t : BitVec 4) : Statement (.tld d a t) := by
  rintro _ ⟨⟩
  exact ⟨by rw [fMaj_wordM]; rfl, fSw_wordM ..⟩

theorem tst (d a : RegField) (t : BitVec 4) : Statement (.tst d a t) := by
  rintro _ ⟨⟩
  exact ⟨by rw [fMaj_wordM]; rfl, fSw_wordM ..⟩

theorem tldr (d a : RegField) (t : BitVec 4) : Statement (.tldr d a t) := by
  rintro _ ⟨⟩
  exact ⟨by rw [fMaj_wordM]; rfl, fSw_wordM ..⟩

theorem tstr (d a : RegField) (t : BitVec 4) : Statement (.tstr d a t) := by
  rintro _ ⟨⟩
  exact ⟨by rw [fMaj_wordM]; rfl, fSw_wordM ..⟩

theorem tbind (a : RegField) (t : BitVec 4) : Statement (.tbind a t) := by
  rintro _ ⟨⟩
  exact ⟨by rw [fMaj_wordM]; rfl, fSw_wordM ..⟩

theorem atomAdd (d a : RegField) (o : BitVec 2) (z : BitVec 3) : Statement (.atomAdd d a o z) := by
  rintro _ ⟨⟩
  exact ⟨by rw [fMaj_wordM]; rfl, fSw_wordM ..⟩

theorem atomMinI (d a : RegField) (o : BitVec 2) (z : BitVec 3) : Statement (.atomMinI d a o z) := by
  rintro _ ⟨⟩
  exact ⟨by rw [fMaj_wordM]; rfl, fSw_wordM ..⟩

theorem atomMaxI (d a : RegField) (o : BitVec 2) (z : BitVec 3) : Statement (.atomMaxI d a o z) := by
  rintro _ ⟨⟩
  exact ⟨by rw [fMaj_wordM]; rfl, fSw_wordM ..⟩

theorem atomMinN (d a : RegField) (o : BitVec 2) (z : BitVec 3) : Statement (.atomMinN d a o z) := by
  rintro _ ⟨⟩
  exact ⟨by rw [fMaj_wordM]; rfl, fSw_wordM ..⟩

theorem atomMaxN (d a : RegField) (o : BitVec 2) (z : BitVec 3) : Statement (.atomMaxN d a o z) := by
  rintro _ ⟨⟩
  exact ⟨by rw [fMaj_wordM]; rfl, fSw_wordM ..⟩

theorem atomAnd (d a : RegField) (o : BitVec 2) (z : BitVec 3) : Statement (.atomAnd d a o z) := by
  rintro _ ⟨⟩
  exact ⟨by rw [fMaj_wordM]; rfl, fSw_wordM ..⟩

theorem atomOr (d a : RegField) (o : BitVec 2) (z : BitVec 3) : Statement (.atomOr d a o z) := by
  rintro _ ⟨⟩
  exact ⟨by rw [fMaj_wordM]; rfl, fSw_wordM ..⟩

theorem atomXor (d a : RegField) (o : BitVec 2) (z : BitVec 3) : Statement (.atomXor d a o z) := by
  rintro _ ⟨⟩
  exact ⟨by rw [fMaj_wordM]; rfl, fSw_wordM ..⟩

theorem atomSwap (d a : RegField) (o : BitVec 2) (z : BitVec 3) : Statement (.atomSwap d a o z) := by
  rintro _ ⟨⟩
  exact ⟨by rw [fMaj_wordM]; rfl, fSw_wordM ..⟩

theorem cas (d a : RegField) (o : BitVec 2) (z : BitVec 3) : Statement (.cas d a o z) := by
  rintro _ ⟨⟩
  exact ⟨by rw [fMaj_wordM]; rfl, fSw_wordM ..⟩

theorem atomFadd (d a : RegField) (o : BitVec 2) : Statement (.atomFadd d a o) := by
  rintro _ ⟨⟩
  exact ⟨by rw [fMaj_wordM]; rfl, fSw_wordM ..⟩

theorem redAdd (d a : RegField) (o : BitVec 2) (z : BitVec 3) : Statement (.redAdd d a o z) := by
  rintro _ ⟨⟩
  exact ⟨by rw [fMaj_wordM]; rfl, fSw_wordM ..⟩

theorem redMinI (d a : RegField) (o : BitVec 2) (z : BitVec 3) : Statement (.redMinI d a o z) := by
  rintro _ ⟨⟩
  exact ⟨by rw [fMaj_wordM]; rfl, fSw_wordM ..⟩

theorem redMaxI (d a : RegField) (o : BitVec 2) (z : BitVec 3) : Statement (.redMaxI d a o z) := by
  rintro _ ⟨⟩
  exact ⟨by rw [fMaj_wordM]; rfl, fSw_wordM ..⟩

theorem redMinN (d a : RegField) (o : BitVec 2) (z : BitVec 3) : Statement (.redMinN d a o z) := by
  rintro _ ⟨⟩
  exact ⟨by rw [fMaj_wordM]; rfl, fSw_wordM ..⟩

theorem redMaxN (d a : RegField) (o : BitVec 2) (z : BitVec 3) : Statement (.redMaxN d a o z) := by
  rintro _ ⟨⟩
  exact ⟨by rw [fMaj_wordM]; rfl, fSw_wordM ..⟩

theorem redAnd (d a : RegField) (o : BitVec 2) (z : BitVec 3) : Statement (.redAnd d a o z) := by
  rintro _ ⟨⟩
  exact ⟨by rw [fMaj_wordM]; rfl, fSw_wordM ..⟩

theorem redOr (d a : RegField) (o : BitVec 2) (z : BitVec 3) : Statement (.redOr d a o z) := by
  rintro _ ⟨⟩
  exact ⟨by rw [fMaj_wordM]; rfl, fSw_wordM ..⟩

theorem redXor (d a : RegField) (o : BitVec 2) (z : BitVec 3) : Statement (.redXor d a o z) := by
  rintro _ ⟨⟩
  exact ⟨by rw [fMaj_wordM]; rfl, fSw_wordM ..⟩

theorem redFadd (d a : RegField) (o : BitVec 2) : Statement (.redFadd d a o) := by
  rintro _ ⟨⟩
  exact ⟨by rw [fMaj_wordM]; rfl, fSw_wordM ..⟩

theorem atomtAdd (d a : RegField) (t : BitVec 4) : Statement (.atomtAdd d a t) := by
  rintro _ ⟨⟩
  exact ⟨by rw [fMaj_wordM]; rfl, fSw_wordM ..⟩

theorem atomtMinI (d a : RegField) (t : BitVec 4) : Statement (.atomtMinI d a t) := by
  rintro _ ⟨⟩
  exact ⟨by rw [fMaj_wordM]; rfl, fSw_wordM ..⟩

theorem atomtMaxI (d a : RegField) (t : BitVec 4) : Statement (.atomtMaxI d a t) := by
  rintro _ ⟨⟩
  exact ⟨by rw [fMaj_wordM]; rfl, fSw_wordM ..⟩

theorem atomtMinN (d a : RegField) (t : BitVec 4) : Statement (.atomtMinN d a t) := by
  rintro _ ⟨⟩
  exact ⟨by rw [fMaj_wordM]; rfl, fSw_wordM ..⟩

theorem atomtMaxN (d a : RegField) (t : BitVec 4) : Statement (.atomtMaxN d a t) := by
  rintro _ ⟨⟩
  exact ⟨by rw [fMaj_wordM]; rfl, fSw_wordM ..⟩

theorem atomtAnd (d a : RegField) (t : BitVec 4) : Statement (.atomtAnd d a t) := by
  rintro _ ⟨⟩
  exact ⟨by rw [fMaj_wordM]; rfl, fSw_wordM ..⟩

theorem atomtOr (d a : RegField) (t : BitVec 4) : Statement (.atomtOr d a t) := by
  rintro _ ⟨⟩
  exact ⟨by rw [fMaj_wordM]; rfl, fSw_wordM ..⟩

theorem atomtXor (d a : RegField) (t : BitVec 4) : Statement (.atomtXor d a t) := by
  rintro _ ⟨⟩
  exact ⟨by rw [fMaj_wordM]; rfl, fSw_wordM ..⟩

theorem atomtSwap (d a : RegField) (t : BitVec 4) : Statement (.atomtSwap d a t) := by
  rintro _ ⟨⟩
  exact ⟨by rw [fMaj_wordM]; rfl, fSw_wordM ..⟩

theorem atomtFadd (d a : RegField) (t : BitVec 4) : Statement (.atomtFadd d a t) := by
  rintro _ ⟨⟩
  exact ⟨by rw [fMaj_wordM]; rfl, fSw_wordM ..⟩

theorem atomtMaxpk (d a : RegField) (t : BitVec 4) : Statement (.atomtMaxpk d a t) := by
  rintro _ ⟨⟩
  exact ⟨by rw [fMaj_wordM]; rfl, fSw_wordM ..⟩

theorem castt (d a : RegField) (t : BitVec 4) : Statement (.castt d a t) := by
  rintro _ ⟨⟩
  exact ⟨by rw [fMaj_wordM]; rfl, fSw_wordM ..⟩

theorem fenceL : Statement (.fenceL) := by
  rintro _ ⟨⟩
  exact ⟨by rw [fMaj_wordG3]; rfl, fSw_wordG3 ..⟩

theorem fenceH : Statement (.fenceH) := by
  rintro _ ⟨⟩
  exact ⟨by rw [fMaj_wordG3]; rfl, fSw_wordG3 ..⟩

theorem fenceE : Statement (.fenceE) := by
  rintro _ ⟨⟩
  exact ⟨by rw [fMaj_wordG3]; rfl, fSw_wordG3 ..⟩

theorem acqc : Statement (.acqc) := by
  rintro _ ⟨⟩
  exact ⟨by rw [fMaj_wordG3]; rfl, fSw_wordG3 ..⟩

theorem relc : Statement (.relc) := by
  rintro _ ⟨⟩
  exact ⟨by rw [fMaj_wordG3]; rfl, fSw_wordG3 ..⟩

theorem bar : Statement (.bar) := by
  rintro _ ⟨⟩
  exact ⟨by rw [fMaj_wordG2i]; rfl, fSw_wordG2i ..⟩

theorem barE : Statement (.barE) := by
  rintro _ ⟨⟩
  exact ⟨by rw [fMaj_wordG2i]; rfl, fSw_wordG2i ..⟩

theorem barCarve (d a : RegField) : Statement (.barCarve d a) := by
  rintro _ ⟨⟩
  exact ⟨by rw [fMaj_wordG2i]; rfl, fSw_wordG2i ..⟩

theorem boinit (d a : RegField) (b : BitVec 8) : Statement (.boinit d a b) := by
  rintro _ ⟨⟩
  exact ⟨by rw [fMaj_wordG2i]; rfl, fSw_wordG2i ..⟩

theorem boexp (d a : RegField) (b : BitVec 8) : Statement (.boexp d a b) := by
  rintro _ ⟨⟩
  exact ⟨by rw [fMaj_wordG2i]; rfl, fSw_wordG2i ..⟩

theorem boarr (d a : RegField) (b : BitVec 8) : Statement (.boarr d a b) := by
  rintro _ ⟨⟩
  exact ⟨by rw [fMaj_wordG2i]; rfl, fSw_wordG2i ..⟩

theorem bowait (a : RegField) (b : BitVec 8) : Statement (.bowait a b) := by
  rintro _ ⟨⟩
  exact ⟨by rw [fMaj_wordG2i]; rfl, fSw_wordG2i ..⟩

theorem botest (d a : RegField) (b : BitVec 8) : Statement (.botest d a b) := by
  rintro _ ⟨⟩
  exact ⟨by rw [fMaj_wordG2i]; rfl, fSw_wordG2i ..⟩

theorem qpush (d : RegField) (q : BitVec 4) (i : BitVec 8) : Statement (.qpush d q i) := by
  rintro _ ⟨⟩
  exact ⟨by rw [fMaj_wordQ]; rfl, fSw_wordQ ..⟩

theorem qpop (d : RegField) (q : BitVec 4) (i : BitVec 8) : Statement (.qpop d q i) := by
  rintro _ ⟨⟩
  exact ⟨by rw [fMaj_wordQ]; rfl, fSw_wordQ ..⟩

theorem qtry (d : RegField) (q : BitVec 4) (i : BitVec 8) : Statement (.qtry d q i) := by
  rintro _ ⟨⟩
  exact ⟨by rw [fMaj_wordQ]; rfl, fSw_wordQ ..⟩

theorem qpeek (d : RegField) (q : BitVec 4) (i : BitVec 8) : Statement (.qpeek d q i) := by
  rintro _ ⟨⟩
  exact ⟨by rw [fMaj_wordQ]; rfl, fSw_wordQ ..⟩

theorem qmarkSeg (d : RegField) (q : BitVec 4) (i : BitVec 8) : Statement (.qmarkSeg d q i) := by
  rintro _ ⟨⟩
  exact ⟨by rw [fMaj_wordQ]; rfl, fSw_wordQ ..⟩

theorem qmarkEos (q : BitVec 4) (i : BitVec 8) : Statement (.qmarkEos q i) := by
  rintro _ ⟨⟩
  exact ⟨by rw [fMaj_wordQ]; rfl, fSw_wordQ ..⟩

theorem qclose (q : BitVec 4) : Statement (.qclose q) := by
  rintro _ ⟨⟩
  exact ⟨by rw [fMaj_wordQ]; rfl, fSw_wordQ ..⟩

theorem qflush (d : RegField) (q : BitVec 4) : Statement (.qflush d q) := by
  rintro _ ⟨⟩
  exact ⟨by rw [fMaj_wordQ]; rfl, fSw_wordQ ..⟩

theorem qstat (d : RegField) (q : BitVec 4) (k : BitVec 8) : Statement (.qstat d q k) := by
  rintro _ ⟨⟩
  exact ⟨by rw [fMaj_wordQ]; rfl, fSw_wordQ ..⟩

theorem cpy (a b : RegField) : Statement (.cpy a b) := by
  rintro _ ⟨⟩
  exact ⟨by rw [fMaj_wordG3]; rfl, fSw_wordG3 ..⟩

theorem cpym (d a b : RegField) : Statement (.cpym d a b) := by
  rintro _ ⟨⟩
  exact ⟨by rw [fMaj_wordG3]; rfl, fSw_wordG3 ..⟩

theorem cpys (a b : RegField) : Statement (.cpys a b) := by
  rintro _ ⟨⟩
  exact ⟨by rw [fMaj_wordG3]; rfl, fSw_wordG3 ..⟩

theorem cbatch (d : RegField) : Statement (.cbatch d) := by
  rintro _ ⟨⟩
  exact ⟨by rw [fMaj_wordG3]; rfl, fSw_wordG3 ..⟩

theorem cwait (d a : RegField) : Statement (.cwait d a) := by
  rintro _ ⟨⟩
  exact ⟨by rw [fMaj_wordG3]; rfl, fSw_wordG3 ..⟩

theorem hdef (d a b : RegField) : Statement (.hdef d a b) := by
  rintro _ ⟨⟩
  exact ⟨by rw [fMaj_wordG3]; rfl, fSw_wordG3 ..⟩

theorem fetch (t a b : RegField) : Statement (.fetch t a b) := by
  rintro _ ⟨⟩
  exact ⟨by rw [fMaj_wordG3]; rfl, fSw_wordG3 ..⟩

theorem fetchx (t a b : RegField) : Statement (.fetchx t a b) := by
  rintro _ ⟨⟩
  exact ⟨by rw [fMaj_wordG3]; rfl, fSw_wordG3 ..⟩

theorem finv (d b : RegField) : Statement (.finv d b) := by
  rintro _ ⟨⟩
  exact ⟨by rw [fMaj_wordG3]; rfl, fSw_wordG3 ..⟩

theorem mtask (d a : RegField) : Statement (.mtask d a) := by
  rintro _ ⟨⟩
  exact ⟨by rw [fMaj_wordG3]; rfl, fSw_wordG3 ..⟩

theorem mwait (d a : RegField) : Statement (.mwait d a) := by
  rintro _ ⟨⟩
  exact ⟨by rw [fMaj_wordG3]; rfl, fSw_wordG3 ..⟩

theorem mstat (d a k : RegField) : Statement (.mstat d a k) := by
  rintro _ ⟨⟩
  exact ⟨by rw [fMaj_wordG3]; rfl, fSw_wordG3 ..⟩

theorem mcancel (d a : RegField) : Statement (.mcancel d a) := by
  rintro _ ⟨⟩
  exact ⟨by rw [fMaj_wordG3]; rfl, fSw_wordG3 ..⟩

theorem wstore (d a : RegField) (l : BitVec 3) : Statement (.wstore d a l) := by
  rintro _ ⟨⟩
  exact ⟨by rw [fMaj_wordG3]; rfl, fSw_wordG3 ..⟩

theorem wrec (d a : RegField) : Statement (.wrec d a) := by
  rintro _ ⟨⟩
  exact ⟨by rw [fMaj_wordG3]; rfl, fSw_wordG3 ..⟩

theorem wtag (d a : RegField) : Statement (.wtag d a) := by
  rintro _ ⟨⟩
  exact ⟨by rw [fMaj_wordG3]; rfl, fSw_wordG3 ..⟩

theorem wth (d a : RegField) : Statement (.wth d a) := by
  rintro _ ⟨⟩
  exact ⟨by rw [fMaj_wordG3]; rfl, fSw_wordG3 ..⟩

theorem tvadd (d a b : RegField) : Statement (.tvadd d a b) := by
  rintro _ ⟨⟩
  exact ⟨by rw [fMaj_wordG3]; rfl, fSw_wordG3 ..⟩

theorem tvsub (d a b : RegField) : Statement (.tvsub d a b) := by
  rintro _ ⟨⟩
  exact ⟨by rw [fMaj_wordG3]; rfl, fSw_wordG3 ..⟩

theorem tvmulc (d a b : RegField) : Statement (.tvmulc d a b) := by
  rintro _ ⟨⟩
  exact ⟨by rw [fMaj_wordG3]; rfl, fSw_wordG3 ..⟩

theorem tvaxpy (d a b : RegField) : Statement (.tvaxpy d a b) := by
  rintro _ ⟨⟩
  exact ⟨by rw [fMaj_wordG3]; rfl, fSw_wordG3 ..⟩

theorem tvbias (d a b : RegField) : Statement (.tvbias d a b) := by
  rintro _ ⟨⟩
  exact ⟨by rw [fMaj_wordG3]; rfl, fSw_wordG3 ..⟩

theorem tvact (d a : RegField) (k : BitVec 3) : Statement (.tvact d a k) := by
  rintro _ ⟨⟩
  exact ⟨by rw [fMaj_wordG3]; rfl, fSw_wordG3 ..⟩

theorem tvnorm (d a b : RegField) : Statement (.tvnorm d a b) := by
  rintro _ ⟨⟩
  exact ⟨by rw [fMaj_wordG3]; rfl, fSw_wordG3 ..⟩

theorem tvnormRms (d a b : RegField) : Statement (.tvnormRms d a b) := by
  rintro _ ⟨⟩
  exact ⟨by rw [fMaj_wordG3]; rfl, fSw_wordG3 ..⟩

theorem tvsmax (d a b : RegField) : Statement (.tvsmax d a b) := by
  rintro _ ⟨⟩
  exact ⟨by rw [fMaj_wordG3]; rfl, fSw_wordG3 ..⟩

theorem tvcvt (d a : RegField) : Statement (.tvcvt d a) := by
  rintro _ ⟨⟩
  exact ⟨by rw [fMaj_wordG3]; rfl, fSw_wordG3 ..⟩

theorem treg (d a t : RegField) : Statement (.treg d a t) := by
  rintro _ ⟨⟩
  exact ⟨by rw [fMaj_wordG3]; rfl, fSw_wordG3 ..⟩

theorem tdereg (d t : RegField) : Statement (.tdereg d t) := by
  rintro _ ⟨⟩
  exact ⟨by rw [fMaj_wordG3]; rfl, fSw_wordG3 ..⟩

theorem tmove (d b t : RegField) : Statement (.tmove d b t) := by
  rintro _ ⟨⟩
  exact ⟨by rw [fMaj_wordG3]; rfl, fSw_wordG3 ..⟩

theorem solicit (d a : RegField) : Statement (.solicit d a) := by
  rintro _ ⟨⟩
  exact ⟨by rw [fMaj_wordG3]; rfl, fSw_wordG3 ..⟩

theorem respond (a : RegField) : Statement (.respond a) := by
  rintro _ ⟨⟩
  exact ⟨by rw [fMaj_wordG3]; rfl, fSw_wordG3 ..⟩

theorem census (d a k : RegField) : Statement (.census d a k) := by
  rintro _ ⟨⟩
  exact ⟨by rw [fMaj_wordG3]; rfl, fSw_wordG3 ..⟩

theorem cres (d a k : RegField) : Statement (.cres d a k) := by
  rintro _ ⟨⟩
  exact ⟨by rw [fMaj_wordG3]; rfl, fSw_wordG3 ..⟩

theorem slotget (d a : RegField) : Statement (.slotget d a) := by
  rintro _ ⟨⟩
  exact ⟨by rw [fMaj_wordG3]; rfl, fSw_wordG3 ..⟩

theorem slotref (d a k : RegField) : Statement (.slotref d a k) := by
  rintro _ ⟨⟩
  exact ⟨by rw [fMaj_wordG3]; rfl, fSw_wordG3 ..⟩

theorem slotrel (d a : RegField) : Statement (.slotrel d a) := by
  rintro _ ⟨⟩
  exact ⟨by rw [fMaj_wordG3]; rfl, fSw_wordG3 ..⟩

theorem rtstage (d a b : RegField) : Statement (.rtstage d a b) := by
  rintro _ ⟨⟩
  exact ⟨by rw [fMaj_wordG3]; rfl, fSw_wordG3 ..⟩

theorem rtlook (d a b : RegField) : Statement (.rtlook d a b) := by
  rintro _ ⟨⟩
  exact ⟨by rw [fMaj_wordG3]; rfl, fSw_wordG3 ..⟩

theorem rtlookAdm (d a : RegField) : Statement (.rtlookAdm d a) := by
  rintro _ ⟨⟩
  exact ⟨by rw [fMaj_wordG3]; rfl, fSw_wordG3 ..⟩

theorem grec (d a b : RegField) : Statement (.grec d a b) := by
  rintro _ ⟨⟩
  exact ⟨by rw [fMaj_wordG3]; rfl, fSw_wordG3 ..⟩

theorem gcond (a b : RegField) : Statement (.gcond a b) := by
  rintro _ ⟨⟩
  exact ⟨by rw [fMaj_wordG3]; rfl, fSw_wordG3 ..⟩

theorem gdone : Statement (.gdone) := by
  rintro _ ⟨⟩
  exact ⟨by rw [fMaj_wordG3]; rfl, fSw_wordG3 ..⟩

theorem gflush (d b : RegField) : Statement (.gflush d b) := by
  rintro _ ⟨⟩
  exact ⟨by rw [fMaj_wordG3]; rfl, fSw_wordG3 ..⟩

theorem rread (q : BitVec 4) (a : RegField) (o : BitVec 4) (z : BitVec 3) : Statement (.rread q a o z) := by
  rintro _ ⟨⟩
  exact ⟨by rw [fMaj_wordM]; rfl, fSw_wordM ..⟩

theorem rwrite (d a : RegField) (o : BitVec 4) (z : BitVec 2) : Statement (.rwrite d a o z) := by
  rintro _ ⟨⟩
  exact ⟨by rw [fMaj_wordM]; rfl, fSw_wordM ..⟩

theorem ratomAdd (d a : RegField) (z : BitVec 1) : Statement (.ratomAdd d a z) := by
  rintro _ ⟨⟩
  exact ⟨by rw [fMaj_wordM]; rfl, fSw_wordM ..⟩

theorem ratomCas (d a : RegField) : Statement (.ratomCas d a) := by
  rintro _ ⟨⟩
  exact ⟨by rw [fMaj_wordM]; rfl, fSw_wordM ..⟩

theorem rfence (d : RegField) : Statement (.rfence d) := by
  rintro _ ⟨⟩
  exact ⟨by rw [fMaj_wordM]; rfl, fSw_wordM ..⟩

theorem ovload (d : RegField) (i : BitVec 8) : Statement (.ovload d i) := by
  rintro _ ⟨⟩
  exact ⟨by rw [fMaj_wordG2i]; rfl, fSw_wordG2i ..⟩

theorem ovwait (d : RegField) (i : BitVec 8) : Statement (.ovwait d i) := by
  rintro _ ⟨⟩
  exact ⟨by rw [fMaj_wordG2i]; rfl, fSw_wordG2i ..⟩

theorem fcall (e : BitVec 8) : Statement (.fcall e) := by
  rintro _ ⟨⟩
  exact ⟨by rw [fMaj_wordG2i]; rfl, fSw_wordG2i ..⟩

theorem spush (a : RegField) : Statement (.spush a) := by
  rintro _ ⟨⟩
  exact ⟨by rw [fMaj_wordG2i]; rfl, fSw_wordG2i ..⟩

theorem spop (d : RegField) : Statement (.spop d) := by
  rintro _ ⟨⟩
  exact ⟨by rw [fMaj_wordG2i]; rfl, fSw_wordG2i ..⟩

theorem salloc (n : BitVec 8) : Statement (.salloc n) := by
  rintro _ ⟨⟩
  exact ⟨by rw [fMaj_wordG2i]; rfl, fSw_wordG2i ..⟩

theorem hintImm (e : BitVec 22) : Statement (.hintImm e) := by
  rintro _ ⟨⟩
  exact ⟨by rw [fMaj_wordHint]; rfl, fSw_wordHint ..⟩

theorem hintStall (e d c b a : BitVec 4) : Statement (.hintStall e d c b a) := by
  rintro _ ⟨⟩
  exact ⟨by rw [fMaj_wordHint]; rfl, fSw_wordHint ..⟩

theorem hintMod (r c : BitVec 3) (x : BitVec 1) : Statement (.hintMod r c x) := by
  rintro _ ⟨⟩
  exact ⟨by rw [fMaj_wordHint]; rfl, fSw_wordHint ..⟩

theorem hintFmt (a b d : BitVec 4) (s k : BitVec 1) (x : BitVec 2) : Statement (.hintFmt a b d s k x) := by
  rintro _ ⟨⟩
  exact ⟨by rw [fMaj_wordHint]; rfl, fSw_wordHint ..⟩

theorem createContext (a0 : Nat) (a1 : List Byte) : Statement (.createContext a0 a1) := by
  intro w h
  cases h

theorem destroy (a0 : Nat) (a1 : Nat) (g : CtxName) : Statement (.destroy a0 a1 g) := by
  intro w h
  cases h

theorem preempt (a0 : Nat) (a1 : Nat) (g : CtxName) : Statement (.preempt a0 a1 g) := by
  intro w h
  cases h

theorem kernelLaunch (a0 : Nat) (a1 : Nat) (g : CtxName) (a3 : List Byte) : Statement (.kernelLaunch a0 a1 g a3) := by
  intro w h
  cases h

theorem graphLaunch (a0 : Nat) (a1 : Nat) (g : CtxName) (a3 : List Byte) : Statement (.graphLaunch a0 a1 g a3) := by
  intro w h
  cases h

theorem imageLoad (a0 : Nat) (a1 : Nat) (g : CtxName) (a3 : List Byte) : Statement (.imageLoad a0 a1 g a3) := by
  intro w h
  cases h

theorem keyInstall (a0 : Nat) (a1 : Nat) (a2 : Nat) (a3 : List Byte) : Statement (.keyInstall a0 a1 a2 a3) := by
  intro w h
  cases h

theorem groupTableWrite (a0 : Nat) (a1 : Nat) (a2 : Nat) (a3 : Nat) : Statement (.groupTableWrite a0 a1 a2 a3) := by
  intro w h
  cases h

theorem shootdown (a0 : Nat) (a1 : Nat) (a2 : Nat) (a3 : Nat) (a4 : Nat) (a5 : Nat) : Statement (.shootdown a0 a1 a2 a3 a4 a5) := by
  intro w h
  cases h

theorem answerRecord (a0 : Nat) (a1 : List Byte) : Statement (.answerRecord a0 a1) := by
  intro w h
  cases h

theorem pageEngineRegister (a0 : Nat) (a1 : Nat) (g : CtxName) (a3 : List (Nat × Nat)) (a4 : List Nat) (a5 : Nat) (a6 : Nat) (a7 : Nat) : Statement (.pageEngineRegister a0 a1 g a3 a4 a5 a6 a7) := by
  intro w h
  cases h

theorem clearfail (a0 : Nat) : Statement (.clearfail a0) := by
  intro w h
  cases h

theorem testMode (a0 : Nat) (a1 : Nat) : Statement (.testMode a0 a1) := by
  intro w h
  cases h

theorem partitionReset (a0 : Nat) (a1 : Nat) : Statement (.partitionReset a0 a1) := by
  intro w h
  cases h

theorem fullDeviceReset (a0 : Nat) : Statement (.fullDeviceReset a0) := by
  intro w h
  cases h

theorem resetRelease (a0 : List Byte) (a1 : List Byte) (a2 : List Nat) (a3 : List Nat) : Statement (.resetRelease a0 a1 a2 a3) := by
  intro w h
  cases h

theorem startTimeout : Statement (.startTimeout) := by
  intro w h
  cases h

theorem firmwareUpload (a0 : List Byte) : Statement (.firmwareUpload a0) := by
  intro w h
  cases h

theorem antiRollbackBlow (a0 : Nat) (a1 : List Byte) : Statement (.antiRollbackBlow a0 a1) := by
  intro w h
  cases h

theorem powerCap (a0 : Nat) (a1 : Nat) : Statement (.powerCap a0 a1) := by
  intro w h
  cases h

theorem replanCommand (a0 : Nat) : Statement (.replanCommand a0) := by
  intro w h
  cases h

theorem replanPeriod : Statement (.replanPeriod) := by
  intro w h
  cases h

theorem portEnable (a0 : Nat) (a1 : Nat) : Statement (.portEnable a0 a1) := by
  intro w h
  cases h

theorem portDisable (a0 : Nat) (a1 : Nat) : Statement (.portDisable a0 a1) := by
  intro w h
  cases h

theorem portTrained (a0 : Nat) : Statement (.portTrained a0) := by
  intro w h
  cases h

theorem linkLoss (a0 : Nat) : Statement (.linkLoss a0) := by
  intro w h
  cases h

theorem peerTableWrite (a0 : Nat) (a1 : Nat) (g : CtxName) (a3 : Nat) (a4 : Bool) (a5 : Nat) (a6 : Nat) (a7 : Nat) : Statement (.peerTableWrite a0 a1 g a3 a4 a5 a6 a7) := by
  intro w h
  cases h

theorem jobRegister (a0 : Nat) (a1 : Nat) (a2 : Nat) (g : CtxName) : Statement (.jobRegister a0 a1 a2 g) := by
  intro w h
  cases h

theorem drowsyDisable (a0 : Nat) (a1 : Nat) (a2 : Bool) : Statement (.drowsyDisable a0 a1 a2) := by
  intro w h
  cases h

theorem registerWrite (a0 : Nat) (a1 : Nat) (a2 : Nat) (a3 : Nat) : Statement (.registerWrite a0 a1 a2 a3) := by
  intro w h
  cases h

theorem getVersion (a0 : Nat) : Statement (.getVersion a0) := by
  intro w h
  cases h

theorem getCapabilities (a0 : Nat) : Statement (.getCapabilities a0) := by
  intro w h
  cases h

theorem negotiateAlgorithms (a0 : Nat) (a1 : Bool) (a2 : Bool) : Statement (.negotiateAlgorithms a0 a1 a2) := by
  intro w h
  cases h

theorem getDigests (a0 : Nat) : Statement (.getDigests a0) := by
  intro w h
  cases h

theorem getCertificate (a0 : Nat) (a1 : Nat) : Statement (.getCertificate a0 a1) := by
  intro w h
  cases h

theorem spdmChallenge (a0 : Nat) (a1 : Nat) (a2 : Nat) : Statement (.spdmChallenge a0 a1 a2) := by
  intro w h
  cases h

theorem getMeasurements (a0 : Nat) (a1 : Nat) : Statement (.getMeasurements a0 a1) := by
  intro w h
  cases h

theorem keyExchange (a0 : Nat) (a1 : Nat) : Statement (.keyExchange a0 a1) := by
  intro w h
  cases h

theorem spdmFinish (a0 : Nat) : Statement (.spdmFinish a0) := by
  intro w h
  cases h

theorem hostLinkDown : Statement (.hostLinkDown) := by
  intro w h
  cases h

theorem correctableError (a0 : Nat) : Statement (.correctableError a0) := by
  intro w h
  cases h

theorem uncorrectableError (a0 : Nat) (a1 : Nat) (a2 : Bool) : Statement (.uncorrectableError a0 a1 a2) := by
  intro w h
  cases h

theorem scrub : Statement (.scrub) := by
  intro w h
  cases h

theorem thermalThrottle (a0 : Bool) : Statement (.thermalThrottle a0) := by
  intro w h
  cases h

theorem thermalTrip : Statement (.thermalTrip) := by
  intro w h
  cases h

theorem translationFault (a0 : Nat) (a1 : Nat) : Statement (.translationFault a0 a1) := by
  intro w h
  cases h

theorem pageRequest (a0 : Nat) (a1 : Nat) : Statement (.pageRequest a0 a1) := by
  intro w h
  cases h

theorem expansionDone (a0 : Nat) (a1 : Nat) : Statement (.expansionDone a0 a1) := by
  intro w h
  cases h

theorem ageingPeriod (a0 : Nat) : Statement (.ageingPeriod a0) := by
  intro w h
  cases h

theorem compressVictim (a0 : Nat) : Statement (.compressVictim a0) := by
  intro w h
  cases h

theorem variableResultReturn (a0 : Nat) (a1 : Nat) (a2 : Nat) : Statement (.variableResultReturn a0 a1 a2) := by
  intro w h
  cases h

theorem queueEntryComplete (a0 : Nat) (a1 : Nat) (a2 : Nat) : Statement (.queueEntryComplete a0 a1 a2) := by
  intro w h
  cases h

theorem pollWake (a0 : Nat) (a1 : Nat) : Statement (.pollWake a0 a1) := by
  intro w h
  cases h

theorem pollTimeout (a0 : Nat) (a1 : Nat) : Statement (.pollTimeout a0 a1) := by
  intro w h
  cases h

theorem copyStart (a0 : Nat) : Statement (.copyStart a0) := by
  intro w h
  cases h

theorem copyPiece (a0 : Nat) : Statement (.copyPiece a0) := by
  intro w h
  cases h

theorem fetchRow (a0 : Nat) : Statement (.fetchRow a0) := by
  intro w h
  cases h

theorem cardStart (a0 : Nat) (a1 : Nat) : Statement (.cardStart a0 a1) := by
  intro w h
  cases h

theorem broadcastMatch (a0 : Nat) (a1 : Nat) (a2 : Nat) : Statement (.broadcastMatch a0 a1 a2) := by
  intro w h
  cases h

theorem peerMatch (a0 : Nat) (a1 : Nat) : Statement (.peerMatch a0 a1) := by
  intro w h
  cases h

theorem cardComplete (a0 : Nat) (a1 : Nat) : Statement (.cardComplete a0 a1) := by
  intro w h
  cases h

theorem censusSnapshot (a0 : Nat) : Statement (.censusSnapshot a0) := by
  intro w h
  cases h

theorem responderStart (a0 : Nat) (a1 : Nat) : Statement (.responderStart a0 a1) := by
  intro w h
  cases h

theorem censusClose (a0 : Nat) : Statement (.censusClose a0) := by
  intro w h
  cases h

theorem censusWaitExpire (a0 : Nat) : Statement (.censusWaitExpire a0) := by
  intro w h
  cases h

theorem overlayLoadDone (a0 : Nat) (a1 : Nat) : Statement (.overlayLoadDone a0 a1) := by
  intro w h
  cases h

theorem phaseStart (a0 : Nat) : Statement (.phaseStart a0) := by
  intro w h
  cases h

theorem groupPlace (a0 : Nat) : Statement (.groupPlace a0) := by
  intro w h
  cases h

theorem groupStart (a0 : Nat) : Statement (.groupStart a0) := by
  intro w h
  cases h

theorem groupRetire (a0 : Nat) : Statement (.groupRetire a0) := by
  intro w h
  cases h

theorem flushTimerExpire (a0 : Nat) (a1 : Nat) (a2 : Nat) : Statement (.flushTimerExpire a0 a1 a2) := by
  intro w h
  cases h

theorem preemptionDecision (a0 : Nat) : Statement (.preemptionDecision a0) := by
  intro w h
  cases h

theorem saveComplete (a0 : Nat) (a1 : Nat) : Statement (.saveComplete a0 a1) := by
  intro w h
  cases h

theorem resume (a0 : Nat) (a1 : Nat) : Statement (.resume a0 a1) := by
  intro w h
  cases h

theorem watchdog (a0 : Nat) : Statement (.watchdog a0) := by
  intro w h
  cases h

theorem qdeadlock (a0 : Nat) : Statement (.qdeadlock a0) := by
  intro w h
  cases h

theorem remoteReadRequest (a0 : Nat) (a1 : Nat) (a2 : Nat) (a3 : Nat) (a4 : Nat) : Statement (.remoteReadRequest a0 a1 a2 a3 a4) := by
  intro w h
  cases h

theorem remoteWriteRequest (a0 : Nat) (a1 : Nat) (a2 : Nat) (a3 : Nat) (a4 : List Byte) : Statement (.remoteWriteRequest a0 a1 a2 a3 a4) := by
  intro w h
  cases h

theorem remoteAtomicRequest (a0 : Nat) (a1 : Nat) (a2 : Nat) (a3 : Nat) (a4 : Nat) (a5 : Nat) (a6 : Nat) (a7 : Nat) : Statement (.remoteAtomicRequest a0 a1 a2 a3 a4 a5 a6 a7) := by
  intro w h
  cases h

theorem remoteResponse (a0 : Nat) (a1 : Bool) (a2 : DWord) : Statement (.remoteResponse a0 a1 a2) := by
  intro w h
  cases h

theorem remoteTimeout (a0 : Nat) : Statement (.remoteTimeout a0) := by
  intro w h
  cases h

theorem bankDrowsy (a0 : Nat) (a1 : Nat) (a2 : Nat) : Statement (.bankDrowsy a0 a1 a2) := by
  intro w h
  cases h

theorem bankWake (a0 : Nat) (a1 : Nat) (a2 : Nat) : Statement (.bankWake a0 a1 a2) := by
  intro w h
  cases h

theorem homeSliceAccept (a0 : Nat) (a1 : Nat) : Statement (.homeSliceAccept a0 a1) := by
  intro w h
  cases h

theorem hostMemoryRequest (a0 : Nat) (a1 : Bool) (a2 : Nat) (a3 : List Byte) : Statement (.hostMemoryRequest a0 a1 a2 a3) := by
  intro w h
  cases h

theorem powerLoss : Statement (.powerLoss) := by
  intro w h
  cases h

theorem sharedTableInstall (a0 : Nat) (a1 : Nat) (a2 : Nat) : Statement (.sharedTableInstall a0 a1 a2) := by
  intro w h
  cases h

theorem partitionModeWrite (a0 : Nat) (a1 : Nat) : Statement (.partitionModeWrite a0 a1) := by
  intro w h
  cases h

theorem repairMapWrite (a0 : Nat) (a1 : Nat) (a2 : List Nat) : Statement (.repairMapWrite a0 a1 a2) := by
  intro w h
  cases h

theorem rollbackFloorRaise (a0 : Nat) (a1 : Nat) (g : CtxName) (a3 : Nat) : Statement (.rollbackFloorRaise a0 a1 g a3) := by
  intro w h
  cases h

theorem tmoveComplete (a0 : Nat) (a1 : Nat) : Statement (.tmoveComplete a0 a1) := by
  intro w h
  cases h

end Sys2Proof.Laws.EncodedMajor
end

