-- ==== Sys2Proof/Laws/Rounding.lean ====
section
/-!
SUPPORT. What the arithmetic of Machine/Float.lean and Machine/Sfu.lean computes, in real numbers: `roundTo` is Round of R33 to
R35, unpacking gives the values of R24 and R25, the NaN rule is R26, and sums, products, quotients and roots are exact before
they are rounded.
-/

namespace Sys2Proof.Laws

open Sys2Proof.Machine Sys2Proof.Claim

/-- A whole number of units stays. -/
theorem roundsTo_zero_fract {r : Rounding} {neg : Bool} {q : ℝ} {n : ℕ} (hr : r.rnd < 65536) (hq : Int.fract q = 0) :
    RoundsTo r neg q n ↔ n = ⌊q⌋₊ := by
  have h : ¬roundsUp r neg q := by
    unfold roundsUp
    split <;> simp [hq, hr]
  simp [RoundsTo, h]

/-- A choice between two numbers by a flag. -/
theorem up_iff (b : Bool) (n a c : ℕ) : ((b = true → n = a) ∧ (¬b = true → n = c)) ↔ n = if b = true then a else c := by
  cases b <;> simp

/-- `roundUnits` gives the number of units that m × 2^e rounds to. -/
theorem roundUnits_roundsTo {r : Rounding} (hr : r.rnd < 65536) (neg : Bool) (m : ℕ) (e q : ℤ) (n : ℕ) :
    RoundsTo r neg ((m : ℝ) * 2 ^ e / 2 ^ q) n ↔ n = (roundUnits r neg m e q).1 := by
  by_cases hqe : q ≤ e
  · have hx : (m : ℝ) * 2 ^ e / 2 ^ q = ((m * 2 ^ (e - q).toNat : ℕ) : ℝ) := by
      have : (2:ℝ) ^ e / 2 ^ q = 2 ^ (e - q).toNat := by
        rw [← zpow_natCast, Int.toNat_of_nonneg (by omega), zpow_sub₀ (by norm_num)]
      rw [mul_div_assoc, this]; push_cast; ring
    rw [hx, roundsTo_zero_fract hr (Int.fract_natCast _), Nat.floor_natCast, roundUnits, if_pos hqe]
  · set w : ℕ := 2 ^ (q - e).toNat with hw
    have hw0 : 0 < w := by positivity
    have hx : (m : ℝ) * 2 ^ e / 2 ^ q = (m : ℝ) / (w : ℝ) := by
      have : (2:ℝ) ^ q = 2 ^ e * 2 ^ (q - e).toNat := by
        rw [← zpow_natCast, Int.toNat_of_nonneg (by omega), ← zpow_add₀ (by norm_num)]; congr 1; ring
      rw [this, hw]; push_cast; field_simp
    have hfl : ⌊(m : ℝ) / (w : ℝ)⌋₊ = m / w := Nat.floor_div_eq_div m w
    have hfr : Int.fract ((m : ℝ) / (w : ℝ)) = ((m % w : ℕ) : ℝ) / w := by
      have h1 : (m : ℝ) = w * (m / w : ℕ) + (m % w : ℕ) := by exact_mod_cast (Nat.div_add_mod m w).symm
      have h2 : (m : ℝ) / w = ((m / w : ℕ) : ℤ) + ((m % w : ℕ) : ℝ) / w := by
        have : (w:ℝ) ≠ 0 := by positivity
        generalize m / w = k at *
        rw [h1, Int.cast_natCast, add_div, mul_div_cancel_left₀ _ this]
      rw [h2, Int.fract_intCast_add, Int.fract_eq_self]
      refine ⟨by positivity, (div_lt_one (by positivity)).2 (by exact_mod_cast Nat.mod_lt _ hw0)⟩
    have hwR : (0:ℝ) < w := by exact_mod_cast hw0
    have key : roundsUp r neg ((m : ℝ) / w) ↔
        (match r.mode with
        | .rne => decide (w < 2 * (m % w)) || (2 * (m % w) == w && m / w % 2 == 1)
        | .rz => false
        | .ru => !neg && m % w != 0
        | .rd => neg && m % w != 0
        | .sr => decide (65536 ≤ m % w * 65536 / w + r.rnd)) = true := by
      unfold roundsUp
      rw [hfl, hfr]
      have e1 : (1 / 2 < ((m % w : ℕ) : ℝ) / w) ↔ w < 2 * (m % w) := by
        rw [lt_div_iff₀ hwR]
        constructor
        · intro h; have : (w:ℝ) < 2 * (m % w : ℕ) := by linarith
          exact_mod_cast this
        · intro h; have : (w:ℝ) < 2 * (m % w : ℕ) := by exact_mod_cast h
          linarith
      have e2 : (((m % w : ℕ) : ℝ) / w = 1 / 2) ↔ 2 * (m % w) = w := by
        rw [div_eq_div_iff hwR.ne' (by norm_num)]
        constructor
        · intro h; have : 2 * ((m % w : ℕ):ℝ) = w := by linarith
          exact_mod_cast this
        · intro h; have : 2 * ((m % w : ℕ):ℝ) = w := by exact_mod_cast h
          linarith
      have e3 : (((m % w : ℕ) : ℝ) / w ≠ 0) ↔ m % w ≠ 0 := by
        rw [ne_eq, div_eq_zero_iff]; simp [hw0.ne']
      have e4 : ⌊((m % w : ℕ) : ℝ) / w * 65536⌋₊ = m % w * 65536 / w := by
        rw [← Nat.floor_div_eq_div (K := ℝ)]; push_cast; congr 1; ring
      cases r.mode
      · simp only [e1, e2]; simp
      · simp
      · simp only [e3]; simp
      · simp only [e3]; simp
      · simp only [e4]; simp
    rw [hx, RoundsTo, key, hfl, roundUnits, if_neg hqe]
    dsimp only
    rw [← hw]
    exact up_iff _ _ _ _

/-- `roundUnits` reports a change exactly where the units are not m × 2^e. -/
theorem roundUnits_exact {r : Rounding} (hr : r.rnd < 65536) (neg : Bool) (m : ℕ) (e q : ℤ) :
    (roundUnits r neg m e q).2 = false ↔ ((roundUnits r neg m e q).1 : ℝ) * 2 ^ q = m * 2 ^ e := by
  by_cases hqe : q ≤ e
  · simp only [roundUnits, if_pos hqe, true_iff]
    push_cast
    have : (2:ℝ) ^ e = 2 ^ (e - q).toNat * 2 ^ q := by
      rw [← zpow_natCast, Int.toNat_of_nonneg (by omega), ← zpow_add₀ (by norm_num)]; congr 1; ring
    rw [this]; ring
  · set w : ℕ := 2 ^ (q - e).toNat with hw
    have hw0 : 0 < w := by positivity
    have h2 : (2:ℝ) ^ q = w * 2 ^ e := by
      rw [hw]; push_cast
      rw [← zpow_natCast, Int.toNat_of_nonneg (by omega), ← zpow_add₀ (by norm_num)]; congr 1; ring
    have he : (2:ℝ) ^ e ≠ 0 := by positivity
    have hiff : ∀ n : ℕ, (n : ℝ) * 2 ^ q = m * 2 ^ e ↔ n * w = m := by
      intro n
      rw [h2, ← mul_assoc, mul_left_inj' he]
      exact_mod_cast Iff.rfl
    rw [hiff]
    simp only [roundUnits, if_neg hqe, ← hw]
    have hm := Nat.div_add_mod m w
    have hlt := Nat.mod_lt m hw0
    constructor
    · intro h
      have h0 : m % w = 0 := by simpa using h
      have : ¬ ((match r.mode with
        | .rne => decide (w < 2 * (m % w)) || (2 * (m % w) == w && m / w % 2 == 1)
        | .rz => false
        | .ru => !neg && m % w != 0
        | .rd => neg && m % w != 0
        | .sr => decide (65536 ≤ m % w * 65536 / w + r.rnd)) = true) := by
        cases r.mode <;> simp [h0] <;> omega
      refine (congrArg (· * w) (if_neg this)).trans ?_
      rw [mul_comm]; omega
    · intro h
      have h0 : m % w = 0 := Nat.mod_eq_zero_of_dvd (Dvd.intro_left _ h)
      simp [h0]

/-- The binade of m × 2^e. -/
theorem log_dyadic {m : ℕ} (hm : m ≠ 0) (e : ℤ) : Int.log 2 ((m : ℝ) * 2 ^ e) = (Nat.log2 m : ℤ) + e := by
  have hlo : (2 ^ Nat.log2 m : ℕ) ≤ m := Nat.log2_self_le hm
  have hhi : m < 2 ^ (Nat.log2 m + 1) := Nat.lt_log2_self
  have hpos : (0:ℝ) < (m:ℝ) * 2 ^ e := by positivity
  apply le_antisymm
  · rw [← Int.lt_add_one_iff, ← Int.lt_zpow_iff_log_lt (by norm_num) hpos]
    have : (m:ℝ) < 2 ^ (Nat.log2 m + 1) := by exact_mod_cast hhi
    calc (m:ℝ) * 2 ^ e < 2 ^ (Nat.log2 m + 1) * 2 ^ e := by gcongr
      _ = ((2:ℕ):ℝ) ^ ((Nat.log2 m : ℤ) + e + 1) := by
        push_cast
        rw [← zpow_natCast, ← zpow_add₀ (by norm_num)]; congr 1; push_cast; ring
  · rw [← Int.zpow_le_iff_le_log (by norm_num) hpos]
    have : ((2:ℝ) ^ Nat.log2 m) ≤ m := by exact_mod_cast hlo
    calc ((2:ℕ):ℝ) ^ ((Nat.log2 m : ℤ) + e) = 2 ^ Nat.log2 m * 2 ^ e := by
          push_cast
          rw [← zpow_natCast, ← zpow_add₀ (by norm_num)]
      _ ≤ m * 2 ^ e := by gcongr

/-- The magnitude of a pattern without sign and without an upper end. -/
noncomputable def mag (man : ℕ) (bias : ℤ) (p : ℕ) : ℝ :=
  if p / 2 ^ man = 0 then ((p % 2 ^ man : ℕ) : ℝ) * 2 ^ (1 - bias - man)
  else ((2 ^ man + p % 2 ^ man : ℕ) : ℝ) * 2 ^ ((p / 2 ^ man : ℕ) - bias - man)

/-- The magnitude of a pattern from its two fields. -/
theorem mag_split (man : ℕ) (bias : ℤ) (k j : ℕ) (hj : j < 2 ^ man) :
    mag man bias (k * 2 ^ man + j) = if k = 0 then (j : ℝ) * 2 ^ (1 - bias - man) else ((2 ^ man + j : ℕ) : ℝ) * 2 ^ ((k:ℤ) - bias - man) := by
  have h1 : (k * 2 ^ man + j) / 2 ^ man = k := by
    rw [mul_comm, Nat.mul_add_div (by positivity), Nat.div_eq_of_lt hj]; simp
  have h2 : (k * 2 ^ man + j) % 2 ^ man = j := by
    rw [mul_comm, Nat.mul_add_mod, Nat.mod_eq_of_lt hj]
  rw [mag, h1, h2]

/-- Magnitudes rise with the patterns. -/
theorem mag_strictMono (man : ℕ) (bias : ℤ) : StrictMono (mag man bias) := by
  apply strictMono_nat_of_lt_succ
  intro p
  have hw : (0:ℕ) < 2 ^ man := by positivity
  obtain ⟨k, j, hj, rfl⟩ : ∃ k j, j < 2 ^ man ∧ p = k * 2 ^ man + j :=
    ⟨p / 2 ^ man, p % 2 ^ man, Nat.mod_lt _ hw, by rw [mul_comm]; exact (Nat.div_add_mod p _).symm⟩
  rw [mag_split _ _ _ _ hj]
  by_cases hj' : j + 1 < 2 ^ man
  · rw [add_assoc, mag_split _ _ _ _ hj']
    split
    · gcongr; exact Nat.lt_succ_self j
    · gcongr; exact Nat.lt_succ_self j
  · have hj2 : j + 1 = 2 ^ man := by omega
    have : k * 2 ^ man + j + 1 = (k + 1) * 2 ^ man + 0 := by rw [add_assoc, hj2]; ring
    rw [this, mag_split _ _ _ _ hw, if_neg (Nat.succ_ne_zero k)]
    have hjr : ((j:ℝ)) < 2 ^ man := by exact_mod_cast hj
    split
    · subst_vars
      push_cast
      rw [add_zero]
      gcongr
    · have : (2:ℝ) ^ (((k + 1 : ℕ) : ℤ) - bias - man) = 2 * 2 ^ ((k:ℤ) - bias - man) := by
        rw [← zpow_one_add₀ (by norm_num)]; congr 1; push_cast; ring
      rw [this]; push_cast
      have hp : (0:ℝ) < 2 ^ ((k:ℤ) - bias - man) := by positivity
      nlinarith

/-- The magnitude of a pattern is that of its body. -/
theorem magnitude_eq (f : Fmt) (p : ℕ) : magnitude f p = mag (fields f).2.1 (fields f).2.2 (body f p) := rfl

/-- The model's table of formats is that of R24 and R25. -/
theorem fields_of_float {f : Fmt} (hf : fmtIsFloat f = true) :
    fmtMan f = (fields f).2.1 ∧ (fmtBias f : ℤ) = (fields f).2.2 ∧ fmtExp f = (fields f).1 ∧ fmtMax f = (limits f).1 ∧
      1 ≤ (fields f).2.1 ∧ (limits f).1 < signWeight f ∧ (limits f).2.1 < signWeight f := by
  cases f <;> simp_all [fmtIsFloat, fields, limits, fmtMan, fmtBias, fmtExp, fmtMax, signWeight]

/-- A sign put beside a body. -/
theorem signBit_eq {f : Fmt} (hf : fmtIsFloat f = true) (neg : Bool) (b : ℕ) :
    signBit f neg + b = signed f neg b := by
  cases f <;> simp_all [fmtIsFloat, fields, fmtMan, fmtExp, signBit, signed, signWeight] <;> split <;> omega

/-- The parts of a signed body. -/
theorem signed_parts (f : Fmt) (neg : Bool) {b : ℕ} (hb : b < signWeight f) :
    signed f neg b < 2 * signWeight f ∧ body f (signed f neg b) = b ∧ negative f (signed f neg b) = neg := by
  have hw : 0 < signWeight f := by unfold signWeight; positivity
  cases neg
  · simp [signed, body, negative, Nat.mod_eq_of_lt hb, Nat.div_eq_of_lt hb]; omega
  · simp [signed, body, negative, Nat.mod_eq_of_lt hb, Nat.add_div_left _ hw, Nat.div_eq_of_lt hb]; omega

/-- `overflowBits` is the table of R34. -/
theorem overflowBits_eq {f : Fmt} (hf : fmtIsFloat f = true) (r : Rounding) (neg : Bool) :
    overflowBits f r neg = overflowed f r neg := by
  obtain ⟨mode, sat, rnd⟩ := r
  cases f <;> simp [fmtIsFloat] at hf <;> cases mode <;> cases sat <;> cases neg <;>
    simp [overflowBits, overflowed, signBit, signed, signWeight, fields, limits, fmtMan, fmtExp, fmtMax, packInf]

/-- Rounding stays below a whole bound. -/
theorem roundsTo_le {r : Rounding} {neg : Bool} {q : ℝ} {n N : ℕ} (h : RoundsTo r neg q n) (hq0 : 0 ≤ q) (hq : q < N) : n ≤ N := by
  have h1 : ⌊q⌋₊ < N := (Nat.floor_lt hq0).2 hq
  by_cases hu : roundsUp r neg q
  · have := h.1 hu; omega
  · have := h.2 hu; omega

/-- Rounding stays above a whole bound. -/
theorem le_roundsTo {r : Rounding} {neg : Bool} {q : ℝ} {n N : ℕ} (h : RoundsTo r neg q n) (hq : (N : ℝ) ≤ q) : N ≤ n := by
  have h1 : N ≤ ⌊q⌋₊ := Nat.le_floor hq
  by_cases hu : roundsUp r neg q
  · have := h.1 hu; omega
  · have := h.2 hu; omega

/-- The pattern that `roundTo` builds from n units has their magnitude. -/
theorem mag_pattern (man : ℕ) (bias q : ℤ) (n : ℕ) (hlo : 1 - bias - man ≤ q) (hn : n ≤ 2 ^ (man + 1))
    (hsub : n < 2 ^ man → q = 1 - bias - man) :
    mag man bias (if n < 2 ^ man then n else (q + man + bias).toNat * 2 ^ man + (n - 2 ^ man)) = n * 2 ^ q := by
  have hw : (0:ℕ) < 2 ^ man := by positivity
  split
  · rename_i h
    have := mag_split man bias 0 n h
    rw [zero_mul, zero_add] at this
    rw [this, if_pos rfl, hsub h]
  · rename_i h
    obtain ⟨fl, hfl⟩ : ∃ fl : ℕ, (fl : ℤ) = q + man + bias := ⟨(q + man + bias).toNat, Int.toNat_of_nonneg (by omega)⟩
    have hf1 : fl ≠ 0 := by omega
    rw [← hfl, Int.toNat_natCast]
    by_cases h2 : n = 2 ^ (man + 1)
    · have hp : fl * 2 ^ man + (n - 2 ^ man) = (fl + 1) * 2 ^ man + 0 := by
        rw [h2, pow_succ, add_mul, one_mul, add_zero, mul_two, Nat.add_sub_cancel]
      rw [hp, mag_split _ _ _ _ hw, if_neg (Nat.succ_ne_zero fl), h2]
      have : (((fl + 1 : ℕ) : ℤ) - bias - man) = 1 + q := by push_cast; omega
      rw [this, zpow_add₀ (by norm_num), zpow_one]; push_cast; ring
    · have hlt : n - 2 ^ man < 2 ^ man := by rw [pow_succ] at hn h2; omega
      rw [mag_split _ _ _ _ hlt, if_neg hf1, Nat.add_sub_cancel' (by omega)]
      congr 2; omega

/-- `roundTo` is Round of R33 to R35 with the flags of R30. -/
theorem roundTo_rounds {f : Fmt} (hf : fmtIsFloat f = true) {r : Rounding} (hr : r.rnd < 65536) (neg : Bool) (m : ℕ) (e : ℤ) :
    Rounds f r neg ((m : ℝ) * 2 ^ e) (roundTo f r neg m e) := by
  obtain ⟨hman, hbias, -, hmax, hman1, hlim, -⟩ := fields_of_float hf
  unfold Rounds
  generalize hF : fields f = F at hman hbias hman1
  obtain ⟨fe, man, bias⟩ := F
  simp only at hman hbias hman1 ⊢
  intro n k hn hk
  rw [magnitude_eq, hF]
  have hbl : body f (limits f).1 = (limits f).1 := Nat.mod_eq_of_lt hlim
  rw [hbl]
  by_cases hm : m = 0
  · subst hm
    have h0 : roundTo f r neg 0 e = (signed f neg 0, 0) := by
      simp [roundTo, ← signBit_eq hf neg 0]
    have hn0 : n = 0 := by
      rw [show ((0:ℕ):ℝ) * 2 ^ e / 2 ^ (max (Int.log 2 (((0:ℕ):ℝ) * 2 ^ e)) (1 - bias) - man) = 0 by simp] at hn
      rw [roundsTo_zero_fract hr (by simp)] at hn
      simpa using hn
    subst hn0
    obtain ⟨h1, h2, h3⟩ := signed_parts f neg (b := 0) (by omega)
    refine ⟨fun h => absurd h ?_, fun _ => ⟨by rw [h0]; exact h1, by rw [h0]; simp [h2], by rw [h0]; exact h3, ?_, ?_, ?_, ?_⟩⟩
    · simp only [Nat.cast_zero, zero_mul, not_lt]
      unfold mag; split <;> positivity
    · rw [h0, magnitude_eq, h2, hF]; simp [mag]
    · intro _; rw [h0]
    · intro h; simp at h
    · intro h; simp at h
  · rw [log_dyadic hm] at hn hk ⊢
    rw [roundUnits_roundsTo hr] at hn hk
    have hexact := roundUnits_exact hr neg m e (max ((Nat.log2 m : ℤ) + e) (1 - bias) - man)
    rw [← hn] at hexact
    set q : ℤ := max ((Nat.log2 m : ℤ) + e) (1 - bias) - man with hq
    have hq' : max ((Nat.log2 m : ℤ) + e - (man:ℤ)) (1 - bias - man) = q := by rw [hq]; omega
    have hRn := (roundUnits_roundsTo hr neg m e q n).2 hn
    have hRk := (roundUnits_roundsTo hr neg m e ((Nat.log2 m : ℤ) + e - man) k).2 hk
    have hmlo : ((2:ℝ) ^ Nat.log2 m) ≤ m := by exact_mod_cast Nat.log2_self_le hm
    have hmhi : (m:ℝ) < 2 ^ (Nat.log2 m + 1) := by exact_mod_cast Nat.lt_log2_self (n := m)
    have hx0 : (0:ℝ) < m * 2 ^ e := by
      have : (0:ℝ) < m := by exact_mod_cast Nat.pos_of_ne_zero hm
      positivity
    have hxlo : (2:ℝ) ^ ((Nat.log2 m : ℤ) + e) ≤ m * 2 ^ e := by
      rw [zpow_add₀ (by norm_num), zpow_natCast]; gcongr
    have hxhi : (m:ℝ) * 2 ^ e < 2 ^ ((Nat.log2 m : ℤ) + e + 1) := by
      have : (2:ℝ) ^ ((Nat.log2 m : ℤ) + e + 1) = 2 ^ (Nat.log2 m + 1) * 2 ^ e := by
        rw [← zpow_natCast, ← zpow_add₀ (by norm_num)]; congr 1; push_cast; ring
      rw [this]; gcongr
    set top : ℤ := (Nat.log2 m : ℤ) + e with htop
    have up : ∀ u : ℤ, top - man ≤ u → (m:ℝ) * 2 ^ e / 2 ^ u < (2 ^ (man + 1) : ℕ) := by
      intro u hu
      rw [div_lt_iff₀ (by positivity)]
      push_cast
      rw [← zpow_natCast, ← zpow_add₀ (by norm_num)]
      exact hxhi.trans_le (zpow_le_zpow_right₀ (by norm_num) (by push_cast; omega))
    have dn : ∀ u : ℤ, u ≤ top - man → ((2 ^ man : ℕ) : ℝ) ≤ (m:ℝ) * 2 ^ e / 2 ^ u := by
      intro u hu
      rw [le_div_iff₀ (by positivity)]
      push_cast
      rw [← zpow_natCast, ← zpow_add₀ (by norm_num)]
      exact (zpow_le_zpow_right₀ (by norm_num) (by omega)).trans hxlo
    have hn2 : n ≤ 2 ^ (man + 1) := roundsTo_le hRn (by positivity) (up q (by omega))
    have hsub : n < 2 ^ man → q = 1 - bias - man := by
      intro h
      by_contra hne
      have : 2 ^ man ≤ n := le_roundsTo hRn (dn q (by omega))
      omega
    have hk2 : k ≤ 2 ^ (man + 1) := roundsTo_le hRk (by positivity) (up _ le_rfl)
    have hk1 : 2 ^ man ≤ k := le_roundsTo hRk (dn _ le_rfl)
    have hpat := mag_pattern man bias q n (by omega) hn2 hsub
    set pat : ℕ := (if n < 2 ^ man then n else (q + man + bias).toNat * 2 ^ man + (n - 2 ^ man)) with hpatdef
    have hround : roundTo f r neg m e =
        if fmtMax f < pat then (overflowBits f r neg, flagOF ||| flagNX)
        else (signBit f neg + pat, (if (roundUnits r neg m e q).2 = true then flagNX else 0#6) |||
          (if ((roundUnits r neg m e q).2 && (decide (top < 1 - bias) && !(k == 2 ^ (man + 1) && top == 1 - bias - 1))) = true
            then flagUF else 0#6)) := by
      unfold roundTo
      rw [if_neg (by simpa using hm)]
      dsimp only
      rw [hman, hbias, ← htop, hq', ← hk, ← hn]
    rw [hround, hmax]
    have hlt : (limits f).1 < pat ↔ mag man bias (limits f).1 < n * 2 ^ q := by
      rw [← hpat]; exact ((mag_strictMono man bias).lt_iff_lt).symm
    refine ⟨fun h => by rw [if_pos (hlt.2 h), overflowBits_eq hf], fun h => ?_⟩
    have hnl : ¬(limits f).1 < pat := fun h' => absurd (hlt.1 h') (not_lt.2 h)
    rw [if_neg hnl, signBit_eq hf]
    obtain ⟨h1, h2, h3⟩ := signed_parts f neg (b := pat) (by omega)
    have htiny : (decide (top < 1 - bias) && !(k == 2 ^ (man + 1) && top == 1 - bias - 1)) = true ↔
        (k : ℝ) * 2 ^ (top - man) < 2 ^ (1 - bias) := by
      have hkR : ((2:ℝ) ^ man) ≤ k := by exact_mod_cast hk1
      have hkR2 : (k:ℝ) ≤ 2 ^ (man + 1) := by exact_mod_cast hk2
      have e1 : (2:ℝ) ^ man * 2 ^ (top - man) = 2 ^ top := by
        rw [← zpow_natCast, ← zpow_add₀ (by norm_num)]; congr 1; ring
      have e2 : (2:ℝ) ^ (man + 1) * 2 ^ (top - man) = 2 ^ (top + 1) := by
        rw [← zpow_natCast, ← zpow_add₀ (by norm_num)]; congr 1; push_cast; ring
      have hp : (0:ℝ) < 2 ^ (top - man) := by positivity
      by_cases ht : top < 1 - bias
      · by_cases ht2 : top = 1 - bias - 1
        · by_cases hkk : k = 2 ^ (man + 1)
          · have : (k:ℝ) = 2 ^ (man + 1) := by rw [hkk]; push_cast; rfl
            rw [this, e2]
            simp [ht2, hkk]
          · have : (k:ℝ) < 2 ^ (man + 1) := by exact_mod_cast lt_of_le_of_ne hk2 hkk
            have h5 : (k : ℝ) * 2 ^ (top - man) < 2 ^ (1 - bias) := by
              calc (k : ℝ) * 2 ^ (top - man) < 2 ^ (man + 1) * 2 ^ (top - man) := by gcongr
                _ = 2 ^ (1 - bias) := by rw [e2]; congr 1; omega
            simp [ht, hkk, h5]
        · have h5 : (k : ℝ) * 2 ^ (top - man) < 2 ^ (1 - bias) := by
            calc (k : ℝ) * 2 ^ (top - man) ≤ 2 ^ (man + 1) * 2 ^ (top - man) := by gcongr
              _ < 2 ^ (1 - bias) := by rw [e2]; exact zpow_lt_zpow_right₀ (by norm_num) (by omega)
          have h6 : ¬top = -bias := by omega
          simp [ht, h5, h6]
      · have h5 : (2:ℝ) ^ (1 - bias) ≤ (k : ℝ) * 2 ^ (top - man) := by
          calc (2:ℝ) ^ (1 - bias) ≤ 2 ^ top := zpow_le_zpow_right₀ (by norm_num) (by omega)
            _ = 2 ^ man * 2 ^ (top - man) := e1.symm
            _ ≤ _ := by gcongr
        simp [ht, h5]
    refine ⟨h1, by rw [h2]; omega, h3, by rw [magnitude_eq, h2, hF]; exact hpat, fun hy => ?_, fun hy hk' => ?_, fun hy hk' => ?_⟩
    · have := hexact.2 hy; simp [this]
    · have hi : (roundUnits r neg m e q).2 = true := by
        cases h : (roundUnits r neg m e q).2
        · exact absurd (hexact.1 h) hy
        · rfl
      have ht := mt htiny.1 (not_lt.2 hk')
      simp only [hi, Bool.true_and, if_neg ht, if_true]; decide
    · have hi : (roundUnits r neg m e q).2 = true := by
        cases h : (roundUnits r neg m e q).2
        · exact absurd (hexact.1 h) hy
        · rfl
      simp only [hi, Bool.true_and, if_pos (htiny.2 hk'), if_true]

/-- The fields of a pattern. -/
theorem parts_eq {f : Fmt} (hf : fmtIsFloat f = true) (p : ℕ) :
    bitOf p (fmtExp f + fmtMan f) = negative f p ∧ bitsOf p (fmtMan f) (fmtExp f) = body f p / 2 ^ (fields f).2.1 ∧
    bitsOf p 0 (fmtMan f) = body f p % 2 ^ (fields f).2.1 := by
  obtain ⟨hman, -, hexp, -⟩ := fields_of_float hf
  refine ⟨?_, ?_, ?_⟩
  · rw [hman, hexp]; unfold bitOf negative signWeight
    rw [Bool.eq_iff_iff]; simp
  · rw [hman, hexp]; unfold bitsOf body signWeight
    rw [Nat.add_comm, pow_add, Nat.mod_mul_right_div_self]
  · rw [hman]; unfold bitsOf body signWeight
    rw [Nat.mod_mod_of_dvd _ (Dvd.intro_left _ (pow_add 2 _ _).symm), pow_zero, Nat.div_one]

/-- The sign has a weight. -/
theorem signWeight_pos (f : Fmt) : 0 < signWeight f := by unfold signWeight; positivity

/-- A body is below the sign. -/
theorem body_lt (f : Fmt) (p : ℕ) : body f p < signWeight f := Nat.mod_lt _ (signWeight_pos f)

/-- A pattern is its sign and its body. -/
theorem signed_self {f : Fmt} {p : ℕ} (hp : p < 2 * signWeight f) : signed f (negative f p) (body f p) = p := by
  have hw := signWeight_pos f
  by_cases h : p < signWeight f
  · simp [signed, negative, body, Nat.div_eq_of_lt h, Nat.mod_eq_of_lt h]
  · have h1 : p / signWeight f = 1 := by
      rw [Nat.div_eq_of_lt_le] <;> omega
    have h2 : p % signWeight f = p - signWeight f := by
      rw [Nat.mod_eq_sub_mod (by omega), Nat.mod_eq_of_lt (by omega)]
    simp [signed, negative, body, h1, h2]; omega

/-- What a NaN unpacks to. -/
theorem unpack_nan {f : Fmt} (hf : fmtIsFloat f = true) {p : ℕ} (hp : p < 2 * signWeight f) (h : nanPat f p = true) :
    ∃ pay, unpackFloat f p = .nan (negative f p) pay ∧ isSNaN (unpackFloat f p) = signals f p ∧
      packNaN f (negative f p) pay = quieted f p := by
  obtain ⟨h1, h2, h3⟩ := parts_eq hf p
  have hself := signed_self hp
  have hbw := body_lt f p
  generalize hb : body f p = b at *
  generalize hng : negative f p = ng at *
  subst hself
  cases f <;> simp [fmtIsFloat] at hf
  all_goals
    simp only [nanPat, limits, hb, decide_eq_true_eq] at h
    simp only [fields, fmtMan, fmtExp, signWeight] at h1 h2 h3 hbw
  case fp32 =>
    have e1 : b / 8388608 = 255 := by omega
    have e2 : b % 8388608 ≠ 0 := by omega
    have hs : signals .fp32 (signed .fp32 ng b) = decide (b % 8388608 < 4194304) := by
      simp [signals, nanPat, limits, fields, hb, h]
    refine ⟨b % 2 ^ 23, ?_, ?_, ?_⟩
    · simp [unpackFloat, fmtMan, fmtExp, h1, h2, h3, e1, e2]
    · simp [unpackFloat, isSNaN, signals, nanPat, limits, fields, fmtMan, fmtExp, h1, h2, h3, e1, e2, hb, h]
    · simp only [packNaN, quieted, hs]
      simp [fields, fmtMan, fmtExp, signBit, signed, signWeight]
      cases ng <;> simp <;> split <;> omega
  case bf16 =>
    have e1 : b / 128 = 255 := by omega
    have e2 : b % 128 ≠ 0 := by omega
    have hs : signals .bf16 (signed .bf16 ng b) = decide (b % 128 < 64) := by
      simp [signals, nanPat, limits, fields, hb, h]
    refine ⟨b % 2 ^ 7 * 2 ^ 16, ?_, ?_, ?_⟩
    · simp [unpackFloat, fmtMan, fmtExp, h1, h2, h3, e1, e2]
    · simp [unpackFloat, isSNaN, signals, nanPat, limits, fields, fmtMan, fmtExp, h1, h2, h3, e1, e2, hb, h]; omega
    · simp only [packNaN, quieted, hs]
      simp [fields, fmtMan, fmtExp, signBit, signed, signWeight]
      cases ng <;> simp <;> split <;> omega
  case fp16 =>
    have e1 : b / 1024 = 31 := by omega
    have e2 : b % 1024 ≠ 0 := by omega
    have hs : signals .fp16 (signed .fp16 ng b) = decide (b % 1024 < 512) := by
      simp [signals, nanPat, limits, fields, hb, h]
    refine ⟨b % 2 ^ 10 * 2 ^ 13, ?_, ?_, ?_⟩
    · simp [unpackFloat, fmtMan, fmtExp, h1, h2, h3, e1, e2]
    · simp [unpackFloat, isSNaN, signals, nanPat, limits, fields, fmtMan, fmtExp, h1, h2, h3, e1, e2, hb, h]; omega
    · simp only [packNaN, quieted, hs]
      simp [fields, fmtMan, fmtExp, signBit, signed, signWeight]
      cases ng <;> simp <;> split <;> omega
  case e5m2 =>
    have e1 : b / 4 = 31 := by omega
    have e2 : b % 4 ≠ 0 := by omega
    refine ⟨b % 2 ^ 2 * 2 ^ 21, ?_, ?_, ?_⟩
    · simp [unpackFloat, fmtMan, fmtExp, h1, h2, h3, e1, e2]
    · simp [unpackFloat, isSNaN, signals, nanPat, limits, fields, fmtMan, fmtExp, h1, h2, h3, e1, e2, hb, h]; omega
    · simp only [packNaN, quieted, hng]
      simp [limits, fields, fmtMan, fmtExp, signBit, signed, signWeight, fmtNaN]
      cases ng <;> simp
  case e4m3 =>
    have e0 : b = 127 := by omega
    subst e0
    refine ⟨0x400000, ?_, ?_, ?_⟩
    · simp [unpackFloat, fmtMan, fmtExp, h1, h2, h3]
    · simp [unpackFloat, isSNaN, signals, fmtMan, fmtExp, h1, h2, h3]
    · simp only [packNaN, quieted, hng]
      simp [limits, fields, fmtMan, fmtExp, signBit, signed, signWeight, fmtNaN]
      cases ng <;> simp

/-- What an infinity unpacks to. -/
theorem unpack_inf {f : Fmt} (hf : fmtIsFloat f = true) {p : ℕ} (h : infPat f p = true) :
    unpackFloat f p = .inf (negative f p) := by
  obtain ⟨h1, h2, h3⟩ := parts_eq hf p
  simp only [infPat, decide_eq_true_eq] at h
  obtain ⟨h, h'⟩ := h
  rw [h'] at h2 h3
  unfold unpackFloat
  dsimp only
  rw [h1, h2, h3]
  cases f <;> simp [fmtIsFloat] at hf <;> simp at h <;> simp [limits, fields, fmtExp]

/-- What a number unpacks to. -/
theorem unpack_num {f : Fmt} (hf : fmtIsFloat f = true) {p : ℕ} (hn : nanPat f p = false) (hi : infPat f p = false) :
    ∃ m e, unpackFloat f p = .fin (negative f p) m e ∧ (m : ℝ) * 2 ^ e = magnitude f p ∧ (m = 0 ↔ body f p = 0) := by
  obtain ⟨h1, h2, h3⟩ := parts_eq hf p
  have hbw := body_lt f p
  obtain ⟨hman, hbias, hexp, -, hm1, -⟩ := fields_of_float hf
  simp only [nanPat, infPat, decide_eq_false_iff_not, not_and, not_lt] at hn hi
  have hmag := magnitude_eq f p
  have hdm := Nat.div_add_mod (body f p) (2 ^ (fields f).2.1)
  have hnot : ¬((bitsOf p (fmtMan f) (fmtExp f) == 2 ^ fmtExp f - 1) = true ∧ (f = .e4m3 → bitsOf p 0 (fmtMan f) = 7)) := by
    rw [h2, h3]
    cases f <;> simp [fmtIsFloat] at hf <;> simp [limits, fields, fmtMan, fmtExp, signWeight] at * <;> omega
  rw [h2, h3] at hnot
  unfold mag at hmag
  have hunp : unpackFloat f p = if body f p / 2 ^ (fields f).2.1 = 0 then
      .fin (negative f p) (body f p % 2 ^ (fields f).2.1) (1 - (fields f).2.2 - (fields f).2.1)
      else .fin (negative f p) (body f p % 2 ^ (fields f).2.1 + 2 ^ (fields f).2.1)
        ((body f p / 2 ^ (fields f).2.1 : ℕ) - (fields f).2.2 - (fields f).2.1) := by
    unfold unpackFloat
    dsimp only
    rw [h1, h2, h3, hman, hbias]
    cases f <;> simp [fmtIsFloat] at hf <;> simp only [fmtExp] at hnot ⊢ <;> simp at hnot ⊢
    all_goals (try simp [hnot])
    by_cases hx : body Fmt.e4m3 p / 2 ^ (fields Fmt.e4m3).2.1 = 15
    · simp [hnot hx]
    · simp [hx]
  by_cases hz : body f p / 2 ^ (fields f).2.1 = 0
  · rw [if_pos hz] at hmag hunp
    refine ⟨_, _, hunp, hmag.symm, ?_⟩
    rw [hz, mul_zero, zero_add] at hdm
    rw [hdm]
  · rw [if_neg hz] at hmag hunp
    refine ⟨_, _, hunp, ?_, ?_⟩
    · rw [hmag, Nat.add_comm]
    · have : 0 < 2 ^ (fields f).2.1 := by positivity
      constructor
      · intro h; omega
      · intro h; rw [h] at hz; simp at hz

/-- Unpacking keeps the class of a NaN. -/
theorem isNaN_unpack {f : Fmt} (hf : fmtIsFloat f = true) {p : ℕ} (hp : p < 2 * signWeight f) :
    isNaN (unpackFloat f p) = nanPat f p ∧ isSNaN (unpackFloat f p) = signals f p := by
  by_cases h : nanPat f p = true
  · obtain ⟨pay, h1, h2, -⟩ := unpack_nan hf hp h
    exact ⟨by rw [h1, h]; rfl, h2⟩
  · have hs : signals f p = false := by simp [signals, h]
    rw [hs]
    have h : nanPat f p = false := by simpa using h
    rw [h]
    by_cases hi : infPat f p = true
    · rw [unpack_inf hf hi]; exact ⟨rfl, rfl⟩
    · obtain ⟨m, e, h1, -⟩ := unpack_num hf h (by simpa using hi)
      rw [h1]; exact ⟨rfl, rfl⟩

/-- Tests that agree on a list. -/
theorem any_congr_mem {α : Type} {l : List α} {p q : α → Bool} (h : ∀ x ∈ l, p x = q x) : l.any p = l.any q := by
  induction l with
  | nil => rfl
  | cons a l ih =>
    rw [List.any_cons, List.any_cons, h a (List.mem_cons_self ..), ih fun x hx => h x (List.mem_cons_of_mem _ hx)]

/-- The first hit of a mapped list. -/
theorem find_map_congr {α β : Type} (g : α → β) {l : List α} {p : β → Bool} {q : α → Bool} (h : ∀ x ∈ l, p (g x) = q x) :
    (l.map g).find? p = (l.find? q).map g := by
  induction l with
  | nil => rfl
  | cons a l ih =>
    simp only [List.map_cons, List.find?_cons, h a (List.mem_cons_self ..)]
    cases q a
    · exact ih fun x hx => h x (List.mem_cons_of_mem _ hx)
    · rfl

/-- `nanRule` is the NaN rule of R26. -/
theorem nanRule_eq {f : Fmt} (hf : fmtIsFloat f = true) (ops : List ℕ) (h : ∀ p ∈ ops, p < 2 * signWeight f) :
    nanRule f (ops.map (unpackFloat f)) = firstNaN f ops := by
  unfold nanRule firstNaN
  have h1 : (ops.map (unpackFloat f)).any isSNaN = ops.any (signals f) := by
    rw [List.any_map]; exact any_congr_mem (fun p hp => (isNaN_unpack hf (h p hp)).2)
  rw [h1]
  have h2 := find_map_congr (unpackFloat f) (fun p hp => (isNaN_unpack hf (h p hp)).1)
  rw [h2]
  cases hfind : ops.find? (nanPat f) with
  | none => rfl
  | some p =>
    have hm := List.mem_of_find?_eq_some hfind
    have hn := List.find?_some hfind
    obtain ⟨pay, h3, -, h4⟩ := unpack_nan hf (h p hm) hn
    simp [h3, h4]

/-- The NaN rule applies where some operand is a NaN. -/
theorem firstNaN_none {f : Fmt} {ops : List ℕ} : firstNaN f ops = none ↔ ∀ p ∈ ops, nanPat f p = false := by
  simp [firstNaN]

/-- `scaledTo` keeps the value. -/
theorem scaledTo_real (neg : Bool) (m : ℕ) {e e' : ℤ} (h : e' ≤ e) :
    ((scaledTo neg m e e' : ℤ) : ℝ) * 2 ^ e' = if neg = true then -((m : ℝ) * 2 ^ e) else m * 2 ^ e := by
  have h1 : (2:ℝ) ^ (e - e').toNat * 2 ^ e' = 2 ^ e := by
    rw [← zpow_natCast, Int.toNat_of_nonneg (by omega), ← zpow_add₀ (by norm_num)]; congr 1; ring
  unfold scaledTo
  cases neg <;> simp [mul_assoc, h1]

/-- The exact sum of two finite values, rounded. -/
theorem sum_rounds {f : Fmt} (hf : fmtIsFloat f = true) {r : Rounding} (hr : r.rnd < 65536) (a b : Bool) (m n : ℕ) (e k : ℤ) :
    ∃ v, addVal (r.mode == .rd) (.fin a m e) (.fin b n k) = some v ∧
      SumRounds f r ((if a = true then -((m : ℝ) * 2 ^ e) else m * 2 ^ e) + if b = true then -((n : ℝ) * 2 ^ k) else n * 2 ^ k)
        (if a = b ∧ m = 0 ∧ n = 0 then a else r.mode == .rd) (roundVal f r v) := by
  have h1 := scaledTo_real a m (min_le_left e k)
  have h2 := scaledTo_real b n (min_le_right e k)
  rw [← h1, ← h2, ← add_mul, ← Int.cast_add]
  unfold addVal
  dsimp only
  set v : ℤ := scaledTo a m e (min e k) + scaledTo b n k (min e k) with hv
  have hp : (0:ℝ) < 2 ^ (min e k) := by positivity
  by_cases h0 : v = 0
  · rw [if_pos (by simpa using h0)]
    refine ⟨_, rfl, fun h => ?_, fun h => ?_, fun _ => ?_⟩
    · rw [h0] at h; simp at h
    · rw [h0] at h; simp at h
    · simp only [roundVal, roundTo, beq_self_eq_true, if_true]
      rw [← signBit_eq hf, Nat.add_zero]
      congr 2
      by_cases hc : a = b ∧ m = 0 ∧ n = 0
      · obtain ⟨x, y, z⟩ := hc; simp [x, y, z]
      · rw [if_neg hc, if_neg]; simpa [and_assoc] using hc
  · rw [if_neg (by simpa using h0)]
    refine ⟨_, rfl, fun h => ?_, fun h => ?_, fun h => ?_⟩
    · have hv0 : 0 < v := by
        have := (pos_iff_pos_of_mul_pos h).2 hp
        exact_mod_cast this
      have hd : decide (v < 0) = false := by simp; omega
      have hn : (v : ℝ) = (v.natAbs : ℝ) := by
        rw [← Int.cast_natCast, Int.natAbs_of_nonneg hv0.le]
      rw [hd, hn]; exact roundTo_rounds hf hr false v.natAbs (min e k)
    · have hv0 : v < 0 := by
        by_contra hc
        have : (0:ℝ) ≤ v := by exact_mod_cast not_lt.1 hc
        have := mul_nonneg this hp.le
        linarith
      have hd : decide (v < 0) = true := by simpa using hv0
      have hn : -((v : ℝ) * 2 ^ (min e k)) = (v.natAbs : ℝ) * 2 ^ (min e k) := by
        rw [← Int.cast_natCast, Int.ofNat_natAbs_of_nonpos hv0.le]; push_cast; ring
      rw [hd, hn]; exact roundTo_rounds hf hr true v.natAbs (min e k)
    · exfalso
      have : (v:ℝ) = 0 := by
        rcases mul_eq_zero.1 h with h | h
        · exact h
        · exact absurd h hp.ne'
      exact h0 (by exact_mod_cast this)

/-- The signed number of a pattern. -/
theorem num_of {f : Fmt} {p : ℕ} {m : ℕ} {e : ℤ} (h : (m : ℝ) * 2 ^ e = magnitude f p) :
    number f p = if negative f p = true then -((m : ℝ) * 2 ^ e) else m * 2 ^ e := by
  unfold number; rw [h]

/-- `packInf` is the pattern of infinity. -/
theorem packInf_eq {f : Fmt} (hf : fmtIsFloat f = true) (neg : Bool) : packInf f neg = signed f neg (limits f).2.1 := by
  cases f <;> simp [fmtIsFloat] at hf <;> cases neg <;>
    simp [packInf, signBit, signed, signWeight, fields, limits, fmtMan, fmtExp, fmtMax]

/-- An invalid operation delivers the canonical NaN. -/
theorem invalid_eq {f : Fmt} (hf : fmtIsFloat f = true) : invalidResult f = invalid f := by
  cases f <;> simp [fmtIsFloat] at hf <;> rfl

/-- An infinity is its sign and the pattern of infinity. -/
theorem inf_self {f : Fmt} {p : ℕ} (hp : p < 2 * signWeight f) (h : infPat f p = true) :
    signed f (negative f p) (limits f).2.1 = p := by
  have := signed_self hp
  simp only [infPat, decide_eq_true_eq] at h
  rwa [h.2] at this

/-- A new sign changes the sign alone. -/
theorem flip_parts {f : Fmt} (neg : Bool) (p : ℕ) :
    body f (signed f neg (body f p)) = body f p ∧ negative f (signed f neg (body f p)) = neg ∧
    nanPat f (signed f neg (body f p)) = nanPat f p ∧ infPat f (signed f neg (body f p)) = infPat f p ∧
    magnitude f (signed f neg (body f p)) = magnitude f p := by
  obtain ⟨-, h2, h3⟩ := signed_parts f neg (body_lt f p)
  exact ⟨h2, h3, by simp [nanPat, h2], by simp [infPat, h2], by simp [magnitude_eq, h2]⟩

/-- A new sign unpacks to the opposite value. -/
theorem negVal_unpack {f : Fmt} (hf : fmtIsFloat f = true) {p : ℕ} (hn : nanPat f p = false) :
    negVal (unpackFloat f p) = unpackFloat f (signed f (!negative f p) (body f p)) := by
  obtain ⟨h1, h2, h3, h4, h5⟩ := flip_parts (f := f) (!negative f p) p
  by_cases hi : infPat f p = true
  · rw [unpack_inf hf hi, unpack_inf hf (h4.trans hi), h2]; rfl
  · obtain ⟨q1, q2, q3⟩ := parts_eq hf p
    obtain ⟨r1, r2, r3⟩ := parts_eq hf (signed f (!negative f p) (body f p))
    rw [h1] at r2 r3
    rw [h2] at r1
    unfold unpackFloat
    dsimp only
    rw [q1, q2, q3, r1, r2, r3]
    have hfin := unpack_num hf hn (by simpa using hi)
    split <;> split <;> (try split) <;> first
      | rfl
      | (exfalso; obtain ⟨m, e, h, -⟩ := hfin; unfold unpackFloat at h; dsimp only at h; rw [q1, q2, q3] at h; simp_all)

/-- The exact product of two finite values, rounded. -/
theorem prod_rounds {f : Fmt} (hf : fmtIsFloat f = true) {r : Rounding} (hr : r.rnd < 65536) (a b : Bool) (m n : ℕ) (e k : ℤ) :
    mulVal (.fin a m e) (.fin b n k) = some (.fin (a != b) (m * n) (e + k)) ∧
      Rounds f r (a != b) (((m : ℝ) * 2 ^ e) * (n * 2 ^ k)) (roundVal f r (.fin (a != b) (m * n) (e + k))) := by
  refine ⟨rfl, ?_⟩
  change Rounds f r (a != b) _ (roundTo f r (a != b) (m * n) (e + k))
  have := roundTo_rounds hf hr (a != b) (m * n) (e + k)
  rw [zpow_add₀ (by norm_num)] at this
  convert this using 1
  · push_cast; ring

/-- Between two neighbouring multiples of 2^-17 units every value rounds alike. -/
theorem roundsTo_congr {r : Rounding} {neg : Bool} {q q' : ℝ} {N : ℕ} (h1 : (N : ℝ) < q * 2 ^ 17) (h2 : q * 2 ^ 17 < N + 1)
    (h1' : (N : ℝ) < q' * 2 ^ 17) (h2' : q' * 2 ^ 17 < N + 1) (n : ℕ) : RoundsTo r neg q n ↔ RoundsTo r neg q' n := by
  have key : ∀ x : ℝ, (N : ℝ) < x * 2 ^ 17 → x * 2 ^ 17 < N + 1 → ⌊x⌋₊ = N / 2 ^ 17 ∧
      Int.fract x ≠ 0 ∧ (1 / 2 < Int.fract x ↔ 2 ^ 16 ≤ N % 2 ^ 17) ∧ Int.fract x ≠ 1 / 2 ∧
      ⌊Int.fract x * 65536⌋₊ = N % 2 ^ 17 / 2 := by
    intro x hx1 hx2
    have hN := Nat.div_add_mod N (2 ^ 17)
    set d := N / 2 ^ 17 with hd
    set c := N % 2 ^ 17 with hc
    have hcl : c + 1 ≤ 2 ^ 17 := Nat.mod_lt _ (by norm_num)
    have hNr : (N : ℝ) = 2 ^ 17 * d + c := by exact_mod_cast hN.symm
    have hclr : (c : ℝ) + 1 ≤ 2 ^ 17 := by exact_mod_cast hcl
    have hc0 : (0:ℝ) ≤ c := Nat.cast_nonneg c
    have hxd : (d : ℝ) < x := by nlinarith
    have hxd' : x < d + 1 := by nlinarith
    have hfr : Int.fract x = x - d := by
      have : ⌊x⌋ = (d : ℤ) := Int.floor_eq_iff.2 ⟨by push_cast; linarith, by push_cast; linarith⟩
      rw [Int.fract, this]; push_cast; rfl
    have hl : (c : ℝ) < (x - d) * 2 ^ 17 := by linarith
    have hu : (x - d) * 2 ^ 17 < c + 1 := by linarith
    have hfl : ⌊x⌋₊ = d := (Nat.floor_eq_iff (by linarith [(Nat.cast_nonneg d : (0:ℝ) ≤ d)])).2 ⟨hxd.le, hxd'⟩
    rw [hfr]
    refine ⟨hfl, by linarith, ⟨fun h => ?_, fun h => ?_⟩, fun h => ?_, ?_⟩
    · by_contra hlt
      have : (c : ℝ) + 1 ≤ 2 ^ 16 := by exact_mod_cast (by omega : c + 1 ≤ 2 ^ 16)
      nlinarith
    · have : (2:ℝ) ^ 16 ≤ c := by exact_mod_cast h
      nlinarith
    · rw [h] at hl hu
      have hl' : c < 2 ^ 16 := by
        have : (c : ℝ) < 2 ^ 16 := by linarith
        exact_mod_cast this
      have : (c : ℝ) + 1 ≤ 2 ^ 16 := by exact_mod_cast hl'
      linarith
    · have hc2 := Nat.div_add_mod c 2
      have hc2' : c % 2 < 2 := Nat.mod_lt _ (by norm_num)
      have e1 : (c : ℝ) = 2 * (c / 2 : ℕ) + (c % 2 : ℕ) := by exact_mod_cast hc2.symm
      have e2 : ((c % 2 : ℕ) : ℝ) + 1 ≤ 2 := by exact_mod_cast (by omega : c % 2 + 1 ≤ 2)
      have e3 : (0:ℝ) ≤ ((c % 2 : ℕ) : ℝ) := Nat.cast_nonneg _
      have e4 : (0:ℝ) ≤ ((c / 2 : ℕ) : ℝ) := Nat.cast_nonneg _
      generalize ((c % 2 : ℕ) : ℝ) = u at *
      rw [Nat.floor_eq_iff (by linarith)]
      generalize ((c / 2 : ℕ) : ℝ) = w at *
      constructor <;> linarith
  obtain ⟨a1, a2, a3, a4, a5⟩ := key q h1 h2
  obtain ⟨b1, b2, b3, b4, b5⟩ := key q' h1' h2'
  have hup : roundsUp r neg q ↔ roundsUp r neg q' := by
    unfold roundsUp
    cases r.mode <;> simp only [a1, b1, a2, b2, a3, b3, a4, b4, a5, b5, ne_eq, false_and, or_false]
  unfold RoundsTo
  rw [hup, a1, b1]

/-- The binade of a value between q and q + 1 places. -/
theorem log_congr {x : ℝ} {q : ℕ} {g : ℤ} (hq : 1 ≤ q) (h1 : (q : ℝ) * 2 ^ g ≤ x) (h2 : x < (q + 1) * 2 ^ g) :
    Int.log 2 x = (Nat.log2 q : ℤ) + g := by
  have hq0 : q ≠ 0 := by omega
  have hp : (0:ℝ) < 2 ^ g := by positivity
  have hq1 : (1:ℝ) ≤ q := by exact_mod_cast hq
  have hx : 0 < x := by nlinarith
  apply le_antisymm
  · rw [← Int.lt_add_one_iff, ← Int.lt_zpow_iff_log_lt (by norm_num) hx]
    have : ((q : ℝ) + 1) ≤ 2 ^ (Nat.log2 q + 1) := by exact_mod_cast Nat.lt_log2_self (n := q)
    calc x < (q + 1) * 2 ^ g := h2
      _ ≤ 2 ^ (Nat.log2 q + 1) * 2 ^ g := by gcongr
      _ = ((2:ℕ):ℝ) ^ ((Nat.log2 q : ℤ) + g + 1) := by
        push_cast
        rw [← zpow_natCast, ← zpow_add₀ (by norm_num)]; congr 1; push_cast; ring
  · rw [← Int.zpow_le_iff_le_log (by norm_num) hx]
    have : ((2:ℝ) ^ Nat.log2 q) ≤ q := by exact_mod_cast Nat.log2_self_le hq0
    calc ((2:ℕ):ℝ) ^ ((Nat.log2 q : ℤ) + g) = 2 ^ Nat.log2 q * 2 ^ g := by
          push_cast
          rw [← zpow_natCast, ← zpow_add₀ (by norm_num)]
      _ ≤ q * 2 ^ g := by gcongr
      _ ≤ x := h1

/-- A value strictly between q and q + 1 places of 2^g rounds as (2q + 1) half places, once there are enough of them. -/
theorem sticky_rounds {f : Fmt} (hf : fmtIsFloat f = true) {r : Rounding} (hr : r.rnd < 65536) (neg : Bool) {x : ℝ} {q : ℕ} {g : ℤ}
    (hq : 2 ^ 48 ≤ q) (h1 : (q : ℝ) * 2 ^ g < x) (h2 : x < (q + 1) * 2 ^ g) :
    Rounds f r neg x (roundTo f r neg (2 * q + 1) (g - 1)) := by
  have hmain := roundTo_rounds hf hr neg (2 * q + 1) (g - 1)
  set y : ℝ := ((2 * q + 1 : ℕ) : ℝ) * 2 ^ (g - 1) with hy
  have hp : (0:ℝ) < 2 ^ g := by positivity
  have hyg : y = (q + 1 / 2) * 2 ^ g := by
    rw [hy, zpow_sub_one₀ (by norm_num)]; push_cast; ring
  have hy1 : (q : ℝ) * 2 ^ g < y := by rw [hyg]; nlinarith
  have hy2 : y < (q + 1) * 2 ^ g := by rw [hyg]; nlinarith
  have hlx := log_congr (by omega) h1.le h2
  have hly := log_congr (by omega) hy1.le hy2
  have hlog : 48 ≤ Nat.log2 q := (Nat.le_log2 (by omega)).2 hq
  have hman : (fields f).2.1 ≤ 23 := by cases f <;> simp [fields]
  -- rounding to any unit far above 2^g
  have hcong : ∀ u : ℤ, g + 17 ≤ u → ∀ n, RoundsTo r neg (x / 2 ^ u) n ↔ RoundsTo r neg (y / 2 ^ u) n := by
    intro u hu n
    obtain ⟨w, hw⟩ : ∃ w : ℕ, (w : ℤ) = u - 17 - g := ⟨(u - 17 - g).toNat, Int.toNat_of_nonneg (by omega)⟩
    have hpu : (2:ℝ) ^ u = 2 ^ 17 * (2 ^ w * 2 ^ g) := by
      rw [← zpow_natCast, ← zpow_natCast, ← zpow_add₀ (by norm_num), ← zpow_add₀ (by norm_num)]; congr 1; push_cast; omega
    have hdm := Nat.div_add_mod q (2 ^ w)
    have hlt := Nat.mod_lt q (show 0 < 2 ^ w by positivity)
    have e1 : (q : ℝ) = 2 ^ w * (q / 2 ^ w : ℕ) + (q % 2 ^ w : ℕ) := by exact_mod_cast hdm.symm
    have e2 : ((q % 2 ^ w : ℕ) : ℝ) + 1 ≤ 2 ^ w := by exact_mod_cast hlt
    have e3 : (0:ℝ) ≤ ((q % 2 ^ w : ℕ) : ℝ) := Nat.cast_nonneg _
    generalize hA : q / 2 ^ w = A at e1
    have hpw : (0:ℝ) < 2 ^ w * 2 ^ g := by positivity
    have hlow : ∀ z : ℝ, (q : ℝ) * 2 ^ g < z → (A : ℝ) < z / 2 ^ u * 2 ^ 17 := by
      intro z hz
      have : z / 2 ^ u * 2 ^ 17 = z / (2 ^ w * 2 ^ g) := by rw [hpu]; field_simp
      rw [this, lt_div_iff₀ hpw]
      have : (A : ℝ) * (2 ^ w * 2 ^ g) ≤ q * 2 ^ g := by
        rw [e1]; nlinarith
      linarith
    have hhigh : ∀ z : ℝ, z < (q + 1) * 2 ^ g → z / 2 ^ u * 2 ^ 17 < A + 1 := by
      intro z hz
      have : z / 2 ^ u * 2 ^ 17 = z / (2 ^ w * 2 ^ g) := by rw [hpu]; field_simp
      rw [this, div_lt_iff₀ hpw]
      have : ((q : ℝ) + 1) * 2 ^ g ≤ (A + 1) * (2 ^ w * 2 ^ g) := by
        rw [e1]; nlinarith
      linarith
    exact roundsTo_congr (hlow x h1) (hhigh x h2) (hlow y hy1) (hhigh y hy2) n
  have hne : ∀ u : ℤ, g + 17 ≤ u → ∀ (z : ℝ), (q : ℝ) * 2 ^ g < z → z < (q + 1) * 2 ^ g → ∀ n : ℕ, (n : ℝ) * 2 ^ u ≠ z := by
    intro u hu z hz1 hz2 n hz
    obtain ⟨w, hw⟩ : ∃ w : ℕ, (w : ℤ) = u - g := ⟨(u - g).toNat, Int.toNat_of_nonneg (by omega)⟩
    have hpu : (2:ℝ) ^ u = 2 ^ w * 2 ^ g := by
      rw [← zpow_natCast, ← zpow_add₀ (by norm_num)]; congr 1; omega
    rw [← hz, hpu, ← mul_assoc] at hz1 hz2
    have a1 : (q : ℝ) < n * 2 ^ w := lt_of_mul_lt_mul_right hz1 hp.le
    have a2 : (n : ℝ) * 2 ^ w < q + 1 := lt_of_mul_lt_mul_right hz2 hp.le
    have a3 : q < n * 2 ^ w := by exact_mod_cast a1
    have a4 : n * 2 ^ w < q + 1 := by exact_mod_cast a2
    omega
  unfold Rounds at hmain ⊢
  generalize fields f = F at hmain hman ⊢
  obtain ⟨fe, man, bias⟩ := F
  dsimp only at hmain hman ⊢
  rw [hlx]
  rw [hly] at hmain
  intro n k hn hk
  rw [hcong _ (by omega)] at hn hk
  obtain ⟨b1, b2⟩ := hmain n k hn hk
  refine ⟨b1, fun hle => ?_⟩
  obtain ⟨c1, c2, c3, c4, c5, c6, c7⟩ := b2 hle
  have hx' := hne (max ((Nat.log2 q : ℤ) + g) (1 - bias) - man) (by omega) x h1 h2 n
  have hy' := hne (max ((Nat.log2 q : ℤ) + g) (1 - bias) - man) (by omega) y hy1 hy2 n
  exact ⟨c1, c2, c3, c4, fun h => absurd h hx', fun _ h => c6 hy' h, fun _ h => c7 hy' h⟩

/-- The exact quotient, rounded. -/
theorem div_rounds {f : Fmt} (hf : fmtIsFloat f = true) {r : Rounding} (hr : r.rnd < 65536) (neg : Bool) {m n : ℕ} (hm : m ≠ 0) (hn : n ≠ 0)
    (e : ℤ) : Rounds f r neg ((m : ℝ) / n * 2 ^ e) (roundTo f r neg (divSticky m n e).1 (divSticky m n e).2) := by
  unfold divSticky
  dsimp only
  set k : ℕ := 300 + Nat.log2 n with hk
  have hn0 : 0 < n := by omega
  have hdm := Nat.div_add_mod (m * 2 ^ k) n
  have hlt := Nat.mod_lt (m * 2 ^ k) hn0
  have hbig : 2 ^ 48 ≤ m * 2 ^ k / n := by
    rw [Nat.le_div_iff_mul_le hn0]
    have h1 : n < 2 ^ (Nat.log2 n + 1) := Nat.lt_log2_self
    calc 2 ^ 48 * n ≤ 2 ^ 48 * 2 ^ (Nat.log2 n + 1) := by gcongr
      _ = 2 ^ (Nat.log2 n + 49) := by rw [← pow_add]; congr 1; omega
      _ ≤ 2 ^ k := Nat.pow_le_pow_right (by norm_num) (by omega)
      _ ≤ m * 2 ^ k := Nat.le_mul_of_pos_left _ (by omega)
  generalize m * 2 ^ k / n = q at hdm hbig
  have hnr : (0:ℝ) < n := by exact_mod_cast hn0
  have hp : (0:ℝ) < 2 ^ (e - k) := by positivity
  have hx : (m : ℝ) / n * 2 ^ e = (m * 2 ^ k : ℕ) / n * 2 ^ (e - k) := by
    have : (2:ℝ) ^ e = 2 ^ k * 2 ^ (e - k) := by
      rw [← zpow_natCast, ← zpow_add₀ (by norm_num)]; congr 1; ring
    rw [this]; push_cast; ring
  rw [hx]
  by_cases h0 : m * 2 ^ k % n = 0
  · rw [if_pos (by simpa using h0), Nat.add_zero]
    have := roundTo_rounds hf hr neg (2 * q) (e - k - 1)
    convert this using 1
    rw [h0, Nat.add_zero] at hdm
    rw [← hdm, zpow_sub_one₀ (by norm_num)]
    push_cast; field_simp
  · rw [if_neg (by simpa using h0)]
    have e1 : ((m * 2 ^ k : ℕ) : ℝ) = n * q + (m * 2 ^ k % n : ℕ) := by exact_mod_cast hdm.symm
    have e2 : (0:ℝ) < (m * 2 ^ k % n : ℕ) := by exact_mod_cast Nat.pos_of_ne_zero h0
    have e3 : ((m * 2 ^ k % n : ℕ) : ℝ) < n := by exact_mod_cast hlt
    refine sticky_rounds hf hr neg hbig ?_ ?_
    · have : (q : ℝ) < (m * 2 ^ k : ℕ) / n := by rw [lt_div_iff₀ hnr, e1]; linarith
      gcongr
    · have : ((m * 2 ^ k : ℕ) : ℝ) / n < q + 1 := by rw [div_lt_iff₀ hnr, e1]; linarith
      gcongr

/-- The exact square root, rounded. -/
theorem sqrt_rounds {f : Fmt} (hf : fmtIsFloat f = true) {r : Rounding} (hr : r.rnd < 65536) (neg : Bool) {m : ℕ} (hm : m ≠ 0) (e : ℤ) :
    Rounds f r neg (√((m : ℝ) * 2 ^ e)) (roundTo f r neg (sqrtSticky m e).1 (sqrtSticky m e).2) := by
  unfold sqrtSticky
  dsimp only
  have hk0 : ∃ k : ℕ, (400 + (if (e - 400) % 2 == 0 then 0 else 1) : ℕ) = k ∧ 400 ≤ k ∧ (e - k) % 2 = 0 := by
    refine ⟨_, rfl, by omega, ?_⟩
    by_cases h : (e - 400) % 2 = 0
    · simp [h]
    · simp [h]; omega
  obtain ⟨k, hk1, hk2, hk3⟩ := hk0
  rw [hk1]
  clear hk1
  obtain ⟨j, hj⟩ : ∃ j : ℤ, e - k = 2 * j := ⟨(e - k) / 2, by omega⟩
  have hj2 : (e - k) / 2 = j := by omega
  rw [hj2]
  have hp : (0:ℝ) < 2 ^ j := by positivity
  have hx : √((m : ℝ) * 2 ^ e) = √((m * 2 ^ k : ℕ) : ℝ) * 2 ^ j := by
    have : (m : ℝ) * 2 ^ e = (m * 2 ^ k : ℕ) * (2 ^ j) ^ 2 := by
      have : (2:ℝ) ^ e = 2 ^ k * (2 ^ j) ^ 2 := by
        rw [← zpow_natCast, ← zpow_natCast, ← zpow_mul, ← zpow_add₀ (by norm_num)]; congr 1; push_cast; omega
      rw [this]; push_cast; ring
    rw [this, Real.sqrt_mul (Nat.cast_nonneg _), Real.sqrt_sq hp.le]
  rw [hx]
  generalize hN : m * 2 ^ k = N
  have hNbig : 2 ^ 400 ≤ N := by
    rw [← hN]
    exact (Nat.pow_le_pow_right (by norm_num) hk2).trans (Nat.le_mul_of_pos_left _ (by omega))
  have h1 := Nat.sqrt_le N
  have h2 : N < (Nat.sqrt N + 1) * (Nat.sqrt N + 1) := Nat.lt_succ_sqrt N
  have hbig : 2 ^ 48 ≤ Nat.sqrt N := by
    rw [Nat.le_sqrt]
    refine le_trans ?_ hNbig
    rw [← pow_add]; exact Nat.pow_le_pow_right (by norm_num) (by norm_num)
  generalize Nat.sqrt N = q at *
  by_cases h0 : q * q = N
  · rw [if_pos (by simpa using h0), Nat.add_zero]
    have := roundTo_rounds hf hr neg (2 * q) (j - 1)
    convert this using 1
    rw [← h0, zpow_sub_one₀ (by norm_num)]
    push_cast
    rw [Real.sqrt_mul_self (Nat.cast_nonneg _)]; ring
  · rw [if_neg (by simpa using h0)]
    have a1 : (q : ℝ) < √(N : ℝ) := by
      rw [Real.lt_sqrt (Nat.cast_nonneg _)]
      have : q * q < N := lt_of_le_of_ne h1 h0
      have : ((q * q : ℕ) : ℝ) < N := by exact_mod_cast this
      push_cast at this; nlinarith
    have a2 : √(N : ℝ) < q + 1 := by
      rw [Real.sqrt_lt' (by positivity)]
      have : (N : ℝ) < ((q + 1) * (q + 1) : ℕ) := by exact_mod_cast h2
      push_cast at this; nlinarith
    refine sticky_rounds hf hr neg hbig ?_ ?_ <;> gcongr

/-- The exact reciprocal square root, rounded, as `sfuFinite` forms it. -/
theorem rsq_rounds {f : Fmt} (hf : fmtIsFloat f = true) {r : Rounding} (hr : r.rnd < 65536) (neg : Bool) {m : ℕ} (hm : m ≠ 0)
    (hm2 : m < 2 ^ 24) (e : ℤ) : Rounds f r neg (1 / √((m : ℝ) * 2 ^ e)) (sfuFinite f .rsq r neg m e) := by
  unfold sfuFinite
  dsimp only
  obtain ⟨s, hs, hs1, hs2⟩ : ∃ s : ℕ, (e % 2).toNat = s ∧ s ≤ 1 ∧ (e - s) % 2 = 0 := ⟨_, rfl, by omega, by omega⟩
  rw [hs]
  obtain ⟨j, hj⟩ : ∃ j : ℤ, e - s = 2 * j := ⟨(e - s) / 2, by omega⟩
  have hj2 : (e - s) / 2 = j := by omega
  rw [hj2]
  generalize hM : m * 2 ^ s = M
  have hM0 : 0 < M := by rw [← hM]; positivity
  have hMr : (0:ℝ) < M := by exact_mod_cast hM0
  have hM2 : M < 2 ^ 25 := by
    rw [← hM]
    calc m * 2 ^ s ≤ m * 2 ^ 1 := Nat.mul_le_mul_left _ (Nat.pow_le_pow_right (by norm_num) hs1)
      _ < 2 ^ 25 := by omega
  generalize hk : (600 : ℕ) = k
  have hp : (0:ℝ) < 2 ^ (-(k:ℤ) - j) := by positivity
  have hx : 1 / √((m : ℝ) * 2 ^ e) = √((2 ^ (2 * k) : ℕ) / (M : ℝ)) * 2 ^ (-(k:ℤ) - j) := by
    have h1 : (m : ℝ) * 2 ^ e = M * (2 ^ j) ^ 2 := by
      have : (2:ℝ) ^ e = 2 ^ s * (2 ^ j) ^ 2 := by
        rw [← zpow_natCast, ← zpow_natCast, ← zpow_mul, ← zpow_add₀ (by norm_num)]; congr 1; push_cast; omega
      rw [this, ← hM]; push_cast; ring
    have h2 : ((2 ^ (2 * k) : ℕ) : ℝ) / M = (2 ^ k) ^ 2 * (1 / M) := by push_cast; ring
    rw [h1, h2, Real.sqrt_mul hMr.le, Real.sqrt_sq (by positivity), Real.sqrt_mul (by positivity), Real.sqrt_sq (by positivity),
      Real.sqrt_div (by norm_num), Real.sqrt_one]
    have h3 : (2:ℝ) ^ (-(k:ℤ) - j) = (2 ^ k)⁻¹ * (2 ^ j)⁻¹ := by
      rw [sub_eq_add_neg, zpow_add₀ (by norm_num), zpow_neg, zpow_neg, zpow_natCast]
    rw [h3]; field_simp
  rw [hx]
  have hdm := Nat.div_add_mod (2 ^ (2 * k)) M
  have hlt := Nat.mod_lt (2 ^ (2 * k)) hM0
  have h1 := Nat.sqrt_le (2 ^ (2 * k) / M)
  have h2 : 2 ^ (2 * k) / M < (Nat.sqrt (2 ^ (2 * k) / M) + 1) * (Nat.sqrt (2 ^ (2 * k) / M) + 1) := Nat.lt_succ_sqrt _
  have hbig : 2 ^ 48 ≤ Nat.sqrt (2 ^ (2 * k) / M) := by
    rw [Nat.le_sqrt, Nat.le_div_iff_mul_le hM0, ← pow_add]
    calc 2 ^ (48 + 48) * M ≤ 2 ^ (48 + 48) * 2 ^ 25 := by gcongr
      _ ≤ 2 ^ (2 * k) := by rw [← pow_add]; exact Nat.pow_le_pow_right (by norm_num) (by omega)
  have hg : -(k:ℤ) - j - 1 = (-(k:ℤ) - j) - 1 := rfl
  have hle : Nat.sqrt (2 ^ (2 * k) / M) * Nat.sqrt (2 ^ (2 * k) / M) * M ≤ 2 ^ (2 * k) :=
    (Nat.le_div_iff_mul_le hM0).1 h1
  have hgt : 2 ^ (2 * k) < (Nat.sqrt (2 ^ (2 * k) / M) + 1) * (Nat.sqrt (2 ^ (2 * k) / M) + 1) * M :=
    (Nat.div_lt_iff_lt_mul hM0).1 h2
  generalize Nat.sqrt (2 ^ (2 * k) / M) = q at *
  generalize 2 ^ (2 * k) = N at *
  by_cases h0 : q * q * M = N
  · rw [if_pos (by simpa using h0), Nat.add_zero]
    have := roundTo_rounds hf hr neg (2 * q) (-(k:ℤ) - j - 1)
    convert this using 1
    rw [← h0, zpow_sub_one₀ (by norm_num)]
    push_cast
    rw [mul_div_cancel_right₀ _ hMr.ne', Real.sqrt_mul_self (Nat.cast_nonneg _)]; ring
  · rw [if_neg (by simpa using h0)]
    have a1 : (q : ℝ) < √((N : ℝ) / M) := by
      rw [Real.lt_sqrt (Nat.cast_nonneg _), lt_div_iff₀ hMr]
      have : ((q * q * M : ℕ) : ℝ) < N := by exact_mod_cast lt_of_le_of_ne hle h0
      push_cast at this; nlinarith
    have a2 : √((N : ℝ) / M) < q + 1 := by
      rw [Real.sqrt_lt' (by positivity), div_lt_iff₀ hMr]
      have : (N : ℝ) < ((q + 1) * (q + 1) * M : ℕ) := by exact_mod_cast hgt
      push_cast at this; nlinarith
    refine sticky_rounds hf hr neg hbig ?_ ?_ <;> gcongr

end Sys2Proof.Laws
end

