-- ==== Sys2Proof/Laws/Safe.lean ====
section
/-!
SUPPORT. Safety is kept by the named operations: changing one part of the state, storing, discarding work, taking a trap,
and issuing a word whose own effect keeps it.
-/

namespace Sys2Proof

open Sys2Proof.Machine

/-- Safety looks at the two memories, the scratchpads and the compressed pages alone. -/
theorem Safe.of_eq {s t : State} (h : Safe s) (hm : t.mem = s.mem) (hh : t.hostMem = s.hostMem)
    (hg : ∀ g ∈ t.groups, Memory.wf g.pad = true) (hp : t.parts = s.parts) : Safe t :=
  ⟨hm ▸ h.1, hh ▸ h.2.1, hg, hp ▸ h.2.2.2⟩

theorem Safe.same {s t : State} (h : Safe s) (hm : t.mem = s.mem) (hh : t.hostMem = s.hostMem)
    (hg : t.groups = s.groups) (hp : t.parts = s.parts) : Safe t := h.of_eq hm hh (hg ▸ h.2.2.1) hp

/-! ### One part of the state -/

theorem mem_modWhere {α : Type} {p : α → Bool} {f : α → α} {l : List α} {b : α} (h : b ∈ modWhere l p f) :
    ∃ a ∈ l, b = a ∨ b = f a := by
  obtain ⟨a, ha, rfl⟩ := List.mem_map.mp h
  exact ⟨a, ha, by split <;> simp⟩

theorem Safe.modGroup {s : State} (h : Safe s) (u : Nat) (f : Group → Group)
    (hf : ∀ g, Memory.wf g.pad = true → Memory.wf (f g).pad = true) : Safe (s.modGroup u f) := by
  refine h.of_eq rfl rfl (fun b hb => ?_) rfl
  obtain ⟨a, ha, rfl | rfl⟩ := mem_modWhere hb
  · exact h.2.2.1 _ ha
  · exact hf a (h.2.2.1 _ ha)

theorem Safe.modTeam {s : State} (h : Safe s) (r : TeamRef) (f : Team → Team) : Safe (s.modTeam r f) :=
  h.modGroup _ _ fun _ hg => hg

theorem Safe.modCtx {s : State} (h : Safe s) (p c : Nat) (f : Ctx → Ctx) : Safe (s.modCtx p c f) := h.same rfl rfl rfl rfl

theorem Safe.modCore {s : State} (h : Safe s) (c : Nat) (f : Core → Core) : Safe (s.modCore c f) := h.same rfl rfl rfl rfl

theorem Safe.modFunc {s : State} (h : Safe s) (n : Nat) (f : Function → Function) : Safe (s.modFunc n f) := h.same rfl rfl rfl rfl

theorem Safe.modLaunch {s : State} (h : Safe s) (l : Nat) (f : Launch → Launch) : Safe (s.modLaunch l f) := h.same rfl rfl rfl rfl

theorem Safe.moved {s : State} (h : Safe s) : Safe s.moved := h.same rfl rfl rfl rfl

theorem Safe.postEvent {s : State} (h : Safe s) (c : Ctx) (k n o : Nat) (w : Word) (d : DWord) :
    Safe (s.postEvent c k n o w d) := by
  unfold State.postEvent
  dsimp only
  split <;> exact h.same rfl rfl rfl rfl

theorem mem_modAt {α : Type} {f : α → α} : ∀ {l : List α} {n : Nat} {b : α}, b ∈ modAt l n f → ∃ a ∈ l, b = a ∨ b = f a := by
  intro l n b h
  unfold modAt at h
  split at h
  · rename_i x hx
    rcases List.mem_or_eq_of_mem_set h with h | rfl
    · exact ⟨b, h, .inl rfl⟩
    · exact ⟨x, List.mem_of_getElem? hx, .inr rfl⟩
  · exact ⟨b, h, .inl rfl⟩

theorem Safe.modPart {s : State} (h : Safe s) (p : Nat) (f : Partition → Partition)
    (hf : ∀ t, (∀ r ∈ t.comp, Memory.wf r.data = true) → ∀ r ∈ (f t).comp, Memory.wf r.data = true) : Safe (s.modPart p f) := by
  refine ⟨h.1, h.2.1, h.2.2.1, fun b hb => ?_⟩
  obtain ⟨a, ha, rfl | rfl⟩ := mem_modAt hb
  · exact h.2.2.2 _ ha
  · exact hf a (h.2.2.2 _ ha)

/-! ### Stores -/

theorem Safe.writeAs {s : State} (h : Safe s) (r : Option TeamRef) (n : Option (Nat × Int)) (host : Bool) (pa : Nat)
    (bs : List Byte) : Safe (s.writeAs r n host pa bs) := by
  cases host
  · exact ⟨memWriteN_wf _ _ _ h.1, h.2⟩
  · exact ⟨h.1, memWriteN_wf _ _ _ h.2.1, h.2.2⟩

theorem Safe.writePhys {s : State} (h : Safe s) (host : Bool) (pa : Nat) (bs : List Byte) : Safe (s.writePhys host pa bs) :=
  h.writeAs ..

/-- A write to a scratchpad keeps its form. -/
theorem padWrite_wf {g : Group} (h : Memory.wf g.pad = true) (off : Nat) (bs : List Byte) : Memory.wf (g.padWrite off bs).pad = true :=
  memWriteN_wf _ _ _ h

/-- Many writes to a scratchpad keep its form. -/
theorem padFold_wf {α : Type} (f : Group → α → Group) (hf : ∀ g a, Memory.wf g.pad = true → Memory.wf (f g a).pad = true) :
    ∀ (l : List α) (g : Group), Memory.wf g.pad = true → Memory.wf (l.foldl f g).pad = true
  | [], _, h => h
  | a :: l, g, h => padFold_wf f hf l (f g a) (hf g a h)

theorem padPut_wf {g : Group} (h : Memory.wf g.pad = true) (bs : List (Nat × Byte)) : Memory.wf (g.padPut bs).pad = true :=
  padFold_wf _ (fun _ _ hg => padWrite_wf hg _ _) _ _ h

theorem padWords_wf {g : Group} (h : Memory.wf g.pad = true) (off : Nat) (bs : List Byte) :
    Memory.wf (g.padWords off bs).pad = true := padPut_wf h _

theorem padElems_wf {g : Group} (h : Memory.wf g.pad = true) (n off : Nat) (bs : List Byte) :
    Memory.wf (g.padElems n off bs).pad = true :=
  padFold_wf _ (fun _ _ hg => padWrite_wf hg _ _) _ _ h

/-- An engine's writes, made in the group itself, keep its scratchpad's form, whatever view they were made on. -/
theorem adopt_wf {g : Group} (h : Memory.wf g.pad = true) (w : Group) : Memory.wf (g.adopt w).pad = true :=
  padFold_wf _ (fun _ _ hg => padWrite_wf hg _ _) _ _ h

/-- A read that misses writes reads a scratchpad in the form. -/
theorem missFrom_wf (may : PastWrite → Bool) : ∀ (es kept : List PastWrite) (g : Group), Memory.wf g.pad = true →
    Memory.wf (missFrom may es kept g).1.pad = true
  | [], _, _, h => h
  | e :: es, kept, g, h => by
    unfold missFrom
    split
    · refine missFrom_wf may es kept _ ?_
      unfold Group.undo
      split
      · exact h
      · exact memWriteN_wf _ _ _ h
    · exact missFrom_wf may es (e :: kept) g h

theorem engineView_wf {g : Group} (h : Memory.wf g.pad = true) (s : State) : Memory.wf (s.engineView g).pad = true :=
  missFrom_wf _ _ _ _ h

theorem padView_wf {x : Iss} (h : Memory.wf x.g.pad = true) : Memory.wf x.padView.1.pad = true := missFrom_wf _ _ _ _ h

/-- Taking over a team's scratchpad writes keeps the form where it was kept. -/
theorem storePad_wf (g : Group) {w : Group} (h : Memory.wf w.pad = true) (r : TeamRef) :
    Memory.wf (g.storePad w r).pad = true := h

theorem Safe.fenceStores {s : State} (h : Safe s) (r : TeamRef) : Safe (s.fenceStores r) := by
  refine h.of_eq rfl rfl (fun b hb => ?_) rfl
  obtain ⟨a, ha, rfl⟩ := List.mem_map.mp hb
  exact h.2.2.1 a ha

theorem Safe.acquire {s : State} (h : Safe s) (r : TeamRef) : Safe (s.acquire r) := by
  unfold State.acquire
  split
  · exact h
  · exact (h.modCore _ _).modTeam _ _

/-! ### Discarding work and taking a trap -/

theorem safe_foldl {α : Type} (f : State → α → State) (hf : ∀ s a, Safe s → Safe (f s a)) :
    ∀ (l : List α) (s : State), Safe s → Safe (l.foldl f s)
  | [], _, h => h
  | a :: l, s, h => safe_foldl f hf l (f s a) (hf s a h)

theorem Safe.withdraw {s : State} (h : Safe s) (q : PageReq) : Safe (s.withdraw q) := by
  unfold State.withdraw
  split
  · exact h
  · exact h.modFunc _ _

theorem Safe.writePlaces {s : State} (h : Safe s) (ps : List Place) (bs : List Byte) : Safe (s.writePlaces ps bs) :=
  safe_foldl _ (fun _ _ hs => hs.writeAs ..) _ _ h

theorem Safe.detach {s : State} (h : Safe s) (p : Nat) (q : Waiter → Bool) : Safe (s.detach p q) := by
  unfold State.detach
  split
  · exact h
  · exact safe_foldl _ (fun s a hs => hs.withdraw a) _ _ (h.modPart _ _ fun _ ht => ht)

theorem Safe.removeGroup {s : State} (h : Safe s) (u : Nat) : Safe (s.removeGroup u) := by
  unfold State.removeGroup
  split
  · exact h
  · rename_i g _
    have h := (h.detach g.part (waiterOf s u)).modCore g.core fun c => c.freeGroup u
    exact h.of_eq rfl rfl (fun b hb => h.2.2.1 b (List.mem_filter.mp hb).1) rfl

theorem Safe.refuseIncoming {s : State} (h : Safe s) (p c : Nat) : Safe (s.refuseIncoming p c) :=
  safe_foldl (fun (s : State) (r : Incoming) => s.modPort r.port fun p => if p.state = 2 then { p with sent := p.sent ++ [(false, [])] } else p)
    (fun _ _ hs => hs.same rfl rfl rfl rfl) _ _ (h.same rfl rfl rfl rfl)

theorem Safe.discardCtx {s : State} (h : Safe s) (p c : Nat) : Safe (s.discardCtx p c) := by
  unfold State.discardCtx
  have h := safe_foldl State.removeGroup (fun s u hs => hs.removeGroup u)
    ((s.groups.filter fun g => g.part == p && g.ctxid == c).map (·.uid)) s h
  exact Safe.same ((h.detach p _).refuseIncoming p c) rfl rfl rfl rfl

theorem Safe.ctxError {s : State} (h : Safe s) (p c k o : Nat) (w : Word) (d : DWord) : Safe (s.ctxError p c k o w d) := by
  unfold State.ctxError
  split
  · exact h
  · split
    · exact h
    · exact ((h.discardCtx _ _).modCtx _ _ _).postEvent ..

theorem Safe.raiseTrap {s : State} (h : Safe s) (r : TeamRef) (k : Nat) (d : DWord) (w : Word) : Safe (s.raiseTrap r k d w) := by
  unfold State.raiseTrap
  split
  · exact h
  · split
    · exact h
    · split
      · exact h.modTeam ..
      · exact h.ctxError ..

/-! ### Issuing a word -/

/-- The state that an effect carries on with is safe. -/
def Machine.Act.Safe : Act → Prop
  | .ok s => Sys2Proof.Safe s
  | .goto s _ => Sys2Proof.Safe s
  | .trap _ _ => True
  | .trapNext _ _ => True
  | .trapKeep s _ _ => Sys2Proof.Safe s
  | .hold s => Sys2Proof.Safe s
  | .holdQueue s => Sys2Proof.Safe s
  | .done s => Sys2Proof.Safe s

theorem conclude_safe (i : Instr) {x : Iss} (hx : Safe x.s) {a : Act} (h : a.Safe) : Safe (conclude i x a) := by
  cases a with
  | ok s => exact (Safe.modTeam h _ _).moved
  | goto s pc => exact (Safe.modTeam h _ _).moved
  | trap c v => exact (hx.raiseTrap ..).moved
  | trapNext c v => exact ((hx.modTeam _ _).raiseTrap ..).moved
  | trapKeep s c v => exact (Safe.raiseTrap h ..).moved
  | hold s => exact Safe.modTeam h _ _
  | holdQueue s => exact Safe.modTeam h _ _
  | done s => exact Safe.moved h

/-- Advancing the clock to an issue keeps every memory. -/
theorem Safe.issueClk {s : State} (h : Safe s) (g : Group) (t : Team) (i : Instr) : Safe (s.issueClk g t i) :=
  h.same rfl rfl rfl rfl

/-- A word keeps safety if its own effect does, from a safe state and a group whose scratchpad has the form. -/
theorem issue_safe {i : Instr} {s : State} {body : Iss → Act} (h : Safe s)
    (hb : ∀ x : Iss, Safe x.s → Memory.wf x.g.pad = true → (body x).Safe) :
    ∀ t, issue i s body = .next t → Safe t := by
  intro t ht
  unfold issue at ht
  split at ht
  · cases ht; exact h
  · split at ht
    · cases ht; exact h
    · rename_i g hg
      split at ht
      · cases ht; exact h
      · rename_i tm _
        have hgm : Memory.wf g.pad = true := h.2.2.1 _ (List.mem_of_find?_eq_some hg)
        dsimp only at ht
        split at ht
        · cases ht; exact (h.raiseTrap ..).moved
        · cases ht
          refine conclude_safe i (h.issueClk _ _ _) (hb _ (h.issueClk _ _ _) ?_)
          unfold Group.forTeam
          split <;> exact hgm

end Sys2Proof
end

