-- ==== Sys2Proof/Tests/Slice0.lean ====
section
/-!
SUPPORT. Small tests: words of the opcode table decoded, ill-formed terms refused, and for each obligation a concrete state and
operands that meet its hypotheses.
-/

namespace Sys2Proof.Tests

open Sys2Proof.Machine

set_option Elab.async false

/-! ### Words of the opcode table -/

/-- Words of major 0x01, from the opcode table: its fixed bits and each field at a value of its own. -/
def wordsSys : List (Nat × Instr) :=
  [(0x02000000, .nop), (0x02000118, .trap 0x18), (0x02000200, .tret), (0x03940302, .rds 0x65 2), (0x02000C18, .wrs 1 0x18),
   (0x02040500, .rdclk 1), (0x02000609, .bkpt 9)]

/-- Words of major 0x02, from the opcode table: its fixed bits and each field at a value of its own. -/
def wordsCtl : List (Nat × Instr) :=
  [(0x040C0001, .ifc 3 1), (0x043C0004, .elsec 4), (0x045C0000, .endifc), (0x047C0001, .loopc 1),
   (0x049000E5, .breakc 4 0xE5), (0x04A800E3, .contc 2 0xE3), (0x04DC0002, .endl 2), (0x04F7FFFE, .jmp 5 0x3FFFE),
   (0x051C0001, .callc 1), (0x053C0000, .retc), (0x05500000, .exitc 4), (0x057C0000, .yield)]

/-- Words of major 0x03, from the opcode table: its fixed bits and each field at a value of its own. -/
def wordsHlp : List (Nat × Instr) :=
  [(0x061C05E3, .hloop 5 0xE3), (0x063C1E09, .hloops 0x1E 9), (0x064C0000, .hbrk 3)]

/-- Words of major 0x04, from the opcode table: its fixed bits and each field at a value of its own. -/
def wordsIalu : List (Nat × Instr) :=
  [(0x09940E40, .iadd 0x65 1 0x64), (0x081B2021, .isub 6 0x64 2), (0x08182072, .imul 6 4 7), (0x081F2843, .imulh 7 0x65 4),
   (0x08042874, .imulhn 1 5 7), (0x09932815, .imin 0x64 0x65 1), (0x0813F036, .imax 4 0x7E 3),
   (0x08132E17, .nmin 4 0x65 0x61), (0x081C3018, .nmax 7 6 1), (0x081F1049, .iand 7 0x62 4), (0x0817281A, .ior 5 0x65 1),
   (0x081C162B, .ixor 7 2 0x62), (0x0997083C, .andn 0x65 0x61 3), (0x081C0E2D, .shl 7 1 0x62),
   (0x08132FEE, .shr 4 0x65 0x7E), (0x08182FEF, .sar 6 5 0x7E)]

/-- Words of major 0x05, from the opcode table: its fixed bits and each field at a value of its own. -/
def wordsIalu2 : List (Nat × Instr) :=
  [(0x0A0FF000, .iabs 3 0x7E), (0x0A141001, .ineg 5 2), (0x0A043002, .inot 1 6), (0x0A0B2003, .popc 2 0x64),
   (0x0B900804, .clz 0x64 1), (0x0B932805, .brev 0x64 0x65), (0x0A0C2826, .bfe 3 5 2), (0x0A083817, .bfi 2 7 1),
   (0x0A132868, .isel 4 0x65 6), (0x0B37F029, .icmp 9 5 0x7E 2), (0x0A0FF00A, .movc 3 0x7E), (0x0A18087B, .imad 6 1 7)]

/-- Words of major 0x06, from the opcode table: its fixed bits and each field at a value of its own. -/
def wordsIalui : List (Nat × Instr) :=
  [(0x0D943809, .iaddi 0x65 7 9), (0x0C0421E3, .andi 1 4 0xE3), (0x0D87F205, .ori 0x61 0x7E 5),
   (0x0C103B18, .xori 4 7 0x18), (0x0DF83405, .shli 0x7E 6 5), (0x0D941D09, .shri 0x65 3 9),
   (0x0D883EE5, .sari 0x62 7 0xE5), (0x0C542718, .icmpi 2 5 4 0x18)]

/-- Words of major 0x07, from the opcode table: its fixed bits and each field at a value of its own. -/
def wordsMovi : List (Nat × Instr) :=
  [(0x0E180002, .movi 6 2)]

/-- Words of major 0x08, from the opcode table: its fixed bits and each field at a value of its own. -/
def wordsAddr : List (Nat × Instr) :=
  [(0x1187F640, .aadd 0x61 0x7E 0x64), (0x100F0E41, .asub 3 0x61 0x64), (0x10132E22, .amov 4 0x65 0x62),
   (0x10082033, .acvt 2 4 3), (0x10980E54, .acmp 4 6 1 0x65), (0x10043025, .slice 1 6 2), (0x10043E4C, .ashladd 1 7 0x64 4)]

/-- Words of major 0x09, from the opcode table: its fixed bits and each field at a value of its own. -/
def wordsFpu : List (Nat × Instr) :=
  [(0x12180850, .fadd 6 1 5), (0x13902011, .fsub 0x64 4 1), (0x13840E42, .fmul 0x61 1 0x64), (0x120C3643, .ffma 3 6 0x64),
   (0x13841014, .fmin 0x61 2 1), (0x13872815, .fmax 0x61 0x65 1), (0x121F2846, .fmint 7 0x65 4), (0x12143017, .fmaxt 5 6 1),
   (0x121C2008, .fabs 7 4), (0x12132009, .fneg 4 0x64), (0x12970E5A, .fcmp 4 5 0x61 0x65), (0x1390180B, .fclass 0x64 3),
   (0x13FB165C, .fscale 0x7E 0x62 0x65), (0x138BF01D, .fsel 0x62 0x7E 1)]

/-- Words of major 0x0A, from the opcode table: its fixed bits and each field at a value of its own. -/
def wordsPk16 : List (Nat × Instr) :=
  [(0x15843078, .hadd2 0x61 6 7 1), (0x15942039, .hsub2 0x65 4 3 1), (0x1584206A, .hmul2 0x61 4 6 1),
   (0x140B286B, .hfma2 2 0x65 6 1), (0x15FB202C, .hmax2 0x7E 0x64 2 1), (0x15FB161D, .hmin2 0x7E 0x62 0x61 1)]

/-- Words of major 0x0B, from the opcode table: its fixed bits and each field at a value of its own. -/
def wordsSfu : List (Nat × Instr) :=
  [(0x17883800, .rcp 0x62 7), (0x16131001, .rsq 4 0x62), (0x16171002, .sqrtc 5 0x62), (0x16072003, .exp2c 1 0x64),
   (0x17882004, .log2c 0x62 4), (0x16070805, .sinc 1 0x61), (0x16041006, .cosc 1 2), (0x16042007, .tanhc 1 4),
   (0x161C0808, .erfc 7 1)]

/-- Words of major 0x0C, from the opcode table: its fixed bits and each field at a value of its own. -/
def wordsCvt : List (Nat × Instr) :=
  [(0x19872000, .cvt 0x61 0x64), (0x181B2071, .cvtsr 6 0x64 7), (0x18071642, .quant 1 0x62 0x64),
   (0x18180E43, .deq 6 1 0x64), (0x181C0844, .pack 7 1 4), (0x19881815, .unpack 0x62 3 1), (0x18041806, .cbld 1 3),
   (0x180F2007, .tokey 3 0x64)]

/-- Words of major 0x0D, from the opcode table: its fixed bits and each field at a value of its own. -/
def wordsXlane : List (Nat × Instr) :=
  [(0x1A143810, .qxch 5 7 1), (0x1A17F021, .qbc 5 0x7E 2), (0x1B903012, .shfl 0x64 6 1), (0x1A0C3023, .shflDn 3 6 2),
   (0x1A1BF3E3, .shflUp 6 0x7E 0x1E), (0x1B930DE3, .shflXor 0x64 0x61 0x1E), (0x1B841854, .sred 0x61 3 5),
   (0x1BFB20D5, .sscan 0x7E 0x64 1 5), (0x1A080E56, .vote 2 1 0x65), (0x1A140827, .tred 5 1 2), (0x1A0C0E48, .tbc 3 1 0x64),
   (0x1B942619, .matchx 0x65 4 0x61)]

/-- Words of major 0x10, from the opcode table: its fixed bits and each field at a value of its own. -/
def wordsLdg : List (Nat × Instr) :=
  [(0x219328C0, .ld 0x64 0x65 1 4 0), (0x200C2CC2, .ldAcq 3 5 9 4 0), (0x21943934, .ldPoll 0x65 7 2 1),
   (0x20000905, .pref 1 2), (0x2007F736, .ldq 1 0x7E 0xE 3), (0x20070CB7, .ldqg 1 0x61 9 3)]

/-- Words of major 0x11, from the opcode table: its fixed bits and each field at a value of its own. -/
def wordsStg : List (Nat × Instr) :=
  [(0x220412C0, .st 1 2 5 4), (0x23903191, .stRel 0x64 6 3 1), (0x2217F192, .stq 5 0x7E 3 1)]

/-- Words of major 0x12, from the opcode table: its fixed bits and each field at a value of its own. -/
def wordsTld : List (Nat × Instr) :=
  [(0x241820A0, .tld 6 4 1), (0x24081AA1, .tst 2 3 5), (0x241C1222, .tldr 7 2 4), (0x241F29A3, .tstr 7 0x65 3),
   (0x2403F484, .tbind 0x7E 9)]

/-- Words of major 0x13, from the opcode table: its fixed bits and each field at a value of its own. -/
def wordsAtom : List (Nat × Instr) :=
  [(0x261B2230, .atomAdd 6 0x64 1 3), (0x26071431, .atomMinI 1 0x62 2 3), (0x260B2232, .atomMaxI 2 0x64 1 3),
   (0x26143C33, .atomMinN 5 7 2 3), (0x26102E24, .atomMaxN 4 5 3 2), (0x26071435, .atomAnd 1 0x62 2 3),
   (0x26170A26, .atomOr 5 0x61 1 2), (0x26131437, .atomXor 4 0x62 2 3), (0x260C2A28, .atomSwap 3 5 1 2),
   (0x26142239, .cas 5 4 1 3), (0x26132E2A, .atomFadd 4 0x65 3), (0x26170B20, .redAdd 5 0x61 1 2),
   (0x27931531, .redMinI 0x64 0x62 2 3), (0x26043722, .redMaxI 1 6 3 2), (0x27872723, .redMinN 0x61 0x64 3 2),
   (0x261FF324, .redMaxN 7 0x7E 1 2), (0x27842F25, .redAnd 0x61 5 3 2), (0x278B2F26, .redOr 0x62 0x65 3 2),
   (0x260F2B27, .redXor 3 0x65 1 2), (0x27941B2A, .redFadd 0x65 3 1)]

/-- Words of major 0x14, from the opcode table: its fixed bits and each field at a value of its own. -/
def wordsAtomt : List (Nat × Instr) :=
  [(0x29FB1720, .atomtAdd 0x7E 0x62 0xE), (0x280C3721, .atomtMinI 3 6 0xE), (0x29F820A2, .atomtMaxI 0x7E 4 1),
   (0x280709A3, .atomtMinN 1 0x61 3), (0x281811A4, .atomtMaxN 6 2 3), (0x280F2925, .atomtAnd 3 0x65 2),
   (0x29901226, .atomtOr 0x64 2 4), (0x298B2A27, .atomtXor 0x62 0x65 4), (0x29FB2728, .atomtSwap 0x7E 0x64 0xE),
   (0x281B28A9, .atomtFadd 6 0x65 1), (0x29F81ABA, .atomtMaxpk 0x7E 3 5), (0x28081A2B, .castt 2 3 4)]

/-- Words of major 0x15, from the opcode table: its fixed bits and each field at a value of its own. -/
def wordsOrder : List (Nat × Instr) :=
  [(0x2A000000, .fenceL), (0x2A000001, .fenceH), (0x2A000002, .fenceE), (0x2A000003, .acqc), (0x2A000004, .relc)]

/-- Words of major 0x16, from the opcode table: its fixed bits and each field at a value of its own. -/
def wordsBar : List (Nat × Instr) :=
  [(0x2C000000, .bar), (0x2C000100, .barE), (0x2D932A00, .barCarve 0x64 0x65), (0x2DFB1309, .boinit 0x7E 0x62 9),
   (0x2D8BF402, .boexp 0x62 0x7E 2), (0x2D87F518, .boarr 0x61 0x7E 0x18), (0x2C03F618, .bowait 0x7E 0x18),
   (0x2DFB2718, .botest 0x7E 0x64 0x18)]

/-- Words of major 0x17, from the opcode table: its fixed bits and each field at a value of its own. -/
def wordsQueue : List (Nat × Instr) :=
  [(0x2FF8CE50, .qpush 0x7E 3 0xE5), (0x2F848E31, .qpop 0x61 2 0xE3), (0x2E084E32, .qtry 2 1 0xE3),
   (0x2F908E53, .qpeek 0x64 2 0xE5), (0x2F8B9E54, .qmarkSeg 0x62 0xE 0xE5), (0x2E00EE54, .qmarkEos 3 0xE5),
   (0x2E010005, .qclose 4), (0x2F904006, .qflush 0x64 1), (0x2F964027, .qstat 0x65 9 2)]

/-- Words of major 0x18, from the opcode table: its fixed bits and each field at a value of its own. -/
def wordsCopy : List (Nat × Instr) :=
  [(0x30000870, .cpy 1 7), (0x31882021, .cpym 0x62 4 2), (0x30000852, .cpys 1 5), (0x31900003, .cbatch 0x64),
   (0x31930804, .cwait 0x64 0x61)]

/-- Words of major 0x19, from the opcode table: its fixed bits and each field at a value of its own. -/
def wordsFetch : List (Nat × Instr) :=
  [(0x33843E20, .hdef 0x61 7 0x62), (0x321717E1, .fetch 5 0x62 0x7E), (0x32183E12, .fetchx 6 7 0x61),
   (0x33940643, .finv 0x65 0x64)]

/-- Words of major 0x1A, from the opcode table: its fixed bits and each field at a value of its own. -/
def wordsTask : List (Nat × Instr) :=
  [(0x35972000, .mtask 0x65 0x64), (0x35872801, .mwait 0x61 0x65), (0x35932822, .mstat 0x64 0x65 2),
   (0x35871003, .mcancel 0x61 0x62)]

/-- Words of major 0x1B, from the opcode table: its fixed bits and each field at a value of its own. -/
def wordsWave : List (Nat × Instr) :=
  [(0x36182020, .wstore 6 4 2), (0x36100801, .wrec 4 1), (0x37883002, .wtag 0x62 6), (0x36103003, .wth 4 6)]

/-- Words of major 0x1C, from the opcode table: its fixed bits and each field at a value of its own. -/
def wordsTvec : List (Nat × Instr) :=
  [(0x381C0860, .tvadd 7 1 6), (0x38101031, .tvsub 4 2 3), (0x380C2E42, .tvmulc 3 5 0x64), (0x381017E3, .tvaxpy 4 2 0x7E),
   (0x38043044, .tvbias 1 6 4), (0x38141045, .tvact 5 2 4), (0x381C0E56, .tvnorm 7 1 0x65),
   (0x38080E57, .tvnormRms 2 1 0x65), (0x38042E28, .tvsmax 1 5 0x62), (0x38182009, .tvcvt 6 4)]

/-- Words of major 0x1D, from the opcode table: its fixed bits and each field at a value of its own. -/
def wordsCensus : List (Nat × Instr) :=
  [(0x3BFB2010, .treg 0x7E 0x64 1), (0x3B840071, .tdereg 0x61 7), (0x3BFB2852, .tmove 0x7E 0x65 5),
   (0x3B932803, .solicit 0x64 0x65), (0x3A002804, .respond 5), (0x3B871015, .census 0x61 0x62 1),
   (0x3BFB2066, .cres 0x7E 0x64 6)]

/-- Words of major 0x1E, from the opcode table: its fixed bits and each field at a value of its own. -/
def wordsRoute : List (Nat × Instr) :=
  [(0x3D87F000, .slotget 0x61 0x7E), (0x3D931011, .slotref 0x64 0x62 1), (0x3D871002, .slotrel 0x61 0x62),
   (0x3D841653, .rtstage 0x61 2 0x65), (0x3D930FE4, .rtlook 0x64 0x61 0x7E), (0x3DFB2005, .rtlookAdm 0x7E 0x64)]

/-- Words of major 0x1F, from the opcode table: its fixed bits and each field at a value of its own. -/
def wordsGraph : List (Nat × Instr) :=
  [(0x3E042650, .grec 1 4 0x65), (0x3E030E41, .gcond 0x61 0x64), (0x3E000002, .gdone), (0x3FF80643, .gflush 0x7E 0x64)]

/-- Words of major 0x20, from the opcode table: its fixed bits and each field at a value of its own. -/
def wordsRemote : List (Nat × Instr) :=
  [(0x40172CA0, .rread 5 0x65 9 2), (0x40131721, .rwrite 4 0x62 0xE 2), (0x40142032, .ratomAdd 5 4 1),
   (0x40082033, .ratomCas 2 4), (0x41880004, .rfence 0x62)]

/-- Words of major 0x21, from the opcode table: its fixed bits and each field at a value of its own. -/
def wordsOvl : List (Nat × Instr) :=
  [(0x43840002, .ovload 0x61 2), (0x43900105, .ovwait 0x64 5), (0x420002A3, .fcall 0xA3)]

/-- Words of major 0x22, from the opcode table: its fixed bits and each field at a value of its own. -/
def wordsStack : List (Nat × Instr) :=
  [(0x4403F000, .spush 0x7E), (0x44040100, .spop 1), (0x440002A3, .salloc 0xA3)]

/-- Words of major 0x3F, from the opcode table: its fixed bits and each field at a value of its own. -/
def wordsHint : List (Nat × Instr) :=
  [(0x7E000001, .hintImm 1), (0x7E441529, .hintStall 4 1 5 2 9), (0x7EA28000, .hintMod 4 2 1),
   (0x7EE55140, .hintFmt 9 5 4 0 1 1)]

theorem test_decode_sys : (wordsSys.all fun p => decodeTableWord 32 p.1 == some p.2) = true := by decide +kernel
theorem test_decode_ctl : (wordsCtl.all fun p => decodeTableWord 32 p.1 == some p.2) = true := by decide +kernel
theorem test_decode_hlp : (wordsHlp.all fun p => decodeTableWord 32 p.1 == some p.2) = true := by decide +kernel
theorem test_decode_ialu : (wordsIalu.all fun p => decodeTableWord 32 p.1 == some p.2) = true := by decide +kernel
theorem test_decode_ialu2 : (wordsIalu2.all fun p => decodeTableWord 32 p.1 == some p.2) = true := by decide +kernel
theorem test_decode_ialui : (wordsIalui.all fun p => decodeTableWord 32 p.1 == some p.2) = true := by decide +kernel
theorem test_decode_movi : (wordsMovi.all fun p => decodeTableWord 32 p.1 == some p.2) = true := by decide +kernel
theorem test_decode_addr : (wordsAddr.all fun p => decodeTableWord 32 p.1 == some p.2) = true := by decide +kernel
theorem test_decode_fpu : (wordsFpu.all fun p => decodeTableWord 32 p.1 == some p.2) = true := by decide +kernel
theorem test_decode_pk16 : (wordsPk16.all fun p => decodeTableWord 32 p.1 == some p.2) = true := by decide +kernel
theorem test_decode_sfu : (wordsSfu.all fun p => decodeTableWord 32 p.1 == some p.2) = true := by decide +kernel
theorem test_decode_cvt : (wordsCvt.all fun p => decodeTableWord 32 p.1 == some p.2) = true := by decide +kernel
theorem test_decode_xlane : (wordsXlane.all fun p => decodeTableWord 32 p.1 == some p.2) = true := by decide +kernel
theorem test_decode_ldg : (wordsLdg.all fun p => decodeTableWord 32 p.1 == some p.2) = true := by decide +kernel
theorem test_decode_stg : (wordsStg.all fun p => decodeTableWord 32 p.1 == some p.2) = true := by decide +kernel
theorem test_decode_tld : (wordsTld.all fun p => decodeTableWord 32 p.1 == some p.2) = true := by decide +kernel
theorem test_decode_atom : (wordsAtom.all fun p => decodeTableWord 32 p.1 == some p.2) = true := by decide +kernel
theorem test_decode_atomt : (wordsAtomt.all fun p => decodeTableWord 32 p.1 == some p.2) = true := by decide +kernel
theorem test_decode_order : (wordsOrder.all fun p => decodeTableWord 32 p.1 == some p.2) = true := by decide +kernel
theorem test_decode_bar : (wordsBar.all fun p => decodeTableWord 32 p.1 == some p.2) = true := by decide +kernel
theorem test_decode_queue : (wordsQueue.all fun p => decodeTableWord 32 p.1 == some p.2) = true := by decide +kernel
theorem test_decode_copy : (wordsCopy.all fun p => decodeTableWord 32 p.1 == some p.2) = true := by decide +kernel
theorem test_decode_fetch : (wordsFetch.all fun p => decodeTableWord 32 p.1 == some p.2) = true := by decide +kernel
theorem test_decode_task : (wordsTask.all fun p => decodeTableWord 32 p.1 == some p.2) = true := by decide +kernel
theorem test_decode_wave : (wordsWave.all fun p => decodeTableWord 32 p.1 == some p.2) = true := by decide +kernel
theorem test_decode_tvec : (wordsTvec.all fun p => decodeTableWord 32 p.1 == some p.2) = true := by decide +kernel
theorem test_decode_census : (wordsCensus.all fun p => decodeTableWord 32 p.1 == some p.2) = true := by decide +kernel
theorem test_decode_route : (wordsRoute.all fun p => decodeTableWord 32 p.1 == some p.2) = true := by decide +kernel
theorem test_decode_graph : (wordsGraph.all fun p => decodeTableWord 32 p.1 == some p.2) = true := by decide +kernel
theorem test_decode_remote : (wordsRemote.all fun p => decodeTableWord 32 p.1 == some p.2) = true := by decide +kernel
theorem test_decode_ovl : (wordsOvl.all fun p => decodeTableWord 32 p.1 == some p.2) = true := by decide +kernel
theorem test_decode_stack : (wordsStack.all fun p => decodeTableWord 32 p.1 == some p.2) = true := by decide +kernel
theorem test_decode_hint : (wordsHint.all fun p => decodeTableWord 32 p.1 == some p.2) = true := by decide +kernel

/-! ### Ill-formed terms, one for each check of a field -/

theorem test_ill_formed_1 :
    ([.rds 0x65 0x40, .wrs 1 0, .isel 4 0x65 9, .icmp 0xA 5 0x7E 2, .icmpi 0xA 5 4 0x18, .amov 4 0 0x62,
      .amov 4 0x65 0, .acvt 2 4 6, .acmp 0xA 6 1 0x65, .slice 0x40 6 2, .slice 1 0x40 2, .slice 1 6 3,
      .ashladd 1 7 0x64 0, .fcmp 9 5 0x61 0x65, .fsel 0x62 0x7E 9, .quant 1 0x62 0, .deq 6 1 0, .unpack 0x62 3 0xC,
      .cbld 9 3, .qxch 5 7 3, .qbc 5 0x7E 5, .vote 2 9 0x65, .vote 2 1 0, .tbc 3 1 0, .matchx 0x65 4 0,
      .ld 0x64 0x65 1 5 0] : List Instr).all (fun i => !i.wellFormed) = true := by
  decide

theorem test_ill_formed_2 :
    ([.ld 0x64 0x65 1 4 1, .ldAcq 3 5 9 5 0, .ldAcq 3 5 9 4 1, .ldq 1 0x7E 0xE 5, .ldqg 1 0x61 9 5, .st 1 2 5 5,
      .stRel 0x64 6 3 5, .stq 5 0x7E 3 5, .tbind 0 9, .atomAdd 0x40 0x64 1 3, .atomAdd 6 0x64 1 0,
      .atomMinI 0x40 0x62 2 3, .atomMinI 1 0x62 2 0, .atomMaxI 0x40 0x64 1 3, .atomMaxI 2 0x64 1 0,
      .atomMinN 0x40 7 2 3, .atomMinN 5 7 2 0, .atomMaxN 0x40 5 3 2, .atomMaxN 4 5 3 0, .atomAnd 0x40 0x62 2 3,
      .atomAnd 1 0x62 2 0, .atomOr 0x40 0x61 1 2, .atomOr 5 0x61 1 0, .atomXor 0x40 0x62 2 3, .atomXor 4 0x62 2 0,
      .atomSwap 0x40 5 1 2] : List Instr).all (fun i => !i.wellFormed) = true := by
  decide

theorem test_ill_formed_3 :
    ([.atomSwap 3 5 1 0, .cas 0x40 4 1 3, .cas 5 4 1 0, .atomFadd 0x40 0x65 3, .redAdd 5 0x61 1 0,
      .redMinI 0x64 0x62 2 0, .redMaxI 1 6 3 0, .redMinN 0x61 0x64 3 0, .redMaxN 7 0x7E 1 0, .redAnd 0x61 5 3 0,
      .redOr 0x62 0x65 3 0, .redXor 3 0x65 1 0, .barCarve 0 0x65, .barCarve 0x64 0, .boinit 0 0x62 9, .boinit 0x7E 0 9,
      .boinit 0x7E 0x62 0x20, .boexp 0 0x7E 2, .boexp 0x62 0 2, .boexp 0x62 0x7E 0x20, .boarr 0 0x7E 0x18,
      .boarr 0x61 0 0x18, .boarr 0x61 0x7E 0x20, .bowait 0 0x18, .bowait 0x7E 0x20, .botest 0 0x64 0x18] : List Instr).all (fun i => !i.wellFormed) = true := by
  decide

theorem test_ill_formed_4 :
    ([.botest 0x7E 0 0x18, .botest 0x7E 0x64 0x20, .qpush 0x7E 3 1, .qpop 0x61 2 1, .qtry 2 1 0, .qpeek 0x64 2 1,
      .qmarkSeg 0 0xE 0xE5, .qmarkSeg 0x62 0xE 1, .qmarkEos 3 1, .qflush 0 1, .qstat 0 9 2, .qstat 0x65 9 3,
      .cpy 0x40 7, .cpy 1 0x40, .cpym 0 4 2, .cpym 0x62 0x40 2, .cpym 0x62 4 0x40, .cpys 0x40 5, .cpys 1 0x40,
      .cbatch 0, .cwait 0 0x61, .cwait 0x64 0, .hdef 0 7 0x62, .hdef 0x61 0x40 0x62, .hdef 0x61 7 0,
      .fetch 0x10 0x62 0x7E] : List Instr).all (fun i => !i.wellFormed) = true := by
  decide

theorem test_ill_formed_5 :
    ([.fetch 5 0 0x7E, .fetch 5 0x62 0, .fetchx 0x10 7 0x61, .fetchx 6 0x60 0x61, .fetchx 6 7 0, .finv 0 0x64,
      .finv 0x65 0, .mtask 0 0x64, .mtask 0x65 0, .mwait 0 0x65, .mwait 0x61 0, .mstat 0 0x65 2, .mstat 0x64 0 2,
      .mstat 0x64 0x65 3, .mcancel 0 0x62, .mcancel 0x61 0, .wstore 0x10 4 2, .wstore 6 0x10 2, .wstore 6 4 0,
      .wrec 0x10 1, .wrec 4 0x10, .wtag 0 6, .wtag 0x62 0x10, .wth 0x10 6, .wth 4 0x10, .tvadd 0x10 1 6] : List Instr).all (fun i => !i.wellFormed) = true := by
  decide

theorem test_ill_formed_6 :
    ([.tvadd 7 0x10 6, .tvadd 7 1 0x10, .tvsub 0x10 2 3, .tvsub 4 0x10 3, .tvsub 4 2 0x10, .tvmulc 0x10 5 0x64,
      .tvmulc 3 0x10 0x64, .tvmulc 3 5 0, .tvaxpy 0x10 2 0x7E, .tvaxpy 4 0x10 0x7E, .tvaxpy 4 2 0, .tvbias 0x10 6 4,
      .tvbias 1 0x10 4, .tvbias 1 6 0x10, .tvact 0x10 2 4, .tvact 5 0x10 4, .tvact 5 2 6, .tvnorm 0x10 1 0x65,
      .tvnorm 7 0x10 0x65, .tvnorm 7 1 0, .tvnormRms 0x10 1 0x65, .tvnormRms 2 0x10 0x65, .tvnormRms 2 1 0,
      .tvsmax 0x10 5 0x62, .tvsmax 1 0x10 0x62, .tvsmax 1 5 0] : List Instr).all (fun i => !i.wellFormed) = true := by
  decide

theorem test_ill_formed_7 :
    ([.tvcvt 0x10 4, .tvcvt 6 0x10, .treg 0 0x64 1, .treg 0x7E 0 1, .treg 0x7E 0x64 0x10, .tdereg 0 7,
      .tdereg 0x61 0x10, .tmove 0 0x65 5, .tmove 0x7E 0 5, .tmove 0x7E 0x65 0x10, .solicit 0 0x65, .solicit 0x64 0,
      .respond 0x60, .census 0 0x62 1, .census 0x61 0 1, .census 0x61 0x62 3, .cres 0 0x64 6, .cres 0x7E 0 6,
      .cres 0x7E 0x64 0x45, .slotget 0 0x7E, .slotget 0x61 0, .slotref 0 0x62 1, .slotref 0x64 0 1,
      .slotref 0x64 0x62 5, .slotrel 0 0x62, .slotrel 0x61 0] : List Instr).all (fun i => !i.wellFormed) = true := by
  decide

theorem test_ill_formed_8 :
    ([.rtstage 0 2 0x65, .rtstage 0x61 0x40 0x65, .rtstage 0x61 2 0, .rtlook 0 0x61 0x7E, .rtlook 0x64 0 0x7E,
      .rtlook 0x64 0x61 0, .rtlookAdm 0 0x64, .rtlookAdm 0x7E 0, .grec 0x40 4 0x65, .grec 1 0x40 0x65, .grec 1 4 0,
      .gcond 0 0x64, .gcond 0x61 0, .gflush 0 0x64, .gflush 0x7E 0, .rread 5 0x65 9 5, .ratomCas 0x40 4, .rfence 0,
      .ovload 0 2, .ovwait 0 5, .hintMod 6 2 1, .hintMod 4 5 1, .hintFmt 0xA 5 4 0 1 1, .hintFmt 9 0xA 4 0 1 1,
      .hintFmt 9 5 0xA 0 1 1, .hintFmt 9 5 4 0 1 2] : List Instr).all (fun i => !i.wellFormed) = true := by
  decide

/-! ### A small machine -/

/-- A queue of four lanes and eight entries that a role both fills and drains. -/
def queueFor (role : Role) (n : Nat) : Queue :=
  { num := n, fmt := .fp32, depth := 8, width := 4, producer := role, consumer := role, state := .opened, ended := false,
    entries := [], nextId := 0, inFlight := 0, cancelled := 0, flushed := 0 }

/-- A team of four lanes. -/
def teamFor (role : Role) : Team := { teamReset 0 role 4 96 0 with started := true, slim := 0x1000, trapvec := 4 }

/-- A kernel of one team with declared tiles and entries. -/
def kernelFor (role : Role) : Kernel :=
  { teams := [{ role := role, lanes := 4, vregs := 96, entry := 0 }, { role := .vector, lanes := 32, vregs := 32, entry := 0 }], queues := []
    tiles := (List.range 4).map fun n => { num := n, fmt := .fp32, rows := 4, cols := 4 }
    scheds := [{ capacity := 0, mask := 1, groups := 1 }], entries := List.replicate 256 0, entryRoles := List.replicate 256 role
    scratch := 65536, l1 := 0 }

/-- A group of one team with a stack, a scratchpad and queues. -/
def groupFor (role : Role) : Group :=
  { groupReset 0 0 0 0 0 0 1 0 [teamFor role] with
    state := .running, padSize := 65536, stackSz := 1024, handles := (kernelFor role).handles, pad := (kernelFor role).pad
    queues := (List.range 16).map (queueFor role) }

/-- An image with one overlay of words. -/
def imageOf (role : Role) (ws : List Word) : Image :=
  { handle := 1, records := [kernelFor role], kernels := [kernelFor role], overlays := [{ id := 0, kidx := 0, words := ws }], data := []
    record := { imgMeas := [], outMeas := [], ruleVer := 0, imgVer := 0, kind := 0, novl := 1, dropHint := [] } }

/-- A running context with an image. -/
def ctxFor (role : Role) (ws : List Word) : Ctx :=
  { ctxReset 0 0 1 1 0 with state := .running, nextHandle := 2, images := [imageOf role ws] }

/-- The part ready, with one core. -/
def readyPart : State :=
  { State.reset with dev := { deviceReset with boot := { deviceReset.boot with step := 6 } }, cores := [coreReset] }

/-- A machine in which words stand at the pc of the current team. -/
def ready (role : Role) (ws : List Word) : State :=
  { readyPart with
    ctxs := [ctxFor role ws], groups := [groupFor role], nextUid := 1, cur := some { uid := 0, tid := 0 }, iword := ws.getD 0 0
    cores := [{ coreReset with slots := [some { placedSlot 0 with words := ws }, none, none, none] }] }

/-- The role in which an instruction is tried: the first in which it is legal. -/
def roleFor (i : Instr) : Role :=
  if instrRoleOk i .access then .access else if instrRoleOk i .vector then .vector else .matrix

/-- The state in which an instruction is tried, with other instructions behind it. -/
def trialWith (i : Instr) (rest : List Instr) : State := ready (roleFor i) ((i :: rest).map fun j => (encode j).getD 0)

/-- The state in which an instruction is tried, with two NOPs behind it. -/
def trial (i : Instr) : State := trialWith i [.nop, .nop]

/-- The instruction issues in a state, and its issue is as a test says. -/
def meets (i : Instr) (s : State) (p : Iss → Bool) : Bool := ((issueOf i s).map p).getD false

/-- The current team changed. -/
def withTeam (s : State) (f : Team → Team) : State := s.modTeam { uid := 0, tid := 0 } f

/-- The one group changed. -/
def withGroup (s : State) (f : Group → Group) : State := s.modGroup 0 f

/-- The one context changed. -/
def withCtx (s : State) (f : Ctx → Ctx) : State := s.modCtx 0 0 f

/-- Bytes stand in the group's scratchpad. -/
def padded (s : State) (off : Nat) (bs : List Byte) : State := withGroup s fun g => { g with pad := memWriteN g.pad off bs }

/-- Every lane changed. -/
def withLanes (s : State) (f : Lane → Lane) : State := withTeam s fun t => { t with lanes := t.lanes.map f }

/-- No lane runs. -/
def stopped (s : State) : State := withLanes s fun l => { l with cnt := 1 }

/-- The team answers a census. -/
def answering (s : State) : State :=
  let i : ResponderInfo :=
    { decl := 0, cseq := 0, core := 0, order := 0, entries := [], responded := false, handles := List.replicate 16 none, image := 1, kidx := 0 }
  withTeam s fun t => { t with responder := some i }

/-- The prefix holds a format record with source and destination formats. -/
def formats (s : State) (a d : BitVec 4) : State :=
  withTeam s fun t => { t with hints := [{ pc := 0, word := (encode (.hintFmt a 0 d 0 0 0)).getD 0 }] }

/-- The s registers hold a value. -/
def withS (s : State) (w : Word) : State := withTeam s fun t => { t with sregs := List.replicate 32 w }

/-- The a registers hold a value. -/
def withA (s : State) (w : DWord) : State := withLanes s fun l => { l with a := List.replicate 64 w }

/-- The first 64 KiB of the context stand where an entry says. -/
def mappedTo (pte : DWord) (s : State) : State :=
  s.modPart 0 fun p => { p with tlb := (List.range 24).map fun c => { col := c, asid := 1, level := 1, vpn := 0, pte := pte, since := 0 } }

/-- The same, at the frame at 64 KiB. -/
def mapped (s : State) : State := mappedTo 0x10007 s

/-- The same, at a frame of another partition, which the context may not reach. -/
def forbidden (s : State) : State := mappedTo (BitVec.ofNat 64 (3 * 2 ^ 37 + 7)) s

/-- The context of an issue passes a test. -/
def ofCtx (x : Iss) (p : Ctx → Bool) : Bool := ((x.s.ctxOf x.g).map p).getD false

/-- The words of a list that a test picks out. -/
def pick (l : List (Nat × Instr)) (p : Instr → Bool) : List Instr := (l.map (·.2)).filter p

/-- A list is not empty and a test holds throughout. -/
def allOf {α : Type} (l : List α) (p : α → Bool) : Bool := !l.isEmpty && l.all p

/-! ### Words above that issue in a state of their own (the others: in the witnesses below) -/

theorem test_issues_sys : (wordsSys.all fun p => (issueOf p.2 (trial p.2)).isSome) = true := by decide +kernel
theorem test_issues_ctl : (wordsCtl.all fun p => (issueOf p.2 (trial p.2)).isSome) = true := by decide +kernel
theorem test_issues_hlp : (wordsHlp.all fun p => (issueOf p.2 (trial p.2)).isSome) = true := by decide +kernel
theorem test_issues_ialu : (wordsIalu.all fun p => (issueOf p.2 (trial p.2)).isSome) = true := by decide +kernel
theorem test_issues_ialu2 : (wordsIalu2.all fun p => (issueOf p.2 (trial p.2)).isSome) = true := by decide +kernel
theorem test_issues_ialui : (wordsIalui.all fun p => (issueOf p.2 (trial p.2)).isSome) = true := by decide +kernel
theorem test_issues_movi : (wordsMovi.all fun p => (issueOf p.2 (trial p.2)).isSome) = true := by decide +kernel
theorem test_issues_addr : (wordsAddr.all fun p => (issueOf p.2 (trial p.2)).isSome) = true := by decide +kernel
theorem test_issues_fpu : (wordsFpu.all fun p => (issueOf p.2 (trial p.2)).isSome) = true := by decide +kernel
theorem test_issues_pk16 : (wordsPk16.all fun p => (issueOf p.2 (trial p.2)).isSome) = true := by decide +kernel
theorem test_issues_sfu : (wordsSfu.all fun p => (issueOf p.2 (trial p.2)).isSome) = true := by decide +kernel
theorem test_issues_cvt : (wordsCvt.all fun p => (issueOf p.2 (trial p.2)).isSome) = true := by decide +kernel
theorem test_issues_tld : (wordsTld.all fun p => (issueOf p.2 (trial p.2)).isSome) = true := by decide +kernel
theorem test_issues_atom : (wordsAtom.all fun p => (issueOf p.2 (trial p.2)).isSome) = true := by decide +kernel
theorem test_issues_atomt : (wordsAtomt.all fun p => (issueOf p.2 (trial p.2)).isSome) = true := by decide +kernel
theorem test_issues_order : (wordsOrder.all fun p => (issueOf p.2 (trial p.2)).isSome) = true := by decide +kernel
theorem test_issues_bar : (wordsBar.all fun p => (issueOf p.2 (trial p.2)).isSome) = true := by decide +kernel
theorem test_issues_queue : (wordsQueue.all fun p => (issueOf p.2 (trial p.2)).isSome) = true := by decide +kernel
theorem test_issues_copy : (wordsCopy.all fun p => (issueOf p.2 (trial p.2)).isSome) = true := by decide +kernel
theorem test_issues_fetch : (wordsFetch.all fun p => (issueOf p.2 (trial p.2)).isSome) = true := by decide +kernel
theorem test_issues_task : (wordsTask.all fun p => (issueOf p.2 (trial p.2)).isSome) = true := by decide +kernel
theorem test_issues_wave : (wordsWave.all fun p => (issueOf p.2 (trial p.2)).isSome) = true := by decide +kernel
theorem test_issues_tvec : (wordsTvec.all fun p => (issueOf p.2 (trial p.2)).isSome) = true := by decide +kernel
theorem test_issues_census : (wordsCensus.all fun p => (issueOf p.2 (trial p.2)).isSome) = true := by decide +kernel
theorem test_issues_route : (wordsRoute.all fun p => (issueOf p.2 (trial p.2)).isSome) = true := by decide +kernel
theorem test_issues_graph : (wordsGraph.all fun p => (issueOf p.2 (trial p.2)).isSome) = true := by decide +kernel
theorem test_issues_remote : (wordsRemote.all fun p => (issueOf p.2 (trial p.2)).isSome) = true := by decide +kernel
theorem test_issues_ovl : (wordsOvl.all fun p => (issueOf p.2 (trial p.2)).isSome) = true := by decide +kernel
theorem test_issues_stack : (wordsStack.all fun p => (issueOf p.2 (trial p.2)).isSome) = true := by decide +kernel

/-! ### States and operands that meet the hypotheses of the obligations -/

/-! ### States and operands that meet the hypotheses of the obligations -/

theorem test_IntegerResults_applies :
    [allOf (pick (wordsIalu ++ wordsIalu2 ++ wordsIalui) fun i => (Claim.intDest i).isSome) fun i =>
       meets i (trial i) fun _ => true].all id = true := by decide +kernel

theorem test_PredicateResults_applies :
    [allOf [.icmp 9 5 7 2, .icmp 0 7 1 2, .icmpi 9 5 7 0x80, .acmp 9 5 7 2] fun i => meets i (trial i) fun x => (Claim.comparison x.t i).isSome,
     allOf [.fcmp 7 5 7 2, .fcmp 0 7 7 2] fun i => meets i (trial i) fun _ => true].all id = true := by decide +kernel

theorem test_AddressResults_applies :
    [allOf (pick (wordsAddr ++ wordsMovi ++ [(0, .movc 3 5)]) fun i => match i with
       | .slice .. => false
       | .acmp .. => false
       | _ => true) fun i => meets i (trial i) fun x => (Claim.wideResult x.t i).isSome,
     meets (.slice 1 6 2) (trial (.slice 1 6 2)) fun x => (x.t.reg 6 0).toNat < 2 ^ 52,
     meets (.slice 1 6 0) (withA (trial (.slice 1 6 0)) 0x10000000000000) fun x => (x.t.reg 6 0).toNat == 2 ^ 52,
     allOf [0, 1, 2] fun n => meets (.slice 1 6 n) (withA (trial (.slice 1 6 n)) 0xFFFFFFFFFFFFF) fun x =>
       ofCtx x fun _ => (x.s.part? x.g.part).isSome && (x.s.core? x.g.core).isSome && (x.t.reg 6 0).toNat == 2 ^ 52 - 1].all id = true := by
  decide +kernel

theorem test_FloatResults_applies :
    [allOf (pick wordsFpu fun i => match i with
       | .fcmp .. => false
       | _ => true) fun i => meets i (trial i) fun x => (Claim.fpResult x i).isSome].all id = true := by decide +kernel

theorem test_PackedResults_applies :
    [allOf (pick wordsPk16 fun _ => true) fun i => meets i (trial i) fun x => (Claim.halfResult x i).isSome].all id = true := by
  decide +kernel

theorem test_SpecialFunctions_applies :
    [allOf (pick wordsSfu fun _ => true) fun i => (Claim.special i).isSome && meets i (trial i) fun _ => true].all id = true := by
  decide +kernel

theorem test_Conversions_applies :
    [allOf [.cvt 1 2, .cvtsr 1 2 3] fun i => meets i (formats (trial i) 1 2) fun x => (Claim.cvtResult x i).isSome && Claim.formatsOk x.t i,
     allOf [.pack 1 2 3, .unpack 1 2 11, .tokey 1 2] fun i => meets i (trial i) fun x => (Claim.cvtResult x i).isSome && Claim.formatsOk x.t i,
     meets (.deq 1 2 97) (formats (trial (.deq 1 2 97)) 4 0) fun x => (Claim.cvtResult x (.deq 1 2 97)).isSome && Claim.formatsOk x.t (.deq 1 2 97),
     allOf [(.cvt 1 2, 9), (.cvtsr 1 2 3, 9), (.deq 1 2 97, 9), (.tokey 1 2, 0)] fun (i, d) =>
       meets i (formats (trial i) 9 d) fun x => (Claim.cvtResult x i).isSome && !Claim.formatsOk x.t i].all id = true := by decide +kernel

theorem test_LaneExchange_applies :
    [allOf (pick wordsXlane fun i => match i with
       | .sred .. => false
       | .sscan .. => false
       | .tred .. => false
       | _ => true) fun i =>
         meets i (withS (trial i) 0xFFFFFFFF) fun x => ((Claim.exchange x.t i).map fun q => !q.2.2.2).getD false,
     allOf [.vote 1 2 97, .matchx 1 2 97] fun i => meets i (trial i) fun x => ((Claim.exchange x.t i).map fun q => q.2.2.2).getD false,
     allOf [.sred 1 2 0, .tred 1 2 0, .sscan 1 2 1 2] fun i =>
       meets i (trial i) fun x => (Claim.reduction x.t i).isSome].all id = true := by decide +kernel

theorem test_StateRegisterAccess_applies :
    [meets (.rds 5 0x1C) (trial (.rds 5 0x1C)) fun _ => true,
     meets (.wrs 5 0x20) (trial (.wrs 5 0x20)) fun x => x.t.low? == some 0,
     meets (.wrs 5 0x20) (stopped (trial (.wrs 5 0x20))) fun x => x.t.low?.isNone,
     meets (.rdclk 5) (trial (.rdclk 5)) fun x => x.t.role == .access,
     meets (.rdclk 5) (ready .vector [0x02140500, 0x02000000]) fun x => x.t.role != .access].all id = true := by decide +kernel

theorem test_SystemWords_applies :
    [allOf [.nop, .yield, .tret] fun i => meets i (trial i) fun _ => true,
     allOf [.trap 0xFF, .bkpt 0] fun i => (meets i (trial i) fun x => !x.t.idle) && meets i (stopped (trial i)) fun x => x.t.idle,
     meets .tret (withTeam (trial .tret) fun t => { t with trapInh := true, trappc := 4 }) fun x =>
       x.t.trapInh && (x.s.codeWord x.g x.t.trappc).isSome,
     meets .tret (trial .tret) fun x => !x.t.trapInh,
     meets .tret (withTeam (trial .tret) fun t => { t with trapInh := true, trappc := 0x10000 }) fun x =>
       x.t.trapInh && (x.s.codeWord x.g x.t.trappc).isNone].all id = true := by decide +kernel

/-- The state with a hardware loop open over its first three words. -/
def looping (s : State) : State := withTeam s fun t => { t with loops := [{ start := 0, last := 8 }], lc := [2, 0, 0] }

/-- The state with 64 bytes on the stack. -/
def stacked (s : State) : State := withTeam s fun t => { t with sp := 64, stack := List.replicate 64 4 }

/-- The state with a stack of 8 KiB, whose cache is full. -/
def brimming (s : State) : State :=
  withGroup (withTeam s fun t => { t with sp := 4096, stack := List.replicate 4096 4 }) fun g => { g with stackSz := 8192 }

/-- The state with 64 bytes on the stack, all of them spilled. -/
def spilled (s : State) : State := withTeam s fun t => { t with sp := 64, stackLow := 64 }

/-- Bytes move as a test says, in the issue's context. -/
def moves (x : Iss) (f : Ctx → Moved) (p : Moved → Bool) : Bool := ofCtx x fun c => p (f c)

/-- The bytes have moved. -/
def didMove : Moved → Bool
  | .ok .. => true
  | _ => false

/-- They wait for a page. -/
def waited : Moved → Bool
  | .wait .. => true
  | _ => false

/-- They may not be reached. -/
def barred : Moved → Bool
  | .bad => true
  | _ => false

/-- A push fits the stack and its bytes move as a test says. -/
def pushed (x : Iss) (bs : List Byte) (p : Moved → Bool) : Bool :=
  decide (x.t.sp + bs.length ≤ x.g.stackSz) && moves x (fun c => Claim.pushes x c bs) p

/-- The same of a pop. -/
def popped (x : Iss) (n : Nat) (p : Moved → Bool) : Bool := decide (n ≤ x.t.sp) && moves x (fun c => Claim.pops x c n) p

/-- The counters of a nesting word, as its rule asks. -/
def nests (i : Instr) (p : Team → (Lane → Nat) → Bool) (s : State) : Bool :=
  meets i s fun x => ((Claim.counterAfter i).map (p x.t)).getD false

theorem test_NestingCounters_applies :
    [allOf [.ifc 7 2, .loopc 2, .breakc 2 0, .contc 2 0] fun i =>
       nests i (fun t f => Claim.nestOk t f && (Claim.counters t f).any Lane.running && !t.inLoop) (trial i),
     nests (.ifc 7 2) (fun t f => t.lanes.any fun l => decide (255 < f l)) (withLanes (trial (.ifc 7 2)) fun l => { l with cnt := 255 }),
     nests (.loopc 2) (fun t f => !t.idle && !t.inLoop && t.lanes.any fun l => decide (255 < f l))
       (withTeam (trial (.loopc 2)) fun t => { t with lanes := t.lanes.mapIdx fun n l => if n = 3 then { l with cnt := 254 } else l }),
     nests (.breakc 7 0xFE) (fun t f => t.lanes.any fun l => decide (255 < f l)) (trial (.breakc 7 0xFE)),
     nests (.contc 7 0xFF) (fun t f => t.lanes.any fun l => decide (255 < f l)) (trial (.contc 7 0xFF))].all id = true := by decide +kernel

theorem test_StructuredControl_applies :
    [nests (.ifc 0 2) (fun t f => Claim.nestOk t f && !(Claim.counters t f).any Lane.running) (trialWith (.ifc 0 2) [.nop, .endifc]),
     meets (.ifc 0 2) (trialWith (.ifc 0 2) [.nop, .endifc]) fun x => x.partnerOk .elseOrEndif (branchTo x.t.pc 2),
     meets (.ifc 0 2) (trial (.ifc 0 2)) fun x => !x.partnerOk .elseOrEndif (branchTo x.t.pc 2),
     meets (.elsec 2) (stopped (trial (.elsec 2))) fun x => x.t.demo.dskip != some x.t.pc,
     meets (.elsec 2) (trialWith (.elsec 2) [.nop, .endifc]) fun x =>
       !x.t.idle && x.t.demo.dskip != some x.t.pc && x.partnerOk .endif (branchTo x.t.pc 2),
     meets (.elsec 2) (trial (.elsec 2)) fun x => !x.partnerOk .endif (branchTo x.t.pc 2),
     meets .endifc (trial .endifc) fun x => x.t.demo.dpc == 0,
     meets (.loopc 2) (stopped (trialWith (.loopc 2) [.nop, .endl 0])) fun x => !x.t.inLoop && x.t.idle && x.partnerOk .endl (branchTo x.t.pc 2),
     meets (.loopc 2) (stopped (trial (.loopc 2))) fun x => !x.partnerOk .endl (branchTo x.t.pc 2),
     meets (.endl 1) (trialWith (.endl 1) [.loopc 0]) fun x => !x.t.inLoop && !x.t.idle && x.partnerOk .loop (branchTo x.t.pc 1),
     meets (.endl 1) (trial (.endl 1)) fun x => !x.partnerOk .loop (branchTo x.t.pc 1),
     meets (.endl 1) (withLanes (trial (.endl 1)) fun l => { l with cnt := 2 }) fun x =>
       !x.t.inLoop && !((Claim.counters x.t fun l => if l.cnt = 1 then 0 else l.cnt).any Lane.running),
     meets (.endl 1) (looping (trial (.endl 1))) fun x => x.t.inLoop].all id = true := by decide +kernel

theorem test_DemotionReturns_applies :
    [meets .endifc (withTeam (trial .endifc) fun t => { t with demo := { t.demo with dpc := 8, dend := some t.pc, dksave := 3 } }) fun x =>
       x.t.demo.dpc != 0 && x.t.demo.dend == some x.t.pc,
     meets (.elsec 2) (withTeam (trialWith (.elsec 2) [.nop, .endifc]) fun t => { t with demo := { t.demo with dskip := some t.pc } }) fun x =>
       x.t.demo.dskip == some x.t.pc && x.partnerOk .endif (branchTo x.t.pc 2),
     meets (.elsec 2) (withTeam (trial (.elsec 2)) fun t => { t with demo := { t.demo with dskip := some t.pc } }) fun x =>
       x.t.demo.dskip == some x.t.pc && !x.partnerOk .endif (branchTo x.t.pc 2),
     instrAt (trialWith .nop [.elsec 1, .endifc]) (groupFor .vector) 4 4 == some (.elsec 1),
     instrAt (trialWith .nop [.elsec 1, .endifc]) (groupFor .vector) 0 (branchTo 4 1) == some .endifc,
     instrAt (trialWith .nop [.elsec 1, .nop]) (groupFor .vector) 0 (branchTo 4 1) == some .nop,
     instrAt (trialWith .nop [.nop]) (groupFor .vector) 4 4 == some .nop].all id = true := by decide +kernel

theorem test_Branches_applies :
    [meets (.jmp 7 2) (trial (.jmp 7 2)) fun x => !x.t.inLoop,
     meets (.jmp 0 2) (trial (.jmp 0 2)) fun x => x.t.run.any fun l => !x.t.pred 0 l,
     meets (.jmp 0 2) (stopped (trial (.jmp 0 2))) fun x => x.t.run.isEmpty,
     meets (.jmp 0 2) (withLanes (trial (.jmp 0 2)) fun l => { l with pred := 1 }) fun x => !x.t.run.isEmpty && x.t.run.all fun l => x.t.pred 0 l,
     meets (.callc 2) (trial (.callc 2)) fun x => !x.t.inLoop && pushed x (leBytes 16 (x.t.pc + 4).toNat) didMove,
     meets (.callc 2) (mapped (brimming (trial (.callc 2)))) fun x => pushed x (leBytes 16 (x.t.pc + 4).toNat) didMove,
     allOf [(8, true), (0x10000, false)] fun (n, res) =>
       meets .retc (withTeam (trial .retc) fun t => { t with sp := 16, stack := leBytes 16 n }) fun x =>
         !x.t.inLoop && popped x 16 (fun m => match m with
           | .ok u v => (u.codeWord x.g (BitVec.ofNat 32 (fieldAt (v.stack.drop (v.stack.length - 16)) 0 4))).isSome == res
           | _ => false),
     meets .retc (mapped (spilled (trial .retc))) fun x => popped x 16 didMove,
     allOf [.jmp 7 2, .callc 2, .retc] fun i => meets i (looping (trial i)) fun x => x.t.inLoop].all id = true := by decide +kernel

theorem test_Exit_applies :
    [meets (.exitc 0) (trial (.exitc 0)) fun x => !x.t.ended, meets (.exitc 7) (trial (.exitc 7)) fun x => !x.t.idle].all id = true := by
  decide +kernel

theorem test_HardwareLoops_applies :
    [meets (.hloop 0 1) (trial (.hloop 0 1)) fun x => x.t.loops.isEmpty,
     meets (.hloop 0x3FF 1) (trial (.hloop 0x3FF 1)) fun x => x.t.loops.isEmpty,
     meets (.hloops 5 1) (withS (trial (.hloops 5 1)) 7) fun x => (x.t.sregs.getD 5 0).toNat == 7,
     meets (.hloop 5 9) (looping (trial (.hloop 5 9))) fun x => x.t.loops.any fun l => decide (l.last.toNat < (x.t.pc + 40).toNat),
     meets (.hloop 5 0) (looping (trial (.hloop 5 0))) fun x => x.t.loops.all fun l => !decide (l.last.toNat < (x.t.pc + 4).toNat),
     meets (.hbrk 7) (trial (.hbrk 7)) fun x => x.t.loops.isEmpty,
     meets (.hbrk 0) (looping (trial (.hbrk 0))) fun x => !x.t.loops.isEmpty && !x.t.allPred 0,
     meets (.hbrk 7) (looping (trial (.hbrk 7))) fun x => !x.t.loops.isEmpty && x.t.allPred 7].all id = true := by decide +kernel

theorem test_LoopEnd_applies :
    let t := { teamFor .access with loops := [{ start := 0, last := 8 }], lc := [2, 0, 0] }
    [t.loops.getLast? == some { start := 0, last := 8 }, !t.trapInh, decide (1 < (t.lc.getD 0 0).toNat)].all id = true := by decide +kernel

theorem test_StackWords_applies :
    [allOf [trial (.spush 5), mapped (brimming (trial (.spush 5)))] fun s => meets (.spush 5) s fun x => pushed x (pushBytes x.t 5) didMove,
     allOf [stacked (trial (.spop 5)), mapped (spilled (trial (.spop 5)))] fun s =>
       meets (.spop 5) s fun x => popped x (pushSize x.t 5) didMove,
     meets (.salloc 0) (trial (.salloc 0)) fun x => decide (0 ≤ x.t.immS 8 0) && pushed x [] didMove,
     meets (.salloc 0x7) (trial (.salloc 7)) fun x => pushed x (List.replicate 112 0) didMove,
     meets (.salloc 0x40) (trial (.salloc 0x40)) fun x => pushed x (List.replicate 1024 0) didMove,
     meets (.salloc 0xFC) (stacked (trial (.salloc 0xFC))) fun x => decide (x.t.immS 8 0xFC = -4) && decide (64 ≤ x.t.sp),
     meets (.salloc 0xFB) (stacked (trial (.salloc 0xFB))) fun x => decide (x.t.immS 8 0xFB < 0) && decide (x.t.sp < 80),
     allOf [.spush 5, .salloc 1, .callc 2, .fcall 0] fun i =>
       (meets i (withTeam (trial i) fun t => { t with sp := 1024 }) fun x =>
         ((Claim.pushing x i).map fun bs => decide (x.g.stackSz < x.t.sp + bs.length)).getD false) &&
       (meets i (brimming (trial i)) fun x => ((Claim.pushing x i).map fun bs => pushed x bs waited).getD false) &&
       meets i (forbidden (brimming (trial i))) fun x => ((Claim.pushing x i).map fun bs => pushed x bs barred).getD false,
     allOf [.spop 5, .retc] fun i =>
       (meets i (trial i) fun x => ((Claim.popping x i).map fun n => decide (x.t.sp < n)).getD false) &&
       (meets i (spilled (trial i)) fun x => ((Claim.popping x i).map fun n => popped x n waited).getD false) &&
       meets i (forbidden (spilled (trial i))) fun x => ((Claim.popping x i).map fun n => popped x n barred).getD false].all id = true := by
  decide +kernel

/-- A HINT word may be recorded in a state. -/
def recordable (i : Instr) (s : State) : Bool :=
  match s.group? 0 with
  | none => false
  | some g =>
    match g.team? 0 with
    | none => false
    | some u =>
      (Claim.hinted s.iword i).isSome && i.wellFormed && (!u.inLoop || u.loops.all fun l => l.last != u.pc) &&
        (s.codeWord (g.forTeam u) (u.pc + 4)).isSome && (u.pc + 4).extractLsb' 16 8 == u.pc.extractLsb' 16 8

theorem test_HintWords_applies :
    [allOf (pick wordsHint fun _ => true) fun i => recordable i (trial i),
     !recordable (.hintImm 1) (trialWith (.hintImm 1) []), !recordable (.hintMod 7 0 0) (trial (.hintMod 7 0 0)),
     recordable (.hintImm 1) (looping (trial (.hintImm 1))),
     allOf [[{ start := 0, last := 0 }], [{ start := 0, last := 0 }, { start := 0, last := 8 }]] fun ls =>
       !recordable (.hintImm 1) (withTeam (trial (.hintImm 1)) fun t => { t with loops := ls })].all id = true := by
  decide +kernel

/-- A store of the issuing team waits for a page. -/
def stuck (s : State) : State := withTeam s fun t => { t with sbuf := [{ seq := 0, pc := 0, lane := 0, va := 8, bytes := [1, 2] }] }

/-- The release of a word leaves a store that is not performed, in one state, and ends its context in another. -/
def unreleasable (i : Instr) (s : State) (also : Iss → Bool) : Bool :=
  (meets i (stuck s) fun x => also x && (((Claim.releasing x).team? x.r).any fun v => !v.performed)) &&
    meets i (forbidden (stuck s)) fun x => also x && ((Claim.releasing x).team? x.r).isNone

/-- The one group of a state passes a test. -/
def ofGroup (s : State) (p : Group → Bool) : Bool := ((s.group? 0).map p).getD false

theorem test_GroupBarrier_applies :
    [allOf [.bar, .barE, .barCarve 100 101] fun i => meets i (trial i) fun x =>
       (Claim.arrivalOf x.t i).isSome && x.t.responder.isNone && (releasedBy x).isSome,
     allOf [.bar, .barE, .barCarve 100 101] fun i => unreleasable i (trial i) fun x => x.t.responder.isNone,
     allOf [.bar, .barE, .barCarve 100 101] fun i => meets i (answering (trial i)) fun x => x.t.responder.isSome,
     (let s := { withTeam (trial .bar) (fun t => { t with arrival := .carve 100 16384 }) with copies := [
         { seq := 0, uid := 0, tid := 0, kind := .cpy, opA := 0, opB := 0, batch := 0, dropseed := 0, state := .queued, recv := [0], pos := 0,
           counted := [], record := [], bits := 0, waitReq := none }] }
      ofGroup s fun g => g.allArrived && g.carveReq.isSome && s.carveWaits g),
     ofGroup (trial .bar) fun g => !g.allArrived,
     ofGroup (withTeam (trial .bar) fun t => { t with arrival := .plain }) fun g => g.allArrived && g.carveReq.isNone,
     allOf [0, 16384, 16385, 65536, 1000000] fun n =>
       let s := withTeam (trial .bar) fun t => { t with arrival := .carve 100 n }
       ofGroup s fun g => g.allArrived && g.carveReq == some n && !s.carveWaits g].all id = true := by decide +kernel

theorem test_BarrierObjects_applies :
    [allOf [.boinit 100 101 0, .boexp 100 101 31, .boarr 100 101 31] fun i =>
       (meets i (trial i) fun x => (Claim.objectChange x.t i).isSome && !x.t.idle) && meets i (stopped (trial i)) fun x => x.t.idle,
     meets (.botest 100 101 31) (trial (.botest 100 101 31)) fun _ => true,
     meets (.bowait 101 31) (withS (trial (.bowait 101 31)) 0xFFFF) fun x => x.t.sreg 101 == 0xFFFF,
     meets (.bowait 101 0) (trial (.bowait 101 0)) fun x => x.t.sreg 101 == 0,
     meets (.bowait 101 0) (withS (trial (.bowait 101 0)) 0x8000) fun x => x.t.sreg 101 == 0x8000].all id = true := by decide +kernel

theorem test_Fences_applies :
    [allOf [.acqc, .fenceL] fun i => (meets i (trial i) fun x => !x.t.unread) &&
       meets i (withTeam (trial i) fun t => t.addReplay 0 (.load 0 4 false) [laneAt 0 0]) fun x => x.t.unread,
     allOf [.relc, .fenceE, .fenceH] fun i => (meets i (trial i) fun x => (releasedBy x).isSome) && unreleasable i (trial i) fun _ => true,
     meets .relc (mapped (stuck (trial .relc))) fun x => (releasedBy x).isSome,
     allOf [(trial .fenceH, true), (withGroup (trial .fenceH) fun g => { g with teams := g.teams ++ [{ teamFor .access with
         tid := 1, sbuf := [{ seq := 0, pc := 0, lane := 0, va := 8, bytes := [1] }] }] }, false)] fun (s, all) => meets .fenceH s fun x =>
       ((releasedBy x).map fun y => ((y.s.teamsOf y.g.part).foldl State.drain y.s).drained y.g.part == all).getD false,
     (((trial .nop).group? 0).bind fun g => g.team? 0).isSome].all id = true := by
  decide +kernel

/-- A load, store or atomic passes its address checks in a state. -/
def accessOk (x : Iss) (a : RegField) (off : Int) (n : Nat) (base : Bool) : Bool :=
  !base && !(x.t.vas a off).isEmpty && (x.t.vas a off).all fun p => decide (p.2 < 2 ^ 52) && p.2 % n == 0

/-- The access of a word passes its address checks. -/
def accessible (i : Instr) (x : Iss) : Bool := ((Claim.accessForm x i).map fun q => accessOk x q.1 q.2.1 q.2.2.1 q.2.2.2).getD false

theorem test_AddressTraps_applies :
    [meets (.ld 5 5 0 2 0) (trial (.ld 5 5 0 2 0)) fun x => ((Claim.accessForm x (.ld 5 5 0 2 0)).map (·.2.2.2)).getD false,
     allOf (pick (wordsLdg ++ wordsStg ++ wordsAtom) fun i => match i with
       | .ld .. => false
       | .pref .. => false
       | .ldq .. => false
       | .ldqg .. => false
       | .stq .. => false
       | _ => true) fun i => meets i (withS (withA (trial i) 0x80000000000000) 0x80000000) fun x => ((Claim.accessForm x i).map fun q =>
         !q.2.2.2 && (x.t.vas q.1 q.2.1).all fun p => decide (2 ^ 52 ≤ p.2)).getD false,
     allOf [0xFFFFFFFFFFFF1, 0xFFFFFFFFFFFFF, 2] fun n => meets (.st 5 6 0 2) (withA (trial (.st 5 6 0 2)) (BitVec.ofNat 64 n)) fun x =>
       (x.t.vas 6 0).all fun p => decide (p.2 < 2 ^ 52) && p.2 % 4 != 0,
     allOf [.ld 5 6 0 4 0, .cas 5 9 0 4, .redAdd 5 6 0 2] fun i => meets i (stopped (trial i)) fun x => x.t.run.isEmpty && (x.s.ctxOf x.g).isSome].all id = true := by
  decide +kernel

/-- The core's miss queue is full. -/
def crowded (s : State) : State :=
  s.modCore 0 fun k => { k with reqs := List.replicate 128 { team := { uid := 0, tid := 0 }, seq := 0, lane := 0, home := (0, 0), accepted := false } }

/-- An IF has left its ELSE at address 4 for a demotion (R173). -/
def demotable (s : State) : State := withTeam s fun t => { t with demo := { t.demo with dif := some 4, dk := 1 } }

/-- What a demotion event after an effect comes to: nothing, a demotion, or the trap of R169. -/
def eventOf (x : Iss) (u : State) : Option Nat :=
  (u.team? x.r).map fun w =>
    let e := w.loopEnd w.pc
    match demote u x.g e.1 w.pc (e.2.getD (w.pc + 4)) with
    | none => 0
    | some (.ok _) => 1
    | some (.error _) => 2

/-- The three states in which a word makes those events. -/
def events (i : Instr) (f : State → State) (p : Iss → Option Nat) : Bool :=
  meets i (f (trialWith i [.elsec 1, .endifc])) (fun x => p x == some 0) &&
    meets i (f (demotable (trialWith i [.elsec 1, .endifc]))) (fun x => p x == some 1) &&
    meets i (f (demotable (trialWith i [.elsec 1, .nop]))) fun x => p x == some 2

/-- What an LD.POLL with nothing left to read leaves behind it, where some lane's value differs (R145). -/
def polled (x : Iss) (c : Ctx) : State :=
  let lanes := pollLanes x.t 5 8 (x.t.vas 6 0)
  let q := gatherLanes x.s (x.reader c true) 8 lanes
  ((x.request q.s c (q.done (x.t.vas 6 0))).modTeam x.r fun v =>
    v.addPend (x.t.awaiting (loadWrites 5 8 false (onlyLow (x.t.lowFor 5) q.vals)))).acquire x.r

/-- The reads of an LD.POLL pass a test. -/
def polls (s : State) (p : List LaneAcc → Gather → Bool) : Bool :=
  meets (.ldPoll 5 6 0 1) s fun x => accessible (.ldPoll 5 6 0 1) x && !x.missFull && ofCtx x fun c =>
    let lanes := pollLanes x.t 5 8 (x.t.vas 6 0)
    p lanes (gatherLanes x.s (x.reader c true) 8 lanes)

/-- Lane 0 has 1 in register 5, the other lanes 0. -/
def oneLane (s : State) : State :=
  withTeam s fun t => { t with lanes := t.lanes.mapIdx fun n l => { l with a := l.a.set 5 (if n = 0 then 1 else 0), v := l.v.set 5 (if n = 0 then 1 else 0) } }

theorem test_Loads_applies :
    [allOf [(.ld 4 6 0 4 0, false), (.ld 5 6 0 0 1, false), (.ldAcq 5 6 0xF 3 0, true)] fun (i, acq) =>
       allOf [(mapped, false, true), (id, false, false), (forbidden, true, false)] fun (f, bad, whole) =>
         meets i (f (withA (trial i) 256)) fun x => accessible i x && !x.missFull && ofCtx x fun c =>
           let q := gatherLanes x.s (x.reader c acq) 4 (plainLanes (x.t.vas 6 0))
           q.bad == bad && (bad || q.left.isEmpty == whole),
     allOf [.ld 5 6 0 0 1, .ldAcq 5 6 0 3 0, .ldPoll 5 6 0 1, .pref 6 0] fun i => meets i (crowded (trial i)) fun x => !x.t.idle && x.missFull,
     polls (forbidden (trial (.ldPoll 5 6 0 1))) fun _ q => q.bad,
     polls (trial (.ldPoll 5 6 0 1)) fun _ q => !q.bad && !q.left.isEmpty,
     polls (mapped (trial (.ldPoll 5 6 0 1))) fun lanes q => !q.bad && q.left.isEmpty && allUnchanged lanes q.vals,
     polls (mapped (withA (trial (.ldPoll 5 6 0 1)) 256)) fun lanes q =>
       !q.bad && q.left.isEmpty && !allUnchanged lanes q.vals && !someUnchanged lanes q.vals,
     polls (mapped (oneLane (trial (.ldPoll 5 6 0 1)))) fun lanes q =>
       !q.bad && q.left.isEmpty && !allUnchanged lanes q.vals && someUnchanged lanes q.vals,
     events (.ldPoll 5 6 0 1) (fun s => mapped (oneLane s)) fun x => (x.s.ctxOf x.g).bind fun c => eventOf x (polled x c),
     meets (.pref 6 0) (stopped (trial (.pref 6 0))) fun x => x.t.idle,
     allOf [(trial (.pref 6 0), false), (forbidden (trial (.pref 6 0)), true)] fun (s, bad) => meets (.pref 6 0) s fun x =>
       !x.t.idle && !x.missFull && ofCtx x fun c => (((x.t.vas 6 0).map (·.2)).foldl (prefLane c) (x.s, false)).2 == bad].all id = true := by
  decide +kernel

/-- A write of one byte at place 0x10010. -/
def wrote (host : Bool) (ver : Nat) (name : Option (Nat × Int)) (maker : Option TeamRef) (closed : Bool) : PastWrite :=
  { ver := ver, name := name, host := host, pa := 0x10010, old := [7], maker := maker, fenced := false, closed := closed }

/-- A machine with a shootdown at write 7, an acquire of its team at 5 and of its core at 6, a TLB entry entered at 8, and writes that no
ordinary load of the team at address 16 may miss: a closed one, one under another name, its own, two from before the acquires,
and one without a name. -/
def settled : State :=
  let ws := fun (host : Bool) =>
    [wrote host 9 none none true, wrote host 6 (some (9, 9)) none false, wrote host 9 (some (nameOf 1 16 0x10010)) (some { uid := 0, tid := 0 }) false,
     wrote host (if host then 5 else 4) (some (nameOf 1 16 0x10010)) none false, wrote host 7 none none false]
  let s := (((withTeam (mapped (trial .nop)) fun t => { t with acqAt := 5 }).modCore 0 fun k => { k with acqAt := 6 }).modPart 0 fun p =>
    { p with shots := [{ ver := 7 }], tlb := p.tlb.map fun e => { e with since := 8 } })
  { s with past := ws false ++ ws true, vers := 10 }

theorem test_Loads_applies_homes :
    ofGroup settled (fun g => g.teams.any fun t =>
      let w : Reader := { c := ctxFor .access [], r := { uid := 0, tid := 0 }, t := t, seq := 0, fresh := false }
      allOf settled.past fun e => e.meets 0x10010 1 && (e.closed ||
        (if e.name == none || e.name == some (nameOf 1 16 0x10010) then
          e.maker == some w.r || decide (e.ver < t.acqAt) || (e.host && decide (e.ver < w.acqAt settled true)) ||
            (e.name == none && decide (e.ver < settled.leafSince w.c 16))
        else decide (e.ver < settled.shotAt 0 1 16)))) = true := by decide +kernel

theorem test_LoadValues_applies :
    (loadWrites 5 4 true [(2, [0xFE, 0xFF, 0xFF, 0xFF])]).map (·.vals) = [[(2, 0xFFFFFFFFFFFFFFFE)]] := by decide +kernel

theorem test_Stores_applies :
    [meets (.st 5 6 0 4) (trial (.st 5 6 0 4)) fun x => accessible (.st 5 6 0 4) x && (x.s.ctxOf x.g).isSome,
     meets (.stRel 5 6 1 0) (trial (.stRel 5 6 1 0)) fun x => accessible (.stRel 5 6 1 0) x && (releasedBy x).isSome,
     unreleasable (.stRel 5 6 1 0) (trial (.stRel 5 6 1 0)) fun x => accessible (.stRel 5 6 1 0) x].all id = true := by decide +kernel

theorem test_StoreReachesHome_applies :
    let s := stuck (trial .nop)
    [(mapped s).xlate (ctxFor .access []) .write 8 == (.ok false 0x10008 3, mapped s), (s.xlate (ctxFor .access []) .write 8).1 == .fault 1 4,
     Memory.wf (mapped s).mem, Memory.wf (mapped s).hostMem,
     ((mappedTo 0x10047 s).xlate (ctxFor .access []) .write 8).1 == .expand 0, ((forbidden s).xlate (ctxFor .access []) .write 8).1 == .bad,
     ((s.team? { uid := 0, tid := 0 }).map fun t => t.sbuf.head?.any fun e => !t.storeWaits e).getD false,
     (((withTeam s fun t => { t with seqNo := 1 }.addReplay 0 (.load 5 4 false) [laneAt 0 8]).team? { uid := 0, tid := 0 }).map fun t =>
       ({ t with sbuf := t.sbuf.map fun e => { e with seq := 2 } } : Team).sbuf.head?.any fun e => t.storeWaits e).getD false,
     allOf [([], true), ([{ team := { uid := 0, tid := 0 }, seq := 0, lane := 0, home := homeOf (partitionReset 0) 1 8, accepted := false }], false),
       (List.replicate 31 { team := { uid := 0, tid := 1 }, seq := 0, lane := 0, home := homeOf (partitionReset 0) 1 8, accepted := true }, true),
       (List.replicate 32 { team := { uid := 0, tid := 1 }, seq := 0, lane := 0, home := homeOf (partitionReset 0) 1 8, accepted := true }, false)]
       fun (q, free) =>
         let u := (mapped s).modCore 0 fun k => { k with reqs := q }
         let home := homeOf (partitionReset 0) 1 8
         (u.part? 0).any (fun pt => homeOf pt 1 8 == home) && (decide (u.sliceFill home < 32) && u.cores.all fun k =>
           k.reqs.all fun a => a.accepted || a.team != { uid := 0, tid := 0 } || a.home != home) == free,
     memRead ((mapped s).drainOne { uid := 0, tid := 0 }).mem 0x10009 == 2].all id = true := by decide +kernel

/-- An atomic passes its checks in a state, and a test of its issue past the release holds. -/
def atomics (i : Instr) (s : State) (p : AtomOp → Nat → List LaneAcc → Iss → Ctx → Bool) : Bool :=
  meets i s fun x =>
    match Claim.atomForm i with
    | none => false
    | some (op, ret, d, a, o, n) =>
      accessOk x a 0 n (ret && writesBase d a (if op = .cas ∧ n = 16 then 2 else 1)) && ((Claim.ordered x o).map fun y => ofCtx x fun c =>
        p op n ((x.t.vas a 0).map (Claim.atomLane x.t op n d)) y c).getD false

/-- The state and the team once the team's own stores are written. -/
def writtenOut (y : Iss) (lanes : List LaneAcc) (n : Nat) : State := (y.s.modTeam y.r fun v => v.freeze lanes n).drain y.r

theorem test_Atomics_applies :
    [allOf (pick wordsAtom fun _ => true) fun i => atomics i (mapped (trial i)) fun op n lanes y c =>
       !y.missFull && ((writtenOut y lanes n).team? y.r).any fun w =>
         let q := placeLanes (writtenOut y lanes n) c lanes
         w.sbuf.isEmpty && !q.bad && !q.left && !(lanes.any fun l => w.behind w.seqNo l.va n) && q.at_.all fun p => carried op n p.2.1 p.2.2.2,
     allOf [(.atomAdd 5 6 0 2), (.cas 5 9 0 4)] fun i =>
       (atomics i (crowded (mapped (trial i))) fun _ _ _ y _ => y.missFull) &&
       (atomics i (forbidden (stuck (trial i))) fun _ n lanes y _ => !y.missFull && ((writtenOut y lanes n).team? y.r).isNone) &&
       (atomics i (stuck (trial i)) fun _ n lanes y _ => !y.missFull && ((writtenOut y lanes n).team? y.r).any fun w => !w.sbuf.isEmpty) &&
       (atomics i (forbidden (trial i)) fun _ n lanes y c => !y.missFull && (placeLanes (writtenOut y lanes n) c lanes).bad) &&
       (atomics i (trial i) fun _ n lanes y c => !y.missFull && !(placeLanes (writtenOut y lanes n) c lanes).bad &&
         (placeLanes (writtenOut y lanes n) c lanes).left) &&
       (atomics i (mapped (withTeam (trial i) fun t => { t.addReplay 0 (.load 5 4 false) [laneAt 0 0] with seqNo := 1 })) fun _ n lanes y c =>
         !y.missFull && !(placeLanes (writtenOut y lanes n) c lanes).bad && ((writtenOut y lanes n).team? y.r).any fun w =>
           w.sbuf.isEmpty && lanes.any fun l => w.behind w.seqNo l.va n) &&
       atomics i (mappedTo 0x1000F (trial i)) fun op n lanes y c =>
         let q := placeLanes (writtenOut y lanes n) c lanes
         !y.missFull && !q.bad && !q.left && !q.at_.all fun p => carried op n p.2.1 p.2.2.2,
     unreleasable (.atomAdd 5 6 2 2) (trial (.atomAdd 5 6 2 2)) fun x => accessOk x 6 0 4 false,
     events (.cas 5 9 0 2) (fun s => mapped (oneLane s)) fun x => (x.s.ctxOf x.g).bind fun c =>
       let lanes := (x.t.vas 9 0).map (Claim.atomLane x.t .cas 4 5)
       let q := placeLanes (writtenOut x lanes 4) c lanes
       let k := atomLanes q.s x.r c.asid .cas 4 q.at_
       let v := (x.request k.s c (x.t.vas 9 0)).modTeam x.r fun v => v.addPend (x.t.awaiting (atomWrites (some 5) 4 k))
       if k.fail then eventOf x v else none].all id = true := by decide +kernel

theorem test_AtomicAtHome_applies :
    [Memory.wf State.reset.mem, Memory.wf State.reset.hostMem, decide ((laneAt 0 0).data.toNat < 2 ^ 32)].all id = true := by decide +kernel

/-- An entry that a pop sees. -/
def entryFor (tag : BitVec 2) : QEntry :=
  { id := 0, tag := tag, payload := 7, vals := [1, 2, 3, 4], complete := true, waiting := false, faulted := false, owner := 0 }

/-- Every queue of the group changed. -/
def withQueues (s : State) (f : Queue → Queue) : State := withGroup s fun g => { g with queues := g.queues.map f }

/-- A queue instruction issues, on a declared queue that a test accepts. -/
def onQueue (i : Instr) (s : State) (p : Iss → Queue → Bool) : Bool :=
  meets i s fun x => ((instrQueue i).bind fun q => (x.g.queue? q.1).map (p x)).getD false

theorem test_QueueEntries_applies :
    [allOf [.qpush 5 3 0, .qmarkSeg 100 3 0xE0, .qmarkEos 3 0] fun i =>
       (allOf [(0, 0, true), (7, 0, true), (8, 0, false), (7, 1, false)] fun (n, at_, room) =>
         onQueue i (withQueues (trial i) fun q => { q with entries := List.replicate n (entryFor 0), freed := 1, freeAt := at_ }) fun x q =>
           (Claim.pushForm x.t i).isSome && !x.t.idle && q.state == .opened && !q.ended && decide (Claim.taken q x.s.clk < q.depth) == room) &&
       (onQueue i (stopped (trial i)) fun x _ => x.t.idle) &&
       onQueue i (withQueues (trial i) fun q => { q with ended := true }) fun x q => !x.t.idle && q.ended,
     allOf [.qpop 5 3 0, .qtry 5 3 0xE0, .qpeek 5 3 0] fun i => (Claim.popForm i).isSome &&
       (onQueue i (stopped (trial i)) fun x _ => x.t.idle) &&
       (onQueue i (withQueues (trial i) fun q => { q with state := .closing }) fun x q => !x.t.idle && q.state == .closing) &&
       (onQueue i (trial i) fun x q => !x.t.idle && (Claim.visible q x.s.clk).isEmpty) &&
       (onQueue i (withQueues (trial i) fun q => { q with entries := [{ entryFor 0 with since := 1 }] }) fun x q =>
         !x.t.idle && (Claim.visible q x.s.clk).isEmpty && !(Claim.visible q (x.s.clk + 1)).isEmpty) &&
       allOf [0, 1, 2] fun tag => onQueue i (withQueues (trial i) fun q => { q with entries := [entryFor tag] }) fun x q =>
         !x.t.idle && !(Claim.visible q x.s.clk).isEmpty].all id = true := by decide +kernel

theorem test_QueueControl_applies :
    [allOf [none, some 0] fun at_ => onQueue (.qclose 3) (withQueues (trial (.qclose 3)) fun q => { q with entries := [entryFor 0], pushAt := at_ })
       fun x q => !x.t.idle && q.state == .opened && (q.pushAt == some x.s.clk) == at_.isSome &&
         x.g.teams.all fun v => !v.replay.any (ReplayItem.ofQueue 3),
     onQueue (.qclose 3) (withQueues (trial (.qclose 3)) fun q => { q with state := .closed }) fun _ q => q.state != .opened,
     onQueue (.qflush 100 3) (trial (.qflush 100 3)) fun _ q => q.entries.isEmpty,
     onQueue (.qflush 100 3) (withQueues (trial (.qflush 100 3)) fun q => { q with entries := [entryFor 0, entryFor 1, entryFor 2] }) fun x q =>
       !x.t.idle && ((Claim.visible q x.s.clk).takeWhile fun e => e.tag != 2).length == 2,
     allOf [0, 1, 2] fun k => onQueue (.qstat 100 3 k) (trial (.qstat 100 3 k)) fun _ _ => true].all id = true := by decide +kernel

theorem test_QueueMemory_applies :
    [allOf [.ldq 3 6 0 2, .ldqg 3 6 0 2] fun i =>
       (onQueue i (mapped (withA (trial i) 256)) fun x q => !x.t.idle && ((Claim.queueLanes x i).map fun v => allOf v.2 fun p => decide (p.2 < 2 ^ 52) && p.2 % q.elemBytes == 0).getD false &&
         q.state == .opened && !q.ended && decide (Claim.taken q x.s.clk < q.depth)) &&
       (allOf [(crowded, true, false), (id, false, false), (forbidden, false, true)] fun (f, full, bad) =>
         onQueue i (f (withA (trial i) 256)) fun x q => x.missFull == full && ofCtx x fun c => ((Claim.queueLanes x i).map fun v =>
           (gatherLanes x.s (x.reader c false) q.elemBytes (plainLanes v.2)).bad == bad).getD false) &&
       (allOf [0x10000000000000, 2] fun n => onQueue i (withA (trial i) n) fun x q => !x.t.idle && ((Claim.queueLanes x i).map fun v =>
         allOf v.2 fun p => decide (2 ^ 52 ≤ p.2) || p.2 % q.elemBytes != 0).getD false) &&
       (onQueue i (stopped (trial i)) fun x _ => x.t.idle) &&
       (onQueue i (withQueues (trial i) fun q => { q with state := .closed }) fun x q => !x.t.idle && q.state != .opened) &&
       onQueue i (withQueues (trial i) fun q => { q with entries := List.replicate 8 (entryFor 0) }) fun x q =>
         !x.t.idle && decide (q.depth ≤ Claim.taken q x.s.clk),
     allOf [0, 1, 2] fun tag => onQueue (.stq 3 6 0 2) (withQueues (trial (.stq 3 6 0 2)) fun q => { q with entries := [entryFor tag] }) fun x q =>
       !x.t.idle && !(Claim.visible q x.s.clk).isEmpty && (x.t.vas 6 0).all fun p => p.2 % q.elemBytes == 0,
     onQueue (.stq 3 6 0 2) (trial (.stq 3 6 0 2)) fun x q => !x.t.idle && (Claim.visible q x.s.clk).isEmpty,
     onQueue (.stq 3 6 0 2) (stopped (trial (.stq 3 6 0 2))) fun x _ => x.t.idle,
     onQueue (.stq 3 6 0 2) (withA (trial (.stq 3 6 0 2)) 2) fun x q => !x.t.idle && (x.t.vas 6 0).all fun p => p.2 % q.elemBytes != 0,
     onQueue (.stq 3 6 0 2) (withQueues (trial (.stq 3 6 0 2)) fun q => { q with state := .closed }) fun x q => !x.t.idle && q.state == .closed].all id = true := by
  decide +kernel

/-- The elements of a tile load in its lanes. -/
def loadCheck (x : Iss) (a : RegField) (n : Nat) (pair : Bool) : Check :=
  let h := hdrAt x.g x.t n
  tldCheck x n x.t.fmtRec.fd (x.t.hasRec && h.isHaar) h (elemsOf x.t h a pair)

/-- The same of a tile store. -/
def storeCheck (x : Iss) (a : RegField) (n : Nat) (pair : Bool) : Check :=
  let h := hdrAt x.g x.t n
  spatialCheck x n (tstSource h x.t.fmtRec.fa).isSome h (elemsOf x.t h a pair)

theorem test_TileAccess_applies :
    [allOf [(.tld 5 6 0, false), (.tldr 5 6 0, true)] fun (i, pair) =>
       (meets i (trial i) fun x => !x.t.idle && (loadCheck x 6 0 pair).isNone) && (meets i (stopped (trial i)) fun x => x.t.idle) &&
       meets i (trial i) fun x => (loadCheck x 6 9 pair).isSome,
     allOf [(.tst 5 6 0, false), (.tstr 5 6 0, true)] fun (i, pair) =>
       (meets i (trial i) fun x => !x.t.idle && (storeCheck x 6 0 pair).isNone) && (meets i (stopped (trial i)) fun x => x.t.idle) &&
       meets i (trial i) fun x => (storeCheck x 6 9 pair).isSome,
     Memory.wf (groupFor .access).pad, ((groupFor .access).hdr 0).bits == 32,
     meets (.tbind 101 5) (stopped (trial (.tbind 101 5))) fun x => x.t.idle,
     allOf [0, 65504] fun n => meets (.tbind 101 5) (withS (trial (.tbind 101 5)) n) fun x => x.t.sreg 101 == n && x.t.responder.isNone,
     allOf [16, 65536] fun n => meets (.tbind 101 5) (withS (trial (.tbind 101 5)) n) fun x => x.t.sreg 101 == n,
     meets .nop (withGroup (withTeam (trial .nop) fun t => { t with padAt := 5, padSeen := [8] }) fun g => { g with past := [
       { ver := 9, name := none, host := false, pa := 0, old := [1], maker := none, fenced := false, closed := true },
       { ver := 8, name := none, host := false, pa := 0, old := [1], maker := none, fenced := false, closed := false },
       { ver := 7, name := none, host := false, pa := 0, old := [1], maker := some { uid := 0, tid := 0 }, fenced := false, closed := false },
       { ver := 4, name := none, host := false, pa := 0, old := [1], maker := none, fenced := false, closed := false }] }) fun x =>
         allOf x.g.past fun e => e.closed || e.maker == some x.r || decide (e.ver < x.t.padAt) || x.t.padSeen.contains e.ver,
     meets (.tbind 101 5) (answering (trial (.tbind 101 5))) fun x => x.t.responder.isSome].all id = true := by decide +kernel

/-- The check of a tile atomic. -/
def atomCheck (x : Iss) (op : TileOp) (a : RegField) (n : Nat) : Check :=
  let h := hdrAt x.g x.t n
  firstFail [handleCheck x.g x.t n, domCheck x.word h, failIf (h.malformed || !tileOpFmtOk op h) trapFormat x.word,
    failIf (h.dom != 0) trapDomain x.word, atomtCheck x.g h op (atomtElems x.t h op a)]

theorem test_TileAtomics_applies :
    [allOf [.atomtFadd 5 6 0] fun i => meets i (trial i) fun x =>
       !x.t.idle && ((Claim.tileAtom i).map fun q => (atomCheck x q.1 q.2.2.1 q.2.2.2.toNat).isNone).getD false,
     allOf (pick wordsAtomt fun _ => true) fun i => (meets i (stopped (trial i)) fun x => x.t.idle && (Claim.tileAtom i).isSome) &&
       meets i (withGroup (trial i) fun g => { g with handles := List.replicate 16 none }) fun x =>
         !x.t.idle && ((Claim.tileAtom i).map fun q => (atomCheck x q.1 q.2.2.1 q.2.2.2.toNat).isSome).getD false,
     events (.castt 5 6 0) oneLane fun x =>
       let h := hdrAt x.g x.t 0
       let q := (atomtElems x.t h .cast 6).foldl (tileAtomLane x.t h .cast 5) { g := x.g, olds := [], flags := 0, fail := false }
       if (atomCheck x .cast 6 0).isNone ∧ q.fail = true then eventOf x ((x.s.modGroup x.r.uid fun g => g.storePad q.g x.r).modTeam x.r fun v =>
         v.addPend [{ dst := 5, vals := q.olds.map fun p => (p.1, BitVec.ofNat 64 (p.2 % 2 ^ 32)), flags := q.flags }]) else none,
     meets (.quant 1 2 97) (formats (trial (.quant 1 2 97)) 1 4) fun x => x.t.fmtRec.fa == 1 && codeFmt x.t.fmtRec.fd == .e5m2,
     meets (.quant 1 2 97) (trial (.quant 1 2 97)) fun x => codeFmt x.t.fmtRec.fd == .implied,
     meets (.cbld 7 3) (trial (.cbld 7 3)) fun _ => true].all id = true := by decide +kernel

/-- The lanes' operands of a copy. -/
def copyPair (s : State) (a b : DWord) : State :=
  withLanes s fun l => { l with a := (List.range 64).map fun n => if n = 5 then a else b }

theorem test_CopyWords_applies :
    [allOf [.cpy 5 6, .cpym 100 5 6, .cpys 5 6] fun i => meets i (trial i) fun x => (Claim.copyForm x.t i).isSome &&
       ((Claim.copyForm x.t i).map fun q => (x.t.run.findSome? fun l => copyLaneFault x.g.padSize q.1 (x.t.reg q.2.1 l) (x.t.reg q.2.2 l)).isNone).getD false,
     meets (.cpy 5 6) (copyPair (trial (.cpy 5 6)) 0x10000000000000 0) fun x => (copyLaneFault x.g.padSize .cpy (x.t.reg 5 0) (x.t.reg 6 0)).isSome,
     meets (.cpys 5 6) (copyPair (trial (.cpys 5 6)) 32 0) fun x => (copyLaneFault x.g.padSize .cpys (x.t.reg 5 0) (x.t.reg 6 0)).isSome,
     meets (.cpy 5 6) (copyPair (trial (.cpy 5 6)) 0 0x000001000010000) fun x =>
       decide (0 < bitsOf (x.t.reg 6 0).toNat 24 24 ∧ x.g.padSize < bitsOf (x.t.reg 6 0).toNat 0 22 + bitsOf (x.t.reg 6 0).toNat 24 24),
     (meets (.cbatch 100) (trial (.cbatch 100)) fun x => !x.t.idle) && meets (.cbatch 100) (stopped (trial (.cbatch 100))) fun x => x.t.idle,
     meets (.cwait 100 101) (withS (trial (.cwait 100 101)) 0x8001) fun x => (x.t.cb - (x.t.sreg 101).extractLsb' 0 16).toNat == 32767,
     meets (.cwait 100 101) (withS (trial (.cwait 100 101)) 0x8000) fun x => (x.t.cb - (x.t.sreg 101).extractLsb' 0 16).toNat == 32768,
     meets (.cwait 100 101) { trial (.cwait 100 101) with copies := [
         { seq := 0, uid := 0, tid := 0, kind := .cpy, opA := 0, opB := 0, batch := 0, dropseed := 0, state := .queued, recv := [], pos := 0,
           counted := [], record := [], bits := 0, waitReq := none }] } fun x => !x.s.copies.isEmpty].all id = true := by decide +kernel

/-- A fetch descriptor of raw rows. -/
def descFor : FetchDesc := { base := 0, otab := 0, htab := 0, nrows := 8, rowb := 16, enc := 0, fsrc := .fp32, fdst := .fp32, lens := [] }

/-- A record of coded or raw rows, with the address of its table (R326). -/
def recordFor (enc htab : Nat) : List Byte :=
  leBytes 16 0 ++ leBytes 8 htab ++ leBytes 4 8 ++ leBytes 4 16 ++ leBytes 1 enc ++ leBytes 31 0

/-- The record at the start of the context. -/
def recorded (enc htab : Nat) (s : State) : State :=
  { mapped s with mem := memWriteN [] 0x10000 (recordFor enc htab) }

/-- A run of bytes is read as a test says. -/
def readsRun (x : Iss) (va n : Nat) (p : Gather → Bool) : Bool := ofCtx x fun c => p (x.readRun x.s c false va n)

/-- The check of a fetch. -/
def fetchOk (x : Iss) (n b : RegField) (rows : Hdr → List (Nat × Nat)) : Check :=
  let h := hdrAt x.g x.t n.toNat
  fetchCheck x n.toNat h (x.g.descs.getD (bitsOf (x.t.sreg b).toNat 0 4) none) (rows h)

theorem test_FetchWords_applies :
    [allOf [(0, 0), (1, 128), (1, 2 ^ 52 - 128), (1, 2 ^ 52 - 127)] fun (enc, htab) =>
       meets (.hdef 100 5 101) (recorded enc htab (trial (.hdef 100 5 101))) fun x => x.t.low? == some 0 && readsRun x 0 64 fun q =>
         !q.bad && q.left.isEmpty && fieldAt q.bytes 0x20 1 == enc && fieldAt q.bytes 0x10 8 == htab,
     meets (.hdef 100 5 101) (trial (.hdef 100 5 101)) fun x => readsRun x 0 64 fun q => !q.bad && !q.left.isEmpty,
     meets (.hdef 100 5 101) (forbidden (trial (.hdef 100 5 101))) fun x => readsRun x 0 64 fun q => q.bad,
     meets (.hdef 100 5 101) (stopped (trial (.hdef 100 5 101))) fun x => x.t.run.isEmpty,
     meets (.hdef 100 5 101) (withA (trial (.hdef 100 5 101)) 0x10000000000000) fun x => (x.t.reg 5 0).toNat == 2 ^ 52,
     meets (.hdef 100 5 101) (withA (trial (.hdef 100 5 101)) 32) fun x => (x.t.reg 5 0).toNat % 64 == 32,
     allOf [.fetch 0 100 101, .fetchx 0 5 101] fun i =>
       let s := withGroup (trial i) fun g => { g with descs := List.replicate 16 (some descFor) }
       (meets i s fun x => ((Claim.fetchForm x i).map fun q => !x.t.idle && (fetchOk x q.1 q.2.1 q.2.2).isNone).getD false) &&
       (meets i (trial i) fun x => ((Claim.fetchForm x i).map fun q => !x.t.idle && (fetchOk x q.1 q.2.1 q.2.2).isSome).getD false) &&
       meets i (stopped (trial i)) fun x => x.t.idle,
     meets (.finv 100 101) (withGroup (trial (.finv 100 101)) fun g => { g with descs := List.replicate 16 (some descFor) }) fun x =>
       !x.t.idle && (x.s.ctxOf x.g).isSome,
     meets (.finv 100 101) (stopped (trial (.finv 100 101))) fun x => x.t.idle].all id = true := by decide +kernel

/-- A card of a group, as its task number and state. -/
def cardFor (n : BitVec 16) (st : CardState) : Card :=
  { task := n, age := 0, owner := 0, bytes := List.replicate 64 0, handleA := none, handleB := none, dropseed := 0, dropp := 0, dropscl := 0,
    state := st, served := 0, status := 0 }

theorem test_TaskWords_applies :
    [meets (.mtask 100 101) (withS (trial (.mtask 100 101)) 0x80) fun x => !x.t.idle && !x.s.cardOk x.g (memReadN (Claim.viewed x).g.pad 0x80 64),
     allOf [32, 65536] fun n => meets (.mtask 100 101) (withS (trial (.mtask 100 101)) n) fun x =>
       decide ((x.t.sreg 101).toNat % 64 ≠ 0 ∨ x.g.padSize < (x.t.sreg 101).toNat + 64),
     meets (.mtask 100 101) (withS (padded (trial (.mtask 100 101)) 0x8000 [1, 0, 0, 0, 0, 2]) 0x8000) fun x =>
       !x.t.idle && x.s.cardOk x.g (memReadN (Claim.viewed x).g.pad 0x8000 64) && decide (x.s.cardsOn x.g.core < 64),
     meets (.mtask 100 101) (withS (withGroup (padded (trial (.mtask 100 101)) 0x8000 [1, 0, 0, 0, 0, 2]) fun g =>
       { g with cards := List.replicate 64 (cardFor 0 .queued) }) 0x8000) fun x =>
       !x.t.idle && x.s.cardOk x.g (memReadN (Claim.viewed x).g.pad 0x8000 64) && decide (64 ≤ x.s.cardsOn x.g.core),
     meets (.mtask 100 101) (stopped (trial (.mtask 100 101))) fun x => x.t.idle,
     allOf [0, 1] fun n => meets (.mwait 100 101) (withS (trial (.mwait 100 101)) n) fun x => (x.g.nextTask - (x.t.sreg 101).extractLsb' 0 16) == 0 - BitVec.setWidth 16 n,
     meets (.mwait 100 101) (withS (trial (.mwait 100 101)) 0xFFFF) fun x => x.g.cards.isEmpty && x.g.nextTask - (x.t.sreg 101).extractLsb' 0 16 == 1,
     meets (.mwait 100 101) (withS (withGroup (trial (.mwait 100 101)) fun g => { g with cards := [cardFor 0x8001 .queued] }) 0x8001) fun x =>
       x.g.nextTask - (x.t.sreg 101).extractLsb' 0 16 == 32767 && x.g.cards.any fun c => c.task == (x.t.sreg 101).extractLsb' 0 16,
     allOf [0, 1, 2] fun k => meets (.mstat 100 101 k) (trial (.mstat 100 101 k)) fun _ => true,
     allOf [.queued, .running] fun st => meets (.mcancel 100 101) (withS (withGroup (trial (.mcancel 100 101)) fun g =>
       { g with cards := [cardFor 0xFFFF st] }) 0xFFFF) fun x => !x.t.idle && ((x.g.card? 0xFFFF).map fun c => c.state == st).getD false,
     meets (.mcancel 100 101) (trial (.mcancel 100 101)) fun x => x.g.nextTask == 0,
     meets (.mcancel 100 101) (stopped (trial (.mcancel 100 101))) fun x => x.t.idle].all id = true := by decide +kernel

/-- What an instruction of the tile-vector unit reads, checks and writes, and that its checks pass. -/
def tileOk (i : Instr) (s : State) : Bool :=
  meets i s fun x => !x.t.idle && ((Claim.tileForm (Claim.viewed x) i).map fun q => (tileChecks (Claim.viewed x) q.1).isNone).getD false

/-- The tiles of the group are those of another declaration. -/
def tiled (ts : List TileDecl) (s : State) : State :=
  withGroup s fun g => { g with pad := ({ kernelFor .vector with tiles := ts } : Kernel).pad }

/-- Three tiles of 16 rows stand in the scratchpad, the first of them in the Haar domain as a WSTORE leaves it. -/
def waved (s : State) : State :=
  let ts := (List.range 3).map fun n => ({ num := n, fmt := .fp32, rows := 16, cols := 4 } : TileDecl)
  match exec (.wstore 0 1 1) (tiled ts (withTeam (trial (.wstore 0 1 1)) fun t => { t with wth := List.replicate 6 1 })) with
  | .next t => withGroup s fun g => { g with pad := ((t.group? 0).map (·.pad)).getD [] }
  | _ => s

theorem test_TileVectors_applies :
    [allOf [.wrec 0 1, .tvadd 0 1 2, .tvsub 0 1 2, .tvmulc 0 1 100, .tvaxpy 0 1 100, .tvcvt 0 1, .tvact 0 1 5, .tvnorm 0 1 100,
        .tvnormRms 0 1 100, .tvsmax 0 1 100, .wstore 0 1 2] fun i => tileOk i (trial i),
     tileOk (.wth 2 0) (waved (trial (.wth 2 0))),
     tileOk (.tvbias 0 1 2) (tiled [{ num := 0, fmt := .fp32, rows := 4, cols := 4 }, { num := 1, fmt := .fp32, rows := 4, cols := 4 },
       { num := 2, fmt := .fp32, rows := 1, cols := 4 }] (trial (.tvbias 0 1 2))),
     allOf (pick (wordsWave ++ wordsTvec) fun i => match i with
       | .wtag .. => false
       | _ => true) fun i =>
       (meets i (stopped (trial i)) fun x => x.t.idle && (Claim.tileForm (Claim.viewed x) i).isSome) &&
       meets i (withGroup (trial i) fun g => { g with handles := List.replicate 16 none }) fun x =>
         !x.t.idle && ((Claim.tileForm (Claim.viewed x) i).map fun q => (tileChecks (Claim.viewed x) q.1).isSome).getD false,
     meets (.wtag 100 0) (waved (trial (.wtag 100 0))) fun x =>
       !x.t.idle && (hdrAt x.g x.t 0).isHaar && (wtagOf (Claim.viewed x).g (hdrAt x.g x.t 0)).isSome,
     meets (.wtag 100 0) (trial (.wtag 100 0)) fun x => !x.t.idle && (wtagOf x.g (hdrAt x.g x.t 0)).isSome,
     meets (.wtag 100 9) (trial (.wtag 100 9)) fun x => !x.t.idle && (handleCheck x.g x.t 9).isSome,
     meets (.wtag 100 9) (stopped (trial (.wtag 100 9))) fun x => x.t.idle && (handleCheck x.g x.t 9).isSome].all id = true := by decide +kernel

/-- A key-directory entry of the one group for the header at offset 0. -/
def entryAt0 (held : List Nat) : KeyEntry := { key := 7, part := 0, ctxid := 0, gen := 1, uid := 0, gid := 0, header := 0, held := held }

/-- The core's directory holds given entries, the others free. -/
def withKeys (s : State) (es : List (Option KeyEntry)) : State := s.modCore 0 fun k => { k with keys := es ++ [none] }

/-- The issuing team's directory entry after the snapshots that are due. -/
def ownKey (x : Iss) : Option Nat := (x.s.takeDue.core? x.g.core).bind fun k => k.keyOf x.g.uid 0

theorem test_KeyDirectory_applies :
    [allOf [.treg 100 102 0, .tdereg 100 0, .tmove 100 101 0] fun i =>
       (meets i (stopped (trial i)) fun x => x.t.idle) && (meets i (trial i) fun x => (handleCheck x.g x.t 9).isSome) &&
       meets i (answering (trial i)) fun x => x.t.responder.isSome,
     meets (.treg 100 102 0) (withKeys (trial (.treg 100 102 0)) [some (entryAt0 [])]) fun x => !x.t.idle && ownKey x == some 0,
     meets (.treg 100 102 0) (withKeys (trial (.treg 100 102 0)) []) fun x => (ownKey x).isNone && (x.s.takeDue.core? 0).any fun k => k.freeKey == some 0,
     meets (.treg 100 102 0) ((trial (.treg 100 102 0)).modCore 0 fun k => { k with keys := [] }) fun x =>
       (ownKey x).isNone && (x.s.takeDue.core? 0).any fun k => k.freeKey.isNone,
     allOf [[], [5]] fun held => meets (.tdereg 100 0) (withKeys (trial (.tdereg 100 0)) [some (entryAt0 held)]) fun x =>
       ownKey x == some 0 && (x.s.takeDue.core? 0).any fun k => k.keyHeld 0 == !held.isEmpty,
     meets (.tdereg 100 0) (withKeys (trial (.tdereg 100 0)) []) fun x => (ownKey x).isNone && x.t.responder.isNone,
     meets (.tmove 100 101 0) (withKeys (trial (.tmove 100 101 0)) []) fun x => (ownKey x).isNone && x.t.responder.isNone,
     allOf [([], 0, 65536, true, true), ([5], 0, 65536, true, true), ([], 0, 520, true, false), ([], 1, 65536, false, false)]
       fun (held, gid, pad, found, fits) =>
         meets (.tmove 100 101 0) (withS (withGroup (withKeys (trial (.tmove 100 101 0)) [some (entryAt0 held)]) fun g =>
           { g with padSize := pad }) gid) fun x =>
             let dest := x.s.takeDue.moveTo x.g ((x.t.sreg 101).extractLsb' 0 16).toNat
             ownKey x == some 0 && x.t.responder.isNone && (x.s.takeDue.core? 0).any (fun k => k.keyHeld 0 == !held.isEmpty && (k.key 0).isSome) &&
               dest.isSome == found && dest.any (fun g => g.holdsTile (x.g.hdr 0)) == fits].all id = true := by decide +kernel

/-- A census of the one team, numbered 0. -/
def censusFor (st : CensusState) : Census :=
  { cseq := 0, id := 0, part := 0, ctxid := 0, uid := 0, tid := 0, freed := false, key := 7, mask := 0, op := 0, nwords := 2, image := 1, kidx := 0,
    decl := 0, roff := 0, args := [], snapAt := 0, snapped := true, matched := 0, pieces := [], state := st, result := [1, 2], status := 0, trapvec := 0,
    rmode := 0, wth := [], dropseed := 0, dropp := 0, dropscl := 0, askCore := 0 }

/-- The team holds a census in a state. -/
def asking (s : State) (st : CensusState) : State :=
  { withTeam s fun t => { t with censuses := [0] } with censuses := [censusFor st] }

/-- A census record that is well formed stands where SOLICIT names it. -/
def soliciting (x : Iss) : Bool :=
  !x.t.idle && x.t.responder.isNone && decide ((x.t.sreg 101).toNat % 64 = 0 ∧ (x.t.sreg 101).toNat + 128 ≤ x.g.padSize) &&
    ((x.s.kernelOf x.g).bind fun k => solicitOk x.g.padSize k (memReadN (Claim.viewed x).g.pad (x.t.sreg 101).toNat 128)).isSome

/-- A load of the team is not performed. -/
def unread (s : State) : State := withTeam s fun t => t.addReplay 0 (.load 0 4 false) [laneAt 0 0]

theorem test_CensusWords_applies :
    [meets (.solicit 100 101) (answering (trial (.solicit 100 101))) fun x => x.t.responder.isSome,
     meets (.solicit 100 101) (stopped (trial (.solicit 100 101))) fun x => x.t.idle,
     allOf [64, 65408, 65472, 65536] fun n => meets (.solicit 100 101) (withS (trial (.solicit 100 101)) n) fun x =>
       (n == 65472 || n == 65536) == decide (x.g.padSize < (x.t.sreg 101).toNat + 128),
     meets (.solicit 100 101) (withS (trial (.solicit 100 101)) 0x8000) fun x =>
       !x.t.idle && ((x.s.kernelOf x.g).bind fun k => solicitOk x.g.padSize k (memReadN (Claim.viewed x).g.pad 0x8000 128)).isNone,
     allOf [([], true), (List.replicate 8 7, false)] fun (slots, room) =>
       meets (.solicit 100 101) (withS (padded (withTeam (trial (.solicit 100 101)) fun t =>
         ({ t with censuses := slots } : Team)) 0x8011 [2]) 0x8000) fun x =>
         soliciting x && decide (x.t.censuses.length < 8) == room && decide (x.s.openCensuses x.g.part < 64) && (releasedBy x).isSome,
     unreleasable (.solicit 100 101) (withS (padded (trial (.solicit 100 101)) 0x8011 [2]) 0x8000) soliciting,
     meets (.respond 5) (answering (trial (.respond 5))) fun x => x.t.responder.isSome && x.s.censuses.isEmpty,
     allOf [true, false] fun done => meets (.respond 5) (asking (withTeam (answering (trial (.respond 5))) fun t =>
       { t with responder := t.responder.map fun i => { i with responded := done } }) .opened) fun x =>
         x.t.responder.any (fun i => i.responded == done) && (x.s.censuses.find? fun c => c.cseq == 0) == some (censusFor .opened),
     meets (.respond 95) (asking (answering (trial (.respond 95))) .opened) fun x => decide (x.t.nvreg < 95 + 2),
     unreleasable (.respond 5) (asking (answering (trial (.respond 5))) .opened) fun x => x.t.responder.any fun i => !i.responded,
     meets (.respond 5) (trial (.respond 5)) fun x => x.t.responder.isNone,
     meets (.respond 5) (asking (answering (trial (.respond 5))) .opened) fun x => (x.t.responder.map fun i => !i.responded).getD false && (releasedBy x).isSome,
     allOf [.opened, .closed, .aborted] fun st => allOf [0, 1, 2] fun k => meets (.census 100 101 k) (asking (trial (.census 100 101 k)) st) fun x =>
       (x.s.censuses.find? fun c => x.t.censuses.contains c.cseq && c.id == (x.t.sreg 101).extractLsb' 0 16) == some (censusFor st),
     meets (.census 100 101 0) (unread (asking (trial (.census 100 101 0)) .closed)) fun x => x.t.unread,
     meets (.census 100 101 0) (trial (.census 100 101 0)) fun x => x.s.censuses.isEmpty,
     allOf [0, 65, 66, 67, 68] fun k => meets (.cres 100 101 k) (asking (trial (.cres 100 101 k)) .closed) fun _ => true].all id = true := by decide +kernel

/-- Slot 0 of the context holds expert 0. -/
def slotted (loading : Bool) (s : State) : State :=
  let e : Slot := { expert := 0, valid := true, loading := loading, use := true, ref := 0 }
  withCtx s fun c => { c with slots := c.slots.set 0 e }

theorem test_RouteWords_applies :
    [allOf (pick wordsRoute fun _ => true) fun i => (meets i (stopped (trial i)) fun x => x.t.idle) && meets i (trial i) fun x =>
       !x.t.idle && (x.s.ctxOf x.g).isSome && !x.t.unread,
     allOf [.slotget 100 101, .slotref 100 101 0] fun i => meets i (unread (slotted false (trial i))) fun x => !x.t.idle && x.t.unread && ofCtx x fun c =>
         decide ((c.slotGet ((x.t.sreg 101).extractLsb' 0 16)).2.toNat < 2 ^ 29) && (c.slot 0).valid && !(c.slot 0).loading,
     meets (.slotref 100 101 2) (trial (.slotref 100 101 2)) fun x => ((releasedBy x).map fun y => !x.t.idle && !y.t.unread).getD false,
     meets (.slotref 100 101 2) (slotted true (trial (.slotref 100 101 2))) fun x => !x.t.idle && ofCtx x fun c =>
       (c.slot 0).valid && (c.slot 0).loading && (releasedBy x).isSome,
     unreleasable (.slotref 100 101 2) (trial (.slotref 100 101 2)) fun x => !x.t.idle,
     allOf [1, 4096] fun n => meets (.rtstage 100 5 101) (mapped (withS (trial (.rtstage 100 5 101)) n)) fun x =>
       decide (0 < (x.t.sreg 101).toNat ∧ (x.t.sreg 101).toNat ≤ 4096),
     allOf [(mapped, false, true), (id, false, false), (forbidden, true, false)] fun (f, bad, whole) =>
       meets (.rtstage 100 5 101) (f (withS (trial (.rtstage 100 5 101)) 2)) fun x => x.t.low?.isSome && readsRun x 0 16 fun q =>
         q.bad == bad && (bad || q.left.isEmpty == whole && decide (x.s.tablesOf x.g.part + 2 ≤ 131072)),
     meets (.rtstage 100 5 101) (withS (withA (trial (.rtstage 100 5 101)) 0xFFFFFFFFFFFC0) 9) fun x =>
       (x.t.reg 5 0).toNat % 64 == 0 && decide (2 ^ 52 < (x.t.reg 5 0).toNat + 8 * 9),
     allOf [0, 4097] fun n => meets (.rtstage 100 5 101) (withS (trial (.rtstage 100 5 101)) n) fun x => x.t.sreg 101 == n,
     meets (.rtstage 100 5 101) (withA (trial (.rtstage 100 5 101)) 0x10000000000000) fun x => (x.t.reg 5 0).toNat == 2 ^ 52,
     meets (.rtstage 100 5 101) (withA (trial (.rtstage 100 5 101)) 32) fun x => (x.t.reg 5 0).toNat % 64 == 32].all id = true := by decide +kernel

/-- A context about to stage a table of two entries, with a given active table. -/
def tablesFull (l : List DWord) : State :=
  withCtx (mapped (withS (trial (.rtstage 100 5 101)) 2)) fun c => { c with active := some l }

theorem test_RouteWords_applies_full : (tablesFull (List.replicate 131072 0)).tablesOf 0 = 131072 := by
  have h : ∀ l, (tablesFull l).tablesOf 0 = l.length := fun _ => rfl
  rw [h, List.length_replicate]

/-- A QUEUE node of a ring of four records at address 0. -/
def nodeFor (st : QNodeState) (pending : Nat) : GNode :=
  { kind := .queue, bit := 0, npred := 0, succ := [255, 255, 255, 255], param := 10, launchVa := 0, rqva := 0, rqcap := 4, tile := 1, arrived := 0,
    running := 0, again := 0, iter := 0, inIter := false, qstate := st, head := 0, pending := pending, held := [], due := none, left := none }

/-- The context runs a graph of one QUEUE node. -/
def graphed (s : State) (st : QNodeState) (pending : Nat) : State :=
  withCtx s fun c => { c with graph := some { ord := 0, serial := false, cw := 0, nodes := [nodeFor st pending], todo := [] } }

/-- The node an instruction names, once the timers have run. -/
def nodeOf (x : Iss) : Option GNode := (x.s.fireTimer (x.g.part, x.g.ctxid) 0).queueNode? (x.g.part, x.g.ctxid) 0

/-- The ring of the QUEUE node stands elsewhere. -/
def ringAt (va : Nat) (s : State) : State :=
  withCtx s fun c => { c with graph := c.graph.map fun g => { g with nodes := g.nodes.map fun n => { n with rqva := va } } }

/-- The second 64 KiB of the context stand at a frame of another partition. -/
def forbiddenNext (s : State) : State :=
  s.modPart 0 fun p => { p with tlb := p.tlb ++ (List.range 24).map fun c =>
    { col := c, asid := 1, level := 1, vpn := 1, pte := BitVec.ofNat 64 (3 * 2 ^ 37 + 7), since := 0 } }

/-- What a GREC reads, and how its ring's places translate, pass a test. -/
def grecsAt (ring : Nat) (s : State) (p : Gather → Run → Bool) : Bool :=
  meets (.grec 5 6 101) (ringAt ring (graphed s .opened 0)) fun x =>
    let vas := x.t.vas 6 0
    !x.t.idle && (releasedBy x).any fun y => ofCtx x fun c => (nodeOf x).any fun n => decide (n.taken + vas.length ≤ n.rqcap) &&
      let q := gatherLanes y.s (y.reader c false) 8 (vas.flatMap fun p => (List.range 8).map fun i => laneAt p.1 (p.2 + 8 * i))
      p q (xlateBytes q.s c .write (n.slotsVa vas.length))

/-- The same, the ring at address 0. -/
def grecs (s : State) (p : Gather → Run → Bool) : Bool := grecsAt 0 s p

theorem test_GraphWords_applies :
    [allOf [.grec 5 6 101, .gcond 100 101, .gdone, .gflush 100 101] fun i => (meets i (trial i) fun x => !x.t.idle) && meets i (stopped (trial i)) fun x => x.t.idle,
     meets (.grec 5 6 101) (trial (.grec 5 6 101)) fun x => (nodeOf x).isNone && (x.t.vas 6 0).all fun p => decide (p.2 < 2 ^ 52) && p.2 % 64 == 0,
     meets (.grec 5 6 101) (graphed (trial (.grec 5 6 101)) .closing 0) fun x => (nodeOf x).any fun n => n.qstate != .opened,
     meets (.grec 5 6 101) (graphed (trial (.grec 5 6 101)) .opened 1) fun x => (nodeOf x).any fun n => decide (n.rqcap < n.taken + (x.t.vas 6 0).length),
     allOf [0x10000000000000, 32] fun n => meets (.grec 5 6 101) (withA (trial (.grec 5 6 101)) n) fun x =>
       (x.t.vas 6 0).all fun p => decide (2 ^ 52 ≤ p.2) || p.2 % 64 != 0,
     grecs (forbidden (trial (.grec 5 6 101))) fun q _ => q.bad,
     grecs (trial (.grec 5 6 101)) fun q _ => !q.bad && !q.left.isEmpty,
     grecs (mapped (trial (.grec 5 6 101))) fun q w => !q.bad && q.left.isEmpty && w.stop.isNone,
     grecsAt 0x10000 (mapped (trial (.grec 5 6 101))) fun q w => !q.bad && q.left.isEmpty && w.stop == some (.fault 0x10000 1 4),
     grecsAt (2 ^ 52) (mapped (trial (.grec 5 6 101))) fun q w => !q.bad && q.left.isEmpty && w.stop == some (.range (2 ^ 52)),
     grecsAt 0x10000 (forbiddenNext (mapped (trial (.grec 5 6 101)))) fun q w => !q.bad && q.left.isEmpty && w.stop == some .bad,
     unreleasable (.grec 5 6 101) (graphed (trial (.grec 5 6 101)) .opened 0) fun x => !x.t.idle,
     meets (.gflush 100 101) (trial (.gflush 100 101)) fun x => (nodeOf x).isNone,
     meets (.gflush 100 101) (graphed (trial (.gflush 100 101)) .closed 0) fun x => (nodeOf x).any fun n => n.qstate != .opened,
     allOf [0, 1] fun n => meets (.gflush 100 101) (graphed (trial (.gflush 100 101)) .opened n) fun x => (nodeOf x).any fun d => d.pending == n].all id = true := by
  decide +kernel

/-- Every entry of the peer table names port 0, which is UP. -/
def peered (s : State) : State :=
  { withCtx s fun c => { c with peers := List.replicate 256 { valid := true, port := 0, addr := 1, job := 9 } } with
    ports := { portReset with state := 2 } :: List.replicate 7 portReset }

/-- A remote operation of the team on port 0. -/
def remoteFor (kind : Nat) : RemoteOp :=
  { rseq := 0, uid := 0, tid := 0, lane := 0, port := 0, ra := 0, kind := kind, bytes := 8, data := 0, cmp := 0, queue := 0, entry := 0, since := 0 }

theorem test_RemoteWords_applies :
    [allOf [(.rread 3 6 0 2, 4), (.rwrite 5 6 0 3, 8), (.ratomAdd 5 7 1, 8), (.ratomCas 5 8, 8)] fun (i, n) =>
       (meets i (trial i) fun x => ((x.s.ctxOf x.g).map fun c => (remoteFault c n (x.t.vas 6 0)).isSome).getD false) &&
       (meets i (peered (trial i)) fun x => !x.t.idle && ((x.s.ctxOf x.g).map fun c => (remoteFault c n (x.t.vas 6 0)).isNone).getD false) &&
       (meets i (peered (withA (trial i) 0x10000000000000)) fun x => ((x.s.ctxOf x.g).map fun c => (remoteFault c n (x.t.vas 6 0)).isSome).getD false) &&
       (meets i (peered (withA (trial i) 2)) fun x => ((x.s.ctxOf x.g).map fun c => (remoteFault c n (x.t.vas 6 0)).isSome).getD false) &&
       meets i (stopped (trial i)) fun x => x.t.run.isEmpty,
     onQueue (.rread 3 6 0 2) (withQueues (peered (trial (.rread 3 6 0 2))) fun q => { q with ended := true }) fun x q => !x.t.idle && q.ended,
     onQueue (.rread 3 6 0 2) (withQueues (peered (trial (.rread 3 6 0 2))) fun q => { q with entries := List.replicate 8 (entryFor 0) }) fun _ q =>
       q.depth == q.entries.length,
     allOf [[], [remoteFor 1]] fun ops => meets (.rfence 100) { trial (.rfence 100) with remotes := ops } fun x =>
       ((releasedBy x).map fun y => y.s.remotes == ops).getD false,
     unreleasable (.rfence 100) (trial (.rfence 100)) fun _ => true].all id = true := by
  decide +kernel

/-- The port has no room for another operation. -/
def portFilled (i : Instr) : State := { peered (trial i) with remotes := List.replicate portLanes (remoteFor 1) }

theorem test_ports_fill (s : State) (ops : List RemoteOp) (h : ∃ o ∈ ops, o.port = 0)
    (hs : s.remotes = List.replicate portLanes (remoteFor 1)) : s.portsFull ops = true := by
  obtain ⟨o, ho, hp⟩ := h
  simp only [State.portsFull, List.any_eq_true, decide_eq_true_eq, hs]
  refine ⟨o, ho, ?_⟩
  have : (List.replicate portLanes (remoteFor 1)).filter (fun p => p.port == o.port) = List.replicate portLanes (remoteFor 1) := by
    simp [remoteFor, hp]
  rw [this, List.length_replicate]
  have : 0 < (ops.filter fun p => p.port == o.port).length := List.length_pos_of_mem (List.mem_filter.mpr ⟨ho, by simp⟩)
  omega

theorem test_RemoteWords_applies_full : ∃ x c, issueOf (.rwrite 5 6 0 3) (portFilled (.rwrite 5 6 0 3)) = some x ∧ x.t.idle = false ∧
    x.s.ctxOf x.g = some c ∧
      x.s.portsFull (x.laneOps c 1 8 0 0 (x.t.vas 6 0) (fun l => BitVec.ofNat 64 ((x.t.reg 5 l).toNat % 2 ^ 64)) (fun _ => 0)) = true := by
  refine ⟨_, _, rfl, rfl, rfl, test_ports_fill _ _ ⟨_, List.mem_cons_self, rfl⟩ rfl⟩

theorem test_OverlayWords_applies :
    [allOf [.ovload 100 9, .ovwait 100 9] fun i => meets i (trial i) fun x => !x.s.ownOverlay x.g 9,
     allOf [.ovload 100 0, .ovwait 100 0] fun i => (meets i (trial i) fun x => x.s.ownOverlay x.g 0 && ((x.s.slotFor x.g 0).map fun o => o.loaded).getD false) &&
       meets i ((trial i).modCore 0 fun k => { k with slots := k.slots.map fun o => o.map fun o => { o with loaded := false } }) fun x =>
         ((x.s.slotFor x.g 0).map fun o => !o.loaded).getD false,
     allOf [.ovload 100 0, .ovwait 100 0] fun i => let s := (trial i).modCore 0 fun k => { k with slots := List.replicate 4 none }
       (meets i s fun x => !x.t.idle && (x.s.slotFor x.g 0).isNone && (x.s.chooseSlot x.g.core 1).isSome) && meets i (stopped s) fun x => x.t.idle,
     allOf [.ovload 100 0] fun i => meets i (withGroup ((trial i).modCore 0 fun k => { k with slots := List.replicate 4 (some
       { placedSlot 0 with ovl := 7, loaded := false }) }) fun g => g) fun x =>
         !x.t.idle && (x.s.slotFor x.g 0).isNone && (x.s.chooseSlot x.g.core 1).isNone,
     allOf [0, 0xFF] fun e => meets (.fcall e) (trial (.fcall e)) fun x => !x.t.inLoop && pushed x (leBytes 16 (x.t.pc + 4).toNat) didMove &&
       ((x.s.kernelOf x.g).map fun k => (x.s.codeWord x.g (k.entries.getD e.toNat 0)).isSome).getD false,
     meets (.fcall 0) (withCtx (trial (.fcall 0)) fun c => { c with images := c.images.map fun i => { i with kernels := i.kernels.map fun k =>
       { k with entries := List.replicate 256 0x10000 } } }) fun x =>
         ((x.s.kernelOf x.g).map fun k => (x.s.codeWord x.g (k.entries.getD 0 0)).isNone).getD false,
     meets (.fcall 0) (looping (trial (.fcall 0))) fun x => x.t.inLoop].all id = true := by decide +kernel

/-- The status that a command of function 0 or 1 leaves. -/
def statusOf (i : Instr) (s : State) (fn : Nat) : CmdStatus :=
  match exec i s with
  | .next t => ((t.funcs[fn]?).map (·.status)).getD .none
  | _ => .none

theorem test_DriverCommands_applies :
    (allOf
      [.keyInstall 0 7 7 [], .groupTableWrite 0 0 63 2, .sharedTableInstall 0 0 4096, .clearfail 0, .testMode 0 1, .powerCap 0 1000, .powerCap 0 7500,
       .replanCommand 0, .partitionModeWrite 0 1, .repairMapWrite 0 0 [0, 1, 2, 3, 4, 5, 6, 8], .peerTableWrite 0 0 ⟨0, 1⟩ 255 true 0 0 0xFFFFFFFF,
       .registerWrite 0 0 0 5, .registerWrite 1 1 0 16, .registerWrite 1 1 0 64000, .registerWrite 0 2 9 1, .partitionReset 1 0,
       .pageEngineRegister 1 0 ⟨0, 1⟩ [(0, 65536)] [65536] 1 2 3600, .drowsyDisable 1 0 true, .jobRegister 1 0 0xFFFFFFFF ⟨0, 1⟩,
       .portEnable 1 0, .portDisable 1 0] fun i =>
      (statusOf i (trial .nop) 0 == .ok || statusOf i (trial .nop) 1 == .ok) &&
        let s := { trial .nop with dev := deviceReset }
        statusOf i s 0 == .notReady || statusOf i s 1 == .notReady) = true := by decide +kernel

theorem test_DriverCommands_refuse :
    (allOf
      [.keyInstall 0 8 0 [], .keyInstall 0 0 8 [], .groupTableWrite 0 0 64 2, .groupTableWrite 0 0 0 3, .sharedTableInstall 0 0 2048, .powerCap 0 7550,
       .powerCap 0 999, .partitionModeWrite 0 2, .repairMapWrite 0 8 [], .peerTableWrite 0 0 ⟨0, 1⟩ 256 true 0 0 0, .peerTableWrite 0 0 ⟨1, 1⟩ 0 true 0 0 0,
       .registerWrite 1 1 0 15, .registerWrite 1 1 0 64016, .registerWrite 0 3 0 0, .pageEngineRegister 1 0 ⟨0, 1⟩ [] [] 0 0 3601,
       .shootdown 1 0 3 0 0 0, .jobRegister 1 0 0x100000000 ⟨0, 1⟩] fun i =>
         statusOf i (trial .nop) 0 == .invalid || statusOf i (trial .nop) 1 == .invalid) = true := by
  decide +kernel

/-- The commands of another generation of a context that a function has had discarded. -/
def staleOf (i : Instr) (s : State) (fn : Nat) : Word :=
  match exec i s with
  | .next t => ((t.funcs[fn]?).map (·.staleAns)).getD 0
  | _ => 0

theorem test_DriverCommands_generation :
    (allOf [.peerTableWrite 0 0 ⟨0, 2⟩ 255 true 0 0 0, .preempt 0 0 ⟨0, 2⟩, .destroy 0 0 ⟨0, 0⟩, .jobRegister 0 0 1 ⟨0, 2⟩] fun i =>
      staleOf i (trial .nop) 0 == 1) = true := by decide +kernel

theorem test_DriverCommands_access :
    [statusOf (.powerCap 1 1000) (trial .nop) 1 == .access, statusOf (.portEnable 2 0) (trial .nop) 2 == .access].all id = true := by
  decide +kernel

/-- A descriptor of context 5 of partition 0, ASID 9: its table root at 8 KiB, its save area of 2 GiB at 64 KiB. -/
def descBytes : List Byte :=
  leBytes 2 5 ++ leBytes 2 0 ++ leBytes 2 9 ++ leBytes 1 0 ++ leBytes 1 7 ++ leBytes 8 0x2000 ++ leBytes 8 0x10000 ++ leBytes 8 0x80000000 ++
    leBytes 4 3 ++ leBytes 4 0 ++ leBytes 4 11 ++ leBytes 4 0 ++ leBytes 16 0

/-- A launch record of kernel 0 of image 1. -/
def launchBytes : List Byte := leBytes 1 1 ++ leBytes 1 0 ++ leBytes 2 1 ++ leBytes 124 0

/-- A phase of the context, in a state. -/
def launchFor (st : LaunchState) : Launch :=
  { lid := 0, ord := 0, part := 0, ctxid := 0, record := launchRecOf launchBytes, recVa := none, state := st, variant := 0, groups := 1, placed := 0,
    retired := 0, freed := 0, sizeWord := 1, node := none, first := 0, count := 0, startClk := 0, waitReq := none }

/-- A phase stands in the machine, and no group. -/
def launched (st : LaunchState) : State := { trial .nop with launches := [launchFor st], groups := [], cur := none }

/-- The context in a state. -/
def ctxIs (s : State) (st : CtxState) : State := withCtx s fun c => { c with state := st }

theorem test_ContextLife_applies :
    [descOk (trial .nop) descBytes, !descOk (trial .nop) (descBytes.set 0 64), fieldAt descBytes 6 1 == 0,
     ((trial .nop).ctx? 0 0).isSome, ((trial .nop).ctx? 0 1).isNone, ((trial .nop).part? 0).isSome,
     kernelRecordOk (trial .nop) (ctxFor .access []) launchBytes, !kernelRecordOk (trial .nop) (ctxFor .access []) (launchBytes.set 0 0),
     ((launched .placing).launch? 0).isSome, (launched .placing).placeBlocked (launchFor .placing) == false,
     ((ctxIs (launched .placing) .saved).firstSaved 0).any fun c => c.ctxid == 0 && !(ctxIs (launched .placing) .saved).outranked c,
     ((ctxIs (launched .running) .saved).firstSaved 0).any fun c => ((ctxIs (launched .running) .saved).resumed c).isSome,
     ((ctxIs (launched .running) .preempting).ctx? 0 0).any fun c => (launched .running).censusesOver c && cardsOver ((launched .running).groupsOf 0 0),
     decide ((launchFor .running).startClk + 1 * 700000 ≤ 700000)].all id = true := by decide +kernel

/-- A graph launch of the context, its graph at an address. -/
def askAt (va : Nat) : GraphAsk := { fn := 1, ord := 0, serial := false, va := va, waitReq := none }

/-- The context has the ask of a graph at an address, over given bytes. -/
def asked (va : Nat) (bs : List Byte) : State :=
  { mapped (withCtx (trial .nop) fun c => { c with asks := [askAt va] }) with mem := memWriteN [] 0x10000 bs }

/-- A graph of one BOUNDARY node with no successor and no predecessor: its header and its record (R119). -/
def graphHdr : List Byte := leBytes 2 1 ++ leBytes 62 0
def graphRec : List Byte := [5, 0, 0, 0] ++ List.replicate 8 0xFF ++ leBytes 52 0

theorem test_ContextLife_commands :
    [statusOf (.imageLoad 1 0 ⟨0, 1⟩ []) (trial .nop) 1 != .ok, statusOf (.graphLaunch 1 0 ⟨0, 1⟩ []) (trial .nop) 1 == .invalid,
     graphRecordOk (leBytes 1 2 ++ leBytes 127 0), !graphRecordOk [], statusOf (.destroy 1 0 ⟨1, 1⟩) (trial .nop) 1 == .invalid,
     statusOf (.destroy 1 0 ⟨0, 1⟩) (trial .nop) 1 == .ok, statusOf (.destroy 1 0 ⟨0, 1⟩) (ctxIs (trial .nop) .killed) 1 == .invalid,
     statusOf (.preempt 2 0 ⟨0, 1⟩) (trial .nop) 2 == .access, statusOf (.preempt 1 0 ⟨0, 1⟩) { trial .nop with dev := deviceReset } 1 == .notReady,
     staleOf (.kernelLaunch 1 0 ⟨0, 9⟩ launchBytes) (trial .nop) 1 == 1, statusOf (.kernelLaunch 1 0 ⟨0, 1⟩ launchBytes) (trial .nop) 1 == .ok,
     statusOf (.preempt 1 0 ⟨0, 1⟩) (ctxIs (trial .nop) .error) 1 == .dead, statusOf (.preempt 1 0 ⟨0, 1⟩) (trial .nop) 1 == .ok,
     statusOf (.preempt 1 0 ⟨0, 1⟩) (ctxIs (trial .nop) .idle) 1 == .invalid, statusOf (.rollbackFloorRaise 1 0 ⟨0, 1⟩ (2 ^ 32)) (trial .nop) 1 == .invalid,
     statusOf (.rollbackFloorRaise 1 0 ⟨0, 1⟩ 0xFFFFFFFF) (trial .nop) 1 == .ok, statusOf (.createContext 1 descBytes) (trial .nop) 1 == .ok,
     statusOf (.createContext 1 (descBytes.set 6 9)) (trial .nop) 1 == .invalid, statusOf (.createContext 2 descBytes) (trial .nop) 2 == .access,
     statusOf (.createContext 1 descBytes) { trial .nop with dev := deviceReset } 1 == .notReady].all id = true := by
  decide +kernel

theorem test_ContextLife_graphs :
    [(asked 0 []).ctxs.all fun c => c.asks.find? (fun b => b.ord == 0 && b.waitReq.isNone) == some (askAt 0),
     (xlateBytes (trial .nop) (ctxFor .access []) .read (runFrom 0 64)).stop == some (.fault 0 1 4),
     (xlateBytes (asked 0 []) (ctxFor .access []) .read (runFrom 0 64)).stop.isNone,
     (xlateBytes (asked 0 []) (ctxFor .access []) .read (runFrom 0x10000 64)).stop == some (.fault 0x10000 1 4),
     (let q := xlateBytes (asked 0 (graphHdr ++ graphRec)) (ctxFor .access []) .read (runFrom 0 64)
      let r := xlateBytes q.s (ctxFor .access []) .read (runFrom 64 64)
      r.stop.isNone && (graphOf 0 false (q.s.readPlaces q.places) (r.s.readPlaces r.places)).isSome),
     (graphOf 0 false [] []).isNone].all id = true := by decide +kernel

/-- A second context of lower priority fills the one core. -/
def rivalled : State :=
  { launched .placing with
    ctxs := [{ ctxFor .access [] with prio := 1 }, { ctxFor .access [] with ctxid := 1, asid := 2 }]
    groups := [{ groupFor .access with uid := 1, ctxid := 1, l1Gran := 144 }] }

theorem test_ContextLife_decision :
    [(rivalled.launch? 0).isSome, (rivalled.decision (launchFor .placing)).any fun c => c.ctxid == 1,
     ((launched .placing).decision (launchFor .placing)).isNone].all id = true := by decide +kernel

theorem test_ContextLife_deadlock :
    let s := { withGroup (withTeam (trial .nop) fun t => { t with queueHeld := true }) fun g => { g with qMark := 0 } with clk := 2 ^ 20 }
    (ofGroup s fun g => (g.teams.find? fun t => !t.finished).isSome && (g.teams.all fun u => u.queueHeld && !u.parked) &&
      decide (g.qMark + 2 ^ 20 ≤ s.clk) && g.state == .running && s.ctxs.all fun c => c.state == .running) = true := by decide +kernel

theorem test_Attestation_applies :
    ([Instr.getVersion 0, .getCapabilities 0, .negotiateAlgorithms 0 true true, .getDigests 0, .getCertificate 0 0, .spdmChallenge 0 0 0,
      .getMeasurements 0 0xFF, .keyExchange 0 0, .spdmFinish 0].all fun i => allOf [0, 1, 2, 3, 4, 5] fun p =>
        ((Claim.spdm (trial .nop) p i).map fun q => q.1 == 0 && decide (q.2.1 ≤ 4)).getD false) = true := by decide +kernel

theorem test_DeviceService_applies :
    [State.reset.dev.boot.step == 0, !deviceReset.heldInReset, deviceReset.flash.isEmpty, { deviceReset with replanning := true }.replanning, State.reset.dev.powered, (trial .nop).dev.boot.step == 6, !(trial .nop).dev.heldInReset,
     decide ((trial .nop).dev.replanAt + 24 * 3600 * 700000000 ≤ 24 * 3600 * 700000000),
     ((trial .nop).dev.errLimits.find? fun p => p.1 == 0).isNone,
     { deviceReset with heldInReset := true }.heldInReset, !{ (trial .nop).dev with hostLink := false }.hostLink,
     statusOf (.fullDeviceReset 0) { trial .nop with dev := deviceReset } 0 == .notReady, statusOf (.fullDeviceReset 1) (trial .nop) 1 == .access,
     allOf [(5, true), (6, false), (4, false)] fun (l, crossed) => match exec (.correctableError 0)
         { trial .nop with dev := { (trial .nop).dev with errCounts := [(0, 5)], errLimits := [(0, l)] } } with
       | .next t => t.funcs.any (fun f => f.msix.contains 2) == crossed
       | _ => false,
     match exec (.uncorrectableError 3 0x10001 false) ((trial .nop).modPart 0 fun p => { p with freeFrames := [0x10000, 0x20000] }) with
       | .next t => t.dev.retiredFrames == [0x10000] && (t.part? 0).any fun p => p.freeFrames == [0x20000]
       | _ => false,
     match exec .scrub { trial .nop with clk := 24 * 3600 * 700000000 } with
     | .next t => t.dev.scrubs == 1
     | _ => false].all id = true := by decide +kernel

/-- A result on its way to a register. -/
def pendFor : PendWrite := { dst := 5, vals := [(0, 7)], flags := 1 }

/-- A poll of one line since the start. -/
def pollFor : PollHold :=
  { seq := 0, pc := 0, word := 0, dst := 5, bytes := 4, lanes := [laneAt 0 0], first := [(0, 0)], lines := [(false, 0x10000)], ver := 0
    since := 0, lc := [0, 0, 0], loops := [] }

/-- A team held by it, with other words behind. -/
def polling (rest : List Instr) : State :=
  withTeam (mapped (trialWith (.ldPoll 5 6 0 0) rest)) fun t => { t with hold := .poll pollFor }

/-- A write to the line. -/
def lineWritten (s : State) : State :=
  { s with vers := 1, past := [{ ver := 0, name := none, host := false, pa := 0x10010, old := [0], maker := none, fenced := false, closed := false }] }

/-- What the end of the hold comes to: its reads, and the demotion event of its unchanged lane. -/
def pollEnd (s : State) : Option (Bool × Nat) :=
  (s.group? 0).bind fun g => (g.team? 0).bind fun t => (s.ctxOf g).map fun c =>
    let q := rereadLanes s { c := c, r := { uid := 0, tid := 0 }, t := t, seq := 0, fresh := true } pollFor
    let u := { (t.acquired q.s.vers g.vers).addPend (loadWrites 5 4 false (onlyLow (t.lowFor 5) q.vals)) with hold := .none }
    (q.bad, match demote q.s (g.forTeam t) u 0 t.pc with
      | none => 0
      | some (.ok _) => 1
      | some (.error _) => 2)

theorem test_TeamEvents_applies :
    let s := withTeam (trial .nop) fun t => { t with pend := [pendFor] }
    let r : TeamRef := { uid := 0, tid := 0 }
    [((s.team? r).map fun t => t.pend[0]? == some pendFor).getD false, s.resultReady 0 r pendFor, s.lateValue r pendFor == (s, pendFor),
     !(crowded s).resultReady 0 r { pendFor with req := some 0 },
     ofGroup (withQueues (crowded (trial .nop)) fun q => { q with entries := [{ entryFor 0 with req := some 0 }] }) (fun g =>
       (g.queue? 3).any fun q => q.entries.any fun e => e.id == 0 && !(crowded (trial .nop)).entryReady g e),
     ofGroup (withQueues (trial .nop) fun q => { q with entries := [entryFor 0] }) (fun g =>
       (g.queue? 3).any fun q => q.entries.any fun e => e.id == 0 && (trial .nop).entryReady g e),
     ((polling []).team? r).any fun t => t.hold == .poll pollFor,
     (lineWritten (polling [])).past.any fun e => decide (0 ≤ e.ver) && !e.host && e.meets 0x10000 128,
     (polling []).past.isEmpty, decide (pollFor.since + 1024 ≤ 1024), decide (1023 < pollFor.since + 1024)].all id = true := by decide +kernel

theorem test_TeamEvents_arrivals :
    let r : TeamRef := { uid := 0, tid := 0 }
    let q : Queue := { queueFor .access 3 with entries := [{ entryFor 0 with complete := false, waiting := true }] }
    [(stuck (trial .nop)).storeTaken r, !(trial .nop).storeTaken r,
     ofGroup (stuck (trial .nop)) fun g => ((stuck (trial .nop)).ctxOf g).isSome && g.teams.any fun t => !t.sbuf.isEmpty,
     q.entries.any fun x => x.id == 0, decide ((Claim.visible q 1).length < (Claim.visible (q.arrive 0 0) 1).length),
     decide ((Claim.visible (q.arrive 1 0) 1).length ≤ (Claim.visible q 1).length)].all id = true := by decide +kernel

theorem test_TeamEvents_polls :
    [pollEnd (polling [.elsec 1, .endifc]) == some (false, 0), pollEnd (demotable (polling [.elsec 1, .endifc])) == some (false, 1),
     pollEnd (demotable (polling [.elsec 1, .nop])) == some (false, 2), (pollEnd (forbidden (polling []))).any fun q => q.1].all id = true := by
  decide +kernel

/-- A page request of the context. -/
def requestFor (reason : Nat) (posted : Bool) : PageReq :=
  { tag := 3, part := 0, ctxid := 0, gen := 1, asid := 1, va := 0, reason := reason, level := 1, access := 0, core := 0, waiters := [], posted := posted,
    answer := none }

/-- The tables of the context: a root at 4 KiB that leads by tables at 8 and 12 KiB to a leaf table at 16 KiB, whose first entry is given. -/
def tabled (e : Nat) : State :=
  let s := withCtx (trial .nop) fun c => { c with ptroot := 0x1000 }
  (((s.writePhys false 0x1000 (leBytes 8 (2 ^ 63 + 0x2000 + 1))).writePhys false 0x2000 (leBytes 8 (2 ^ 63 + 0x3000 + 1))).writePhys false 0x3000
    (leBytes 8 (2 ^ 63 + 0x4000 + 1))).writePhys false 0x4000 (leBytes 8 e)

/-- The partition as a compressed page of it is about to be expanded. -/
def expanding (frames : List Nat) : Partition :=
  { partitionReset 0 with freeFrames := frames, comp := [{ pa := 0x20000, size := 64, data := [] }], requests := [requestFor 0 false] }

theorem test_PageEvents_applies :
    [(((trial .nop).modPart 0 fun p => { p with requests := [requestFor 1 false] }).part? 0).any fun p =>
       p.requests.any fun q => q.tag == 3 && !q.posted && q.reason != 0,
     (((trial .nop).modPart 0 fun p => { p with requests := [requestFor 1 true] }).answered 1 0 1 3).isSome,
     ((trial .nop).answered 1 0 1 3).isNone, ((trial .nop).funcs[1]?).any fun f => decide (0 < f.ringRoom) && f.stalePend.isEmpty,
     ((trial .nop).modFunc 1 fun f => { f with ringRoom := 0 }).funcs[1]?.any fun f => f.ringRoom == 0,
     ((trial .nop).answerCtx 1 0).any fun c => c.gen == 1 && c.state == .running,
     !({ (trial .nop).dev with hostLink := false } : Device).hostLink, (trial .nop).dev.hostLink,
     !bitOf 0x20043 3 && !(tabled 0x20043).neverAged 0 (ctxFor .access []) 0 0x20043, (tabled 0x2000F).neverAged 0 (ctxFor .access []) 0 0x2000F,
     (expanding [0x30000]).freeFrames == [0x30000] && (expanding []).freeFrames.isEmpty && (expanding []).comp.any (fun r => r.pa == 0x20000) &&
       (expanding []).requests.any fun q => q.tag == 3 && q.reason == 0 && q.answer.isNone,
     ({ requestFor 0 false with waiters := [.load 0 0] } : PageReq).waiters != [] && (requestFor 0 false).waiters == [],
     { (trial .nop).dev with heldInReset := true }.heldInReset && !(trial .nop).dev.heldInReset, (trial .nop).funcs.all fun f => f.stalePend.isEmpty,
     (((trial .nop).modPart 0 fun p => { p with low := 1 }).part? 0).any fun p => decide (p.freeFrames.length < p.low)].all id = true := by decide +kernel

theorem test_PageEvents_pages :
    [((tabled 0x20087).ctx? 0 0).any fun c => (tabled 0x20087).walk c 0 == .leaf 1 0x4000 0x20087,
     ((tabled 0x20043).ctx? 0 0).any fun c => (tabled 0x20043).walk c 0 == .leaf 1 0x4000 0x20043 && bitOf 0x20043 6,
     ((tabled 0x20F07).ctx? 0 0).any fun c => (tabled 0x20F07).walk c 0 == .leaf 1 0x4000 0x20F07 && !bitOf 0x20F07 7 && !bitOf 0x20F07 3,
     (trial .nop).backed 0, (trial .nop).backed 7, !(trial .nop).backed (2 ^ 42), !(trial .nop).backed 96000000000, decide (bitsOf 0x20043 16 44 * 65536 = 0x20000), !(trial .nop).drowsyBarred ((trial .nop).partOfCol 23)].all id = true := by decide +kernel

/-- A copy of 128 bytes into the scratchpad. -/
def copyFor (k : CopyKind) (st : CopyState) : Copy :=
  { seq := 0, uid := 0, tid := 0, kind := k, opA := 0, opB := 0x80000000, batch := 0, dropseed := 0, state := st, recv := [0], pos := 0, counted := [],
    record := List.replicate 64 0, bits := 0, waitReq := none }

/-- The same out of the scratchpad. -/
def copyOut (st : CopyState) : Copy := { copyFor .cpy st with opB := 0x400000 + 0x80000000 }

/-- A fetch of one row. -/
def fetchFor : Fetch :=
  { seq := 0, uid := 0, tid := 0, desc := descFor, doff := 512, rstride := 32, rows := [(0, 0)], all := [(0, 0)], bo := 0, nobo := true, counted := 0,
    noAlloc := false, waitReq := none }

/-- A card with bytes, in a state, as the group's only card. -/
def carded (bs : List Byte) (st : CardState) : State :=
  withGroup (trial .nop) fun g => { g with cards := [{ cardFor 0 st with bytes := bs ++ List.replicate (64 - bs.length) 0 }] }

/-- A second group of the phase stands beside the first, with given cards. -/
def neighboured (cs : List Card) (s : State) : State := { s with groups := s.groups ++ [{ groupFor .access with uid := 1, gid := 1, cards := cs }] }

/-- The copy engine holds a copy. -/
def copying (c : Copy) (s : State) : State := { s with copies := [c] }

/-- A PEER drain of the group to a group, and an ACCEPT that lists group 0. -/
def drainTo (gid : Nat) : State := carded ([3, 0, 0, 0, 0, 0, 0, 1, 0, 0, 0, 0, 0, 0, 0, 0] ++ leBytes 2 gid) .pairing
def acceptFor : Card := { cardFor 1 .pairing with bytes := [4, 0, 0, 0, 0, 0, 0, 1] ++ List.replicate 56 0 }

theorem test_EngineEvents_applies :
    [allOf [.cpy, .cpym 1, .cpys] fun k => allOf [.queued, .running] fun st => ((copying (copyFor k st) (mapped (trial .nop))).copyAt 0 st).isSome,
     (let s := copying (copyFor .cpy .entering) (trial .nop)
      (s.copyAt 0 .queued).isNone && s.copies.all fun c => s.mayEnter c),
     (let s := copying (copyFor .cpy .running) (trial .nop)
      (s.copyAt 0 .queued).isNone && s.copies.all fun c => !s.mayEnter c),
     allOf [(1, [0]), (2, [])] fun (m, recv) => ofGroup (trial .nop) fun g => (trial .nop).receivers g m 0 128 == recv,
     (xlateBytes (trial .nop) (ctxFor .access []) .read (runFrom 0 64)).stop.isSome,
     (xlateBytes (mapped (trial .nop)) (ctxFor .access []) .read (runFrom 0 64)).stop.isNone,
     ofGroup (trial .nop) fun g => !(shapeOf (List.replicate 64 0) 0).valid g,
     (copyFor .cpy .queued).outward == false, (copyOut .running).outward,
     ({ mapped (trial .nop) with fetches := [fetchFor] } : State).fetches.any fun d => d.seq == 0 && d.waitReq.isNone,
     (fetchRowBytes (mapped (trial .nop)) (ctxFor .access []) 0 false none descFor 0).stop.isNone,
     allOf [(512, 7), (511, 0)] fun (next, tail) => decide ((if next = 512 then min 519 (519 % 8) else 0) = tail),
     (fetchRowBytes (trial .nop) (ctxFor .access []) 0 false none descFor 0).stop.isSome].all id = true := by decide +kernel

theorem test_EngineEvents_cards :
    [ofGroup (carded [1, 0, 0, 0, 0, 2] .queued) fun g => g.cards.all fun c =>
       let s := carded [1, 0, 0, 0, 0, 2] .queued
       s.cardReady g c && s.mayStart g c && s.cardTurn g c,
     ofGroup (ctxIs (carded [1, 0, 0, 0, 0, 2] .queued) .saved) fun g => g.cards.all fun c => !(ctxIs (carded [1, 0, 0, 0, 0, 2] .queued) .saved).mayStart g c,
     ofGroup (carded [1, 0, 0, 0, 0, 2] .running) fun g => g.resident && (g.card? (BitVec.ofNat 16 0)).isSome,
     ofGroup (neighboured [] (carded [1, 0, 0, 0, 0, 2, 1, 0, 0, 0, 0, 0, 2] .pairing)) fun g => g.cards.all fun c =>
       let s := neighboured [] (carded [1, 0, 0, 0, 0, 2, 1, 0, 0, 0, 0, 0, 2] .pairing)
       c.kind == 1 && c.u 6 1 == 1 && c.state == .pairing && (c.receivers g.gid).any fun r => s.unserved g c r && (match s.fate g r with
         | .here u => u == 1
         | _ => false),
     allOf [0, 1, 2] fun n => ofGroup (drainTo n) fun g => g.cards.all fun c => c.sendsTo n 0 && c.state == .pairing && c.u 0x10 2 == n,
     ofGroup (drainTo 2) fun g => match (drainTo 2).fate g 2 with
       | .gone => true
       | _ => false,
     ofGroup (neighboured [acceptFor] (drainTo 1)) fun g => (match (neighboured [acceptFor] (drainTo 1)).fate g 1 with
       | .here u => u == 1
       | _ => false) && ((neighboured [acceptFor] (drainTo 1)).group? 1).any fun h => h.acceptor 0 0 == some acceptFor && acceptFor.entry 0 == 0,
     ofGroup (withGroup (drainTo 0) fun g => { g with cards := g.cards ++ [acceptFor] }) fun g => g.acceptor 0 0 == some acceptFor].all id = true := by
  decide +kernel

/-- The team moves the tile at offset 0, entry 0 of its core's directory, to group 1. -/
def moving (es : List (Option KeyEntry)) : State :=
  neighboured [] (withTeam ((trial .nop).modCore 0 fun k => { k with keys := es }) fun t => { t with hold := .tmove 100 0 1 0 })

theorem test_EngineEvents_moves :
    [(allOf [([some (entryAt0 []), none], [], true), ([some (entryAt0 [])], [], false), ([some (entryAt0 [5]), none], [5], true)]
       fun (es, held, room) => ((moving es).takeDue.core? 0).any fun k => (k.key 0).any (fun e => e.held == held && e.id == 0) &&
         k.freeKey.isSome == room) && ((moving []).takeDue.core? 0).any (fun k => (k.key 0).isNone),
     ((moving []).takeDue.group? 1).any fun x => x.holdsTile ((groupFor .access).hdr 0),
     !({ groupFor .access with padSize := 520 } : Group).holdsTile ((groupFor .access).hdr 0),
     allOf [[], [5]] fun held =>
       let s := (moving [some (entryAt0 [])]).modCore 0 fun k => { k with keys := k.keys ++ [some { entryAt0 held with uid := 1, gid := 1 }] }
       (s.takeDue.core? 0).any fun k => k.keyOf 1 0 == some 1 && (k.key 1).any fun y => y.held == held,
     ((moving []).takeDue.group? 2).isNone, ((moving []).takeDue.team? { uid := 0, tid := 0 }).any fun t => t.hold == .tmove 100 0 1 0].all id = true := by
  decide +kernel

theorem test_DistributorEvents_applies :
    [(launched .queued).phaseReady (launchFor .queued), ((ctxFor .access []).kernel? 1 0).isSome, ((kernelFor .access).select 1).isSome,
     (Usage.empty.bind ((kernelFor .access).need { capacity := 0, mask := 1, groups := 1 } 0)).isSome,
     (launched .placing).placeFor (launchFor .placing) == some 0, ((launched .placing).placeOn (launchFor .placing) 0).isSome,
     ofGroup (withGroup (trial .nop) fun g => { g with state := .starting }) fun g => (trial .nop).overlaysReady g,
     ofGroup ((trial .nop).modCore 0 fun k => { k with slots := List.replicate 4 none }) fun g =>
       !((trial .nop).modCore 0 fun k => { k with slots := List.replicate 4 none }).overlaysReady g,
     ofGroup (trial .nop) fun g => !(trial .nop).takeDue.retireReady g && g.teams.any fun t => t.responder.isNone && !t.finished,
     allOf [(id, true), (stuck, false)] fun (f, done) =>
       let s := withGroup (withTeam (f (trial .nop)) fun t => { t with finished := true }) fun g => { g with state := .draining }
       ofGroup s.takeDue fun g => s.takeDue.retireReady g && ofGroup (g.teams.foldl (fun s t => s.writeBack { uid := g.uid, tid := t.tid }) s.takeDue)
         fun h => (h.teams.all fun t => t.performed && t.stack.isEmpty) == done,
     ({ kernelFor .access with scheds := [{ capacity := 4, mask := 1, groups := 0 }] } : Kernel).select 1 == some (0, 0),
     (Usage.empty.bind (({ kernelFor .access with scratch := 0x400000 } : Kernel).need { capacity := 0, mask := 1, groups := 1 } 0)).isNone,
     (asking (trial .nop) .opened).groups.any fun g => g.teams.any fun t => (asking (trial .nop) .opened).censuses.any fun c =>
       t.censuses.contains c.cseq,
     ((kernelFor .access).select 1).any (fun q => q.1 == 0 && decide (0 < q.2)) && (({ kernelFor .access with scheds := [] } : Kernel).select 1).isNone,
     (let s := (trial .nop).modCore 0 fun k => { k with slots := k.slots.map fun o => o.map fun o => { o with loaded := false } }
      (s.core? 0).any (fun k => (k.slots.getD 0 none).any fun o => !o.loaded) && !s.loadWaits 0 0 &&
        (s.ctxs.find? fun c => c.asid == 1 && c.state != .killed && c.state != .error).isSome &&
        ((s.modPart 0 fun p => { p with requests := [{ requestFor 1 true with waiters := [.load 0 0] }] }).loadWaits 0 0)),
     ((graphed (trial .nop) .opened 1).node? (0, 0) 0).any fun n => decide (0 < n.pending)].all id = true := by decide +kernel

theorem test_CensusAndPortEvents_applies :
    [(asking (trial .nop) .opened).censuses.any fun c => c.state == .opened && c.complete,
     (asking (trial .nop) .opened).groups.all fun g => g.teams.all fun t => t.responder.isNone,
     (ctxIs (asking (answering (trial .nop)) .opened) .preempting).ctxs.any fun c => c.state == .preempting,
     !(asking (trial .nop) .closed).censuses.any fun c => c.state == .opened,
     (asking (trial .nop) .opened).censuses.all fun c => !{ c with snapped := false }.snapped && decide (c.snapAt ≤ 0),
     (ctxIs (asking (trial .nop) .opened) .preempting).ctxs.all fun c => decide (c.saveClk + 70000 ≤ 70000),
     ((trial .nop).responderDecl (censusFor .opened)).isSome, decide ((trial .nop).respondersOn 0 < 4),
     ({ censusFor .opened with pieces := [{ core := 0, order := 0, uid := 0, entries := [0], state := .waiting }] }.nextPiece 0).isSome,
     ((peered (trial .nop)).ports[0]?).any fun p => p.state == 2, ((peered (trial .nop)).jobCtx 0 9).isNone,
     (((peered (trial .nop)).modPart 0 fun p => { p with jobs := [(9, 0)] }).jobCtx 0 9).isSome,
     allOf [0, 1] fun st => (({ peered (trial .nop) with ports := List.replicate 8 { portReset with state := st } } : State).ports[0]?).any fun p => p.state == st,
     (let s := { trial .nop with remotes := [remoteFor 1], clk := 70000000 }
      (s.remotes.find? fun p => p.rseq == 0) == some (remoteFor 1) && (s.ports[0]?).any fun p => decide ((remoteFor 1).since + p.rto * 700000 ≤ s.clk)),
     allOf [(mapped, none), (mappedTo 0x10047, some (.fault 0 0 0)), (id, some (.fault 0 1 4)), (forbidden, some .bad)] fun (f, stop) =>
       (xlateBytes (f (trial .nop)) (ctxFor .access []) .read (runFrom 0 8)).stop == stop,
     (xlateBytes (trial .nop) (ctxFor .access []) .read (runFrom (2 ^ 52) 8)).stop == some (.range (2 ^ 52)),
     (xlateBytes (mappedTo 0x1000F (trial .nop)) (ctxFor .access []) .read (runFrom 0 8)).places.any (·.1),
     ((trial .nop).portPart 0).isSome].all id = true := by decide +kernel

theorem test_StepRunsDecoded_applies :
    let s := State.reset.withFetchWord 32 0x02000000
    let u := { s.begin with agenda := s.agenda.drop 1 }
    [match u.chosen with
     | some (.team c) => c.ref == { uid := 0, tid := 0 }
     | _ => false,
     match ({ State.reset with agenda := [] }.begin).chosen with
     | none => true
     | _ => false].all id = true := by decide +kernel

theorem test_StepRunsDecoded_applies_held :
    let s := { withTeam (trial .nop) fun t => { t with heldAt := some (trial .nop).progress } with cur := some { uid := 0, tid := 0 } }
    (s.team? { uid := 0, tid := 0 }).any (fun v => v.heldAt == some s.progress) && !(trial .nop).groups.any (fun g => g.teams.any fun v =>
      v.heldAt == some (trial .nop).progress) = true := by decide +kernel

theorem test_Traps_applies :
    [(issueFault (trial .nop) (groupFor .access) (teamFor .access) (.rds 5 0xFF)) == some (1, 0x02000000),
     (issueFault (ready .vector [0]) (groupFor .vector) (teamFor .vector) (.ld 5 6 0 2 0)) == some (2, 0),
     ofGroup (trial .nop) fun g => (trial .nop).delivers g { teamFor .access with trapmask := 0x3FFFE } 0xF,
     ofGroup (trial .nop) fun g => !(trial .nop).delivers g { teamFor .access with trapmask := 0x3FFFE } 0x9,
     ofGroup (trial .nop) fun g => !(trial .nop).delivers g { teamFor .access with trapmask := 0x3FFFE, trapInh := true } 0xF,
     ((trial .nop).ctx? 0 0).any fun c => c.state != .error && c.state != .killed].all id = true := by decide +kernel

theorem test_RegisterWrites_applies :
    [(teamFor .vector).lanes.length == 4, (teamFor .vector).lanes.all fun l => l.v.length == 96, (teamFor .access).lanes.all fun l => l.a.length == 64,
     (teamFor .access).run == [0, 1, 2, 3], (teamFor .access).sregs.length == 32].all id = true := by decide +kernel

/-- Safety meets the reset state and a small machine. -/
theorem test_StepKeepsSafe_applies : Safe State.reset ∧ ((trial .nop).groups.all fun g => Memory.wf g.pad) = true := by
  refine ⟨⟨rfl, rfl, ?_, ?_⟩, ?_⟩
  · intro g hg
    cases hg
  · intro p hp r hr
    obtain ⟨n, -, rfl⟩ := List.mem_map.mp hp
    cases hr
  · decide +kernel

theorem test_DecodeEncode_applies :
    allOf (wordsIalu ++ wordsAtom ++ wordsTvec) (fun p => p.2.wellFormed && encode p.2 == some (BitVec.ofNat 32 p.1)) = true := by decide +kernel

/-- A rounding in a mode with no draw. -/
def roundFor (m : RMode) : Rounding := { mode := m, rnd := 65535, sat := false }

/-- FP32 patterns: 1, +∞, −∞, a quiet and a signalling NaN, −0. -/
theorem test_FloatResults_numbers :
    [decide ((roundFor .sr).rnd < 65536), decide (0xFFFFFFFF < 2 * Claim.signWeight .fp32),
     Claim.firstNaN .fp32 [0x3F800000, 0xFF800000] == none, Claim.firstNaN .fp32 [0x3F800000, 0xFF800001] == some (0xFFC00001, flagNV),
     Claim.firstNaN .fp32 [0x7FC00005, 0x7F800001] == some (0x7FC00005, flagNV), Claim.infPat .fp32 0x7F800000 && !Claim.infPat .fp32 0x7F7FFFFF,
     Claim.infPat .fp32 0x7F800000 && Claim.negative .fp32 0x7F800000 != Claim.negative .fp32 0xFF800000,
     Claim.body .fp32 0x80000000 == 0 && Claim.negative .fp32 0x80000000, Claim.nanPat .fp32 0x7F800001 && !Claim.nanPat .fp32 0x7F800000].all id =
      true := by decide +kernel

/-- The halves of PackedResults: the same of BF16 and FP16. -/
theorem test_PackedResults_numbers :
    [Claim.firstNaN .bf16 [0x3F80, 0x7F81] == some (0x7FC1, flagNV), Claim.firstNaN .fp16 [0x7C00] == none && Claim.infPat .fp16 0x7C00,
     decide (0xFFFF < 2 * Claim.signWeight .bf16 ∧ 0xFFFF < 2 * Claim.signWeight .fp16)].all id = true := by decide +kernel

/-- Three halves round to two units to the nearest even and to one toward zero. -/
theorem test_numbers_round :
    Claim.RoundsTo (roundFor .rne) false (3 / 2) 2 ∧ Claim.RoundsTo (roundFor .rz) false (3 / 2) 1 ∧ Claim.RoundsTo (roundFor .sr) true (3 / 2) 2 := by
  have h : Int.fract (3 / 2 : ℝ) = 1 / 2 := by
    rw [Int.fract, show ⌊(3 / 2 : ℝ)⌋ = 1 by rw [Int.floor_eq_iff]; norm_num]; norm_num
  have n : ⌊(3 / 2 : ℝ)⌋₊ = 1 := by rw [Nat.floor_eq_iff (by norm_num)]; norm_num
  refine ⟨?_, ?_, ?_⟩ <;> simp only [Claim.RoundsTo, Claim.roundsUp, roundFor, h, n]
  · norm_num
  · norm_num
  · have : ⌊(1 / 2 * 65536 : ℝ)⌋₊ = 32768 := by rw [Nat.floor_eq_iff (by norm_num)]; norm_num
    norm_num [this]

/-- A scale's operand and the value of FP32 1. -/
theorem test_numbers_one : Claim.magnitude .fp32 0x3F800000 = 1 ∧ Claim.number .fp32 0xBF800000 = -1 := by
  constructor <;> norm_num [Claim.number, Claim.magnitude, Claim.fields, Claim.body, Claim.negative, Claim.signWeight]

theorem test_SpecialFunctions_numbers :
    [(Claim.sfuSpecial .rcp 0).isSome, (Claim.sfuSpecial .exp2 0xFF800000).isSome, (Claim.sfuSpecial .sqrt 0x3F800000).isNone,
     !Claim.nanPat .fp32 0x3F800000 && Claim.body .fp32 0x3F800000 != 0].all id = true := by decide +kernel

theorem test_Conversions_numbers :
    [cvtPairOk .fp32 .e4m3, cvtPairOk .fp32 .e8m0, cvtPairOk .fp32 .int8, Claim.nanPat .fp16 0x7E00, Claim.infPat .e5m2 0x7C, !Claim.infPat .e4m3 0x7E,
     Claim.intRange .int8 == (-128, 127), Claim.body .fp32 0x80000000 == 0, !fmtIsFloat .e8m0 && fmtIsFloat .e4m3,
     [0x100, 0x1FF].all fun w => decide (w / 2 ^ 8 % 2 ^ 8 ≠ 255) && Claim.nanPat .e4m3 (w % 2 ^ 8) == (w == 0x1FF)].all id = true := by
  decide +kernel

/-- A block of −2 and 1, whose greatest magnitude is 2. -/
theorem test_TileAtomics_blocks :
    (∀ x ∈ [FVal.fin true 1 1, FVal.fin false 1 0], ∃ neg q, Claim.finite x = some (neg, q) ∧ q ≤ 2) ∧
      ∃ x ∈ [FVal.fin true 1 1, FVal.fin false 1 0], ∃ neg, Claim.finite x = some (neg, 2) := by
  constructor
  · simp only [List.mem_cons, List.not_mem_nil, or_false, forall_eq_or_imp, forall_eq, Claim.finite]
    exact ⟨⟨true, _, rfl, by norm_num⟩, ⟨false, _, rfl, by norm_num⟩⟩
  · exact ⟨.fin true 1 1, by simp, true, by norm_num [Claim.finite]⟩

/-! ### One step on small states: values worked out by hand from the rules -/

/-- The lanes of a VECTOR team with v1 and v2 given. -/
def pairV (i : Instr) (a b : Word) : State :=
  withLanes (ready .vector [(encode i).getD 0, 0x02000000, 0x02000000]) fun l =>
    { l with v := (List.range 96).map fun n => if n = 1 then a else if n = 2 then b else 0 }

/-- The current team after one instruction. -/
def afterTeam (i : Instr) (s : State) (p : Team → Bool) : Bool :=
  match exec i s with
  | .next t => ((t.team? { uid := 0, tid := 0 }).map p).getD false
  | _ => false

/-- v3 of every lane and the arithmetic flags after an instruction on v1 and v2. -/
def gives (i : Instr) (a b r : Word) (f : Nat) : Bool :=
  afterTeam i (pairV i a b) fun t => (t.lanes.all fun l => l.v.getD 3 0 == r) && t.astat == BitVec.ofNat 32 f && t.pc == 4

theorem test_add_overflows : gives (.iadd 3 1 2) 0x7FFFFFFF 1 0x80000000 2 = true := by decide +kernel
theorem test_sub_wraps : gives (.isub 3 1 2) 0 1 0xFFFFFFFF 0 = true := by decide +kernel
theorem test_imulh_sign : gives (.imulh 3 1 2) 0xFFFFFFFF 2 0xFFFFFFFF 0 = true := by decide +kernel
theorem test_shl_by_width : gives (.shl 3 1 2) 0xFFFFFFFF 32 0 0 = true := by decide +kernel
theorem test_sar_past_width : gives (.sar 3 1 2) 0x80000000 200 0xFFFFFFFF 0 = true := by decide +kernel
theorem test_clz_zero : gives (.clz 3 1) 0 0 32 0 = true := by decide +kernel
theorem test_bfe_signed : gives (.bfe 3 1 2) 0x00000F00 0x00010408 0xFFFFFFFF 0 = true := by decide +kernel
theorem test_iabs_minimum : gives (.iabs 3 1) 0x80000000 0 0x80000000 2 = true := by decide +kernel
theorem test_fadd_one_one : gives (.fadd 3 1 2) 0x3F800000 0x3F800000 0x40000000 0 = true := by decide +kernel
theorem test_fmul_signs : gives (.fmul 3 1 2) 0xBF800000 0x40000000 0xC0000000 0 = true := by decide +kernel
theorem test_hadd2_halves : gives (.hadd2 3 1 2 1) 0x3C003C00 0x40003C00 0x42004000 0 = true := by decide +kernel

theorem test_discard_p7 : (afterTeam (.icmp 0 7 1 2) (pairV (.icmp 0 7 1 2) 1 1) fun t => t.lanes.all fun l => l.pred == 0) = true := by
  decide +kernel

theorem test_icmp_sets_p1 : (afterTeam (.icmp 0 1 1 2) (pairV (.icmp 0 1 1 2) 1 1) fun t => t.lanes.all fun l => l.pred == 2) = true := by
  decide +kernel

theorem test_shfl_is_outstanding :
    (afterTeam (.shflXor 3 1 1) (pairV (.shflXor 3 1 1) 9 0) fun t =>
      (t.lanes.all fun l => l.v.getD 3 0 == 0) && t.pend.map (·.vals) == [[(0, 9)], [(1, 9)], [(2, 9)], [(3, 9)]]) = true := by
  decide +kernel

theorem test_trap_delivered :
    (afterTeam (.trap 5) (withTeam (trial (.trap 5)) fun t => { t with trapmask := 0x8000 }) fun t =>
      t.pc == 4 && t.trapInh && t.trapCause == 0x0F && t.trappc == 4 && t.trapva == 5) = true := by decide +kernel

theorem test_trap_masked_ends_context :
    (match exec (.trap 5) (trial (.trap 5)) with
     | .next t => t.groups.isEmpty && t.ctxs.all (fun c => c.state == .error) && t.events.length == 1
     | _ => false) = true := by decide +kernel

theorem test_tret_returns :
    (afterTeam .tret (withTeam (trial .tret) fun t => { t with trapInh := true, trappc := 8 }) fun t => t.pc == 8 && !t.trapInh) = true := by
  decide +kernel

theorem test_if_masks_lanes :
    (afterTeam (.ifc 1 2) (withTeam (trialWith (.ifc 1 2) [.nop, .endifc]) fun t =>
      { t with lanes := t.lanes.mapIdx fun n l => if n = 0 then { l with pred := 2 } else l }) fun t => t.run == [0] && t.pc == 4) = true := by
  decide +kernel

theorem test_hloop_opens :
    (afterTeam (.hloop 5 0) (trial (.hloop 5 0)) fun t => t.lc == [5, 0, 0] && t.loops == [{ start := 4, last := 4 }]) = true := by decide +kernel

theorem test_store_then_home :
    (match exec (.st 5 6 0 1) (mapped (copyPair (trial (.st 5 6 0 1)) 0xBEEF 0x40)) with
     | .next t => t.mem == [] && memReadN (t.drain { uid := 0, tid := 0 }).mem 0x10040 2 == [0xEF, 0xBE]
     | _ => false) = true := by decide +kernel

theorem test_atomic_adds_in_lane_order :
    (match exec (.atomAdd 5 6 0 2) (mapped (copyPair (trial (.atomAdd 5 6 0 2)) 3 0x40)) with
     | .next t => memNat t.mem 0x10040 4 == 12 && ((t.team? { uid := 0, tid := 0 }).map fun u =>
         u.pend.flatMap (·.vals) == [(0, 0), (1, 3), (2, 6), (3, 9)]).getD false
     | _ => false) = true := by decide +kernel

theorem test_push_enters_queue :
    (match exec (.qpush 5 3 0) (copyPair (trial (.qpush 5 3 0)) 7 0) with
     | .next t => ofGroup t fun g => (g.queue? 3).any fun q => q.entries.map (·.vals) == [[7, 7, 7, 7]]
     | _ => false) = true := by decide +kernel

theorem test_step_runs_placed_word :
    (match step (State.reset.withFetchWord 32 0x02000000) with
     | .next t => t.groups.all fun g => g.teams.all fun u => u.pc == 4 && u.hints == []
     | _ => false) = true := by decide +kernel

/-! ### The manual's worked examples -/

/-- Words that the manual's examples encode (R58, R67, R127, R131, R142, R156, R174, R186, R199, R230, R239, R332, R418). -/
theorem test_example_words :
    [decodeWord 0x7E00048D == .ok (.hintImm 0x48D), decodeWord 0x8E145678 == .ok (.movi 5 0x5678), decodeWord 0x7E401302 == .ok (.hintStall 0 1 3 0 2),
     decodeWord 0x7E900000 == .ok (.hintMod 2 0 0), decodeWord 0x438C0005 == .ok (.ovload 99 5), decodeWord 0x42000202 == .ok (.fcall 2),
     decodeWord 0x3E244620 == .ok (.grec 9 8 98), decodeWord 0x20142220 == .ok (.ld 5 4 4 2 0), decodeWord 0x2820213A == .ok (.atomtMaxpk 8 4 2),
     decodeWord 0x04040005 == .ok (.ifc 1 5), decodeWord 0x047C0003 == .ok (.loopc 3), decodeWord 0x04880000 == .ok (.breakc 2 0),
     decodeWord 0x04DFFFFD == .ok (.endl 0x3FFFD), decodeWord 0x043C0002 == .ok (.elsec 2), decodeWord 0x1A080814 == .ok (.sred 2 1 1),
     decodeWord 0x10142813 == .ok (.acvt 5 5 1), decodeWord 0x1018205B == .ok (.ashladd 6 4 5 3), decodeWord 0x120C0823 == .ok (.ffma 3 1 2),
     decodeWord 0x2E10CE21 == .ok (.qpop 4 3 0xE2), decodeWord 0x2FA55004 == .ok (.qmarkSeg 105 5 0), decodeWord 0x20082126 == .ok (.ldq 2 4 2 2),
     decodeWord 0x36040020 == .ok (.wstore 1 0 2), decodeWord 0x36080801 == .ok (.wrec 2 1), decodeWord 0x40043120 == .ok (.rread 1 6 2 2),
     decodeWord 0x418C0004 == .ok (.rfence 99), decodeWord 0x7EC41400 == .ok (.hintFmt 1 0 5 0 0 0)].all id = true := by decide +kernel

theorem test_example_ffma_is_exact :
    (afterTeam (.ffma 3 1 2) (withLanes (pairV (.ffma 3 1 2) 0x3F800800 0x3F800800) fun l => { l with v := l.v.set 3 0xBF801000 }) fun t =>
      (t.lanes.all fun l => l.v.getD 3 0 == 0x33800000) && t.astat == 0) = true := by decide +kernel

theorem test_example_fmul_rounds : gives (.fmul 3 1 2) 0x3F800800 0x3F800800 0x3F801000 8 = true := by decide +kernel

/-- The lanes of a VECTOR team with v1 given lane by lane. -/
def lanesV (i : Instr) (ws : List Word) : State :=
  withTeam (pairV i 0 0) fun t => { t with lanes := t.lanes.mapIdx fun n l => { l with v := l.v.set 1 (ws.getD n 0) } }

theorem test_example_exp2 :
    (afterTeam (.exp2c 2 1) (lanesV (.exp2c 2 1) [0xC3150000, 0xC3160000, 0x3F000000, 0x43000000]) fun t =>
      t.pend.flatMap (·.vals) == [(0, 1), (1, 0), (2, 0x3FB504F3), (3, 0x7F800000)] && t.pend.any fun p => p.flags == 0b1110) = true := by decide +kernel

theorem test_example_cvt_e4m3 :
    (afterTeam (.cvt 2 1) (formats (lanesV (.cvt 2 1) [0x43960000, 0x43FA0000, 0xFF800000, 0x7FC00000]) 1 5) fun t =>
      t.lanes.map (fun l => l.v.getD 2 0) == [0x79, 0x7E, 0xFE, 0x7F]) = true := by decide +kernel

theorem test_example_sred_tree :
    (afterTeam (.sred 2 1 1) (lanesV (.sred 2 1 1) [0x3F800000, 0x33800000, 0x33800000, 0x33800000]) fun t =>
      t.pend.flatMap (·.vals) == (List.range 4).map (fun l => (l, 0x3F800001)) && t.pend.any fun p => p.flags == 8) = true := by
  decide +kernel

/-- The counters after an instruction, in lanes of given counters with predicates in given lanes. -/
def counts (i : Instr) (rest : List Instr) (c : List Nat) (p : List Nat) : List Nat × Word :=
  let s := withTeam (trialWith i rest) fun t =>
    { t with lanes := t.lanes.mapIdx fun n l => { l with cnt := c.getD n 0, pred := if n ∈ p then 0x7F#8 else 0 } }
  match exec i s with
  | .next t => ((t.team? { uid := 0, tid := 0 }).map fun t => (t.lanes.map (·.cnt), t.pc)).getD ([], 0)
  | _ => ([], 0)

theorem test_example_nesting :
    [counts (.ifc 1 5) [.nop] [0, 0, 0, 0] [0, 1, 2] == ([0, 0, 0, 1], 4), counts (.loopc 3) [.nop] [0, 0, 0, 1] [] == ([0, 0, 0, 3], 4),
     counts (.breakc 2 0) [.endl 0] [0, 0, 0, 3] [0] == ([2, 0, 0, 3], 4), counts (.breakc 2 0) [.endl 0] [2, 0, 0, 3] [1, 2] == ([2, 2, 2, 3], 4),
     counts (.endl 1) [.loopc 0] [2, 0, 0, 3] [] == ([2, 0, 0, 3], 8), counts (.endl 1) [.loopc 0] [2, 2, 2, 3] [] == ([0, 0, 0, 1], 4),
     counts (.elsec 2) [.nop, .endifc] [0, 0, 0, 1] [] == ([1, 1, 1, 0], 4), counts .endifc [.nop] [1, 1, 1, 0] [] == ([0, 0, 0, 0], 4)].all id = true := by
  decide +kernel

theorem test_example_home :
    homeOf { partitionReset 0 with groupTable := (List.range 64).map fun i => if i = 50 then 7 else 0 } 0x0103 0x5F403A80 = (7, 2) := by
  decide +kernel

theorem test_example_slotget :
    let slot := fun (e : BitVec 16) (u : Bool) (r : BitVec 13) => ({ expert := e, valid := true, loading := false, use := u, ref := r } : Slot)
    let c := { ctxFor .access [] with hand := 254, slots := slot 40 false 0 :: List.replicate 253 (slot 9 true 1) ++ [slot 1 true 2, slot 2 true 0] }
    let r := c.slotGet 17
    (r.2 == 0x40002800 && (r.1.slot 0).word == 0x0011E001 && r.1.hand == 1 && !(r.1.slot 254).use && !(r.1.slot 255).use &&
      (r.1.slotGet 17).2 == 0x20000000) = true := by decide +kernel

theorem test_example_roles :
    [issueFault (ready .access [0x13380000]) (groupFor .access) (teamFor .access) (.fadd 78 0 0) == some (1, 0x13380000),
     issueFault (ready .access [0x13800000]) (groupFor .access) (teamFor .access) (.fadd 96 0 0) == some (2, 0x13800000)].all id = true := by
  decide +kernel

theorem test_example_iadd_access :
    (afterTeam (.iadd 5 6 7) (withLanes (trial (.iadd 5 6 7)) fun l => { l with a := (l.a.set 6 0x7FFFFFFF).set 7 1 }) fun t =>
      (t.lanes.all fun l => l.a.getD 5 0 == 0xFFFFFFFF80000000) && t.astat == 2) = true := by decide +kernel

end Sys2Proof.Tests
end

/-!
SUPPORT. The driver's commands on tables and registers (R409): what each of the gates a command passes can answer, said once for a
gate, and each command of the table as a gate and an effect.
-/

namespace Sys2Proof.Machine

/-! ### The gates -/

theorem State.setStatus_eq_answer (s : State) (fn : Nat) (st : CmdStatus) : s.setStatus fn st = Claim.answer s fn st := rfl

/-- What a gate comes to: NOTREADY, then ACCESS, then what lies behind it. -/
structure Gate (s : State) (fn : Nat) (own : Prop) (x behind : State) : Prop where
  notReady : ¬Claim.ready s → x = Claim.answer s fn .notReady
  access : Claim.ready s → ¬own → x = Claim.answer s fn .access
  passes : Claim.ready s → own → x = behind

theorem State.commandable_iff (s : State) : s.commandable = true ↔ Claim.ready s := by
  simp [State.commandable, Claim.ready, and_assoc]

theorem State.mayReach_iff (s : State) (fn part : Nat) :
    (s.mayReach fn part = true ∧ part < s.partCount) ↔ Claim.reaches s fn part := by
  simp [State.mayReach, Claim.reaches, and_assoc]

/-- A command of the physical function alone. -/
theorem State.pfCommand_gate (s : State) (fn : Nat) (k : State → State) :
    Gate s fn (fn = 0) (s.pfCommand fn k) (k s) where
  notReady h := by
    rw [← s.commandable_iff] at h
    simp [State.pfCommand, h, State.setStatus_eq_answer]
  access h own := by
    rw [← s.commandable_iff] at h
    simp [State.pfCommand, h, own, State.setStatus_eq_answer]
  passes h own := by
    rw [← s.commandable_iff] at h
    simp [State.pfCommand, h, own]

/-- A command on a partition. -/
theorem State.command_gate (s : State) (fn part : Nat) (k : State → State) :
    Gate s fn (Claim.reaches s fn part) (s.command fn part k) (k s) where
  notReady h := by
    rw [← s.commandable_iff] at h
    simp [State.command, h, State.setStatus_eq_answer]
  access h own := by
    rw [← s.commandable_iff] at h
    have refused : s.mayReach fn part = false ∨ s.partCount ≤ part := by
      rw [← s.mayReach_iff, not_and_or] at own
      simpa using own
    simp [State.command, h, refused, State.setStatus_eq_answer]
  passes h own := by
    rw [← s.commandable_iff] at h
    obtain ⟨may, inUse⟩ := (s.mayReach_iff fn part).mpr own
    simp [State.command, h, may, inUse]

/-- A command on a port is one on the partition that owns it; nobody may give it where none does. -/
theorem State.portCommand_gate (s : State) (fn port : Nat) (b : Bool) (k : State → State) :
    Gate s fn (∃ p, s.portPart port = some p ∧ Claim.reaches s fn p) (s.portCommand fn port b k) (s.okIf fn b k) := by
  cases hp : s.portPart port with
  | none =>
    have answers : s.portCommand fn port b k = s.setStatus fn (if s.commandable then .access else .notReady) := by
      simp [State.portCommand, hp]
    refine ⟨fun h => ?_, fun h _ => ?_, fun _ own => by simp at own⟩
    · rw [answers, if_neg (mt s.commandable_iff.mp h), State.setStatus_eq_answer]
    · rw [answers, if_pos (s.commandable_iff.mpr h), State.setStatus_eq_answer]
  | some part =>
    have inner : s.portCommand fn port b k = s.command fn part fun s => s.okIf fn b k := by simp [State.portCommand, hp]
    simpa [inner] using s.command_gate fn part fun s => s.okIf fn b k

/-! ### A command of the table -/

/-- A command answers as its row of the table says. -/
def DriverRowHolds (i : Instr) (s : State) : Prop :=
  ∀ (fn : Nat) (own : Prop) (who : Option (Nat × Nat × Nat)) (good : Prop) (t : State),
    Claim.driver s i = some (fn, own, who, good, t) →
    let named := ∀ p, who = some p → ∃ c, s.ctx? p.1 p.2.1 = some c ∧ c.gen = p.2.2
    (¬Claim.ready s → exec i s = .next (Claim.answer s fn .notReady)) ∧
    (Claim.ready s → ¬own → exec i s = .next (Claim.answer s fn .access)) ∧
    (∀ part id gen, Claim.ready s → own → who = some (part, id, gen) →
      (s.ctx? part id = none → exec i s = .next (Claim.answer s fn .invalid)) ∧
      ∀ c, s.ctx? part id = some c → c.gen ≠ gen → exec i s = .next (Claim.discarded s fn)) ∧
    (Claim.ready s → own → named → ¬good → exec i s = .next (Claim.answer s fn .invalid)) ∧
    (Claim.ready s → own → named → good → exec i s = .next (Claim.commanded t fn))

theorem State.okIf_of_not {s : State} {fn : Nat} {b : Bool} {good : Prop} {k : State → State} (hb : b = true ↔ good)
    (h : ¬good) : s.okIf fn b k = Claim.answer s fn .invalid := by
  rw [State.okIf, if_neg (mt hb.mp h)]
  rfl

theorem State.okIf_of {s t : State} {fn : Nat} {b : Bool} {good : Prop} {k : State → State} (hb : b = true ↔ good)
    (hk : good → k s = t) (h : good) : s.okIf fn b k = Claim.commanded t fn := by
  rw [State.okIf, if_pos (hb.mpr h), hk h]
  rfl

/-- A row that names no context: a gate, and behind it the test of the operands. -/
theorem driverRowHolds_of_gate {i : Instr} {s x t : State} {fn : Nat} {own good : Prop} {b : Bool} {k : State → State}
    (row : Claim.driver s i = some (fn, own, none, good, t)) (run : exec i s = .next x)
    (gate : Gate s fn own x (s.okIf fn b k)) (hb : b = true ↔ good) (hk : good → k s = t) : DriverRowHolds i s := by
  intro fn' own' who good' t' h
  cases row.symm.trans h
  refine ⟨fun nr => run.trans (congrArg _ (gate.notReady nr)), fun r no => run.trans (congrArg _ (gate.access r no)), nofun,
    fun r o _ bad => ?_, fun r o _ ok => ?_⟩
  · rw [run, gate.passes r o, State.okIf_of_not hb bad]
  · rw [run, gate.passes r o, State.okIf_of hb hk ok]

/-- A row that names a context: a gate, the look-up of the context and its generation, and the test of the operands. -/
theorem driverRowHolds_of_gate_named {i : Instr} {s x t : State} {fn part id gen : Nat} {own good : Prop} {b : Bool}
    {k : State → State} (row : Claim.driver s i = some (fn, own, some (part, id, gen), good, t)) (run : exec i s = .next x)
    (gate : Gate s fn own x (s.ofGen fn part id gen fun s _ => s.okIf fn b k)) (hb : b = true ↔ good)
    (hk : good → k s = t) : DriverRowHolds i s := by
  intro fn' own' who good' t' h
  cases row.symm.trans h
  have found (c : Ctx) (hc : s.ctx? part id = some c) (hg : c.gen = gen) :
      (s.ofGen fn part id gen fun s _ => s.okIf fn b k) = s.okIf fn b k := by
    simp [State.ofGen, hc, hg]
  refine ⟨fun nr => run.trans (congrArg _ (gate.notReady nr)), fun r no => run.trans (congrArg _ (gate.access r no)), ?_,
    fun r o named bad => ?_, fun r o named ok => ?_⟩
  · rintro _ _ _ r o ⟨⟩
    rw [run, gate.passes r o]
    exact ⟨fun hc => by simp [State.ofGen, hc, State.setStatus_eq_answer],
      fun c hc hg => by simp [State.ofGen, hc, hg, Claim.discarded]⟩
  · obtain ⟨c, hc, hg⟩ := named _ rfl
    rw [run, gate.passes r o, found c hc hg, State.okIf_of_not hb bad]
  · obtain ⟨c, hc, hg⟩ := named _ rfl
    rw [run, gate.passes r o, found c hc hg, State.okIf_of hb hk ok]

/-! ### The tests of operands -/

theorem State.groupOk_iff (s : State) (part group : Nat) : s.groupOk part group = true ↔ Claim.groupOf s part group := by
  unfold State.groupOk Claim.groupOf
  cases s.dev.mode <;> simp

theorem State.liveCtxs_isEmpty_iff (s : State) (part : Nat) :
    (s.liveCtxs part).isEmpty = true ↔ ∀ c ∈ s.ctxs, c.part = part → c.state = .killed := by
  simp [State.liveCtxs]

theorem stripMapOk_iff (strip : Nat) (map : List Nat) :
    stripMapOk strip map = true ↔ map.length = 8 ∧ (∀ c ∈ map, c ∈ stripClusters strip) ∧ map.eraseDups.length = 8 := by
  simp [stripMapOk, and_assoc]

theorem State.poolFrame_iff (s : State) (part f : Nat) : s.poolFrame part f = true ↔
    f % 65536 = 0 ∧ s.owns part f = true ∧ s.owns part (f + 65535) = true ∧ s.inZone part f = false := by
  simp [State.poolFrame, and_assoc]

@[simp] theorem State.modCores_vers (s : State) (cs : List Nat) (f : Core → Core) : (s.modCores cs f).vers = s.vers := by
  induction cs generalizing s with
  | nil => rfl
  | cons c cs ih => exact ih (s.modCore c f)

@[simp] theorem State.modPart_coresOf (s : State) (p : Nat) (f : Partition → Partition) (part : Nat) :
    (s.modPart p f).coresOf part = s.coresOf part := rfl

/-- The three scopes of a shootdown as one test. -/
theorem inScope_eq {scope : Nat} (h : scope ≤ 2) (asid va len tag lo hi : Nat) : inScope scope asid va len tag lo hi =
    (scope == 2 || (tag == asid && (scope == 1 || decide (lo < va + len ∧ va < hi)))) := by
  match scope, h with
  | 0, _ => simp [inScope]
  | 1, _ => simp [inScope]
  | 2, _ => simp [inScope]

theorem shotOf_eq {scope : Nat} (h : scope ≤ 2) (asid va len ver : Nat) : shotOf scope asid va len ver =
    if scope = 0 then { asid := some asid, lo := va, hi := va + len, ver := ver }
    else if scope = 1 then { asid := some asid, ver := ver } else { ver := ver } := by
  match scope, h with
  | 0, _ => rfl
  | 1, _ => rfl
  | 2, _ => rfl

/-! ### The rows -/

theorem keyInstall_row (fn part idx : Nat) (key : List Byte) (s : State) : DriverRowHolds (.keyInstall fn part idx key) s :=
  driverRowHolds_of_gate rfl rfl (s.pfCommand_gate fn _) (by simp) fun _ => rfl

theorem groupTableWrite_row (fn part idx group : Nat) (s : State) : DriverRowHolds (.groupTableWrite fn part idx group) s :=
  driverRowHolds_of_gate rfl rfl (s.pfCommand_gate fn _) (by simp [s.groupOk_iff, and_assoc]) fun _ => rfl

theorem sharedTableInstall_row (fn part root : Nat) (s : State) : DriverRowHolds (.sharedTableInstall fn part root) s :=
  driverRowHolds_of_gate rfl rfl (s.pfCommand_gate fn _) (by simp [and_assoc]) fun _ => rfl

theorem clearfail_row (fn : Nat) (s : State) : DriverRowHolds (.clearfail fn) s :=
  driverRowHolds_of_gate rfl rfl (s.pfCommand_gate fn _) (by simp) fun _ => rfl

theorem testMode_row (fn part : Nat) (s : State) : DriverRowHolds (.testMode fn part) s :=
  driverRowHolds_of_gate rfl rfl (s.pfCommand_gate fn _)
    (by rw [Bool.and_eq_true, decide_eq_true_iff, s.liveCtxs_isEmpty_iff]) fun _ => rfl

theorem antiRollbackBlow_row (fn : Nat) (cmd : List Byte) (s : State) : DriverRowHolds (.antiRollbackBlow fn cmd) s :=
  driverRowHolds_of_gate rfl rfl (s.pfCommand_gate fn _) (by simp) fun _ => rfl

theorem powerCap_row (fn watts : Nat) (s : State) : DriverRowHolds (.powerCap fn watts) s :=
  driverRowHolds_of_gate rfl rfl (s.pfCommand_gate fn _) (by simp [and_assoc]) fun _ => rfl

theorem replanCommand_row (fn : Nat) (s : State) : DriverRowHolds (.replanCommand fn) s :=
  driverRowHolds_of_gate rfl rfl (s.pfCommand_gate fn _) (by simp) fun _ => rfl

theorem partitionModeWrite_row (fn mode : Nat) (s : State) : DriverRowHolds (.partitionModeWrite fn mode) s :=
  driverRowHolds_of_gate rfl rfl (s.pfCommand_gate fn _) (by simp) fun _ => rfl

theorem repairMapWrite_row (fn strip : Nat) (map : List Nat) (s : State) : DriverRowHolds (.repairMapWrite fn strip map) s :=
  driverRowHolds_of_gate rfl rfl (s.pfCommand_gate fn _)
    (by rw [Bool.and_eq_true, decide_eq_true_iff, stripMapOk_iff]) fun _ => rfl

theorem peerTableWrite_row (fn part : Nat) (who : CtxName) (idx : Nat) (valid : Bool) (port addr job : Nat) (s : State) :
    DriverRowHolds (.peerTableWrite fn part who idx valid port addr job) s :=
  driverRowHolds_of_gate_named rfl rfl (s.pfCommand_gate fn _) (by simp [and_assoc]) fun _ => rfl

/-- REGISTER_WRITE: MSEL, a port's RTO, a block's error threshold, and no other register (R8). -/
theorem registerWrite_row (fn reg idx value : Nat) (s : State) : DriverRowHolds (.registerWrite fn reg idx value) s :=
  match reg with
  | 0 => driverRowHolds_of_gate rfl rfl (s.pfCommand_gate fn _) (by simp) fun _ => rfl
  | 1 => driverRowHolds_of_gate rfl rfl (s.portCommand_gate fn idx _ _) (by simp) fun _ => rfl
  | 2 => driverRowHolds_of_gate rfl rfl (s.pfCommand_gate fn _) (by simp) fun _ => rfl
  | _ + 3 => driverRowHolds_of_gate (b := false) (k := id) rfl rfl (s.pfCommand_gate fn _) (by simp) fun _ => rfl

theorem partitionReset_row (fn part : Nat) (s : State) : DriverRowHolds (.partitionReset fn part) s :=
  driverRowHolds_of_gate rfl rfl (s.command_gate fn part _) (by simp) fun _ => by simp only [State.liveCtxs, State.modCores_vers]

theorem pageEngineRegister_row (fn part : Nat) (who : CtxName) (ranges : List (Nat × Nat)) (frames : List Nat)
    (low high period : Nat) (s : State) : DriverRowHolds (.pageEngineRegister fn part who ranges frames low high period) s :=
  driverRowHolds_of_gate_named rfl rfl (s.command_gate fn part _) (by simp [s.poolFrame_iff, and_assoc]) fun _ => rfl

theorem shootdown_row (fn part scope asid va len : Nat) (s : State) : DriverRowHolds (.shootdown fn part scope asid va len) s :=
  driverRowHolds_of_gate rfl rfl (s.command_gate fn part _) (by simp [← imp_iff_not_or]) fun good => by
    simp only [OvSlot.inShot, inScope_eq good.1, shotOf_eq good.1, State.modPart_coresOf]

theorem drowsyDisable_row (fn part : Nat) (off : Bool) (s : State) : DriverRowHolds (.drowsyDisable fn part off) s :=
  driverRowHolds_of_gate rfl rfl (s.command_gate fn part _) (by simp) fun _ => rfl

theorem jobRegister_row (fn part job : Nat) (who : CtxName) (s : State) : DriverRowHolds (.jobRegister fn part job who) s :=
  driverRowHolds_of_gate_named rfl rfl (s.command_gate fn part _) (by simp) fun _ => rfl

theorem portEnable_row (fn port : Nat) (s : State) : DriverRowHolds (.portEnable fn port) s :=
  driverRowHolds_of_gate rfl rfl (s.portCommand_gate fn port _ _) (by simp) fun _ => rfl

theorem portDisable_row (fn port : Nat) (s : State) : DriverRowHolds (.portDisable fn port) s :=
  driverRowHolds_of_gate rfl rfl (s.portCommand_gate fn port _ _) (by simp) fun _ => rfl

/-- Every row of the table; an instruction that is no such command has none. -/
theorem driverRowHolds (i : Instr) (s : State) : DriverRowHolds i s := by
  cases i with
  | keyInstall fn part idx key => exact keyInstall_row fn part idx key s
  | groupTableWrite fn part idx group => exact groupTableWrite_row fn part idx group s
  | sharedTableInstall fn part root => exact sharedTableInstall_row fn part root s
  | clearfail fn => exact clearfail_row fn s
  | testMode fn part => exact testMode_row fn part s
  | antiRollbackBlow fn cmd => exact antiRollbackBlow_row fn cmd s
  | powerCap fn watts => exact powerCap_row fn watts s
  | replanCommand fn => exact replanCommand_row fn s
  | partitionModeWrite fn mode => exact partitionModeWrite_row fn mode s
  | repairMapWrite fn strip map => exact repairMapWrite_row fn strip map s
  | peerTableWrite fn part who idx valid port addr job => exact peerTableWrite_row fn part who idx valid port addr job s
  | registerWrite fn reg idx value => exact registerWrite_row fn reg idx value s
  | partitionReset fn part => exact partitionReset_row fn part s
  | pageEngineRegister fn part who ranges frames low high period =>
    exact pageEngineRegister_row fn part who ranges frames low high period s
  | shootdown fn part scope asid va len => exact shootdown_row fn part scope asid va len s
  | drowsyDisable fn part off => exact drowsyDisable_row fn part off s
  | jobRegister fn part job who => exact jobRegister_row fn part job who s
  | portEnable fn port => exact portEnable_row fn port s
  | portDisable fn port => exact portDisable_row fn port s
  | _ => exact fun _ _ _ _ _ h => nomatch h

/-- Settles O45: each command of the table is a gate, the context it names if it names one, and a test of its operands before its
effect. -/
theorem driverCommands : Obligations.DriverCommands := by
  unfold Obligations.DriverCommands
  intro i s t fn own good who h
  exact driverRowHolds i s fn own who good t h

end Sys2Proof.Machine

/-!
SUPPORT. What the events of a team come to: a late load's value, an entry that arrives, the oldest store, a poll's end (R145, R227, R254,
R257, R296).
-/

namespace Sys2Proof.Machine

open Sys2Proof

/-! ### Results -/

/-- A result is the one at issue, or the home value of now where the team has written nothing there since. -/
theorem State.lateValue_cases (s : State) (r : TeamRef) (p : PendWrite) {g : Group} {t : Team} (hg : s.group? r.uid = some g)
    (ht : g.team? r.tid = some t) :
    s.lateValue r p = (s, p) ∨ ∃ c l lane v host pa u seen, s.ctxOf g = some c ∧ p.late = some l ∧ p.vals = [(lane, v)] ∧
      (∃ n, s.xlate c .read l.va = (.ok host pa n, u)) ∧
      (∀ e ∈ s.past, e.host = host → e.maker = some r → l.ver ≤ e.ver → e.meets pa l.bytes = false) ∧
      s.lateValue r p = (u.modTeam r fun t => { t with seen := seen ++ t.seen },
        { p with vals := [(lane,
          if l.sx = true then BitVec.ofInt 64 (signedOf (8 * l.bytes) (leNat (t.forward l.seq l.va (u.readPhys host pa l.bytes))))
          else BitVec.ofNat 64 (leNat (t.forward l.seq l.va (u.readPhys host pa l.bytes))))] }) := by
  generalize value : s.lateValue r p = q
  unfold State.lateValue at value
  simp only [hg, ht] at value
  split at value
  · rename_i t' c l lane v team ctx late vals
    cases team
    split at value
    · rename_i host pa n u place
      rcases ite_eq_iff.mp value with ⟨⟨-, own, -, -⟩, late'⟩ | ⟨-, kept⟩
      · exact .inr ⟨c, l, lane, v, host, pa, u, _, ctx, late, vals, ⟨n, place⟩, by simpa using own, late'.symm⟩
      · exact .inl kept.symm
    · exact .inl value.symm
  · exact .inl value.symm

/-- What becomes of a team as a result of its own returns. -/
def Team.returned (t : Team) (k : Nat) (p q : PendWrite) : Team :=
  ({ (t.writeVals p.dst q.vals).orFlags p.flags with pend := t.pend.eraseIdx k } : Team).unswitch

/-- An outstanding result returns once the slices have answered. -/
theorem execVariableResultReturn_of_pend {s : State} {r : TeamRef} {g : Group} {t : Team} {p : PendWrite} {k : Nat}
    (hg : s.group? r.uid = some g) (ht : s.team? r = some t) (hp : t.pend[k]? = some p) :
    execVariableResultReturn r.uid r.tid k s = if s.resultReady g.core r p = true then
      .next (((s.lateValue r p).1.modTeam r fun t => t.returned k p (s.lateValue r p).2).finishTry r).moved else .next s := by
  have found : (s.team? ⟨r.uid, r.tid⟩).bind (fun t => t.pend[k]?) = some p := by
    rw [show (⟨r.uid, r.tid⟩ : TeamRef) = r from rfl, ht]
    exact hp
  unfold execVariableResultReturn
  simp only [hg, found]
  rfl

/-! ### Queue entries -/

/-- An entry that is still there becomes complete, unless its load has faulted. -/
theorem Queue.arrive_entries (q : Queue) (e clk : Nat) (there : ∃ x ∈ q.entries, x.id = e) :
    (q.arrive e clk).entries = q.entries.map fun x =>
      if x.id = e ∧ x.faulted = false then { x with complete := true, waiting := false, since := clk + 1 } else x := by
  have found : (q.entries.any fun x => x.id == e) = true := by simpa using there
  rw [Queue.arrive, if_pos found]
  refine List.map_congr_left fun x _ => ?_
  by_cases hid : x.id = e <;> cases hf : x.faulted <;> simp [hid, hf]

@[simp] theorem Queue.arrive_num (q : Queue) (e clk : Nat) : (q.arrive e clk).num = q.num := by
  unfold Queue.arrive
  split
  · rfl
  · split <;> rfl

/-- A queue that keeps its number is found again once it has changed. -/
theorem Group.queue?_modQueue (g : Group) (n : Nat) (f : Queue → Queue) (hf : ∀ q, (f q).num = q.num) :
    (g.modQueue n f).queue? n = (g.queue? n).map f := by
  unfold Group.queue? Group.modQueue
  dsimp only
  induction g.queues with
  | nil => rfl
  | cons q qs ih =>
    unfold modWhere at ih ⊢
    rw [List.map_cons, List.find?_cons, List.find?_cons, ih]
    cases h : q.num == n <;> simp [h, hf]

/-- An entry stays as it is while a slice has not answered for it. -/
theorem execQueueEntryComplete_of_group {s : State} {uid : Nat} {g : Group} (hg : s.group? uid = some g) (q e : Nat) :
    execQueueEntryComplete uid q e s =
      if ((g.queue? q).any fun p => p.entries.any fun y => y.id == e && !s.entryReady g y) = true then .next s
      else .next (s.modGroup uid fun g => g.arriveQ q e s.clk).moved := by
  unfold execQueueEntryComplete
  simp only [hg]

/-- An arrival changes the entry's queue, and notes the a-clk in which more of it is visible. -/
theorem Group.arriveQ_spec (g : Group) (n e clk : Nat) :
    (g.arriveQ n e clk).queues = modWhere g.queues (fun p => p.num == n) (fun p => p.arrive e clk) ∧
    ∀ p, g.queue? n = some p →
      ((Claim.visible p (clk + 1)).length < (Claim.visible (p.arrive e clk) (clk + 1)).length →
        (g.arriveQ n e clk).qMark = clk + 1) ∧
      ((Claim.visible (p.arrive e clk) (clk + 1)).length ≤ (Claim.visible p (clk + 1)).length →
        (g.arriveQ n e clk).qMark = g.qMark) := by
  refine ⟨?_, fun p hp => ?_⟩
  · unfold Group.arriveQ
    dsimp only
    split <;> rfl
  · have before : g.visibleIn n (clk + 1) = (Claim.visible p (clk + 1)).length := by
      rw [Group.visibleIn, hp]; rfl
    have after : (g.modQueue n fun q => q.arrive e clk).visibleIn n (clk + 1) = (Claim.visible (p.arrive e clk) (clk + 1)).length := by
      rw [Group.visibleIn, g.queue?_modQueue n _ fun q => q.arrive_num e clk, hp]; rfl
    unfold Group.arriveQ
    dsimp only
    rw [before, after]
    exact ⟨fun more => by rw [if_pos more]; rfl, fun same => by rw [if_neg (Nat.not_lt.mpr same)]; rfl⟩

/-! ### Stores -/

/-- The oldest store of a team can reach its home slice: nothing holds it back, the slice has room, and no request of the team
waits for that slice. -/
theorem State.storeTaken_iff {s : State} {r : TeamRef} {g : Group} {t : Team} {c : Ctx} {e : StoreEntry} {rest : List StoreEntry}
    {pt : Partition} (hg : s.group? r.uid = some g) (ht : g.team? r.tid = some t) (hc : s.ctxOf g = some c)
    (oldest : t.sbuf = e :: rest) (hp : s.part? c.part = some pt) :
    s.storeTaken r = true ↔ t.storeReady = true ∧ s.sliceFill (homeOf pt c.asid e.va) < 32 ∧ ∀ k, s.core? g.core = some k →
      ∀ a ∈ k.reqs, a.accepted = true ∨ a.team ≠ r ∨ a.home ≠ homeOf pt c.asid e.va := by
  have slice (k : Core) : (k.waiting.any fun q => q.team == r && q.home == homeOf pt c.asid e.va) = false ↔
      ∀ a ∈ k.reqs, a.accepted = true ∨ a.team ≠ r ∨ a.home ≠ homeOf pt c.asid e.va := by
    simp only [Core.waiting, List.any_filter, List.any_eq_false, Bool.and_eq_true, Bool.not_eq_true', beq_iff_eq, not_and]
    refine forall₂_congr fun a _ => ?_
    cases a.accepted <;> simp [imp_iff_not_or]
  simp only [State.storeTaken, hg, ht, hc, oldest, Option.any_some, List.head?_cons, State.storeFits, hp, Option.all_some,
    State.sliceTakes, Bool.and_eq_true, decide_eq_true_eq]
  cases s.core? g.core with
  | none => simp [sliceQueue]
  | some k => simp [← slice, sliceQueue]

/-! ### Polls -/

theorem polledChanged_iff (s : State) (h : PollHold) : polledChanged s h = true ↔
    ∃ e ∈ s.past, ∃ l ∈ h.lines, h.ver ≤ e.ver ∧ e.host = l.1 ∧ e.meets l.2 128 = true := by
  simp only [polledChanged, List.any_eq_true, Bool.and_eq_true, decide_eq_true_eq, beq_iff_eq]
  exact exists_congr fun e => and_congr_right fun _ =>
    ⟨fun ⟨after, l, hl, line⟩ => ⟨l, hl, after, line⟩, fun ⟨l, hl, after, line⟩ => ⟨after, l, hl, line⟩⟩

theorem someUnchanged_iff (lanes : List LaneAcc) (vals : List (Nat × List Byte)) : someUnchanged lanes vals = true ↔
    ∃ a ∈ lanes, ∃ p, vals.find? (fun p => p.1 == a.lane) = some p ∧ leNat p.2 = a.cmp.toNat := by
  simp only [someUnchanged, List.any_eq_true, Option.any_eq_true, beq_iff_eq]

/-- A poll whose line has been written ends; another stays held. -/
theorem execPollWake_of_hold {s : State} {uid tid : Nat} {t : Team} {h : PollHold} (ht : s.team? ⟨uid, tid⟩ = some t)
    (hold : t.hold = .poll h) :
    execPollWake uid tid s = if polledChanged s h then .next (s.endPoll ⟨uid, tid⟩) else .next s := by
  simp only [execPollWake, ht, hold]

/-- A poll that has lasted its time ends; another stays held. -/
theorem execPollTimeout_of_hold {s : State} {uid tid : Nat} {t : Team} {h : PollHold} (ht : s.team? ⟨uid, tid⟩ = some t)
    (hold : t.hold = .poll h) :
    execPollTimeout uid tid s = if h.since + 1024 ≤ s.clk then .next (s.endPoll ⟨uid, tid⟩) else .next s := by
  simp only [execPollTimeout, ht, hold]

/-- A team whose poll has delivered what it read the second time. -/
def Team.polled (t : Team) (h : PollHold) (pad : Nat) (q : Gather) : Team :=
  { (t.acquired q.s.vers pad).addPend (loadWrites h.dst h.bytes false (onlyLow (t.lowFor h.dst) q.vals)) with hold := .none }

/-- What a demotion event, or none, makes of the end of a poll. -/
def State.pollDelivers (r : TeamRef) (g : Group) (t : Team) (h : PollHold) (q : Gather) : Option (Except Unit (Team × Word)) → State
  | none => ((q.s.acquiredOn g.core).modTeam r fun _ => t.polled h g.vers q).moved
  | some (.ok (v, next)) => ((q.s.acquiredOn g.core).modTeam r fun _ => { v with pc := next, stalls := [] }).moved
  | some (.error _) => ((q.s.modTeam r (Team.unpoll h)).raiseTrap r trapIllegal (h.word.zeroExtend 64) h.pc).moved

/-- A held poll's end: it reads once more, and delivers or demotes. -/
theorem State.endPoll_of_hold {s : State} {r : TeamRef} {g : Group} {t : Team} {c : Ctx} {h : PollHold} {q : Gather}
    (hg : s.group? r.uid = some g) (ht : g.team? r.tid = some t) (hc : s.ctxOf g = some c) (hold : t.hold = .poll h)
    (read : rereadLanes s { c := c, r := r, t := t, seq := h.seq, fresh := true } h = q) :
    s.endPoll r = if q.bad = true then q.s.badAccess g t else
      State.pollDelivers r g t h q
        (if someUnchanged h.lanes q.vals = true then demote q.s (g.forTeam t) (t.polled h g.vers q) h.pc t.pc else none) := by
  unfold State.endPoll
  simp only [hg, ht, hc, hold, read]
  rfl

/-- Settles O49, clause by clause: results, queue entries, stores, polls and faults. -/
theorem teamEvents : Obligations.TeamEvents := by
  unfold Obligations.TeamEvents
  refine ⟨fun s r g t p k hg ht hp => ⟨fun early => ?_, fun ready => ⟨_, _, rfl, ?_⟩, ?_⟩, fun t => rfl,
    fun s uid q e g hg => ⟨?_, ?_⟩, Queue.arrive_entries, Group.arriveQ_spec,
    fun s r => ⟨fun full => if_neg (by simp [full]), fun room => if_pos room⟩,
    fun s r g t c e rest pt hg ht hc oldest hp => State.storeTaken_iff hg ht hc oldest hp,
    fun s r t h ht hold => ?_, fun s r g t c h hg ht hc hold => ?_, fun s r => rfl⟩
  · exact (execVariableResultReturn_of_pend hg ht hp).trans (if_neg (by simp [early]))
  · exact (execVariableResultReturn_of_pend hg ht hp).trans (if_pos ready)
  · rw [State.team?, hg] at ht
    exact s.lateValue_cases r p hg ht
  · rintro ⟨p, y, hq, hy, hid, waiting⟩
    refine (execQueueEntryComplete_of_group hg q e).trans (if_pos ?_)
    simp only [hq, Option.any_some, List.any_eq_true]
    exact ⟨y, hy, by simp [hid, waiting]⟩
  · intro answered
    refine (execQueueEntryComplete_of_group hg q e).trans (if_neg ?_)
    simp only [Option.any_eq_true, List.any_eq_true]
    rintro ⟨p, hq, y, hy, waiting⟩
    simp only [Bool.and_eq_true, beq_iff_eq] at waiting
    simp [answered p y hq hy waiting.1] at waiting
  · have wake := execPollWake_of_hold ht hold
    have timeout := execPollTimeout_of_hold ht hold
    rw [← polledChanged_iff]
    exact ⟨fun written => wake.trans (if_pos written), fun not => wake.trans (if_neg not),
      fun late => timeout.trans (if_pos late), fun early => timeout.trans (if_neg (Nat.not_le.mpr early))⟩
  · intro q u w unchanged
    have ends := State.endPoll_of_hold hg ht hc hold (q := q) rfl
    have same : someUnchanged h.lanes q.vals = true ↔ unchanged := someUnchanged_iff ..
    refine ⟨fun bad => ends.trans (if_pos bad), fun good no => ?_, fun good yes => ⟨fun v next jump => ?_, fun jump => ?_⟩⟩
    all_goals rw [if_neg (by simp [good])] at ends
    · have stays : (if someUnchanged h.lanes q.vals = true then demote q.s (g.forTeam t) u h.pc t.pc else none) = none := by
        rcases no with no | no
        · exact if_neg (mt same.mp no)
        · rw [no, ite_self]
      exact ends.trans (congrArg (State.pollDelivers r g t h q) stays)
    · exact ends.trans (congrArg (State.pollDelivers r g t h q) ((if_pos (same.mpr yes)).trans jump))
    · exact ends.trans (congrArg (State.pollDelivers r g t h q) ((if_pos (same.mpr yes)).trans jump))

end Sys2Proof.Machine

/-!
SUPPORT. A counterexample to the statement on tile atomics, QUANT and CBLD (R217): a machine in which two groups bear one number, which the
statement does not exclude.
-/

namespace Sys2Proof.Machine

open Sys2Proof

/-- A word that completes leaves every group's record of scratchpad and codebook writes as its own effect made it. -/
theorem movesOn_pasts {u t : State} {x : Iss} (h : MovesOn u t x) : t.groups.map Group.past = u.groups.map Group.past := by
  obtain ⟨f, -, rfl⟩ := h
  simp only [State.modTeam, State.modGroup, modWhere, List.map_map]
  refine List.map_congr_left fun g _ => ?_
  dsimp only [Function.comp_apply]
  split <;> rfl

/-- A group of one vector team of one running lane. -/
def loneGroup : Group := groupReset 0 0 0 0 0 0 1 0 [teamReset 0 .vector 1 96 0]

/-- A machine with two groups under one number, of which the second has made one write more. -/
def twinState : State :=
  { State.reset with cur := some { uid := 0, tid := 0 }, groups := [loneGroup, { loneGroup with vers := 1 }] }

/-- The issue of a word of the first group. -/
def twinIss : Iss := { s := twinState, r := { uid := 0, tid := 0 }, g := loneGroup, t := teamReset 0 .vector 1 96 0 }

theorem issueOf_twinState : issueOf (.cbld 0 0) twinState = some twinIss := by rfl

/-- Refutes O34: CBLD notes the entry it replaces with the number of writes of the group it changes, the statement with that of
the issuing team's group, and they differ where a second group bears the same number. -/
theorem not_tileAtomics : ¬ Obligations.TileAtomics := by
  unfold Obligations.TileAtomics
  rintro ⟨-, -, -, -, -, cbld⟩
  obtain ⟨t, run, stated⟩ := cbld 0 0 twinState twinIss issueOf_twinState
  have ran : execCbld 0 0 twinState = .next t := run
  rw [execCbld, issue_of issueOf_twinState] at ran
  obtain rfl := Host.Outcome.next.inj ran
  have same := (movesOn_pasts (conclude_ok (.cbld 0 0) twinIss _)).symm.trans (movesOn_pasts stated)
  exact absurd same (by decide)

end Sys2Proof.Machine

/-!
SUPPORT. FP32 words (R191, R201, R202, R204): sums, products and fused products are exact and rounded once, minimum, maximum and keys follow
the total order, and the draw of stochastic rounding is the grain of R39.
-/

namespace Sys2Proof.Laws

open Sys2Proof.Machine Sys2Proof.Claim

section
variable {f : Fmt} (hf : fmtIsFloat f = true) {r : Rounding} {a b c : ℕ}

/-! ### Products and sums of unpacked values -/

include hf in
/-- An infinity is no zero. -/
theorem body_of_inf (h : infPat f a = true) : body f a ≠ 0 := by
  simp only [infPat, decide_eq_true_eq] at h
  rw [h.2]
  cases f <;> simp [fmtIsFloat] at hf <;> simp [limits]

/-- The operands of R26 that make a product invalid: zero and an infinity. -/
def zeroTimesInf (f : Fmt) (a b : ℕ) : Bool := (infPat f a && body f b == 0) || (body f a == 0 && infPat f b)

include hf in
/-- The exact product of two patterns that are no NaN: invalid, an infinity, or the product of the magnitudes. -/
theorem mulVal_unpack (ha : nanPat f a = false) (hb : nanPat f b = false) :
    (zeroTimesInf f a b = true → mulVal (unpackFloat f a) (unpackFloat f b) = none) ∧
    (zeroTimesInf f a b = false → (infPat f a || infPat f b) = true →
      mulVal (unpackFloat f a) (unpackFloat f b) = some (.inf (negative f a != negative f b))) ∧
    ((infPat f a || infPat f b) = false → ∃ m e,
      mulVal (unpackFloat f a) (unpackFloat f b) = some (.fin (negative f a != negative f b) m e) ∧
      (m : ℝ) * 2 ^ e = magnitude f a * magnitude f b ∧ (m = 0 ↔ body f a = 0 ∨ body f b = 0)) := by
  unfold zeroTimesInf
  cases ia : infPat f a <;> cases ib : infPat f b
  · obtain ⟨m, e, ua, va, za⟩ := unpack_num hf ha ia
    obtain ⟨n, k, ub, vb, zb⟩ := unpack_num hf hb ib
    refine ⟨by simp, by simp, fun _ => ⟨m * n, e + k, by rw [ua, ub]; rfl, ?_, by rw [mul_eq_zero, za, zb]⟩⟩
    rw [← va, ← vb, zpow_add₀ two_ne_zero]
    push_cast
    ring
  · obtain ⟨m, e, ua, -, za⟩ := unpack_num hf ha ia
    rw [ua, unpack_inf hf ib]
    by_cases zero : body f a = 0 <;> simp [mulVal, zero, za]
  · obtain ⟨n, k, ub, -, zb⟩ := unpack_num hf hb ib
    rw [ub, unpack_inf hf ia]
    by_cases zero : body f b = 0 <;> simp [mulVal, zero, zb]
  · rw [unpack_inf hf ia, unpack_inf hf ib]
    simp [mulVal, body_of_inf hf ia, body_of_inf hf ib]

/-- The sum of two unpacked values that are no NaN, rounded. -/
def sumOf (f : Fmt) (r : Rounding) (x y : FVal) : ℕ × Flags :=
  match addVal (r.mode == .rd) x y with
  | some v => roundVal f r v
  | none => invalidResult f

include hf in
/-- Opposite infinities have no sum. -/
theorem sumOf_opposite {s s' : Bool} (h : s ≠ s') : sumOf f r (.inf s) (.inf s') = invalid f := by
  simp [sumOf, addVal, h, invalid_eq hf]

include hf in
/-- An infinity plus a value that is no opposite infinity. -/
theorem sumOf_inf_left {s : Bool} {y : FVal} (h : y = .inf s ∨ ∃ t n k, y = .fin t n k) :
    sumOf f r (.inf s) y = (signed f s (limits f).2.1, 0) := by
  rcases h with rfl | ⟨t, n, k, rfl⟩ <;> simp [sumOf, addVal, roundVal, packInf_eq hf]

include hf in
theorem sumOf_inf_right {s t : Bool} {m : ℕ} {e : ℤ} : sumOf f r (.fin t m e) (.inf s) = (signed f s (limits f).2.1, 0) := by
  simp [sumOf, addVal, roundVal, packInf_eq hf]

include hf in
/-- The sum of two numbers is exact and rounded once. -/
theorem sumOf_fin (hr : r.rnd < 65536) (s t : Bool) (m n : ℕ) (e k : ℤ) :
    SumRounds f r ((if s = true then -((m : ℝ) * 2 ^ e) else m * 2 ^ e) + if t = true then -((n : ℝ) * 2 ^ k) else n * 2 ^ k)
      (if s = t ∧ m = 0 ∧ n = 0 then s else decide (r.mode = .rd)) (sumOf f r (.fin s m e) (.fin t n k)) := by
  obtain ⟨v, sum, rounds⟩ := sum_rounds hf hr s t m n e k
  rw [sumOf, sum]
  exact rounds

include hf in
/-- What a pattern that is no NaN unpacks to. -/
theorem unpack_cases (ha : nanPat f a = false) : (infPat f a = true ∧ unpackFloat f a = .inf (negative f a)) ∨
    (infPat f a = false ∧ ∃ m e, unpackFloat f a = .fin (negative f a) m e ∧ (m : ℝ) * 2 ^ e = magnitude f a ∧ (m = 0 ↔ body f a = 0)) := by
  cases ia : infPat f a
  · exact .inr ⟨rfl, unpack_num hf ha ia⟩
  · exact .inl ⟨rfl, unpack_inf hf ia⟩

/-! ### FADD, FSUB, FMUL, FFMA, FSCALE (R201) -/

/-- B as FADD and FSUB take it: FSUB inverts its sign. -/
def addend (f : Fmt) (sub : Bool) (b : ℕ) : ℕ := if sub = true then signed f (!negative f b) (body f b) else b

include hf in
theorem addend_unpack (sub : Bool) (hb : nanPat f b = false) :
    (if sub = true then negVal (unpackFloat f b) else unpackFloat f b) = unpackFloat f (addend f sub b) ∧
      nanPat f (addend f sub b) = false ∧ infPat f (addend f sub b) = infPat f b ∧ body f (addend f sub b) = body f b ∧
      (b < 2 * signWeight f → addend f sub b < 2 * signWeight f) := by
  cases sub
  · exact ⟨rfl, hb, rfl, rfl, id⟩
  · obtain ⟨sameBody, -, nan, inf, -⟩ := flip_parts (f := f) (!negative f b) b
    exact ⟨negVal_unpack hf hb, nan.trans hb, inf, sameBody, fun _ => (signed_parts f _ (body_lt f b)).1⟩

include hf in
/-- The sum of two patterns that are no NaN: invalid, an infinity, or exact and rounded once. -/
theorem sumOf_unpack (hr : r.rnd < 65536) (ha : a < 2 * signWeight f) (hb : b < 2 * signWeight f) (na : nanPat f a = false)
    (nb : nanPat f b = false) : let out := sumOf f r (unpackFloat f a) (unpackFloat f b)
    (infPat f a = true → infPat f b = true → negative f a ≠ negative f b → out = invalid f) ∧
    (infPat f a = true → (infPat f b = true → negative f a = negative f b) → out = (a, 0)) ∧
    (infPat f a = false → infPat f b = true → out = (b, 0)) ∧
    (infPat f a = false → infPat f b = false → SumRounds f r (number f a + number f b)
      (if body f a = 0 ∧ body f b = 0 ∧ negative f a = negative f b then negative f a else decide (r.mode = .rd)) out) := by
  rcases unpack_cases hf na with ⟨ia, ua⟩ | ⟨ia, m, e, ua, va, za⟩ <;>
    rcases unpack_cases hf nb with ⟨ib, ub⟩ | ⟨ib, n, k, ub, vb, zb⟩ <;> simp only [ia, ib, ua, ub]
  · refine ⟨fun _ _ => sumOf_opposite hf, fun _ same => ?_, nofun, nofun⟩
    rw [← same trivial, sumOf_inf_left hf (.inl rfl), inf_self ha ia]
  · refine ⟨nofun, fun _ _ => ?_, nofun, nofun⟩
    rw [sumOf_inf_left hf (.inr ⟨_, _, _, rfl⟩), inf_self ha ia]
  · refine ⟨nofun, nofun, fun _ _ => ?_, nofun⟩
    rw [sumOf_inf_right hf, inf_self hb ib]
  · refine ⟨nofun, nofun, nofun, fun _ _ => ?_⟩
    have sum := sumOf_fin hf hr (negative f a) (negative f b) m n e k
    rw [← num_of va, ← num_of vb] at sum
    convert sum using 2
    rw [za, zb, and_comm, and_assoc, and_comm, and_assoc]

include hf in
/-- FADD and FSUB in a format. -/
theorem sumRule : SumRule f := by
  intro r sub a b hr ha hb
  have nan := nanRule_eq hf [a, b] (by simp [ha, hb])
  simp only [List.map_cons, List.map_nil] at nan
  refine ⟨fun n hn => ?_, fun none => ?_⟩
  · simp only [addBits, nan, hn]
  · obtain ⟨na, nb⟩ : nanPat f a = false ∧ nanPat f b = false := by simpa using firstNaN_none.mp none
    obtain ⟨unpacks, nb', ib', zb', small⟩ := addend_unpack hf sub nb
    have sum : addBits f r sub a b = sumOf f r (unpackFloat f a) (unpackFloat f (addend f sub b)) := by
      rw [← unpacks]
      simp only [addBits, nan, none]
      rfl
    have rule := sumOf_unpack hf hr ha (small hb) na nb'
    rw [ib', zb'] at rule
    rw [sum]
    exact rule

include hf in
/-- FMUL in a format. -/
theorem productRule : ProductRule f := by
  intro r a b hr ha hb
  have nan := nanRule_eq hf [a, b] (by simp [ha, hb])
  simp only [List.map_cons, List.map_nil] at nan
  refine ⟨fun n hn => ?_, fun none => ?_⟩
  · simp only [mulBits, nan, hn]
  · obtain ⟨na, nb⟩ : nanPat f a = false ∧ nanPat f b = false := by simpa using firstNaN_none.mp none
    obtain ⟨bad, infinite, finite⟩ := mulVal_unpack hf na nb
    refine ⟨fun zero => ?_, fun inf za zb => ?_, fun ia ib => ?_⟩
    · simp only [mulBits, nan, none, bad (by simpa [zeroTimesInf] using zero), invalid_eq hf]
    · simp only [mulBits, nan, none, infinite (by simp [zeroTimesInf, za, zb]) (by simpa using inf), roundVal, packInf_eq hf]
      rfl
    · obtain ⟨m, e, product, value, -⟩ := finite (by simp [ia, ib])
      simp only [mulBits, nan, none, product, roundVal, ← value]
      exact roundTo_rounds hf hr _ m e

/-- An operand that is no NaN is passed over. -/
theorem firstNaN_cons (ha : nanPat f a = false) (l : List ℕ) : firstNaN f (a :: l) = firstNaN f l := by
  have quiet : signals f a = false := by simp [signals, ha]
  simp [firstNaN, ha, quiet]

/-- A further operand adds its NV alone where an earlier one is a NaN. -/
theorem firstNaN_append {l : List ℕ} {n : ℕ × Flags} (h : firstNaN f l = some n) (c : ℕ) :
    firstNaN f (l ++ [c]) = some (n.1, n.2 ||| if signals f c = true then flagNV else 0) := by
  unfold firstNaN at h ⊢
  obtain ⟨p, found, rfl⟩ := Option.map_eq_some_iff.mp h
  rw [List.find?_append, found, List.any_append, List.any_cons, List.any_nil, Bool.or_false]
  rw [Option.some_or, Option.map_some]
  cases l.any (signals f) <;> cases signals f c <;> simp

/-- The product of two numbers from its sign and its magnitude. -/
theorem number_mul (f : Fmt) (a b : ℕ) : number f a * number f b =
    if (negative f a != negative f b) = true then -(magnitude f a * magnitude f b) else magnitude f a * magnitude f b := by
  unfold number
  cases negative f a <;> cases negative f b <;> simp

/-- A NaN is no infinity, and no zero where the format's infinity lies above it. -/
theorem body_of_nan (h : nanPat f a = true) : infPat f a = false ∧ body f a ≠ 0 := by
  simp only [nanPat, decide_eq_true_eq] at h
  exact ⟨by simp [infPat, h.ne'], by omega⟩

/-- Zero times an infinity holds no NaN. -/
theorem zeroTimesInf_of_nan {n : ℕ × Flags} (h : firstNaN f [a, b] = some n) : zeroTimesInf f a b = false := by
  have found : nanPat f a = true ∨ nanPat f b = true := by
    by_contra clean
    have none : firstNaN f [a, b] = none := firstNaN_none.mpr (by simpa using clean)
    exact nomatch none.symm.trans h
  unfold zeroTimesInf
  rcases found with nan | nan <;> simp [body_of_nan nan]

include hf in
/-- FFMA in a format. -/
theorem fusedRule : FusedRule f := by
  intro r a b c hr ha hb hc neg zeroInf infinite out
  have nanAB := nanRule_eq hf [a, b] (by simp [ha, hb])
  have nanC := nanRule_eq hf [c] (by simp [hc])
  simp only [List.map_cons, List.map_nil] at nanAB nanC
  have signalling := (isNaN_unpack hf hc).2
  cases ab : firstNaN f [a, b] with
  | some n =>
    have all : firstNaN f [a, b, c] = _ := firstNaN_append ab c
    have noZero : zeroInf = false := zeroTimesInf_of_nan ab
    refine ⟨fun n' hn' => ?_, fun none => nomatch all.symm.trans none⟩
    obtain rfl := Option.some.inj (all.symm.trans hn')
    simp only [out, fmaBits, nanAB, ab, signalling, noZero]
    rfl
  | none =>
    obtain ⟨na, nb⟩ : nanPat f a = false ∧ nanPat f b = false := by simpa using firstNaN_none.mp ab
    rw [firstNaN_cons na, firstNaN_cons nb]
    obtain ⟨bad, toInf, toFin⟩ := mulVal_unpack hf na nb
    cases onlyC : firstNaN f [c] with
    | some n =>
      refine ⟨fun n' hn' => ?_, nofun⟩
      obtain rfl := Option.some.inj hn'
      cases zero : zeroInf
      · have ⟨p, product⟩ : ∃ p, mulVal (unpackFloat f a) (unpackFloat f b) = some p := by
          cases inf : infinite
          · obtain ⟨m, e, product, -⟩ := toFin inf
            exact ⟨_, product⟩
          · exact ⟨_, toInf zero inf⟩
        simp only [out, fmaBits, nanAB, ab, product, nanC, onlyC]
        rfl
      · have nv : n.2 ||| flagNV = flagNV := by
          obtain ⟨p, -, rfl⟩ := Option.map_eq_some_iff.mp onlyC
          dsimp only
          split <;> simp
        simp only [out, fmaBits, nanAB, ab, bad zero, nanC, onlyC, nv]
        rfl
    | none =>
      have nc : nanPat f c = false := by simpa using firstNaN_none.mp onlyC
      have fused {p : FVal} (product : mulVal (unpackFloat f a) (unpackFloat f b) = some p) : out = sumOf f r p (unpackFloat f c) := by
        simp only [out, fmaBits, nanAB, ab, product, nanC, onlyC]
        rfl
      refine ⟨nofun, fun _ => ⟨fun zero => ?_, fun noZero inf same => ?_, fun noZero inf ic opposite => ?_, fun fin ic => ?_,
        fun fin ic => ?_⟩⟩
      · simp only [out, fmaBits, nanAB, ab, bad zero, nanC, onlyC, invalid_eq hf]
      · rw [fused (toInf noZero inf)]
        refine sumOf_inf_left hf ?_
        rcases unpack_cases hf nc with ⟨ic, uc⟩ | ⟨-, m, e, uc, -⟩
        · exact .inl (by rw [uc, same ic])
        · exact .inr ⟨_, _, _, uc⟩
      · rw [fused (toInf noZero inf), unpack_inf hf ic]
        exact sumOf_opposite hf opposite.symm
      · obtain ⟨m, e, product, -, -⟩ := toFin fin
        rw [fused product, unpack_inf hf ic, sumOf_inf_right hf, inf_self hc ic]
      · obtain ⟨m, e, product, value, zero⟩ := toFin fin
        obtain ⟨n, k, uc, vc, zc⟩ := unpack_num hf nc ic
        have sum := sumOf_fin hf hr neg (negative f c) m n e k
        rw [← num_of vc, value, ← number_mul] at sum
        rw [fused product, uc]
        convert sum using 2
        rw [zero, zc, eq_comm (a := neg), ← and_assoc, and_comm]

end

/-- Infinities and zeros are no NaN. -/
theorem not_nan_of_inf {f : Fmt} {a : ℕ} (h : infPat f a = true ∨ body f a = 0) : nanPat f a = false := by
  by_contra nan
  obtain ⟨noInf, noZero⟩ := body_of_nan (by simpa using nan)
  simp [noInf, noZero] at h

/-- A zero rounds to itself. -/
theorem roundTo_zero {f : Fmt} (hf : fmtIsFloat f = true) (r : Rounding) (neg : Bool) (e : ℤ) :
    roundTo f r neg 0 e = (signed f neg 0, 0) := by
  simp [roundTo, ← signBit_eq hf neg 0]

/-- FSCALE multiplies by a power of two. -/
theorem scaleRule : ScaleRule := by
  have hf : fmtIsFloat .fp32 = true := rfl
  intro r a n hr ha
  have small : a < 2 * signWeight .fp32 := ha
  have nan := nanRule_eq hf [a] (by simpa using small)
  simp only [List.map_cons, List.map_nil] at nan
  have clean (na : nanPat .fp32 a = false) : firstNaN .fp32 [a] = none := firstNaN_none.mpr (by simpa using na)
  refine ⟨fun q hq => ?_, fun special => ?_, fun na ia => ?_⟩
  · simp only [scaleBits, nan, hq]
  · have na := not_nan_of_inf special
    rcases unpack_cases hf na with ⟨-, ua⟩ | ⟨ia, m, e, ua, -, zero⟩
    · simp only [scaleBits, ua]
      rfl
    · have hm : m = 0 := zero.mpr (by simpa [ia] using special)
      simp only [scaleBits, ua, hm]
      rfl
  · obtain ⟨m, e, ua, value, zero⟩ := unpack_num hf na ia
    have scaled : scaleBits r a n = roundTo .fp32 r (negative .fp32 a) m (e + n) := by
      by_cases hm : m = 0
      · have self := signed_self small
        rw [zero.mp hm] at self
        rw [hm, roundTo_zero hf, self]
        simp only [scaleBits, ua, hm]
        rfl
      · simp only [scaleBits, ua]
        exact if_neg (by simpa using hm)
    rw [scaled, ← value, mul_assoc, ← zpow_add₀ two_ne_zero]
    exact roundTo_rounds hf hr _ m (e + n)

/-! ### Order (R40, R202) -/

/-- Inverting the top bit of a word adds its weight. -/
theorem xor_top {p : ℕ} (hp : p < 2 ^ 32) : p ^^^ 2 ^ 31 = (p + 2 ^ 31) % 2 ^ 32 := by
  have low := Nat.xor_mod_two_pow (a := p) (b := 2 ^ 31) (n := 31)
  have high := Nat.xor_div_two_pow (a := p) (b := 2 ^ 31) (n := 31)
  rw [Nat.mod_self, Nat.xor_zero] at low
  rw [Nat.div_self (by positivity)] at high
  generalize p ^^^ 2 ^ 31 = x at *
  obtain top | top : p / 2 ^ 31 = 0 ∨ p / 2 ^ 31 = 1 := by omega
  · rw [top, Nat.zero_xor] at high
    omega
  · rw [top, Nat.xor_self] at high
    omega
/-- Keys are places in the total order. -/
theorem toKey_rank (p : Word) : ((toKey p).toNat : ℤ) = 2 ^ 31 + rank .fp32 p.toNat := by
  have hp := p.isLt
  have hw : signWeight .fp32 = 2 ^ 31 := rfl
  have neg : negative .fp32 p.toNat = p.msb := by
    rw [BitVec.msb_eq_decide, negative, hw]
    exact decide_eq_decide.mpr (by omega)
  have sign := BitVec.msb_eq_decide p
  unfold toKey rank body
  rw [neg, hw]
  cases top : p.msb
  · have low : p.toNat < 2 ^ 31 := by simpa [top] using sign
    have flip := xor_top hp
    rw [if_neg nofun, if_neg nofun, BitVec.toNat_xor, show (0x80000000#32).toNat = 2 ^ 31 from rfl, flip]
    omega
  · have high : 2 ^ 31 ≤ p.toNat := by simpa [top] using sign
    rw [if_pos rfl, if_pos rfl, show (0xFFFFFFFF#32) = BitVec.allOnes 32 from rfl, BitVec.xor_allOnes, BitVec.toNat_not]
    omega
/-- Magnitudes are no less than zero, and zero for a zero body alone. -/
theorem magnitude_sign (f : Fmt) (a : ℕ) : 0 ≤ magnitude f a ∧ (magnitude f a = 0 ↔ body f a = 0) := by
  have mono := mag_strictMono (fields f).2.1 (fields f).2.2
  have zero : mag (fields f).2.1 (fields f).2.2 0 = 0 := by simp [mag]
  rw [magnitude_eq, ← zero]
  exact ⟨mono.monotone (Nat.zero_le _), mono.injective.eq_iff⟩

/-- The places of patterns follow their numbers, −0 below +0. -/
theorem rank_lt_iff (f : Fmt) (a b : ℕ) :
    rank f a < rank f b ↔ number f a < number f b ∨
      (body f a = 0 ∧ body f b = 0 ∧ negative f a = true ∧ negative f b = false) := by
  have less (p q : ℕ) : magnitude f p < magnitude f q ↔ body f p < body f q :=
    (mag_strictMono (fields f).2.1 (fields f).2.2).lt_iff_lt
  obtain ⟨posA, zeroA⟩ := magnitude_sign f a
  obtain ⟨posB, zeroB⟩ := magnitude_sign f b
  unfold rank number
  cases negative f a <;> cases negative f b
  · simp [less]
  · have : ¬ magnitude f a < -magnitude f b := by linarith
    simp [this]
    omega
  · simp only [if_true, Bool.false_eq_true, if_false, and_self, and_true]
    refine ⟨fun _ => ?_, fun _ => by omega⟩
    rw [← zeroA, ← zeroB]
    by_contra none
    rw [not_or, not_lt] at none
    exact none.2 ⟨by linarith, by linarith⟩
  · simp [less]

section
variable {f : Fmt} (hf : fmtIsFloat f = true) {a b : ℕ}

/-- Two finite values compare as real numbers. -/
theorem cmpVal_fin (s t : Bool) (m n : ℕ) (e k : ℤ) :
    let x : ℝ := if s = true then -((m : ℝ) * 2 ^ e) else m * 2 ^ e
    let y : ℝ := if t = true then -((n : ℝ) * 2 ^ k) else n * 2 ^ k
    let c := cmpVal (.fin s m e) (.fin t n k)
    (x < y ∧ c = -1) ∨ (x = y ∧ c = 0) ∨ (y < x ∧ c = 1) := by
  have pos : (0 : ℝ) < 2 ^ (min e k) := by positivity
  rw [← scaledTo_real s m (min_le_left e k), ← scaledTo_real t n (min_le_right e k)]
  unfold cmpVal
  dsimp only
  rw [mul_lt_mul_iff_left₀ pos, mul_lt_mul_iff_left₀ pos, mul_left_inj' pos.ne', Int.cast_lt, Int.cast_lt, Int.cast_inj]
  generalize scaledTo s m e (min e k) = v
  generalize scaledTo t n k (min e k) = w
  rcases lt_trichotomy v w with less | rfl | more
  · exact .inl ⟨less, if_pos (by omega)⟩
  · exact .inr (.inl ⟨rfl, by simp⟩)
  · refine .inr (.inr ⟨more, ?_⟩)
    rw [if_neg (by omega), if_neg (by simp; omega)]

/-- An infinity lies beyond every number. -/
theorem body_lt_of_inf (ia : infPat f a = true) (nb : nanPat f b = false) (ib : infPat f b = false) : body f b < body f a := by
  simp only [infPat, nanPat, decide_eq_true_eq, decide_eq_false_iff_not, not_and] at ia nb ib
  have := ib ia.1
  omega

include hf in
/-- Comparison follows the total order but for zeros of two signs, which are equal. -/
theorem cmpVal_of_rank (na : nanPat f a = false) (nb : nanPat f b = false) :
    let c := cmpVal (unpackFloat f a) (unpackFloat f b)
    (rank f a < rank f b → c < 0 ∨ (c = 0 ∧ negative f a = true)) ∧
    (rank f b < rank f a → 0 < c ∨ (c = 0 ∧ negative f a = false)) := by
  rcases unpack_cases hf na with ⟨ia, ua⟩ | ⟨ia, m, e, ua, va, za⟩ <;>
    rcases unpack_cases hf nb with ⟨ib, ub⟩ | ⟨ib, n, k, ub, vb, zb⟩
  · have same : body f a = body f b := by
      simp only [infPat, decide_eq_true_eq] at ia ib
      rw [ia.2, ib.2]
    simp only [ua, ub, cmpVal, rank, same]
    cases negative f a <;> cases negative f b <;> simp <;> omega
  · have less := body_lt_of_inf ia nb ib
    simp only [ua, ub, cmpVal, rank]
    cases negative f a <;> cases negative f b <;> simp <;> omega
  · have less := body_lt_of_inf ib na ia
    simp only [ua, ub, cmpVal, rank]
    cases negative f a <;> cases negative f b <;> simp <;> omega
  · rw [rank_lt_iff, rank_lt_iff, num_of va, num_of vb, ua, ub]
    have order := cmpVal_fin (negative f a) (negative f b) m n e k
    dsimp only at order ⊢
    rcases order with ⟨less, c⟩ | ⟨same, c⟩ | ⟨more, c⟩ <;> rw [c]
    · refine ⟨fun _ => .inl (by norm_num), ?_⟩
      rintro (more | ⟨b0, a0, -, -⟩)
      · exact absurd more less.not_gt
      · simp [za.mpr a0, zb.mpr b0] at less
    · exact ⟨fun h => .inr ⟨rfl, (h.resolve_left same.not_lt).2.2.1⟩, fun h => .inr ⟨rfl, (h.resolve_left same.not_gt).2.2.2⟩⟩
    · refine ⟨?_, fun _ => .inl (by norm_num)⟩
      rintro (less | ⟨a0, b0, -, -⟩)
      · exact absurd less more.not_gt
      · simp [za.mpr a0, zb.mpr b0] at more

/-- A pattern is its place in the total order. -/
theorem rank_inj (ha : a < 2 * signWeight f) (hb : b < 2 * signWeight f) (h : rank f a = rank f b) : a = b := by
  rw [← signed_self ha, ← signed_self hb]
  unfold rank at h
  cases sa : negative f a <;> cases sb : negative f b <;> simp only [sa, sb, if_true, Bool.false_eq_true, if_false] at h
  · rw [Int.ofNat_inj.mp h]
  · omega
  · omega
  · rw [show body f a = body f b by omega]

include hf in
/-- FMIN and FMAX in a format. -/
theorem minMaxRule : MinMaxRule f := by
  intro a b ha hb nv
  obtain ⟨nanA, sigA⟩ := isNaN_unpack hf ha
  obtain ⟨nanB, sigB⟩ := isNaN_unpack hf hb
  have flags : (if (isSNaN (unpackFloat f a) || isSNaN (unpackFloat f b)) = true then flagNV else 0#6) = nv := by
    simp [nv, sigA, sigB]
  refine ⟨fun na nb m => ?_, fun na nb m => ?_, fun na nb m => ?_, fun na nb => ?_⟩
  · have nan := nanRule_eq hf [a, b] (by simp [ha, hb])
    simp only [List.map_cons, List.map_nil] at nan
    simp only [minMaxBits, nanA, nanB, na, nb, nan, firstNaN]
    simp [na, nv]
  · simp only [minMaxBits, nanA, nanB, na, nb, flags]
    rfl
  · simp only [minMaxBits, nanA, nanB, na, nb, flags]
    rfl
  · obtain ⟨less, more⟩ := cmpVal_of_rank hf na nb
    have quiet : nv = 0 := by simp [nv, signals, na, nb]
    have sign := (parts_eq hf a).1
    simp only [minMaxBits, nanA, nanB, na, nb, flags, quiet, sign, Bool.and_self, Bool.false_eq_true, if_false, if_true]
    rcases lt_trichotomy (rank f a) (rank f b) with lt | eq | gt
    · have first : (decide (cmpVal (unpackFloat f a) (unpackFloat f b) < 0) ||
          cmpVal (unpackFloat f a) (unpackFloat f b) == 0 && negative f a) = true := by
        rcases less lt with c | ⟨c, neg⟩
        · simp [c]
        · simp [c, neg]
      simp [first, lt, lt.not_gt]
    · simp [rank_inj ha hb eq]
    · have second : (decide (cmpVal (unpackFloat f a) (unpackFloat f b) < 0) ||
          cmpVal (unpackFloat f a) (unpackFloat f b) == 0 && negative f a) = false := by
        rcases more gt with c | ⟨c, neg⟩
        · simp [c.not_gt, c.ne']
        · simp [c, neg]
      simp [second, gt, gt.not_gt]

end

/-- Keys and the words that choose by them follow the total order. -/
theorem keyRule : KeyRule := by
  have less (a b : Word) : (toKey a).toNat < (toKey b).toNat ↔ rank .fp32 a.toNat < rank .fp32 b.toNat := by
    have ka := toKey_rank a
    have kb := toKey_rank b
    omega
  refine ⟨toKey_rank, fun a b => ⟨?_, ?_⟩, fun f a b _ _ => rank_lt_iff f a b⟩
  · simp only [minKey, less]
  · simp only [maxKey, less]

/-! ### Words that compute lane by lane (R188) -/

/-- A word that writes a 32-bit result and its flags. -/
theorem lane32_completes {i : Instr} {s : State} {x : Iss} (h : issueOf i s = some x) {body : Iss → Act} (d : RegField)
    (f : ℕ → Word × Flags) (run : exec i s = issue i s body) (hb : body x = x.lane32 d f) : ∃ t, exec i s = .next t ∧
      TeamStep s t x ((x.t.write32 d fun l => (f l).1).orFlags (orAll (x.t.run.map fun l => (f l).2))) :=
  run ▸ lane32_steps h body d _ _ _ hb rfl

/-- No flags change nothing. -/
theorem orFlags_none (t : Team) (ls : List ℕ) : t.orFlags (orAll (ls.map fun _ => 0)) = t := by
  have none : orAll (ls.map fun _ => 0) = 0 := by simpa using orAll_ite 0 ls fun _ => true
  rw [none]
  simp [Team.orFlags]

/-- A word that writes a 32-bit result without flags. -/
theorem lane_completes {i : Instr} {s : State} {x : Iss} (h : issueOf i s = some x) {body : Iss → Act} (d : RegField)
    {v : ℕ → Word} (w : ℕ → Word) (run : exec i s = issue i s body) (hb : body x = x.lane d v) (hv : ∀ l, v l = w l) :
    ∃ t, exec i s = .next t ∧ TeamStep s t x ((x.t.write32 d w).orFlags (orAll (x.t.run.map fun _ => 0))) := by
  obtain rfl := funext hv
  rw [orFlags_none, run]
  exact lane_steps h body d v hb

/-- FABS clears the sign bit. -/
theorem abs_eq (w : Word) : w &&& 0x7FFFFFFF#32 = BitVec.ofNat 32 (w.toNat % 2 ^ 31) := by
  apply BitVec.eq_of_toNat_eq
  rw [BitVec.toNat_and, show (0x7FFFFFFF#32).toNat = 2 ^ 31 - 1 from rfl, Nat.and_two_pow_sub_one_eq_mod, BitVec.toNat_ofNat]
  omega

/-- FNEG inverts the sign bit. -/
theorem neg_eq (w : Word) : w ^^^ 0x80000000#32 = BitVec.ofNat 32 (w.toNat + 2 ^ 31) := by
  apply BitVec.eq_of_toNat_eq
  rw [BitVec.toNat_xor, show (0x80000000#32).toNat = 2 ^ 31 from rfl, xor_top w.isLt, BitVec.toNat_ofNat]

/-- An FP32 word completes with its results and their flags. -/
theorem fpResult_completes {i : Instr} {d : RegField} {f : ℕ → Word × Flags} {s : State} {x : Iss} (h : issueOf i s = some x)
    (result : fpResult x i = some (d, f)) : ∃ t, exec i s = .next t ∧
      TeamStep s t x ((x.t.write32 d fun l => (f l).1).orFlags (orAll (x.t.run.map fun l => (f l).2))) := by
  unfold fpResult at result
  split at result <;> cases result
  case h_1 a b => exact lane32_completes h d _ (show execFadd d a b s = _ from rfl) rfl
  case h_2 a b => exact lane32_completes h d _ (show execFsub d a b s = _ from rfl) rfl
  case h_3 a b => exact lane32_completes h d _ (show execFmul d a b s = _ from rfl) rfl
  case h_4 a b => exact lane32_completes h d _ (show execFfma d a b s = _ from rfl) rfl
  case h_5 a b => exact lane32_completes h d _ (show execFscale d a b s = _ from rfl) rfl
  case h_6 a b => exact lane32_completes h d _ (show execFmin d a b s = _ from rfl) rfl
  case h_7 a b => exact lane32_completes h d _ (show execFmax d a b s = _ from rfl) rfl
  case h_8 a b => exact lane_completes h d _ (show execFmint d a b s = _ from rfl) rfl fun _ => rfl
  case h_9 a b => exact lane_completes h d _ (show execFmaxt d a b s = _ from rfl) rfl fun _ => rfl
  case h_10 a => exact lane_completes h d _ (show execFabs d a s = _ from rfl) rfl fun _ => abs_eq _
  case h_11 a => exact lane_completes h d _ (show execFneg d a s = _ from rfl) rfl fun _ => neg_eq _
  case h_12 a => exact lane_completes h d _ (show execFclass d a s = _ from rfl) rfl fun _ => rfl
  case h_13 a p => exact lane_completes h d _ (show execFsel d a p s = _ from rfl) rfl fun _ => rfl

/-! ### The rounding of a lane's result (R39, R191) -/

/-- One round of R39 on a number. -/
def grainNat (x : ℕ) : ℕ :=
  let x := (x ^^^ x / 2 ^ 31) * 0xA3C59AC25F1B6D27 % 2 ^ 64
  let x := (x ^^^ x / 2 ^ 27) * 0x8F3ED5B12C497A63 % 2 ^ 64
  x ^^^ x / 2 ^ 33

theorem grains_succ (n x : ℕ) : grains (n + 1) x = grains n (grainNat x) := by
  delta grains grainNat
  rfl

/-- The model's round of the grain generator is that of R39. -/
theorem grainRound_toNat (x : DWord) : (grainRound x).toNat = grainNat x.toNat := by
  have step (x c : DWord) (k : ℕ) : ((x ^^^ x >>> k) * c).toNat = (x.toNat ^^^ x.toNat / 2 ^ k) * c.toNat % 2 ^ 64 := by
    rw [BitVec.toNat_mul, BitVec.toNat_xor, BitVec.toNat_ushiftRight, Nat.shiftRight_eq_div_pow]
  unfold grainRound grainNat
  dsimp only
  rw [BitVec.toNat_xor, BitVec.toNat_ushiftRight, Nat.shiftRight_eq_div_pow, step, step]
  simp only [BitVec.toNat_ofNat, Nat.reducePow, Nat.reduceMod]

/-- The model's draw is that of R39. -/
theorem grainDraw_eq {row col : ℕ} (hr : row < 2 ^ 32) (hc : col < 2 ^ 32) (seed : DWord) :
    grainDraw (BitVec.ofNat 32 row) (BitVec.ofNat 32 col) seed = draw row col seed.toNat := by
  have start : ((BitVec.ofNat 32 row ++ BitVec.ofNat 32 col) ^^^ (seed ^^^ 0x8000000000000000#64)).toNat =
      (row * 2 ^ 32 + col) ^^^ (seed.toNat ^^^ 2 ^ 63) := by
    rw [BitVec.toNat_xor, BitVec.toNat_xor, BitVec.toNat_append, BitVec.toNat_ofNat, BitVec.toNat_ofNat, Nat.mod_eq_of_lt hr,
      Nat.mod_eq_of_lt hc, Nat.shiftLeft_eq, Nat.mul_comm, ← Nat.two_pow_add_eq_or_of_lt hc]
    rfl
  have rounds : grains 3 ((row * 2 ^ 32 + col) ^^^ (seed.toNat ^^^ 2 ^ 63)) =
      (grain (BitVec.ofNat 32 row) (BitVec.ofNat 32 col) (seed ^^^ 0x8000000000000000#64)).toNat := by
    rw [← start, grains_succ, grains_succ, grains_succ, ← grainRound_toNat, ← grainRound_toNat, ← grainRound_toNat]
    rfl
  unfold grainDraw draw
  rw [rounds, BitVec.extractLsb'_toNat, Nat.shiftRight_eq_div_pow]
  exact Nat.mod_eq_of_lt (by omega)

/-- A lane's result is rounded in the team's mode, under SR with the lane's draw. -/
theorem roundingRule : RoundingRule := by
  intro x sat l h hl ht hh r
  have draws : r.mode = .sr → r.rnd = draw (x.g.gid % 65536 * 65536 + x.t.teamId * 1024 + l) (x.t.srcnt.toNat * 2 + h)
      x.t.dropseed.toNat := by
    intro sr
    have count := x.t.srcnt.isLt
    exact (if_pos sr).trans (grainDraw_eq (by omega) (by omega) _)
  refine ⟨rfl, ?_, fun p hint named => ?_, fun unnamed => ?_, draws⟩
  · simp only [r, Iss.rounding]
    split
    · exact BitVec.isLt _
    · norm_num
  · simp only [r, Iss.rounding, Team.mode, hint, named, if_false]
  · simp only [r, Iss.rounding, Team.mode]
    split
    · rename_i p hint
      rw [if_pos (unnamed p hint)]
    · rfl

/-- Settles O4, from one rule for each operation in FP32. -/
theorem floatResults : Obligations.FloatResults :=
  ⟨fun _ _ _ _ _ h result => fpResult_completes h result, roundingRule, sumRule rfl, productRule rfl, fusedRule rfl, scaleRule,
    minMaxRule rfl, keyRule⟩

end Sys2Proof.Laws

/-!
SUPPORT. Conversions (R211, R212, R214 to R216): a float between formats, to and from integers and to E8M0, with the NaNs of R26; E8M0 and
the formats of 16 bits to FP32, which holds their values exactly; DEQ; and the words that use them.
-/

namespace Sys2Proof.Laws

open Sys2Proof.Machine Sys2Proof.Claim

/-! ### Patterns wider than their format -/

/-- Bits above the sign do not count. -/
theorem mod_parts (f : Fmt) (p : ℕ) :
    body f (p % (2 * signWeight f)) = body f p ∧ negative f (p % (2 * signWeight f)) = negative f p := by
  unfold body negative
  refine ⟨Nat.mod_mod_of_dvd _ (Dvd.intro_left 2 rfl), ?_⟩
  rw [Nat.mul_comm, Nat.mod_mul_right_div_self, Nat.mod_mod]

/-- Unpacking reads the sign and the body alone. -/
theorem unpack_congr {f : Fmt} (hf : fmtIsFloat f = true) {p q : ℕ} (sameBody : body f p = body f q)
    (sameSign : negative f p = negative f q) : unpackFloat f p = unpackFloat f q := by
  obtain ⟨sp, ep, mp⟩ := parts_eq hf p
  obtain ⟨sq, eq, mq⟩ := parts_eq hf q
  unfold unpackFloat
  dsimp only
  rw [sp, ep, mp, sq, eq, mq, sameBody, sameSign]

/-! ### NaNs between formats (R26, R36) -/

/-- The payload of a NaN as it is unpacked. -/
def payload (f : Fmt) (p : ℕ) : ℕ := if f = .e4m3 then 2 ^ 22 else body f p % 2 ^ (fields f).2.1 * 2 ^ (23 - (fields f).2.1)

/-- A NaN unpacks to its sign and its payload. -/
theorem unpack_payload {f : Fmt} (hf : fmtIsFloat f = true) {p : ℕ} (h : nanPat f p = true) :
    unpackFloat f p = .nan (negative f p) (payload f p) := by
  obtain ⟨sign, ex, frac⟩ := parts_eq hf p
  have small := body_lt f p
  simp only [nanPat, decide_eq_true_eq] at h
  unfold unpackFloat payload
  dsimp only
  rw [sign, ex, frac]
  generalize body f p = b at *
  cases f <;> simp [fmtIsFloat] at hf <;> simp [limits, fields, signWeight] at h small <;> simp [fmtExp, fmtMan, fields]
  case e4m3 => intro below; omega
  all_goals rw [if_pos (by omega), if_neg (by omega)]

/-- A payload cut or extended at the right. -/
theorem payload_scale (m : ℕ) {a d : ℕ} (ha : a ≤ 23) (hd : d ≤ 23) : m * 2 ^ (23 - a) / 2 ^ (23 - d) = m * 2 ^ d / 2 ^ a := by
  have num : 2 ^ (23 - a) * 2 ^ (a + d) = 2 ^ d * 2 ^ 23 := by rw [← pow_add, ← pow_add]; congr 1; omega
  have den : 2 ^ (23 - d) * 2 ^ (a + d) = 2 ^ a * 2 ^ 23 := by rw [← pow_add, ← pow_add]; congr 1; omega
  calc m * 2 ^ (23 - a) / 2 ^ (23 - d) = m * (2 ^ (23 - a) * 2 ^ (a + d)) / (2 ^ (23 - d) * 2 ^ (a + d)) := by
        rw [← mul_assoc, Nat.mul_div_mul_right _ _ (by positivity)]
    _ = m * 2 ^ d / 2 ^ a := by rw [num, den, ← mul_assoc, Nat.mul_div_mul_right _ _ (by positivity)]

/-- A NaN in another format. -/
theorem packNaN_eq (fa : Fmt) {fd : Fmt} (hd : fmtIsFloat fd = true) (p : ℕ) :
    packNaN fd (negative fa p) (payload fa p) = nanTo fa fd p := by
  have fits (f : Fmt) : (fields f).2.1 ≤ 23 := by cases f <;> simp [fields]
  by_cases small : fd = .e4m3 ∨ fd = .e5m2
  · rcases small with rfl | rfl <;> simp only [packNaN, nanTo, or_true, true_or, if_true] <;> exact signBit_eq rfl _ _
  · rw [not_or] at small
    have packs (pay : ℕ) : packNaN fd (negative fa p) pay = signed fd (negative fa p) ((limits fd).2.1 + 2 ^ ((fields fd).2.1 - 1) +
        pay / 2 ^ (23 - (fields fd).2.1) % 2 ^ ((fields fd).2.1 - 1)) := by
      rw [← signBit_eq hd]
      cases fd <;> simp [fmtIsFloat] at hd <;> simp [packNaN, fmtMan, fmtExp, fields, limits, Nat.add_assoc] at small ⊢
    rw [packs, nanTo]
    congr 1
    by_cases eight : fa = .e4m3
    · rw [if_pos (.inl eight), payload, if_pos eight]
      cases fd <;> simp [fmtIsFloat] at hd <;> simp [fields, limits] at small ⊢
    · rw [if_neg (by simp [eight, small]), payload, if_neg eight, payload_scale _ (fits fa) (fits fd)]

/-! ### Conversions of a float (R28, R36) -/

/-- A conversion of a float between formats: the value converted, with NV for a signalling NaN. -/
theorem convBits_float {fa fd : Fmt} (ha : fmtIsFloat fa = true) (ne : fa ≠ fd) (r : Rounding) (p : ℕ) :
    convBits fa fd r p = ((valToFmt fd r (unpackFloat fa p)).1,
      (valToFmt fd r (unpackFloat fa p)).2 ||| if isSNaN (unpackFloat fa p) = true then flagNV else 0) := by
  cases fa <;> simp [fmtIsFloat] at ha <;> simp [convBits, ne, unpackVal] <;> rfl

/-- A value converted to a float format. -/
theorem valToFmt_float {fd : Fmt} (hd : fmtIsFloat fd = true) (r : Rounding) (neg : Bool) (m : ℕ) (e : ℤ) :
    valToFmt fd r (.nan neg m) = (packNaN fd neg m, 0) ∧
    valToFmt fd r (.inf neg) = (if fd = .e4m3 ∨ r.sat = true then (signed fd neg (limits fd).1, flagOF)
      else (signed fd neg (limits fd).2.1, 0)) ∧
    valToFmt fd r (.fin neg m e) = roundTo fd r neg m e := by
  obtain ⟨-, -, -, max, -⟩ := fields_of_float hd
  rw [← packInf_eq hd, ← max, ← signBit_eq hd]
  cases fd <;> simp [fmtIsFloat] at hd <;> simp [valToFmt, roundVal]

/-- R36 to a float format. -/
theorem convBits_toFloat {fa fd : Fmt} (ha : fmtIsFloat fa = true) (hd : fmtIsFloat fd = true) (ne : fa ≠ fd) {r : Rounding}
    (hr : r.rnd < 65536) {p : ℕ} (hp : p < 2 * signWeight fa) : ConvertsFloat fa fd r p (convBits fa fd r p) := by
  obtain ⟨-, signalling⟩ := isNaN_unpack ha hp
  rw [convBits_float ha ne, ConvertsFloat, if_pos hd]
  refine ⟨fun nan => ?_, fun inf => ?_, fun nan inf => ?_⟩
  · rw [unpack_payload ha nan] at signalling ⊢
    rw [(valToFmt_float hd r _ _ 0).1, packNaN_eq fa hd, signalling]
    simp
  · rw [unpack_inf ha inf, (valToFmt_float hd r _ 0 0).2.1]
    simp [isSNaN]
  · obtain ⟨m, e, up, value, -⟩ := unpack_num ha nan inf
    rw [up, (valToFmt_float hd r _ m e).2.2, ← value]
    simpa [isSNaN] using roundTo_rounds hd hr (negative fa p) m e

/-- A number is a power of two where its significand is one. -/
theorem dyadic_pow_iff (m : ℕ) (e : ℤ) : (m : ℝ) * 2 ^ e = 2 ^ ((Nat.log2 m : ℤ) + e) ↔ m = 2 ^ Nat.log2 m := by
  rw [zpow_add₀ two_ne_zero, mul_left_inj' (by positivity), zpow_natCast]
  norm_cast

/-- A number to E8M0: the exponent, clamped, with NX unless it is a power of two and UF below the range. -/
theorem toE8M0_num (neg : Bool) {m : ℕ} (pos : m ≠ 0) (e : ℤ) :
    (toE8M0 (.fin neg m e)).1 = (max (-127) (min ((Nat.log2 m : ℤ) + e) 127) + 127).toNat ∧
    (toE8M0 (.fin neg m e)).2 = (if m = 2 ^ Nat.log2 m then 0 else flagNX) ||| if (Nat.log2 m : ℤ) + e < -127 then flagUF else 0 := by
  simp only [toE8M0, beq_iff_eq, if_neg pos]
  generalize 2 ^ Nat.log2 m = power
  by_cases small : (Nat.log2 m : ℤ) + e < -127
  · rw [if_pos small, if_pos small]
    exact ⟨by omega, rfl⟩
  · rw [if_neg small, if_neg small]
    exact ⟨by omega, by simp⟩

/-- R28 from a float format. -/
theorem convBits_toE8M0 {fa : Fmt} (ha : fmtIsFloat fa = true) (r : Rounding) (p : ℕ) :
    ConvertsFloat fa .e8m0 r p (convBits fa .e8m0 r p) := by
  rw [convBits_float ha (by rintro rfl; cases ha), ConvertsFloat, if_neg (by decide), if_pos rfl]
  refine ⟨fun special => ?_, fun zero => ?_, fun nan inf nonzero => ?_⟩
  · rcases special with nan | inf
    · rw [unpack_payload ha nan]
      by_cases signalling : isSNaN (.nan (negative fa p) (payload fa p)) = true <;> simp [valToFmt, toE8M0, signalling]
    · rw [unpack_inf ha inf]
      simp [valToFmt, toE8M0, isSNaN]
  · have nan := not_nan_of_inf (f := fa) (a := p) (.inr zero)
    have inf : infPat fa p = false := by
      by_contra h
      exact body_of_inf ha (by simpa using h) zero
    obtain ⟨m, e, up, -, isZero⟩ := unpack_num ha nan inf
    rw [up, isZero.2 zero]
    simp [valToFmt, toE8M0, isSNaN]
  · obtain ⟨m, e, up, value, isZero⟩ := unpack_num ha nan inf
    have pos : m ≠ 0 := mt isZero.1 nonzero
    have powers : (magnitude fa p = 2 ^ (Nat.log2 m + e : ℤ)) ↔ m = 2 ^ Nat.log2 m := by rw [← value, dyadic_pow_iff]
    obtain ⟨scale, flags⟩ := toE8M0_num (negative fa p) pos e
    rw [up, ← value, log_dyadic pos, value]
    refine ⟨scale, ?_⟩
    simpa [valToFmt, isSNaN, if_congr powers rfl rfl] using flags

/-! ### Conversions to integers (R36) -/

/-- The range of an integer format and its patterns are those of the model. -/
theorem int_format {fd : Fmt} (hd : fd = .int8 ∨ fd = .int32) (v : ℤ) :
    intRange fd = (intLo fd, intHi fd) ∧ packInt fd v = intPat fd v := by
  rcases hd with rfl | rfl <;> simp [intRange, intLo, intHi, packInt, intPat, wrapNat, fmtBits, BitVec.toNat_ofInt]

/-- A clamp leaves the values of the range, and gives the nearer bound for any other. -/
theorem clampInt_cases {fd : Fmt} (hd : fd = .int8 ∨ fd = .int32) (v : ℤ) :
    (v < intLo fd → clampInt fd v = intLo fd) ∧ (intHi fd < v → clampInt fd v = intHi fd) ∧
    (intLo fd ≤ v → v ≤ intHi fd → clampInt fd v = v) := by
  rcases hd with rfl | rfl <;> simp [clampInt, intLo, intHi] <;> omega

/-- R36 to an integer format. -/
theorem convBits_toInt {fa fd : Fmt} (ha : fmtIsFloat fa = true) (hd : fd = .int8 ∨ fd = .int32) {r : Rounding}
    (hr : r.rnd < 65536) (p : ℕ) : ConvertsFloat fa fd r p (convBits fa fd r p) := by
  have toInt (x : FVal) : valToFmt fd r x = floatToInt fd r x := by rcases hd with rfl | rfl <;> rfl
  have noFloat : fmtIsFloat fd = false ∧ fd ≠ .e8m0 ∧ fa ≠ fd := by
    rcases hd with rfl | rfl <;> exact ⟨rfl, nofun, by rintro rfl; cases ha⟩
  obtain ⟨notFloat, notScale, ne⟩ := noFloat
  rw [convBits_float ha ne, toInt, ConvertsFloat, if_neg (by simp [notFloat]), if_neg notScale, (int_format hd 0).1]
  refine ⟨fun nan => ?_, fun inf => ?_, fun nan inf n rounds => ?_⟩
  · rw [unpack_payload ha nan]
    by_cases signalling : isSNaN (.nan (negative fa p) (payload fa p)) = true <;> simp [floatToInt, signalling]
  · rw [unpack_inf ha inf]
    simp [floatToInt, isSNaN, (int_format hd _).2]
  · obtain ⟨m, e, up, value, -⟩ := unpack_num ha nan inf
    have unit : magnitude fa p = (m : ℝ) * 2 ^ e / 2 ^ (0 : ℤ) := by rw [value]; simp
    rw [unit, roundUnits_roundsTo hr] at rounds
    have exactness := roundUnits_exact hr (negative fa p) m e 0
    rcases units : roundUnits r (negative fa p) m e 0 with ⟨t, inexact⟩
    rw [units] at rounds exactness
    obtain rfl : n = t := rounds
    rw [value, zpow_zero, mul_one] at exactness
    simp only [up, floatToInt, roundInt, units, isSNaN, Bool.false_eq_true, if_false, (int_format hd _).2, beq_iff_eq]
    generalize (if negative fa p = true then -(n : ℤ) else n) = v
    obtain ⟨below, above, within⟩ := clampInt_cases hd v
    have ordered : intLo fd ≤ intHi fd := by rcases hd with rfl | rfl <;> decide
    refine ⟨fun h => ?_, fun h => ?_, fun h h' => ?_⟩
    · rw [below h, if_neg h.ne]
      simp
    · rw [above h, if_neg h.ne']
      simp
    · rw [within h h', if_pos rfl]
      cases inexact <;> simp_all

/-! ### Values that a format holds exactly -/

/-- The draw does not count where nothing is below the unit. -/
theorem roundTo_draw {f : Fmt} (hf : fmtIsFloat f = true) (r : Rounding) (neg : Bool) {m : ℕ} {e : ℤ}
    (fits : (Nat.log2 m : ℤ) ≤ (fields f).2.1) (low : 1 - (fields f).2.2 - (fields f).2.1 ≤ e) :
    roundTo f r neg m e = roundTo f { r with rnd := 0 } neg m e := by
  obtain ⟨man, bias, -⟩ := fields_of_float hf
  have units {q : ℤ} (h : q ≤ e) : roundUnits r neg m e q = roundUnits { r with rnd := 0 } neg m e q := by simp [roundUnits, h]
  unfold roundTo
  dsimp only
  rw [man, bias, units (by omega), units (by omega)]
  rfl

/-- A magnitude that the format holds passes exactly, in every mode. -/
theorem roundTo_exact {f : Fmt} (hf : fmtIsFloat f = true) (r : Rounding) (neg : Bool) {m : ℕ} {e : ℤ}
    (fits : (Nat.log2 m : ℤ) ≤ (fields f).2.1) (low : 1 - (fields f).2.2 - (fields f).2.1 ≤ e)
    (high : (m : ℝ) * 2 ^ e ≤ magnitude f (limits f).1) :
    ∃ b ≤ (limits f).1, roundTo f r neg m e = (signed f neg b, 0) ∧ magnitude f b = m * 2 ^ e := by
  rw [roundTo_draw hf r neg fits low]
  by_cases zero : m = 0
  · subst zero
    exact ⟨0, Nat.zero_le _, roundTo_zero hf _ neg e, by simpa using (magnitude_sign f 0).2.2 (Nat.zero_mod _)⟩
  have rounds := roundTo_rounds hf (r := { r with rnd := 0 }) (by norm_num) neg m e
  unfold Rounds at rounds
  dsimp only at rounds
  rw [log_dyadic zero] at rounds
  set unit : ℤ := max ((Nat.log2 m : ℤ) + e) (1 - (fields f).2.2) - (fields f).2.1 with hunit
  have above : unit ≤ e := by omega
  specialize rounds _ _ ((roundUnits_roundsTo (by norm_num) neg m e unit _).2 rfl) ((roundUnits_roundsTo (by norm_num) neg m e _ _).2 rfl)
  have whole := (roundUnits_exact (r := { r with rnd := 0 }) (by norm_num) neg m e unit).1 (by simp [roundUnits, above])
  rw [whole] at rounds
  obtain ⟨small, finite, sign, value, exact, -⟩ := rounds.2 high
  generalize roundTo f { r with rnd := 0 } neg m e = out at *
  obtain ⟨p, flags⟩ := out
  refine ⟨body f p, finite, Prod.ext ?_ (exact rfl), ?_⟩
  · rw [← sign]
    exact (signed_self small).symm
  · rw [← value, magnitude_eq, magnitude_eq, body, body, Nat.mod_mod]

/-- The largest value of FP32. -/
theorem magnitude_fp32_max : magnitude .fp32 (limits .fp32).1 = (2 ^ 24 - 1) * 2 ^ (104 : ℤ) := by
  norm_num [magnitude, fields, limits, body, signWeight]

/-- A dyadic number below the largest value of FP32. -/
theorem le_magnitude_fp32_max {m M : ℕ} {e E : ℤ} (hm : m ≤ M) (he : e ≤ E)
    (h : (M : ℝ) * 2 ^ E ≤ (2 ^ 24 - 1) * 2 ^ (104 : ℤ)) :
    (m : ℝ) * 2 ^ e ≤ magnitude .fp32 (limits .fp32).1 := by
  rw [magnitude_fp32_max]
  refine le_trans ?_ h
  have base : (1 : ℝ) ≤ 2 := by norm_num
  gcongr

/-- A number of a format of 16 bits as it is unpacked. -/
theorem unpack_narrow {f : Fmt} (hf : f = .bf16 ∨ f = .fp16) {p : ℕ} (nan : nanPat f p = false) (inf : infPat f p = false) :
    ∃ m e, unpackFloat f p = .fin (negative f p) m e ∧ -149 ≤ e ∧ (m ≤ 255 ∧ e ≤ 120 ∨ m ≤ 2047 ∧ e ≤ 5) := by
  have float : fmtIsFloat f = true := by rcases hf with rfl | rfl <;> rfl
  obtain ⟨sign, ex, frac⟩ := parts_eq float p
  simp only [nanPat, infPat, decide_eq_false_iff_not, not_and, not_lt] at nan inf
  unfold unpackFloat
  dsimp only
  rw [sign, ex, frac]
  generalize body f p = b at *
  rcases hf with rfl | rfl <;> simp [limits] at nan inf <;> simp [fields, fmtExp, fmtMan, fmtBias]
  · rw [if_neg (by omega)]
    by_cases subnormal : b < 128
    · rw [if_pos subnormal]
      exact ⟨_, _, rfl, by omega⟩
    · rw [if_neg subnormal]
      exact ⟨_, _, rfl, by omega⟩
  · rw [if_neg (by omega)]
    by_cases subnormal : b < 1024
    · rw [if_pos subnormal]
      exact ⟨_, _, rfl, by omega⟩
    · rw [if_neg subnormal]
      exact ⟨_, _, rfl, by omega⟩

/-- R28 to FP32. -/
theorem convBits_ofE8M0 (r : Rounding) {c : ℕ} (hc : c < 255) :
    ∃ p, convBits .e8m0 .fp32 r c = (p, 0) ∧ p < 2 ^ 31 ∧ magnitude .fp32 p = 2 ^ ((c : ℤ) - 127) := by
  have high : ((1 : ℕ) : ℝ) * 2 ^ ((c : ℤ) - 127) ≤ magnitude .fp32 (limits .fp32).1 :=
    le_magnitude_fp32_max le_rfl (show _ ≤ 127 by omega) (by norm_num)
  obtain ⟨p, bound, rounded, value⟩ := roundTo_exact rfl r false (by decide) (by simp [fields]; omega) high
  refine ⟨p, ?_, lt_of_le_of_lt bound (by norm_num [limits]), by simpa using value⟩
  have code : c % 256 = c := Nat.mod_eq_of_lt (by omega)
  simp [convBits, unpackVal, code, hc.ne, valToFmt, roundVal, isSNaN, rounded, signed]

/-- A pattern of FP32 as a word. -/
theorem signed_word (neg : Bool) {b : ℕ} (hb : b < signWeight .fp32) :
    negative .fp32 (BitVec.ofNat 32 (signed .fp32 neg b)).toNat = neg ∧ body .fp32 (BitVec.ofNat 32 (signed .fp32 neg b)).toNat = b := by
  obtain ⟨small, sameBody, sign⟩ := signed_parts .fp32 neg hb
  rw [BitVec.toNat_ofNat, Nat.mod_eq_of_lt (b := 2 ^ 32) small]
  exact ⟨sign, sameBody⟩

/-- The widening of R40. -/
theorem widen16_parts {f : Fmt} (hf : f = .bf16 ∨ f = .fp16) (p : ℕ) :
    negative .fp32 (widen16 f p).toNat = negative f p ∧
    (nanPat f p = false → infPat f p = false → body .fp32 (widen16 f p).toNat ≤ (limits .fp32).1 ∧
      magnitude .fp32 (widen16 f p).toNat = magnitude f p) ∧
    (nanPat f p = true ∨ infPat f p = true →
      body .fp32 (widen16 f p).toNat = 0x7F800000 + body f p % 2 ^ (fields f).2.1 * 2 ^ (23 - (fields f).2.1)) := by
  have float : fmtIsFloat f = true := by rcases hf with rfl | rfl <;> rfl
  by_cases nan : nanPat f p = true
  · have top : payload f p < 2 ^ 23 := by
      have below := Nat.mod_lt (body f p) (show 0 < 2 ^ (fields f).2.1 by positivity)
      rcases hf with rfl | rfl <;> simp [payload, fields] at below ⊢ <;> omega
    have pattern : widen16 f p = BitVec.ofNat 32 (signed .fp32 (negative f p) (0x7F800000 + payload f p)) := by
      rw [widen16, unpack_payload float nan, ← signBit_eq rfl, ← Nat.add_assoc]
    obtain ⟨sign, same⟩ := signed_word (negative f p) (b := 0x7F800000 + payload f p) (by simp [signWeight, fields]; omega)
    rw [pattern, sign, same]
    refine ⟨rfl, by simp [nan], fun _ => ?_⟩
    rcases hf with rfl | rfl <;> rfl
  by_cases inf : infPat f p = true
  · have pattern : widen16 f p = BitVec.ofNat 32 (signed .fp32 (negative f p) (limits .fp32).2.1) := by
      rw [widen16, unpack_inf float inf, ← packInf_eq rfl]
    obtain ⟨sign, same⟩ := signed_word (negative f p) (b := (limits .fp32).2.1) (by decide)
    rw [pattern, sign, same]
    refine ⟨rfl, by simp [inf], fun _ => ?_⟩
    simp only [infPat, decide_eq_true_eq] at inf
    rw [inf.2]
    rcases hf with rfl | rfl <;> simp [limits, fields]
  · obtain ⟨m, e, up, low, range⟩ := unpack_narrow hf (by simpa using nan) (by simpa using inf)
    have fits : Nat.log2 m ≤ 23 := by
      by_cases zero : m = 0
      · simp [zero]
      · exact Nat.le_of_lt_succ ((Nat.log2_lt zero).2 (by omega))
    have high : (m : ℝ) * 2 ^ e ≤ magnitude .fp32 (limits .fp32).1 := by
      rcases range with ⟨hm, he⟩ | ⟨hm, he⟩ <;> exact le_magnitude_fp32_max hm he (by norm_num)
    obtain ⟨b, bound, rounded, value⟩ := roundTo_exact rfl rneRounding (negative f p) (by exact_mod_cast fits) low high
    have pattern : widen16 f p = BitVec.ofNat 32 (signed .fp32 (negative f p) b) := by rw [widen16, up]; dsimp only; rw [rounded]
    obtain ⟨sign, same⟩ := signed_word (negative f p) (b := b) (lt_of_le_of_lt bound (by decide))
    obtain ⟨m', e', up', number, -⟩ := unpack_num float (by simpa using nan) (by simpa using inf)
    obtain ⟨-, rfl, rfl⟩ := FVal.fin.inj (up.symm.trans up')
    rw [pattern, sign, same, ← number, ← value, magnitude_eq, same, magnitude_eq, body,
      Nat.mod_eq_of_lt (lt_of_le_of_lt bound (by decide))]
    exact ⟨rfl, fun _ _ => ⟨bound, rfl⟩, by simp [nan, inf]⟩

/-! ### Conversions between integers and from integers (R36) -/

/-- An integer is read back from its pattern. -/
theorem signedOf_intPat (v : ℤ) :
    (-128 ≤ v → v ≤ 127 → signedOf 8 (intPat .int8 v) = v) ∧
    (-2147483648 ≤ v → v ≤ 2147483647 → signedOf 32 (intPat .int32 v) = v) := by
  simp only [signedOf, intPat, BitVec.toNat_ofInt, reduceCtorEq, if_true, if_false]
  norm_num
  omega

/-- INT8 and INT32. -/
theorem convBits_int (r : Rounding) {v : ℤ} (low : -2147483648 ≤ v) (high : v ≤ 2147483647) :
    convBits .int32 .int8 r (intPat .int32 v) =
      (intPat .int8 (max (-128) (min v 127)), if max (-128) (min v 127) = v then 0 else flagOF) ∧
    (max (-128) (min v 127) = v → convBits .int8 .int32 r (intPat .int8 v) = (intPat .int32 v, 0)) := by
  have clamp : clampInt .int8 v = max (-128) (min v 127) := rfl
  constructor
  · simp only [convBits, reduceCtorEq, beq_iff_eq, if_false, (signedOf_intPat v).2 low high, clamp, (int_format (.inl rfl) _).2,
      eq_comm (a := v)]
    rfl
  · intro inside
    simp only [convBits, reduceCtorEq, beq_iff_eq, if_false, (signedOf_intPat v).1 (by omega) (by omega), (int_format (.inr rfl) _).2]
    rfl

/-- An integer to a float format. -/
theorem convBits_ofInt {fa fd : Fmt} (ha : fa = .int8 ∨ fa = .int32) (hd : fmtIsFloat fd = true) {r : Rounding} (hr : r.rnd < 65536)
    {v : ℤ} (low : (intRange fa).1 ≤ v) (high : v ≤ (intRange fa).2) :
    Rounds fd r (decide (v < 0)) |(v : ℝ)| (convBits fa fd r (intPat fa v)) := by
  have unpacked : unpackVal fa (intPat fa v) = intVal v := by
    obtain ⟨byte, word⟩ := signedOf_intPat v
    rcases ha with rfl | rfl <;> simp only [intRange, reduceCtorEq, if_true, if_false] at low high
    · exact congrArg intVal (byte (by omega) (by omega))
    · exact congrArg intVal (word (by omega) (by omega))
  have converted : convBits fa fd r (intPat fa v) = roundTo fd r (decide (v < 0)) v.natAbs 0 := by
    rw [← (valToFmt_float hd r _ _ _).2.2, ← intVal, ← unpacked]
    rcases ha with rfl | rfl <;> cases fd <;> simp [fmtIsFloat] at hd <;> simp [convBits, unpacked, intVal, isSNaN]
  have size : |(v : ℝ)| = (v.natAbs : ℝ) * 2 ^ (0 : ℤ) := by rw [Nat.cast_natAbs, Int.cast_abs]; simp
  rw [converted, size]
  exact roundTo_rounds hd hr _ _ _

/-- The conversions of a float that a format record may name read the low bits alone. -/
theorem convertsFloat {fa fd : Fmt} (ha : fmtIsFloat fa = true) (allowed : cvtPairOk fa fd = true) {r : Rounding} (hr : r.rnd < 65536)
    (p : ℕ) : ConvertsFloat fa fd r (p % (2 * signWeight fa)) (convBits fa fd r p) := by
  simp only [cvtPairOk, Bool.and_eq_true, bne_iff_ne] at allowed
  obtain ⟨ne, pair⟩ := allowed
  obtain ⟨sameBody, sameSign⟩ := mod_parts fa p
  have low : convBits fa fd r p = convBits fa fd r (p % (2 * signWeight fa)) := by
    rw [convBits_float ha ne, convBits_float ha ne, unpack_congr ha sameBody sameSign]
  rw [low]
  by_cases float : fmtIsFloat fd = true
  · exact convBits_toFloat ha float ne hr (Nat.mod_lt _ (by have := signWeight_pos fa; omega))
  by_cases scale : fd = .e8m0
  · subst scale
    exact convBits_toE8M0 ha r _
  · refine convBits_toInt ha ?_ hr _
    have noScale : fa ≠ .e8m0 := by rintro rfl; cases ha
    simpa [isCvtFmt, float, scale, noScale, ha] using pair

/-- Conversions of R28, R36 and R40. -/
theorem convertRule : ConvertRule := by
  refine ⟨fun f r p => by simp [convBits], fun _ _ _ p hr ha allowed => convertsFloat ha allowed hr p,
    fun r v low high => convBits_int r (by omega) (by omega), fun _ _ _ _ hr ha hd low high => convBits_ofInt ha hd hr low high,
    fun r _ hc => convBits_ofE8M0 r hc, fun r => ?_, fun _ p hf _ => widen16_parts hf p⟩
  simp [convBits, unpackVal, valToFmt, roundVal, isSNaN, packNaN]
  rfl

/-! ### DEQ (R214) -/

/-- No pattern up to the largest value is a NaN or an infinity. -/
theorem number_of_le {f : Fmt} (hf : fmtIsFloat f = true) {p : ℕ} (h : body f p ≤ (limits f).1) :
    nanPat f p = false ∧ infPat f p = false := by
  have order : (limits f).1 ≤ (limits f).2.1 ∧ (f ≠ .e4m3 → (limits f).1 < (limits f).2.1) := by
    cases f <;> simp [fmtIsFloat] at hf <;> simp [limits]
  simp only [nanPat, infPat, decide_eq_false_iff_not, not_and, not_lt]
  exact ⟨h.trans order.1, fun ne => (h.trans_lt (order.2 ne)).ne⟩

/-- The NaN rule over an element and a scale. -/
theorem nanRule_pair {f : Fmt} (hf : fmtIsFloat f = true) {p s : ℕ} (hp : p < 2 * signWeight f) (hs : s < 2 * signWeight .fp32) :
    nanRule .fp32 [unpackFloat f p, unpackFloat .fp32 s] =
      if nanPat f p = true then some (nanTo f .fp32 p, if signals f p = true ∨ signals .fp32 s = true then flagNV else 0)
      else if nanPat .fp32 s = true then some (quieted .fp32 s, if signals f p = true ∨ signals .fp32 s = true then flagNV else 0)
      else none := by
  obtain ⟨elementNaN, elementSignals⟩ := isNaN_unpack hf hp
  obtain ⟨scaleNaN, scaleSignals⟩ := isNaN_unpack (f := .fp32) rfl hs
  simp only [nanRule, List.any_cons, List.any_nil, Bool.or_false, elementSignals, scaleSignals, Bool.or_eq_true]
  by_cases element : nanPat f p = true
  · rw [List.find?_cons_of_pos (by simp [elementNaN, element]), unpack_payload hf element, if_pos element]
    dsimp only
    rw [packNaN_eq f rfl]
    rfl
  rw [List.find?_cons_of_neg (by simp [elementNaN, element]), if_neg element]
  by_cases scale : nanPat .fp32 s = true
  · obtain ⟨pay, up, -, quiet⟩ := unpack_nan rfl hs scale
    rw [List.find?_cons_of_pos (by simp [scaleNaN, scale]), up, if_pos scale]
    dsimp only
    rw [quiet]
    rfl
  · rw [List.find?_cons_of_neg (by simp [scaleNaN, scale]), if_neg scale]
    rfl

/-- DEQ on one lane. -/
theorem deqRule : DeqRule := by
  intro f r w scale hf hr
  have float : fmtIsFloat f = true := by rcases hf with rfl | rfl <;> rfl
  have element : w.toNat % 2 ^ 8 < 2 * signWeight f := by rcases hf with rfl | rfl <;> exact Nat.mod_lt _ (by decide)
  have size : scale.toNat < 2 * signWeight .fp32 := scale.isLt
  have low : bitsOf w.toNat 0 8 = w.toNat % 2 ^ 8 := by simp [bitsOf]
  obtain ⟨-, elementSignals⟩ := isNaN_unpack float element
  obtain ⟨-, scaleSignals⟩ := isNaN_unpack (f := .fp32) rfl size
  have rule := nanRule_pair float element size
  unfold deqLane
  simp only [low, rule, elementSignals, scaleSignals, Bool.or_eq_true]
  rw [show bitsOf w.toNat 8 8 = w.toNat / 2 ^ 8 % 2 ^ 8 from rfl]
  generalize w.toNat / 2 ^ 8 % 2 ^ 8 = code
  generalize w.toNat % 2 ^ 8 = p at *
  refine ⟨fun special => ?_, fun plain nan => ?_, fun plain nan scaleNaN => ?_, fun plain elementFinite scaleFinite => ?_⟩
  · rw [if_pos special]
    rfl
  · rw [if_neg plain, if_pos nan]
  · rw [if_neg plain, if_neg (by simp [nan]), if_pos scaleNaN]
  · obtain ⟨nan, inf⟩ := number_of_le float elementFinite
    obtain ⟨scaleNaN, scaleInf⟩ := number_of_le (f := .fp32) rfl scaleFinite
    obtain ⟨m, e, up, value, -⟩ := unpack_num float nan inf
    obtain ⟨n, k, up', value', -⟩ := unpack_num (f := .fp32) rfl scaleNaN scaleInf
    have block : blockVal f code p = .fin (negative f p) m (e + code - 127) := by simp [blockVal, plain, up]
    obtain ⟨product, rounds⟩ := prod_rounds (f := .fp32) rfl hr (negative f p) (negative .fp32 scale.toNat) m n (e + code - 127) k
    have shifted : (m : ℝ) * 2 ^ (e + code - 127 : ℤ) = magnitude f p * 2 ^ ((code : ℤ) - 127) := by
      rw [← value, mul_assoc, ← zpow_add₀ two_ne_zero, add_sub_assoc]
    rw [shifted, value'] at rounds
    rw [if_neg plain, if_neg (by simp [nan]), if_neg (by simp [scaleNaN]), block, up', product]
    exact rounds

/-! ### Converting words -/

/-- A word whose own checks fail traps with the instruction word. -/
theorem trapWord_traps {i : Instr} {s : State} {x : Iss} (h : issueOf i s = some x) {body : Iss → Act} {code : ℕ}
    (run : exec i s = issue i s body) (hb : body x = x.trapWord code) :
    exec i s = .next (x.s.raiseTrap x.r code x.word x.t.prefixPc).moved := by
  rw [run, issue_of h, hb]
  rfl

/-- PACK puts one low half above the other. -/
theorem pack_eq (a b : Word) : b.extractLsb' 0 16 ++ a.extractLsb' 0 16 = BitVec.ofNat 32 (b.toNat % 2 ^ 16 * 2 ^ 16 + a.toNat % 2 ^ 16) := by
  apply BitVec.eq_of_toNat_eq
  have low : a.toNat % 2 ^ 16 < 2 ^ 16 := Nat.mod_lt _ (by norm_num)
  rw [BitVec.toNat_append, BitVec.extractLsb'_toNat, BitVec.extractLsb'_toNat, Nat.shiftRight_zero, Nat.shiftRight_zero,
    Nat.shiftLeft_eq, Nat.mul_comm, ← Nat.two_pow_add_eq_or_of_lt low, BitVec.toNat_ofNat]
  omega

/-- A converting word that checks its format record first. -/
theorem formats_checked {i : Instr} {s : State} {x : Iss} (h : issueOf i s = some x) {body : Iss → Act} (d : RegField)
    (f : ℕ → Word × Flags) (run : exec i s = issue i s body)
    (hb : body x = if !formatsOk x.t i then x.trapWord trapFormat else x.lane32 d f) :
    (formatsOk x.t i = true → ∃ t, exec i s = .next t ∧
      TeamStep s t x ((x.t.write32 d fun l => (f l).1).orFlags (orAll (x.t.run.map fun l => (f l).2)))) ∧
    (formatsOk x.t i = false → exec i s = .next (x.s.raiseTrap x.r trapFormat x.word x.t.prefixPc).moved) :=
  ⟨fun ok => lane32_completes h d f run (hb.trans (by simp [ok])), fun bad => trapWord_traps h run (hb.trans (by simp [bad]))⟩

/-- A result without flags as one with them. -/
theorem lane32_none (x : Iss) (d : RegField) (v : ℕ → Word) : x.lane32 d (fun l => (v l, 0)) = x.lane d v :=
  congrArg x.okTeam (orFlags_none _ _)

/-- A converting word completes with its results and their flags where it allows its format record, and traps where it does not. -/
theorem cvtResult_completes {i : Instr} {d : RegField} {f : ℕ → Word × Flags} {s : State} {x : Iss} (h : issueOf i s = some x)
    (result : cvtResult x i = some (d, f)) :
    (formatsOk x.t i = true → ∃ t, exec i s = .next t ∧
      TeamStep s t x ((x.t.write32 d fun l => (f l).1).orFlags (orAll (x.t.run.map fun l => (f l).2)))) ∧
    (formatsOk x.t i = false → exec i s = .next (x.s.raiseTrap x.r trapFormat x.word x.t.prefixPc).moved) := by
  unfold cvtResult at result
  split at result <;> cases result
  case h_1 a => exact formats_checked h d _ (show execCvt d a s = _ from rfl) rfl
  case h_2 a b => exact formats_checked h d _ (show execCvtsr d a b s = _ from rfl) rfl
  case h_3 a b => exact formats_checked h d _ (show execDeq d a b s = _ from rfl) rfl
  case h_4 a =>
    refine formats_checked h d _ (show execTokey d a s = _ from rfl) ?_
    rw [lane32_none, formatsOk]
    rcases x.t.fmtRec.fa with _ | _ | _ | _ | n <;> simp [bitsOf]
  case h_5 a b => exact ⟨fun _ => lane_completes h d _ (show execPack d a b s = _ from rfl) rfl fun _ => pack_eq _ _, nofun⟩
  case h_6 a k => exact ⟨fun _ => lane_completes h d _ (show execUnpack d a k s = _ from rfl) rfl fun _ => rfl, nofun⟩

/-- Settles O7: a converting word writes the converted value of each running lane, or traps where it does not allow its format record,
and the conversions are those of the rules. -/
theorem conversions : Obligations.Conversions :=
  ⟨fun _ _ _ _ _ h result => cvtResult_completes h result, convertRule, deqRule⟩

end Sys2Proof.Laws

/-!
SUPPORT. Register, predicate and flag writes (R29, R51 to R54, R188, R189): what a write leaves in each lane, and what a read of a lane or
of an s register gives after it.
-/

namespace Sys2Proof.Machine

open Sys2Proof

/-! ### Running lanes -/

theorem Team.mem_run {t : Team} {l : ℕ} {k : Lane} (h : t.lanes[l]? = some k) : l ∈ t.run ↔ k.running = true := by
  have inside := (List.getElem?_eq_some_iff.mp h).1
  rw [Team.run, List.mem_filter, List.mem_range, h]
  simp [inside]

theorem Team.lane_of_mem_run {t : Team} {l : ℕ} (h : l ∈ t.run) : ∃ k, t.lanes[l]? = some k ∧ k.running = true := by
  obtain ⟨inside, runs⟩ := List.mem_filter.mp h
  have there := List.getElem?_eq_getElem (List.mem_range.mp inside)
  exact ⟨_, there, (Team.mem_run there).mp h⟩

/-! ### Registers of a lane (R51, R53) -/

/-- A v or a register of a lane, as a team of a role reads it. -/
def Lane.get (k : Lane) (role : Role) (f : RegField) : DWord :=
  if role = .access then k.a.getD f.toNat 0 else (k.v.getD f.toNat 0).zeroExtend 64

theorem Team.reg_of_lane {t : Team} {f : RegField} {l : ℕ} {k : Lane} (hf : isS f = false) (h : t.lanes[l]? = some k) :
    t.reg f l = k.get t.role f := by
  simp [Team.reg, Lane.get, hf, h]

theorem Team.reg_of_isS {t : Team} {f : RegField} (hf : isS f = true) (l : ℕ) :
    t.reg f l = if t.role = .access then (t.sreg f).signExtend 64 else (t.sreg f).zeroExtend 64 := by
  simp [Team.reg, Team.sreg, hf]

theorem zeroExtend_truncate (x : DWord) : (x.truncate 32).zeroExtend 64 = x &&& 0xFFFFFFFF#64 := by
  apply BitVec.eq_of_toNat_eq
  have low := x.toNat.and_two_pow_sub_one_eq_mod 32
  simp only [Nat.reducePow, Nat.add_one_sub_one] at low
  simp [low]
  omega

theorem Lane.get_put_same {k : Lane} {role : Role} {f : RegField} (inA : role = .access → f.toNat < k.a.length)
    (inV : role ≠ .access → f.toNat < k.v.length) (x : DWord) :
    (k.put role f x).get role f = if role = .access then x else x &&& 0xFFFFFFFF#64 := by
  unfold Lane.put Lane.get
  by_cases access : role = .access
  · simp [access, inA access]
  · simp only [access, if_false, List.getD_eq_getElem?_getD, List.getElem?_set_self (inV access), Option.getD_some]
    exact zeroExtend_truncate x

theorem Lane.get_put_ne {f q : RegField} (ne : q ≠ f) (k : Lane) (role : Role) (x : DWord) :
    (k.put role f x).get role q = k.get role q := by
  have other : f.toNat ≠ q.toNat := fun same => ne (BitVec.eq_of_toNat_eq same.symm)
  unfold Lane.put Lane.get
  split <;> simp [List.getElem?_set_ne other]

/-! ### Writing a register in every running lane (R53, R188) -/

theorem Team.write_role (t : Team) (f : RegField) (v : ℕ → DWord) : (t.write f v).role = t.role := by
  unfold Team.write
  split
  · split <;> rfl
  · rfl

theorem Team.write_lane? {f : RegField} (hf : isS f = false) (t : Team) (v : ℕ → DWord) (l : ℕ) :
    (t.write f v).lanes[l]? = t.lanes[l]?.map fun k => if k.running then k.put t.role f (v l) else k := by
  simp [Team.write, hf]

theorem Team.write_sregs {f : RegField} (hf : isS f = false) (t : Team) (v : ℕ → DWord) : (t.write f v).sregs = t.sregs := by
  simp [Team.write, hf]

theorem Team.reg_write_of_lane {t : Team} {f q : RegField} {l : ℕ} {k : Lane} (hf : isS f = false) (hq : isS q = false)
    (h : t.lanes[l]? = some k) (v : ℕ → DWord) :
    (t.write f v).reg q l = (if k.running then k.put t.role f (v l) else k).get t.role q := by
  rw [Team.reg_of_lane hq (by rw [Team.write_lane? hf, h]; rfl), Team.write_role]

theorem Team.reg_write_same {t : Team} {f : RegField} {l : ℕ} {k : Lane} (hf : isS f = false) (h : t.lanes[l]? = some k)
    (inA : t.role = .access → f.toNat < k.a.length) (inV : t.role ≠ .access → f.toNat < k.v.length) (runs : l ∈ t.run)
    (v : ℕ → DWord) : (t.write f v).reg f l = if t.role = .access then v l else v l &&& 0xFFFFFFFF#64 := by
  rw [Team.reg_write_of_lane hf hf h, if_pos ((Team.mem_run h).mp runs), Lane.get_put_same inA inV]

theorem Team.reg_write_ne {t : Team} {f q : RegField} {l : ℕ} {k : Lane} (hf : isS f = false) (h : t.lanes[l]? = some k)
    (ne : q ≠ f) (v : ℕ → DWord) : (t.write f v).reg q l = t.reg q l := by
  cases hq : isS q with
  | true => rw [Team.reg_of_isS hq, Team.reg_of_isS hq, Team.write_role, Team.sreg, Team.write_sregs hf, Team.sreg]
  | false =>
    rw [Team.reg_write_of_lane hf hq h, Team.reg_of_lane hq h]
    split
    · exact Lane.get_put_ne ne ..
    · rfl

theorem Team.write_lane_of_not_run {t : Team} {f : RegField} {l : ℕ} {k : Lane} (hf : isS f = false) (h : t.lanes[l]? = some k)
    (rests : l ∉ t.run) (v : ℕ → DWord) : (t.write f v).lanes[l]? = some k := by
  rw [Team.write_lane? hf, h, Option.map_some, if_neg (mt (Team.mem_run h).mpr rests)]

/-! ### Writing an s register (R53) -/

theorem Team.write_isS {f : RegField} (hf : isS f = true) (t : Team) (v : ℕ → DWord) :
    t.write f v = (t.low?.map fun l => t.putS f ((v l).truncate 32)).getD t := by
  unfold Team.write
  rw [if_pos hf]
  split <;> rename_i low <;> rw [low] <;> rfl

theorem Team.sreg_putS_same {t : Team} {f : RegField} (hf : isS f = true) (h : t.sregs.length = 32) (x : Word) :
    (t.putS f x).sreg f = x := by
  have low : f.toNat - 96 < t.sregs.length := by
    have := f.isLt
    simp only [isS, decide_eq_true_eq] at hf
    omega
  simp [Team.sreg, Team.putS, low]

theorem Team.sreg_putS_ne {f q : RegField} (hf : isS f = true) (hq : isS q = true) (ne : q ≠ f) (t : Team) (x : Word) :
    (t.putS f x).sreg q = t.sreg q := by
  have other : f.toNat - 96 ≠ q.toNat - 96 := by
    have : q.toNat ≠ f.toNat := fun same => ne (BitVec.eq_of_toNat_eq same)
    simp only [isS, decide_eq_true_eq] at hf hq
    omega
  simp [Team.sreg, Team.putS, List.getElem?_set_ne other]

/-! ### Predicates and flags (R29, R54) -/

theorem Team.writePred_lane? {p : ℕ} (hp : p < 7) (t : Team) (v : ℕ → Bool) (l : ℕ) :
    (t.writePred p v).lanes[l]? = t.lanes[l]?.map fun k => if k.running then
      { k with pred := if v l then k.pred ||| BitVec.twoPow 8 p else k.pred &&& ~~~(BitVec.twoPow 8 p) } else k := by
  simp [Team.writePred, Nat.ne_of_lt hp]

theorem Team.pred_of_lane {t : Team} {l : ℕ} {k : Lane} (h : t.lanes[l]? = some k) (p : ℕ) : t.pred p l = k.predOf p := by
  simp [Team.pred, h]

theorem Team.pred_seven (t : Team) (l : ℕ) : t.pred 7 l = true := by
  cases h : t.lanes[l]? <;> simp [Team.pred, Lane.predOf, h]

/-- A written predicate of a running lane reads as the value it was given, and every other one as before. -/
theorem Team.pred_writePred {t : Team} {p q l : ℕ} (hp : p < 7) (hq : q < 7) (runs : l ∈ t.run) (v : ℕ → Bool) :
    (t.writePred p v).pred q l = if q = p then v l else t.pred q l := by
  obtain ⟨k, there, running⟩ := Team.lane_of_mem_run runs
  have after := Team.writePred_lane? hp t v l
  rw [there, Option.map_some, if_pos running] at after
  rw [Team.pred_of_lane after, Team.pred_of_lane there]
  by_cases same : q = p
  · subst same
    cases v l <;> simp [Lane.predOf, Nat.ne_of_lt hq, Nat.lt_succ_of_lt hq]
  · cases v l <;> simp [Lane.predOf, same, Nat.lt_succ_of_lt hq]

theorem Team.writePred_lane_of_not_run {t : Team} {p l : ℕ} (hp : p < 7) (rests : l ∉ t.run) (v : ℕ → Bool) :
    (t.writePred p v).lanes[l]? = t.lanes[l]? := by
  rw [Team.writePred_lane? hp]
  cases there : t.lanes[l]? with
  | none => rfl
  | some k => rw [Option.map_some, if_neg (mt (Team.mem_run there).mpr rests)]

theorem Team.astat_orFlags (t : Team) (f : Flags) (k : ℕ) :
    (t.orFlags f).astat.getLsbD k = (t.astat.getLsbD k || f.getLsbD k) := by
  have short (set : f.getLsbD k = true) : k < 32 := (BitVec.lt_of_getLsbD set).trans (by decide)
  cases set : f.getLsbD k <;> simp [Team.orFlags, set, short]

/-- Settles O59: the registers of lanes, the s registers, the predicates and the flags, each by its own rule. -/
theorem registerWrites : Obligations.RegisterWrites := by
  unfold Obligations.RegisterWrites
  refine ⟨fun t f v l k hf there inA inV => ⟨fun runs => ?_, fun rests => ?_, fun q ne => ?_⟩,
    fun t f v hf wide => ⟨fun l low => ?_, fun idle => ?_, ?_⟩, fun t f l hf => Team.reg_of_isS hf l,
    fun t p v => ⟨fun seven => ?_, fun below l runs => ⟨?_, fun q hq ne => ?_⟩, fun below l rests => ?_, t.pred_seven⟩,
    Team.astat_orFlags⟩
  · exact Team.reg_write_same hf there inA inV runs v
  · exact Team.write_lane_of_not_run hf there rests v
  · exact Team.reg_write_ne hf there ne v
  · rw [Team.write_isS hf, low]
    exact ⟨Team.sreg_putS_same hf wide _, fun q hq ne => Team.sreg_putS_ne hf hq ne ..⟩
  · rw [Team.write_isS hf, idle]
    rfl
  · rw [Team.write_isS hf]
    cases t.low? <;> rfl
  · exact if_pos seven
  · rw [Team.pred_writePred below below runs, if_pos rfl]
  · rw [Team.pred_writePred below hq runs, if_neg ne]
  · exact Team.writePred_lane_of_not_run below rests v

end Sys2Proof.Machine

/-!
SUPPORT. HINT words (R61 to R67): what each records, and where one is refused.
-/

namespace Sys2Proof.Machine

open Sys2Proof

/-- A HINT word issues as one that leaves in its team what the statement names. -/
theorem exec_of_hinted {i : Instr} {s : State} {f : Team → Team} (h : Claim.hinted s.iword i = some f) : exec i s = issueHint i s f := by
  unfold Claim.hinted at h
  split at h <;> cases h <;> rfl

theorem Team.endsBody_eq_false_iff (t : Team) (pc : Word) :
    t.endsBody pc = false ↔ (t.inLoop = true → ∀ l ∈ t.loops, l.last ≠ pc) := by
  simp [Team.endsBody]

/-- A HINT word may be recorded for its team: no reserved field, no end of a body, and a word of the same overlay behind it. -/
def hintFits (s : State) (g : Group) (t : Team) (i : Instr) : Prop :=
  i.wellFormed = true ∧ (t.inLoop = true → ∀ l ∈ t.loops, l.last ≠ t.pc) ∧ (s.codeWord (g.forTeam t) (t.pc + 4)).isSome = true ∧
    (t.pc + 4).extractLsb' 16 8 = t.pc.extractLsb' 16 8

section
variable {s : State} {r : TeamRef} {g : Group} {t : Team} (cur : s.cur = some r) (hg : s.group? r.uid = some g)
  (ht : g.team? r.tid = some t) (i : Instr) (accept : Team → Team)
include cur hg ht

theorem issueHint_fits (fits : hintFits s g t i) : issueHint i s accept = .next (s.modTeam r fun v =>
    { accept v with pc := t.pc + 4, heldAt := none, queueHeld := false, lodHeld := false, yielded := false }).moved := by
  simp only [hintFits, ← Team.endsBody_eq_false_iff] at fits
  simp only [issueHint, cur, hg, ht]
  exact if_neg (by simpa [and_assoc, Option.isSome_iff_ne_none] using fits)

theorem issueHint_refused (misfits : ¬hintFits s g t i) :
    issueHint i s accept = .next (s.raiseTrap r trapIllegal (s.iword.zeroExtend 64) t.prefixPc).moved := by
  simp only [hintFits, ← Team.endsBody_eq_false_iff] at misfits
  simp only [issueHint, cur, hg, ht]
  exact if_pos (by simpa [imp_iff_not_or, or_assoc] using misfits)

end

/-- Settles O19: a HINT word is recorded where it fits, and is ILLEGAL elsewhere. -/
theorem hintWords : Obligations.HintWords := by
  unfold Obligations.HintWords
  intro i f s r g u cur hg hu hint
  rw [exec_of_hinted hint]
  exact ⟨issueHint_fits cur hg hu i f, issueHint_refused cur hg hu i f⟩

end Sys2Proof.Machine

/-!
SUPPORT. What a step comes to (R57, R58, R103, R163): the head of the agenda, the team or the event whose turn it is, or the passing of time.
-/

namespace Sys2Proof.Machine

open Sys2Proof

/-! ### The issue of a step -/

theorem State.held_iff (t : State) : ((t.cur.bind t.team?).any fun v => v.heldAt == some t.progress) = true ↔
    ∃ r v, t.cur = some r ∧ t.team? r = some v ∧ v.heldAt = some t.progress := by
  simp only [Option.any_eq_true, Option.bind_eq_some_iff, beq_iff_eq]
  constructor
  · rintro ⟨v, ⟨r, cur, there⟩, held⟩
    exact ⟨r, v, cur, there, held⟩
  · rintro ⟨r, v, cur, there, held⟩
    exact ⟨v, ⟨r, cur, there⟩, held⟩

/-- A team that its word has held was not ready, so its scheduler has chosen nothing (R163). -/
theorem afterExec_next (s t : State) : afterExec s (.next t) = .next
    (if (t.cur.bind t.team?).any fun v => v.heldAt == some t.progress then { t with scheds := s.scheds } else t) := rfl

/-! ### The plan of a step -/

theorem State.plan_of_agenda {s : State} {i : Instr} {rest : List (Option Instr)} (h : s.agenda = some i :: rest) :
    s.plan = .run i { s.begin with agenda := rest, cur := none } := by
  simp [State.plan, State.begin, h]

/-- The state in which a step chooses a turn, once no input stands on the agenda. -/
def State.atTurn (s : State) : State := { s.begin with agenda := s.agenda.drop 1 }

/-- What a step plans by the turn that it chooses. -/
def State.planTurn (u : State) : Option Turn → Todo
  | none => .rest { u.rested with cur := none }
  | some (.event e) => .event e { u with cur := none }
  | some (.team c) => (u.noteIssue c).fetchFrom c.ref

theorem State.plan_of_free {s : State} (free : ∀ i rest, s.agenda ≠ some i :: rest) {turn : Option Turn}
    (h : s.atTurn.chosen = turn) : s.plan = s.atTurn.planTurn turn := by
  subst h
  unfold State.plan
  dsimp only
  split
  · next head => exact absurd head (free _ _)
  · rfl

theorem step_of_run {s u : State} {i : Instr} (h : s.plan = .run i u) : step s = afterExec s (exec i u) := by rw [step, h]

theorem step_of_event {s u : State} {e : Ev} (h : s.plan = .event e u) : step s = e.run u := by rw [step, h]

theorem step_of_rest {s u : State} (h : s.plan = .rest u) : step s = .next u := by rw [step, h]

/-! ### Fetching (R103) -/

section
variable {s : State} {r : TeamRef} {g : Group} {t : Team} {c : Ctx} {w : Word} (hg : s.group? r.uid = some g)
  (ht : g.team? r.tid = some t) (hc : s.ctxOf g = some c) (hw : s.codeWord (g.forTeam t) t.pc = some w)
include hg ht hc hw

theorem State.fetchFrom_decodes {i : Instr} (hi : decodeWord w = .ok i) : s.fetchFrom r = .run i
    { s.modCore g.core (fun k => k.touch c.asid (g.forTeam t).image t.pc s.steps) with iword := w } := by
  have core : (g.forTeam t).core = g.core := by unfold Group.forTeam; split <;> rfl
  simp only [State.fetchFrom, hg, ht, hc, hw, hi, core]

theorem State.fetchFrom_illegal {e : DecodeError} (he : decodeWord w = .error e) : s.fetchFrom r = .rest
    (State.raiseTrap { s.modCore g.core (fun k => k.touch c.asid (g.forTeam t).image t.pc s.steps) with iword := w } r 0x01
      (w.zeroExtend 64) t.prefixPc).moved := by
  have core : (g.forTeam t).core = g.core := by unfold Group.forTeam; split <;> rfl
  simp only [State.fetchFrom, hg, ht, hc, hw, he, core, trapIllegal]

end

/-- Settles O57: a step runs what its plan names, and the plan is the head of the agenda, the chosen turn, or rest. -/
theorem stepRunsDecoded : Obligations.StepRunsDecoded := by
  unfold Obligations.StepRunsDecoded
  refine ⟨fun s t => ?_, fun s i rest head => ?_, fun s free => ⟨fun idle => ?_, fun e event => ?_, fun c team => ?_⟩⟩
  · dsimp only
    rw [← State.held_iff, afterExec_next]
    exact ⟨fun held => by rw [if_pos held], fun free => by rw [if_neg free]⟩
  · exact step_of_run (State.plan_of_agenda head)
  · exact step_of_rest (State.plan_of_free free idle)
  · exact step_of_event (State.plan_of_free free event)
  · intro v g t x w hg ht hx hw z
    have plan : s.plan = v.fetchFrom c.ref := State.plan_of_free free team
    exact ⟨fun i hi => step_of_run (plan.trans (State.fetchFrom_decodes hg ht hx hw hi)),
      fun e he => step_of_rest (plan.trans (State.fetchFrom_illegal hg ht hx hw he))⟩

end Sys2Proof.Machine

/-!
SUPPORT. Traps and fatal traps (R57, R58, R102, R104): what a failed check of issue comes to, where a trap is delivered, and what discarding
the work of a context leaves.
-/

namespace Sys2Proof.Machine

open Sys2Proof

/-! ### The checks of issue (R57) -/

theorem issueTile_eq_issue (i : Instr) (s : State) (body : Iss → Act) : ∃ own, issueTile i s body = issue i s own := ⟨_, rfl⟩

/-- Every word but a HINT passes the checks of issue before its own effect; those of tile engines by way of the view of their tiles. -/
theorem exec_eq_issue {i : Instr} (word : i.major ≠ 0) (noHint : i.major ≠ 0x3F) (s : State) :
    ∃ own, exec i s = issue i s own := by
  cases i
  all_goals try exact absurd rfl word
  case hintImm | hintStall | hintMod | hintFmt => exact absurd rfl noHint
  all_goals dsimp only [exec]
  case wstore | wrec | wtag | wth | tvadd | tvsub | tvmulc | tvaxpy | tvbias | tvact | tvnorm | tvnormRms | tvsmax | tvcvt =>
    exact issueTile_eq_issue ..
  all_goals exact ⟨_, rfl⟩

theorem issue_of_fault {i : Instr} {s : State} {r : TeamRef} {g : Group} {t : Team} {code : ℕ} {w : Word} (cur : s.cur = some r)
    (hg : s.group? r.uid = some g) (ht : g.team? r.tid = some t) (fault : issueFault s (g.forTeam t) t i = some (code, w))
    (body : Iss → Act) : issue i s body = .next (s.raiseTrap r code (w.zeroExtend 64) t.prefixPc).moved := by
  simp only [issue, cur, hg, ht, fault]

theorem issueFault_of_not_wellFormed {i : Instr} (h : i.wellFormed = false) (s : State) (g : Group) (t : Team) :
    issueFault s g t i = some (0x01, s.iword) := by
  simp [issueFault, step4Ok, wordStep4, h, trapIllegal]

/-- What stands behind step 4 of R57 where no HINT goes before: the role, the queue and the tile's format. -/
theorem issueFault_of_step4 {s : State} {g : Group} {t : Team} {i : Instr} (ok : step4Ok s g t i = true)
    (queue : queueFault g t i ≠ some 0x01) (bare : t.hints = []) : issueFault s g t i =
      if instrRoleOk i t.role = false then some (0x02, s.iword)
      else ((queueFault g t i).map fun c => (c, s.iword)).or (if tileRecBad t i then some (0x03, s.iword) else none) := by
  have pass : (!step4Ok s g t i || queueFault g t i == some trapIllegal) = false := by simpa [ok, trapIllegal] using queue
  unfold issueFault
  simp only [pass, bare, badHint, trapRole, trapFormat]
  cases instrRoleOk i t.role <;> cases queueFault g t i <;> rfl

/-! ### Delivery (R102) -/

theorem State.delivers_iff (s : State) (g : Group) (t : Team) (code : ℕ) : s.delivers g t code = true ↔
    t.trapInh = false ∧ code ≠ 0x09 ∧ code ≠ 0x10 ∧ code ≠ 0x11 ∧ t.trapmask.getLsbD code = true ∧
      (s.codeWord (g.forTeam t) t.trapvec).isSome = true := by
  simp [State.delivers, neverDelivered, and_assoc]

theorem State.raiseTrap_of_team {s : State} {r : TeamRef} {g : Group} {t : Team} (hg : s.group? r.uid = some g)
    (ht : g.team? r.tid = some t) (code : ℕ) (va : DWord) (pc : Word) : s.raiseTrap r code va pc =
      if s.delivers g t code then s.modTeam r fun u => { u.trapRegs code va pc with trapInh := true, pc := u.trapvec }
      else s.ctxError g.part g.ctxid (if t.trapInh then 0x20 else code) g.core pc (trapVaOf t va) := by
  simp only [State.raiseTrap, hg, ht]

/-! ### Discarding the work of a context (R104) -/

/-- `t` is `s` but for work in flight: it holds no other groups, and memories, contexts, launches, records, device and clock are those of
`s`. -/
structure Discards (s t : State) : Prop where
  groups : ∀ g ∈ t.groups, g ∈ s.groups
  mem : t.mem = s.mem
  hostMem : t.hostMem = s.hostMem
  ctxs : t.ctxs = s.ctxs
  launches : t.launches = s.launches
  events : t.events = s.events
  dev : t.dev = s.dev
  clk : t.clk = s.clk

theorem Discards.refl (s : State) : Discards s s := ⟨fun _ h => h, rfl, rfl, rfl, rfl, rfl, rfl, rfl⟩

theorem Discards.trans {s t u : State} (h : Discards s t) (k : Discards t u) : Discards s u :=
  ⟨fun g there => h.groups g (k.groups g there), k.mem.trans h.mem, k.hostMem.trans h.hostMem, k.ctxs.trans h.ctxs,
    k.launches.trans h.launches, k.events.trans h.events, k.dev.trans h.dev, k.clk.trans h.clk⟩

theorem discards_foldl {α : Type} {f : State → α → State} (each : ∀ s a, Discards s (f s a)) :
    ∀ (l : List α) (s : State), Discards s (l.foldl f s)
  | [], s => .refl s
  | a :: l, s => (each s a).trans (discards_foldl each l (f s a))

theorem State.withdraw_discards (s : State) (q : PageReq) : Discards s (s.withdraw q) := by
  unfold State.withdraw
  split
  · exact .refl s
  · exact ⟨fun _ h => h, rfl, rfl, rfl, rfl, rfl, rfl, rfl⟩

theorem State.detach_discards (s : State) (part : ℕ) (p : Waiter → Bool) : Discards s (s.detach part p) := by
  unfold State.detach
  split
  · exact .refl s
  · dsimp only
    refine .trans ?_ (discards_foldl State.withdraw_discards _ _)
    exact ⟨fun _ h => h, rfl, rfl, rfl, rfl, rfl, rfl, rfl⟩

theorem State.refuseIncoming_discards (s : State) (part id : ℕ) : Discards s (s.refuseIncoming part id) := by
  unfold State.refuseIncoming
  dsimp only
  refine .trans ?_ (discards_foldl (fun u r => ?_) _ _)
  all_goals exact ⟨fun _ h => h, rfl, rfl, rfl, rfl, rfl, rfl, rfl⟩

theorem State.removeGroup_discards (s : State) (uid : ℕ) : Discards s (s.removeGroup uid) := by
  unfold State.removeGroup
  split
  · exact .refl s
  · next g _ =>
    exact (s.detach_discards g.part _).trans ⟨fun _ h => List.mem_of_mem_filter h, rfl, rfl, rfl, rfl, rfl, rfl, rfl⟩

/-- A removed group is gone. -/
theorem State.removeGroup_uid {s : State} {uid : ℕ} {g : Group} (h : g ∈ (s.removeGroup uid).groups) : g.uid ≠ uid := by
  unfold State.removeGroup at h
  split at h
  · next no => simpa using List.find?_eq_none.mp no g h
  · simpa using (List.mem_filter.mp h).2

theorem removeGroups_uid {g : Group} {u : ℕ} {l : List ℕ} {s : State} (named : u ∈ l)
    (left : g ∈ (l.foldl State.removeGroup s).groups) : g.uid ≠ u := by
  induction l generalizing s with
  | nil => exact absurd named List.not_mem_nil
  | cons a l ih =>
    rcases List.mem_cons.mp named with rfl | named
    · exact State.removeGroup_uid ((discards_foldl State.removeGroup_discards l _).groups g left)
    · exact ih named left

/-- A state once a context's groups, waiters and incoming requests are gone. -/
def State.withoutWork (s : State) (part id : ℕ) : State :=
  let lids := (s.launches.filter fun l => l.part == part && l.ctxid == id).map (·.lid)
  let t := ((s.groups.filter fun g => g.part == part && g.ctxid == id).map (·.uid)).foldl State.removeGroup s
  (t.detach part (ctxWaiter t part id lids)).refuseIncoming part id

theorem State.discardCtx_eq (s : State) (part id : ℕ) : s.discardCtx part id =
    { (s.withoutWork part id).modCtx part id fun c => { c with graph := none, graphWait := [], asks := [] } with
      launches := (s.withoutWork part id).launches.filter fun l => !(l.part == part && l.ctxid == id)
      censuses := (s.withoutWork part id).censuses.filter fun c => !(c.part == part && c.ctxid == id) } := rfl

theorem State.withoutWork_discards (s : State) (part id : ℕ) : Discards s (s.withoutWork part id) :=
  (discards_foldl State.removeGroup_discards _ s).trans ((State.detach_discards ..).trans (State.refuseIncoming_discards ..))

theorem State.withoutWork_ctxid {s : State} {part id : ℕ} {g : Group} (left : g ∈ (s.withoutWork part id).groups)
    (same : g.part = part) : g.ctxid ≠ id := by
  intro ctx
  have still := ((State.detach_discards ..).trans (State.refuseIncoming_discards ..)).groups g left
  have was := (discards_foldl State.removeGroup_discards _ s).groups g still
  exact removeGroups_uid (List.mem_map.mpr ⟨g, List.mem_filter.mpr ⟨was, by simp [same, ctx]⟩, rfl⟩) still rfl

/-! ### A fatal event (R104) -/

theorem State.ctx?_modCtx {s : State} {part id : ℕ} {c : Ctx} (hc : s.ctx? part id = some c) {f : Ctx → Ctx}
    (keeps : ∀ c, isCtx part id (f c) = isCtx part id c) : (s.modCtx part id f).ctx? part id = some (f c) := by
  have found : ∀ l : List Ctx, (modWhere l (isCtx part id) f).find? (isCtx part id) = (l.find? (isCtx part id)).map f := by
    intro l
    induction l with
    | nil => rfl
    | cons d l ih =>
      simp only [modWhere] at ih ⊢
      by_cases here : isCtx part id d <;> simp [here, keeps, ih]
  exact (found s.ctxs).trans (congrArg _ hc)

/-- A state once a fatal event has taken a context's work and slot table, before its record is posted. -/
def State.errored (s : State) (part id : ℕ) : State :=
  (s.discardCtx part id).modCtx part id fun c => { c.dropSlots with state := .error }

theorem State.errored_eq (s : State) (part id : ℕ) : s.errored part id =
    { (s.withoutWork part id) with
      ctxs := (((s.withoutWork part id).modCtx part id fun c => { c with graph := none, graphWait := [], asks := [] }).modCtx part id
        fun c => { c.dropSlots with state := .error }).ctxs
      launches := (s.withoutWork part id).launches.filter fun l => !(l.part == part && l.ctxid == id)
      censuses := (s.withoutWork part id).censuses.filter fun c => !(c.part == part && c.ctxid == id) } := by
  rw [State.errored, State.discardCtx_eq]
  generalize s.withoutWork part id = u
  rfl

theorem State.errored_kept (s : State) (part id : ℕ) : (s.errored part id).mem = s.mem ∧ (s.errored part id).hostMem = s.hostMem ∧
    (s.errored part id).events = s.events ∧ (s.errored part id).dev = s.dev ∧ (s.errored part id).clk = s.clk := by
  rw [State.errored_eq]
  obtain ⟨-, mem, hostMem, -, -, events, dev, clk⟩ := s.withoutWork_discards part id
  exact ⟨mem, hostMem, events, dev, clk⟩

theorem State.errored_group {s : State} {part id : ℕ} {g : Group} (left : g ∈ (s.errored part id).groups) (same : g.part = part) :
    g.ctxid ≠ id := by
  rw [State.errored_eq] at left
  exact State.withoutWork_ctxid left same

theorem State.errored_launch {s : State} {part id : ℕ} {l : Launch} (left : l ∈ (s.errored part id).launches) (same : l.part = part) :
    l.ctxid ≠ id := by
  rw [State.errored_eq] at left
  simpa [same] using (List.mem_filter.mp left).2

/-- The record of an event (R104). -/
def eventOf (s : State) (c : Ctx) (kind cause core : ℕ) (pc : Word) (va : DWord) : EventRec :=
  { fn := if s.dev.mode = .eight then c.part + 1 else 0, ctxid := c.ctxid, gen := c.gen, kind := kind, cause := cause, core := core
    trappc := pc, trapva := va, clk := s.clk }

section
variable (s : State) (c : Ctx) (kind cause core : ℕ) (pc : Word) (va : DWord)

/-- An event is posted, or waits while the host link is down (R410). -/
theorem State.postEvent_of_link : s.postEvent c kind cause core pc va = if s.dev.hostLink then
    { s.modFunc (s.fnOf c.part) (fun f => { f with msix := f.msix ++ [1] }) with
      events := s.events ++ [eventOf s c kind cause core pc va] }
    else { s with dev := { s.dev with unposted := s.dev.unposted ++ [eventOf s c kind cause core pc va] } } := by
  simp [State.postEvent, eventOf, State.fnOf]

/-- Posting an event leaves groups, launches, contexts and memories. -/
theorem State.postEvent_rest : (s.postEvent c kind cause core pc va).groups = s.groups ∧
    (s.postEvent c kind cause core pc va).launches = s.launches ∧ (s.postEvent c kind cause core pc va).ctxs = s.ctxs ∧
    (s.postEvent c kind cause core pc va).mem = s.mem ∧ (s.postEvent c kind cause core pc va).hostMem = s.hostMem := by
  rw [State.postEvent_of_link]
  split <;> exact ⟨rfl, rfl, rfl, rfl, rfl⟩

end

section
variable {s : State} {part id : ℕ} {c : Ctx} (hc : s.ctx? part id = some c) (cause core : ℕ) (pc : Word) (va : DWord)
include hc

theorem State.ctxError_of_dead (dead : c.state = .error ∨ c.state = .killed) : s.ctxError part id cause core pc va = s := by
  simp only [State.ctxError, hc, if_pos dead]

theorem State.ctx?_errored : (s.errored part id).ctx? part id =
    some { c.dropSlots with state := .error, graph := none, graphWait := [], asks := [] } := by
  have there : (s.withoutWork part id).ctx? part id = some c := (congrArg (List.find? _) (s.withoutWork_discards part id).ctxs).trans hc
  rw [State.errored_eq]
  generalize s.withoutWork part id = u at there ⊢
  have idle := State.ctx?_modCtx there (f := fun c => { c with graph := none, graphWait := [], asks := [] }) fun _ => rfl
  exact State.ctx?_modCtx idle (f := fun c => { c.dropSlots with state := .error }) fun _ => rfl

/-- A fatal event discards the work of a context, drops its slot table and posts a record. -/
theorem State.ctxError_of_live (notError : c.state ≠ .error) (notKilled : c.state ≠ .killed) :
    s.ctxError part id cause core pc va = (s.errored part id).postEvent c 2 cause core pc va := by
  simp only [State.ctxError, hc, if_neg (not_or.mpr ⟨notError, notKilled⟩), State.errored]

end

/-- Settles O58: the checks of issue, delivery to the handler, and the end of a context by a fatal trap. -/
theorem traps : Obligations.Traps := by
  unfold Obligations.Traps
  refine ⟨fun i s r g t code w word noHint cur hg ht fault => ?_, fun s g t i => ⟨fun bad => ?_, fun ok queue bare role => ?_,
    fun ok bare role => ⟨fun code queue pass => ?_, fun queue bad => ?_, fun queue good => ?_⟩⟩,
    fun s r g t code va pc hg ht => ⟨fun yes => ?_, fun no => ?_⟩, fun s part id cause core pc va c hc => ⟨fun dead => ?_, ?_⟩⟩
  · obtain ⟨own, issues⟩ := exec_eq_issue word noHint s
    rw [issues, issue_of_fault cur hg ht fault]
    rfl
  · exact issueFault_of_not_wellFormed bad s g t
  · rw [issueFault_of_step4 ok queue bare, if_pos role]
  · rw [issueFault_of_step4 ok (by simp [queue, pass]) bare]
    simp [role, queue]
  · rw [issueFault_of_step4 ok (by simp [queue]) bare]
    simp [role, queue, bad]
  · rw [issueFault_of_step4 ok (by simp [queue]) bare]
    simp [role, queue, good]
  · rw [State.raiseTrap_of_team hg ht, if_pos ((s.delivers_iff g t code).mpr yes)]
    rfl
  · rw [State.raiseTrap_of_team hg ht, if_neg (mt (s.delivers_iff g t code).mp no)]
    rfl
  · exact State.ctxError_of_dead hc cause core pc va dead
  · intro notError notKilled
    rw [State.ctxError_of_live hc cause core pc va notError notKilled]
    have found := State.ctx?_errored hc
    have gone : ∀ g ∈ (s.errored part id).groups, g.part = part → g.ctxid ≠ id := fun g => State.errored_group
    have ended : ∀ l ∈ (s.errored part id).launches, l.part = part → l.ctxid ≠ id := fun l => State.errored_launch
    obtain ⟨mem, hostMem, events, dev, clk⟩ := s.errored_kept part id
    generalize s.errored part id = v at *
    obtain ⟨pGroups, pLaunches, pCtxs, pMem, pHost⟩ := v.postEvent_rest c 2 cause core pc va
    have record : eventOf v c 2 cause core pc va = eventOf s c 2 cause core pc va := by rw [eventOf, eventOf, dev, clk]
    refine ⟨fun d there => ?_, pGroups ▸ gone, pLaunches ▸ ended, pMem.trans mem, pHost.trans hostMem, fun up => ?_, fun down => ?_⟩
    · rw [State.ctx?, pCtxs] at there
      cases there.symm.trans found
      exact ⟨rfl, rfl, rfl, rfl⟩
    · rw [State.postEvent_of_link, if_pos (dev ▸ up), record]
      exact congrArg (· ++ [_]) events
    · rw [State.postEvent_of_link, if_neg (by rw [dev, down]; decide), record, dev]
      exact ⟨events, rfl⟩

end Sys2Proof.Machine

/-!
SUPPORT. Decoding and encoding (R46 to R48, R55, R57): a word but for its switch marker is its fields, each decoder reads words that encode
what it reads, and each instruction's word reads back.
-/

namespace Sys2Proof

/-! ### Parts of a field -/

/-- A part above the lower of two fields. -/
theorem extract_above {m n s k : ℕ} (hi : BitVec m) (lo : BitVec n) (h : n ≤ s) :
    (HAppend.hAppend (γ := BitVec (no_index _)) hi lo).extractLsb' s k = hi.extractLsb' (s - n) k := by
  ext b hb
  simp only [BitVec.getElem_extractLsb', BitVec.getLsbD_append, if_neg (show ¬s + b < n by omega)]
  congr 1
  omega

/-- A part within the lower of two fields. -/
theorem extract_within {m n s k : ℕ} (hi : BitVec m) (lo : BitVec n) (h : s + k ≤ n) :
    (HAppend.hAppend (γ := BitVec (no_index _)) hi lo).extractLsb' s k = lo.extractLsb' s k := by
  ext b hb
  simp only [BitVec.getElem_extractLsb', BitVec.getLsbD_append, if_pos (show s + b < n by omega)]

/-- A part joined to the part above it, of known value. -/
theorem append_part {n l m k : ℕ} {x : BitVec n} {hi : BitVec m} (h : x.extractLsb' (k + l) m = hi) :
    HAppend.hAppend (γ := BitVec (no_index _)) hi (x.extractLsb' k l) = x.extractLsb' k (m + l) := by
  subst h
  exact BitVec.extractLsb'_append_extractLsb'_eq_extractLsb' rfl

/-- A part joined to the lowest bits, of known value. -/
theorem part_append {n l m : ℕ} {x : BitVec n} {lo : BitVec l} (h : x.extractLsb' 0 l = lo) :
    HAppend.hAppend (γ := BitVec (no_index _)) (x.extractLsb' l m) lo = x.extractLsb' 0 (m + l) := by
  subst h
  exact BitVec.extractLsb'_append_extractLsb'_eq_extractLsb' (Nat.zero_add l).symm

theorem ofNat_of_toNat {n k : ℕ} {x : BitVec n} (h : x.toNat = k) : x = BitVec.ofNat n k := by
  rw [← h, BitVec.ofNat_toNat, BitVec.setWidth_eq]

/-! ### A word by its fields (R46 to R48) -/

theorem toNat_append_eq_add {m n : ℕ} (hi : BitVec m) (lo : BitVec n) :
    (HAppend.hAppend (γ := BitVec (no_index _)) hi lo).toNat = hi.toNat * 2 ^ n + lo.toNat := by
  rw [BitVec.toNat_append, ← Nat.shiftLeft_add_eq_or_of_lt lo.isLt, Nat.shiftLeft_eq]

theorem toNat_part {n : ℕ} (x : BitVec n) (s m : ℕ) : (x.extractLsb' s m).toNat = x.toNat / 2 ^ s % 2 ^ m := by
  rw [BitVec.extractLsb'_toNat, Nat.shiftRight_eq_div_pow]

/-- A word with its switch marker clear. -/
theorem toNat_clearSw (w : Word) : (w &&& 0x7FFFFFFF#32).toNat = w.toNat % 2 ^ 31 := w.toNat.and_two_pow_sub_one_eq_mod 31

section
variable {w : Word} {maj code : ℕ} (hm : (fMaj w).toNat = maj)
include hm

theorem clearSw_eq_wordG3 (hc : (fFn w).toNat = code) :
    w &&& 0x7FFFFFFF#32 = wordG3 (BitVec.ofNat 6 maj) (fD w) (fA w) (fB w) (BitVec.ofNat 4 code) := by
  subst hm hc
  apply BitVec.eq_of_toNat_eq
  simp only [wordG3, fMaj, fD, fA, fB, fFn, toNat_clearSw, toNat_append_eq_add, toNat_part, BitVec.toNat_ofNat]
  omega

theorem clearSw_eq_wordG2i (hc : (fSub w).toNat = code) :
    w &&& 0x7FFFFFFF#32 = wordG2i (BitVec.ofNat 6 maj) (fD w) (fA w) (BitVec.ofNat 3 code) (fImm8 w) := by
  subst hm hc
  apply BitVec.eq_of_toNat_eq
  simp only [wordG2i, fMaj, fD, fA, fSub, fImm8, toNat_clearSw, toNat_append_eq_add, toNat_part, BitVec.toNat_ofNat]
  omega

theorem clearSw_eq_wordGi : w &&& 0x7FFFFFFF#32 = wordGi (BitVec.ofNat 6 maj) (fD w) (fImm18 w) := by
  subst hm
  apply BitVec.eq_of_toNat_eq
  simp only [wordGi, fMaj, fD, fImm18, toNat_clearSw, toNat_append_eq_add, toNat_part, BitVec.toNat_ofNat]
  omega

theorem clearSw_eq_wordC (hc : (fOp w).toNat = code) :
    w &&& 0x7FFFFFFF#32 = wordC (BitVec.ofNat 6 maj) (BitVec.ofNat 4 code) (fP w) (fImm18 w) := by
  subst hm hc
  apply BitVec.eq_of_toNat_eq
  simp only [wordC, fMaj, fOp, fP, fImm18, toNat_clearSw, toNat_append_eq_add, toNat_part, BitVec.toNat_ofNat]
  omega

theorem clearSw_eq_wordM (hc : (fFn w).toNat = code) :
    w &&& 0x7FFFFFFF#32 = wordM (BitVec.ofNat 6 maj) (fD w) (fA w) (fOff4 w) (fSz w) (BitVec.ofNat 4 code) := by
  subst hm hc
  apply BitVec.eq_of_toNat_eq
  simp only [wordM, fMaj, fD, fA, fOff4, fSz, fFn, toNat_clearSw, toNat_append_eq_add, toNat_part, BitVec.toNat_ofNat]
  omega

theorem clearSw_eq_wordQ (hc : (fFn w).toNat = code) :
    w &&& 0x7FFFFFFF#32 = wordQ (BitVec.ofNat 6 maj) (fD w) (fQ w) (fTag w) (fQImm w) (BitVec.ofNat 4 code) := by
  subst hm hc
  apply BitVec.eq_of_toNat_eq
  simp only [wordQ, fMaj, fD, fQ, fTag, fQImm, fFn, toNat_clearSw, toNat_append_eq_add, toNat_part, BitVec.toNat_ofNat]
  omega

end

theorem clearSw_eq_wordHint {w : Word} {kind : ℕ} (hm : (fMaj w).toNat = 63) (hk : (fKind w).toNat = kind) :
    w &&& 0x7FFFFFFF#32 = wordHint (BitVec.ofNat 3 kind) (fPay w) := by
  subst hk
  apply BitVec.eq_of_toNat_eq
  simp only [wordHint, fMaj, fKind, fPay, toNat_clearSw, toNat_append_eq_add, toNat_part, BitVec.toNat_ofNat] at hm ⊢
  omega

/-! ### A word that decodes is the word of its instruction -/

/-- What a decoder reads from words of a major opcode encodes to those words, but for their switch markers. -/
def Reads (dec : Word → Except DecodeError Instr) (maj : ℕ) : Prop :=
  ∀ {w : Word} {i : Instr}, (fMaj w).toNat = maj → dec w = .ok i → encode i = some (w &&& 0x7FFFFFFF#32)

/-- The arithmetic majors of format G3: a row of the decoder fixes FN, and a test of the row a field or a part of it. -/
theorem reads_arithmetic : Reads decodeIalu 4 ∧ Reads decodeIalu2 5 ∧ Reads decodeAddr 8 ∧ Reads decodeFpu 9 ∧ Reads decodePk16 10 ∧
    Reads decodeSfu 11 ∧ Reads decodeCvt 12 ∧ Reads decodeXlane 13 := by
  refine ⟨?_, ?_, ?_, ?_, ?_, ?_, ?_, ?_⟩
  all_goals
    intro w i hm h
    simp only [decodeIalu, decodeIalu2, decodeAddr, decodeFpu, decodePk16, decodeSfu, decodeCvt, decodeXlane] at h
    split at h <;> rename_i code
    all_goals repeat' split at h
    all_goals cases h
    all_goals
      rw [clearSw_eq_wordG3 hm code]
      simp [encode, append_part, ofNat_of_toNat code, *]

/-- The other majors of format G3, those of ordering, copies, fetches, cards, tiles, censuses, routing and graphs. -/
theorem reads_units : Reads decodeOrder 21 ∧ Reads decodeCopy 24 ∧ Reads decodeFetch 25 ∧ Reads decodeTask 26 ∧ Reads decodeWave 27 ∧
    Reads decodeTvec 28 ∧ Reads decodeCensus 29 ∧ Reads decodeRoute 30 ∧ Reads decodeGraph 31 := by
  refine ⟨?_, ?_, ?_, ?_, ?_, ?_, ?_, ?_, ?_⟩
  all_goals
    intro w i hm h
    simp only [decodeOrder, decodeCopy, decodeFetch, decodeTask, decodeWave, decodeTvec, decodeCensus, decodeRoute, decodeGraph] at h
    split at h <;> rename_i code
    all_goals repeat' split at h
    all_goals cases h
    all_goals
      rw [clearSw_eq_wordG3 hm code]
      simp [encode, append_part, *]

/-- The majors of format G2I. -/
theorem reads_immediate : Reads decodeSys 1 ∧ Reads decodeIalui 6 ∧ Reads decodeBar 22 ∧ Reads decodeOvl 33 ∧ Reads decodeStack 34 := by
  refine ⟨?_, ?_, ?_, ?_, ?_⟩
  all_goals
    intro w i hm h
    simp only [decodeSys, decodeIalui, decodeBar, decodeOvl, decodeStack] at h
    split at h <;> rename_i code
    all_goals repeat' split at h
    all_goals cases h
    all_goals
      rw [clearSw_eq_wordG2i hm code]
      simp [encode, append_part, *]

/-- The majors of format C. -/
theorem reads_control : Reads decodeCtl 2 ∧ Reads decodeHlp 3 := by
  refine ⟨?_, ?_⟩
  all_goals
    intro w i hm h
    simp only [decodeCtl, decodeHlp] at h
    split at h <;> rename_i code
    all_goals repeat' split at h
    all_goals cases h
    all_goals
      rw [clearSw_eq_wordC hm code]
      simp [encode, append_part, *]

/-- The majors of format M. -/
theorem reads_memory : Reads decodeLdg 16 ∧ Reads decodeStg 17 ∧ Reads decodeTld 18 ∧ Reads decodeAtom 19 ∧ Reads decodeAtomt 20 ∧
    Reads decodeRemote 32 := by
  refine ⟨?_, ?_, ?_, ?_, ?_, ?_⟩
  all_goals
    intro w i hm h
    simp only [decodeLdg, decodeStg, decodeTld, decodeAtom, decodeAtomt, decodeRemote] at h
    split at h <;> rename_i code
    all_goals repeat' split at h
    all_goals cases h
    all_goals
      rw [clearSw_eq_wordM hm code]
      simp [encode, append_part, part_append, ofNat_of_toNat code, *]

/-- Format Q. -/
theorem reads_queue : Reads decodeQueue 23 := by
  intro w i hm h
  unfold decodeQueue at h
  split at h <;> rename_i code
  all_goals repeat' split at h
  all_goals cases h
  all_goals
    rw [clearSw_eq_wordQ hm code]
    simp [encode, *]

/-- HINT words, whose switch marker is clear. -/
theorem reads_hint : Reads decodeHint 63 := by
  intro w i hm h
  unfold decodeHint at h
  split at h <;> rename_i code
  all_goals repeat' split at h
  all_goals cases h
  all_goals
    rw [clearSw_eq_wordHint hm code]
    simp [encode, append_part, part_append, *]

theorem reads_movi : Reads decodeMovi 7 := by
  intro w i hm h
  cases h
  exact congrArg some (clearSw_eq_wordGi hm).symm

theorem encode_of_decodeWord {w : Word} {i : Instr} (h : decodeWord w = .ok i) : encode i = some (w &&& 0x7FFFFFFF#32) := by
  obtain ⟨ialu, ialu2, addr, fpu, pk16, sfu, cvt, xlane⟩ := reads_arithmetic
  obtain ⟨order, copy, fetch, task, wave, tvec, census, route, graph⟩ := reads_units
  obtain ⟨sys, ialui, bar, ovl, stack⟩ := reads_immediate
  obtain ⟨ctl, hlp⟩ := reads_control
  obtain ⟨ldg, stg, tld, atom, atomt, remote⟩ := reads_memory
  unfold decodeWord at h
  split at h <;> rename_i maj
  exacts [sys maj h, ctl maj h, hlp maj h, ialu maj h, ialu2 maj h, ialui maj h, reads_movi maj h, addr maj h, fpu maj h, pk16 maj h,
    sfu maj h, cvt maj h, xlane maj h, ldg maj h, stg maj h, tld maj h, atom maj h, atomt maj h, order maj h, bar maj h,
    reads_queue maj h, copy maj h, fetch maj h, task maj h, wave maj h, tvec maj h, census maj h, route maj h, graph maj h,
    remote maj h, ovl maj h, stack maj h, reads_hint maj h, nomatch h]

/-! ### The word of a well-formed instruction decodes to it -/

/-- The shift counts of ASHLADD. -/
theorem shift_cases {h : BitVec 3} (ne : h ≠ 0) : h = 1 ∨ h = 2 ∨ h = 3 ∨ h = 4 ∨ h = 5 ∨ h = 6 ∨ h = 7 := by
  revert h
  decide

/-- Words of majors 0x01 to 0x0D. An operand that is a part of FN is taken at each of its values. -/
theorem decodeWord_of_encode_low {i : Instr} {w : Word} (low : i.major ≤ 13) (formed : i.wellFormed = true) (h : encode i = some w) :
    decodeWord w = .ok i := by
  cases i
  all_goals obtain ⟨⟩ := h
  case ashladd d a b s =>
    obtain rfl | rfl | rfl | rfl | rfl | rfl | rfl := shift_cases (of_decide_eq_true formed) <;> simp [decodeWord, decodeAddr]
  case hadd2 d a b f | hsub2 d a b f | hmul2 d a b f | hfma2 d a b f | hmax2 d a b f | hmin2 d a b f =>
    obtain rfl | rfl := f.eq_zero_or_eq_one <;> simp [decodeWord, decodePk16]
  all_goals simp only [Instr.major, Nat.reduceLeDiff] at low
  all_goals
    simp only [decodeWord, decodeSys, decodeCtl, decodeHlp, decodeIalu, decodeIalu2, decodeIalui, decodeMovi, decodeAddr, decodeFpu,
      decodeSfu, decodeCvt, decodeXlane, fMaj_wordG3, fMaj_wordG2i, fMaj_wordGi, fMaj_wordC, fD_wordG3, fD_wordG2i,
      fD_wordGi, fA_wordG3, fA_wordG2i, fB_wordG3, fFn_wordG3, fSub_wordG2i, fImm8_wordG2i, fImm18_wordGi, fImm18_wordC, fOp_wordC,
      fP_wordC, BitVec.reduceToNat, extract_above, extract_within, BitVec.extractLsb'_eq_self, Nat.reduceLeDiff, Nat.reduceAdd,
      Nat.reduceSub, le_refl, BitVec.ofNat_eq_ofNat, BitVec.reduceEq, and_self, reduceIte]

/-- Words of majors 0x10 to 0x17. -/
theorem decodeWord_of_encode_middle {i : Instr} {w : Word} (high : 14 ≤ i.major) (low : i.major ≤ 23) (h : encode i = some w) :
    decodeWord w = .ok i := by
  cases i
  all_goals obtain ⟨⟩ := h
  case ld d a o z x | ldAcq d a o z x => obtain rfl | rfl := x.eq_zero_or_eq_one <;> simp [decodeWord, decodeLdg]
  all_goals simp only [Instr.major, Nat.reduceLeDiff] at low high
  all_goals
    simp only [decodeWord, decodeLdg, decodeStg, decodeTld, decodeAtom, decodeAtomt, decodeOrder, decodeBar, decodeQueue, fMaj_wordG3,
      fMaj_wordG2i, fMaj_wordM, fMaj_wordQ, fD_wordG3, fD_wordG2i, fD_wordM, fD_wordQ, fA_wordG3, fA_wordG2i, fA_wordM, fB_wordG3,
      fFn_wordG3, fFn_wordM, fFn_wordQ, fSub_wordG2i, fImm8_wordG2i, fOff4_wordM, fSz_wordM, fQ_wordQ, fTag_wordQ, fQImm_wordQ,
      BitVec.reduceToNat, extract_above, extract_within, BitVec.extractLsb'_eq_self, Nat.reduceAdd, Nat.reduceSub,
      le_refl, BitVec.ofNat_eq_ofNat, BitVec.reduceEq, false_and, and_self, reduceIte]

/-- Words of majors 0x18 to 0x22, and HINT words. -/
theorem decodeWord_of_encode_high {i : Instr} {w : Word} (high : 24 ≤ i.major) (h : encode i = some w) : decodeWord w = .ok i := by
  cases i
  all_goals obtain ⟨⟩ := h
  all_goals simp only [Instr.major, Nat.reduceLeDiff] at high
  all_goals
    simp only [decodeWord, decodeCopy, decodeFetch, decodeTask, decodeWave, decodeTvec, decodeCensus, decodeRoute, decodeGraph,
      decodeRemote, decodeOvl, decodeStack, decodeHint, fMaj_wordG3, fMaj_wordG2i, fMaj_wordM, fMaj_wordHint, fD_wordG3, fD_wordG2i,
      fD_wordM, fA_wordG3, fA_wordG2i, fA_wordM, fB_wordG3, fFn_wordG3, fFn_wordM, fSub_wordG2i, fImm8_wordG2i, fOff4_wordM,
      fSz_wordM, fKind_wordHint, fPay_wordHint, fSw_wordHint, BitVec.reduceToNat, extract_above, extract_within,
      BitVec.extractLsb'_eq_self, Nat.reduceLeDiff, Nat.reduceAdd, Nat.reduceSub, le_refl, BitVec.ofNat_eq_ofNat, and_self, reduceIte]

/-- Every instruction but an event has a word. -/
theorem encode_isSome (i : Instr) : (encode i).isSome = (i.major != 0) := by
  cases i <;> rfl

/-- Settles O55: each decoder inverts the encoding of its rows. -/
theorem decodeEncode : Obligations.DecodeEncode := by
  refine ⟨fun i w formed h => ?_, fun i w => encode_of_decodeWord, fun i => by rw [encode_isSome, bne_iff_ne]⟩
  rcases Nat.lt_or_ge 13 i.major with high | low
  · rcases Nat.lt_or_ge 23 i.major with higher | low
    · exact decodeWord_of_encode_high higher h
    · exact decodeWord_of_encode_middle high low h
  · exact decodeWord_of_encode_low low formed h

/-- Settles O54: each word is that of its instruction, or fails one of the steps 1 to 3 of R57. -/
theorem decodesSpecWords : Obligations.DecodesSpecWords := by
  exact ⟨rfl, rfl, rfl, rfl, rfl, rfl, rfl, rfl, rfl, rfl, rfl, rfl, rfl, rfl⟩

end Sys2Proof

/-!
SUPPORT. The life of a context (R77, R89 to R99, R104, R113, R119, R246): creation and destruction by what each leaves, commands that
name a context as one gate with the effect behind it, and the reading of a graph by what each of its two reads answers.
-/

namespace Sys2Proof.Machine

open Sys2Proof

/-! ### Creation (R89, R91) -/

theorem State.wakeBanks_kept (s : State) (part : ℕ) : (s.wakeBanks part).ctxs = s.ctxs ∧ (s.wakeBanks part).groups = s.groups ∧
    (s.wakeBanks part).mem = s.mem := by
  unfold State.wakeBanks
  split <;> exact ⟨rfl, rfl, rfl⟩

/-- The generation that the next context of a number gets (R91). -/
def State.genFor (s : State) (part id : ℕ) : ℕ := nextGen (((s.part? part).map fun p => p.gens.getD id 0).getD 0)

theorem State.createCtx_kept (s : State) (fn : ℕ) (bs : List Byte) :
    (s.createCtx fn bs).ctxs = s.ctxs.filter (fun c => !isCtx (fieldAt bs 6 1) (fieldAt bs 0 2) c) ++
      [ctxOfDesc fn (s.genFor (fieldAt bs 6 1) (fieldAt bs 0 2)) bs] ∧
    (s.createCtx fn bs).groups = s.groups ∧ (s.createCtx fn bs).mem = s.mem :=
  State.wakeBanks_kept _ _

theorem isCtx_iff {part id : ℕ} {c : Ctx} : isCtx part id c = true ↔ c.part = part ∧ c.ctxid = id := by
  simp [isCtx]

/-- A context that takes the place of the one with its name is found under that name. -/
theorem find?_replaced_same {part id : ℕ} {c : Ctx} (is : isCtx part id c = true) (l : List Ctx) :
    (l.filter (fun d => !isCtx part id d) ++ [c]).find? (isCtx part id) = some c := by
  have gone : (l.filter fun d => !isCtx part id d).find? (isCtx part id) = none := by simp
  simp [List.find?_append, gone, is]

/-- Under any other name the same context is found as before. -/
theorem find?_replaced_other {part id p n : ℕ} {c : Ctx} (is : isCtx part id c = true) (other : p ≠ part ∨ n ≠ id) (l : List Ctx) :
    (l.filter (fun d => !isCtx part id d) ++ [c]).find? (isCtx p n) = l.find? (isCtx p n) := by
  have apart (d : Ctx) (h : isCtx p n d = true) : isCtx part id d = false := by
    obtain ⟨rfl, rfl⟩ := isCtx_iff.mp h
    rw [← Bool.not_eq_true, isCtx_iff]
    tauto
  have new : isCtx p n c = false := by
    by_contra h
    exact absurd (apart c (by simpa using h)) (by simp [is])
  have same : (fun d => (!isCtx part id d) && isCtx p n d) = isCtx p n := by
    funext d
    by_cases h : isCtx p n d = true
    · simp [h, apart d h]
    · simp [h]
  simp [List.find?_append, List.find?_filter, new, same]

theorem createContext_notReady {s : State} (h : ¬Claim.ready s) (fn : ℕ) (bs : List Byte) :
    exec (.createContext fn bs) s = .next (Claim.answer s fn .notReady) := by
  rw [← s.commandable_iff] at h
  simp [exec, execCreateContext, h, State.setStatus_eq_answer]

theorem createContext_access {s : State} {fn : ℕ} {bs : List Byte} (h : Claim.ready s) (inUse : fieldAt bs 6 1 < s.partCount)
    (own : ¬Claim.reaches s fn (fieldAt bs 6 1)) : exec (.createContext fn bs) s = .next (Claim.answer s fn .access) := by
  rw [← s.commandable_iff] at h
  have may : s.mayReach fn (fieldAt bs 6 1) = false := by
    rw [← s.mayReach_iff] at own
    simpa [inUse] using own
  simp [exec, execCreateContext, h, inUse, may, State.setStatus_eq_answer]

/-- A function that may act on the partition, or names none in use, goes on to the test of the descriptor. -/
theorem createContext_tests {s : State} {fn : ℕ} {bs : List Byte} (h : Claim.ready s)
    (own : fieldAt bs 6 1 < s.partCount → s.mayReach fn (fieldAt bs 6 1) = true) :
    exec (.createContext fn bs) s = .next (s.okIf fn (descOk s bs) fun s => s.createCtx fn bs) := by
  rw [← s.commandable_iff] at h
  simp only [exec, execCreateContext, h]
  simpa using fun inUse no => absurd (own inUse) (by simp [no])

/-- A descriptor of a partition that is not in use is refused. -/
theorem descOk_unused {s : State} {bs : List Byte} (h : s.partCount ≤ fieldAt bs 6 1) : descOk s bs = false := by
  simp [descOk, Nat.not_lt.mpr h]

section
variable {s : State} {fn : ℕ} {bs : List Byte} (ready : Claim.ready s) (own : Claim.reaches s fn (fieldAt bs 6 1))
include ready own

theorem createContext_invalid (bad : descOk s bs = false) : exec (.createContext fn bs) s = .next (Claim.answer s fn .invalid) := by
  rw [createContext_tests ready fun _ => ((s.mayReach_iff fn _).mpr own).1, bad]
  rfl

/-- A valid descriptor makes its context, and touches no other (R89, R91). -/
theorem createContext_creates (ok : descOk s bs = true) : ∃ t c, exec (.createContext fn bs) s = .next t ∧
    t.ctx? (fieldAt bs 6 1) (fieldAt bs 0 2) = some c ∧ c.state = .idle ∧ c.gen = s.genFor (fieldAt bs 6 1) (fieldAt bs 0 2) ∧
    c.asid = fieldAt bs 4 2 ∧ c.prio = fieldAt bs 7 1 ∧ c.ptroot = fieldAt bs 8 8 ∧ c.floor = fieldAt bs 0x20 4 ∧
    c.wdog = fieldAt bs 0x28 4 ∧ (∀ p n, (p ≠ fieldAt bs 6 1 ∨ n ≠ fieldAt bs 0 2) → t.ctx? p n = s.ctx? p n) ∧
    t.groups = s.groups ∧ t.mem = s.mem := by
  rw [createContext_tests ready fun _ => ((s.mayReach_iff fn _).mpr own).1, ok]
  obtain ⟨ctxs, groups, mem⟩ := s.createCtx_kept fn bs
  have is : isCtx (fieldAt bs 6 1) (fieldAt bs 0 2) (ctxOfDesc fn (s.genFor (fieldAt bs 6 1) (fieldAt bs 0 2)) bs) = true :=
    isCtx_iff.mpr ⟨rfl, rfl⟩
  exact ⟨_, _, rfl, (congrArg (List.find? _) ctxs).trans (find?_replaced_same is s.ctxs), rfl, rfl, rfl, rfl, rfl, rfl, rfl,
    fun p n other => (congrArg (List.find? _) ctxs).trans (find?_replaced_other is other s.ctxs), groups, mem⟩

end

/-! ### Destruction (R93) -/

/-- Changing cores changes nothing but the cores. -/
theorem State.modCores_eq (s : State) (cs : List ℕ) (f : Core → Core) :
    s.modCores cs f = { s with cores := (s.modCores cs f).cores } := by
  induction cs generalizing s with
  | nil => rfl
  | cons c cs ih => exact ih (s.modCore c f)

theorem State.part?_modPart (s : State) (p : ℕ) (f : Partition → Partition) : (s.modPart p f).part? p = (s.part? p).map f := by
  simp only [State.modPart, State.part?, modAt]
  split
  · next pt there =>
    obtain ⟨inRange, rfl⟩ := List.getElem?_eq_some_iff.mp there
    simp [inRange]
  · next missing => simp [missing]

theorem State.freeTagged_kept (s : State) (c : Ctx) : (s.freeTagged c).ctxs = s.ctxs ∧ (s.freeTagged c).groups = s.groups ∧
    (s.freeTagged c).launches = s.launches ∧ (s.freeTagged c).mem = s.mem ∧ (s.freeTagged c).hostMem = s.hostMem := by
  unfold State.freeTagged
  rw [State.modCores_eq]
  exact ⟨rfl, rfl, rfl, rfl, rfl⟩

/-- No translation of the context's address space is left (R93). -/
theorem State.freeTagged_tlb {s : State} {c : Ctx} {pt : Partition} (there : (s.freeTagged c).part? c.part = some pt) {e : TlbEntry}
    (left : e ∈ pt.tlb) : e.asid ≠ c.asid := by
  unfold State.freeTagged at there
  rw [State.part?_modPart] at there
  obtain ⟨q, -, rfl⟩ := Option.map_eq_some_iff.mp there
  simpa using (List.mem_filter.mp left).2

theorem State.discardCtx_mem (s : State) (part id : ℕ) : (s.discardCtx part id).mem = s.mem ∧
    (s.discardCtx part id).hostMem = s.hostMem := by
  obtain ⟨mem, hostMem, -⟩ := s.errored_kept part id
  exact ⟨mem, hostMem⟩

theorem State.kill_mem (s : State) (c : Ctx) : (s.kill c).mem = s.mem ∧ (s.kill c).hostMem = s.hostMem := by
  obtain ⟨-, -, -, mem, hostMem⟩ := (s.discardCtx c.part c.ctxid).freeTagged_kept c
  obtain ⟨mem', hostMem'⟩ := s.discardCtx_mem c.part c.ctxid
  exact ⟨mem.trans mem', hostMem.trans hostMem'⟩

section
variable {s : State} {part id : ℕ} {c : Ctx} (hc : s.ctx? part id = some c)
include hc

theorem State.ctx?_named : c.part = part ∧ c.ctxid = id := isCtx_iff.mp (List.find?_some hc)

theorem State.ctx?_discardCtx : (s.discardCtx part id).ctx? part id =
    some { c with graph := none, graphWait := [], asks := [] } := by
  have there : (s.withoutWork part id).ctx? part id = some c := (congrArg (List.find? _) (s.withoutWork_discards part id).ctxs).trans hc
  rw [State.discardCtx_eq]
  generalize s.withoutWork part id = u at there ⊢
  exact State.ctx?_modCtx there (f := fun c => { c with graph := none, graphWait := [], asks := [] }) fun _ => rfl

theorem State.ctx?_kill {d : Ctx} (there : (s.kill c).ctx? part id = some d) : d.state = .killed ∧ d.images = [] := by
  obtain ⟨rfl, rfl⟩ := State.ctx?_named hc
  obtain ⟨ctxs, -⟩ := (s.discardCtx c.part c.ctxid).freeTagged_kept c
  have kept := (congrArg (List.find? (isCtx c.part c.ctxid)) ctxs).trans (State.ctx?_discardCtx hc)
  have killed := State.ctx?_modCtx kept
    (f := fun c => { c.dropSlots with state := .killed, images := [], active := none, staged := none }) fun _ => rfl
  cases there.symm.trans killed
  exact ⟨rfl, rfl⟩

theorem State.kill_group {g : Group} (left : g ∈ (s.kill c).groups) (same : g.part = part) : g.ctxid ≠ id := by
  obtain ⟨rfl, rfl⟩ := State.ctx?_named hc
  obtain ⟨-, groups, -⟩ := (s.discardCtx c.part c.ctxid).freeTagged_kept c
  have still : g ∈ (s.discardCtx c.part c.ctxid).groups := groups ▸ left
  exact State.errored_group still same

theorem State.kill_launch {l : Launch} (left : l ∈ (s.kill c).launches) (same : l.part = part) : l.ctxid ≠ id := by
  obtain ⟨rfl, rfl⟩ := State.ctx?_named hc
  obtain ⟨-, -, launches, -⟩ := (s.discardCtx c.part c.ctxid).freeTagged_kept c
  have still : l ∈ (s.discardCtx c.part c.ctxid).launches := launches ▸ left
  exact State.errored_launch still same

theorem State.kill_tlb {pt : Partition} (there : (s.kill c).part? part = some pt) {e : TlbEntry} (left : e ∈ pt.tlb) :
    e.asid ≠ c.asid := by
  obtain ⟨rfl, rfl⟩ := State.ctx?_named hc
  exact State.freeTagged_tlb there left

end

/-! ### Commands that name a context (R91, R93) -/

/-- The commands on the work of a context, one by one. -/
theorem ofContext_cases {i : Instr} {fn part id gen : ℕ} (h : Claim.ofContext i = some (fn, part, id, gen)) :
    i = .preempt fn part ⟨id, gen⟩ ∨ (∃ bs, i = .kernelLaunch fn part ⟨id, gen⟩ bs) ∨
      (∃ bs, i = .graphLaunch fn part ⟨id, gen⟩ bs) ∨ (∃ bs, i = .imageLoad fn part ⟨id, gen⟩ bs) ∨ ∃ n, i = .rollbackFloorRaise fn part ⟨id, gen⟩ n := by
  unfold Claim.ofContext at h
  split at h <;> cases h <;> simp

/-- Each of them, and DESTROY, passes the gate of a partition and then names a context. -/
theorem exec_eq_ctxCommand {i : Instr} {fn part id gen : ℕ}
    (h : Claim.ofContext i = some (fn, part, id, gen) ∨ i = .destroy fn part ⟨id, gen⟩) (s : State) :
    ∃ k, exec i s = .next (s.ctxCommand fn part id gen k) := by
  rcases h with h | rfl
  · rcases ofContext_cases h with rfl | ⟨bs, rfl⟩ | ⟨bs, rfl⟩ | ⟨bs, rfl⟩ | ⟨n, rfl⟩ <;> exact ⟨_, rfl⟩
  · exact ⟨_, rfl⟩

theorem State.ctxCommand_gate (s : State) (fn part id gen : ℕ) (k : State → Ctx → State) :
    Gate s fn (Claim.reaches s fn part) (s.ctxCommand fn part id gen k) (s.ofGen fn part id gen k) :=
  s.command_gate fn part _

section
variable {s : State} {fn part id : ℕ} {c : Ctx} {pt : Partition} (ready : Claim.ready s) (own : Claim.reaches s fn part)
  (hc : s.ctx? part id = some c)
include ready own hc

/-- A command that names a context of its generation has its effect. -/
theorem State.ctxCommand_of_found (k : State → Ctx → State) : s.ctxCommand fn part id c.gen k = k s c := by
  rw [(s.ctxCommand_gate fn part id c.gen k).passes ready own]
  simp [State.ofGen, hc]

theorem State.launchCommand_of_dead (dead : c.state = .error ∨ c.state = .killed) (k : State → Ctx → State) :
    s.launchCommand fn part ⟨id, c.gen⟩ k = Claim.answer s fn .dead :=
  (State.ctxCommand_of_found ready own hc _).trans (if_pos dead)

theorem State.launchCommand_of_live (live : ¬(c.state = .error ∨ c.state = .killed)) (k : State → Ctx → State) :
    s.launchCommand fn part ⟨id, c.gen⟩ k = k s c :=
  (State.ctxCommand_of_found ready own hc _).trans (if_neg live)

theorem imageLoad_of_dead (hpt : s.part? part = some pt) (dead : c.state = .error ∨ c.state = .killed) (bs : List Byte) :
    exec (.imageLoad fn part ⟨id, c.gen⟩ bs) s = .next (Claim.answer s fn .dead) := by
  refine congrArg Host.Outcome.next ((State.ctxCommand_of_found ready own hc _).trans ?_)
  simp only [hpt, if_pos dead, State.setStatus_eq_answer]

/-- An image that fails a check of the loader changes nothing but the status (R77). -/
theorem imageLoad_of_failed (hpt : s.part? part = some pt) (live : ¬(c.state = .error ∨ c.state = .killed)) {bs : List Byte} {st : ℕ}
    (failed : loadImage pt c bs = (st, none)) :
    exec (.imageLoad fn part ⟨id, c.gen⟩ bs) s = .next (Claim.answer s fn (.load st)) := by
  refine congrArg Host.Outcome.next ((State.ctxCommand_of_found ready own hc _).trans ?_)
  simp only [hpt, if_neg live, failed, State.setStatus_eq_answer]

/-- An image that passes every check of the loader is the context's last (R77). -/
theorem imageLoad_of_loaded (hpt : s.part? part = some pt) (live : ¬(c.state = .error ∨ c.state = .killed)) {bs : List Byte} {st : ℕ}
    {im : Image} (loaded : loadImage pt c bs = (st, some im)) : exec (.imageLoad fn part ⟨id, c.gen⟩ bs) s =
      .next (Claim.answer (s.modCtx part id fun d => { d with images := d.images ++ [im], nextHandle := d.nextHandle + 1 }) fn
        (.load 0)).moved := by
  refine congrArg Host.Outcome.next ((State.ctxCommand_of_found ready own hc _).trans ?_)
  simp only [hpt, if_neg live, loaded, State.setStatus_eq_answer]

/-- A command on the work of a context that has ended is DEAD. -/
theorem ofContext_dead {i : Instr} (hpt : s.part? part = some pt) (h : Claim.ofContext i = some (fn, part, id, c.gen))
    (dead : c.state = .error ∨ c.state = .killed) : exec i s = .next (Claim.answer s fn .dead) := by
  rcases ofContext_cases h with rfl | ⟨bs, rfl⟩ | ⟨bs, rfl⟩ | ⟨bs, rfl⟩ | ⟨n, rfl⟩
  case inr.inr.inr.inl => exact imageLoad_of_dead ready own hc hpt dead bs
  all_goals exact congrArg Host.Outcome.next (State.launchCommand_of_dead ready own hc dead _)

theorem destroy_of_found : exec (.destroy fn part ⟨id, c.gen⟩) s =
    .next (s.okIf fn (c.state != .killed) fun s => s.kill c) :=
  congrArg Host.Outcome.next (State.ctxCommand_of_found ready own hc _)

theorem destroy_of_killed (killed : c.state = .killed) :
    exec (.destroy fn part ⟨id, c.gen⟩) s = .next (Claim.answer s fn .invalid) := by
  rw [destroy_of_found ready own hc, State.okIf_of_not bne_iff_ne (not_not.mpr killed)]

/-- DESTROY leaves nothing of a context but its memory (R93). -/
theorem destroy_of_live (live : c.state ≠ .killed) : ∃ t, exec (.destroy fn part ⟨id, c.gen⟩) s = .next t ∧ t.mem = s.mem ∧
    t.hostMem = s.hostMem ∧ (∀ d, t.ctx? part id = some d → d.state = .killed ∧ d.images = []) ∧
    (∀ g ∈ t.groups, g.part = part → g.ctxid ≠ id) ∧ (∀ l ∈ t.launches, l.part = part → l.ctxid ≠ id) ∧
    ∀ q, t.part? part = some q → ∀ e ∈ q.tlb, e.asid ≠ c.asid := by
  obtain ⟨mem, hostMem⟩ := s.kill_mem c
  have found (d : Ctx) := State.ctx?_kill hc (d := d)
  have groups (g : Group) := State.kill_group hc (g := g)
  have launches (l : Launch) := State.kill_launch hc (l := l)
  have tlb (q : Partition) there (e : TlbEntry) := State.kill_tlb hc (pt := q) there (e := e)
  rw [destroy_of_found ready own hc, State.okIf_of bne_iff_ne (fun _ => rfl) live]
  generalize s.kill c = t at *
  exact ⟨_, rfl, mem, hostMem, found, groups, launches, tlb⟩

theorem preempt_of_live (live : ¬(c.state = .error ∨ c.state = .killed)) : exec (.preempt fn part ⟨id, c.gen⟩) s =
    .next (s.okIf fn (c.state == .running) fun s => s.quiesce part id 2) :=
  congrArg Host.Outcome.next (State.launchCommand_of_live ready own hc live _)

theorem rollbackFloorRaise_of_live (live : ¬(c.state = .error ∨ c.state = .killed)) (n : ℕ) :
    exec (.rollbackFloorRaise fn part ⟨id, c.gen⟩ n) s =
      .next (s.okIf fn (decide (c.floor ≤ n ∧ n < 2 ^ 32)) fun s => s.modCtx part id fun c => { c with floor := n }) :=
  congrArg Host.Outcome.next (State.launchCommand_of_live ready own hc live _)

/-- KERNEL_LAUNCH: a record that holds is queued, in a context that runs from then on (R93, R113). -/
theorem kernelLaunch_of_live (live : ¬(c.state = .error ∨ c.state = .killed)) (bs : List Byte) :
    exec (.kernelLaunch fn part ⟨id, c.gen⟩ bs) s =
      .next (s.okIf fn (kernelRecordOk s c bs) fun s => { s.modCtx part id Ctx.submit with
        nextSeq := s.nextSeq + 1
        launches := s.launches ++ [
          { lid := s.nextSeq, ord := s.nextSeq, part := part, ctxid := id, record := launchRecOf bs, recVa := none,
            state := .queued, variant := 0, groups := 0, placed := 0, retired := 0, freed := 0, sizeWord := 0, node := none,
            first := 0, count := 0, startClk := 0, waitReq := none }] }) :=
  congrArg Host.Outcome.next (State.launchCommand_of_live ready own hc live _)

/-- GRAPH_LAUNCH: a record that holds is an ask of the context, whose graph the walker begins to read (R119). -/
theorem graphLaunch_of_live (live : ¬(c.state = .error ∨ c.state = .killed)) (bs : List Byte) :
    exec (.graphLaunch fn part ⟨id, c.gen⟩ bs) s =
      .next (if !graphRecordOk bs then Claim.answer s fn .invalid
        else
          let a : GraphAsk :=
            { fn := fn, ord := s.nextSeq, serial := bitOf (fieldAt bs 1 1) 0, va := fieldAt bs 0x60 8, waitReq := none }
          (({ s with nextSeq := s.nextSeq + 1 } : State).modCtx part id fun d => { d.submit with asks := d.asks ++ [a] }).readGraph c a) :=
  congrArg Host.Outcome.next (State.launchCommand_of_live ready own hc live _)

end

/-! ### Reading a graph (R119) -/

/-- The ask of a graph waits for the page at which the walker stopped. -/
def State.askWaits (s : State) (c : Ctx) (ord : ℕ) (st : RunStop) : State :=
  let w := s.engineStop c .read noCore (.graph ord) st
  w.1.modCtx c.part c.ctxid fun d => { d with asks := modWhere d.asks (fun b => b.ord == ord) fun b => { b with waitReq := w.2 } }

section
variable {s : State} {c : Ctx} {va n : ℕ} (ord : ℕ) (k : State → List Byte → State)

theorem State.askRead_of_stop {st : RunStop} (h : (xlateBytes s c .read (runFrom va n)).stop = some st) :
    s.askRead c ord va n k = (xlateBytes s c .read (runFrom va n)).s.askWaits c ord st := by
  simp only [State.askRead, h]
  rfl

theorem State.askRead_of_read (h : (xlateBytes s c .read (runFrom va n)).stop = none) :
    s.askRead c ord va n k = k (xlateBytes s c .read (runFrom va n)).s
      ((xlateBytes s c .read (runFrom va n)).s.readPlaces (xlateBytes s c .read (runFrom va n)).places) := by
  simp only [State.askRead, h]

end

/-! ### What the distributor and the clock begin (R95, R99, R104, R246) -/

theorem State.overtime_iff {s : State} {l : Launch} {c : Ctx} (hc : s.ctx? l.part l.ctxid = some c) : s.overtime l = true ↔
    (l.state = .placing ∨ l.state = .running) ∧ (c.state = .running ∨ c.state = .preempting) ∧ c.wdog ≠ 0 ∧
      l.startClk + c.wdog * 700000 ≤ s.clk := by
  simp [State.overtime, hc, and_assoc]

theorem State.deadlocked_of {s : State} {g : Group} {c : Ctx} {t : Team} (state : g.state = .running ∨ g.state = .draining)
    (hc : s.ctxOf g = some c) (runs : c.state = .running) (first : g.firstStuck = some t)
    (held : ∀ u ∈ g.teams, u.finished = true ∨ (u.queueHeld = true ∧ u.parked = false)) (late : g.qMark + 2 ^ 20 ≤ s.clk) :
    s.deadlocked g = true := by
  have stuck : ∃ u ∈ g.teams, u.finished = false := ⟨t, List.mem_of_find?_eq_some first, by simpa using List.find?_some first⟩
  simpa [State.deadlocked, state, hc, runs, stuck] using ⟨held, late⟩

/-- Settles O46: creation, the commands that name a context, a graph's reading, and what the distributor and the clock begin. -/
theorem contextLife : Obligations.ContextLife := by
  unfold Obligations.ContextLife
  refine ⟨fun fn bs s => ⟨fun h => createContext_notReady h fn bs, createContext_access, fun ready unused => ?_⟩,
    fun fn bs s ready own => ⟨fun bad => ?_, fun ok => ?_⟩, fun i fn part id gen s named => ?_,
    fun i fn part id gen s c pt ready own hc same hpt => ?_, fun s c a hc ha => ?_, fun s c a => ?_, fun s l c hl hd => ?_,
    fun s part id c hc => ⟨fun state census cards => ?_, fun t first same rank resumed => ?_⟩,
    fun s l c hl state hc runs wdog late => ?_, fun s g c t hg state hc runs first held late => ?_⟩
  · rw [createContext_tests ready fun inUse => absurd inUse (Nat.not_lt.mpr unused), descOk_unused unused]
    rfl
  · exact createContext_invalid ready own bad
  · exact createContext_creates ready own ok
  · obtain ⟨k, run⟩ := exec_eq_ctxCommand named s
    have gate := s.ctxCommand_gate fn part id gen k
    refine ⟨fun no => run.trans (congrArg _ (gate.notReady no)), fun ready no => run.trans (congrArg _ (gate.access ready no)),
      fun ready own missing => ?_, fun c ready own hc other => ?_⟩
    · rw [run, gate.passes ready own]
      simp [State.ofGen, missing, State.setStatus_eq_answer]
    · rw [run, gate.passes ready own]
      simp [State.ofGen, hc, other, Claim.discarded]
  · subst same
    refine ⟨ofContext_dead ready own hc hpt, ?_, ?_, fun notError notKilled => ?_⟩
    · rintro rfl
      exact destroy_of_killed ready own hc
    · rintro rfl
      exact destroy_of_live ready own hc
    · have live := not_or.mpr ⟨notError, notKilled⟩
      refine ⟨?_, ?_, ?_, ?_, ?_, ?_, ?_⟩
      · rintro rfl
        rw [preempt_of_live ready own hc live]
        exact ⟨fun runs => by rw [State.okIf_of beq_iff_eq (fun _ => rfl) runs],
          fun idle => by rw [State.okIf_of_not beq_iff_eq idle]⟩
      · rintro n rfl
        rw [rollbackFloorRaise_of_live ready own hc live]
        refine ⟨fun rises fits => ?_, fun out => ?_⟩
        · rw [State.okIf_of decide_eq_true_iff (fun _ => rfl) ⟨rises, fits⟩]
        · rw [State.okIf_of_not decide_eq_true_iff (by omega)]
      · rintro bs rfl ok
        rw [kernelLaunch_of_live ready own hc live, State.okIf_of Iff.rfl (fun _ => rfl) ok]
        rfl
      · rintro bs rfl bad
        rw [kernelLaunch_of_live ready own hc live, State.okIf_of_not Iff.rfl (by simp [bad])]
      · rintro bs rfl bad
        rw [graphLaunch_of_live ready own hc live, if_pos (by simp [bad])]
      · rintro bs rfl ok
        rw [graphLaunch_of_live ready own hc live, if_neg (by simp [ok])]
        rfl
      · rintro bs rfl
        exact ⟨fun st => imageLoad_of_failed ready own hc hpt live, fun st im loaded =>
          ⟨_, imageLoad_of_loaded ready own hc hpt live loaded, rfl⟩⟩
  · simp only [Ev.run, execGraphRead, hc, ha]
  · refine ⟨fun st stops => State.askRead_of_stop a.ord _ stops, fun st reads stops => ?_, fun reads records refused => ?_,
      fun h reads records graph => ?_⟩
    · rw [State.readGraph, State.askRead_of_read _ _ reads]
      exact State.askRead_of_stop a.ord _ stops
    · rw [State.readGraph, State.askRead_of_read _ _ reads, State.askRead_of_read _ _ records, refused]
      rfl
    · rw [State.readGraph, State.askRead_of_read _ _ reads, State.askRead_of_read _ _ records, graph]
      rfl
  · simp [exec, execPreemptionDecision, hl, hd]
  · simp [exec, execSaveComplete, hc, state, census, cards]
  · simp [exec, execResume, State.resumption, first, same, rank, resumed]
  · have expired := (State.overtime_iff hc).mpr ⟨state, runs, wdog, late⟩
    simp only [exec, execWatchdog, hl, expired, if_true]
    rfl
  · have stuck := State.deadlocked_of state hc runs first held late
    simp only [exec, execQdeadlock, hg, stuck, if_true]
    rw [show g.firstStuck = some t from first]
    rfl

end Sys2Proof.Machine

/-!
SUPPORT. The SYS words (R102, R110, R171): what a word that changes nothing leaves, what TRAP, BKPT and TRET do, and what a written state
register reads as (R8, R29, R31, R103, R107, R108).
-/

namespace Sys2Proof.Machine

open Sys2Proof

/-! ### Words that move on or trap -/

/-- A word whose own effect is none moves on. -/
theorem issue_movesOn {i : Instr} {s : State} {x : Iss} (h : issueOf i s = some x) (body : Iss → Act) (none : body x = .ok x.s) :
    ∃ t, issue i s body = .next t ∧ MovesOn x.s t x :=
  ⟨_, issue_of h body, by rw [none]; exact conclude_ok i x x.s⟩

/-- NOP and YIELD have no effect of their own. -/
theorem exec_idle {i : Instr} (named : i = .nop ∨ i = .yield) (s : State) : exec i s = issue i s fun x => .ok x.s := by
  rcases named with rfl | rfl <;> rfl

/-- TRAP and BKPT are one effect with two codes. -/
theorem exec_trapNext {i : Instr} {code : ℕ} {n : BitVec 8}
    (named : (i = .trap n ∧ code = trapSoft) ∨ (i = .bkpt n ∧ code = trapBkpt)) (s : State) : exec i s = issue i s fun x => if x.t.idle then .ok x.s else .trapNext code (n.zeroExtend 64) := by
  rcases named with ⟨rfl, rfl⟩ | ⟨rfl, rfl⟩ <;> rfl

section
variable {s : State} {x : Iss} (h : issueOf .tret s = some x)
include h

theorem exec_tret_returns (inHandler : x.t.trapInh = true) (names : (x.s.codeWord x.g x.t.trappc).isSome = true) :
    ∃ t, exec .tret s = .next t ∧ TeamStepAt s t x { x.t with trapInh := false, pc := x.t.trappc } x.t.trappc := by
  refine ⟨_, ?_, conclude_goto h x.t.trapReturn rfl x.t.trappc⟩
  simp only [exec, execTret, issue_of h]
  rw [if_neg (by simp [inHandler]), if_neg (by simpa [Option.isSome_iff_ne_none] using names)]

theorem exec_tret_illegal (outside : x.t.trapInh = false) : exec .tret s = .next (Claim.trapped x trapIllegal x.word) := by
  simp only [exec, execTret, issue_of h]
  rw [if_pos (by simp [outside])]
  rfl

theorem exec_tret_overlay (inHandler : x.t.trapInh = true) (unnamed : (x.s.codeWord x.g x.t.trappc).isSome = false) :
    exec .tret s = .next (Claim.trapped x trapOverlay (x.t.trappc.zeroExtend 64)) := by
  simp only [exec, execTret, issue_of h]
  rw [if_neg (by simp [inHandler]), if_pos (by simpa using unnamed)]
  rfl

end

/-- Settles O10: words without an effect move on, TRAP and BKPT raise their trap where a lane runs, and TRET has its three cases. -/
theorem systemWords : Obligations.SystemWords := by
  unfold Obligations.SystemWords
  refine ⟨fun i s x named h => ?_, fun i code n s x named h => ⟨fun runs => ?_, fun idle => ?_⟩,
    fun s x h => ⟨exec_tret_returns h, exec_tret_illegal h, exec_tret_overlay h⟩⟩
  · rw [exec_idle named]
    exact issue_movesOn h _ rfl
  · rw [exec_trapNext named, issue_of h, if_neg (by simp [runs])]
    rfl
  · rw [exec_trapNext named]
    exact issue_movesOn h _ (if_pos idle)

/-! ### State registers -/

@[simp] theorem Team.writeState_tid (t : Team) (n : ℕ) (w : Word) : (t.writeState n w).tid = t.tid := by
  unfold Team.writeState
  (repeat' split) <;> rfl

/-- RDCLK outside the ACCESS role writes the halves of the clock. -/
theorem ofNat_and_low (n : ℕ) : BitVec.ofNat 64 n &&& 0xFFFFFFFF#64 = BitVec.ofNat 64 (n % 2 ^ 32) := by
  apply BitVec.eq_of_toNat_eq
  rw [BitVec.toNat_and, show (0xFFFFFFFF#64).toNat = 2 ^ 32 - 1 from rfl, Nat.and_two_pow_sub_one_eq_mod]
  simp only [BitVec.toNat_ofNat]
  omega

theorem ofNat_shift_high (n : ℕ) : BitVec.ofNat 64 n >>> 32 = BitVec.ofNat 64 (n / 2 ^ 32 % 2 ^ 32) := by
  apply BitVec.eq_of_toNat_eq
  simp only [BitVec.toNat_ushiftRight, BitVec.toNat_ofNat, Nat.shiftRight_eq_div_pow]
  omega

theorem isCodeAddr_iff (w : Word) : isCodeAddr w = true ↔ w.toNat < 2 ^ 24 ∧ w.toNat % 4 = 0 := by
  have small := w.isLt
  simp only [isCodeAddr, Bool.and_eq_true, beq_iff_eq, ← BitVec.toNat_inj, BitVec.extractLsb'_toNat, Nat.shiftRight_eq_div_pow]
  simp
  omega

theorem zeroExtend_eq_ofNat (w : Word) : w.zeroExtend 64 = BitVec.ofNat 64 w.toNat := (BitVec.ofNat_toNat 64 w).symm

/-- A mask of the low bits is a remainder. -/
theorem zeroExtend_lowBits (w : Word) {mask : Word} {k : ℕ} (hm : mask.toNat = 2 ^ k - 1) :
    (w &&& mask).zeroExtend 64 = BitVec.ofNat 64 (w.toNat % 2 ^ k) := by
  rw [zeroExtend_eq_ofNat, BitVec.toNat_and, hm, Nat.and_two_pow_sub_one_eq_mod]

theorem and_trapmask (n : ℕ) : n &&& 0x3FFFE = n % 2 ^ 18 / 2 * 2 := by
  have half : (n &&& 0x3FFFE) / 2 = n / 2 % 2 ^ 17 := by
    rw [← Nat.and_two_pow_sub_one_eq_mod]
    exact Nat.and_div_two_pow (n := 1)
  have even : (n &&& 0x3FFFE) % 2 = 0 := by
    have low := Nat.and_mod_two_pow (a := n) (b := 0x3FFFE) (n := 1)
    simpa using low
  omega

section
variable (s : State) (g : Group) (t : Team) (l : ℕ) (v : Word)

theorem stateReg_writeState_rmode : stateReg s g (t.writeState 0x15 v) l 0x15 =
    if v.toNat % 8 ≤ 4 then BitVec.ofNat 64 (v.toNat % 8) else t.rmode.zeroExtend 64 := by
  have field : (v &&& 7#32).toNat = v.toNat % 8 := by rw [BitVec.toNat_and]; exact Nat.and_two_pow_sub_one_eq_mod v.toNat 3
  have read := zeroExtend_lowBits v (show (7#32).toNat = 2 ^ 3 - 1 from rfl)
  simp only [Team.writeState, field]
  split
  · exact read
  · rfl

theorem stateReg_writeState_trapmask :
    stateReg s g (t.writeState 0x17 v) l 0x17 = BitVec.ofNat 64 (v.toNat % 2 ^ 18 / 2 * 2) := by
  rw [← and_trapmask]
  exact zeroExtend_eq_ofNat (v &&& 0x3FFFE#32)

theorem stateReg_writeState_trapvec : stateReg s g (t.writeState 0x10 v) l 0x10 =
    if v.toNat < 2 ^ 24 ∧ v.toNat % 4 = 0 then v.zeroExtend 64 else t.trapvec.zeroExtend 64 := by
  simp only [Team.writeState, ← isCodeAddr_iff]
  split <;> rfl

theorem stateReg_writeState_trappc : stateReg s g (t.writeState 0x13 v) l 0x13 =
    if v.toNat < 2 ^ 24 ∧ v.toNat % 4 = 0 then v.zeroExtend 64 else t.trappc.zeroExtend 64 := by
  simp only [Team.writeState, ← isCodeAddr_iff]
  split <;> rfl

end

/-! ### The halves of DROPSEED (R31) -/

theorem append_low (hi lo : Word) : (hi ++ lo : DWord) &&& 0xFFFFFFFF#64 = lo.zeroExtend 64 := by
  rw [← zeroExtend_truncate]
  exact congrArg (BitVec.zeroExtend 64) BitVec.setWidth_append_eq_right

theorem append_high (hi lo : Word) : (hi ++ lo : DWord) >>> 32 = hi.zeroExtend 64 := by
  have joined := toNat_append_eq_add hi lo
  have small := lo.isLt
  refine BitVec.eq_of_toNat_eq ?_
  rw [BitVec.toNat_ushiftRight, joined, Nat.shiftRight_eq_div_pow, zeroExtend_eq_ofNat, BitVec.toNat_ofNat]
  omega

theorem low_half (x : DWord) : (x.extractLsb' 0 32).zeroExtend 64 = x &&& 0xFFFFFFFF#64 := by
  have same : x.extractLsb' 0 32 = x.truncate 32 := BitVec.eq_of_toNat_eq (by simp)
  rw [← zeroExtend_truncate, same]

theorem high_half (x : DWord) : (x.extractLsb' 32 32).zeroExtend 64 = x >>> 32 := by
  have small := x.isLt
  refine BitVec.eq_of_toNat_eq ?_
  rw [zeroExtend_eq_ofNat, toNat_part, BitVec.toNat_ushiftRight, Nat.shiftRight_eq_div_pow, BitVec.toNat_ofNat]
  omega

/-! ### RDS, WRS, RDCLK -/

theorem exec_rds_steps {d : RegField} {n : BitVec 8} {s : State} {x : Iss} (h : issueOf (.rds d n) s = some x) :
    ∃ t, exec (.rds d n) s = .next t ∧ TeamStep s t x (x.t.write d fun l => stateReg x.s x.g x.t l n.toNat) := by
  simp only [exec, execRds]
  exact okTeam_steps h _ _ rfl (write_tid ..)

section
variable {a : RegField} {n : BitVec 8} {s : State} {x : Iss} (h : issueOf (.wrs a n) s = some x)
include h

theorem exec_wrs_steps {l : ℕ} (lowest : x.t.low? = some l) :
    ∃ t, exec (.wrs a n) s = .next t ∧ TeamStep s t x (x.t.writeState n.toNat (x.t.reg32 a l)) := by
  simp only [exec, execWrs]
  exact okTeam_steps h _ _ (by simp only [lowest]) (Team.writeState_tid ..)

theorem exec_wrs_idle (idle : x.t.low? = none) : ∃ t, exec (.wrs a n) s = .next t ∧ MovesOn x.s t x := by
  simp only [exec, execWrs]
  exact issue_movesOn h _ (by simp only [idle])

end

section
variable {d : RegField} {s : State} {x : Iss} (h : issueOf (.rdclk d) s = some x)
include h

theorem exec_rdclk_access (access : x.t.role = .access) :
    ∃ t, exec (.rdclk d) s = .next t ∧ TeamStep s t x (x.t.write d fun _ => BitVec.ofNat 64 x.s.clk) := by
  simp only [exec, execRdclk]
  exact okTeam_steps h _ _ (if_pos access) (write_tid ..)

theorem exec_rdclk_pair (other : x.t.role ≠ .access) : ∃ t, exec (.rdclk d) s = .next t ∧
    TeamStep s t x ((x.t.write d fun _ => BitVec.ofNat 64 (x.s.clk % 2 ^ 32)).write (d + 1) fun _ =>
      BitVec.ofNat 64 (x.s.clk / 2 ^ 32 % 2 ^ 32)) := by
  simp only [exec, execRdclk, ofNat_and_low, ofNat_shift_high]
  exact okTeam_steps h _ _ (if_neg other) (by simp)

end

/-- Settles O9: the three words, then each register read after its write. -/
theorem stateRegisterAccess : Obligations.StateRegisterAccess := by
  unfold Obligations.StateRegisterAccess
  refine ⟨fun d n s x h => exec_rds_steps h, fun a n s x h => ⟨fun l lowest => exec_wrs_steps h lowest, exec_wrs_idle h⟩,
    fun d s x h => ⟨exec_rdclk_access h, exec_rdclk_pair h⟩, fun s g t l v => ?_⟩
  exact ⟨zeroExtend_lowBits v rfl, stateReg_writeState_rmode s g t l v, stateReg_writeState_trapmask s g t l v,
    stateReg_writeState_trapvec s g t l v, stateReg_writeState_trappc s g t l v, append_low _ v,
    (append_high _ v).trans (high_half _), append_high v _, (append_low v _).trans (low_half _), zeroExtend_lowBits v rfl, rfl⟩

end Sys2Proof.Machine

/-!
SUPPORT. Censuses and ports (R96, R384 to R390, R412 to R417): when a responder starts and a census closes, what an incoming request comes
to, and what a port that goes down leaves.
-/

namespace Sys2Proof.Machine

open Sys2Proof

/-! ### Censuses (R384 to R390) -/

theorem State.responding_eq_false_iff (s : State) (cseq : ℕ) : s.responding cseq = false ↔
    ∀ g ∈ s.groups, ∀ t ∈ g.teams, ∀ i, t.responder = some i → i.cseq ≠ cseq := by
  rw [Bool.eq_false_iff, Ne, State.responding]
  simp [Option.any_eq_true]

theorem State.censusDone_iff (s : State) (c : Census) : s.censusDone c = true ↔ c.complete = true ∧
    ((∀ g ∈ s.groups, ∀ t ∈ g.teams, ∀ i, t.responder = some i → i.cseq ≠ c.cseq) ∨
      ∃ x, s.ctx? c.part c.ctxid = some x ∧ x.state = .preempting) := by
  rw [← State.responding_eq_false_iff]
  simp [State.censusDone, Option.any_eq_true]

section
variable {s : State} {c : Census} (found : s.censuses.find? (fun d => d.cseq == c.cseq) = some c)
include found

theorem exec_censusSnapshot_due (waits : c.snapped = false) (due : c.snapAt ≤ s.clk) :
    exec (.censusSnapshot c.cseq) s = .next (s.snapshot c) := by
  simp [exec, execCensusSnapshot, found, waits, due]

theorem exec_censusClose_eq : exec (.censusClose c.cseq) s =
    if c.state = .opened ∧ s.censusDone c = true then .next (s.closeCensus c) else .next s := by
  simp [exec, execCensusClose, found]

section
variable {core : ℕ} {p : Piece} {x : Ctx} {d : TeamDecl} {g : Group} {k : Core} (piece : c.nextPiece core = some p)
  (ctx : s.ctx? c.part c.ctxid = some x) (decl : s.responderDecl c = some d) (group : s.group? p.uid = some g)
  (there : s.core? core = some k)
include piece ctx decl group

theorem exec_responderStart_full (full : 4 ≤ s.respondersOn core) : exec (.responderStart c.cseq core) s = .next s := by
  simp only [exec, execResponderStart, found, piece, ctx, decl, group, full, if_true]

variable (room : s.respondersOn core < 4)
include there room

theorem exec_responderStart_of_slot {o : OvSlot} (slot : k.slotOf? x.asid c.image (ovlOf d.entry) = some o) :
    exec (.responderStart c.cseq core) s = if o.loaded then .next (s.startResponder c x g p d) else .next s := by
  simp only [exec, execResponderStart, found, piece, ctx, decl, group, there, Option.bind_some, slot, if_neg (Nat.not_le_of_lt room)]

variable (absent : k.slotOf? x.asid c.image (ovlOf d.entry) = none)
include absent

theorem exec_responderStart_loads {t : State} (load : s.needOverlay x core c.image (ovlOf d.entry) = some t) :
    exec (.responderStart c.cseq core) s = .next t.moved := by
  simp only [exec, execResponderStart, found, piece, ctx, decl, group, there, Option.bind_some, absent, load,
    if_neg (Nat.not_le_of_lt room)]

theorem exec_responderStart_null (stuck : s.needOverlay x core c.image (ovlOf d.entry) = none) :
    exec (.responderStart c.cseq core) s =
      .next (s.modCensus c.cseq fun c => { (c.setPiece core p.order .null) with status := c.status ||| 0x80#32 }).moved := by
  simp only [exec, execResponderStart, found, piece, ctx, decl, group, there, Option.bind_some, absent, stuck,
    if_neg (Nat.not_le_of_lt room)]

end
end

/-- The end of a census's wait, in the state in which the snapshots that are due have been taken (R96). -/
theorem exec_censusWaitExpire_eq {s : State} {c : Census} {x : Ctx}
    (found : s.takeDue.censuses.find? (fun d => d.cseq == c.cseq) = some c) (ctx : s.takeDue.ctx? c.part c.ctxid = some x) :
    exec (.censusWaitExpire c.cseq) s = if c.state = .opened ∧ x.state = .preempting ∧ x.saveClk + 70000 ≤ s.takeDue.clk then
      .next (s.takeDue.abortCensus c) else .next s.takeDue := by
  simp only [exec, execCensusWaitExpire, found, ctx]

/-! ### Remote operations (R417) -/

theorem State.timedOut_iff {s : State} {o : RemoteOp} {p : Port} (port : s.ports[o.port]? = some p) :
    s.timedOut o = true ↔ o.since + p.rto * 700000 ≤ s.clk := by
  rw [State.timedOut, port, Option.any_some, decide_eq_true_eq]

section
variable {s : State} {o : RemoteOp} (found : s.remotes.find? (fun p => p.rseq == o.rseq) = some o)
include found

theorem exec_remoteResponse_eq (nack : Bool) (v : DWord) : exec (.remoteResponse o.rseq nack v) s =
    .next ((if nack then s.failLane o 1 else s.laneValue o v).laneOver o).moved := by
  simp only [exec, execRemoteResponse, found]
  rfl

theorem exec_remoteTimeout_out (out : s.timedOut o = true) :
    exec (.remoteTimeout o.rseq) s = .next ((s.failLane o 2).laneOver o).moved := by
  simp only [exec, execRemoteTimeout, found, out, if_true]
  rfl

end

/-! ### Incoming requests (R414) -/

/-- The request that an event brings to a port. -/
def incomingOf : Instr → Option Incoming
  | .remoteReadRequest port job _ va n =>
    some { port := port, job := job, va := va, size := n, kind := 0, code := 0, data := [], compare := 0, tag := 0 }
  | .remoteWriteRequest port job _ va bs =>
    some { port := port, job := job, va := va, size := bs.length, kind := 1, code := 0, data := bs, compare := 0, tag := 0 }
  | .remoteAtomicRequest port job _ va op n x y =>
    some { port := port, job := job, va := va, size := n, kind := 2, code := op, data := leBytes n x, compare := y % 2 ^ (8 * n), tag := 0 }
  | _ => none

theorem exec_of_incoming {i : Instr} {r : Incoming} (h : incomingOf i = some r) (s : State) : exec i s = .next (s.serveIncoming r) := by
  unfold incomingOf at h
  split at h <;> cases h <;> rfl

section
variable {s : State} {r : Incoming} {p : Port} (port : s.ports[r.port]? = some p)
include port

theorem State.serveIncoming_not_up (down : p.state ≠ 2) : s.serveIncoming r = s := by
  simp [State.serveIncoming, port, down]

variable (up : p.state = 2)
include up

theorem State.serveIncoming_no_ctx (unbound : s.jobCtx r.port r.job = none) : s.serveIncoming r = s.answerPeer r.port false [] := by
  simp [State.serveIncoming, port, up, unbound]

theorem State.any_up : (s.ports[r.port]?).any (fun p => p.state == 2) = true := by
  rw [port, Option.any_some, up]
  rfl

variable {c : Ctx} (bound : s.jobCtx r.port r.job = some c) {q : Run} (run : xlateBytes s c r.access (runFrom r.va r.size) = q)
include bound run

theorem State.serveIncoming_expands {va l : ℕ} (stop : q.stop = some (.fault va 0 l)) : s.serveIncoming r =
    let w := q.s.joinReq c va 0 0 (accessBits r.access true) noCore (.port c.ctxid)
    ({ w.1 with incoming := w.1.incoming ++ [{ r with tag := w.2 }] } : State).moved := by
  simp only [State.serveIncoming, State.any_up port up, bound, run, stop, Bool.not_true, Bool.false_eq_true, if_false]

theorem State.serveIncoming_faults {va k l : ℕ} (missing : k ≠ 0) (stop : q.stop = some (.fault va k l)) :
    s.serveIncoming r = s.answerPeer r.port false [] := by
  obtain ⟨k, rfl⟩ := Nat.exists_eq_succ_of_ne_zero missing
  simp only [State.serveIncoming, State.any_up port up, bound, run, stop, Bool.not_true, Bool.false_eq_true, if_false]

theorem State.serveIncoming_range {va : ℕ} (stop : q.stop = some (.range va)) :
    s.serveIncoming r = s.answerPeer r.port false [] := by
  simp only [State.serveIncoming, State.any_up port up, bound, run, stop, Bool.not_true, Bool.false_eq_true, if_false]

theorem State.serveIncoming_bad (stop : q.stop = some .bad) :
    s.serveIncoming r = (q.s.ctxError c.part c.ctxid 0x22 noCore 0 0).answerPeer r.port false [] := by
  simp only [State.serveIncoming, State.any_up port up, bound, run, stop, Bool.not_true, Bool.false_eq_true, if_false]

theorem State.serveIncoming_translated (stop : q.stop = none) : s.serveIncoming r =
    if q.places.any (·.host) then s.answerPeer r.port false [] else q.s.performIncoming r q.places := by
  simp only [State.serveIncoming, State.any_up port up, bound, run, stop, Bool.not_true, Bool.false_eq_true, if_false]

theorem State.serveIncoming_host (stop : q.stop = none) (host : ∃ x ∈ q.places, x.host = true) :
    s.serveIncoming r = s.answerPeer r.port false [] :=
  (State.serveIncoming_translated port up bound run stop).trans (if_pos (List.any_eq_true.mpr host))

theorem State.serveIncoming_performs (stop : q.stop = none) (device : ∀ x ∈ q.places, x.host = false) :
    s.serveIncoming r = q.s.performIncoming r q.places :=
  (State.serveIncoming_translated port up bound run stop).trans (if_neg (by simpa using device))

end

section
variable {r : Incoming} (s : State) (ps : List Place)

theorem State.performIncoming_load (kind : r.kind = 0) : s.performIncoming r ps = s.answerPeer r.port true (s.readPlaces ps) := by
  simp only [State.performIncoming, kind]

theorem State.performIncoming_store (kind : r.kind = 1) :
    s.performIncoming r ps = (s.writePlaces ps r.data).answerPeer r.port true [] := by
  simp only [State.performIncoming, kind]

theorem State.performIncoming_atomic (kind : r.kind = 2) : s.performIncoming r ps =
    let new := (atomNew (atomOfCode r.code) (8 * r.size) (leNat (s.readPlaces ps)) (leNat r.data) r.compare).1
    (s.writePlaces ps (leBytes r.size new)).answerPeer r.port true (s.readPlaces ps) := by
  simp only [State.performIncoming, kind]

end

/-! ### Ports (R416, R417) -/

theorem modAt_of_getElem? {α : Type} {l : List α} {i : ℕ} {x : α} (there : l[i]? = some x) (f : α → α) :
    modAt l i f = l.set i (f x) := by
  simp [modAt, there]

/-- `t` is `s` but for groups and remote operations: ports, functions and the device are those of `s`. -/
structure KeepsPorts (s t : State) : Prop where
  ports : t.ports = s.ports
  funcs : t.funcs = s.funcs
  dev : t.dev = s.dev

theorem KeepsPorts.trans {s t u : State} (h : KeepsPorts s t) (k : KeepsPorts t u) : KeepsPorts s u :=
  ⟨k.ports.trans h.ports, k.funcs.trans h.funcs, k.dev.trans h.dev⟩

theorem State.failLane_keeps (s : State) (o : RemoteOp) (bit : ℕ) :
    KeepsPorts s (s.failLane o bit) ∧ (s.failLane o bit).remotes = s.remotes := by
  simp only [State.failLane]
  (repeat' split) <;> exact ⟨⟨rfl, rfl, rfl⟩, rfl⟩

theorem State.laneOver_keeps (s : State) (o : RemoteOp) :
    KeepsPorts s (s.laneOver o) ∧ (s.laneOver o).remotes = s.remotes.filter fun p => p.rseq != o.rseq := by
  simp only [State.laneOver, State.readOver, State.atomOver]
  (repeat' split) <;> exact ⟨⟨rfl, rfl, rfl⟩, rfl⟩

/-- The operations of a port that has gone down, each failed. -/
def State.failAll (s : State) (ops : List RemoteOp) : State := ops.foldl (fun s o => (s.failLane o failDown).laneOver o) s

theorem State.failAll_cons (s : State) (o : RemoteOp) (ops : List RemoteOp) :
    s.failAll (o :: ops) = ((s.failLane o failDown).laneOver o).failAll ops := rfl

theorem State.failAll_keeps (s : State) (ops : List RemoteOp) : KeepsPorts s (s.failAll ops) := by
  induction ops generalizing s with
  | nil => exact ⟨rfl, rfl, rfl⟩
  | cons o ops ih => exact ((s.failLane_keeps o failDown).1.trans (State.laneOver_keeps _ o).1).trans (ih _)

theorem State.failAll_remotes (s : State) (ops : List RemoteOp) :
    ∀ p ∈ (s.failAll ops).remotes, p ∈ s.remotes ∧ ∀ o ∈ ops, p.rseq ≠ o.rseq := by
  induction ops generalizing s with
  | nil => exact fun p there => ⟨there, by simp⟩
  | cons o ops ih =>
    intro p there
    obtain ⟨left, others⟩ := ih _ p (s.failAll_cons o ops ▸ there)
    rw [(State.laneOver_keeps _ o).2, (s.failLane_keeps o failDown).2] at left
    obtain ⟨before, other⟩ := List.mem_filter.mp left
    exact ⟨before, List.forall_mem_cons.mpr ⟨by simpa using other, others⟩⟩

/-- A port that has gone down, or has been told to while it was (R416, R417). -/
def Port.down (p : Port) : Port := { p with state := 0, downs := if p.state = 0 then p.downs else p.downs + 1 }

/-- The port vector of the function that owns a port (R416). -/
def State.raiseOwner (s : State) (n : ℕ) : State := (s.portPart n).elim s fun part => s.raiseMsix (s.fnOf part) 3

theorem State.raiseOwner_kept (s : State) (n : ℕ) : (s.raiseOwner n).ports = s.ports ∧ (s.raiseOwner n).remotes = s.remotes := by
  unfold State.raiseOwner
  cases s.portPart n <;> exact ⟨rfl, rfl⟩

/-- A port that goes down: its new state, its operations failed, and its owner's vector. -/
theorem State.takeDown_eq (s : State) (n : ℕ) :
    s.takeDown n = (((s.modPort n Port.down).failAll (s.remotes.filter fun o => o.port == n)).raiseOwner n).moved := rfl

section
variable {s : State} {n : ℕ} {p : Port} (there : s.ports[n]? = some p)
include there

theorem State.takeDown_port : (s.takeDown n).ports[n]? = some p.down := by
  obtain ⟨inRange, -⟩ := List.getElem?_eq_some_iff.mp there
  rw [State.takeDown_eq, State.moved_ports, (State.raiseOwner_kept _ n).1, (State.failAll_keeps _ _).ports, State.modPort,
    modAt_of_getElem? there, List.getElem?_set_self inRange]

theorem exec_portTrained_eq : exec (.portTrained n) s =
    .next { s with ports := s.ports.set n (if p.state = 1 then { p with state := 2 } else p), progress := s.progress + 1 } := by
  simp only [exec, execPortTrained, State.modPort, modAt_of_getElem? there]
  rfl

theorem exec_linkLoss_eq : exec (.linkLoss n) s = if p.state = 2 then .next (s.takeDown n) else .next s := by
  simp [exec, execLinkLoss, there]

theorem State.ports_set_self : s.ports.set n p = s.ports := by
  obtain ⟨inRange, rfl⟩ := List.getElem?_eq_some_iff.mp there
  exact List.set_getElem_self inRange

end

theorem State.takeDown_remotes {s : State} {n : ℕ} : ∀ o ∈ (s.takeDown n).remotes, o.port ≠ n := by
  intro o left same
  rw [State.takeDown_eq, State.moved_remotes, (State.raiseOwner_kept _ n).2] at left
  obtain ⟨before, others⟩ := State.failAll_remotes _ _ o left
  exact others o (List.mem_filter.mpr ⟨before, beq_iff_eq.mpr same⟩) rfl

theorem State.takeDown_funcs {s : State} {n part : ℕ} (owner : s.portPart n = some part) :
    (s.takeDown n).funcs = (s.modFunc (s.fnOf part) fun f => { f with msix := f.msix ++ [3] }).funcs := by
  have kept := (s.modPort n Port.down).failAll_keeps (s.remotes.filter fun o => o.port == n)
  rw [State.takeDown_eq]
  generalize (s.modPort n Port.down).failAll (s.remotes.filter fun o => o.port == n) = u at kept
  have sameOwner : u.portPart n = some part := by rw [State.portPart, kept.dev]; exact owner
  have sameFn : u.fnOf part = s.fnOf part := by rw [State.fnOf, kept.dev]; rfl
  rw [State.raiseOwner, sameOwner, Option.elim_some, sameFn, State.moved_funcs, State.raiseMsix, State.modFunc, kept.funcs]
  rfl

/-- Settles O53: censuses, remote operations, incoming requests and ports, each from what its event comes to. -/
theorem censusAndPortEvents : Obligations.CensusAndPortEvents := by
  unfold Obligations.CensusAndPortEvents
  refine ⟨fun s c found => ⟨exec_censusSnapshot_due found, ?_, ?_⟩, ?_, fun s o nack v found => ⟨?_, ?_⟩, ?_, ?_⟩
  · rw [exec_censusClose_eq found]
    refine ⟨fun opened complete done => if_pos ⟨opened, (s.censusDone_iff c).mpr ⟨complete, done⟩⟩, fun stays => if_neg ?_⟩
    rintro ⟨opened, closes⟩
    obtain ⟨complete, done⟩ := (s.censusDone_iff c).mp closes
    rcases stays with other | incomplete | waits
    · exact other opened
    · simp [complete] at incomplete
    · exact waits done
  · intro core p x d g k piece ctx decl group there
    refine ⟨exec_responderStart_full found piece ctx decl group, fun room => ⟨fun o slot loading => ?_, fun o slot loaded => ?_,
      fun absent t load => ?_, fun absent stuck => ?_⟩⟩
    · rw [exec_responderStart_of_slot found piece ctx decl group there room slot, if_neg (by simp [loading])]
    · rw [exec_responderStart_of_slot found piece ctx decl group there room slot, if_pos loaded]
    · exact exec_responderStart_loads found piece ctx decl group there room absent load
    · exact exec_responderStart_null found piece ctx decl group there room absent stuck
  · intro s c x u expires found ctx
    rw [exec_censusWaitExpire_eq found ctx]
    exact ⟨fun late => if_pos late, fun early => if_neg early⟩
  · exact exec_remoteResponse_eq found nack v
  · exact fun p port late => exec_remoteTimeout_out found ((State.timedOut_iff port).mpr late)
  · intro i s r p named port
    have served : exec i s = .next (s.serveIncoming r) := by
      refine exec_of_incoming ?_ s
      rcases named with ⟨_, _, _, _, _, rfl, rfl⟩ | ⟨_, _, _, _, _, rfl, rfl⟩ | ⟨_, _, _, _, _, _, _, _, rfl, rfl⟩ <;> rfl
    rw [served]
    refine ⟨fun notUp => congrArg _ (State.serveIncoming_not_up port notUp),
      fun up unbound => congrArg _ (State.serveIncoming_no_ctx port up unbound), fun c up bound => ⟨fun va l stop => ?_,
      fun va k l missing stop => ?_, fun va stop => ?_, fun stop => ?_, fun stop host => ?_, fun stop device => ?_⟩⟩
    · exact congrArg _ (State.serveIncoming_expands port up bound rfl stop)
    · exact congrArg _ (State.serveIncoming_faults port up bound rfl missing stop)
    · exact congrArg _ (State.serveIncoming_range port up bound rfl stop)
    · exact congrArg _ (State.serveIncoming_bad port up bound rfl stop)
    · exact congrArg _ (State.serveIncoming_host port up bound rfl stop host)
    · rw [State.serveIncoming_performs port up bound rfl stop device]
      exact ⟨fun kind => congrArg _ (State.performIncoming_load _ _ kind), fun kind => congrArg _ (State.performIncoming_store _ _ kind),
        fun kind => congrArg _ (State.performIncoming_atomic _ _ kind)⟩
  · intro s n p there
    rw [exec_portTrained_eq there, exec_linkLoss_eq there]
    refine ⟨fun trains => by rw [if_pos trains], fun other => by rw [if_neg other, State.ports_set_self there], fun up => if_pos up,
      fun other => if_neg other, ⟨p.down, State.takeDown_port there, rfl, rfl⟩, State.takeDown_remotes, fun part owner =>
        State.takeDown_funcs owner⟩

end Sys2Proof.Machine

/-!
SUPPORT. The part's start, its resets, ageing and errors (R105, R410, R421 to R433): what each step of a start comes to, what a reset keeps,
what a re-plan records, and what an error counts or ends.
-/

namespace Sys2Proof.Machine

open Sys2Proof

/-! ### The checks of a first-stage image (R421, R422) -/

theorem firmwareStatus_unsigned {d : Device} {image : List Byte} (unsigned : ¬signedBy d.fuseKey image = true) :
    firmwareStatus d image = 0x01 := by
  simp [firmwareStatus, unsigned]

theorem firmwareStatus_old {d : Device} {image : List Byte} (signed : signedBy d.fuseKey image = true)
    (old : ¬d.rollback ≤ Config.firmwareVersion image) : firmwareStatus d image = 0x02 := by
  simp [firmwareStatus, signed, Nat.lt_of_not_le old]

theorem firmwareStatus_ok {d : Device} {image : List Byte} (signed : signedBy d.fuseKey image = true)
    (current : d.rollback ≤ Config.firmwareVersion image) : firmwareStatus d image = 0 := by
  simp [firmwareStatus, signed, Nat.not_lt_of_le current]

/-! ### The start (R421 to R425) -/

/-- The part once step 1 of its start has counted it, with the images that the start reads. -/
def State.begun (s : State) (image mgmt : List Byte) : State :=
  { s with dev := { s.dev with
    powered := true, flash := image, mgmt := mgmt, boot := { s.dev.boot with fails := min 3 (s.dev.boot.fails + 1) } } }

/-- A start ends at a step with a reason, counted, with its images kept. -/
def StartEnds (s : State) (image mgmt : List Byte) (o : Host.Outcome State Fault Refusal) (step reason : ℕ) : Prop :=
  ∃ t, o = .next t ∧ t.dev.boot.step = step ∧ t.dev.boot.reason = reason ∧
    t.dev.boot.fails = min 3 (s.dev.boot.fails + 1) ∧ t.dev.flash = image ∧ t.dev.mgmt = mgmt

theorem startEnds_of_startFails (s : State) (image mgmt : List Byte) (hamada : Bool) (step reason : ℕ) :
    StartEnds s image mgmt (.next ((s.begun image mgmt).startFails hamada step reason).moved) (if hamada then 7 else step) reason :=
  ⟨_, rfl, rfl, rfl, rfl, rfl, rfl⟩

theorem startEnds_early (s : State) (image mgmt : List Byte) (step reason : ℕ) :
    StartEnds s image mgmt (.next ((s.begun image mgmt).startFails (s.dev.boot.fails == 3) step reason).moved)
      (if s.dev.boot.fails = 3 then 7 else step) reason := by
  simpa using startEnds_of_startFails s image mgmt (s.dev.boot.fails == 3) step reason

theorem exec_resetRelease_eq (fw mg : List Byte) (bad clusters : List ℕ) {s : State} (waits : s.dev.boot.step = 0)
    (free : s.dev.heldInReset = false) : exec (.resetRelease fw mg bad clusters) s =
    .next (s.start (if s.dev.flash = [] then fw else s.dev.flash) mg bad clusters).moved := by
  simp only [exec, execResetRelease, waits, free, and_self, if_true, List.isEmpty_iff]

theorem State.start_eq (s : State) (image mgmt : List Byte) (bad clusters : List ℕ) : s.start image mgmt bad clusters =
    if firmwareStatus s.dev image ≠ 0 then (s.begun image mgmt).startFails (s.dev.boot.fails == 3) 2 (firmwareStatus s.dev image)
    else if !signedBy s.dev.fuseKey mgmt then (s.begun image mgmt).startFails (s.dev.boot.fails == 3) 3 0x03
    else if s.dev.boot.fails == 3 then (s.begun image mgmt).startHamada bad clusters
    else (s.begun image mgmt).startNormal bad clusters := rfl

section
variable {image mgmt : List Byte} (bad clusters : List ℕ) {s : State}

theorem State.start_refused {st : ℕ} (refused : firmwareStatus s.dev image = st) (ne : st ≠ 0) :
    s.start image mgmt bad clusters = (s.begun image mgmt).startFails (s.dev.boot.fails == 3) 2 st := by
  subst refused
  rw [State.start_eq, if_pos ne]

variable (ok : firmwareStatus s.dev image = 0)
include ok

theorem State.start_unmanaged (unmanaged : ¬signedBy s.dev.fuseKey mgmt = true) :
    s.start image mgmt bad clusters = (s.begun image mgmt).startFails (s.dev.boot.fails == 3) 3 0x03 := by
  rw [State.start_eq, if_neg (by simp [ok]), if_pos (by simpa using unmanaged)]

variable (managed : signedBy s.dev.fuseKey mgmt = true)
include managed

theorem State.start_normal (normal : s.dev.boot.fails ≠ 3) :
    s.start image mgmt bad clusters = (s.begun image mgmt).startNormal bad clusters := by
  rw [State.start_eq, if_neg (by simp [ok]), if_neg (by simp [managed]), if_neg (by simpa using normal)]

theorem State.start_hamada (hamada : s.dev.boot.fails = 3) :
    s.start image mgmt bad clusters = (s.begun image mgmt).startHamada bad clusters := by
  rw [State.start_eq, if_neg (by simp [ok]), if_neg (by simp [managed]), if_pos (by simpa using hamada)]

end

/-! ### Steps 4 and 5 of a normal start (R423, R424) -/

/-- What bring-up makes of the eight strips. -/
def stripMaps (d : Device) (clusters : List ℕ) : List (Option StripMap) := (List.range 8).map (bringUp d clusters)

section
variable (s : State) {bad : List ℕ} (clusters : List ℕ)

theorem State.startNormal_of_bad_stack (fails : ∃ c < 24, c ∈ bad) : s.startNormal bad clusters = s.startFails false 4 0x04 :=
  if_pos (by simpa using fails)

variable (trains : ∀ c < 24, c ∉ bad)
include trains

theorem State.startNormal_of_trained : s.startNormal bad clusters =
    if (stripMaps s.dev clusters).all Option.isSome then s.readyNormal ((stripMaps s.dev clusters).filterMap id)
    else s.startFails false 5 0x05 :=
  if_neg (by simpa using trains)

theorem State.startNormal_of_bad_strip (fails : ∃ m ∈ stripMaps s.dev clusters, m = none) :
    s.startNormal bad clusters = s.startFails false 5 0x05 := by
  obtain ⟨_, there, rfl⟩ := fails
  rw [State.startNormal_of_trained s clusters trains, if_neg (by simpa using there)]

theorem State.startNormal_ready (pass : ∀ m ∈ stripMaps s.dev clusters, m ≠ none) :
    s.startNormal bad clusters = s.readyNormal ((stripMaps s.dev clusters).filterMap id) := by
  rw [State.startNormal_of_trained s clusters trains, if_pos (by simpa [Option.isSome_iff_ne_none] using pass)]

end

/-! ### Steps 4 and 5 of a Hamada start (R425) -/

/-- The first index whose element passes a test, found among the numbers. -/
theorem find?_range_getD {α : Type} (p : α → Bool) (l : List α) (d : α) :
    (List.range l.length).find? (fun i => p (l.getD i d)) = l.findIdx? p := by
  induction l with
  | nil => rfl
  | cons a l ih =>
    rw [List.length_cons, List.range_succ_eq_map, List.find?_cons, List.findIdx?_cons, List.getD_cons_zero, List.find?_map, ← ih]
    cases p a <;> rfl

/-- The strip of a Hamada start: the lowest whose clusters pass. -/
def firstStrip (d : Device) (clusters : List ℕ) : Option ℕ :=
  (List.range 8).find? fun i => ((stripMaps d clusters).getD i none).isSome

/-- The stack of a Hamada start: the first of the strip's that trains. -/
def firstStack (bad : List ℕ) (strip : Option ℕ) : Option ℕ :=
  strip.bind fun i => ((List.range 3).map (3 * i + ·)).find? fun c => !bad.contains c

theorem firstStrip_eq (d : Device) (clusters : List ℕ) :
    ((List.range 8).map (bringUp d clusters)).findIdx? Option.isSome = firstStrip d clusters := by
  rw [← find?_range_getD Option.isSome _ none, List.length_map, List.length_range]
  rfl

section
variable (s : State) {bad clusters : List ℕ}

theorem State.startHamada_of_no_strip (missing : firstStrip s.dev clusters = none) :
    s.startHamada bad clusters = s.startFails true 5 0x05 := by
  simp only [State.startHamada, firstStrip_eq, missing]

variable {strip : ℕ} (found : firstStrip s.dev clusters = some strip)
include found

theorem State.startHamada_of_no_stack (missing : firstStack bad (some strip) = none) :
    s.startHamada bad clusters = s.startFails true 4 0x04 := by
  rw [firstStack, Option.bind_some] at missing
  simp only [State.startHamada, firstStrip_eq, found, missing]

theorem State.startHamada_ready {stack : ℕ} (trains : firstStack bad (some strip) = some stack) :
    s.startHamada bad clusters = s.readyHamada (stripMaps s.dev clusters) strip stack := by
  rw [firstStack, Option.bind_some] at trains
  simp only [State.startHamada, firstStrip_eq, found, trains, stripMaps]

end

/-- The map of a strip after a Hamada start: one that self-test cannot repair keeps the map it had. -/
def keptMap (d : Device) (clusters : List ℕ) (i : ℕ) : List ℕ :=
  match (stripMaps d clusters).getD i none with
  | some m => m.map
  | none => (d.repairNext.drop (8 * i)).take 8

theorem mapsUp_map (d : Device) (clusters : List ℕ) :
    (mapsUp d (stripMaps d clusters)).map StripMap.map = (List.range 8).map (keptMap d clusters) := by
  apply List.ext_getElem
  · simp [mapsUp, stripMaps]
  · intro i below _
    have inRange : i < (stripMaps d clusters).length := by simpa [mapsUp] using below
    simp only [mapsUp, keptMap, List.getElem_map, List.getElem_mapIdx, List.getElem_range, List.getD_eq_getElem _ _ inRange]
    cases (stripMaps d clusters)[i] <;> rfl

/-- The part in Hamada mode: its clusters are the first two of its strip, and every strip's map is kept. -/
theorem State.readyHamada_maps (s : State) (clusters : List ℕ) (strip stack : ℕ) :
    (s.readyHamada (stripMaps s.dev clusters) strip stack).dev.repair =
      (((List.range 8).map (keptMap s.dev clusters)).getD strip []).take 2 ∧
    (s.readyHamada (stripMaps s.dev clusters) strip stack).dev.repairNext = ((List.range 8).map (keptMap s.dev clusters)).flatMap id := by
  rw [← mapsUp_map, List.flatMap_map, List.getD_eq_getElem?_getD, List.getElem?_map]
  refine ⟨?_, rfl⟩
  show (((mapsUp s.dev _)[strip]?).map fun m => m.map.take 2).getD [] = _
  cases (mapsUp s.dev (stripMaps s.dev clusters))[strip]? <;> rfl

/-! ### A start that takes too long -/

theorem exec_startTimeout_ends {s : State} (waits : s.dev.boot.step = 0) (free : s.dev.heldInReset = false) :
    ∃ t n, exec .startTimeout s = .next t ∧ 1 ≤ n ∧ n ≤ 5 ∧ t.dev.boot.step = (if s.dev.boot.fails = 3 then 7 else n) ∧
      t.dev.boot.reason = 0x06 ∧ t.dev.boot.fails = min 3 (s.dev.boot.fails + 1) := by
  refine ⟨_, s.freeVal.1.toNat % 5 + 1, if_pos ⟨waits, free⟩, by omega, by omega, ?_, rfl, rfl⟩
  simp [State.startFails]

/-! ### Resets (R421, R424, R426) -/

/-- What a reset keeps and what it loses, where the device is given its flash, its power and its count. -/
def ResetInto (s t : State) (flash : List Byte) (powered : Bool) (fails : ℕ) : Prop :=
  t.dev.boot.step = 0 ∧ t.dev.flash = flash ∧ t.dev.powered = powered ∧ t.dev.boot.fails = fails ∧
    t.dev.rollback = s.dev.rollback ∧ t.dev.fuseKey = s.dev.fuseKey ∧ t.mem = [] ∧ t.ctxs = [] ∧ t.groups = [] ∧
    t.hostMem = s.hostMem

theorem State.afterReset_resets (s : State) (flash : List Byte) :
    ResetInto s ({ s with dev := { s.dev with flash := flash } } : State).afterReset.moved flash true s.dev.boot.fails :=
  ⟨rfl, rfl, rfl, rfl, rfl, rfl, rfl, rfl, rfl, rfl⟩

theorem exec_fullDeviceReset_resets {s : State} (taken : s.dev.boot.step = 6 ∨ s.dev.heldInReset = true ∨ s.dev.hostLink = false) :
    ∃ t, exec (.fullDeviceReset 0) s = .next t ∧ ResetInto s t s.dev.flash true s.dev.boot.fails := by
  refine ⟨_, ?_, s.afterReset_resets s.dev.flash⟩
  simp only [exec, execFullDeviceReset]
  rw [if_neg (by rcases taken with h | h | h <;> simp [h])]
  exact if_pos trivial

theorem exec_firmwareUpload_resets {s : State} {flash : List Byte} (recovery : s.dev.boot.step = 7) (link : s.dev.hostLink = true)
    (free : s.dev.heldInReset = false) (ok : firmwareStatus s.dev flash = 0) :
    ∃ t, exec (.firmwareUpload flash) s = .next t ∧ ResetInto s t flash true s.dev.boot.fails :=
  ⟨_, if_pos ⟨recovery, link, free, ok⟩, s.afterReset_resets flash⟩

theorem exec_powerLoss_resets (s : State) : ∃ t, exec .powerLoss s = .next t ∧ ResetInto s t s.dev.flash false
    (if s.dev.boot.step = 0 then min 3 (s.dev.boot.fails + 1) else s.dev.boot.fails) :=
  ⟨_, rfl, rfl, rfl, rfl, rfl, rfl, rfl, rfl, rfl, rfl, rfl⟩

theorem exec_fullDeviceReset_notReady {s : State} (fn : ℕ) (early : s.dev.boot.step ≠ 6) (free : s.dev.heldInReset = false)
    (link : s.dev.hostLink = true) : exec (.fullDeviceReset fn) s = .next (Claim.answer s fn .notReady) := by
  simp only [exec, execFullDeviceReset]
  exact if_pos ⟨early, free, link⟩

theorem exec_fullDeviceReset_access {s : State} {fn : ℕ} (ready : Claim.ready s) (other : fn ≠ 0) :
    exec (.fullDeviceReset fn) s = .next (Claim.answer s fn .access) := by
  have commandable := s.commandable_iff.mpr ready
  simp only [exec, execFullDeviceReset, commandable, if_true]
  rw [if_neg (fun early => early.1 ready.1), if_neg other]
  rfl

/-! ### The re-plan (R428, R429) -/

/-- The voltage of a record: a step of its domain's range, the top one where the record is not good. -/
theorem marginRec_volt (d : Device) (clk i : ℕ) : ∃ k ≤ voltSteps i, (marginRec d clk i).volt = voltLow i + 5 * k ∧
    ((marginRec d clk i).status ≠ 0 → k = voltSteps i) := by
  have within (good : Prop) [Decidable good] (x : ℕ) : (if good then x % voltSteps i else voltSteps i) ≤ voltSteps i := by
    split
    · exact (Nat.mod_lt x (Nat.succ_pos _)).le
    · exact le_rfl
  unfold marginRec
  exact ⟨_, within .., rfl, fun bad => if_neg bad⟩

/-- The records of a re-plan. -/
def State.newMargins (s : State) : List MarginRec := (List.range 96).map (marginRec s.dev s.clk)

theorem State.newMargins_volt (s : State) : ∀ i < 96, ∃ r k, s.newMargins[i]? = some r ∧ k ≤ voltSteps i ∧
    r.volt = voltLow i + 5 * k ∧ (r.status ≠ 0 → k = voltSteps i) := by
  intro i below
  obtain ⟨k, steps, volt, top⟩ := marginRec_volt s.dev s.clk i
  exact ⟨_, k, by simp [State.newMargins, below], steps, volt, top⟩

/-- The device after a re-plan. -/
theorem State.replan_dev (s : State) : s.replan.dev.margins =
      (s.dev.margins ++ s.newMargins).drop ((s.dev.margins ++ s.newMargins).length - 4096) ∧ s.replan.dev.replanning = false ∧
    s.replan.dev.replans = s.dev.replans + 1 ∧ s.replan.dev.exhausted = s.dev.exhausted ++
      ((s.newMargins.filter fun r => r.kind == 0 && r.status == 2).map (·.domain)).filter fun c => !s.dev.exhausted.contains c := by
  unfold State.replan State.newMargins
  dsimp only
  split <;> simp only [State.raiseMsix, State.modFunc, and_self]

theorem State.mem_replan_exhausted (s : State) (c : ℕ) : c ∈ s.replan.dev.exhausted ↔
    c ∈ s.dev.exhausted ∨ ∃ r ∈ s.newMargins, r.kind = 0 ∧ r.status = 2 ∧ r.domain = c := by
  obtain ⟨-, -, -, exhausted⟩ := s.replan_dev
  rw [exhausted]
  simp only [List.mem_append, List.mem_filter, List.mem_map, Bool.and_eq_true, beq_iff_eq, List.contains_eq_mem, Bool.not_eq_true',
    decide_eq_false_iff_not, and_assoc]
  tauto

theorem State.replan_funcs_worn {s : State} (worn : ∃ r ∈ s.newMargins, r.status = 2) :
    s.replan.funcs = (s.modFunc 0 fun f => { f with msix := f.msix ++ [2] }).funcs := by
  unfold State.replan
  dsimp only
  rw [if_pos (by simpa [State.newMargins] using worn)]
  rfl

theorem State.replan_funcs_good {s : State} (good : ¬∃ r ∈ s.newMargins, r.status = 2) : s.replan.funcs = s.funcs := by
  unfold State.replan
  dsimp only
  rw [if_neg (by simpa [State.newMargins] using good)]

theorem exec_replanPeriod_due {s : State} (ready : s.dev.boot.step = 6) (free : s.dev.heldInReset = false)
    (due : s.dev.replanning = true ∨ s.dev.replanAt + 24 * 3600 * 700000000 ≤ s.clk) :
    exec .replanPeriod s = .next s.replan.moved := by
  refine if_pos ?_
  simp only [State.replanDue, ready, free, beq_self_eq_true, Bool.not_false, Bool.true_and, Bool.or_eq_true, decide_eq_true_eq]
  exact due

/-! ### Errors (R105, R410, R430, R431, R433) -/

/-- An error crosses a block's threshold, which is there once the driver has set one (log entry 12). -/
theorem errLimit_crossed_iff (d : Device) (b : ℕ) (old new : Word) : (old ≤ d.errLimit b ∧ d.errLimit b < new) ↔
    ∃ l, blockWord d.errLimits b = some l ∧ old ≤ l ∧ l < new := by
  unfold Device.errLimit
  cases blockWord d.errLimits b with
  | none =>
    have top := new.isLt
    simp [BitVec.lt_def]
    omega
  | some l => simp

theorem exec_correctableError_eq (b : ℕ) {s : State} (free : s.dev.heldInReset = false) : exec (.correctableError b) s =
    let old := (blockWord s.dev.errCounts b).getD 0
    let t : State := { s with dev := { s.dev with errCounts := setBlock s.dev.errCounts b (old + 1) } }
    if old ≤ s.dev.errLimit b ∧ s.dev.errLimit b < old + 1 then .next (t.raiseMsix 0 2) else .next t := by
  simp only [exec, execCorrectableError, free, Bool.false_eq_true, if_false]

theorem exec_uncorrectableError_fault {site : ℕ} (notScrub : site ≠ 3) (n : ℕ) (saving : Bool) (s : State) :
    exec (.uncorrectableError site n saving) s = .next (s.deviceFault fun c =>
      s.affected site n c || saving && c.state == .preempting && c.part == s.sitePart site n) := by
  simp only [exec, execUncorrectableError, if_neg notScrub]

theorem exec_uncorrectableError_scrub (n : ℕ) (saving : Bool) (s : State) : exec (.uncorrectableError 3 n saving) s =
    .next ((s.deviceFault fun c => saving && c.state == .preempting && c.part == s.partOfCol (n / 2 ^ 37)).retireFrame
      (n / 65536 * 65536)) := rfl

/-- A retired frame is in no partition's pool; contexts, groups and memory stay. -/
theorem State.retireFrame_spec (s : State) (frame : ℕ) : (s.retireFrame frame).dev.retiredFrames = s.dev.retiredFrames ++ [frame] ∧
    (∀ pt ∈ (s.retireFrame frame).parts, frame ∉ pt.freeFrames) ∧ (s.retireFrame frame).mem = s.mem ∧
    (s.retireFrame frame).ctxs = s.ctxs ∧ (s.retireFrame frame).groups = s.groups := by
  refine ⟨rfl, fun pt there => ?_, rfl, rfl, rfl⟩
  obtain ⟨before, -, rfl⟩ := List.mem_map.mp there
  simp

/-- Settles O48: the start step by step, the resets, the re-plan and the scrub, and the errors. -/
theorem deviceService : Obligations.DeviceService := by
  unfold Obligations.DeviceService
  refine ⟨fun fw mg bad clusters s held => ?_, fun fw mg bad clusters s waits free => ?_,
    fun s waits free => exec_startTimeout_ends waits free, fun i s flash powered fails named => ?_,
    fun fn s => ⟨exec_fullDeviceReset_notReady fn, exec_fullDeviceReset_access⟩, fun s ready free due => ?_, fun s due free => ?_,
    fun b s free => ?_, fun s i p v u named => ?_, fun s on => rfl, fun s n saving => ?_⟩
  · simp [exec, execResetRelease, execStartTimeout, execScrub, execFirmwareUpload, execCorrectableError, held]
  · rw [exec_resetRelease_eq fw mg bad clusters waits free]
    generalize (if s.dev.flash = [] then fw else s.dev.flash) = image
    refine ⟨fun unsigned => ?_, fun signed old => ?_, fun signed current unmanaged => ?_, fun signed current managed normal => ?_,
      fun signed current managed hamada => ?_⟩
    · rw [State.start_refused bad clusters (firmwareStatus_unsigned unsigned) (by decide)]
      exact startEnds_early ..
    · rw [State.start_refused bad clusters (firmwareStatus_old signed old) (by decide)]
      exact startEnds_early ..
    · rw [State.start_unmanaged bad clusters (firmwareStatus_ok signed current) unmanaged]
      exact startEnds_early ..
    · rw [State.start_normal bad clusters (firmwareStatus_ok signed current) managed normal]
      refine ⟨fun fails => ?_, fun trains fails => ?_, fun trains pass => ?_⟩
      · rw [State.startNormal_of_bad_stack (s.begun image mg) clusters fails]
        exact startEnds_of_startFails (hamada := false) ..
      · rw [State.startNormal_of_bad_strip (s.begun image mg) clusters trains fails]
        exact startEnds_of_startFails (hamada := false) ..
      · rw [State.startNormal_ready (s.begun image mg) clusters trains pass]
        exact ⟨_, rfl, rfl, rfl, rfl, rfl, rfl, rfl⟩
    · rw [State.start_hamada bad clusters (firmwareStatus_ok signed current) managed hamada]
      refine ⟨fun missing => ?_, fun found missing => ?_, fun strip stack found trains => ?_⟩
      · rw [State.startHamada_of_no_strip (s.begun image mg) missing]
        exact startEnds_of_startFails (hamada := true) ..
      · obtain ⟨strip, found⟩ := Option.ne_none_iff_exists'.mp found
        rw [found] at missing
        rw [State.startHamada_of_no_stack (s.begun image mg) found missing]
        exact startEnds_of_startFails (hamada := true) ..
      · rw [found] at trains
        rw [State.startHamada_ready (s.begun image mg) found trains]
        obtain ⟨repair, repairNext⟩ := State.readyHamada_maps (s.begun image mg) clusters strip stack
        have counted : min 3 (s.dev.boot.fails + 1) = 3 := by omega
        exact ⟨_, rfl, rfl, rfl, counted, rfl, rfl, rfl, rfl, repair, repairNext⟩
  · rcases named with ⟨rfl, taken, rfl, rfl, rfl⟩ | ⟨rfl, recovery, link, free, ok, rfl, rfl⟩ | ⟨rfl, rfl, rfl, rfl⟩
    · exact exec_fullDeviceReset_resets taken
    · exact exec_firmwareUpload_resets recovery link free ok
    · exact exec_powerLoss_resets s
  · obtain ⟨margins, replanning, replans, -⟩ := s.replan_dev
    refine ⟨_, exec_replanPeriod_due ready free due, margins, replanning, replans, s.mem_replan_exhausted, s.newMargins_volt, ?_⟩
    split
    · next worn => exact State.replan_funcs_worn worn
    · next good => exact State.replan_funcs_good good
  · exact if_pos ⟨due, free⟩
  · rw [exec_correctableError_eq b free]
    refine ⟨fun crossed => if_pos ((errLimit_crossed_iff ..).mpr crossed), fun stays => if_neg fun crossed => ?_⟩
    obtain ⟨l, limit, below, above⟩ := (errLimit_crossed_iff ..).mp crossed
    rcases stays l limit with h | h
    · exact BitVec.not_le.mpr h below
    · exact BitVec.not_lt.mpr h above
  · rcases named with ⟨site, n, saving, rfl, notScrub, rfl, rfl, rfl⟩ | ⟨rfl, rfl, rfl, rfl⟩ | ⟨rfl, rfl, rfl, rfl⟩
    · exact exec_uncorrectableError_fault notScrub n saving s
    · rfl
    · rfl
  · exact ⟨_, exec_uncorrectableError_scrub n saving s, State.retireFrame_spec ..⟩

end Sys2Proof.Machine

/-!
SUPPORT. The OVL words (R127): the status that OVLOAD and OVWAIT give, and FCALL's call or trap; a push that fits the stack (R180).
-/

namespace Sys2Proof.Machine

open Sys2Proof

/-- A word that gives a status in an s register moves on. -/
theorem conclude_status (i : Instr) (x : Iss) (u : State) (d : RegField) (n : ℕ) :
    MovesOn (Claim.status x u d n) (conclude i x (x.status u d n)) x := conclude_ok i x _

/-- A word whose own effect is a status moves on with it. -/
theorem exec_status {i : Instr} {s : State} {x : Iss} (h : issueOf i s = some x) {body : Iss → Act} {u : State} {d : RegField} {n : ℕ}
    (run : exec i s = issue i s body) (gives : body x = x.status u d n) :
    ∃ t, exec i s = .next t ∧ MovesOn (Claim.status x u d n) t x :=
  ⟨_, run.trans (issue_of h body), by rw [gives]; exact conclude_status i x u d n⟩

@[simp] theorem leBytes_length (n v : ℕ) : (leBytes n v).length = n := by
  induction n generalizing v with
  | zero => rfl
  | succ n ih => simp [leBytes, ih]

/-- A push that fits the stack, once its spilled chunks have moved (R180). -/
theorem Iss.push_of_moved {x : Iss} {c : Ctx} {bs : List Byte} {u : State} {v : Team} (hc : x.s.ctxOf x.g = some c)
    (fits : x.t.sp + bs.length ≤ x.g.stackSz) (moved : Claim.pushes x c bs = .ok u v) (k : State → Team → Act) : x.push bs k = k u v := by
  have spills : x.push bs k = x.afterMove .spill (Claim.pushes x c bs) k := by
    unfold Iss.push
    rw [hc]
    exact if_neg (Nat.not_lt.mpr fits)
  rw [spills, moved]
  rfl

/-! ### OVLOAD and OVWAIT -/

section
variable {d : RegField} {n : BitVec 8} {s : State} {x : Iss}

theorem exec_ovl_foreign {i : Instr} (named : i = .ovload d n ∨ i = .ovwait d n) (h : issueOf i s = some x)
    (foreign : x.s.ownOverlay x.g n.toNat = false) : ∃ t, exec i s = .next t ∧ MovesOn (Claim.status x x.s d 3) t x := by
  rcases named with rfl | rfl
  · exact exec_status h (by rw [exec, execOvload]) (by simp [foreign])
  · exact exec_status h (by rw [exec, execOvwait]) (by simp [foreign])

section
variable (h : issueOf (.ovload d n) s = some x) (own : x.s.ownOverlay x.g n.toNat = true)
include h own

theorem exec_ovload_held {o : OvSlot} (slot : x.s.slotFor x.g n.toNat = some o) :
    ∃ t, exec (.ovload d n) s = .next t ∧ MovesOn (Claim.status x x.s d (if o.loaded then 0 else 1)) t x :=
  exec_status h (by rw [exec, execOvload]) (by simp [own, slot])

theorem exec_ovload_idle (absent : x.s.slotFor x.g n.toNat = none) (idle : x.t.idle = true) :
    ∃ t, exec (.ovload d n) s = .next t ∧ MovesOn (Claim.status x x.s d 4) t x :=
  exec_status h (by rw [exec, execOvload]) (by simp [own, absent, idle])

variable {c : Ctx} (hc : x.s.ctxOf x.g = some c) (absent : x.s.slotFor x.g n.toNat = none) (runs : x.t.idle = false)
include hc absent runs

theorem exec_ovload_busy (stuck : x.s.chooseSlot x.g.core c.asid = none) :
    ∃ t, exec (.ovload d n) s = .next t ∧ MovesOn (Claim.status x x.s d 2) t x :=
  exec_status h (by rw [exec, execOvload]) (by simp [own, absent, runs, hc, stuck])

theorem exec_ovload_starts {k : ℕ} (chosen : x.s.chooseSlot x.g.core c.asid = some k) :
    ∃ t, exec (.ovload d n) s = .next t ∧
      MovesOn (Claim.status x (x.s.startLoad x.g.core k (loadingSlot c x.g.image n.toNat (some x.g.uid))) d 1) t x :=
  exec_status h (by rw [exec, execOvload]) (by simp [own, absent, runs, hc, chosen])

end

section
variable (h : issueOf (.ovwait d n) s = some x) (own : x.s.ownOverlay x.g n.toNat = true)
include h own

theorem exec_ovwait_loaded {o : OvSlot} (slot : x.s.slotFor x.g n.toNat = some o) (loaded : o.loaded = true) :
    ∃ t, exec (.ovwait d n) s = .next t ∧ MovesOn (Claim.status x x.s d 0) t x :=
  exec_status h (by rw [exec, execOvwait]) (by simp [own, slot, loaded])

theorem exec_ovwait_loading {o : OvSlot} (slot : x.s.slotFor x.g n.toNat = some o) (loading : o.loaded = false) :
    exec (.ovwait d n) s = .next (Claim.held x x.s) := by
  simp only [exec, execOvwait, issue_of h, own, slot, loading]
  rfl

theorem exec_ovwait_absent (absent : x.s.slotFor x.g n.toNat = none) :
    ∃ t, exec (.ovwait d n) s = .next t ∧ MovesOn (Claim.status x x.s d 4) t x :=
  exec_status h (by rw [exec, execOvwait]) (by simp [own, absent])

end
end

/-! ### FCALL -/

section
variable {e : BitVec 8} {s : State} {x : Iss} {k : Kernel} (h : issueOf (.fcall e) s = some x) (hk : x.s.kernelOf x.g = some k)
include h hk

theorem exec_fcall_overlay (gone : (x.s.codeWord x.g (k.entries.getD e.toNat 0)).isSome = false) :
    exec (.fcall e) s = .next (Claim.trapped x trapOverlay ((k.entries.getD e.toNat 0).zeroExtend 64)) := by
  simp only [exec, execFcall, issue_of h, hk, Option.map_some, Option.getD_some, gone]
  rfl

variable (resident : (x.s.codeWord x.g (k.entries.getD e.toNat 0)).isSome = true)
include resident

theorem exec_fcall_inLoop (inside : x.t.inLoop = true) : exec (.fcall e) s = .next (Claim.trapped x trapIllegal x.word) := by
  simp only [exec, execFcall, issue_of h, hk, Option.map_some, Option.getD_some, resident, Iss.outsideLoop, inside]
  rfl

theorem exec_fcall_calls (outside : x.t.inLoop = false) {c : Ctx} {u : State} {v : Team} (hc : x.s.ctxOf x.g = some c)
    (fits : x.t.sp + 16 ≤ x.g.stackSz) (moved : Claim.pushes x c (leBytes 16 (x.t.pc + 4).toNat) = .ok u v) :
    ∃ t, exec (.fcall e) s = .next t ∧
      MovesTo (u.modTeam x.r fun _ => { v with fcalls := v.fcalls ++ [v.pc + 4] }) t x (k.entries.getD e.toNat 0) := by
  refine ⟨_, ?_, conclude_to (.fcall e) x _ _⟩
  have pushed := x.push_of_moved hc (by simpa using fits) moved
  simp only [exec, execFcall, issue_of h, hk, Option.map_some, Option.getD_some, resident, Iss.outsideLoop, outside, Iss.call, pushed]
  rfl

end

/-- Settles O44: each case of OVLOAD and OVWAIT gives its status or hold, and FCALL traps or calls. -/
theorem overlayWords : Obligations.OverlayWords := by
  unfold Obligations.OverlayWords
  refine ⟨fun i d n s x h named foreign => exec_ovl_foreign named h foreign, fun d n s x c h hc own => ⟨fun o => exec_ovload_held h own,
    exec_ovload_idle h own, fun absent runs => ⟨exec_ovload_busy h own hc absent runs, fun k => exec_ovload_starts h own hc absent runs⟩⟩,
    fun d n s x h own => ⟨fun o => exec_ovwait_loaded h own, fun o => exec_ovwait_loading h own, exec_ovwait_absent h own⟩,
    fun e s x k h hk => ⟨exec_fcall_overlay h hk, exec_fcall_inLoop h hk, fun resident outside c u v =>
      exec_fcall_calls h hk resident outside⟩⟩

end Sys2Proof.Machine

/-!
SUPPORT. The distributor's events (R114 to R118, R122, R125, R133, R134, R384): a phase's start and its variant, the placing, start and
retirement of groups, the flush timer of a node, and the load of an overlay.
-/

namespace Sys2Proof.Machine

open Sys2Proof

/-! ### Phases (R116) -/

section
variable {s : State} {l : Launch} {c : Ctx} (hl : s.launch? l.lid = some l) (hc : s.ctx? l.part l.ctxid = some c)
  (ready : s.phaseReady l = true)
include hl hc ready

theorem exec_phaseStart_reads {va : ℕ} (unread : l.recVa = some va) :
    exec (.phaseStart l.lid) s = .next (s.phaseRead c l va 128 fun s bs => s.takeRecord c l bs).moved := by
  simp only [exec, execPhaseStart, hl, hc, ready, unread, Bool.not_true, Bool.false_eq_true, if_false]

theorem exec_phaseStart_sizes {k : Kernel} (read : l.recVa = none) (hk : c.kernel? l.record.image l.record.kidx = some k) :
    exec (.phaseStart l.lid) s = .next (s.readSize c l k).moved := by
  simp only [exec, execPhaseStart, hl, hc, ready, read, hk, Bool.not_true, Bool.false_eq_true, if_false]

end

section
variable (s : State) (l : Launch) (k : Kernel) {size i n : ℕ} {v : SchedDecl}

/-- A launch fails for its size: its context goes to ERROR with LAUNCH_SIZE (R116). -/
def State.sizeFails (s : State) (l : Launch) (size : ℕ) : State :=
  s.ctxError l.part l.ctxid 0x10 0xFFFF 0 (BitVec.ofNat 64 size)

theorem State.selectPhase_zero (empty : size = 0) : s.selectPhase l k size = s.endLaunch l := by
  rw [State.selectPhase, if_pos empty]

theorem State.selectPhase_none (pos : 0 < size) (none : k.select size = none) : s.selectPhase l k size = s.sizeFails l size := by
  rw [State.selectPhase, if_neg pos.ne', none]
  rfl

section
variable (pos : 0 < size) (found : k.select size = some (i, n)) (hv : k.scheds[i]? = some v)
include pos found hv

/-- A variant whose group fits no empty core fails the launch (R116). -/
theorem State.selectPhase_misfits (misfits : Usage.empty.bind (k.need v l.record.stackSz) = none) :
    s.selectPhase l k size = s.sizeFails l size := by
  rw [State.selectPhase, if_neg pos.ne']
  simp only [found, hv, Kernel.fitsEmpty, misfits]
  rfl

/-- A variant whose group fits an empty core places its groups; with none, the phase retires. -/
theorem State.selectPhase_fits (fits : (Usage.empty.bind (k.need v l.record.stackSz)).isSome = true) : s.selectPhase l k size =
    if n = 0 then s.endLaunch l
    else s.modLaunch l.lid fun _ => { l with state := .placing, variant := i, groups := n, sizeWord := size, startClk := s.clk } := by
  rw [State.selectPhase, if_neg pos.ne']
  simp only [found, hv, Kernel.fitsEmpty, fits, Bool.not_true, Bool.false_eq_true, if_false]

end

end

/-! ### Placing (R117) -/

theorem exec_groupPlace_places {s t : State} {l : Launch} {core : ℕ} (hl : s.launch? l.lid = some l) (placing : l.state = .placing)
    (first : s.placeBlocked l = false) (chosen : s.placeFor l = some core) (placed : s.placeOn l core = some t) :
    exec (.groupPlace l.lid) s = .next (t.modLaunch l.lid fun l => { l with
      placed := l.placed + 1, state := if l.placed + 1 = l.groups then .running else .placing }).moved := by
  simp [exec, execGroupPlace, hl, placing, first, chosen, placed]

/-! ### Starting (R118, R133) -/

section
variable {s : State} {g : Group} (hg : s.group? g.uid = some g)
include hg

theorem exec_groupStart_starts (starting : g.state = .starting) (ready : s.overlaysReady g = true) :
    exec (.groupStart g.uid) s =
      let u : State := { s.modGroup g.uid (fun g => g.start s.nextAge s.clk) with nextAge := s.nextAge + g.teams.length }
      let v := (g.teams.foldl (fun s t => s.acquire { uid := g.uid, tid := t.tid }) u).actKept g.part
      .next (g.teams.foldl (fun s t => s.tryReplay { uid := g.uid, tid := t.tid }) v).carveTry.moved := by
  simp only [exec, execGroupStart, hg]
  rw [if_neg (by simp [starting, ready])]

theorem exec_groupStart_waits (waits : g.state ≠ .starting ∨ s.overlaysReady g = false) : exec (.groupStart g.uid) s = .next s := by
  simp only [exec, execGroupStart, hg]
  rw [if_pos waits]

end

theorem Group.start_started (g : Group) (age clk : ℕ) : ∀ t ∈ (g.start age clk).teams, t.started = true := by
  simp [Group.start]

theorem Group.start_running {g : Group} (left : ∃ t ∈ g.teams, t.responder = none ∧ t.finished = false) (age clk : ℕ) :
    (g.start age clk).state = .running := by
  refine if_neg fun ended => ?_
  obtain ⟨t, there, own, goes⟩ := left
  have finished := List.all_eq_true.mp ended t (List.mem_filter.mpr ⟨there, by simp [own]⟩)
  simp [goes] at finished

/-! ### Snapshots before a retirement (R384, R446) -/

@[simp] theorem State.snapshot_clk (s : State) (c : Census) : (s.snapshot c).clk = s.clk := by
  simp only [State.snapshot, State.moved]
  rw [State.modCensus_clk, State.modCores_eq]

@[simp] theorem State.takeDue_clk (s : State) : s.takeDue.clk = s.clk := by
  have kept : ∀ (cs : List Census) (u : State), (cs.foldl State.snapshot u).clk = u.clk := by
    intro cs
    induction cs with
    | nil => exact fun _ => rfl
    | cons c cs ih => exact fun u => (ih _).trans (u.snapshot_clk c)
  exact kept _ s

/-- A running maximum is at least its start and each of the values. -/
theorem foldl_max_bounds {α : Type} (f : α → ℕ) (l : List α) (n : ℕ) :
    n ≤ l.foldl (fun n a => max n (f a)) n ∧ ∀ a ∈ l, f a ≤ l.foldl (fun n a => max n (f a)) n := by
  induction l generalizing n with
  | nil => simp
  | cons b l ih =>
    obtain ⟨start, each⟩ := ih (max n (f b))
    refine ⟨(le_max_left ..).trans start, fun a there => ?_⟩
    rcases List.mem_cons.mp there with rfl | there
    · exact (le_max_right ..).trans start
    · exact each a there

/-- A release after a SOLICIT comes after the snapshot that was asked for (R446); the censuses stay. -/
theorem State.pastSnapshots_clk (s : State) (t : Team) : s.clk ≤ (s.pastSnapshots t).clk ∧
    ∀ c ∈ s.censuses, c.cseq ∈ t.censuses → c.snapAt < (s.pastSnapshots t).clk := by
  obtain ⟨later, past⟩ := foldl_max_bounds (fun c : Census => c.snapAt + 1) (s.censuses.filter fun c => t.censuses.contains c.cseq) s.clk
  exact ⟨later, fun c there asked => past c (List.mem_filter.mpr ⟨there, by simpa using asked⟩)⟩

theorem State.pastSnapshots_all (ts : List Team) (s : State) : s.clk ≤ (ts.foldl State.pastSnapshots s).clk ∧
    ∀ t ∈ ts, ∀ c ∈ s.censuses, c.cseq ∈ t.censuses → c.snapAt < (ts.foldl State.pastSnapshots s).clk := by
  induction ts generalizing s with
  | nil => simp
  | cons u ts ih =>
    obtain ⟨later, past⟩ := s.pastSnapshots_clk u
    obtain ⟨later', past'⟩ := ih (s.pastSnapshots u)
    refine ⟨later.trans later', fun t there c open_ asked => ?_⟩
    rcases List.mem_cons.mp there with rfl | there
    · exact (past c open_ asked).trans_le later'
    · exact past' t there c open_ asked

theorem State.retireClk_past {s : State} {g : Group} : ∀ t ∈ g.teams, ∀ c ∈ s.censuses, c.cseq ∈ t.censuses →
    c.snapAt < (s.retireClk g).clk := by
  rw [State.retireClk, State.takeDue_clk]
  exact (State.pastSnapshots_all g.teams s).2

/-! ### Retirement (R133, R134) -/

section
variable {s : State} {g : Group} (hg : s.group? g.uid = some g)
include hg

theorem exec_groupRetire_waits (waits : s.retireReady g = false) : exec (.groupRetire g.uid) s = .next s := by
  simp only [exec, execGroupRetire, hg]
  rw [if_pos (by simp [waits])]

variable {h : Group} (ready : s.retireReady g = true) (hh : (s.retireClk g).group? g.uid = some h)
include ready hh

/-- A snapshot that is taken first may make the group wait. -/
theorem exec_groupRetire_later (waits : (s.retireClk g).retireReady h = false) :
    exec (.groupRetire g.uid) s = .next (s.retireClk g) := by
  simp only [exec, execGroupRetire, hg, hh, ready, waits, Bool.not_true, Bool.false_eq_true, if_false]

theorem exec_groupRetire_now (still : (s.retireClk g).retireReady h = true) :
    exec (.groupRetire g.uid) s = .next ((s.retireClk g).retireNow h) := by
  simp only [exec, execGroupRetire, hg, hh, ready, still, Bool.not_true, Bool.false_eq_true, if_false, if_true]

end

/-- The team's stores are performed and its stack cache is written back. -/
def Team.writtenBack (t : Team) : Prop := t.performed = true ∧ t.stack = []

/-- A group retires once all its teams are written back; one of which a team is not stays (R134). -/
theorem State.retireNow_eq {w : State} {h k : Group}
    (hk : (h.teams.foldl (fun s t => s.writeBack { uid := h.uid, tid := t.tid }) w).group? h.uid = some k) :
    let u := h.teams.foldl (fun s t => s.writeBack { uid := h.uid, tid := t.tid }) w
    ((∀ t ∈ k.teams, t.writtenBack) → w.retireNow h = (u.retireGroup k).moved) ∧
      ((∃ t ∈ k.teams, ¬t.writtenBack) → w.retireNow h = u.moved) := by
  have all : (k.teams.all fun t => t.performed && t.stack.isEmpty) = true ↔ ∀ t ∈ k.teams, t.writtenBack := by
    simp [Team.writtenBack]
  simp only [State.retireNow, hk]
  exact ⟨fun yes => if_pos (all.mpr yes), fun ⟨t, there, no⟩ => if_neg fun yes => no (all.mp yes t there)⟩

/-! ### Flush timers (R122) -/

theorem GNode.isDue_iff (d : GNode) (clk : ℕ) : d.isDue clk = true ↔ (∃ due, d.due = some due ∧ due ≤ clk) ∧ 0 < d.pending := by
  simp [GNode.isDue, Option.any_eq_true]

theorem exec_flushTimerExpire_due {s : State} {part id n : ℕ} {d : GNode} (hd : s.node? (part, id) n = some d)
    (due : d.isDue s.clk = true) : exec (.flushTimerExpire part id n) s = .next (s.flushNode (part, id) n).moved := by
  simp only [exec, execFlushTimerExpire, hd, due, if_true]

/-! ### Overlay loads (R125, R293) -/

/-- A context with an address-space number that neither has failed nor ended. -/
def State.liveCtx? (s : State) (asid : ℕ) : Option Ctx := s.ctxs.find? fun c => c.asid == asid && c.state != .killed && c.state != .error

theorem exec_overlayLoadDone_waits {s : State} {core k : ℕ} (waits : s.loadWaits core k = true) :
    exec (.overlayLoadDone core k) s = .next s := by
  simp only [exec, execOverlayLoadDone]
  split
  · rfl
  · rw [if_pos (by simp [waits])]

section
variable {s : State} {core k : ℕ} {q : Core} {o : OvSlot} (hq : s.core? core = some q) (ho : q.slots.getD k none = some o)
  (loading : o.loaded = false) (free : s.loadWaits core k = false)
include hq ho loading free

theorem exec_overlayLoadDone_reads {c : Ctx} (hc : s.liveCtx? o.asid = some c) : exec (.overlayLoadDone core k) s =
    let p := s.readCode c core k o.codeReads
    if p.2 then .next (p.1.modCore core fun q => { q with
      slots := modAt q.slots k fun o => o.map fun o => { o with loaded := true } }).moved
    else .next p.1.moved := by
  simp only [exec, execOverlayLoadDone, hq, Option.bind_some, ho, show s.ctxs.find? _ = _ from hc]
  rw [if_neg (by simp [loading, free])]

theorem exec_overlayLoadDone_ends (none : s.liveCtx? o.asid = none) : exec (.overlayLoadDone core k) s =
    .next (s.modCore core fun q => { q with slots := q.slots.set k .none }).moved := by
  simp only [exec, execOverlayLoadDone, hq, Option.bind_some, ho, show s.ctxs.find? _ = _ from none]
  rw [if_neg (by simp [loading, free])]
  rfl

end

/-- Settles O52: the distributor's events one by one. -/
theorem distributorEvents : Obligations.DistributorEvents := by
  unfold Obligations.DistributorEvents
  refine ⟨fun s l c hl hc ready => ⟨fun va => exec_phaseStart_reads hl hc ready, fun read k => exec_phaseStart_sizes hl hc ready read⟩,
    fun s l k size => ⟨s.selectPhase_zero l k, fun pos i n v found hv fits some => ?_, fun pos i v found hv fits => ?_,
      fun pos i n v => s.selectPhase_misfits l k pos, s.selectPhase_none l k⟩,
    fun s t l core => exec_groupPlace_places, fun s g => exec_groupStart_starts, fun s g => exec_groupStart_waits,
    fun g age clk => ⟨g.start_started age clk, fun left => Group.start_running left age clk⟩, fun s g => exec_groupRetire_waits,
    fun s g h hg ready => ⟨State.retireClk_past, fun hh => ⟨exec_groupRetire_later hg ready hh, fun still k hk => ?_⟩⟩,
    fun s part id n d due hd timer past pending => exec_flushTimerExpire_due hd ((d.isDue_iff s.clk).mpr ⟨⟨due, timer, past⟩, pending⟩),
    fun s core k q o hq ho loading free => ⟨fun c hc u done reads => ?_, exec_overlayLoadDone_ends hq ho loading free⟩,
    fun s core k => exec_overlayLoadDone_waits⟩
  · rw [s.selectPhase_fits l k pos found hv fits, if_neg some.ne']
  · rw [s.selectPhase_fits l k pos found hv fits, if_pos rfl]
  · obtain ⟨done, left⟩ := State.retireNow_eq hk
    have retires := exec_groupRetire_now hg ready hh still
    exact ⟨fun yes => retires.trans (congrArg _ (done yes)), fun no => retires.trans (congrArg _ (left no))⟩
  · rw [exec_overlayLoadDone_reads hq ho loading free hc, reads]
    exact ⟨fun yes => if_pos yes, fun no => if_neg (by simp [no])⟩

end Sys2Proof.Machine

/-!
SUPPORT. The graph walker's actions leave every group (R119 to R124), and a release leaves the releasing team's place and lanes (R258).
-/

namespace Sys2Proof.Machine

open Sys2Proof

/-! ### The walker's actions and the groups (R119 to R124) -/

@[simp] theorem State.modGraph_groups (s : State) (p : CtxRef) (f : Graph → Graph) : (s.modGraph p f).groups = s.groups := rfl
@[simp] theorem State.modNode_groups (s : State) (p : CtxRef) (n : ℕ) (f : GNode → GNode) : (s.modNode p n f).groups = s.groups := rfl
@[simp] theorem State.sendTo_groups (s : State) (p : CtxRef) (ns : List ℕ) : (s.sendTo p ns).groups = s.groups := rfl

@[simp] theorem State.newPhase_groups (s : State) (p : CtxRef) (n first count : ℕ) : (s.newPhase p n first count).groups = s.groups := by
  unfold State.newPhase
  split <;> rfl

@[simp] theorem State.giveQueue_groups (s : State) (p : CtxRef) (n count : ℕ) : (s.giveQueue p n count).groups = s.groups := by
  unfold State.giveQueue
  split
  · rfl
  · simp

@[simp] theorem State.serveQueue_groups (p : CtxRef) (n k : ℕ) (s : State) : (State.serveQueue p n k s).groups = s.groups := by
  induction k generalizing s with
  | zero => rfl
  | succ k ih =>
    unfold State.serveQueue
    split
    · rfl
    · split_ifs <;> simp [ih]

@[simp] theorem State.serve_groups (s : State) (p : CtxRef) (n : ℕ) : (s.serve p n).groups = s.groups := State.serveQueue_groups ..

@[simp] theorem State.evalWhile_groups (s : State) (p : CtxRef) (n : ℕ) (cw : Word) (d : GNode) :
    (s.evalWhile p n cw d).groups = s.groups := by
  unfold State.evalWhile
  split <;> rfl

@[simp] theorem State.nodeReady_groups (s : State) (p : CtxRef) (n : ℕ) : (s.nodeReady p n).groups = s.groups := by
  unfold State.nodeReady
  split
  · next d _ _ =>
    cases d.kind
    · dsimp only
      split <;> simp
    all_goals simp
  · rfl

@[simp] theorem State.arrive_groups (s : State) (p : CtxRef) (n : ℕ) : (s.arrive p n).groups = s.groups := by
  unfold State.arrive
  split
  · split_ifs <;> simp
  · rfl

@[simp] theorem State.walkN_groups (p : CtxRef) (k : ℕ) (s : State) : (State.walkN p k s).groups = s.groups := by
  induction k generalizing s with
  | zero => rfl
  | succ k ih =>
    unfold State.walkN
    split
    · rfl
    · simp [ih]

@[simp] theorem State.walkGraph_groups (s : State) (p : CtxRef) : (s.walkGraph p).groups = s.groups := State.walkN_groups ..

@[simp] theorem State.startGraph_groups (s : State) (p : CtxRef) (g : Graph) : (s.startGraph p g).groups = s.groups := by
  have roots : ∀ (ns : List ℕ) (u : State), (ns.foldl (fun s n => s.nodeReady p n) u).groups = u.groups := by
    intro ns
    induction ns with
    | nil => exact fun _ => rfl
    | cons n ns ih => exact fun u => (ih _).trans (u.nodeReady_groups p n)
  simp [State.startGraph, roots]

@[simp] theorem State.advanceN_groups (p : CtxRef) (k : ℕ) (s : State) : (State.advanceN p k s).groups = s.groups := by
  induction k generalizing s with
  | zero => rfl
  | succ k ih =>
    unfold State.advanceN
    split
    · rfl
    · split
      · split <;> simp [ih]
      · split
        · split <;> simp [ih]
        · split <;> rfl

@[simp] theorem State.advance_groups (s : State) (p : CtxRef) : (s.advance p).groups = s.groups := State.advanceN_groups ..

@[simp] theorem State.flushNode_groups (s : State) (p : CtxRef) (n : ℕ) : (s.flushNode p n).groups = s.groups := by
  unfold State.flushNode
  split <;> simp

@[simp] theorem State.fireTimer_groups (s : State) (p : CtxRef) (n : ℕ) : (s.fireTimer p n).groups = s.groups := by
  unfold State.fireTimer
  split
  · split <;> simp
  · rfl

/-! ### Finding what has been changed -/

/-- What is found under a test after a change of all that pass it, which they still do. -/
theorem find?_modWhere {α : Type} {p : α → Bool} {f : α → α} (keeps : ∀ a, p a = true → p (f a) = true) (l : List α) :
    (modWhere l p f).find? p = (l.find? p).map f := by
  induction l with
  | nil => rfl
  | cons a l ih =>
    simp only [modWhere] at ih ⊢
    by_cases here : p a <;> simp [here, keeps, ih]

theorem State.group?_modTeam (s : State) (r : TeamRef) (f : Team → Team) :
    (s.modTeam r f).group? r.uid = (s.group? r.uid).map fun g => g.modTeam r.tid f :=
  find?_modWhere (p := fun g : Group => g.uid == r.uid) (f := fun g => g.modTeam r.tid f) (fun _ here => here) s.groups

theorem Group.team?_modTeam {tid : ℕ} {f : Team → Team} (keeps : ∀ t, (f t).tid = t.tid) (g : Group) :
    (g.modTeam tid f).team? tid = (g.team? tid).map f := find?_modWhere (fun t => by simp [keeps]) g.teams

/-! ### The place of a team -/

/-- A team that is found after a change stands where it stood, in the same group, context and core, with the same lanes. -/
def KeepsPlace (r : TeamRef) (s t : State) : Prop :=
  ∀ h v, t.group? r.uid = some h → h.team? r.tid = some v → ∃ g w, s.group? r.uid = some g ∧ g.team? r.tid = some w ∧
    h.core = g.core ∧ h.part = g.part ∧ h.ctxid = g.ctxid ∧ v.lanes = w.lanes

section
variable {r : TeamRef} {s t u : State}

theorem keepsPlace_of_groups (same : t.groups = s.groups) : KeepsPlace r s t := fun h v hh hv =>
  ⟨h, v, by rw [← hh, State.group?, State.group?, same], hv, rfl, rfl, rfl, rfl⟩

theorem keepsPlace_of_gone (gone : t.group? r.uid = none) : KeepsPlace r s t := fun h v hh _ => by simp [gone] at hh

theorem KeepsPlace.trans (a : KeepsPlace r s t) (b : KeepsPlace r t u) : KeepsPlace r s u := by
  intro h v hh hv
  obtain ⟨g, w, hg, hw, core, part, ctxid, lanes⟩ := b h v hh hv
  obtain ⟨g', w', hg', hw', core', part', ctxid', lanes'⟩ := a g w hg hw
  exact ⟨g', w', hg', hw', core.trans core', part.trans part', ctxid.trans ctxid', lanes.trans lanes'⟩

theorem State.modTeam_keepsPlace {f : Team → Team} (tid : ∀ t, (f t).tid = t.tid) (lanes : ∀ t, (f t).lanes = t.lanes) (s : State) :
    KeepsPlace r s (s.modTeam r f) := by
  intro h v hh hv
  rw [State.group?_modTeam, Option.map_eq_some_iff] at hh
  obtain ⟨g, hg, rfl⟩ := hh
  rw [Group.team?_modTeam tid, Option.map_eq_some_iff] at hv
  obtain ⟨w, hw, rfl⟩ := hv
  exact ⟨g, w, hg, hw, rfl, rfl, rfl, lanes w⟩

end

@[simp] theorem Team.freezeAll_tid (t : Team) : t.freezeAll.tid = t.tid := rfl
@[simp] theorem Team.freezeAll_lanes (t : Team) : t.freezeAll.lanes = t.lanes := rfl

/-! ### A release and its team's place (R104, R257, R258) -/

@[simp] theorem State.xlate_groups (s : State) (c : Ctx) (a : Access) (va : ℕ) : (s.xlate c a va).2.groups = s.groups := by
  unfold State.xlate
  split
  · rfl
  · dsimp only
    split
    · rfl
    · split
      · rfl
      · rfl
      · split
        · split <;> rfl
        · rfl

@[simp] theorem State.sliceFreed_groups (s : State) (core : ℕ) (r : TeamRef) (home : ℕ × ℕ) :
    (s.sliceFreed core r home).groups = s.groups := by
  unfold State.sliceFreed
  split <;> rfl

@[simp] theorem State.takeStore_groups (s : State) (core : ℕ) (r : TeamRef) (c : Ctx) (e : StoreEntry) :
    (s.takeStore core r c e).groups = s.groups := by
  unfold State.takeStore
  split
  · rfl
  · simp

/-- The groups of a context that a fatal event ends are gone. -/
theorem State.errored_group?_none {s : State} {g : Group} {u : ℕ} (hg : s.group? u = some g) :
    (s.errored g.part g.ctxid).group? u = none := by
  have uid : g.uid = u := by simpa using List.find?_some hg
  have named : u ∈ (s.groups.filter fun h => h.part == g.part && h.ctxid == g.ctxid).map (·.uid) :=
    List.mem_map.mpr ⟨g, List.mem_filter.mpr ⟨List.mem_of_find?_eq_some hg, by simp⟩, uid⟩
  refine List.find?_eq_none.mpr fun h left => ?_
  rw [State.errored_eq] at left
  have still := ((State.detach_discards ..).trans (State.refuseIncoming_discards ..)).groups h left
  simpa using removeGroups_uid named still

/-- A bad access ends the context of the group that makes it, if that has not ended already. -/
theorem State.badAccess_keepsPlace {s : State} {r : TeamRef} {g : Group} (hg : s.group? r.uid = some g) (t : Team) :
    KeepsPlace r s (s.badAccess g t) := by
  unfold State.badAccess
  cases hc : s.ctx? g.part g.ctxid with
  | none =>
    refine keepsPlace_of_groups ?_
    simp only [State.ctxError, hc]
  | some c =>
    by_cases dead : c.state = .error ∨ c.state = .killed
    · rw [State.ctxError_of_dead hc _ _ _ _ dead]
      exact keepsPlace_of_groups rfl
    · obtain ⟨notError, notKilled⟩ := not_or.mp dead
      rw [State.ctxError_of_live hc _ _ _ _ notError notKilled]
      refine keepsPlace_of_gone ?_
      rw [State.group?, (State.postEvent_rest ..).1]
      exact State.errored_group?_none hg

@[simp] theorem Team.addItem_tid (t : Team) (i : ReplayItem) : (t.addItem i).tid = t.tid := by
  unfold Team.addItem
  split <;> rfl

@[simp] theorem Team.addItem_lanes (t : Team) (i : ReplayItem) : (t.addItem i).lanes = t.lanes := by
  unfold Team.addItem
  split <;> rfl

theorem State.drainOne_keepsPlace (s : State) (r : TeamRef) : KeepsPlace r s (s.drainOne r) := by
  unfold State.drainOne
  split
  · exact keepsPlace_of_groups rfl
  · next g hg =>
    split
    · next t c _ _ =>
      split
      · exact keepsPlace_of_groups rfl
      · next e rest _ =>
        split
        · exact keepsPlace_of_groups rfl
        · have same := s.xlate_groups c .write e.va
          split
          all_goals
            rename_i moved
            rw [moved] at same
            refine KeepsPlace.trans (keepsPlace_of_groups same) ?_
          · refine KeepsPlace.trans ?_ (State.modTeam_keepsPlace (by simp) (by simp) _)
            exact keepsPlace_of_groups (by simp)
          · exact State.badAccess_keepsPlace (by rwa [State.group?, same]) t
          · exact State.modTeam_keepsPlace (by simp) (by simp) _
    · exact keepsPlace_of_groups rfl

theorem State.drainN_keepsPlace (r : TeamRef) (n : ℕ) (s : State) : KeepsPlace r s (s.drainN r n) := by
  induction n generalizing s with
  | zero => exact keepsPlace_of_groups rfl
  | succ n ih => exact (s.drainOne_keepsPlace r).trans (ih _)

/-- What a release starts with, and what it leaves. -/
theorem Iss.written_keepsPlace (x : Iss) : KeepsPlace x.r x.s x.written := by
  unfold Iss.written
  split
  · exact keepsPlace_of_groups rfl
  · refine KeepsPlace.trans ?_ (State.drainN_keepsPlace x.r _ _)
    refine KeepsPlace.trans ?_ (State.modTeam_keepsPlace (by simp) (by simp) _)
    exact keepsPlace_of_groups rfl

@[simp] theorem Group.forTeam_core (g : Group) (t : Team) : (g.forTeam t).core = g.core := by
  unfold Group.forTeam
  split <;> rfl

@[simp] theorem Group.forTeam_part (g : Group) (t : Team) : (g.forTeam t).part = g.part := by
  unfold Group.forTeam
  split <;> rfl

@[simp] theorem Group.forTeam_ctxid (g : Group) (t : Team) : (g.forTeam t).ctxid = g.ctxid := by
  unfold Group.forTeam
  split <;> rfl

/-- A released issue is that of the team as the release's stores leave it. -/
theorem releasedBy_spec {x y : Iss} (h : releasedBy x = some y) : ∃ g, x.written.group? x.r.uid = some g ∧ g.team? x.r.tid = some y.t ∧
    y.t.performed = true ∧ y = { x with s := x.written, g := g.forTeam y.t, t := y.t } := by
  unfold releasedBy at h
  dsimp only at h
  split at h
  · cases h
  · next g hg =>
    split at h
    · cases h
    · next t ht =>
      split at h
      · next done =>
        cases h
        exact ⟨g, hg, ht, done, rfl⟩
      · cases h

/-- A release, made once a timer or the like has changed no group, leaves the place of the issuing team and its running lanes. -/
theorem releasedBy_place {i : Instr} {s u : State} {x y : Iss} (h : issueOf i s = some x) (same : u.groups = x.s.groups)
    (hy : releasedBy { x with s := u } = some y) :
    y.r = x.r ∧ y.g.core = x.g.core ∧ y.ctxRef = x.ctxRef ∧ y.t.run = x.t.run := by
  obtain ⟨g, -, hg, ht, at_, -, clocked⟩ := issueOf_spec h
  obtain ⟨k, hk, hv, -, is⟩ := releasedBy_spec hy
  obtain ⟨g', w, hg', hw, core, part, ctxid, lanes⟩ := Iss.written_keepsPlace { x with s := u } k y.t hk hv
  have found : u.group? x.r.uid = some g := by rw [← hg, State.group?, same, clocked]; rfl
  cases found.symm.trans hg'
  cases ht.symm.trans hw
  have run : y.t.run = x.t.run := by rw [Team.run, Team.run, lanes]
  rw [is]
  refine ⟨rfl, ?_, ?_, run⟩
  · simp [at_, core]
  · simp [Iss.ctxRef, at_, part, ctxid]

end Sys2Proof.Machine

/-!
SUPPORT. The GRAPH words (R128 to R131): the address checks of a word that accesses lane by lane, what a releasing word does while its
team's stores are not performed, and each case of GREC, GCOND, GDONE and GFLUSH.
-/

namespace Sys2Proof.Machine

open Sys2Proof

/-! ### Lane addresses (R142) -/

/-- Lanes whose addresses are in range and aligned are passed over. -/
theorem vaFault_append {n : ℕ} {pre : List (ℕ × ℕ)} (ok : ∀ p ∈ pre, Claim.laneOk n p) (rest : List (ℕ × ℕ)) :
    vaFault n (pre ++ rest) = vaFault n rest := by
  induction pre with
  | nil => rfl
  | cons p pre ih =>
    obtain ⟨⟨below, aligned⟩, ok⟩ := List.forall_mem_cons.mp ok
    rw [List.cons_append, vaFault, if_neg (Nat.not_le.mpr below), if_neg (not_not.mpr aligned), ih ok]

theorem vaFault_of_ok {n : ℕ} {vas : List (ℕ × ℕ)} (ok : ∀ p ∈ vas, Claim.laneOk n p) : vaFault n vas = none := by
  simpa [vaFault] using vaFault_append ok []

/-- A word that traps where its lanes' addresses fault traps at the first lane that does. -/
theorem laneTraps_of {i : Instr} {s : State} {x : Iss} {n : ℕ} {vas : List (ℕ × ℕ)} (h : issueOf i s = some x) {body : Iss → Act}
    (run : exec i s = issue i s body) (traps : ∀ code va, vaFault n vas = some (code, va) → body x = .trap code va) :
    Claim.laneTraps i s x n vas := by
  rintro pre post l va rfl ok
  refine ⟨fun beyond => ?_, fun below odd => ?_⟩
  · rw [run, issue_of h, traps trapMemfault (BitVec.ofNat 64 va) (by rw [vaFault_append ok, vaFault, if_pos beyond])]
    rfl
  · rw [run, issue_of h, traps trapAlign (BitVec.ofNat 64 va)
      (by rw [vaFault_append ok, vaFault, if_neg (Nat.not_le.mpr below), if_pos odd])]
    rfl

/-! ### Releasing words (R258) -/

theorem Iss.written_eq_releasing (x : Iss) : x.written = Claim.releasing x := by
  simp only [Iss.written, Claim.releasing, Bool.and_eq_true, Bool.not_eq_true', List.isEmpty_eq_false_iff]

/-- A word whose own effect is a release is held while a store of its team is not performed, and ends with its context. -/
theorem unreleased_of {i : Instr} {s u : State} {x : Iss} {k : Iss → Act}
    (run : exec i s = .next (conclude i x (({ x with s := u } : Iss).release k))) : Claim.unreleased i s { x with s := u } := by
  rw [Claim.unreleased, ← Iss.written_eq_releasing, run, Iss.release, State.team?]
  dsimp only
  cases hg : ({ x with s := u } : Iss).written.group? x.r.uid with
  | none => exact ⟨fun v hv => by simp at hv, fun _ => rfl⟩
  | some g =>
    dsimp only
    cases ht : g.team? x.r.tid with
    | none => exact ⟨fun v hv => by simp at hv, fun _ => rfl⟩
    | some t =>
      refine ⟨fun v hv waits => ?_, fun gone => by simp at gone⟩
      cases hv
      simp only [waits]
      rfl

/-! ### GREC (R128) -/

/-- The state once the timer of the node that an s register names has launched what is due, and that node, if it is a QUEUE node. -/
abbrev Iss.fired (x : Iss) (b : RegField) : State := x.s.fireTimer x.ctxRef (x.t.sreg b).toNat
abbrev Iss.node? (x : Iss) (b : RegField) : Option GNode := (x.fired b).queueNode? x.ctxRef (x.t.sreg b).toNat

/-- The state of a word that gives a status in a register of every running lane, a result that returns later. -/
def Iss.laneStatus (x : Iss) (u : State) (d : RegField) (st : ℕ) : State :=
  u.modTeam x.r fun w => w.addPend [{ dst := d, vals := x.t.run.map fun l => (l, BitVec.ofNat 64 st), flags := 0 }]

section
variable {d a b : RegField} {s : State} {x : Iss} {c : Ctx} (h : issueOf (.grec d a b) s = some x) (hc : x.s.ctxOf x.g = some c)
include h

theorem exec_grec_traps : Claim.laneTraps (.grec d a b) s x 64 (x.t.vas a 0) :=
  laneTraps_of h (by rw [exec, execGrec]) fun code va fault => by simp only [fault]

variable (ok : ∀ p ∈ x.t.vas a 0, Claim.laneOk 64 p)
include hc ok

theorem exec_grec_idle (idle : x.t.idle = true) : ∃ t, exec (.grec d a b) s = .next t ∧ MovesOn x.s t x := by
  refine ⟨_, ?_, conclude_ok (.grec d a b) x x.s⟩
  simp only [exec, execGrec, issue_of h, vaFault_of_ok ok, hc, idle, if_true]

variable (runs : x.t.idle = false)
include runs

theorem exec_grec_notQueue (no : x.node? b = none) :
    ∃ t, exec (.grec d a b) s = .next t ∧ MovesOn (x.laneStatus (x.fired b) d 3) t x := by
  refine ⟨_, ?_, conclude_ok (.grec d a b) x _⟩
  simp only [exec, execGrec, issue_of h, vaFault_of_ok ok, hc, runs, Bool.false_eq_true, if_false]
  dsimp only [Iss.node?, Iss.fired, Iss.ctxRef] at no ⊢
  simp only [no]
  rfl

/-- At a QUEUE node: its state and then its room decide; with both GREC appends. -/
theorem exec_grec_queue {nd : GNode} (node : x.node? b = some nd) :
    let u := x.fired b
    exec (.grec d a b) s = .next (conclude (.grec d a b) x
      (if nd.qstate ≠ .opened then .ok (x.laneStatus u d 2)
      else if nd.rqcap < nd.taken + (x.t.vas a 0).length then .ok (x.laneStatus u d 1)
      else ({ x with s := u } : Iss).appendRecords c d (x.t.sreg b).toNat nd (x.t.vas a 0))) := by
  simp only [exec, execGrec, issue_of h, vaFault_of_ok ok, hc, runs, Bool.false_eq_true, if_false]
  dsimp only [Iss.node?, Iss.fired, Iss.ctxRef] at node ⊢
  simp only [node]
  rfl

section
variable {nd : GNode} (node : x.node? b = some nd)
include node

theorem exec_grec_notOpen (shut : nd.qstate ≠ .opened) : ∃ t, exec (.grec d a b) s = .next t ∧
    MovesOn (x.laneStatus (x.fired b) d 2) t x :=
  ⟨_, by rw [exec_grec_queue h hc ok runs node, if_pos shut], conclude_ok (.grec d a b) x _⟩

variable (opened : nd.qstate = .opened)
include opened

theorem exec_grec_full (full : nd.rqcap < nd.taken + (x.t.vas a 0).length) : ∃ t, exec (.grec d a b) s = .next t ∧
    MovesOn (x.laneStatus (x.fired b) d 1) t x :=
  ⟨_, by rw [exec_grec_queue h hc ok runs node, if_neg (not_not.mpr opened), if_pos full], conclude_ok (.grec d a b) x _⟩

theorem exec_grec_room (room : nd.taken + (x.t.vas a 0).length ≤ nd.rqcap) : exec (.grec d a b) s = .next (conclude (.grec d a b) x
      (({ x with s := x.fired b } : Iss).appendRecords c d (x.t.sreg b).toNat nd (x.t.vas a 0))) := by
  rw [exec_grec_queue h hc ok runs node, if_neg (not_not.mpr opened), if_neg (Nat.not_lt.mpr room)]

end

end

/-- The records that GREC reads: 64 bytes at each running lane's address (R128). -/
def Iss.records (x : Iss) (c : Ctx) (vas : List (ℕ × ℕ)) : Gather :=
  gatherLanes x.s (x.reader c false) 8 (vas.flatMap fun p => (List.range 8).map fun i => laneAt p.1 (p.2 + 8 * i))

/-- The ring slots that a run of records takes, translated once the records are read. -/
def Iss.slots (x : Iss) (c : Ctx) (nd : GNode) (vas : List (ℕ × ℕ)) : Run :=
  xlateBytes (x.records c vas).s c .write (nd.slotsVa vas.length)

/-- The state once a run of records is in a node's ring, and the node has launched what that fills (R122, R128). -/
def Iss.appended (x : Iss) (c : Ctx) (n : ℕ) (nd : GNode) (vas : List (ℕ × ℕ)) : State :=
  let w := x.slots c nd vas
  let v := ((w.s.modTeam x.r fun t => t.sees (x.records c vas).seen).writePlaces w.places (x.records c vas).bytes).modNode x.ctxRef n
    fun e => e.append vas.length w.s.clk
  ((v.serve x.ctxRef n).walkGraph x.ctxRef).advance x.ctxRef

/-- What becomes of records that are read, by where the ring's slots stop translating. -/
def Iss.ringAct (x : Iss) (c : Ctx) (d : RegField) (n : ℕ) (nd : GNode) (vas : List (ℕ × ℕ)) : Option RunStop → Act
  | some (.fault va _ _) => .hold ((x.slots c nd vas).s.modTeam x.r fun t => t.addReplay t.prefixPc .rewrite [laneAt 0 va])
  | some (.range va) => .done ((x.slots c nd vas).s.ctxError c.part c.ctxid trapMemfault x.g.core 0 (BitVec.ofNat 64 va))
  | some .bad => .done ((x.slots c nd vas).s.badAccess x.g x.t)
  | none => .ok (x.laneStatus (x.appended c n nd vas) d 0)

section
variable {x y : Iss} (hy : releasedBy x = some y) (c : Ctx) (d : RegField) (n : ℕ) (nd : GNode) (vas : List (ℕ × ℕ))
include hy

theorem Iss.appendRecords_bad (bad : (y.records c vas).bad = true) :
    x.appendRecords c d n nd vas = .done (y.s.badAccess y.g y.t) := by
  rw [Iss.appendRecords, release_of hy]
  exact if_pos bad

variable (good : (y.records c vas).bad = false)
include good

theorem Iss.appendRecords_left (left : (y.records c vas).left ≠ []) : x.appendRecords c d n nd vas =
    .hold ((y.records c vas).s.modTeam y.r fun t => t.addReplay t.prefixPc .whole (y.records c vas).left) := by
  rw [Iss.appendRecords, release_of hy]
  refine (if_neg (ne_true_of_eq_false good)).trans (if_pos ?_)
  simpa [Iss.records] using left

/-- With every record read, the ring's slots decide. -/
theorem Iss.appendRecords_read (read : (y.records c vas).left = []) :
    x.appendRecords c d n nd vas = y.ringAct c d n nd vas (y.slots c nd vas).stop := by
  rw [Iss.appendRecords, release_of hy]
  refine (if_neg (ne_true_of_eq_false good)).trans ((if_neg ?_).trans ?_)
  · simpa [Iss.records] using read
  · dsimp only
    split <;> rename_i stop <;> exact (congrArg (y.ringAct c d n nd vas) stop).symm

end

/-- GREC's records, once its release is done, are appended, wait for a page at the word, or end the context (R128). -/
theorem exec_grec_appends {d a b : RegField} {s : State} {x y : Iss} {c : Ctx} {nd : GNode} (h : issueOf (.grec d a b) s = some x)
    (hc : x.s.ctxOf x.g = some c) (ok : ∀ p ∈ x.t.vas a 0, Claim.laneOk 64 p) (runs : x.t.idle = false)
    (node : x.node? b = some nd) (opened : nd.qstate = .opened) (room : nd.taken + (x.t.vas a 0).length ≤ nd.rqcap)
    (hy : releasedBy { x with s := x.fired b } = some y) :
    let vas := x.t.vas a 0
    let n := (x.t.sreg b).toNat
    let q := y.records c vas
    let w := y.slots c nd vas
    (q.bad = true → exec (.grec d a b) s = .next (y.s.badAccess y.g y.t).moved) ∧
    (q.bad = false → q.left ≠ [] → exec (.grec d a b) s = .next (Claim.waits x q.s .whole q.left)) ∧
    (q.bad = false → q.left = [] →
      (∀ va m l, w.stop = some (.fault va m l) → exec (.grec d a b) s = .next (Claim.waits x w.s .rewrite [laneAt 0 va])) ∧
      (∀ va, w.stop = some (.range va) → exec (.grec d a b) s =
        .next (w.s.ctxError c.part c.ctxid trapMemfault x.g.core 0 (BitVec.ofNat 64 va)).moved) ∧
      (w.stop = some .bad → exec (.grec d a b) s = .next (w.s.badAccess y.g y.t).moved) ∧
      (w.stop = none → ∃ t, exec (.grec d a b) s = .next t ∧ MovesOn (x.laneStatus (y.appended c n nd vas) d 0) t x)) := by
  intro vas n q w
  obtain ⟨sameTeam, sameCore, -, sameRun⟩ := releasedBy_place h (x.s.fireTimer_groups ..) hy
  have run := exec_grec_room h hc ok runs node opened room
  refine ⟨fun bad => ?_, fun good left => ?_, fun good read => ?_⟩
  · rw [run, Iss.appendRecords_bad hy c d n nd vas bad]
    rfl
  · rw [run, Iss.appendRecords_left hy c d n nd vas good left, sameTeam]
    rfl
  · rw [Iss.appendRecords_read hy c d n nd vas good read] at run
    refine ⟨fun va m l stop => ?_, fun va stop => ?_, fun stop => ?_, fun stop => ⟨_, run, ?_⟩⟩
    · rw [run, stop, Iss.ringAct, sameTeam]
      rfl
    · rw [run, stop, Iss.ringAct, sameCore]
      rfl
    · rw [run, stop]
      rfl
    · have status : y.laneStatus (y.appended c n nd vas) d 0 = x.laneStatus (y.appended c n nd vas) d 0 := by
        rw [Iss.laneStatus, Iss.laneStatus, sameTeam, sameRun]
      rw [stop, Iss.ringAct, status]
      exact conclude_ok ..

/-! ### GCOND, GDONE and GFLUSH (R129 to R131) -/

theorem exec_gcond_idle {a b : RegField} {s : State} {x : Iss} (h : issueOf (.gcond a b) s = some x) (idle : x.t.idle = true) :
    ∃ t, exec (.gcond a b) s = .next t ∧ MovesOn x.s t x := by
  rw [exec, execGcond]
  exact issue_movesOn h _ (if_pos idle)

theorem exec_gcond_masks {a b : RegField} {s : State} {x : Iss} (h : issueOf (.gcond a b) s = some x) (runs : x.t.idle = false) :
    ∃ t, exec (.gcond a b) s = .next t ∧ MovesOn (((x.s.modGraph x.ctxRef fun g => { g with
      cw := (g.cw &&& ~~~(x.t.sreg a)) ||| (x.t.sreg b &&& x.t.sreg a) }).walkGraph x.ctxRef).advance x.ctxRef) t x := by
  refine ⟨_, ?_, conclude_ok (.gcond a b) x _⟩
  simp only [exec, execGcond, issue_of h, runs, Bool.false_eq_true, if_false]

theorem exec_gdone_frees {s : State} {x : Iss} (h : issueOf .gdone s = some x) :
    ∃ t, exec .gdone s = .next t ∧ MovesOn (x.s.freeRing x.g) t x :=
  ⟨_, by simp only [exec, execGdone, issue_of h], conclude_ok .gdone x _⟩

section
variable {d b : RegField} {s : State} {x : Iss} (h : issueOf (.gflush d b) s = some x)
include h

theorem exec_gflush_notQueue (no : x.node? b = none) :
    ∃ t, exec (.gflush d b) s = .next t ∧ MovesOn (Claim.status x (x.fired b) d 3) t x :=
  exec_status h (by rw [exec, execGflush]) (by simp only [no])

variable {nd : GNode} (node : x.node? b = some nd)
include node

theorem exec_gflush_notOpen (shut : nd.qstate ≠ .opened) :
    ∃ t, exec (.gflush d b) s = .next t ∧ MovesOn (Claim.status x (x.fired b) d 2) t x :=
  exec_status h (by rw [exec, execGflush]) (by simp only [node, if_pos shut])

theorem exec_gflush_empty (opened : nd.qstate = .opened) (empty : nd.pending = 0) :
    ∃ t, exec (.gflush d b) s = .next t ∧ MovesOn (Claim.status x (x.fired b) d 1) t x :=
  exec_status h (by rw [exec, execGflush]) (by simp only [node, if_neg (not_not.mpr opened), if_pos empty])

theorem exec_gflush_launches (opened : nd.qstate = .opened) (pending : 0 < nd.pending) :
    ∃ t, exec (.gflush d b) s = .next t ∧ MovesOn (Claim.status x
      (if x.t.idle then x.fired b else (x.fired b).flushNode x.ctxRef (x.t.sreg b).toNat) d 0) t x :=
  exec_status h (by rw [exec, execGflush]) (by simp only [node, if_neg (not_not.mpr opened), if_neg pending.ne'])

end

/-- Settles O42: each word case by case, GREC's release keeping the team's place and lanes. -/
theorem graphWords : Obligations.GraphWords := by
  unfold Obligations.GraphWords
  refine ⟨fun d a b s x c h hc => ⟨exec_grec_traps h, fun ok => ⟨exec_grec_idle h hc ok, exec_grec_notQueue h hc ok,
      fun runs nd node => ⟨exec_grec_notOpen h hc ok runs node, exec_grec_full h hc ok runs node,
        fun opened room => unreleased_of (exec_grec_room h hc ok runs node opened room), fun opened room y hy => ?_⟩⟩⟩,
    fun a b s x h => ⟨exec_gcond_idle h, exec_gcond_masks h⟩, fun s x => exec_gdone_frees,
    fun d b s x h => ⟨exec_gflush_notQueue h, fun nd node => ⟨exec_gflush_notOpen h node, exec_gflush_empty h node,
      exec_gflush_launches h node⟩⟩⟩
  obtain ⟨bad, left, read⟩ := exec_grec_appends h hc ok runs node opened room hy
  refine ⟨bad, left, fun good all => ?_⟩
  obtain ⟨fault, range, refused, appends⟩ := read good all
  obtain ⟨sameTeam, -, sameCtx, -⟩ := releasedBy_place h (x.s.fireTimer_groups ..) hy
  rw [Iss.appended, sameTeam, sameCtx] at appends
  exact ⟨fault, range, refused, appends⟩

end Sys2Proof.Machine

/-!
SUPPORT. Little-endian numbers: their bytes, their parts, and their place in a memory; what a load's bytes become (R144) and what one
lane of an atomic does at its home (R149).
-/

namespace Sys2Proof.Machine

open Sys2Proof

/-! ### Little-endian numbers -/

theorem leNat_leBytes (n v : ℕ) : leNat (leBytes n v) = v % 2 ^ (8 * n) := by
  induction n generalizing v with
  | zero => simp [leBytes, leNat, Nat.mod_one]
  | succ n ih =>
    have split : v % 2 ^ (8 * (n + 1)) = v % 256 + 256 * (v / 256 % 2 ^ (8 * n)) := by
      rw [show 2 ^ (8 * (n + 1)) = 256 * 2 ^ (8 * n) by ring, Nat.mod_mul]
    rw [leBytes, leNat, ih, split, BitVec.toNat_ofNat]

theorem leNat_append (bs cs : List Byte) : leNat (bs ++ cs) = leNat bs + 2 ^ (8 * bs.length) * leNat cs := by
  induction bs with
  | nil => simp [leNat]
  | cons b bs ih =>
    rw [List.cons_append, leNat, leNat, ih, List.length_cons, show 2 ^ (8 * (bs.length + 1)) = 256 * 2 ^ (8 * bs.length) by ring]
    ring

theorem leNat_lt (bs : List Byte) : leNat bs < 2 ^ (8 * bs.length) := by
  induction bs with
  | nil => simp [leNat]
  | cons b bs ih =>
    have low := b.isLt
    rw [leNat, List.length_cons, show 2 ^ (8 * (bs.length + 1)) = 256 * 2 ^ (8 * bs.length) by ring]
    omega

/-- The first `k` bytes are the number's low part, the others its high part. -/
theorem leNat_take_drop {k : ℕ} {bs : List Byte} (long : k ≤ bs.length) :
    leNat (bs.take k) = leNat bs % 2 ^ (8 * k) ∧ leNat (bs.drop k) = leNat bs / 2 ^ (8 * k) := by
  have whole : leNat bs = leNat (bs.take k) + 2 ^ (8 * k) * leNat (bs.drop k) := by
    have joined := leNat_append (bs.take k) (bs.drop k)
    rwa [List.take_append_drop, List.length_take, Nat.min_eq_left long] at joined
  have low : leNat (bs.take k) < 2 ^ (8 * k) := by simpa [Nat.min_eq_left long] using leNat_lt (bs.take k)
  rw [whole, Nat.add_mul_mod_self_left, Nat.mod_eq_of_lt low, Nat.add_mul_div_left _ _ (by positivity), Nat.div_eq_of_lt low, zero_add]
  exact ⟨rfl, rfl⟩

theorem memReadN_eq_map (m : Memory) (a n : ℕ) : memReadN m a n = (List.range n).map fun k => memRead m (a + k) := by
  induction n generalizing a with
  | zero => rfl
  | succ n ih =>
    rw [memReadN, ih, List.range_succ_eq_map, List.map_cons, List.map_map]
    refine congrArg _ (List.map_congr_left fun k _ => ?_)
    simp only [Function.comp_apply, Nat.succ_eq_add_one, Nat.add_assoc, Nat.add_comm 1]

/-- Bytes written are read back. -/
theorem memReadN_writeN {m : Memory} (wf : Memory.wf m = true) (a : ℕ) (bs : List Byte) :
    memReadN (memWriteN m a bs) a bs.length = bs := by
  rw [memReadN_eq_map]
  refine List.ext_getElem (by simp) fun k _ hk => ?_
  rw [List.getElem_map, List.getElem_range, memRead_writeN _ _ _ _ wf, if_pos ⟨by omega, by omega⟩, Nat.add_sub_cancel_left,
    List.getD_eq_getElem _ _ hk]

/-- A number written is read back, as far as it fits. -/
theorem memNat_writeN_leBytes {m : Memory} (wf : Memory.wf m = true) (a n v : ℕ) :
    leNat (memReadN (memWriteN m a (leBytes n v)) a n) = v % 2 ^ (8 * n) := by
  have back := memReadN_writeN wf a (leBytes n v)
  rw [leBytes_length] at back
  rw [back, leNat_leBytes]

/-- Bytes outside those written are as before. -/
theorem memRead_writeN_outside {m : Memory} (wf : Memory.wf m = true) {a k n : ℕ} (v : ℕ) (outside : k < a ∨ a + n ≤ k) :
    memRead (memWriteN m a (leBytes n v)) k = memRead m k := by
  rw [memRead_writeN _ _ _ _ wf, if_neg (by rw [leBytes_length]; omega)]

/-! ### Loaded values (R144) -/

/-- The value that a load gives a lane for the low register of its destination. -/
theorem loadWrites_low {n : ℕ} {sx : Bool} {bs : List Byte} (size : n = 1 ∨ n = 2 ∨ n = 4 ∨ n = 8 ∨ n = 16) (long : bs.length = n)
    (plain : n = 16 → sx = false) :
    (if sx then BitVec.ofInt 64 (signedOf (8 * n) (leNat bs)) else BitVec.ofNat 64 (leNat (bs.take 8))) =
      if sx = true ∧ n ≤ 8 then BitVec.ofInt 64 (Int.bmod (leNat bs) (2 ^ (8 * n))) else BitVec.ofNat 64 (leNat bs) := by
  cases sx
  · have low : BitVec.ofNat 64 (leNat (bs.take 8)) = BitVec.ofNat 64 (leNat bs) := by
      rcases Nat.lt_or_ge bs.length 8 with short | full
      · rw [List.take_of_length_le short.le]
      · rw [(leNat_take_drop full).1]
        exact BitVec.eq_of_toNat_eq (by simp)
    simpa using low
  · have narrow : n ≤ 8 := by
      rcases size with rfl | rfl | rfl | rfl | rfl
      · decide
      · decide
      · decide
      · decide
      · cases plain rfl
    rw [if_pos rfl, if_pos ⟨rfl, narrow⟩, signedOf_eq _ _ (by omega)]

/-- Settles O25: the low register by the number's low bytes, the high one of a pair by the others. -/
theorem loadValues : Obligations.LoadValues := by
  unfold Obligations.LoadValues
  intro d n sx vals size long plain
  have lowOf : ∀ {l bs}, (l, bs) ∈ vals → _ := fun {l bs} there => loadWrites_low (sx := sx) size (long (l, bs) there) plain
  by_cases wide : n = 16
  · have highOf : ∀ {l bs}, (l, bs) ∈ vals → leNat (bs.drop 8) = leNat bs / 2 ^ 64 := fun {l bs} there =>
      (leNat_take_drop (k := 8) (by rw [long (l, bs) there, wide]; decide)).2
    refine ⟨by simp [loadWrites, wide, nextField], fun w hw => ?_, fun l bs there => ⟨fun w hw => ?_, fun w hw => ?_⟩⟩
    · simp only [loadWrites, if_pos wide, List.mem_cons, List.not_mem_nil, or_false] at hw
      rcases hw with rfl | rfl
      · exact ⟨rfl, by simp [Function.comp_def]⟩
      · exact ⟨rfl, by simp [Function.comp_def]⟩
    · simp only [loadWrites, if_pos wide, List.getElem?_cons_zero, Option.some.injEq] at hw
      subst hw
      exact List.mem_map.mpr ⟨_, there, by rw [lowOf there]⟩
    · simp only [loadWrites, if_pos wide, List.getElem?_cons_succ, List.getElem?_cons_zero, Option.some.injEq] at hw
      subst hw
      exact List.mem_map.mpr ⟨_, there, by rw [highOf there]⟩
  · refine ⟨by simp [loadWrites, wide], fun w hw => ?_, fun l bs there => ⟨fun w hw => ?_, fun w hw => ?_⟩⟩
    · simp only [loadWrites, if_neg wide, List.mem_singleton] at hw
      subst hw
      exact ⟨rfl, by simp [Function.comp_def]⟩
    · simp only [loadWrites, if_neg wide, List.getElem?_cons_zero, Option.some.injEq] at hw
      subst hw
      exact List.mem_map.mpr ⟨_, there, by rw [lowOf there]⟩
    · simp [loadWrites, if_neg wide] at hw

/-! ### An atomic's lane (R148, R149) -/

/-- The value that an atomic leaves in a location, as the rules state it. -/
theorem atomNew_value (op : AtomOp) {n : ℕ} (pos : 0 < n) (old arg cmp : ℕ) : (atomNew op n old arg cmp).1 =
    match op with
    | .add => (old + arg) % 2 ^ n
    | .minI => if Int.bmod arg (2 ^ n) < Int.bmod old (2 ^ n) then arg else old
    | .maxI => if Int.bmod old (2 ^ n) < Int.bmod arg (2 ^ n) then arg else old
    | .minN => min old arg
    | .maxN => max old arg
    | .and => old &&& arg
    | .or => old ||| arg
    | .xor => old ^^^ arg
    | .swap => arg
    | .cas => if old = cmp then arg else old
    | .fadd => (addBits .fp32 rneRounding false old arg).1 := by
  cases op
  case minI | maxI => simp only [atomNew, signedOf_eq _ _ pos]
  case cas => by_cases same : old = cmp <;> simp [atomNew, same]
  all_goals rfl

/-- Of the operations CAS alone fails, where the location holds another value. -/
theorem atomNew_fails_iff (op : AtomOp) (n old arg cmp : ℕ) : (atomNew op n old arg cmp).2.2 = true ↔ op = .cas ∧ old ≠ cmp := by
  cases op
  case cas => by_cases same : old = cmp <;> simp [atomNew, same]
  all_goals simp [atomNew]

/-- Settles O29: the lane is one numbered write of the operation's result, over the old value that it returns. -/
theorem atomicAtHome : Obligations.AtomicAtHome := by
  unfold Obligations.AtomicAtHome
  intro r asid op n q e host pa atom size wfMem wfHost _ old arg new w
  have pos : 0 < 8 * n := by omega
  have value : (atomNew op (8 * n) old arg e.cmp.toNat).1 = new := atomNew_value op pos old arg e.cmp.toNat
  have fails : w.fail = true ↔ q.fail = true ∨ (op = .cas ∧ old ≠ e.cmp.toNat) := by
    rw [← atomNew_fails_iff op (8 * n) old arg e.cmp.toNat]
    exact Bool.or_eq_true_iff
  have stored : (if host then w.s.hostMem else w.s.mem) = memWriteN (if host then q.s.hostMem else q.s.mem) pa (leBytes n new) := by
    rw [← value]
    cases host <;> rfl
  have wf : Memory.wf (if host then q.s.hostMem else q.s.mem) = true := by cases host <;> assumption
  refine ⟨rfl, fun _ => ?_, fun a outside => ?_, ?_, rfl, rfl, rfl, rfl, rfl, fails⟩
  · rw [stored]
    exact memNat_writeN_leBytes wf pa n new
  · rw [stored]
    exact memRead_writeN_outside wf new outside
  · cases host <;> rfl

end Sys2Proof.Machine

/-!
SUPPORT. Tile loads and stores and TBIND (R151 to R155): what checks in R449's order come to, a tile store's elements as one change of
the scratchpad, and a team's view of the scratchpad where no write may be missed.
-/

namespace Sys2Proof.Machine

open Sys2Proof

/-! ### Checks (R449) -/

theorem Iss.checked_passed {x : Iss} {check : Check} (passed : check = none) (k : Act) : x.checked check k = k := by rw [passed]; rfl

/-- A word whose checks fail traps. -/
theorem conclude_checkTrap (i : Instr) {x : Iss} {check : Check} {code : ℕ} {va : Option DWord} (fails : check = some (code, va))
    (k : Act) : conclude i x (x.checked check k) = Claim.checkTrap x code va := by
  rw [fails]
  cases va <;> rfl

/-! ### Tile loads and stores (R153, R154) -/

/-- What a load gives a lane is the value stated for it. -/
theorem Iss.tld_eq {x : Iss} (runs : x.t.idle = false) (d a : RegField) (n : ℕ) (pair : Bool) :
    let h := hdrAt x.g x.t n
    let recon := x.t.hasRec && h.isHaar
    let es := elemsOf x.t h a pair
    x.tld d a n pair = x.checked (tldCheck x n x.t.fmtRec.fd recon h es) (x.okTeam ((Claim.viewed x).t.addPend [{
      dst := d, vals := es.map fun e => (e.lane, x.t.ext32 (Claim.tileValue x (Claim.viewed x).g h recon e).1)
      flags := orAll (es.map fun e => (Claim.tileValue x (Claim.viewed x).g h recon e).2) }])) := by
  intro h recon es
  unfold Iss.tld
  rw [runs, if_neg Bool.false_ne_true]
  cases hr : (x.t.hasRec && (hdrAt x.g x.t n).isHaar) <;>
    simp [h, recon, es, hr, Claim.tileValue, Claim.viewed, Function.comp_def]

/-- Elements put one after the other change the scratchpad, and nothing else of the group. -/
theorem Group.takePad_rawPuts {α : Type} (h : Hdr) (base col val : α → ℕ) (es : List α) (g k : Group) :
    g.takePad (es.foldl (fun w e => w.rawPut h (base e) (col e) (val e)) (g.takePad k)) =
      es.foldl (fun w e => w.rawPut h (base e) (col e) (val e)) (g.takePad k) := by
  induction es generalizing k with
  | nil => rfl
  | cons e es ih => exact ih ((g.takePad k).rawPut h (base e) (col e) (val e))

/-- A tile store is its lanes' elements put in turn, as ordinary stores of the team. -/
theorem Iss.tst_eq {x : Iss} (runs : x.t.idle = false) (d a : RegField) (n : ℕ) (pair : Bool) :
    let h := hdrAt x.g x.t n
    let src := tstSource h x.t.fmtRec.fa
    let es := elemsOf x.t h a pair
    let out := fun (e : ElemAt) => tstVal h (src.getD .fp32) x.t.fmtRec.sat (x.t.reg32 d e.lane)
    x.tst d a n pair = x.checked (spatialCheck x n src.isSome h es) (.ok ((x.s.modGroup x.r.uid fun g =>
        (es.foldl (fun g e => g.rawPut h (e.base.getD 0) e.col (out e).1) g).madeBy x.r g.vers).modTeam x.r
      fun v => v.orFlags (orAll (es.map fun e => (out e).2)))) := by
  intro h src es out
  have stored : ∀ g : Group, g.storePad (es.foldl (fun g e => g.rawPut h (e.base.getD 0) e.col (out e).1) g) x.r =
      (es.foldl (fun g e => g.rawPut h (e.base.getD 0) e.col (out e).1) g).madeBy x.r g.vers := fun g =>
    congrArg (·.madeBy x.r g.vers) (g.takePad_rawPuts h (fun e => e.base.getD 0) ElemAt.col (fun e => (out e).1) es g)
  unfold Iss.tst
  rw [runs, if_neg Bool.false_ne_true]
  simp only [List.foldl_map, List.map_map]
  exact congrArg _ (congrArg Act.ok (congrArg (State.modTeam · _ _) (congrArg (x.s.modGroup x.r.uid) (funext stored))))

/-! ### A team's view (R254) -/

/-- A read that may miss no write reads what stands there. -/
theorem missFrom_of_none {may : PastWrite → Bool} {es : List PastWrite} (none : ∀ e ∈ es, may e = false) (kept : List PastWrite)
    (g : Group) : (missFrom may es kept g).1 = g := by
  induction es generalizing kept with
  | nil => rfl
  | cons e es ih =>
    obtain ⟨here, later⟩ := List.forall_mem_cons.mp none
    rw [missFrom, here, Bool.and_false, if_neg Bool.false_ne_true]
    exact ih later _

theorem Iss.padView_of_seen {x : Iss}
    (seen : ∀ e ∈ x.g.past, e.closed = true ∨ e.maker = some x.r ∨ e.ver < x.t.padAt ∨ e.ver ∈ x.t.padSeen) :
    x.padView.1 = x.g := by
  refine missFrom_of_none (fun e there => ?_) [] x.g
  rcases seen e there with closed | own | old | read
  · simp [closed]
  · simp [own]
  · simp [Nat.not_le.mpr old]
  · simp [read]

/-! ### TBIND (R155) -/

section
variable {a : RegField} {n : BitVec 4} {s : State} {x : Iss} (h : issueOf (.tbind a n) s = some x)
include h

theorem exec_tbind_idle (idle : x.t.idle = true) : ∃ t, exec (.tbind a n) s = .next t ∧ MovesOn x.s t x := by
  rw [exec, execTbind]
  exact issue_movesOn h _ (if_pos idle)

variable (runs : x.t.idle = false)
include runs

theorem exec_tbind_misplaced (bad : ¬((x.t.sreg a).toNat % 32 = 0 ∧ (x.t.sreg a).toNat + 32 ≤ x.g.padSize)) :
    exec (.tbind a n) s = .next (Claim.trapped x trapBounds (BitVec.ofNat 64 (x.t.sreg a).toNat)) := by
  rw [exec, execTbind, issue_of h, runs, if_neg Bool.false_ne_true, if_pos (by omega)]
  rfl

theorem exec_tbind_binds (good : (x.t.sreg a).toNat % 32 = 0 ∧ (x.t.sreg a).toNat + 32 ≤ x.g.padSize) :
    ∃ t, exec (.tbind a n) s = .next t ∧ MovesOn (x.s.bindHandle x.r x.t n.toNat (some (x.t.sreg a).toNat)) t x := by
  rw [exec, execTbind, issue_of h, runs, if_neg Bool.false_ne_true, if_neg (by omega)]
  exact ⟨_, rfl, conclude_ok ..⟩

end

/-- Settles O33: a load or store by its checks and its lanes' elements, and TBIND by its cases. -/
theorem tileAccess : Obligations.TileAccess := by
  unfold Obligations.TileAccess
  refine ⟨fun i d a n pair s x issued named => ?_, fun i d a n pair s x issued named => ?_, fun g h base col v wf bytes => ?_,
    fun x => Iss.padView_of_seen, fun a n s x issued => ⟨exec_tbind_idle issued, exec_tbind_misplaced issued, ?_, ?_⟩⟩
  · have run : exec i s = issue i s fun x => x.tld d a n.toNat pair := by
      rcases named with ⟨rfl, rfl⟩ | ⟨rfl, rfl⟩ <;> rfl
    refine ⟨fun idle => ?_, fun runs passed => ?_, fun runs code va fails => ?_⟩
    · rw [run]
      exact issue_movesOn issued _ (if_pos idle)
    · rw [run]
      exact okTeam_steps issued _ _ ((Iss.tld_eq runs d a n.toNat pair).trans (Iss.checked_passed passed _)) rfl
    · rw [run, issue_of issued, Iss.tld_eq runs, conclude_checkTrap i fails]
  · have run : exec i s = issue i s fun x => x.tst d a n.toNat pair := by
      rcases named with ⟨rfl, rfl⟩ | ⟨rfl, rfl⟩ <;> rfl
    refine ⟨fun idle => ?_, fun runs passed => ?_, fun runs code va fails => ?_⟩
    · rw [run]
      exact issue_movesOn issued _ (if_pos idle)
    · rw [run, issue_of issued, Iss.tst_eq runs, Iss.checked_passed passed]
      exact ⟨_, rfl, conclude_ok ..⟩
    · rw [run, issue_of issued, Iss.tst_eq runs, conclude_checkTrap i fails]
  · have whole : 8 * (h.bits / 8) = h.bits := by omega
    refine ⟨?_, fun a outside => memRead_writeN_outside wf v outside⟩
    rw [← whole, Nat.mul_div_cancel_left _ (by decide)]
    exact memNat_writeN_leBytes wf _ _ v
  · intro runs good own
    have binds := exec_tbind_binds issued runs good
    rwa [State.bindHandle, own] at binds
  · intro runs good i own
    have binds := exec_tbind_binds issued runs good
    rw [State.bindHandle, own] at binds
    exact binds

end Sys2Proof.Machine

/-!
SUPPORT. Loads, stores and atomics of the ACCESS role before they access anything (R142): the checks of their addresses, and each
word's effect by its form.
-/

namespace Sys2Proof.Machine

open Sys2Proof

/-! ### Running lanes -/

theorem Team.run_eq_nil_iff (t : Team) : t.run = [] ↔ t.idle = true := by
  rw [Team.idle, Bool.not_eq_true', List.any_eq_false, List.eq_nil_iff_forall_not_mem]
  refine ⟨fun none k there => ?_, fun none l runs => ?_⟩
  · obtain ⟨l, hl⟩ := List.mem_iff_getElem?.mp there
    exact fun running => none l ((Team.mem_run hl).mpr running)
  · obtain ⟨k, hk, running⟩ := Team.lane_of_mem_run runs
    exact none k (List.mem_of_getElem? hk) running

theorem Team.vas_eq_nil_iff (t : Team) (a : RegField) (off : ℤ) : t.vas a off = [] ↔ t.idle = true := by
  rw [Team.vas, List.map_eq_nil_iff, Team.run_eq_nil_iff]

/-! ### Checks of addresses (R142) -/

/-- What the checks of R142 make of a word's effect: BOUNDS, the trap of the first lane that faults, and nothing with no lane. -/
def ChecksAddresses (x : Iss) (a : RegField) (off : ℤ) (n : ℕ) (base : Bool) (effect : Act) : Prop :=
  (base = true → effect = .trap trapBounds (a.zeroExtend 64)) ∧
  (base = false → ∀ code va, vaFault n (x.t.vas a off) = some (code, va) → effect = .trap code va) ∧
  (base = false → x.t.run = [] → effect = .ok x.s)

section
variable {x : Iss} {a : RegField} {off : ℤ} {n : ℕ} {base : Bool}

theorem Iss.access_checks (k : Ctx → List (ℕ × ℕ) → Act) : ChecksAddresses x a off n base (x.access a off n base k) := by
  refine ⟨fun bad => if_pos bad, fun fine code va fault => ?_, fun fine none => ?_⟩
  · simp only [Iss.access, fine, fault, Bool.false_eq_true, if_false]
  · have nowhere : x.t.vas a off = [] := by rw [Team.vas, none]; rfl
    simp only [Iss.access, fine, nowhere, vaFault, Bool.false_eq_true, if_false, List.isEmpty_nil, if_true]
    split <;> rfl

/-- An access whose checks pass and which some lane makes. -/
theorem Iss.access_of (ok : Claim.accesses x a off n base) {c : Ctx} (hc : x.s.ctxOf x.g = some c) (k : Ctx → List (ℕ × ℕ) → Act) :
    x.access a off n base k = k c (x.t.vas a off) := by
  obtain ⟨fine, some, fit⟩ := ok
  simp only [Iss.access, fine, vaFault_of_ok fit, hc, List.isEmpty_iff, some, Bool.false_eq_true, if_false]

theorem runs_of_accesses (ok : Claim.accesses x a off n base) : x.t.idle = false := by
  obtain ⟨-, some, -⟩ := ok
  rwa [← Bool.not_eq_true, ← Team.vas_eq_nil_iff x.t a off]

theorem vaFault_of_accesses (ok : Claim.accesses x a off n base) : vaFault n (x.t.vas a off) = none := by
  obtain ⟨-, -, fit⟩ := ok
  exact vaFault_of_ok fit

end

/-! ### Atomics by their form (R148, R149) -/

/-- A word of the atomics once it has issued: its addresses are checked, ORD.REL releases, and then it acts. -/
def Iss.ordering (x : Iss) (a : RegField) (n : ℕ) (o : BitVec 2) (base : Bool) (body : Iss → Act) : Act :=
  match vaFault n (x.t.vas a 0) with
  | some (code, va) => if base then .trap trapBounds (a.zeroExtend 64) else .trap code va
  | none => if o.getLsbD 1 && !x.t.idle && !base then x.release body else body x

theorem Iss.ordering_checks {x : Iss} {a : RegField} {n : ℕ} {base : Bool} {body : Iss → Act} (o : BitVec 2)
    (checks : ChecksAddresses x a 0 n base (body x)) : ChecksAddresses x a 0 n base (x.ordering a n o base body) := by
  obtain ⟨bounds, -, rests⟩ := checks
  refine ⟨fun bad => ?_, fun fine code va fault => ?_, fun fine none => ?_⟩
  · unfold Iss.ordering
    split
    · exact if_pos bad
    · rw [bad, Bool.not_true, Bool.and_false, if_neg Bool.false_ne_true, bounds bad]
  · simp only [Iss.ordering, fault, fine, Bool.false_eq_true, if_false]
  · have nowhere : x.t.vas a 0 = [] := by rw [Team.vas, none]; rfl
    have idle : x.t.idle = true := (Team.run_eq_nil_iff x.t).mp none
    simp only [Iss.ordering, nowhere, vaFault, idle, Bool.not_true, Bool.and_false, Bool.false_and, Bool.false_eq_true, if_false]
    exact rests fine none

theorem two_pow_size_eq_16 (z : BitVec 3) : 2 ^ z.toNat = 16 ↔ z = 4 := by
  revert z
  decide

/-- The base of an effect that performs lanes atomically is a register that its result returns to (R142). -/
def dstBase (dst : Option RegField) (a : RegField) (n : ℕ) : Bool :=
  match dst with
  | some d => writesBase d a (if n = 16 then 2 else 1)
  | none => false

/-- The base of an atomic is a register that the word writes (R142, R149). -/
abbrev atomBase (op : AtomOp) (ret : Bool) (d a : RegField) (n : ℕ) : Bool :=
  ret && writesBase d a (if op = .cas ∧ n = 16 then 2 else 1)

section
variable {i : Instr} {op : AtomOp} {ret : Bool} {d a : RegField} {o : BitVec 2} {n : ℕ}
  (form : Claim.atomForm i = some (op, ret, d, a, o, n))
include form

theorem atomForm_cas (cas : op = .cas) : ∃ z, i = .cas d a o z ∧ ret = true ∧ n = 2 ^ z.toNat := by
  unfold Claim.atomForm at form
  split at form <;> cases form <;> simp_all

/-- Of the atomics CAS alone has operands of 16 bytes. -/
theorem atomForm_wide (formed : i.wellFormed = true) (wide : n = 16) : op = .cas := by
  unfold Claim.atomForm at form
  split at form <;> cases form <;> simp_all [Instr.wellFormed, two_pow_size_eq_16]

theorem exec_of_atomForm_other (other : op ≠ .cas) (s : State) : exec i s = issue i s fun x => x.atom op n ret d a o := by
  unfold Claim.atomForm at form
  split at form <;> cases form
  all_goals try exact absurd rfl other
  all_goals rfl

/-- Every atomic and reduction is one effect: its operation over the lanes with their operands, past its release. -/
theorem exec_of_atomForm : ∃ lane : Iss → ℕ → LaneAcc → LaneAcc,
    (∀ x p, lane x p.1 (laneAt p.1 p.2) = Claim.atomLane x.t op n d p) ∧
    ∀ s, exec i s = issue i s fun x => x.ordering a n o (atomBase op ret d a n) fun y =>
      y.atomic (o.getLsbD 0) op n (if ret then some d else none) a (lane y) := by
  by_cases cas : op = .cas
  · obtain ⟨z, rfl, rfl, rfl⟩ := atomForm_cas form cas
    subst cas
    refine ⟨fun x l p => if 2 ^ z.toNat == 16 then { p with cmp := pairOf x.t d l, data := pairOf x.t (d + 2) l }
      else { p with cmp := operandOf x.t d (2 ^ z.toNat) l, data := operandOf x.t (nextField d) (2 ^ z.toNat) l },
      fun x p => ?_, fun s => ?_⟩
    · by_cases wide : 2 ^ z.toNat = 16 <;> simp [Claim.atomLane, wide, pairOf, operandOf, nextField, laneAt]
    · have base : atomBase .cas true d a (2 ^ z.toNat) = writesBase d a (if 2 ^ z.toNat == 16 then 2 else 1) := by simp [atomBase]
      rw [base]
      rfl
  · refine ⟨fun x l p => { p with data := operandOf x.t d n l }, fun x p => ?_, fun s => ?_⟩
    · rw [Claim.atomLane, if_neg cas]
      rfl
    · rw [exec_of_atomForm_other form cas, atomBase, if_neg fun both => cas both.1]
      rfl

/-- The registers that the effect of a well-formed atomic tells apart from its base are those that the word does. -/
theorem dstBase_eq_atomBase (formed : i.wellFormed = true) : dstBase (if ret then some d else none) a n = atomBase op ret d a n := by
  have same : (op = .cas ∧ n = 16) ↔ n = 16 := and_iff_right_of_imp (atomForm_wide form formed)
  cases ret <;> simp [dstBase, atomBase, same]

end

/-- A word that issues is well formed. -/
theorem issueOf_wellFormed {i : Instr} {s : State} {x : Iss} (h : issueOf i s = some x) : i.wellFormed = true := by
  obtain ⟨g, -, -, -, -, passes, -⟩ := issueOf_spec h
  by_contra bad
  rw [issueFault_of_not_wellFormed (Bool.not_eq_true _ ▸ bad)] at passes
  cases passes

/-! ### Words by their accesses (R142) -/

/-- What accesses global memory lane by lane: loads, polls, stores, and the atomics. -/
theorem accessForm_cases {x : Iss} {i : Instr} {a : RegField} {off : ℤ} {n : ℕ} {base : Bool}
    (form : Claim.accessForm x i = some (a, off, n, base)) :
    (∃ d o z e, (i = .ld d a o z e ∨ i = .ldAcq d a o z e) ∧ off = x.off4 o (2 ^ z.toNat) ∧ n = 2 ^ z.toNat ∧
      base = writesBase d a (if z = 4 then 2 else 1)) ∨
    (∃ d o z, i = .ldPoll d a o z ∧ off = x.off4 o n ∧ n = (if z = 1 then 8 else 4) ∧ base = writesBase d a 1) ∨
    (∃ d o z, (i = .st d a o z ∨ i = .stRel d a o z) ∧ off = x.off4 o (2 ^ z.toNat) ∧ n = 2 ^ z.toNat ∧ base = false) ∨
    ∃ op ret d o, Claim.atomForm i = some (op, ret, d, a, o, n) ∧ off = 0 ∧ base = atomBase op ret d a n := by
  unfold Claim.accessForm at form
  split at form <;> cases form <;> simp [Claim.atomForm, atomBase, two_pow_size_eq_16]

/-- ST.REL checks its addresses, and with a lane running releases before it stores (R142, R147). -/
theorem exec_stRel (d a : RegField) (o : BitVec 4) (z : BitVec 3) : ∃ body : Iss → Act,
    (∀ s, exec (.stRel d a o z) s = issue (.stRel d a o z) s body) ∧ ∀ x,
      (∀ code va, vaFault (2 ^ z.toNat) (x.t.vas a (x.off4 o (2 ^ z.toNat))) = some (code, va) → body x = .trap code va) ∧
      (vaFault (2 ^ z.toNat) (x.t.vas a (x.off4 o (2 ^ z.toNat))) = none → body x =
        if x.t.idle then .ok x.s else x.release fun y => y.store d a (y.off4 o (2 ^ z.toNat)) (2 ^ z.toNat)) := by
  refine ⟨_, fun s => by rw [exec, execStRel], fun x => ⟨fun code va fault => ?_, fun passed => ?_⟩⟩
  · simp only [sizeBytes, fault]
  · simp only [sizeBytes, passed]

section
variable {i : Instr} {s : State} {x : Iss} (h : issueOf i s = some x) {a : RegField} {off : ℤ} {n : ℕ} {base : Bool}
include h

/-- The effect of every such word makes the checks of R142. -/
theorem exec_checks (form : Claim.accessForm x i = some (a, off, n, base)) :
    ∃ body, exec i s = issue i s body ∧ ChecksAddresses x a off n base (body x) := by
  rcases accessForm_cases form with ⟨d, o, z, e, rfl | rfl, rfl, rfl, rfl⟩ | ⟨d, o, z, rfl, rfl, rfl, rfl⟩ |
    ⟨d, o, z, rfl | rfl, rfl, rfl, rfl⟩ | ⟨op, ret, d, o, atom, rfl, rfl⟩
  · refine ⟨fun x => x.load d a (x.off4 o (sizeBytes z)) (sizeBytes z) (e == 1) false, rfl, ?_⟩
    simp only [← two_pow_size_eq_16]
    exact Iss.access_checks _
  · refine ⟨fun x => x.load d a (x.off4 o (sizeBytes z)) (sizeBytes z) (e == 1) true, rfl, ?_⟩
    simp only [← two_pow_size_eq_16]
    exact Iss.access_checks _
  · refine ⟨_, by rw [exec, execLdPoll], ?_⟩
    exact Iss.access_checks _
  · exact ⟨fun x => x.store d a (x.off4 o (sizeBytes z)) (sizeBytes z), rfl, Iss.access_checks _⟩
  · obtain ⟨body, run, acts⟩ := exec_stRel d a o z
    obtain ⟨faults, passes⟩ := acts x
    refine ⟨body, run s, Bool.noConfusion, fun _ => faults, fun _ none => ?_⟩
    have nowhere : x.t.vas a (x.off4 o (2 ^ z.toNat)) = [] := by rw [Team.vas, none]; rfl
    rw [passes (by rw [nowhere]; rfl), if_pos ((Team.run_eq_nil_iff x.t).mp none)]
  · obtain ⟨lane, -, run⟩ := exec_of_atomForm atom
    refine ⟨_, run s, Iss.ordering_checks o ?_⟩
    rw [← dstBase_eq_atomBase atom (issueOf_wellFormed h)]
    exact Iss.access_checks _

end

/-- Settles O23: every word that accesses global memory makes the checks of R142 before anything else. -/
theorem addressTraps : Obligations.AddressTraps := by
  unfold Obligations.AddressTraps
  intro i a off n base s x h form
  obtain ⟨body, run, bounds, faults, rests⟩ := exec_checks h form
  refine ⟨fun bad => ?_, fun fine => laneTraps_of h run (faults fine), fun fine none => ?_⟩
  · rw [run, issue_of h, bounds bad]
    rfl
  · rw [run]
    exact issue_movesOn h body (rests fine none)

end Sys2Proof.Machine

/-!
SUPPORT. Loads, polls and prefetches (R142 to R146): the groups that translating and gathering leave, what an ordinary read may not
miss (R254), demotion events (R174), and each word by its cases.
-/

namespace Sys2Proof.Machine

open Sys2Proof

/-! ### Groups and teams that remain -/

/-- Machines of the same groups have the same teams. -/
theorem State.team?_of_groups {s t : State} (same : t.groups = s.groups) (r : TeamRef) : t.team? r = s.team? r := by
  rw [State.team?, State.team?, State.group?, State.group?, same]

theorem State.team?_modTeam {f : Team → Team} (keeps : ∀ t, (f t).tid = t.tid) (s : State) (r : TeamRef) :
    (s.modTeam r f).team? r = (s.team? r).map f := by
  unfold State.team?
  rw [State.group?_modTeam]
  cases s.group? r.uid with
  | none => rfl
  | some g => exact Group.team?_modTeam keeps g

theorem State.team?_acquire (s : State) (r : TeamRef) : ((s.acquire r).team? r).isSome = (s.team? r).isSome := by
  unfold State.acquire
  split
  · rfl
  · next g _ =>
    rw [State.team?_modTeam (f := fun t => t.acquired s.vers g.vers) (fun _ => rfl), Option.isSome_map]
    rfl

@[simp] theorem Iss.request_groups (x : Iss) (s : State) (c : Ctx) (lanes : List (ℕ × ℕ)) : (x.request s c lanes).groups = s.groups := by
  unfold Iss.request State.requestFor
  split <;> rfl

@[simp] theorem gatherLane_groups (w : Reader) (n : ℕ) (q : Gather) (a : LaneAcc) : (gatherLane w n q a).s.groups = q.s.groups := by
  unfold gatherLane
  split
  · rfl
  · have same := q.s.xlate_groups w.c .read a.va
    split
    · next found => exact (congrArg (fun p : XRes × State => p.2.groups) found).symm.trans same
    · rfl
    · rfl

@[simp] theorem gatherLanes_groups (s : State) (w : Reader) (n : ℕ) (lanes : List LaneAcc) :
    (gatherLanes s w n lanes).s.groups = s.groups := by
  have each : ∀ q : Gather, (lanes.foldl (gatherLane w n) q).s.groups = q.s.groups := by
    induction lanes with
    | nil => exact fun _ => rfl
    | cons a lanes ih => exact fun q => (ih _).trans (gatherLane_groups w n q a)
  exact each _

/-- The issuing team stands in the machine at its issue. -/
theorem issueOf_team? {i : Instr} {s : State} {x : Iss} (h : issueOf i s = some x) : x.s.team? x.r = some x.t := by
  obtain ⟨g, -, hg, ht, -, -, clocked⟩ := issueOf_spec h
  have same : x.s.groups = s.groups := by rw [clocked]; rfl
  rw [State.team?_of_groups same, State.team?, hg]
  exact ht

/-! ### Translation (R294, R295) -/

/-- Translating changes the tables' A bits, as numbered writes, and the TLBs, and nothing else. -/
theorem State.xlate_rest (s : State) (c : Ctx) (k : Access) (va : ℕ) :
    ∃ mem past vers parts, (s.xlate c k va).2 = { s with mem := mem, past := past, vers := vers, parts := parts } := by
  unfold State.xlate
  split
  · exact ⟨_, _, _, _, rfl⟩
  · dsimp only
    split
    · exact ⟨_, _, _, _, rfl⟩
    · split
      · exact ⟨_, _, _, _, rfl⟩
      · exact ⟨_, _, _, _, rfl⟩
      · split
        · split <;> exact ⟨_, _, _, _, rfl⟩
        · exact ⟨_, _, _, _, rfl⟩

@[simp] theorem State.xlate_hostMem (s : State) (c : Ctx) (k : Access) (va : ℕ) : (s.xlate c k va).2.hostMem = s.hostMem := by
  obtain ⟨_, _, _, _, is⟩ := s.xlate_rest c k va
  rw [is]

/-! ### What a read may not miss (R254, R288, R289) -/

/-- A read that may miss none of the writes to its bytes reads what stands there. -/
theorem readPast_of_none {may : PastWrite → Bool} {a n : ℕ} {es : List PastWrite}
    (none : ∀ e ∈ es, e.meets a n = true → may e = false) (bs : List Byte) (kept : List PastWrite) :
    (readPast may a n es bs kept).1 = bs := by
  induction es generalizing kept with
  | nil => rfl
  | cons e es ih =>
    obtain ⟨here, later⟩ := List.forall_mem_cons.mp none
    unfold readPast
    split
    · next meets =>
      rw [here meets, Bool.and_false, if_neg Bool.false_ne_true]
      exact ih later _
    · exact ih later _

theorem Reader.acqAt_ge (w : Reader) (s : State) (host : Bool) : w.t.acqAt ≤ w.acqAt s host := by
  unfold Reader.acqAt
  split
  · exact Nat.le_max_left ..
  · exact Nat.le_refl _

/-- A write that R254 and R288 let no read miss: a closed one, one that an acquire or the reading team's own making bounds, or one under
another name from before the address's latest shootdown. -/
def Reader.bounded (w : Reader) (s : State) (host : Bool) (pa va : ℕ) (e : PastWrite) : Prop :=
  e.closed = true ∨
    if e.name = none ∨ e.name = some (nameOf w.c.asid va pa) then
      w.fresh = true ∨ e.maker = some w.r ∨ e.ver < w.t.acqAt ∨ (host = true ∧ e.ver < w.acqAt s true) ∨
        (e.name = none ∧ e.ver < s.leafSince w.c va)
    else e.ver < s.shotAt w.c.part w.c.asid va

theorem Reader.mayMiss_of_bounded {w : Reader} {s : State} {host : Bool} {pa va : ℕ} {e : PastWrite} (at_ : e.host = host)
    (bounded : w.bounded s host pa va e) (seen : List (ℕ × ℕ × ℤ)) :
    w.mayMiss s { host := host, pa := pa, va := va, asid := w.c.asid, part := w.c.part } seen e = false := by
  rcases bounded with closed | bound
  · simp [Reader.mayMiss, closed]
  · by_cases own : e.name = none ∨ e.name = some (nameOf w.c.asid va pa)
    · have same : (e.name.any fun k => k != nameOf w.c.asid va pa) = false := by
        rcases own with none | named
        · rw [none]; rfl
        · rw [named]; simp
      have ordinary : w.ordinary s { host := host, pa := pa, va := va, asid := w.c.asid, part := w.c.part } e = false := by
        rw [if_pos own] at bound
        subst at_
        rcases bound with fresh | made | before | ⟨hosted, before⟩ | ⟨none, before⟩
        · simp [Reader.ordinary, fresh]
        · simp [Reader.ordinary, made]
        · simp [Reader.ordinary, Nat.not_le.mpr (Nat.lt_of_lt_of_le before (w.acqAt_ge s e.host))]
        · simp [Reader.ordinary, hosted, Nat.not_le.mpr before]
        · simp [Reader.ordinary, none, Nat.not_le.mpr before]
      simp [Reader.mayMiss, Place.name, same, ordinary]
    · have other : (e.name.any fun k => k != nameOf w.c.asid va pa) = true := by
        obtain ⟨named, ne⟩ := not_or.mp own
        obtain ⟨k, hk⟩ := Option.ne_none_iff_exists'.mp named
        rw [hk] at ne ⊢
        simpa using ne
      rw [if_neg own] at bound
      simp [Reader.mayMiss, Place.name, other, Nat.not_le.mpr bound]

/-- A read all of whose bytes' writes are bounded reads what stands at home. -/
theorem State.readFor_of_bounded {s : State} {w : Reader} {host : Bool} {pa va n : ℕ}
    (bounded : ∀ e ∈ s.past, e.host = host → e.meets pa n = true → w.bounded s host pa va e) (seen : List (ℕ × ℕ × ℤ)) :
    (s.readFor w seen host pa va n).1 = s.readPhys host pa n := by
  refine readPast_of_none (fun e there meets => ?_) _ _
  obtain ⟨past, at_⟩ := List.mem_filter.mp there
  have at_ : e.host = host := by simpa using at_
  exact Reader.mayMiss_of_bounded at_ (bounded e past at_ meets) seen

/-! ### Demotion events (R174) -/

theorem Iss.demoted_none {x : Iss} {u : State} (there : (u.team? x.r).isSome = true) : x.demoted u false = .ok u := by
  obtain ⟨w, hw⟩ := Option.isSome_iff_exists.mp there
  simp only [Iss.demoted, hw, Bool.false_eq_true, if_false]

/-- The event of a word whose own effect is one, judged in the overlay of its issue. -/
theorem afterEvent_of {i : Instr} {s u : State} {x y : Iss} (run : exec i s = .next (conclude i x (y.demoted u true))) (team : y.r = x.r)
    (word : y.word = x.word) (same : ∀ t pc next, demote u y.g t pc next = demote u x.g t pc next) : Claim.afterEvent i s x u := by
  intro w hw
  simp only [Iss.demoted, team, hw, same, if_true] at run
  refine ⟨fun none => ?_, fun v a goes => ?_, fun z fails => ?_⟩
  · simp only [none] at run
    exact ⟨_, run, conclude_ok i x u⟩
  · simp only [goes] at run
    exact ⟨_, run, conclude_to i x _ a⟩
  · simp only [fails] at run
    rw [run, Iss.trapWord, word]
    rfl

/-! ### LD, LD.ACQ, LD.POLL, PREF -/

theorem Iss.misses_full {x : Iss} (full : x.missFull = true) (k : Act) : x.misses k = .hold x.s := if_pos full

theorem Iss.misses_room {x : Iss} (room : x.missFull = false) (k : Act) : x.misses k = k := by
  rw [Iss.misses, room, if_neg Bool.false_ne_true]

/-- A word whose effect is a new state moves on in it. -/
theorem exec_movesOn {i : Instr} {s u : State} {x : Iss} {effect : Act} (run : exec i s = .next (conclude i x effect))
    (ok : effect = .ok u) : ∃ t, exec i s = .next t ∧ MovesOn u t x :=
  ⟨conclude i x (.ok u), by rw [run, ok], conclude_ok i x u⟩

/-- A load, ordinary or acquiring, as one effect (R144). -/
theorem exec_load {i : Instr} {d a : RegField} {off : ℤ} {z : BitVec 3} {sx acq : Bool} {s : State} {x : Iss}
    (h : issueOf i s = some x) (named : (∃ o e, i = .ld d a o z e ∧ off = x.off4 o (2 ^ z.toNat) ∧ sx = (e == 1) ∧ acq = false) ∨
      ∃ o e, i = .ldAcq d a o z e ∧ off = x.off4 o (2 ^ z.toNat) ∧ sx = (e == 1) ∧ acq = true) :
    exec i s = .next (conclude i x (x.load d a off (2 ^ z.toNat) sx acq)) := by
  rcases named with ⟨o, e, rfl, rfl, rfl, rfl⟩ | ⟨o, e, rfl, rfl, rfl, rfl⟩
  · exact issue_of h fun x => x.load d a (x.off4 o (sizeBytes z)) (sizeBytes z) (e == 1) false
  · exact issue_of h fun x => x.load d a (x.off4 o (sizeBytes z)) (sizeBytes z) (e == 1) true

/-- What a load leaves of its team: earlier loads settled, its results on their way, and the lanes that faulted to be replayed. -/
def Iss.loaded (x : Iss) (d : RegField) (n : ℕ) (sx acq : Bool) (lanes : List LaneAcc) (q : Gather) (v : Team) : Team :=
  let vals := onlyLow (x.t.lowFor d) q.vals
  let ps := if acq = true then loadWrites d n sx vals else lateWrites d n sx x.t.seqNo x.s.vers lanes vals
  (((v.freeze lanes n).sees q.seen).addPend (x.t.awaiting ps)).addReplay v.prefixPc (.load d n sx) q.left acq (x.t.lowFor d)

section
variable {x : Iss} {d a : RegField} {off : ℤ} {n : ℕ} (ok : Claim.accesses x a off n (writesBase d a (if n = 16 then 2 else 1)))
  {c : Ctx} (hc : x.s.ctxOf x.g = some c) (sx acq : Bool)
include ok hc

theorem Iss.load_full (full : x.missFull = true) : x.load d a off n sx acq = .hold x.s := by
  rw [Iss.load, Iss.access_of ok hc, Iss.misses_full full]

theorem Iss.load_room (room : x.missFull = false) :
    let lanes := plainLanes (x.t.vas a off)
    let q := gatherLanes x.s (x.reader c acq) n lanes
    let u := (x.request q.s c (q.done (x.t.vas a off))).modTeam x.r (x.loaded d n sx acq lanes q)
    x.load d a off n sx acq = if q.bad then .done (x.s.badAccess x.g x.t) else
      .ok (if acq = true ∧ q.left = [] then u.acquire x.r else u) := by
  intro lanes q u
  have acquires : (if acq = true ∧ q.left = [] then u.acquire x.r else u) = if acq && q.left.isEmpty then u.acquire x.r else u := by
    simp only [Bool.and_eq_true, List.isEmpty_iff]
  rw [Iss.load, Iss.access_of ok hc, Iss.misses_room room, acquires]
  rfl

end

/-- What a poll does once it has room: it ends the context, waits with replays, holds its team while nothing has changed, or delivers
with an acquire and, where a lane's value is unchanged, a demotion event (R145). -/
def Iss.pollEffect (x : Iss) (d : RegField) (n : ℕ) (c : Ctx) (vas : List (ℕ × ℕ)) : Act :=
  let lanes := pollLanes x.t d n vas
  let q := gatherLanes x.s (x.reader c true) n lanes
  let ps := x.t.awaiting (loadWrites d n false (onlyLow (x.t.lowFor d) q.vals))
  let u := x.request q.s c (q.done vas)
  if q.bad then .done (x.s.badAccess x.g x.t)
  else if q.left ≠ [] then
    .ok (u.modTeam x.r fun t => ((t.freeze lanes n).addPend ps).addReplay t.prefixPc (.load d n false) q.left true (x.t.lowFor d))
  else if allUnchanged lanes q.vals then
    .ok (u.modTeam x.r fun t => { t.freeze lanes n with
      hold := .poll { seq := x.t.seqNo, pc := x.t.prefixPc, word := x.s.iword, dst := d, bytes := n, lanes := lanes
                      first := q.vals.map fun p => (p.1, BitVec.ofNat 64 (leNat p.2)), lines := polledLines q.s c lanes
                      ver := q.s.vers, since := q.s.clk, lc := x.t.lc, loops := x.t.loops } })
  else x.demoted ((u.modTeam x.r fun t => t.addPend ps).acquire x.r) (someUnchanged lanes q.vals)

section
variable {d a : RegField} {o : BitVec 4} {z : BitVec 1} {s : State} {x : Iss} {c : Ctx} (h : issueOf (.ldPoll d a o z) s = some x)
  (hc : x.s.ctxOf x.g = some c) {n : ℕ} (size : (if z = 1 then 8 else 4) = n)
include h

/-- A poll that delivers still has its team. -/
theorem ldPoll_delivers_team? (lanes : List LaneAcc) (ps : List PendWrite) (taken : List (ℕ × ℕ)) :
    ((((x.request (gatherLanes x.s (x.reader c true) n lanes).s c taken).modTeam x.r fun v => v.addPend ps).acquire x.r).team?
      x.r).isSome = true := by
  rw [State.team?_acquire, State.team?_modTeam (f := fun v => v.addPend ps) (fun _ => rfl), Option.isSome_map,
    State.team?_of_groups (s := x.s) (by simp), issueOf_team? h]
  rfl

variable (ok : Claim.accesses x a (x.off4 o n) n (writesBase d a 1))
include hc size ok

theorem exec_ldPoll_full (full : x.missFull = true) : exec (.ldPoll d a o z) s = .next (Claim.held x x.s) := by
  rw [exec, execLdPoll, issue_of h]
  simp only [size, Iss.access_of ok hc, Iss.misses_full full]
  rfl

theorem exec_ldPoll_room (room : x.missFull = false) :
    exec (.ldPoll d a o z) s = .next (conclude (.ldPoll d a o z) x (x.pollEffect d n c (x.t.vas a (x.off4 o n)))) := by
  rw [exec, execLdPoll, issue_of h]
  simp only [size, Iss.access_of ok hc, Iss.misses_room room, Iss.pollEffect, Bool.not_eq_true', List.isEmpty_eq_false_iff]

end

section
variable {a : RegField} {o : BitVec 4} {s : State} {x : Iss} {c : Ctx} (h : issueOf (.pref a o) s = some x)
  (hc : x.s.ctxOf x.g = some c)
include h hc

theorem exec_pref_idle (idle : x.t.idle = true) : ∃ t, exec (.pref a o) s = .next t ∧ MovesOn x.s t x := by
  rw [exec, execPref]
  exact issue_movesOn h _ (by simp only [hc, idle, if_true])

/-- PREF with a running lane, but for the miss queue. -/
theorem exec_pref_runs (runs : x.t.idle = false) : exec (.pref a o) s = .next (conclude (.pref a o) x (x.misses (
    let vas := x.t.vas a (x.off4 o 1)
    let p := (vas.map (·.2)).foldl (prefLane c) (x.s, false)
    if p.2 then .done (p.1.badAccess x.g x.t) else .ok (x.request p.1 c (vas.filter fun v => decide (v.2 < 2 ^ 52)))))) := by
  rw [exec, execPref, issue_of h]
  simp only [hc, runs, Bool.false_eq_true, if_false]

end

/-- Settles O24: each word by its cases; a read whose bytes' writes are all bounded reads what stands at home. -/
theorem loads : Obligations.Loads := by
  unfold Obligations.Loads
  refine ⟨fun i d a off z sx acq s x c h named ok hc => ?_, fun d a o z s x c h => ?_, fun a o s x c h hc => ?_,
    fun s w seen host pa va n bounded => State.readFor_of_bounded bounded seen,
    fun s c va k => ⟨s.xlate_groups c k va, s.xlate_hostMem c k va⟩⟩
  · have run := exec_load h named
    simp only [← two_pow_size_eq_16] at ok
    refine ⟨fun full => ?_, fun room bad => ?_, fun room good => ?_⟩
    · rw [run, Iss.load_full ok hc sx acq full]
      rfl
    · rw [run, Iss.load_room ok hc sx acq room, if_pos bad]
      rfl
    · exact exec_movesOn run ((Iss.load_room ok hc sx acq room).trans (if_neg (ne_true_of_eq_false good)))
  · intro n ok hc vas lanes q ps u
    refine ⟨exec_ldPoll_full h hc rfl ok, fun room bad => ?_, fun room good => ?_⟩
    · rw [exec_ldPoll_room h hc rfl ok room, Iss.pollEffect, if_pos bad]
      rfl
    · have run := exec_ldPoll_room h hc rfl ok room
      have read : q.bad ≠ true := ne_true_of_eq_false good
      refine ⟨fun left => exec_movesOn run ((if_neg read).trans (if_pos left)), fun all same => ?_, fun all differs => ?_⟩
      · exact exec_movesOn run ((if_neg read).trans ((if_neg (not_not.mpr all)).trans (if_pos same)))
      · intro v
        have delivers : x.pollEffect d n c vas = x.demoted v (someUnchanged lanes q.vals) :=
          (if_neg read).trans ((if_neg (not_not.mpr all)).trans (if_neg (ne_true_of_eq_false differs)))
        refine ⟨fun quiet => ?_, fun event => ?_⟩
        · rw [quiet] at delivers
          exact exec_movesOn run (delivers.trans (Iss.demoted_none (ldPoll_delivers_team? h ..)))
        · rw [event] at delivers
          exact afterEvent_of (run.trans (by rw [delivers])) rfl rfl fun _ _ _ => rfl
  · refine ⟨exec_pref_idle h hc, fun runs full => ?_, fun runs room bad => ?_, fun runs room good => ?_⟩
    · rw [exec_pref_runs h hc runs, Iss.misses_full full]
      rfl
    · rw [exec_pref_runs h hc runs, Iss.misses_room room, if_pos bad]
      rfl
    · exact exec_movesOn (exec_pref_runs h hc runs) ((Iss.misses_room room _).trans (if_neg (ne_true_of_eq_false good)))

end Sys2Proof.Machine

/-!
SUPPORT. What a release leaves of its team (R257, R258): its buffered stores, replays and outstanding loads change and nothing else of
it, unless its context ends; and the stores (R147), an ST.REL behind its release.
-/

namespace Sys2Proof.Machine

open Sys2Proof

/-! ### A release and the rest of its team (R104, R257, R258) -/

/-- A team that is found after its stores were written to their slices is as before, but for its buffer, its replays and its
outstanding loads; so are the contexts and the issuing word. -/
def KeepsIssuer (r : TeamRef) (s t : State) : Prop :=
  ∀ h v, t.group? r.uid = some h → h.team? r.tid = some v → t.ctxs = s.ctxs ∧ t.iword = s.iword ∧
    ∃ g w, s.group? r.uid = some g ∧ g.team? r.tid = some w ∧ (∃ ts, h = { g with teams := ts }) ∧
      ∃ b q p, v = { w with sbuf := b, replay := q, pend := p }

section
variable {r : TeamRef} {s t u : State}

theorem keepsIssuer_of_same (groups : t.groups = s.groups) (ctxs : t.ctxs = s.ctxs) (iword : t.iword = s.iword) :
    KeepsIssuer r s t := fun h v hh hv =>
  ⟨ctxs, iword, h, v, by rw [← hh, State.group?, State.group?, groups], hv, ⟨_, rfl⟩, _, _, _, rfl⟩

theorem keepsIssuer_of_gone (gone : t.group? r.uid = none) : KeepsIssuer r s t := fun h v hh _ => by simp [gone] at hh

theorem KeepsIssuer.trans (a : KeepsIssuer r s t) (b : KeepsIssuer r t u) : KeepsIssuer r s u := by
  intro h v hh hv
  obtain ⟨ctxs, iword, g, w, hg, hw, ⟨_, rfl⟩, _, _, _, rfl⟩ := b h v hh hv
  obtain ⟨ctxs', iword', g', w', hg', hw', ⟨_, rfl⟩, _, _, _, rfl⟩ := a g w hg hw
  exact ⟨ctxs.trans ctxs', iword.trans iword', g', w', hg', hw', ⟨_, rfl⟩, _, _, _, rfl⟩

theorem State.modTeam_keepsIssuer {f : Team → Team} (keeps : ∀ t, ∃ b q p, f t = { t with sbuf := b, replay := q, pend := p })
    (s : State) : KeepsIssuer r s (s.modTeam r f) := by
  intro h v hh hv
  have tid : ∀ t, (f t).tid = t.tid := fun t => by
    obtain ⟨b, q, p, is⟩ := keeps t
    rw [is]
  rw [State.group?_modTeam, Option.map_eq_some_iff] at hh
  obtain ⟨g, hg, rfl⟩ := hh
  rw [Group.team?_modTeam tid, Option.map_eq_some_iff] at hv
  obtain ⟨w, hw, rfl⟩ := hv
  exact ⟨rfl, rfl, g, w, hg, hw, ⟨_, rfl⟩, keeps w⟩

end

/-- A bad access ends the context of the group that makes it, and the group with it, or finds it ended and does nothing. -/
theorem State.badAccess_cases {s : State} {u : ℕ} {g : Group} (hg : s.group? u = some g) (t : Team) :
    (s.badAccess g t).group? u = none ∨ s.badAccess g t = s := by
  unfold State.badAccess
  cases hc : s.ctx? g.part g.ctxid with
  | none => exact .inr (by simp only [State.ctxError, hc])
  | some c =>
    by_cases dead : c.state = .error ∨ c.state = .killed
    · exact .inr (State.ctxError_of_dead hc _ _ _ _ dead)
    · obtain ⟨notError, notKilled⟩ := not_or.mp dead
      refine .inl ?_
      rw [State.ctxError_of_live hc _ _ _ _ notError notKilled, State.group?, (State.postEvent_rest ..).1]
      exact State.errored_group?_none hg

theorem Team.addItem_keeps (t : Team) (i : ReplayItem) : ∃ b q p, t.addItem i = { t with sbuf := b, replay := q, pend := p } := by
  unfold Team.addItem
  split <;> exact ⟨_, _, _, rfl⟩

theorem State.takeStore_keepsIssuer (s : State) (core : ℕ) (r : TeamRef) (c : Ctx) (e : StoreEntry) :
    KeepsIssuer r s (s.takeStore core r c e) := by
  refine keepsIssuer_of_same (s.takeStore_groups core r c e) ?_ ?_
  all_goals
    unfold State.takeStore State.sliceFreed
    split
    · rfl
    · split <;> rfl

theorem State.drainOne_keepsIssuer (s : State) (r : TeamRef) : KeepsIssuer r s (s.drainOne r) := by
  have still : KeepsIssuer r s s := keepsIssuer_of_same rfl rfl rfl
  unfold State.drainOne
  split
  · exact still
  · next g hg =>
    split
    · next t c _ _ =>
      split
      · exact still
      · next e rest _ =>
        split
        · exact still
        · obtain ⟨mem, past, vers, parts, rest⟩ := s.xlate_rest c .write e.va
          split
          all_goals
            rename_i moved
            rw [moved] at rest
            subst rest
            refine KeepsIssuer.trans (t := { s with mem := mem, past := past, vers := vers, parts := parts })
              (keepsIssuer_of_same rfl rfl rfl) ?_
          · refine (State.takeStore_keepsIssuer _ g.core r c e).trans ?_
            refine KeepsIssuer.trans ?_ (State.modTeam_keepsIssuer (fun _ => ⟨_, _, _, rfl⟩) _)
            exact keepsIssuer_of_same rfl rfl rfl
          · rcases State.badAccess_cases (s := { s with mem := mem, past := past, vers := vers, parts := parts }) hg t with gone | same
            · exact keepsIssuer_of_gone gone
            · rw [same]
              exact keepsIssuer_of_same rfl rfl rfl
          · exact State.modTeam_keepsIssuer (fun _ => Team.addItem_keeps ..) _
    · exact still

theorem State.drainN_keepsIssuer (r : TeamRef) (n : ℕ) (s : State) : KeepsIssuer r s (s.drainN r n) := by
  induction n generalizing s with
  | zero => exact keepsIssuer_of_same rfl rfl rfl
  | succ n ih => exact (s.drainOne_keepsIssuer r).trans (ih _)

theorem Iss.written_keepsIssuer (x : Iss) : KeepsIssuer x.r x.s x.written := by
  unfold Iss.written
  split
  · exact keepsIssuer_of_same rfl rfl rfl
  · refine KeepsIssuer.trans ?_ (State.drainN_keepsIssuer x.r _ _)
    refine KeepsIssuer.trans (t := x.s.pastSnapshots x.t) (keepsIssuer_of_same rfl rfl rfl) ?_
    exact State.modTeam_keepsIssuer (fun _ => ⟨_, _, _, rfl⟩) _

theorem Team.performed_iff (t : Team) : t.performed = true ↔ t.sbuf = [] ∧ t.replay = [] := by
  simp [Team.performed]

/-- A group as one of its teams sees it, by that team's place alone. -/
theorem Group.forTeam_teams (g : Group) (t : Team) (ts : List Team) :
    ({ g with teams := ts } : Group).forTeam t = { g.forTeam t with teams := ts } := by
  unfold Group.forTeam
  split <;> rfl

section
variable {i : Instr} {s : State} {x y : Iss} (h : issueOf i s = some x) (hy : releasedBy x = some y)
include h hy

/-- A released issue is the one before but for its team's buffer and replays, now empty, and the outstanding loads. -/
theorem releasedBy_issuer : y.r = x.r ∧ y.s.ctxs = x.s.ctxs ∧ y.s.iword = x.s.iword ∧ (∃ ts, y.g = { x.g with teams := ts }) ∧
    ∃ p, y.t = { x.t with sbuf := [], replay := [], pend := p } := by
  obtain ⟨g, -, hg, ht, at_, -, clocked⟩ := issueOf_spec h
  obtain ⟨k, hk, hv, done, is⟩ := releasedBy_spec hy
  obtain ⟨ctxs, iword, g', w, hg', hw, ⟨ts, kept⟩, b, q, p, team⟩ := x.written_keepsIssuer k y.t hk hv
  have found : x.s.group? x.r.uid = some g := by rw [clocked, ← hg]; rfl
  cases found.symm.trans hg'
  cases ht.symm.trans hw
  obtain ⟨rfl, rfl⟩ : b = [] ∧ q = [] := by simpa [team, Team.performed_iff] using done
  refine ⟨by rw [is], by rw [is]; exact ctxs, by rw [is]; exact iword, ⟨ts, ?_⟩, p, team⟩
  have seen : g.forTeam y.t = g.forTeam x.t := by rw [team]; rfl
  rw [is, kept, Group.forTeam_teams, at_]
  exact congrArg (fun g : Group => { g with teams := ts }) seen

/-- A release leaves the lanes' addresses and the context, so an access that passed its checks passes them still. -/
theorem releasedBy_access : y.s.ctxOf y.g = x.s.ctxOf x.g ∧ (∀ a off, y.t.vas a off = x.t.vas a off) := by
  obtain ⟨-, ctxs, -, ⟨ts, group⟩, p, team⟩ := releasedBy_issuer h hy
  refine ⟨?_, fun a off => by rw [team]; rfl⟩
  rw [State.ctxOf, State.ctxOf, State.ctx?, State.ctx?, ctxs, group]

end

/-! ### ST, ST.REL (R147) -/

/-- A store whose checks pass enters its team's buffer. -/
theorem Iss.store_of {x : Iss} {d a : RegField} {off : ℤ} {n : ℕ} (ok : Claim.accesses x a off n false)
    (hc : (x.s.ctxOf x.g).isSome = true) :
    x.store d a off n = x.okTeam { x.t with sbuf := x.t.sbuf ++ storeEntries x.t d n (x.t.vas a off) } := by
  obtain ⟨c, hc⟩ := Option.isSome_iff_exists.mp hc
  exact Iss.access_of ok hc _

/-- The entries of one lane's store: one, or for 16 bytes two halves. -/
theorem storeEntries_lane (t : Team) (d : RegField) (n l va : ℕ) :
    (storeEntries t d n [(l, va)]).map (fun e => (e.seq, e.pc, e.lane, e.va, e.bytes)) =
      (t.seqNo, t.prefixPc, l, va, leBytes (min n 8) (t.reg d l).toNat) ::
        if n = 16 then [(t.seqNo, t.prefixPc, l, va + 8, leBytes 8 (t.reg (d + 1) l).toNat)] else [] := by
  by_cases wide : n = 16 <;> simp [storeEntries, wide, nextField]

theorem exec_st_buffers {d a : RegField} {o : BitVec 4} {z : BitVec 3} {s : State} {x : Iss} (h : issueOf (.st d a o z) s = some x)
    (ok : Claim.accesses x a (x.off4 o (2 ^ z.toNat)) (2 ^ z.toNat) false) (hc : (x.s.ctxOf x.g).isSome = true) :
    ∃ t, exec (.st d a o z) s = .next t ∧ TeamStep s t x
      { x.t with sbuf := x.t.sbuf ++ storeEntries x.t d (2 ^ z.toNat) (x.t.vas a (x.off4 o (2 ^ z.toNat))) } ∧
      t.mem = s.mem ∧ t.hostMem = s.hostMem := by
  obtain ⟨t, run, team⟩ := okTeam_steps h (fun x => x.store d a (x.off4 o (sizeBytes z)) (sizeBytes z)) _ (Iss.store_of ok hc) rfl
  refine ⟨t, run, team, ?_⟩
  obtain ⟨v, -, rfl⟩ := team
  exact ⟨rfl, rfl⟩

section
variable {d a : RegField} {o : BitVec 4} {z : BitVec 3} {s : State} {x : Iss} (h : issueOf (.stRel d a o z) s = some x)
  (ok : Claim.accesses x a (x.off4 o (2 ^ z.toNat)) (2 ^ z.toNat) false)
include h ok

/-- ST.REL with a lane running is a release and then the store. -/
theorem exec_stRel_releases : exec (.stRel d a o z) s = .next (conclude (.stRel d a o z) x
    (x.release fun y => y.store d a (y.off4 o (2 ^ z.toNat)) (2 ^ z.toNat))) := by
  obtain ⟨body, run, acts⟩ := exec_stRel d a o z
  obtain ⟨-, passes⟩ := acts x
  rw [run, issue_of h, passes (vaFault_of_accesses ok), if_neg (ne_true_of_eq_false (runs_of_accesses ok))]

theorem exec_stRel_buffers {y : Iss} (hy : releasedBy x = some y) (hc : (x.s.ctxOf x.g).isSome = true) :
    ∃ t, exec (.stRel d a o z) s = .next t ∧ MovesOn (y.put
      { y.t with sbuf := storeEntries x.t d (2 ^ z.toNat) (x.t.vas a (x.off4 o (2 ^ z.toNat))) }) t x := by
  obtain ⟨ctx, vas⟩ := releasedBy_access h hy
  obtain ⟨-, -, -, -, p, team⟩ := releasedBy_issuer h hy
  have off : y.off4 o (2 ^ z.toNat) = x.off4 o (2 ^ z.toNat) := by rw [Iss.off4, team]; rfl
  have still : Claim.accesses y a (x.off4 o (2 ^ z.toNat)) (2 ^ z.toNat) false := by rwa [Claim.accesses, vas]
  have entries : y.t.sbuf ++ storeEntries y.t d (2 ^ z.toNat) (x.t.vas a (x.off4 o (2 ^ z.toNat))) =
      storeEntries x.t d (2 ^ z.toNat) (x.t.vas a (x.off4 o (2 ^ z.toNat))) := by rw [team]; rfl
  refine exec_movesOn (exec_stRel_releases h ok) ?_
  rw [release_of hy, off, Iss.store_of still (by rwa [ctx]), vas, entries]
  rfl

end

/-- Settles O26: ST and ST.REL put their entries in the buffer, ST.REL once its release is done. -/
theorem stores : Obligations.Stores := by
  unfold Obligations.Stores
  exact ⟨fun d a o z s x h => exec_st_buffers h, fun d a o z s x h ok hc =>
    ⟨fun y hy => exec_stRel_buffers h ok hy hc, unreleased_of (exec_stRel_releases h ok)⟩,
    fun t d n l va _ => storeEntries_lane t d n l va⟩

end Sys2Proof.Machine

/-!
SUPPORT. Atomics and reductions (R148 to R150): what their effect comes to once their stores are written, and the issue that performs
them, before or behind a release.
-/

namespace Sys2Proof.Machine

open Sys2Proof

/-! ### Lanes at their homes (R149) -/

@[simp] theorem placeLanes_groups (s : State) (c : Ctx) (lanes : List LaneAcc) : (placeLanes s c lanes).s.groups = s.groups := by
  unfold placeLanes
  refine List.foldlRecOn (motive := fun q : Places => q.s.groups = s.groups) lanes _ rfl fun q same a _ => ?_
  have kept := (q.s.xlate_groups c .write a.va).trans same
  split <;>
  · next found =>
    rw [found] at kept
    exact kept

theorem atomLanes_team? (s : State) (r : TeamRef) (asid : ℕ) (op : AtomOp) (n : ℕ) (ps : List (LaneAcc × Bool × ℕ × ℕ)) :
    ((atomLanes s r asid op n ps).s.team? r).isSome = (s.team? r).isSome := by
  unfold atomLanes
  refine List.foldlRecOn (motive := fun q : Atoms => (q.s.team? r).isSome = (s.team? r).isSome) ps _ rfl fun q same p _ => ?_
  obtain ⟨e, host, pa, atom⟩ := p
  have seen : (atomLane r asid op n q (e, host, pa, atom)).s.team? r = (q.s.team? r).map fun t =>
      t.sees (q.s.writesAt (nameOf asid e.va pa) host pa n) :=
    (State.team?_of_groups rfl r).trans (State.team?_modTeam (f := fun t => t.sees _) (fun _ => rfl) q.s r)
  rw [seen, Option.isSome_map, same]

/-! ### The effect (R149, R150) -/

/-- What an atomic does once its team `w` has written what it can of its stores, in the state `u`. -/
def Iss.atomEffect (x : Iss) (acq : Bool) (op : AtomOp) (n : ℕ) (dst : Option RegField) (c : Ctx) (vas : List (ℕ × ℕ))
    (lanes : List LaneAcc) (u : State) (w : Team) : Act :=
  let q := placeLanes u c lanes
  let k := atomLanes q.s x.r c.asid op n q.at_
  let v := (x.request k.s c vas).modTeam x.r fun t => t.addPend (x.t.awaiting (atomWrites dst n k))
  if w.sbuf ≠ [] then .hold u
  else if q.bad = true then .done (q.s.badAccess x.g x.t)
  else if q.left = true ∨ ∃ p ∈ vas, w.behind w.seqNo p.2 n = true then
    .ok (q.s.modTeam x.r fun t => t.addReplay t.prefixPc (.atom (atomCode op) dst n) lanes acq)
  else if (q.at_.all fun p => carried op n p.2.1 p.2.2.2) = false then
    .trap trapAtompath (BitVec.ofNat 64 ((vas.head?.map (·.2)).getD 0))
  else x.demoted (if acq = true then v.acquire x.r else v) k.fail

/-- The team's own stores are written first, while the miss queue has room. -/
theorem Iss.atomic_eq {x : Iss} {a : RegField} {n : ℕ} {dst : Option RegField} (ok : Claim.accesses x a 0 n (dstBase dst a n)) {c : Ctx}
    (hc : x.s.ctxOf x.g = some c) (acq : Bool) (op : AtomOp) {lane : ℕ → LaneAcc → LaneAcc} {lanes : List LaneAcc}
    (is : (x.t.vas a 0).map (fun p => lane p.1 (laneAt p.1 p.2)) = lanes) :
    let u := (x.s.modTeam x.r fun v => v.freeze lanes n).drain x.r
    x.atomic acq op n dst a lane = x.misses ((u.team? x.r).elim (.done u) (x.atomEffect acq op n dst c (x.t.vas a 0) lanes u)) := by
  have listed : (plainLanes (x.t.vas a 0)).map (fun p => lane p.lane p) = lanes := by rw [← is, plainLanes, List.map_map]; rfl
  refine (Iss.access_of ok hc _).trans (congrArg x.misses ?_)
  dsimp only
  rw [listed]
  cases ((x.s.modTeam x.r fun v => v.freeze lanes n).drain x.r).team? x.r with
  | none => rfl
  | some w =>
    simp only [Option.elim_some, Iss.atomEffect, Bool.not_eq_true', List.isEmpty_eq_false_iff, Bool.or_eq_true, List.any_eq_true,
      ← List.not_all_eq_any_not]

/-! ### The issue that performs the lanes (R148) -/

section
variable {i : Instr} {s : State} {x y : Iss} {o : BitVec 2} (h : issueOf i s = some x) (hy : Claim.ordered x o = some y)
include h hy

/-- The issue past its release, if it has one: the team and its group as they were, but for what the release changes. -/
theorem ordered_issuer : ∃ u ts b q p, y = { s := u, r := x.r, g := { x.g with teams := ts }
                                             t := { x.t with sbuf := b, replay := q, pend := p } } ∧
    u.ctxs = x.s.ctxs ∧ u.iword = x.s.iword := by
  unfold Claim.ordered at hy
  split at hy
  · obtain ⟨team, ctxs, iword, ⟨ts, group⟩, p, is⟩ := releasedBy_issuer h hy
    exact ⟨y.s, ts, [], [], p, by rw [← team, ← group, ← is], ctxs, iword⟩
  · cases hy
    exact ⟨x.s, _, _, _, _, rfl, rfl, rfl⟩

/-- What the effect of an atomic takes from its issue is as it was before the release. -/
theorem ordered_same : y.r = x.r ∧ y.word = x.word ∧ y.s.ctxOf y.g = x.s.ctxOf x.g ∧ (∀ a off, y.t.vas a off = x.t.vas a off) ∧
    (∀ op n d, Claim.atomLane y.t op n d = Claim.atomLane x.t op n d) ∧ (∀ ps, y.t.awaiting ps = x.t.awaiting ps) ∧
    ∀ u t pc next, demote u y.g t pc next = demote u x.g t pc next := by
  obtain ⟨u, ts, b, q, p, rfl, ctxs, iword⟩ := ordered_issuer h hy
  refine ⟨rfl, congrArg (BitVec.zeroExtend 64) iword, ?_, fun _ _ => rfl, fun _ _ _ => rfl, fun _ => rfl, fun _ _ _ _ => rfl⟩
  rw [State.ctxOf, State.ctxOf, State.ctx?, State.ctx?, ctxs]

end

section
variable {x y : Iss} {a : RegField} {n : ℕ} {o : BitVec 2} {base : Bool} (ok : Claim.accesses x a 0 n base) (body : Iss → Act)
include ok

/-- Past its checks a word of the atomics releases, with ORD.REL, and acts. -/
theorem Iss.ordering_eq : x.ordering a n o base body = if o.getLsbD 1 = true then x.release body else body x := by
  have fine : base = false := ok.1
  rw [Iss.ordering, vaFault_of_accesses ok]
  simp only [runs_of_accesses ok, fine, Bool.not_false, Bool.and_true]

theorem Iss.ordering_of (hy : Claim.ordered x o = some y) : x.ordering a n o base body = body y := by
  unfold Claim.ordered at hy
  rw [Iss.ordering_eq ok]
  split at hy
  · next rel => rw [if_pos rel, release_of hy]
  · next free =>
    cases hy
    exact if_neg free

end

/-- What performed lanes leave still has the team that performs them. -/
theorem Iss.performed_team? {x : Iss} {u : State} {w : Team} (hw : u.team? x.r = some w) (c : Ctx) (lanes : List LaneAcc) (op : AtomOp)
    (n : ℕ) (at_ : List (LaneAcc × Bool × ℕ × ℕ)) (vas : List (ℕ × ℕ)) (ps : List PendWrite) (acq : Bool) :
    let v := (x.request (atomLanes (placeLanes u c lanes).s x.r c.asid op n at_).s c vas).modTeam x.r fun t => t.addPend ps
    ((if acq = true then v.acquire x.r else v).team? x.r).isSome = true := by
  intro v
  have there : (v.team? x.r).isSome = true := by
    rw [State.team?_modTeam (f := fun t => t.addPend ps) (fun _ => rfl), Option.isSome_map,
      State.team?_of_groups (Iss.request_groups ..), atomLanes_team?, State.team?_of_groups (placeLanes_groups ..), hw]
    rfl
  split
  · rwa [State.team?_acquire]
  · exact there

section
variable {i : Instr} {op : AtomOp} {ret : Bool} {d a : RegField} {o : BitVec 2} {n : ℕ} {s : State} {x : Iss} {c : Ctx}
  (h : issueOf i s = some x) (form : Claim.atomForm i = some (op, ret, d, a, o, n))
  (ok : Claim.accesses x a 0 n (atomBase op ret d a n))
include h form ok

theorem exec_atom_unreleased (rel : o.getLsbD 1 = true) : Claim.unreleased i s x := by
  obtain ⟨lane, -, run⟩ := exec_of_atomForm form
  exact unreleased_of ((run s).trans ((issue_of h _).trans (by rw [Iss.ordering_eq ok, if_pos rel])))

variable (hc : x.s.ctxOf x.g = some c) {y : Iss} (hy : Claim.ordered x o = some y)
include hc hy

/-- Past its release an atomic is its effect, over the lanes of its issue. -/
theorem exec_atom_ordered :
    let lanes := (x.t.vas a 0).map (Claim.atomLane x.t op n d)
    let u := (y.s.modTeam y.r fun v => v.freeze lanes n).drain y.r
    exec i s = .next (conclude i x (y.misses ((u.team? y.r).elim (.done u)
      (y.atomEffect (o.getLsbD 0) op n (if ret then some d else none) c (x.t.vas a 0) lanes u)))) := by
  intro lanes u
  obtain ⟨lane, operands, run⟩ := exec_of_atomForm form
  obtain ⟨-, -, ctx, vas, sameLane, -, -⟩ := ordered_same h hy
  have still : Claim.accesses y a 0 n (dstBase (if ret then some d else none) a n) := by
    rwa [dstBase_eq_atomBase form (issueOf_wellFormed h), Claim.accesses, vas]
  have listed : (y.t.vas a 0).map (fun p => lane y p.1 (laneAt p.1 p.2)) = lanes := by simp only [operands, sameLane, vas, lanes]
  rw [run, issue_of h, Iss.ordering_of ok _ hy, Iss.atomic_eq still (ctx.trans hc) _ _ listed, vas]

end

/-- Settles O28: past the release the effect's cases, over a team that keeps its registers and its place. -/
theorem atomics : Obligations.Atomics := by
  unfold Obligations.Atomics
  intro i op ret d a o n s x c h form ok hc
  refine ⟨exec_atom_unreleased h form ok, fun y hy => ?_⟩
  obtain ⟨team, word, -, -, -, awaiting, event⟩ := ordered_same h hy
  have acts := exec_atom_ordered h form ok hc hy
  intro lanes u dst
  refine ⟨fun full => ?_, fun room gone => ?_, fun room w hw => ?_⟩
  · rw [acts, Iss.misses_full full]
    rfl
  · rw [acts, Iss.misses_room room]
    exact congrArg (fun v : Option Team => Host.Outcome.next (conclude i x (v.elim (Act.done u) _))) gone
  · have effect : exec i s = .next (conclude i x (y.atomEffect (o.getLsbD 0) op n dst c (x.t.vas a 0) lanes u w)) := by
      rw [acts, Iss.misses_room room]
      exact congrArg (fun v : Option Team => Host.Outcome.next (conclude i x (v.elim (Act.done u) _))) hw
    intro q later
    refine ⟨fun waits => ?_, fun empty bad => ?_, fun empty good again => ?_, fun empty good now => ?_⟩
    · rw [effect, Iss.atomEffect, if_pos waits]
      rfl
    · rw [effect, Iss.atomEffect, if_neg (not_not.mpr empty), if_pos bad]
      rfl
    · rw [← team]
      exact exec_movesOn effect ((if_neg (not_not.mpr empty)).trans ((if_neg (ne_true_of_eq_false good)).trans (if_pos again)))
    · have past : y.atomEffect (o.getLsbD 0) op n dst c (x.t.vas a 0) lanes u w = _ :=
        (if_neg (not_not.mpr empty)).trans ((if_neg (ne_true_of_eq_false good)).trans (if_neg now))
      refine ⟨fun carries => ?_, fun fails l va rest at_ => ?_⟩
      · have performs := past.trans (if_neg (ne_false_of_eq_true carries))
        rw [← team]
        simp only [← awaiting]
        refine ⟨fun done => ?_, fun failed => ?_⟩
        · rw [done] at performs
          exact exec_movesOn effect (performs.trans (Iss.demoted_none (Iss.performed_team? hw ..)))
        · rw [failed] at performs
          exact afterEvent_of (effect.trans (by rw [performs])) team word (event _)
      · rw [effect, past, if_pos fails, at_]
        rfl

end Sys2Proof.Machine

/-!
SUPPORT. Special functions (R207, R208): the words that leave their results outstanding, the special operands, and the correctly rounded
reciprocal, roots, and whole powers and logarithms of 2.
-/

namespace Sys2Proof.Laws

open Sys2Proof.Machine Sys2Proof.Claim

/-- The words of the special functions are one effect with a function each. -/
theorem exec_special {i : Instr} {d a : RegField} {f : SfuOp} (named : special i = some (d, a, f)) (s : State) : exec i s =
    issue i s fun x => x.pend32 d fun l => patWord (sfuBits f (x.rounding false l 0) (x.t.reg32 a l).toNat) := by
  unfold special at named
  split at named <;> cases named <;> rfl

/-! ### Special operands -/

theorem sfuSpecial_inf {a : ℕ} (ha : a < 2 ^ 32) (inf : infPat .fp32 a = true) (op : SfuOp) (r : Rounding) :
    sfuSpecial op a = some (sfuBits op r a) := by
  have self : signed .fp32 (negative .fp32 a) (limits .fp32).2.1 = a := inf_self ha inf
  have up := unpack_inf rfl inf
  have noNaN : nanRule .fp32 [.inf (negative .fp32 a)] = none := rfl
  simp only [sfuBits, up, noNaN]
  generalize negative .fp32 a = neg at *
  subst self
  cases neg <;> cases op <;> rfl

theorem sfuSpecial_zero {a : ℕ} (ha : a < 2 ^ 32) (zero : body .fp32 a = 0) (op : SfuOp) (r : Rounding) :
    sfuSpecial op a = some (sfuBits op r a) := by
  have self : signed .fp32 (negative .fp32 a) (body .fp32 a) = a := signed_self ha
  have number : infPat .fp32 a = false := by simp [infPat, limits, zero]
  obtain ⟨m, e, up, -, isZero⟩ := unpack_num rfl (not_nan_of_inf (.inr zero)) number
  simp only [sfuBits, up, isZero.2 zero]
  rw [zero] at self
  generalize negative .fp32 a = neg at *
  subst self
  cases neg <;> cases op <;> rfl

/-- Among the numbers that are not zero, the special operands are 1 to the logarithm and the negative ones to it and the roots. -/
theorem sfuSpecial_num {a : ℕ} (finite : infPat .fp32 a = false) (nonzero : body .fp32 a ≠ 0) (op : SfuOp) :
    sfuSpecial op a = if op = .log2 ∧ a = 0x3F800000 then some (0, 0)
      else if 0x80000000 < a ∧ (op = .rsq ∨ op = .sqrt ∨ op = .log2) then some (invalid .fp32) else none := by
  have notInf : body .fp32 a ≠ 0x7F800000 := by simpa [infPat, limits] using finite
  have notZero : a ≠ 0 := by rintro rfl; exact nonzero rfl
  have notMinus : a ≠ 0x80000000 := by rintro rfl; exact nonzero rfl
  have notTop : a ≠ 0x7F800000 := by rintro rfl; exact notInf rfl
  have notBottom : a ≠ 0x80000000 + 0x7F800000 := by rintro rfl; exact notInf rfl
  have invalidIs : invalid .fp32 = (0x7FC00000, flagNV) := rfl
  cases op <;> simp only [sfuSpecial, reduceCtorEq, if_true, if_false, nonzero, notInf, notZero, notMinus, notTop, notBottom,
    invalidIs, or_self, or_true, or_false, false_and, and_true, true_and, and_false]

theorem negative_of_lt {a : ℕ} (ha : a < 2 ^ 32) (above : 0x80000000 < a) : negative .fp32 a = true := by
  have weight : signWeight .fp32 = 0x80000000 := rfl
  simp only [negative, weight, decide_eq_true_eq]
  omega

/-! ### Numbers -/

/-- What a special function comes to on a number that is not zero. -/
theorem sfuBits_num {a m : ℕ} {neg : Bool} {e : ℤ} (up : unpackFloat .fp32 a = .fin neg m e) (pos : m ≠ 0) (op : SfuOp) (r : Rounding) :
    sfuBits op r a = if neg = true ∧ (op = .rsq ∨ op = .sqrt ∨ op = .log2) then invalid .fp32 else sfuFinite .fp32 op r neg m e := by
  have noNaN : nanRule .fp32 [.fin neg m e] = none := rfl
  have invalidIs := invalid_eq (f := .fp32) rfl
  simp [sfuBits, up, noNaN, pos, or_assoc, invalidIs]

/-- A significand of FP32 has 24 bits. -/
theorem unpack_significand {a m : ℕ} {neg : Bool} {e : ℤ} (up : unpackFloat .fp32 a = .fin neg m e) : m < 2 ^ 24 := by
  have low : bitsOf a 0 (fmtMan .fp32) < 2 ^ 23 := Nat.mod_lt _ (by decide)
  have hidden : 2 ^ fmtMan .fp32 = 2 ^ 23 := rfl
  unfold unpackFloat at up
  dsimp only at up
  rw [if_neg (by decide)] at up
  split at up
  · split at up <;> cases up
  · split at up <;> cases up <;> omega

/-- A dyadic number that is whole. -/
theorem dyadic_whole {m n : ℕ} {e : ℤ} (whole : (m : ℝ) * 2 ^ e = n) : m * 2 ^ e.toNat = n * 2 ^ (-e).toNat := by
  have power : (2 : ℝ) ^ e * 2 ^ (-e).toNat = 2 ^ e.toNat := by
    rw [← zpow_natCast, ← zpow_natCast, ← zpow_add₀ two_ne_zero]
    congr 1
    omega
  have real : (m : ℝ) * 2 ^ e.toNat = n * 2 ^ (-e).toNat := by rw [← power, ← mul_assoc, whole]
  exact_mod_cast real

/-- A whole number is its own fixed point. -/
theorem toFix_whole {m n : ℕ} {e : ℤ} (whole : (m : ℝ) * 2 ^ e = n) (neg : Bool) :
    toFix 0 (if neg = true then -(m : ℤ) else m) e = if neg = true then -(n : ℤ) else n := by
  have exact : (m : ℤ) * 2 ^ e.toNat = n * 2 ^ (-e).toNat := by exact_mod_cast dyadic_whole whole
  unfold toFix
  by_cases large : 0 ≤ e
  · have shift : (-e).toNat = 0 := by omega
    rw [shift, pow_zero, mul_one] at exact
    cases neg <;> simp [large, exact]
  · have shift : e.toNat = 0 := by omega
    rw [shift, pow_zero, mul_one] at exact
    have pos : (2 : ℤ) ^ (-e).toNat ≠ 0 := by positivity
    cases neg <;> simp [large, exact, pos, ← neg_mul]

/-- A whole power of 2 (R208). -/
theorem sfuBits_exp2_whole {a : ℕ} (nan : nanPat .fp32 a = false) (inf : infPat .fp32 a = false) (nonzero : body .fp32 a ≠ 0) {k : ℤ}
    (small : k.natAbs < 256) (whole : number .fp32 a = k) (r : Rounding) : sfuBits .exp2 r a = roundTo .fp32 r false 1 k := by
  obtain ⟨m, e, up, value, isZero⟩ := unpack_num rfl nan inf
  have pos : m ≠ 0 := mt isZero.1 nonzero
  have size : (m : ℝ) * 2 ^ e = k.natAbs := by
    rw [Nat.cast_natAbs, Int.cast_abs, ← whole, value, number]
    split <;> simp [abs_of_nonneg (magnitude_sign .fp32 a).1]
  have signIs : (if negative .fp32 a = true then -(k.natAbs : ℤ) else k.natAbs) = k := by
    have real : ((if negative .fp32 a = true then -(k.natAbs : ℤ) else k.natAbs : ℤ) : ℝ) = k := by
      rw [← whole, num_of value, size]
      split <;> simp
    exact_mod_cast real
  have below : ¬8 ≤ (Nat.log2 m : ℤ) + e := by
    have bound : (m : ℝ) * 2 ^ e < ((2 : ℕ) : ℝ) ^ (8 : ℤ) := by
      rw [size]
      exact_mod_cast small
    rw [not_le, ← log_dyadic pos, ← Int.lt_zpow_iff_log_lt (by norm_num) (by positivity)]
    exact bound
  have divides : m % 2 ^ (-e).toNat = 0 := by
    have exact := dyadic_whole size
    by_cases large : 0 ≤ e
    · have shift : (-e).toNat = 0 := by omega
      rw [shift, pow_zero, Nat.mod_one]
    · have shift : e.toNat = 0 := by omega
      rw [shift, pow_zero, mul_one] at exact
      rw [exact, Nat.mul_mod_left]
  rw [sfuBits_num up pos, if_neg (by simp)]
  simp only [sfuFinite, exp2Round, if_neg below, divides, beq_self_eq_true, if_true, toFix_whole size, signIs]

/-- The logarithm of a power of 2 (R208). -/
theorem sfuBits_log2_pow {a : ℕ} (nan : nanPat .fp32 a = false) (inf : infPat .fp32 a = false) (sign : negative .fp32 a = false) {k : ℤ}
    (power : magnitude .fp32 a = 2 ^ k) (r : Rounding) : sfuBits .log2 r a = roundTo .fp32 r (decide (k < 0)) k.natAbs 0 := by
  obtain ⟨m, e, up, value, -⟩ := unpack_num rfl nan inf
  have pos : m ≠ 0 := by
    rintro rfl
    have none : (2 : ℝ) ^ k = 0 := by rw [← power, ← value]; simp
    exact absurd none (by positivity)
  have log : (Nat.log2 m : ℤ) + e = k := by
    rw [← log_dyadic pos, value, power]
    exact Int.log_zpow (R := ℝ) (by norm_num) k
  have one : m = 2 ^ Nat.log2 m := (dyadic_pow_iff m e).1 (by rw [value, power, log])
  rw [sfuBits_num up pos, if_neg (by simp [sign])]
  simp only [sfuFinite, beq_iff_eq, if_pos one, log]

theorem sfuBits_log2_one (r : Rounding) : sfuBits .log2 r 0x3F800000 = (0, 0) := by
  have power : magnitude .fp32 0x3F800000 = 2 ^ (0 : ℤ) := by norm_num [magnitude, body, fields, signWeight]
  rw [sfuBits_log2_pow rfl rfl rfl power]
  exact roundTo_zero rfl r _ 0

/-- The operands that R208 names, but for NaN. -/
theorem sfuBits_special {a : ℕ} (ha : a < 2 ^ 32) (nan : nanPat .fp32 a = false) {op : SfuOp} {q : ℕ × Flags}
    (named : sfuSpecial op a = some q) (r : Rounding) : sfuBits op r a = q := by
  by_cases inf : infPat .fp32 a = true
  · exact Option.some.inj ((sfuSpecial_inf ha inf op r).symm.trans named)
  by_cases zero : body .fp32 a = 0
  · exact Option.some.inj ((sfuSpecial_zero ha zero op r).symm.trans named)
  have finite : infPat .fp32 a = false := by simpa using inf
  rw [sfuSpecial_num finite zero] at named
  split_ifs at named with one below <;> cases named
  · obtain ⟨rfl, rfl⟩ := one
    exact sfuBits_log2_one r
  · obtain ⟨m, e, up, -, isZero⟩ := unpack_num rfl nan finite
    rw [sfuBits_num up (mt isZero.1 zero), if_pos ⟨negative_of_lt ha below.1, below.2⟩]

/-- The reciprocal and the roots of a number that is not zero. -/
theorem sfuBits_rounds {a : ℕ} (nan : nanPat .fp32 a = false) (inf : infPat .fp32 a = false) (nonzero : body .fp32 a ≠ 0)
    {r : Rounding} (hr : r.rnd < 65536) :
    Rounds .fp32 r (negative .fp32 a) (1 / magnitude .fp32 a) (sfuBits .rcp r a) ∧
    (negative .fp32 a = false → Rounds .fp32 r false (√(magnitude .fp32 a)) (sfuBits .sqrt r a) ∧
      Rounds .fp32 r false (1 / √(magnitude .fp32 a)) (sfuBits .rsq r a)) := by
  obtain ⟨m, e, up, value, isZero⟩ := unpack_num rfl nan inf
  have pos : m ≠ 0 := mt isZero.1 nonzero
  rw [← value]
  refine ⟨?_, fun sign => ?_⟩
  · have quotient : 1 / ((m : ℝ) * 2 ^ e) = ((1 : ℕ) : ℝ) / m * 2 ^ (-e) := by
      rw [zpow_neg, Nat.cast_one]
      field_simp
    rw [sfuBits_num up pos, if_neg (by simp), quotient]
    exact div_rounds rfl hr _ one_ne_zero pos (-e)
  · rw [sign] at up
    rw [sfuBits_num up pos, sfuBits_num up pos, if_neg (by simp), if_neg (by simp)]
    exact ⟨sqrt_rounds rfl hr false pos e, rsq_rounds rfl hr false pos (unpack_significand up) e⟩

/-- The special functions of R207 and R208. -/
theorem specialRule : SpecialRule := by
  intro r a hr ha
  have nanRuleIs := nanRule_eq (f := .fp32) rfl [a] fun p there => (List.mem_singleton.mp there).symm ▸ ha
  simp only [List.map_cons, List.map_nil] at nanRuleIs
  refine ⟨fun op q named => ?_, fun op q nan named => sfuBits_special ha nan named r, fun nan inf nonzero => ?_⟩
  · simp only [sfuBits, nanRuleIs, named]
  · obtain ⟨reciprocal, roots⟩ := sfuBits_rounds nan inf nonzero hr
    refine ⟨reciprocal, roots, fun k small whole => ?_, fun k sign power => ?_⟩
    · rw [sfuBits_exp2_whole nan inf nonzero small whole]
      simpa using roundTo_rounds rfl hr false 1 k
    · rw [sfuBits_log2_pow nan inf sign power]
      simpa [Nat.cast_natAbs] using roundTo_rounds rfl hr (decide (k < 0)) k.natAbs 0

/-- Settles O6: the results of a special function's word are outstanding, and they are those of the rules. -/
theorem specialFunctions : Obligations.SpecialFunctions := by
  refine ⟨fun i d a f s x named h => ?_, specialRule⟩
  rw [exec_special named]
  exact okTeam_steps h _ _ rfl (addPend_tid ..)

end Sys2Proof.Laws

/-!
SUPPORT. A word by its own effect (R58): it completes with a new team, goes on at an address, or traps.
-/

namespace Sys2Proof.Machine

open Sys2Proof

section
variable {i : Instr} {s : State} {x : Iss} {effect : Act} (run : exec i s = .next (conclude i x effect))
include run

theorem exec_steps (h : issueOf i s = some x) {u : Team} (ok : effect = x.okTeam u) (same : u.tid = x.t.tid) :
    ∃ t, exec i s = .next t ∧ TeamStep s t x u := ⟨_, run, by rw [ok]; exact conclude_put h u same⟩

theorem exec_stepsAt (h : issueOf i s = some x) {u : Team} {pc : Word} (goes : effect = .goto (x.put u) pc) (same : u.tid = x.t.tid) :
    ∃ t, exec i s = .next t ∧ TeamStepAt s t x u pc := ⟨_, run, by rw [goes]; exact conclude_goto h u same pc⟩

theorem exec_movesTo {u : State} {pc : Word} (goes : effect = .goto u pc) : ∃ t, exec i s = .next t ∧ MovesTo u t x pc :=
  ⟨_, run, by rw [goes]; exact conclude_to i x u pc⟩

theorem exec_traps {code : ℕ} {va : DWord} (traps : effect = .trap code va) : exec i s = .next (Claim.trapped x code va) := by
  rw [run, traps]
  rfl

end

end Sys2Proof.Machine

/-!
SUPPORT. Lane exchange (R183 to R186).
-/

namespace Sys2Proof.Machine

open Sys2Proof

/-- SHFL.UP stays in the span of its lane (R186). -/
theorem shflUp_inside {l o : ℕ} (ho : o < 32) : (o ≤ l ∧ spanBase (l - o) = spanBase l) ↔ o ≤ l % 32 := by
  simp only [spanBase]
  omega

/-- SHFL.DN stays in the span of its lane (R186). -/
theorem shflDn_inside (l o : ℕ) : spanBase (l + o) = spanBase l ↔ (l + o) / 32 = l / 32 := by
  simp only [spanBase]
  omega

/-- An exchanging word leaves its results outstanding, or traps where its mask omits a running lane. -/
theorem exec_exchange {i : Instr} {d : RegField} {f : ℕ → DWord} {fl : Flags} {bad : Bool} {s : State} {x : Iss}
    (h : issueOf i s = some x) (named : Claim.exchange x.t i = some (d, f, fl, bad)) :
    exec i s = .next (conclude i x (if bad = true then x.trapWord trapMember else x.pend64 d fl f)) := by
  unfold Claim.exchange at named
  split at named <;> cases named
  case h_1 => rw [exec, execQxch]; exact issue_of h _
  case h_2 =>
    simp only [exec, execQbc, Nat.mul_comm 4]
    exact issue_of h _
  case h_3 => rw [exec, execShfl]; exact issue_of h _
  case h_4 =>
    simp only [exec, execShflDn, ← shflDn_inside]
    exact issue_of h _
  case h_5 o =>
    simp only [exec, execShflUp, ← shflUp_inside o.isLt]
    exact issue_of h _
  case h_6 => rw [exec, execShflXor]; exact issue_of h _
  case h_7 => rw [exec, execTbc]; exact issue_of h _
  case h_8 => rw [exec, execVote]; exact issue_of h _
  case h_9 => rw [exec, execMatchx]; exact issue_of h _

/-- A reduction or a scan leaves its results outstanding. -/
theorem exec_reduction {i : Instr} {d : RegField} {v : List (ℕ × Part)} {s : State} {x : Iss} (h : issueOf i s = some x)
    (named : Claim.reduction x.t i = some (d, v)) : exec i s = .next (conclude i x (x.pendParts d v)) := by
  unfold Claim.reduction at named
  split at named <;> cases named
  case h_1 => rw [exec, execSred]; exact issue_of h _
  case h_2 => rw [exec, execTred]; exact issue_of h _
  case h_3 => rw [exec, execSscan]; exact issue_of h _

/-- Settles O8: each exchanging word by its results and its mask, each reduction by its parts. -/
theorem laneExchange : Obligations.LaneExchange := by
  refine ⟨fun i d f fl bad s x h named => ?_, fun i d v s x h named => exec_steps (exec_reduction h named) h rfl (addPend_tid ..)⟩
  have run := exec_exchange h named
  refine ⟨fun covered => exec_steps run h ?_ (addPend_tid ..), fun omits => exec_traps run ?_⟩
  · rw [if_neg (by simp [covered])]
    rfl
  · rw [if_pos omits]
    rfl

end Sys2Proof.Machine

/-!
SUPPORT. Structured control (R167 to R169, R172 to R174): nesting counters, what a demotion leaves, jumps to partner words, and the words that
change them.
-/

namespace Sys2Proof.Machine

open Sys2Proof

/-! ### Counters (R168, R169) -/

theorem Team.mapCnt_eq (t : Team) (f : Lane → ℕ) : t.mapCnt (fun _ => f) = { t with lanes := Claim.counters t f } := by
  have lanes : (t.mapCnt fun _ => f).lanes = Claim.counters t f := List.ext_getElem? fun l => by simp [Team.mapCnt, Claim.counters]
  rw [← lanes]
  rfl

theorem Team.nestLane_eq_none {t : Team} {f : Lane → ℕ} (ok : Claim.nestOk t f = true) : t.nestLane (fun _ => f) = none := by
  refine List.find?_eq_none.mpr fun l _ => ?_
  cases there : t.lanes[l]? with
  | none => simp
  | some k =>
    have fits := List.all_eq_true.mp ok k (List.mem_of_getElem? there)
    rw [Bool.or_eq_true, decide_eq_true_eq] at fits
    rcases fits with gone | small
    · simp [gone]
    · simp [small.not_gt]

theorem Team.nestLane_eq_some {t : Team} {f : Lane → ℕ} {n : ℕ} {l : Lane} (there : t.lanes[n]? = some l) (stays : l.exited = false)
    (passes : 255 < f l) (lowest : ∀ m k, m < n → t.lanes[m]? = some k → k.exited = true ∨ f k ≤ 255) :
    t.nestLane (fun _ => f) = some n := by
  have inside := (List.getElem?_eq_some_iff.mp there).1
  refine List.find?_range_eq_some.mpr ⟨by simp [there, stays, passes], by simpa using inside, fun m below => ?_⟩
  have lane := List.getElem?_eq_getElem (below.trans inside)
  rcases lowest m _ below lane with gone | small
  · simp [lane, gone]
  · simp [lane, small.not_gt]

theorem Iss.nest_ok {x : Iss} {f : Lane → ℕ} (ok : Claim.nestOk x.t f = true) (k : Team → Act) :
    x.nest (fun _ => f) k = k { x.t with lanes := Claim.counters x.t f } := by
  rw [Iss.nest, Team.nestLane_eq_none ok, Team.mapCnt_eq]

theorem Iss.nest_traps {x : Iss} {f : Lane → ℕ} {n : ℕ} (lane : x.t.nestLane (fun _ => f) = some n) (k : Team → Act) :
    x.nest (fun _ => f) k = .trap trapNest (BitVec.ofNat 64 n) := by
  rw [Iss.nest, lane]

/-- ENDL's two changes of the counters in turn are one (R168). -/
theorem counters_leave (t : Team) : Claim.counters { t with lanes := Claim.counters t fun l => if l.cnt = 1 then 0 else l.cnt }
    (fun l => if l.cnt = 2 then 0 else if 3 ≤ l.cnt then l.cnt - 2 else l.cnt) =
    Claim.counters t fun l => if l.cnt ≤ 2 then 0 else l.cnt - 2 := by
  simp only [Claim.counters, List.map_map]
  refine List.map_congr_left fun l _ => ?_
  have counts : (if (if l.cnt = 1 then 0 else l.cnt) = 2 then 0 else if 3 ≤ (if l.cnt = 1 then 0 else l.cnt) then
      (if l.cnt = 1 then 0 else l.cnt) - 2 else if l.cnt = 1 then 0 else l.cnt) = if l.cnt ≤ 2 then 0 else l.cnt - 2 := by
    split_ifs <;> omega
  by_cases gone : l.exited = true
  · simp [gone]
  · simp [gone, counts]

/-! ### The demotion state (R173) -/

theorem Demotion.dkMap_eq (d : Demotion) (f : ℕ → ℕ) : d.dkMap f = { d with dk := if d.dpc = 0 then f d.dk else d.dk } := by
  unfold Demotion.dkMap
  by_cases free : d.dpc = 0
  · rw [if_pos free, if_pos free]
  · rw [if_neg free, if_neg free]

/-- A conditional change of DK, which a demotion freezes. -/
theorem Demotion.dkMap_ite (d : Demotion) (p : ℕ → Prop) [DecidablePred p] (f : ℕ → ℕ) :
    d.dkMap (fun k => if p k then f k else k) = if d.dpc = 0 ∧ p d.dk then { d with dk := f d.dk } else d := by
  rw [Demotion.dkMap_eq]
  by_cases free : d.dpc = 0
  · by_cases holds : p d.dk
    · rw [if_pos free, if_pos holds, if_pos ⟨free, holds⟩]
    · rw [if_pos free, if_neg holds, if_neg fun both => holds both.2]
  · rw [if_neg free, if_neg fun both => free both.1]

theorem Team.demoIf_eq (x : Iss) (p : BitVec 3) (o : BitVec 18) (lanes : List Lane) : { x.t with lanes := lanes }.demoIf
    ((x.t.run.any fun l => x.t.pred p.toNat l) && x.t.run.any fun l => !x.t.pred p.toNat l) (branchTo x.t.pc o) =
    { x.t with lanes := lanes, demo := Claim.demoAfter x (.ifc p o) } := by
  have parts : ((x.t.run.any fun l => x.t.pred p.toNat l) && x.t.run.any fun l => !x.t.pred p.toNat l) = true ↔
      (∃ l ∈ x.t.run, x.t.pred p.toNat l = true) ∧ ∃ l ∈ x.t.run, x.t.pred p.toNat l = false := by simp
  unfold Team.demoIf Claim.demoAfter
  simp only [parts, Demotion.dkMap_ite x.t.demo (fun k => 0 < k) (fun k => k + 1), Demotion.dkMap_eq _ fun _ => 1]
  split <;> rfl

/-- What an ENDIF leaves of the demotion state. -/
theorem Demotion.endif_eq (d : Demotion) (pc : Word) :
    (if (d.dkMap fun k => k - 1).dif = some pc then { d.dkMap (fun k => k - 1) with dif := none } else d.dkMap fun k => k - 1) =
    { d with dk := if d.dpc = 0 then d.dk - 1 else d.dk, dif := if d.dif = some pc then none else d.dif } := by
  rw [Demotion.dkMap_eq]
  dsimp only
  by_cases here : d.dif = some pc
  · rw [if_pos here, if_pos here]
  · rw [if_neg here, if_neg here]

/-! ### Hardware loop bodies and partners (R169, R177) -/

theorem Iss.outsideLoop_of {x : Iss} (outside : x.t.inLoop = false) (k : Act) : x.outsideLoop k = k := by
  rw [Iss.outsideLoop, outside, if_neg Bool.false_ne_true]

theorem Iss.outsideLoop_illegal {x : Iss} (inside : x.t.inLoop = true) (k : Act) : x.outsideLoop k = x.trapWord trapIllegal := by
  rw [Iss.outsideLoop, inside, if_pos rfl]

section
variable {i : Instr} {s : State} {x : Iss} (h : issueOf i s = some x) {k : PartnerKind} {a : Word} {u : Team} (same : u.tid = x.t.tid)
include h same

/-- A word that jumps to its partner, or past it. -/
theorem exec_jumps {past : Bool} (run : exec i s = .next (conclude i x (x.jump k a past u))) :
    (x.partnerOk k a = true → ∃ t, exec i s = .next t ∧ TeamStepAt s t x u (if past = true then a + 4 else a)) ∧
    (x.partnerOk k a = false → exec i s = .next (Claim.trapped x trapIllegal x.word)) :=
  ⟨fun ok => exec_stepsAt run h (if_pos ok) same, fun bad => exec_traps run (if_neg (by simp [bad]))⟩

/-- A word that goes on where it leaves a lane running, and jumps to its partner where it leaves none. -/
theorem exec_runs_or_jumps
    (run : exec i s = .next (conclude i x (if u.idle then x.jump k a false u else x.okTeam u))) :
    (u.lanes.any Lane.running = true → ∃ t, exec i s = .next t ∧ TeamStep s t x u) ∧
    (u.lanes.any Lane.running = false → (x.partnerOk k a = true → ∃ t, exec i s = .next t ∧ TeamStepAt s t x u a) ∧
      (x.partnerOk k a = false → exec i s = .next (Claim.trapped x trapIllegal x.word))) := by
  refine ⟨fun runs => exec_steps run h (if_neg (by simp [Team.idle, runs])) same, fun none => ?_⟩
  rw [if_pos (by simp [Team.idle, none])] at run
  exact exec_jumps h same run

end

/-! ### IF, LOOP, BREAK, CONT -/

/-- IF with counters that fit. -/
theorem exec_ifc {p : BitVec 3} {o : BitVec 18} {f : Lane → ℕ} {s : State} {x : Iss} (h : issueOf (.ifc p o) s = some x)
    (named : Claim.counterAfter (.ifc p o) = some f) (ok : Claim.nestOk x.t f = true) :
    let u := { x.t with lanes := Claim.counters x.t f, demo := Claim.demoAfter x (.ifc p o) }
    exec (.ifc p o) s = .next (conclude (.ifc p o) x
      (if u.idle then x.jump .elseOrEndif (branchTo x.t.pc o) false u else x.okTeam u)) := by
  cases named
  intro u
  rw [exec, execIfc, issue_of h, Iss.nest_ok ok]
  simp only [Team.demoIf_eq, u]

/-- LOOP with a running lane, BREAK and CONT: the new counters, and what follows where they fit. -/
theorem exec_counts {i : Instr} {f : Lane → ℕ} {s : State} {x : Iss} (h : issueOf i s = some x) (named : Claim.counterAfter i = some f)
    (noIf : ∀ p o, i ≠ .ifc p o) (outside : x.t.inLoop = false) (runs : ∀ o, i = .loopc o → x.t.idle = false) :
    ∃ k : Team → Act, exec i s = .next (conclude i x (x.nest (fun _ => f) k)) ∧
      k { x.t with lanes := Claim.counters x.t f } =
        x.okTeam { x.t with lanes := Claim.counters x.t f, demo := Claim.demoAfter x i } := by
  unfold Claim.counterAfter at named
  split at named <;> cases named
  case h_1 p o => exact absurd rfl (noIf p o)
  case h_2 o =>
    have counts : (fun l : Lane => if 0 < l.cnt then l.cnt + 2 else l.cnt) = fun l => if 0 < l.cnt then l.cnt + 2 else 0 := by
      funext l
      split <;> omega
    refine ⟨fun t => x.okTeam { t with demo := t.demo.dkMap fun k => if 0 < k then k + 2 else k }, ?_, ?_⟩
    · rw [exec, execLoopc, issue_of h, Iss.outsideLoop_of outside, runs o rfl, if_neg Bool.false_ne_true, counts]
    · simp only [Demotion.dkMap_ite x.t.demo (fun k => 0 < k) fun k => k + 2]
      rfl
  case h_3 p d => exact ⟨x.okTeam, by rw [exec, execBreakc, issue_of h, Iss.outsideLoop_of outside], rfl⟩
  case h_4 p d => exact ⟨x.okTeam, by rw [exec, execContc, issue_of h, Iss.outsideLoop_of outside], rfl⟩

/-- IF's new counters come before anything else. -/
theorem exec_ifc_nests {p : BitVec 3} {o : BitVec 18} {f : Lane → ℕ} {s : State} {x : Iss} (h : issueOf (.ifc p o) s = some x)
    (named : Claim.counterAfter (.ifc p o) = some f) : ∃ k, exec (.ifc p o) s = .next (conclude (.ifc p o) x (x.nest (fun _ => f) k)) := by
  cases named
  exact ⟨_, by rw [exec, execIfc, issue_of h]⟩

/-- LOOP, BREAK, CONT and ENDL are ILLEGAL in a hardware loop body (R177). -/
theorem exec_loopWord_illegal {i : Instr} {s : State} {x : Iss} (h : issueOf i s = some x)
    (named : (∃ o, i = .loopc o) ∨ (∃ p d, i = .breakc p d) ∨ (∃ p d, i = .contc p d) ∨ ∃ o, i = .endl o) (inside : x.t.inLoop = true) :
    exec i s = .next (Claim.trapped x trapIllegal x.word) := by
  rcases named with ⟨o, rfl⟩ | ⟨p, d, rfl⟩ | ⟨p, d, rfl⟩ | ⟨o, rfl⟩
  · exact exec_traps (by rw [exec, execLoopc]; exact issue_of h _) (Iss.outsideLoop_illegal inside _)
  · exact exec_traps (by rw [exec, execBreakc]; exact issue_of h _) (Iss.outsideLoop_illegal inside _)
  · exact exec_traps (by rw [exec, execContc]; exact issue_of h _) (Iss.outsideLoop_illegal inside _)
  · exact exec_traps (by rw [exec, execEndl]; exact issue_of h _) (Iss.outsideLoop_illegal inside _)

/-- Settles O11: each word's new counters, which fit or trap at the lowest lane where they do not. -/
theorem nestingCounters : Obligations.NestingCounters := by
  intro i f s x named h
  refine ⟨fun body runs => ⟨fun ok running => ?_, fun n l there stays passes lowest => ?_⟩, fun noIf inside => ?_⟩
  · by_cases isIf : ∃ p o, i = .ifc p o
    · obtain ⟨p, o, rfl⟩ := isIf
      exact (exec_runs_or_jumps h (by rfl) (exec_ifc h named ok)).1 (running p o rfl)
    · obtain ⟨k, run, steps⟩ := exec_counts h named (fun p o same => isIf ⟨p, o, same⟩) (body.resolve_left isIf) runs
      exact exec_steps run h ((Iss.nest_ok ok k).trans steps) rfl
  · have passes := Team.nestLane_eq_some there stays passes lowest
    by_cases isIf : ∃ p o, i = .ifc p o
    · obtain ⟨p, o, rfl⟩ := isIf
      obtain ⟨k, run⟩ := exec_ifc_nests h named
      exact exec_traps run (Iss.nest_traps passes k)
    · obtain ⟨k, run, -⟩ := exec_counts h named (fun p o same => isIf ⟨p, o, same⟩) (body.resolve_left isIf) runs
      exact exec_traps run (Iss.nest_traps passes k)
  · refine exec_loopWord_illegal h ?_ inside
    unfold Claim.counterAfter at named
    split at named <;> cases named
    case h_1 p o => exact absurd rfl (noIf p o)
    case h_2 o => exact .inl ⟨o, rfl⟩
    case h_3 p d => exact .inr (.inl ⟨p, d, rfl⟩)
    case h_4 p d => exact .inr (.inr (.inl ⟨p, d, rfl⟩))

/-! ### ELSE, ENDIF, ENDL -/

/-- ELSE but for that at DSKIP. -/
theorem exec_elsec {o : BitVec 18} {s : State} {x : Iss} (h : issueOf (.elsec o) s = some x) (plain : x.t.demo.dskip ≠ some x.t.pc) :
    let u := { x.t with
      lanes := Claim.counters x.t fun l => if l.cnt = 0 then 1 else if l.cnt = 1 then 0 else l.cnt
      demo := if x.t.demo.dif = some x.t.pc then { x.t.demo with dif := none, dskip := none } else x.t.demo }
    exec (.elsec o) s = .next (conclude (.elsec o) x
      (if u.idle then x.jump .endif (branchTo x.t.pc o) false u else x.okTeam u)) := by
  intro u
  rw [exec, execElsec, issue_of h, if_neg plain]
  simp only [Team.mapCnt_eq, u]
  by_cases here : x.t.demo.dif = some x.t.pc <;> simp only [here, if_true, if_false]

/-- The ELSE at DSKIP (R174). -/
theorem exec_elsec_skips {o : BitVec 18} {s : State} {x : Iss} (h : issueOf (.elsec o) s = some x)
    (here : x.t.demo.dskip = some x.t.pc) : exec (.elsec o) s = .next (conclude (.elsec o) x (x.jump .endif (branchTo x.t.pc o) false
      { x.t with lanes := Claim.counters x.t fun l => if l.cnt = 0 then 1 else l.cnt
                 demo := { x.t.demo with dskip := none, dif := none } })) := by
  rw [exec, execElsec, issue_of h, if_pos here]
  simp only [Team.mapCnt_eq]

theorem exec_endifc_steps {s : State} {x : Iss} (h : issueOf .endifc s = some x) (plain : x.t.demo.dpc = 0 ∨ x.t.demo.dend ≠ some x.t.pc) :
    ∃ t, exec .endifc s = .next t ∧ TeamStep s t x { x.t with
      lanes := Claim.counters x.t fun l => l.cnt - 1
      demo := { x.t.demo with
        dk := if x.t.demo.dpc = 0 then x.t.demo.dk - 1 else x.t.demo.dk
        dif := if x.t.demo.dif = some x.t.pc then none else x.t.demo.dif } } := by
  refine exec_steps (by rw [exec, execEndifc]; exact issue_of h _) h ?_ rfl
  rw [if_neg (by tauto)]
  simp only [Team.mapCnt_eq, Demotion.endif_eq]

/-- The ENDIF at DEND with DPC occupied (R174). -/
theorem exec_endifc_returns {s : State} {x : Iss} (h : issueOf .endifc s = some x) (occupied : x.t.demo.dpc ≠ 0)
    (here : x.t.demo.dend = some x.t.pc) : ∃ t, exec .endifc s = .next t ∧
      TeamStepAt s t x
        { x.t with
          lanes := Claim.counters x.t fun l => if l.cnt = 0 then x.t.demo.dksave else if l.cnt = x.t.demo.dksave then 0 else l.cnt
          demo := { x.t.demo with dpc := 0, dk := x.t.demo.dksave } }
        (x.t.demo.dpc &&& ~~~1#32) := by
  refine exec_stepsAt (by rw [exec, execEndifc]; exact issue_of h _) h ?_ rfl
  rw [if_pos ⟨occupied, here⟩]
  simp only [Team.demoSwap, Team.mapCnt_eq]

section
variable {o : BitVec 18} {s : State} {x : Iss}

/-- LOOP with no running lane goes past its loop. -/
theorem exec_loopc_idle (h : issueOf (.loopc o) s = some x) (outside : x.t.inLoop = false) (idle : x.t.idle = true) :
    exec (.loopc o) s = .next (conclude (.loopc o) x (x.jump .endl (branchTo x.t.pc o) true x.t)) := by
  rw [exec, execLoopc, issue_of h, Iss.outsideLoop_of outside, if_pos idle]

variable (h : issueOf (.endl o) s = some x) (outside : x.t.inLoop = false)
include h outside

/-- ENDL where a lane goes round again. -/
theorem exec_endl_back (runs : (Claim.counters x.t fun l => if l.cnt = 1 then 0 else l.cnt).any Lane.running = true) :
    exec (.endl o) s = .next (conclude (.endl o) x (x.jump .loop (branchTo x.t.pc o) true
      { x.t with lanes := Claim.counters x.t fun l => if l.cnt = 1 then 0 else l.cnt })) := by
  rw [exec, execEndl, issue_of h, Iss.outsideLoop_of outside]
  simp only [Team.mapCnt_eq]
  rw [if_pos (by simp [Team.idle, runs])]

/-- ENDL where none does. -/
theorem exec_endl_out (none : (Claim.counters x.t fun l => if l.cnt = 1 then 0 else l.cnt).any Lane.running = false) :
    ∃ t, exec (.endl o) s = .next t ∧ TeamStep s t x { x.t with
      lanes := Claim.counters x.t fun l => if l.cnt ≤ 2 then 0 else l.cnt - 2
      demo := if x.t.demo.dpc = 0 ∧ 3 ≤ x.t.demo.dk then { x.t.demo with dk := x.t.demo.dk - 2 } else x.t.demo } := by
  refine exec_steps (by rw [exec, execEndl]; exact issue_of h _) h ?_ rfl
  rw [Iss.outsideLoop_of outside]
  simp only [Team.mapCnt_eq]
  rw [if_neg (by simp [Team.idle, none]), counters_leave, Demotion.dkMap_ite x.t.demo (fun k => 3 ≤ k) (fun k => k - 2)]

end

/-- Settles O12: each word by what its new counters leave running, and by its partner. -/
theorem structuredControl : Obligations.StructuredControl := by
  refine ⟨fun p o s x f h named ok none => (exec_runs_or_jumps h (by rfl) (exec_ifc h named ok)).2 none, fun o s x h plain => ?_,
    fun s x h plain => exec_endifc_steps h plain, fun o s x h outside idle => exec_jumps h rfl (exec_loopc_idle h outside idle),
    fun o s x h => ⟨fun outside runs => (exec_jumps h (by rfl) (exec_endl_back h outside runs)).1,
      fun outside runs => (exec_jumps h (by rfl) (exec_endl_back h outside runs)).2, fun outside none => exec_endl_out h outside none,
      exec_loopWord_illegal h (.inr (.inr (.inr ⟨o, rfl⟩)))⟩⟩
  obtain ⟨steps, jumps⟩ := exec_runs_or_jumps h (by rfl) (exec_elsec h plain)
  exact ⟨steps, fun none => (jumps none).1, fun none => (jumps none).2⟩

/-! ### Demotion events (R174) -/

section
variable {s : State} {g : Group} {t : Team} {pc next : Word}

theorem demote_none (idle : t.demo.dpc ≠ 0 ∨ t.demo.dif = none) : demote s g t pc next = none := by
  unfold demote
  split
  · rfl
  · next free => rw [idle.resolve_left free]

variable {dif : Word} (free : t.demo.dpc = 0) (hdif : t.demo.dif = some dif)
include free hdif

theorem demote_noElse (noElse : ∀ o, instrAt s g dif dif ≠ some (.elsec o)) : demote s g t pc next = none := by
  unfold demote
  rw [if_neg (by simpa using free), hdif]
  dsimp only
  split
  · next o there => exact absurd there (noElse o)
  · rfl

variable {o : BitVec 18} (isElse : instrAt s g dif dif = some (.elsec o))
include isElse

theorem demote_swaps (isEndif : instrAt s g pc (branchTo dif o) = some .endifc) : demote s g t pc next = some (.ok
    ({ t with
       lanes := Claim.counters t fun l => if l.cnt = 0 then t.demo.dk else if l.cnt = t.demo.dk then 0 else l.cnt
       demo := { t.demo with dpc := next ||| 1#32, dksave := t.demo.dk, dskip := some dif, dend := some (branchTo dif o) } },
     dif + 4)) := by
  unfold demote
  rw [if_neg (by simpa using free), hdif]
  simp only [isElse, isEndif, Team.demoSwap, Team.mapCnt_eq]
  rfl

theorem demote_error (noEndif : instrAt s g pc (branchTo dif o) ≠ some .endifc) : demote s g t pc next = some (.error ()) := by
  unfold demote
  rw [if_neg (by simpa using free), hdif]
  simp only [isElse]

end

/-- Settles O13: the two words of R174 at a demotion, and a demotion event by its cases. -/
theorem demotionReturns : Obligations.DemotionReturns := by
  refine ⟨fun s x h occupied here => exec_endifc_returns h occupied here, fun o s x h here => exec_jumps h (by rfl) (exec_elsec_skips h here),
    fun s g t pc next => ⟨demote_none, fun dif free hdif => ⟨demote_noElse free hdif, fun o isElse =>
      ⟨demote_swaps free hdif isElse, demote_error free hdif isElse⟩⟩⟩⟩

end Sys2Proof.Machine

/-!
SUPPORT. Hardware loops (R175 to R177): how the end of a body counts down, and the words that open and close a level.
-/

namespace Sys2Proof.Machine

open Sys2Proof

/-! ### The end of a body (R176, R177) -/

/-- The end-of-body rule reads the levels that it is given. -/
theorem loopEndFrom_loops (pc : Word) (ls os : List HwLoop) (t : Team) : loopEndFrom { t with loops := os } pc ls = loopEndFrom t pc ls := by
  induction ls generalizing t with
  | nil => rfl
  | cons l ls ih =>
    unfold loopEndFrom
    dsimp only
    split
    · split
      · rfl
      · exact ih { t with lc := t.lc.set ls.length 0 }
    · rfl

theorem loopEnd_tid (t : Team) (pc : Word) : (t.loopEnd pc).1.tid = t.tid := by rw [loopEnd_same]

section
variable {t : Team} {pc : Word}

theorem loopEnd_suspended (handler : t.trapInh = true) : t.loopEnd pc = (t, none) := if_pos handler

theorem loopEnd_closed (closed : t.loops = []) : t.loopEnd pc = (t, none) := by
  obtain handler | outside := Bool.eq_false_or_eq_true t.trapInh
  · exact loopEnd_suspended handler
  · rw [Team.loopEnd, outside, if_neg Bool.false_ne_true, closed, List.reverse_nil, loopEndFrom, ← closed]

variable {l : HwLoop} (outside : t.trapInh = false) (innermost : t.loops.getLast? = some l)
include outside innermost

/-- Outside a handler the rule looks at the innermost level first, which is the last of the list. -/
theorem loopEnd_eq : t.loopEnd pc = loopEndFrom t pc (l :: t.loops.dropLast.reverse) ∧ (l :: t.loops.dropLast.reverse).reverse = t.loops ∧
    t.loops.dropLast.reverse.length = t.loops.length - 1 := by
  have levels : t.loops.dropLast ++ [l] = t.loops := List.dropLast_append_getLast? l innermost
  refine ⟨?_, by rw [List.reverse_cons, List.reverse_reverse, levels], by simp⟩
  rw [Team.loopEnd, outside, if_neg Bool.false_ne_true, ← List.reverse_concat, levels]

theorem loopEnd_elsewhere (elsewhere : l.last ≠ pc) : t.loopEnd pc = (t, none) := by
  obtain ⟨rule, levels, -⟩ := loopEnd_eq (pc := pc) outside innermost
  rw [rule, loopEndFrom, if_neg elsewhere, levels]

variable (here : l.last = pc)
include here

theorem loopEnd_again (more : 1 < (t.lc.getD (t.loops.length - 1) 0).toNat) : t.loopEnd pc =
    ({ t with lc := t.lc.set (t.loops.length - 1) (t.lc.getD (t.loops.length - 1) 0 - 1) }, some l.start) := by
  obtain ⟨rule, levels, depth⟩ := loopEnd_eq (pc := pc) outside innermost
  have less (n : Word) (pos : 1 < n.toNat) : BitVec.ofNat 32 (n.toNat - 1) = n - 1 := by
    refine BitVec.eq_of_toNat_eq ?_
    bv_omega
  rw [rule, loopEndFrom, if_pos here, depth]
  simp only [if_pos more, levels, less _ more]

theorem loopEnd_closes (last : (t.lc.getD (t.loops.length - 1) 0).toNat ≤ 1) :
    t.loopEnd pc = { t with loops := t.loops.dropLast, lc := t.lc.set (t.loops.length - 1) 0 }.loopEnd pc := by
  obtain ⟨rule, -, depth⟩ := loopEnd_eq (pc := pc) outside innermost
  rw [rule, loopEndFrom, if_pos here, depth]
  dsimp only
  rw [if_neg last.not_gt, Team.loopEnd, if_neg (by simp [outside])]
  exact (loopEndFrom_loops pc _ t.loops.dropLast { t with lc := t.lc.set (t.loops.length - 1) 0 }).symm

end

/-- Settles O17: the end of a body by the innermost level and its count. -/
theorem loopEnd : Obligations.LoopEnd := fun _ _ =>
  ⟨loopEnd_suspended, loopEnd_closed, fun _ => loopEnd_elsewhere, fun _ => loopEnd_again, fun _ => loopEnd_closes⟩

/-! ### HLOOP, HLOOPS, HBRK -/

/-- A level may not be opened: three are open, or the body ends after the innermost one's (R176). -/
def Team.refusesLevel (t : Team) (last : Word) : Prop :=
  t.loops.length = 3 ∨ ∃ l, t.loops.getLast? = some l ∧ l.last.toNat < last.toNat

section
variable {x : Iss} {n len : ℕ}

theorem Iss.openLoop_illegal (bad : x.t.refusesLevel (x.t.pc + BitVec.ofNat 32 (4 * len))) : x.openLoop n len = x.trapWord trapIllegal := by
  refine if_pos (bad.imp_right ?_)
  rintro ⟨l, innermost, beyond⟩
  simp only [innermost, decide_eq_true_eq, beyond]

theorem Iss.openLoop_eq (good : ¬x.t.refusesLevel (x.t.pc + BitVec.ofNat 32 (4 * len))) : x.openLoop n len =
    if n = 0 then .goto x.s (x.t.pc + BitVec.ofNat 32 (4 * len) + 4)
    else x.okTeam { x.t with loops := x.t.loops ++ [{ start := x.t.pc + 4, last := x.t.pc + BitVec.ofNat 32 (4 * len) }]
                             lc := x.t.lc.set x.t.loops.length (BitVec.ofNat 32 n) } := by
  refine if_neg fun refused => good (refused.imp_right fun after => ?_)
  split at after
  · next l innermost => exact ⟨l, innermost, of_decide_eq_true after⟩
  · cases after

end

/-- HLOOP and HLOOPS open a level with a count each. -/
theorem exec_opens {i : Instr} {n : ℕ} {len : BitVec 8} {s : State} {x : Iss} (h : issueOf i s = some x)
    (named : (∃ c, i = .hloop c len ∧ n = c.toNat) ∨ ∃ a, i = .hloops a len ∧ n = (x.t.sregs.getD a.toNat 0).toNat) :
    exec i s = .next (conclude i x (x.openLoop n (len.toNat + 1))) := by
  rcases named with ⟨c, rfl, rfl⟩ | ⟨a, rfl, rfl⟩
  · rw [exec, execHloop]
    exact issue_of h _
  · rw [exec, execHloops]
    exact issue_of h _

section
variable {p : BitVec 3} {s : State} {x : Iss} (h : issueOf (.hbrk p) s = some x)
include h

theorem exec_hbrk_illegal (closed : x.t.loops = []) : exec (.hbrk p) s = .next (Claim.trapped x trapIllegal x.word) := by
  refine exec_traps (effect := x.trapWord trapIllegal) ?_ rfl
  rw [exec, execHbrk, issue_of h, closed, List.getLast?_nil]

theorem exec_hbrk_passes (opened : x.t.loops ≠ []) (stays : x.t.allPred p = false) : ∃ t, exec (.hbrk p) s = .next t ∧ MovesOn x.s t x := by
  refine exec_movesOn (effect := .ok x.s) ?_ rfl
  rw [exec, execHbrk, issue_of h, List.getLast?_eq_some_getLast opened, stays]
  rfl

theorem exec_hbrk_closes {l : HwLoop} (innermost : x.t.loops.getLast? = some l) (taken : x.t.allPred p = true) :
    let u := { x.t with loops := x.t.loops.dropLast, lc := x.t.lc.set (x.t.loops.length - 1) 0 }
    let e := u.loopEnd x.t.pc
    ∃ t, exec (.hbrk p) s = .next t ∧ TeamStepAt s t x e.1 (e.2.getD (l.last + 4)) := by
  intro u e
  refine exec_stepsAt (effect := .goto (x.put e.1) (e.2.getD (l.last + 4))) ?_ h rfl (loopEnd_tid u x.t.pc)
  rw [exec, execHbrk, issue_of h, innermost, taken]
  simp only [if_true]
  split
  · next v a found => rw [show e = (v, some a) from found, Option.getD_some]
  · next v found => rw [show e = (v, none) from found, Option.getD_none]

end

/-- Settles O16: HLOOP and HLOOPS by the levels and the count, HBRK by the levels and its predicate. -/
theorem hardwareLoops : Obligations.HardwareLoops := by
  refine ⟨fun i n len s x h named => ?_, fun p s x h => ⟨exec_hbrk_illegal h, exec_hbrk_passes h, fun l => exec_hbrk_closes h⟩⟩
  have run := exec_opens h named
  refine ⟨fun bad => exec_traps run (Iss.openLoop_illegal bad), fun good zero => ?_, fun good pos => ?_⟩
  · exact exec_movesTo run ((Iss.openLoop_eq good).trans (if_pos zero))
  · exact exec_steps run h ((Iss.openLoop_eq good).trans (if_neg pos.ne')) rfl

end Sys2Proof.Machine

/-!
SUPPORT. The stack, branches and EXIT (R170, R171, R180, R182): what a push and a pop come to, where a word jumps, and when a team has ended.
-/

namespace Sys2Proof.Machine

open Sys2Proof

/-! ### Pushes and pops (R180) -/

section
variable {x : Iss} {c : Ctx} (hc : x.s.ctxOf x.g = some c)

theorem Iss.push_beyond {bs : List Byte} (beyond : x.g.stackSz < x.t.sp + bs.length) (k : State → Team → Act) :
    x.push bs k = .trap trapStack (x.t.sbase + BitVec.ofNat 64 (x.t.sp + bs.length)) := if_pos beyond

theorem Iss.pop_below {n : ℕ} (below : x.t.sp < n) (k : State → Team → List Byte → Act) :
    x.pop n k = .trap trapStack (x.t.sbase + BitVec.ofNat 64 x.t.sp - BitVec.ofNat 64 n) := if_pos below

include hc

theorem Iss.push_eq {bs : List Byte} (fits : x.t.sp + bs.length ≤ x.g.stackSz) (k : State → Team → Act) :
    x.push bs k = x.afterMove .spill (Claim.pushes x c bs) k := by
  unfold Iss.push
  rw [hc]
  exact if_neg fits.not_gt

theorem Iss.pop_eq {n : ℕ} (holds : n ≤ x.t.sp) (k : State → Team → List Byte → Act) : x.pop n k = x.afterMove .whole (Claim.pops x c n)
    fun s t => k s { t with stack := t.stack.take (t.stack.length - n), sp := t.sp - n } (t.stack.drop (t.stack.length - n)) := by
  unfold Iss.pop
  rw [hc]
  exact if_neg holds.not_gt

theorem Iss.pop_of_moved {n : ℕ} {u : State} {v : Team} (holds : n ≤ x.t.sp) (moved : Claim.pops x c n = .ok u v)
    (k : State → Team → List Byte → Act) : x.pop n k =
      k u { v with stack := v.stack.take (v.stack.length - n), sp := v.sp - n } (v.stack.drop (v.stack.length - n)) := by
  rw [Iss.pop_eq hc holds, moved]
  rfl

end

section
variable {i : Instr} {s : State} {x : Iss} (h : issueOf i s = some x)
include h

/-- The words that push. -/
theorem exec_pushing {bs : List Byte} (named : Claim.pushing x i = some bs) : ∃ k, exec i s = .next (conclude i x (x.push bs k)) := by
  unfold Claim.pushing at named
  split at named
  case h_1 a =>
    cases named
    exact ⟨_, by rw [exec, execSpush]; exact issue_of h _⟩
  case h_2 n =>
    split at named <;> cases named
    next pushes => exact ⟨_, by rw [exec, execSalloc, issue_of h, if_pos pushes]⟩
  case h_3 o =>
    split at named <;> cases named
    next outside => exact ⟨_, by rw [exec, execCallc, issue_of h, Iss.outsideLoop_of (by simpa using outside), Iss.call]⟩
  case h_4 e =>
    dsimp only at named
    split at named <;> cases named
    next fits => exact ⟨_, by rw [exec, execFcall, issue_of h, if_pos fits.2, Iss.outsideLoop_of fits.1, Iss.call]⟩
  case h_5 => cases named

/-- The words that pop. -/
theorem exec_popping {n : ℕ} (named : Claim.popping x i = some n) : ∃ k, exec i s = .next (conclude i x (x.pop n k)) := by
  unfold Claim.popping at named
  split at named
  case h_1 d =>
    cases named
    exact ⟨_, by rw [exec, execSpop]; exact issue_of h _⟩
  case h_2 =>
    split at named <;> cases named
    next outside => exact ⟨_, by rw [exec, execRetc, issue_of h, Iss.outsideLoop_of (by simpa using outside)]⟩
  case h_3 => cases named

end

/-- The outcome of moving bytes where it is not done: the team waits for a page, or its context ends. -/
theorem exec_afterMove {i : Instr} {s : State} {x : Iss} {kind : ReplayKind} {m : Moved} {k : State → Team → Act}
    (run : exec i s = .next (conclude i x (x.afterMove kind m k))) :
    (∀ u va, m = .wait u va → exec i s = .next (Claim.waits x u kind [laneAt 0 va])) ∧
    (m = .bad → exec i s = .next (x.s.badAccess x.g x.t).moved) := by
  refine ⟨fun u va waits => ?_, fun bad => ?_⟩
  · rw [run, waits]
    rfl
  · rw [run, bad]
    rfl

/-- SALLOC of a negative count drops bytes, as many as there are. -/
theorem exec_salloc_drops {n : BitVec 8} {s : State} {x : Iss} (h : issueOf (.salloc n) s = some x) (drops : x.t.immS 8 n.toNat < 0) :
    let m := 16 * (x.t.immS 8 n.toNat).natAbs
    (m ≤ x.t.sp → ∃ t, exec (.salloc n) s = .next t ∧
      TeamStep s t x { x.t with sp := x.t.sp - m, stack := x.t.stack.take (x.t.stack.length - m)
                                stackLow := min x.t.stackLow (x.t.sp - m) }) ∧
    (x.t.sp < m → exec (.salloc n) s =
      .next (Claim.trapped x trapStack (x.t.sbase + BitVec.ofNat 64 x.t.sp - BitVec.ofNat 64 m))) := by
  intro m
  refine ⟨fun fits => ?_, fun below => ?_⟩
  · exact exec_steps (by rw [exec, execSalloc]; exact issue_of h _) h ((if_neg drops.not_ge).trans (if_neg fits.not_gt)) rfl
  · exact exec_traps (by rw [exec, execSalloc]; exact issue_of h _) ((if_neg drops.not_ge).trans (if_pos below))

/-- Settles O18: the words that push and pop, each outcome of a push and of a pop, and SALLOC that drops. -/
theorem stackWords : Obligations.StackWords := by
  refine ⟨fun a s u x c v h hc fits moved => ?_, fun d s u x c v h hc holds moved => ?_, fun n s u x c v h hc pushes fits moved => ?_,
    fun n s x h drops => exec_salloc_drops h drops, fun i s x bs h named => ?_, fun i s x n h named => ?_⟩
  · exact exec_movesOn (by rw [exec, execSpush]; exact issue_of h _) (Iss.push_of_moved hc fits moved _)
  · exact exec_movesOn (by rw [exec, execSpop]; exact issue_of h _) (Iss.pop_of_moved hc holds moved _)
  · refine exec_movesOn (by rw [exec, execSalloc]; exact issue_of h _) ((if_pos pushes).trans (Iss.push_of_moved hc ?_ moved _))
    simpa using fits
  · obtain ⟨k, run⟩ := exec_pushing h named
    refine ⟨fun beyond => exec_traps run (Iss.push_beyond beyond k), fun c fits hc => ?_⟩
    rw [Iss.push_eq hc fits] at run
    exact exec_afterMove run
  · obtain ⟨k, run⟩ := exec_popping h named
    refine ⟨fun below => exec_traps run (Iss.pop_below below k), fun c holds hc => ?_⟩
    rw [Iss.pop_eq hc holds] at run
    exact exec_afterMove run

/-! ### JMP, CALL, RET (R170) -/

theorem branchTo_eq (pc : Word) (o : BitVec 18) : branchTo pc o = pc + BitVec.ofInt 32 (4 * o.toInt) := by
  rw [branchTo, BitVec.signExtend, BitVec.ofInt_mul, BitVec.mul_comm]
  rfl

theorem Team.allPred_iff (t : Team) (p : BitVec 3) :
    t.allPred p = true ↔ p = 7 ∨ (t.run ≠ [] ∧ ∀ l ∈ t.run, t.pred p.toNat l = true) := by
  simp [Team.allPred, Team.run_eq_nil_iff]

section
variable {p : BitVec 3} {o : BitVec 18} {s : State} {x : Iss}

theorem exec_jmp (h : issueOf (.jmp p o) s = some x) (outside : x.t.inLoop = false) : exec (.jmp p o) s =
    .next (conclude (.jmp p o) x (if x.t.allPred p then .goto x.s (x.t.pc + BitVec.ofInt 32 (4 * o.toInt)) else .ok x.s)) := by
  rw [exec, execJmp, issue_of h, Iss.outsideLoop_of outside, branchTo_eq]

theorem exec_callc_calls (h : issueOf (.callc o) s = some x) (outside : x.t.inLoop = false) {c : Ctx} {u : State} {v : Team}
    (hc : x.s.ctxOf x.g = some c) (fits : x.t.sp + 16 ≤ x.g.stackSz)
    (moved : Claim.pushes x c (leBytes 16 (x.t.pc + 4).toNat) = .ok u v) :
    ∃ t, exec (.callc o) s = .next t ∧ MovesTo (u.modTeam x.r fun _ => v) t x (x.t.pc + BitVec.ofInt 32 (4 * o.toInt)) := by
  refine exec_movesTo (by rw [exec, execCallc, issue_of h, Iss.outsideLoop_of outside, Iss.call, branchTo_eq]) ?_
  exact Iss.push_of_moved hc (by simpa using fits) moved _

/-- RET with its record popped: it returns, or traps where the record's address is in no resident overlay. -/
theorem exec_retc (h : issueOf .retc s = some x) (outside : x.t.inLoop = false) {c : Ctx} {u : State} {v : Team}
    (hc : x.s.ctxOf x.g = some c) (holds : 16 ≤ x.t.sp) (moved : Claim.pops x c 16 = .ok u v) :
    let target : Word := BitVec.ofNat 32 (fieldAt (v.stack.drop (v.stack.length - 16)) 0 4)
    let w := { v with
      stack := v.stack.take (v.stack.length - 16), sp := v.sp - 16
      fcalls := if v.fcalls.getLast? = some target then v.fcalls.dropLast else v.fcalls }
    exec .retc s = .next (conclude .retc x (if (u.codeWord x.g target).isSome then .goto (u.modTeam x.r fun _ => w) target
      else .trapKeep (u.modTeam x.r fun _ => w) trapOverlay (target.zeroExtend 64))) := by
  rw [exec, execRetc, issue_of h, Iss.outsideLoop_of outside, Iss.pop_of_moved hc holds moved]
  rfl

end

/-- JMP, CALL and RET are ILLEGAL in a hardware loop body (R177). -/
theorem exec_branch_illegal {i : Instr} {s : State} {x : Iss} (h : issueOf i s = some x)
    (named : (∃ p o, i = .jmp p o) ∨ (∃ o, i = .callc o) ∨ i = .retc) (inside : x.t.inLoop = true) :
    exec i s = .next (Claim.trapped x trapIllegal x.word) := by
  rcases named with ⟨p, o, rfl⟩ | ⟨o, rfl⟩ | rfl
  · exact exec_traps (by rw [exec, execJmp]; exact issue_of h _) (Iss.outsideLoop_illegal inside _)
  · exact exec_traps (by rw [exec, execCallc]; exact issue_of h _) (Iss.outsideLoop_illegal inside _)
  · exact exec_traps (by rw [exec, execRetc]; exact issue_of h _) (Iss.outsideLoop_illegal inside _)

/-- Settles O14: JMP by its predicate, CALL by its push, RET by its pop and the address popped. -/
theorem branches : Obligations.Branches := by
  refine ⟨fun p o s x h outside => ⟨fun holds => ?_, fun notAlways fails => ?_⟩,
    fun o s u x c v h outside hc => exec_callc_calls h outside hc, fun s u x c v h outside hc holds moved => ?_,
    fun i s x named h => exec_branch_illegal h named⟩
  · exact exec_movesTo (exec_jmp h outside) (if_pos ((x.t.allPred_iff p).mpr holds))
  · refine exec_movesOn (exec_jmp h outside) (if_neg fun taken => ?_)
    obtain ⟨runs, all⟩ := ((x.t.allPred_iff p).mp taken).resolve_left notAlways
    rcases fails with none | ⟨l, there, clear⟩
    · exact runs none
    · exact absurd (all l there) (by simp [clear])
  · have run := exec_retc h outside hc holds moved
    refine ⟨fun resident => exec_movesTo run (if_pos resident), fun gone => ?_⟩
    rw [run, if_neg (by simp [gone])]
    rfl

/-! ### EXIT (R171) -/

/-- A team that is given a new value is found with it. -/
theorem put_team? {i : Instr} {s : State} {x : Iss} (h : issueOf i s = some x) {u : Team} (same : u.tid = x.t.tid) :
    (x.put u).team? x.r = some u := by
  have there := issueOf_team? h
  unfold State.team? at there ⊢
  rw [Iss.put, State.group?_modTeam]
  cases hg : x.s.group? x.r.uid with
  | none => rw [hg] at there; cases there
  | some g =>
    rw [hg] at there
    refine (find?_modWhere (fun v _ => ?_) g.teams).trans (congrArg (Option.map fun _ => u) there)
    exact beq_iff_eq.mpr (same.trans (issueOf_tid h))

/-- A team that has not ended goes on. -/
theorem State.finishTry_of_not_ended {s : State} {r : TeamRef} {u : Team} (there : s.team? r = some u) (lives : u.ended = false) :
    s.finishTry r = s := by
  simp only [State.finishTry, there, lives, Bool.not_false, if_true]

theorem exec_exitc {p : BitVec 3} {s : State} {x : Iss} (h : issueOf (.exitc p) s = some x) : exec (.exitc p) s =
    .next (conclude (.exitc p) x (.ok ((x.put { x.t with
      lanes := x.t.lanes.map fun l => { l with exited := l.exited || (l.running && l.predOf p.toNat) } }).finishTry x.r))) := by
  have marks : (fun l : Lane => if l.running && l.predOf p.toNat then { l with exited := true } else l) =
      fun l => { l with exited := l.exited || (l.running && l.predOf p.toNat) } := by
    funext l
    cases marked : l.running && l.predOf p.toNat <;> simp
  rw [exec, execExitc, issue_of h, marks]

/-- Settles O15: EXIT marks its lanes, and a team that has not ended by that goes on. -/
theorem exit : Obligations.Exit := by
  intro p s x h u
  have run := exec_exitc h
  exact ⟨fun lives => exec_steps run h (congrArg Act.ok (State.finishTry_of_not_ended (put_team? h (by rfl)) lives)) rfl,
    exec_movesOn run rfl⟩

end Sys2Proof.Machine

/-!
SUPPORT. Words that compute lane by lane without rounding (R192 to R199, R203, R325): integer words by their exact results, comparisons,
64-bit results and what SLICE reports; and the packed words (R206), by the rules of FP32 in their format.
-/

namespace Sys2Proof.Laws

open Sys2Proof.Machine Sys2Proof.Claim

/-! ### Integer words (R194, R196, R197) -/

theorem overflowFlag_eq (e : ℤ) : overflowFlag e = if decide (e < -2 ^ 31 ∨ 2 ^ 31 ≤ e) = true then flagOF else 0#6 := by
  have range : (e < -2147483648 ∨ 2147483647 < e) ↔ (e < -2 ^ 31 ∨ 2 ^ 31 ≤ e) := by omega
  simp only [overflowFlag, range, decide_eq_true_eq]

/-- The one word whose negative does not fit. -/
theorem eq_minInt_iff (a : Word) : a = 0x80000000#32 ↔ a.toInt = -2147483648 := by
  rw [← BitVec.toInt_inj]
  rfl

theorem inegLane_eq (a : Word) : inegLane a = wrapFlag (-a.toInt) := by
  have low := BitVec.le_two_mul_toInt (x := a)
  have fits : (-a.toInt < -2147483648 ∨ 2147483647 < -a.toInt) ↔ a.toInt = -2147483648 := by
    have high := BitVec.two_mul_toInt_lt (x := a)
    omega
  simp only [inegLane, wrapFlag, overflowFlag, eq_minInt_iff, fits, BitVec.ofInt_neg, BitVec.ofInt_toInt]

theorem iabsLane_eq (a : Word) : iabsLane a = wrapFlag (a.toInt.natAbs : ℤ) := by
  have sign : a.msb = decide (a.toInt < 0) := BitVec.msb_eq_toInt
  by_cases neg : a.toInt < 0
  · rw [Int.ofNat_natAbs_of_nonpos neg.le, ← inegLane_eq]
    simp only [iabsLane, inegLane, sign, neg, decide_true, if_true]
  · have fits : ¬((a.toInt.natAbs : ℤ) < -2147483648 ∨ 2147483647 < (a.toInt.natAbs : ℤ)) := by
      have high := BitVec.two_mul_toInt_lt (x := a)
      omega
    have notMin : a ≠ 0x80000000#32 := by
      rw [Ne, eq_minInt_iff]
      omega
    simp only [iabsLane, wrapFlag, overflowFlag, if_neg fits, sign, neg, notMin, decide_false, Bool.false_eq_true, if_false]
    rw [Int.natAbs_of_nonneg (not_lt.mp neg), BitVec.ofInt_toInt]

theorem iminLane_eq (a b : Word) : iminLane a b = BitVec.ofInt 32 (min a.toInt b.toInt) := by
  rw [iminLane, min_comm, min_def_lt, apply_ite (BitVec.ofInt 32), BitVec.ofInt_toInt, BitVec.ofInt_toInt]

theorem imaxLane_eq (a b : Word) : imaxLane a b = BitVec.ofInt 32 (max a.toInt b.toInt) := by
  rw [imaxLane, max_def_lt, apply_ite (BitVec.ofInt 32), BitVec.ofInt_toInt, BitVec.ofInt_toInt]

theorem nminLane_eq (a b : Word) : nminLane a b = BitVec.ofNat 32 (min a.toNat b.toNat) := by
  rw [nminLane, min_comm, min_def_lt, apply_ite (BitVec.ofNat 32), BitVec.ofNat_toNat, BitVec.ofNat_toNat, BitVec.setWidth_eq,
    BitVec.setWidth_eq]

theorem nmaxLane_eq (a b : Word) : nmaxLane a b = BitVec.ofNat 32 (max a.toNat b.toNat) := by
  rw [nmaxLane, max_def_lt, apply_ite (BitVec.ofNat 32), BitVec.ofNat_toNat, BitVec.ofNat_toNat, BitVec.setWidth_eq,
    BitVec.setWidth_eq]

/-- A word that gives integer results: those of `intValue`, with OF where an exact result does not fit. -/
def IntegerWord (i : Instr) (d : RegField) (s : State) (x : Iss) : Prop :=
  ∃ t, exec i s = .next t ∧
    TeamStep s t x ((x.t.write32 d (intValue x.t i)).orFlags (if x.t.run.any (intOver x.t i) then flagOF else 0#6))

section
variable {i : Instr} {s : State} {x : Iss} (h : issueOf i s = some x) {body : Iss → Act} (d : RegField)

include h in
/-- A word that keeps an exact result to 32 bits. -/
theorem exactWord_completes {f : ℕ → Word × Flags} (e : ℕ → ℤ) (run : exec i s = issue i s body) (hb : body x = x.lane32 d f)
    (hf : ∀ l, f l = wrapFlag (e l)) (isExact : ∀ l, intExact x.t l i = some (e l)) : IntegerWord i d s x := by
  obtain rfl := funext hf
  have value : intValue x.t i = fun l => BitVec.ofInt 32 (e l) := funext fun l => by simp only [intValue, isExact l]
  have overflows : intOver x.t i = fun l => decide (e l < -2 ^ 31 ∨ 2 ^ 31 ≤ e l) := funext fun l => by simp only [intOver, isExact l]
  rw [IntegerWord, value, overflows, run]
  refine lane32_steps h body d _ (fun l => overflowFlag (e l)) _ hb ?_
  simp only [overflowFlag_eq]
  exact orAll_ite ..

include h in
/-- A word whose result always fits. -/
theorem plainWord_completes {v : ℕ → Word} (run : exec i s = issue i s body) (hb : body x = x.lane d v)
    (fits : ∀ l, intExact x.t l i = none) (hv : ∀ l, v l = intValue x.t i l) : IntegerWord i d s x := by
  obtain rfl := funext hv
  have overflows : x.t.run.any (intOver x.t i) = false := by simp [intOver, fits]
  rw [IntegerWord, overflows, run, if_neg Bool.false_ne_true, Machine.orFlags_none]
  exact lane_steps h body d _ hb

end

theorem integerWord {i : Instr} {d : RegField} {s : State} {x : Iss} (dest : intDest i = some d) (h : issueOf i s = some x) :
    IntegerWord i d s x := by
  unfold intDest at dest
  split at dest <;> cases dest
  case h_1 a b => exact exactWord_completes h d _ (show execIadd d a b s = _ from rfl) rfl (fun _ => rfl) fun _ => rfl
  case h_2 a b => exact exactWord_completes h d _ (show execIsub d a b s = _ from rfl) rfl (fun _ => rfl) fun _ => rfl
  case h_3 a b => exact exactWord_completes h d _ (show execImul d a b s = _ from rfl) rfl (fun _ => rfl) fun _ => rfl
  case h_4 a b => exact plainWord_completes h d (show execImulh d a b s = _ from rfl) rfl (fun _ => rfl) fun _ => rfl
  case h_5 a b => exact plainWord_completes h d (show execImulhn d a b s = _ from rfl) rfl (fun _ => rfl) fun _ => rfl
  case h_6 a b => exact plainWord_completes h d (show execImin d a b s = _ from rfl) rfl (fun _ => rfl) fun _ => iminLane_eq _ _
  case h_7 a b => exact plainWord_completes h d (show execImax d a b s = _ from rfl) rfl (fun _ => rfl) fun _ => imaxLane_eq _ _
  case h_8 a b => exact plainWord_completes h d (show execNmin d a b s = _ from rfl) rfl (fun _ => rfl) fun _ => nminLane_eq _ _
  case h_9 a b => exact plainWord_completes h d (show execNmax d a b s = _ from rfl) rfl (fun _ => rfl) fun _ => nmaxLane_eq _ _
  case h_10 a b => exact plainWord_completes h d (show execIand d a b s = _ from rfl) rfl (fun _ => rfl) fun _ => rfl
  case h_11 a b => exact plainWord_completes h d (show execIor d a b s = _ from rfl) rfl (fun _ => rfl) fun _ => rfl
  case h_12 a b => exact plainWord_completes h d (show execIxor d a b s = _ from rfl) rfl (fun _ => rfl) fun _ => rfl
  case h_13 a b => exact plainWord_completes h d (show execAndn d a b s = _ from rfl) rfl (fun _ => rfl) fun _ => rfl
  case h_14 a b => exact plainWord_completes h d (show execShl d a b s = _ from rfl) rfl (fun _ => rfl) fun _ => shlLane_eq _ _
  case h_15 a b => exact plainWord_completes h d (show execShr d a b s = _ from rfl) rfl (fun _ => rfl) fun _ => shrLane_eq _ _
  case h_16 a b => exact plainWord_completes h d (show execSar d a b s = _ from rfl) rfl (fun _ => rfl) fun _ => sarLane_eq _ _
  case h_17 a => exact exactWord_completes h d _ (show execIabs d a s = _ from rfl) rfl (fun _ => iabsLane_eq _) fun _ => rfl
  case h_18 a => exact exactWord_completes h d _ (show execIneg d a s = _ from rfl) rfl (fun _ => inegLane_eq _) fun _ => rfl
  case h_19 a => exact plainWord_completes h d (show execInot d a s = _ from rfl) rfl (fun _ => rfl) fun _ => rfl
  case h_20 a => exact plainWord_completes h d (show execPopc d a s = _ from rfl) rfl (fun _ => rfl) fun _ => popcLane_eq _
  case h_21 a => exact plainWord_completes h d (show execClz d a s = _ from rfl) rfl (fun _ => rfl) fun _ => clzLane_eq _
  case h_22 a => exact plainWord_completes h d (show execBrev d a s = _ from rfl) rfl (fun _ => rfl) fun _ => brevLane_eq _
  case h_23 a b => exact plainWord_completes h d (show execBfe d a b s = _ from rfl) rfl (fun _ => rfl) fun _ => bfeLane_eq _ _
  case h_24 a b => exact plainWord_completes h d (show execBfi d a b s = _ from rfl) rfl (fun _ => rfl) fun _ => bfiLane_eq _ _ _
  case h_25 a p => exact plainWord_completes h d (show execIsel d a p s = _ from rfl) rfl (fun _ => rfl) fun _ => rfl
  case h_26 a b => exact exactWord_completes h d _ (show execImad d a b s = _ from rfl) rfl (fun _ => rfl) fun _ => rfl
  case h_27 a n => exact exactWord_completes h d _ (show execIaddi d a n s = _ from rfl) rfl (fun _ => rfl) fun _ => rfl
  case h_28 a n => exact plainWord_completes h d (show execAndi d a n s = _ from rfl) rfl (fun _ => rfl) fun _ => rfl
  case h_29 a n => exact plainWord_completes h d (show execOri d a n s = _ from rfl) rfl (fun _ => rfl) fun _ => rfl
  case h_30 a n => exact plainWord_completes h d (show execXori d a n s = _ from rfl) rfl (fun _ => rfl) fun _ => rfl
  case h_31 a n => exact plainWord_completes h d (show execShli d a n s = _ from rfl) rfl (fun _ => rfl) fun _ => shlLane_eq _ _
  case h_32 a n => exact plainWord_completes h d (show execShri d a n s = _ from rfl) rfl (fun _ => rfl) fun _ => shrLane_eq _ _
  case h_33 a n => exact plainWord_completes h d (show execSari d a n s = _ from rfl) rfl (fun _ => rfl) fun _ => sarLane_eq _ _

/-- Settles O1: the lane's results in the manual's terms, and OF by the exact ones. -/
theorem integerResults : Obligations.IntegerResults := fun _ _ _ _ dest h => integerWord dest h

/-! ### Comparing words (R192, R196, R197, R199, R203) -/

theorem comparison_completes {i : Instr} {p : BitVec 3} {f : ℕ → Bool} {s : State} {x : Iss} (h : issueOf i s = some x)
    (named : comparison x.t i = some (p, f)) : ∃ t, exec i s = .next t ∧ TeamStep s t x (x.t.writePred p.toNat f) := by
  unfold comparison at named
  split at named <;> cases named
  case h_1 c a b => rw [exec, execIcmp]; exact okTeam_steps h _ _ rfl (writePred_tid ..)
  case h_2 c a n => rw [exec, execIcmpi]; exact okTeam_steps h _ _ rfl (writePred_tid ..)
  case h_3 c a b => rw [exec, execAcmp]; exact okTeam_steps h _ _ rfl (writePred_tid ..)

/-- Settles O2: comparisons write their predicate alone, FCMP its flags too. -/
theorem predicateResults : Obligations.PredicateResults :=
  ⟨fun _ _ _ _ _ h named => comparison_completes h named, fun _ _ _ _ _ _ h => by
    rw [exec, execFcmp]
    exact okTeam_steps h _ _ rfl (writePred_tid ..)⟩

/-! ### Address words, MOV, MOVI and SLICE (R196, R198, R199, R325) -/

theorem signExtend_truncate (n : ℕ) (a : DWord) :
    (a.truncate n).signExtend 64 = BitVec.ofInt 64 (Int.bmod (a.toNat % 2 ^ n : ℕ) (2 ^ n)) := by
  rw [BitVec.signExtend, BitVec.toInt_eq_toNat_bmod, BitVec.truncate_eq_setWidth, BitVec.toNat_setWidth]

theorem zeroExtend_truncate_eq (n : ℕ) (a : DWord) : (a.truncate n).zeroExtend 64 = BitVec.ofNat 64 (a.toNat % 2 ^ n) := by
  rw [BitVec.zeroExtend_eq_setWidth, BitVec.truncate_eq_setWidth, ← BitVec.ofNat_toNat, BitVec.toNat_setWidth]

theorem append_eq_ofNat (b a : Word) : b ++ a = BitVec.ofNat 64 (b.toNat * 2 ^ 32 + a.toNat) := by
  apply BitVec.eq_of_toNat_eq
  rw [BitVec.toNat_append, Nat.shiftLeft_eq, Nat.mul_comm, ← Nat.two_pow_add_eq_or_of_lt a.isLt, BitVec.toNat_ofNat]
  omega

theorem add_shiftLeft_eq (a b : DWord) (n : ℕ) : a + b <<< n = BitVec.ofNat 64 (a.toNat + b.toNat * 2 ^ n) := by
  apply BitVec.eq_of_toNat_eq
  simp [Nat.shiftLeft_eq]

theorem sub_eq_ofInt (a b : DWord) : a - b = BitVec.ofInt 64 (a.toInt - b.toInt) := by
  rw [Int.sub_eq_add_neg, BitVec.ofInt_add, BitVec.ofInt_neg, BitVec.ofInt_toInt, BitVec.ofInt_toInt, BitVec.sub_eq_add_neg]

/-- A word whose 64-bit result sets no flag. -/
theorem lane64_completes {i : Instr} {s : State} {x : Iss} (h : issueOf i s = some x) {body : Iss → Act} (d : RegField)
    {v : ℕ → DWord} (w : ℕ → DWord) (run : exec i s = issue i s body) (hb : body x = x.lane64 d v) (hv : ∀ l, v l = w l) :
    ∃ t, exec i s = .next t ∧ TeamStep s t x (x.t.write d w) := by
  obtain rfl := funext hv
  exact run ▸ okTeam_steps h body _ hb (write_tid ..)

theorem wideResult_completes {i : Instr} {d : RegField} {f : ℕ → DWord} {s : State} {x : Iss} (h : issueOf i s = some x)
    (result : wideResult x.t i = some (d, f)) : ∃ t, exec i s = .next t ∧ TeamStep s t x (x.t.write d f) := by
  unfold wideResult at result
  split at result <;> cases result
  case h_1 a b => exact lane64_completes h d _ (show execAadd d a b s = _ from rfl) rfl fun _ => BitVec.add_def _ _
  case h_2 a b => exact lane64_completes h d _ (show execAsub d a b s = _ from rfl) rfl fun _ => sub_eq_ofInt _ _
  case h_3 a b => exact lane64_completes h d _ (show execAmov d a b s = _ from rfl) rfl fun _ => append_eq_ofNat _ _
  case h_4 a k =>
    refine lane64_completes h d _ (show execAcvt d a k s = _ from rfl) rfl fun l => ?_
    rcases k.toNat with _ | _ | _ | _ | _ | n
    · exact signExtend_truncate 32 _
    · exact zeroExtend_truncate_eq 32 _
    · exact signExtend_truncate 16 _
    · exact zeroExtend_truncate_eq 16 _
    · exact signExtend_truncate 8 _
    · exact zeroExtend_truncate_eq 8 _
  case h_5 a b n => exact lane64_completes h d _ (show execAshladd d a b n s = _ from rfl) rfl fun _ => add_shiftLeft_eq _ _ _
  case h_6 a => exact lane64_completes h d _ (show execMovc d a s = _ from rfl) rfl fun _ => rfl
  case h_7 n => exact lane64_completes h d _ (show execMovi d n s = _ from rfl) rfl fun _ => rfl

section
variable {s : State} {g : Group} {c : Ctx} {pt : Partition} {core : Core} (hc : s.ctxOf g = some c) (hp : s.part? g.part = some pt)
  (hk : s.core? g.core = some core) {va : DWord} (low : va.toNat < 2 ^ 52)
include hc hp hk low

theorem sliceValue_home :
    sliceValue s g 0 va = BitVec.ofNat 64 ((homeOf pt c.asid va.toNat).1 * 16 + (homeOf pt c.asid va.toNat).2) := by
  simp only [sliceValue, if_neg low.not_ge, hp, hc, hk]

theorem sliceValue_accepted : sliceValue s g 1 va =
    BitVec.ofNat 64 (core.reqs.filter fun q => q.accepted && decide (q.home = homeOf pt c.asid va.toNat)).length := by
  simp only [sliceValue, if_neg low.not_ge, hp, hc, hk, beq_eq_decide]

theorem sliceValue_queued : sliceValue s g 2 va =
    BitVec.ofNat 64 (core.queued.filter fun q => decide (q.home = homeOf pt c.asid va.toNat)).length := by
  simp only [sliceValue, if_neg low.not_ge, hp, hc, hk, beq_eq_decide]

end

/-- Settles O3: 64-bit results in the manual's terms, and SLICE by the address and its selector. -/
theorem addressResults : Obligations.AddressResults := by
  refine ⟨fun _ _ _ _ _ h result => wideResult_completes h result, fun _ _ _ _ _ h => ?_,
    fun _ _ _ _ _ _ _ hc hp hk => ⟨fun high => if_pos high, sliceValue_home hc hp hk, sliceValue_accepted hc hp hk,
      sliceValue_queued hc hp hk⟩⟩
  rw [exec, execSlice]
  exact okTeam_steps h _ _ rfl (write_tid ..)

/-! ### Packed words (R205, R206) -/

/-- The words that work on both halves complete with both results and the flags of both. -/
theorem halfResult_completes {i : Instr} {d : RegField} {f : ℕ → ℕ → ℕ × Flags} {s : State} {x : Iss} (h : issueOf i s = some x)
    (result : halfResult x i = some (d, f)) : ∃ t, exec i s = .next t ∧
      TeamStep s t x ((x.t.write32 d fun l => BitVec.ofNat 32 ((f l 0).1 % 2 ^ 16 + (f l 1).1 % 2 ^ 16 * 2 ^ 16)).orFlags
        (orAll (x.t.run.map fun l => (f l 0).2 ||| (f l 1).2))) := by
  unfold halfResult at result
  split at result <;> cases result
  case h_1 a b k => exact lane32_completes h d (fun l => (_, _)) (show execHadd2 d a b k s = _ from rfl) rfl
  case h_2 a b k => exact lane32_completes h d (fun l => (_, _)) (show execHsub2 d a b k s = _ from rfl) rfl
  case h_3 a b k => exact lane32_completes h d (fun l => (_, _)) (show execHmul2 d a b k s = _ from rfl) rfl
  case h_4 a b k => exact lane32_completes h d (fun l => (_, _)) (show execHfma2 d a b k s = _ from rfl) rfl
  case h_5 a b k => exact lane32_completes h d (fun l => (_, _)) (show execHmax2 d a b k s = _ from rfl) rfl
  case h_6 a b k => exact lane32_completes h d (fun l => (_, _)) (show execHmin2 d a b k s = _ from rfl) rfl

/-- Settles O5: both halves by the rules of FP32, which hold in each format of 16 bits. -/
theorem packedResults : Obligations.PackedResults := by
  refine ⟨fun _ _ _ _ _ h result => halfResult_completes h result, roundingRule, rfl, rfl, fun f hf => ?_⟩
  have float : fmtIsFloat f = true := by rcases hf with rfl | rfl <;> rfl
  exact ⟨sumRule float, productRule float, fusedRule float, minMaxRule float⟩

end Sys2Proof.Laws

/-!
SUPPORT. Pushes and pops of queues (R223 to R234): the tests of a queue in the terms of the statements, what holding on a queue comes to
(R245, R246), and each outcome of a push and of a pop.
-/

namespace Sys2Proof.Machine

open Sys2Proof

/-! ### Queues in the statements' terms (R225 to R228) -/

theorem Queue.refuses_iff (q : Queue) : q.refuses = true ↔ q.state ≠ .opened ∨ q.ended = true := by
  simp [Queue.refuses]

theorem Queue.shut_iff (q : Queue) : q.shut = true ↔ q.state = .closing ∨ q.state = .closed := by
  simp [Queue.shut]

theorem Queue.full_iff (q : Queue) (clk : ℕ) : q.full clk = true ↔ q.depth ≤ Claim.taken q clk := decide_eq_true_iff

theorem Queue.not_refuses_of {q : Queue} (opened : q.state = .opened) (going : q.ended = false) : ¬q.refuses = true := by
  simp [Queue.refuses_iff, opened, going]

theorem Queue.not_shut_of {q : Queue} (goes : q.state ≠ .closing) (stands : q.state ≠ .closed) : ¬q.shut = true := by
  simp [Queue.shut_iff, goes, stands]

/-! ### What a queue word's effect comes to (R245, R246) -/

theorem Iss.withQueue_of {x : Iss} {n : BitVec 4} {q : Queue} (hq : x.g.queue? n.toNat = some q) (k : Queue → Act) :
    x.withQueue n k = k q := by rw [Iss.withQueue, hq]

/-- A word whose effect is a hold on a queue leaves its team held there (R246), a loss of decoupling counted once (R245). -/
theorem conclude_holdQueue (i : Instr) (x : Iss) (lost : Bool) : conclude i x (x.holdQueue lost) = Claim.heldOnQueue x lost := by
  by_cases waits : x.t.queueHeld = true
  · simp only [Iss.holdQueue, Claim.heldOnQueue, if_pos waits, conclude]
  · simp only [Iss.holdQueue, Claim.heldOnQueue, if_neg waits, conclude, Bool.and_eq_true, Bool.not_eq_true']
    rfl

/-! ### Pushes (R233) -/

section
variable {x : Iss} {n : BitVec 4} {spec : BitVec 8} {e : Queue → QEntry} {ends : Bool} {q : Queue}

theorem Iss.push1_idle (idle : x.t.idle = true) : x.push1 n spec e ends = .ok x.s := if_pos idle

variable (runs : x.t.idle = false) (hq : x.g.queue? n.toNat = some q)
include runs hq

theorem Iss.push1_runs : x.push1 n spec e ends =
    if q.refuses then x.queueStatus (pendStatus spec stClosed)
    else if q.full x.s.clk then x.holdQueue false
    else x.queueDone n (fun q => { q.reserve (e q) x.s.clk with ended := q.ended || ends }) (pendStatus spec 0) := by
  rw [Iss.push1, if_neg (ne_true_of_eq_false runs), Iss.withQueue_of hq]

theorem Iss.push1_refused (refused : q.state ≠ .opened ∨ q.ended = true) :
    x.push1 n spec e ends = x.okTeam (x.t.addPend (pendStatus spec 0x40000#32)) := by
  rw [Iss.push1_runs runs hq, if_pos ((Queue.refuses_iff q).mpr refused)]
  rfl

variable (opened : q.state = .opened) (going : q.ended = false)
include opened going

theorem Iss.push1_full (full : q.depth ≤ Claim.taken q x.s.clk) : x.push1 n spec e ends = x.holdQueue false := by
  rw [Iss.push1_runs runs hq, if_neg (Queue.not_refuses_of opened going), if_pos ((Queue.full_iff q _).mpr full)]

theorem Iss.push1_room (room : Claim.taken q x.s.clk < q.depth) : x.push1 n spec e ends =
    .ok (Claim.queueMoved x n.toNat (fun q => Claim.pushed x.s.clk (e q) ends q) (pendStatus spec 0)) := by
  rw [Iss.push1_runs runs hq, if_neg (Queue.not_refuses_of opened going), if_neg ((Queue.full_iff q _).not.mpr room.not_ge)]
  rfl

end

theorem exec_of_pushForm {i : Instr} {n : BitVec 4} {spec : BitVec 8} {e : Queue → QEntry} {ends : Bool} {s : State} {x : Iss}
    (h : issueOf i s = some x) (form : Claim.pushForm x.t i = some (n, spec, e, ends)) :
    exec i s = .next (conclude i x (x.push1 n spec e ends)) := by
  unfold Claim.pushForm at form
  split at form <;> cases form
  · rw [exec, execQpush]
    exact issue_of h _
  · rw [exec, execQmarkSeg]
    exact issue_of h _
  · rw [exec, execQmarkEos]
    exact issue_of h _

/-! ### Pops (R234) -/

/-- The results of a pop that finds an entry: its values, and the status last. -/
def poppedWrites (t : Team) (d : RegField) (spec : BitVec 8) (q : Queue) (e : QEntry) : List PendWrite :=
  if spec ≠ 0 ∧ d = spec.truncate 7 then pendStatus spec e.status else popWrites t d q e ++ pendStatus spec e.status

section
variable {x : Iss} {d : RegField} {n : BitVec 4} {spec : BitVec 8} {tries peeks : Bool} {q : Queue}

theorem Iss.pop1_idle (idle : x.t.idle = true) : x.pop1 d n spec tries peeks = .ok x.s := if_pos idle

variable (runs : x.t.idle = false) (hq : x.g.queue? n.toNat = some q)
include runs hq

theorem Iss.pop1_shut (shut : q.state = .closing ∨ q.state = .closed) :
    x.pop1 d n spec tries peeks = x.okTeam (x.t.addPend (pendStatus spec 0x60000#32)) := by
  rw [Iss.pop1, if_neg (ne_true_of_eq_false runs), Iss.withQueue_of hq, if_pos ((Queue.shut_iff q).mpr shut)]
  rfl

variable (goes : q.state ≠ .closing) (stands : q.state ≠ .closed)
include goes stands

theorem Iss.pop1_empty (empty : Claim.visible q x.s.clk = []) : x.pop1 d n spec tries peeks =
    if tries then x.okTeam (x.t.addPend (pendStatus spec 0x80000#32))
    else x.holdQueue (x.t.role == .access && q.producer != .access) := by
  have empty : q.visible x.s.clk = [] := empty
  rw [Iss.pop1, if_neg (ne_true_of_eq_false runs), Iss.withQueue_of hq, if_neg (Queue.not_shut_of goes stands), empty]
  rfl

theorem Iss.pop1_found {e : QEntry} {rest : List QEntry} (found : Claim.visible q x.s.clk = e :: rest) :
    x.pop1 d n spec tries peeks =
      if peeks = true ∨ e.tag = 2 then x.okTeam (x.t.addPend (poppedWrites x.t d spec q e))
      else .ok (Claim.queueMoved x n.toNat (Claim.popped x.s.clk 1) (poppedWrites x.t d spec q e)) := by
  have found : q.visible x.s.clk = e :: rest := found
  rw [Iss.pop1, if_neg (ne_true_of_eq_false runs), Iss.withQueue_of hq, if_neg (Queue.not_shut_of goes stands), found]
  simp only [Bool.or_eq_true, decide_eq_true_eq]
  rfl

end

theorem exec_of_popForm {i : Instr} {d : RegField} {n : BitVec 4} {spec : BitVec 8} {tries peeks : Bool} {s : State} {x : Iss}
    (h : issueOf i s = some x) (form : Claim.popForm i = some (d, n, spec, tries, peeks)) :
    exec i s = .next (conclude i x (x.pop1 d n spec tries peeks)) := by
  unfold Claim.popForm at form
  split at form <;> cases form <;> exact issue_of h fun x => x.pop1 d n spec _ _

/-- Settles O30: each push and each pop is one effect, by the state of the queue and by what it holds. -/
theorem queueEntries : Obligations.QueueEntries := by
  unfold Obligations.QueueEntries
  refine ⟨fun i n spec e ends s x q h form hq => ?_, fun i d n spec tries peeks s x q h form hq => ?_⟩
  · have run := exec_of_pushForm h form
    refine ⟨fun idle => exec_movesOn run (Iss.push1_idle idle), fun runs refused => ?_, fun runs opened going full => ?_,
      fun runs opened going room => exec_movesOn run (Iss.push1_room runs hq opened going room)⟩
    · exact exec_steps run h (Iss.push1_refused runs hq refused) (addPend_tid ..)
    · rw [run, Iss.push1_full runs hq opened going full, conclude_holdQueue]
  · have run := exec_of_popForm h form
    refine ⟨fun idle => exec_movesOn run (Iss.pop1_idle idle), fun runs shut => ?_,
      fun runs goes stands empty => ⟨fun once => ?_, fun waits => ?_⟩,
      fun runs goes stands e rest found => ⟨fun stays => ?_, fun takes more => ?_⟩⟩
    · exact exec_steps run h (Iss.pop1_shut runs hq shut) (addPend_tid ..)
    · exact exec_steps run h ((Iss.pop1_empty runs hq goes stands empty).trans (if_pos once)) (addPend_tid ..)
    · rw [run, Iss.pop1_empty runs hq goes stands empty, if_neg (ne_true_of_eq_false waits), conclude_holdQueue]
    · exact exec_steps run h ((Iss.pop1_found runs hq goes stands found).trans (if_pos stays)) (addPend_tid ..)
    · have leaves : ¬(peeks = true ∨ e.tag = 2) := not_or.mpr ⟨ne_true_of_eq_false takes, more⟩
      exact exec_movesOn run ((Iss.pop1_found runs hq goes stands found).trans (if_neg leaves))

end Sys2Proof.Machine

/-!
SUPPORT. QCLOSE, QFLUSH and QSTAT (R235 to R237, R243): closing a queue that no load into it waits for a page changes that queue and
its group's teams and progress count alone; what QFLUSH removes, and the word that QSTAT reports.
-/

namespace Sys2Proof.Machine

open Sys2Proof

/-! ### One group changed twice -/

theorem State.modGroup_modGroup {u : ℕ} {f : Group → Group} (keeps : ∀ g, (f g).uid = g.uid) (s : State) (k : Group → Group) :
    (s.modGroup u f).modGroup u k = s.modGroup u fun g => k (f g) := by
  simp only [State.modGroup, modWhere, List.map_map]
  congr 1
  refine List.map_congr_left fun g _ => ?_
  by_cases here : g.uid = u <;> simp [here, keeps]

theorem State.group?_modGroup {u : ℕ} {f : Group → Group} (keeps : ∀ g, (f g).uid = g.uid) (s : State) :
    (s.modGroup u f).group? u = (s.group? u).map f :=
  find?_modWhere (p := fun g : Group => g.uid == u) (fun g here => by rwa [keeps]) s.groups

theorem State.group?_modGroup_other {u v : ℕ} (other : v ≠ u) {f : Group → Group} (keeps : ∀ g, (f g).uid = g.uid) (s : State) :
    (s.modGroup u f).group? v = s.group? v := by
  simp only [State.group?, State.modGroup, modWhere, List.find?_map]
  have same : (fun g : Group => g.uid == v) ∘ (fun g => if g.uid == u then f g else g) = fun g => g.uid == v := by
    funext g
    dsimp only [Function.comp_apply]
    split <;> simp [keeps]
  rw [same]
  cases found : s.groups.find? fun g => g.uid == v with
  | none => rfl
  | some g =>
    have is : g.uid = v := by simpa using List.find?_some found
    simp [is, other]

/-! ### Closing a queue that no load waits into (R243) -/

/-- A team with no load into the queue has no request to withdraw. -/
theorem State.cancelLoads_none {t : Team} {n : ℕ} (none : t.replay.any (ReplayItem.ofQueue n) = false) (s : State) (part : ℕ)
    (r : TeamRef) : s.cancelLoads part r n t = (s.modTeam r (Team.cancelQueue n), 0) := by
  have loads : t.replay.filter (fun i => i.ofQueue n) = [] := by simpa [List.filter_eq_nil_iff] using none
  rw [State.cancelLoads, Team.onlyQueueReqs, loads]
  rfl

/-- Cancelling the loads of teams that have none leaves everything but the teams of their group. -/
theorem State.cancelLoads_all_none {u part n : ℕ} {ts : List Team}
    (none : ∀ t ∈ ts, t.replay.any (ReplayItem.ofQueue n) = false) (s : State) : ∃ f : List Team → List Team,
      ts.foldl (fun p t =>
        let q := p.1.cancelLoads part { uid := u, tid := t.tid } n t
        (q.1, p.2 + q.2)) (s, 0) = (s.modGroup u fun k => { k with teams := f k.teams }, 0) := by
  induction ts generalizing s with
  | nil =>
    refine ⟨id, ?_⟩
    simp [State.modGroup, modWhere]
  | cons t ts ih =>
    obtain ⟨here, later⟩ := List.forall_mem_cons.mp none
    obtain ⟨f, rest⟩ := ih later (s.modTeam { uid := u, tid := t.tid } (Team.cancelQueue n))
    refine ⟨fun ts => f (modWhere ts (fun v => v.tid == t.tid) (Team.cancelQueue n)), ?_⟩
    rw [List.foldl_cons, State.cancelLoads_none here]
    refine rest.trans ?_
    rw [State.modTeam, State.modGroup_modGroup]
    · rfl
    · exact fun _ => rfl

/-- A queue once it has been closed, with no load into it waiting for a page. -/
def Queue.closedUp (q : Queue) : Queue :=
  let fly := (q.entries.filter fun e => e.waiting && !e.faulted).length
  { q with
    state := if fly = 0 then .closed else .closing, entries := [], inFlight := fly
    flushed := q.flushed + BitVec.ofNat 32 q.entries.length }

/-- Closing a queue that no load waits into changes that queue, its group's progress count and its group's teams. -/
theorem State.closeQueue_none {g : Group} {n : ℕ} (none : ∀ t ∈ g.teams, t.replay.any (ReplayItem.ofQueue n) = false) (s : State) :
    ∃ f : List Team → List Team, s.closeQueue g n = s.modGroup g.uid fun k =>
      (({ k with teams := f k.teams } : Group).modQueue n Queue.closedUp).touchQ s.clk := by
  obtain ⟨f, cancelled⟩ := State.cancelLoads_all_none (u := g.uid) (part := g.part) none s
  refine ⟨f, ?_⟩
  have waiting : g.teams.filter (fun t => t.replay.any (ReplayItem.ofQueue n)) = [] := by
    simpa [List.filter_eq_nil_iff] using none
  simp only [State.closeQueue, cancelled, waiting, List.foldl_nil]
  rw [State.modGroup_modGroup]
  · simp only [BitVec.add_zero]
    rfl
  · exact fun _ => rfl

/-! ### QCLOSE, QFLUSH and QSTAT (R235 to R237) -/

theorem Group.forTeam_uid (g : Group) (t : Team) : (g.forTeam t).uid = g.uid := by
  unfold Group.forTeam
  split <;> rfl

theorem Group.forTeam_queues (g : Group) (t : Team) : (g.forTeam t).queues = g.queues := by
  unfold Group.forTeam
  split <;> rfl

/-- The issuing team's group stands in the machine at its issue, with the queues that the issue sees. -/
theorem issueOf_group? {i : Instr} {s : State} {x : Iss} (h : issueOf i s = some x) :
    x.g.uid = x.r.uid ∧ ∃ g, x.s.group? x.r.uid = some g ∧ g.queues = x.g.queues := by
  obtain ⟨g, -, hg, -, at_, -, clocked⟩ := issueOf_spec h
  refine ⟨?_, g, by rw [clocked, ← hg]; rfl, by rw [at_, Group.forTeam_queues]⟩
  rw [at_, Group.forTeam_uid]
  simpa using List.find?_some hg

theorem Group.queue?_num {g : Group} {n : ℕ} {q : Queue} (hq : g.queue? n = some q) : q.num = n := by
  simpa using List.find?_some hq

section
variable {n : BitVec 4} {s : State} {x : Iss} {q : Queue} (h : issueOf (.qclose n) s = some x) (hq : x.g.queue? n.toNat = some q)
include h hq

theorem exec_qclose_of : exec (.qclose n) s = .next (conclude (.qclose n) x (
    if x.t.idle then .ok x.s
    else if q.state == .opened then .ok ({ x.s with clk := q.closeClk x.s.clk }.closeQueue x.g n.toNat) else .ok x.s)) := by
  rw [exec, execQclose, issue_of h, Iss.withQueue_of hq, Group.queue?_num hq]

theorem exec_qclose_still (still : x.t.idle = true ∨ q.state ≠ .opened) :
    ∃ t, exec (.qclose n) s = .next t ∧ MovesOn x.s t x := by
  refine exec_movesOn (exec_qclose_of h hq) ?_
  by_cases idle : x.t.idle = true
  · exact if_pos idle
  · have other : ¬(q.state == .opened) = true := by simpa using still.resolve_left idle
    exact (if_neg idle).trans (if_neg other)

theorem exec_qclose_closes (runs : x.t.idle = false) (opened : q.state = .opened) : ∃ t, exec (.qclose n) s = .next t ∧
    MovesOn ({ x.s with clk := q.closeClk x.s.clk }.closeQueue x.g n.toNat) t x := by
  refine exec_movesOn (exec_qclose_of h hq) ?_
  rw [if_neg (ne_true_of_eq_false runs), if_pos (by rw [opened]; rfl)]

/-- Where no load into the queue waits for a page, closing it leaves everything but its own group. -/
theorem closeQueue_frame (none : ∀ v ∈ x.g.teams, v.replay.any (ReplayItem.ofQueue n.toNat) = false) (clk : ℕ) :
    let u := { x.s with clk := clk }.closeQueue x.g n.toNat
    u.mem = x.s.mem ∧ u.hostMem = x.s.hostMem ∧ u.ctxs = x.s.ctxs ∧ u.cores = x.s.cores ∧ u.parts = x.s.parts ∧
      (∀ k, k ≠ x.r.uid → u.group? k = x.s.group? k) ∧
      (u.group? x.r.uid).bind (fun g => g.queue? n.toNat) = some q.closedUp := by
  obtain ⟨uid, g, hg, queues⟩ := issueOf_group? h
  obtain ⟨f, closed⟩ := State.closeQueue_none none { x.s with clk := clk }
  intro u
  have is : u = _ := closed
  rw [uid] at is
  rw [is]
  refine ⟨rfl, rfl, rfl, rfl, rfl, fun k other => ?_, ?_⟩
  · rw [State.group?_modGroup_other other]
    · rfl
    · exact fun _ => rfl
  · have there : ({ x.s with clk := clk } : State).group? x.r.uid = some g := hg
    have found : ({ g with teams := f g.teams } : Group).queue? n.toNat = some q := by
      rw [← hq, Group.queue?, Group.queue?, ← queues]
    rw [State.group?_modGroup, there, Option.map_some, Option.bind_some]
    · exact (Group.queue?_modQueue _ n.toNat Queue.closedUp fun _ => rfl).trans (congrArg (Option.map Queue.closedUp) found)
    · exact fun _ => rfl

end

section
variable {d : RegField} {n : BitVec 4} {s : State} {x : Iss} {q : Queue}

/-- The entries that QFLUSH removes (R236). -/
def Iss.flushes (x : Iss) (q : Queue) : ℕ := if x.t.idle || q.shut then 0 else q.flushable x.s.clk

theorem exec_qflush_of (h : issueOf (.qflush d n) s = some x) (hq : x.g.queue? n.toNat = some q) :
    exec (.qflush d n) s = .next (conclude (.qflush d n) x (
      if x.flushes q = 0 then x.okTeam (x.t.addPend [pendS d 0])
      else .ok (Claim.queueMoved x n.toNat
        (fun p => { Claim.popped x.s.clk (x.flushes q) p with flushed := p.flushed + BitVec.ofNat 32 (x.flushes q) })
        [pendS d (BitVec.ofNat 32 (x.flushes q))]))) := by
  rw [exec, execQflush, issue_of h, Iss.withQueue_of hq]
  rfl

theorem Iss.flushes_eq (x : Iss) (q : Queue) : x.flushes q =
    if x.t.idle = true ∨ q.state = .closing ∨ q.state = .closed then 0
    else ((Claim.visible q x.s.clk).takeWhile fun e => e.tag != 2).length := by
  simp only [Iss.flushes, Bool.or_eq_true, Queue.shut_iff]
  rfl

theorem Queue.stateCode_eq (q : Queue) : q.stateCode =
    match q.state with
    | .opened => 1
    | .closing => 2
    | .closed => 3
    | _ => 0 := by
  unfold Queue.stateCode
  cases q.state <;> rfl

theorem exec_qstat_of {k : BitVec 8} (h : issueOf (.qstat d n k) s = some x) (hq : x.g.queue? n.toNat = some q) :
    exec (.qstat d n k) s = .next (conclude (.qstat d n k) x (x.okTeam (x.t.addPend [pendS d (match k.toNat with
      | 0 => q.stateWord x.s.clk
      | 1 => q.cancelled
      | _ => q.flushed)]))) := by
  rw [exec, execQstat, issue_of h, Iss.withQueue_of hq]
  rfl

end

/-- Settles O31: QCLOSE by what closing comes to, QFLUSH by the entries it removes, QSTAT by its word. -/
theorem queueControl : Obligations.QueueControl := by
  unfold Obligations.QueueControl
  refine ⟨fun n s x q h hq => ⟨exec_qclose_still h hq, fun runs opened => ?_⟩, fun d n s x q h hq => ?_,
    fun d n k s x q h hq => ?_⟩
  · exact ⟨exec_qclose_closes h hq runs opened, fun none => closeQueue_frame h hq none _⟩
  · intro k
    have is : x.flushes q = k := x.flushes_eq q
    have run := exec_qflush_of h hq
    rw [is] at run
    exact ⟨fun none => exec_steps run h (if_pos none) (addPend_tid ..), fun some => exec_movesOn run (if_neg some.ne')⟩
  · refine exec_steps (exec_qstat_of h hq) h ?_ (addPend_tid ..)
    simp only [Queue.stateWord, Queue.stateCode_eq]
    rfl

end Sys2Proof.Machine

/-!
SUPPORT. A counterexample to the statement on LDQ, LDQG and STQ (R241): a group in which two teams bear one number, which the statement does
not exclude.
-/

namespace Sys2Proof.Machine

open Sys2Proof

/-- A word that completes leaves every team's store buffer as its own effect made it. -/
theorem movesOn_sbufs {u t : State} {x : Iss} (h : MovesOn u t x) :
    t.groups.map (fun g => g.teams.map Team.sbuf) = u.groups.map fun g => g.teams.map Team.sbuf := by
  obtain ⟨f, continues, rfl⟩ := h
  have keeps : ∀ a, (f a).sbuf = a.sbuf := fun a => by rw [(continues a).1]
  simp only [State.modTeam, State.modGroup, Group.modTeam, modWhere, List.map_map]
  refine List.map_congr_left fun g _ => ?_
  dsimp only [Function.comp_apply]
  split
  · simp only [List.map_map]
    refine List.map_congr_left fun a _ => ?_
    dsimp only [Function.comp_apply]
    split
    · exact keeps a
    · rfl
  · rfl

/-- An ACCESS team of one running lane. -/
def poppingTeam : Team := teamReset 0 .access 1 96 0

/-- A queue of one lane that ACCESS teams drain, with one visible entry. -/
def filledQueue : Queue :=
  { num := 0, fmt := .fp32, depth := 8, width := 1, producer := .access, consumer := .access, state := .opened, ended := false,
    entries := [entryOf 0 0 [0] 0], nextId := 1, inFlight := 0, cancelled := 0, flushed := 0 }

/-- A group with two teams under one number, of which the second has issued one word more. -/
def twinTeams : Group :=
  { groupReset 0 0 0 0 0 0 1 0 [poppingTeam, { poppingTeam with seqNo := 1 }] with queues := [filledQueue] }

/-- A machine of that group alone. -/
def twinTeamState : State := { State.reset with cur := some { uid := 0, tid := 0 }, groups := [twinTeams] }

/-- The issue of a word of the first team. -/
def twinTeamIss : Iss := { s := twinTeamState, r := { uid := 0, tid := 0 }, g := twinTeams, t := poppingTeam }

theorem issueOf_twinTeamState : issueOf (.stq 0 0 0 2) twinTeamState = some twinTeamIss := by rfl

/-- Refutes O32: STQ numbers a store by the count of the team whose buffer it enters, the statement by that of the issuing team,
and they differ where a second team of the group bears the same number. -/
theorem not_queueMemory : ¬ Obligations.QueueMemory := by
  unfold Obligations.QueueMemory
  rintro ⟨-, stq⟩
  obtain ⟨-, -, pops⟩ := stq 0 0 0 2 twinTeamState twinTeamIss filledQueue issueOf_twinTeamState rfl
  obtain ⟨-, -, pops⟩ := pops rfl (by unfold Claim.laneOk; decide)
  obtain ⟨-, pops⟩ := pops (by decide) (by decide) _ [] rfl
  obtain ⟨t, run, stated⟩ := pops (by decide)
  have ran : execStq 0 0 0 2 twinTeamState = .next t := run
  rw [execStq, issue_of issueOf_twinTeamState] at ran
  obtain rfl := Host.Outcome.next.inj ran
  have same := (movesOn_sbufs (conclude_ok (.stq 0 0 0 2) twinTeamIss _)).symm.trans (movesOn_sbufs stated)
  exact absurd same (by decide)

end Sys2Proof.Machine

/-!
SUPPORT. Fences (R253, R258 to R262, R267): words that wait for the team's loads, words that release, and what an acquire leaves as it
was (R251, R266).
-/

namespace Sys2Proof.Machine

open Sys2Proof

/-! ### A team other than the one that changes -/

/-- What is found under a test that no changed element passes, before its change or after. -/
theorem find?_modWhere_other {α : Type} {p q : α → Bool} {f : α → α}
    (apart : ∀ a, p a = true → q a = false ∧ q (f a) = false) (l : List α) : (modWhere l p f).find? q = l.find? q := by
  induction l with
  | nil => rfl
  | cons a l ih =>
    simp only [modWhere] at ih ⊢
    by_cases here : p a = true
    · simp [here, apart a here, ih]
    · simp [List.find?_cons, here, ih]

theorem Group.team?_modTeam_other {n k : ℕ} (other : n ≠ k) {f : Team → Team} (keeps : ∀ t, (f t).tid = t.tid) (g : Group) :
    (g.modTeam k f).team? n = g.team? n :=
  find?_modWhere_other (fun t here => by
    obtain rfl : t.tid = k := by simpa using here
    simp [keeps, other.symm]) g.teams

theorem State.team?_modTeam_other {q r : TeamRef} (other : q ≠ r) {f : Team → Team} (keeps : ∀ t, (f t).tid = t.tid) (s : State) :
    (s.modTeam r f).team? q = s.team? q := by
  by_cases sameGroup : q.uid = r.uid
  · have otherTeam : q.tid ≠ r.tid := fun same => other (by cases q; cases r; simp_all)
    rw [State.team?, State.team?, sameGroup, State.group?_modTeam]
    cases s.group? r.uid with
    | none => rfl
    | some g => exact Group.team?_modTeam_other otherTeam keeps g
  · have still : (s.modTeam r f).group? q.uid = s.group? q.uid :=
      State.group?_modGroup_other sameGroup (f := fun g => g.modTeam r.tid f) (fun _ => rfl) s
    rw [State.team?, State.team?, still]

/-! ### Acquires (R251, R266) -/

theorem State.acquire_of {s : State} {r : TeamRef} {g : Group} (hg : s.group? r.uid = some g) :
    s.acquire r = (s.acquiredOn g.core).modTeam r fun t => t.acquired s.vers g.vers := by
  simp only [State.acquire, hg]

/-- What an acquire does: to its team, to no other team, and to its core alone. -/
theorem State.acquire_spec {s : State} {r : TeamRef} {g : Group} {t : Team} (hg : s.group? r.uid = some g) (ht : g.team? r.tid = some t)
    (q : TeamRef) :
    (s.acquire r).team? r = some (t.acquired s.vers g.vers) ∧ (q ≠ r → (s.acquire r).team? q = s.team? q) ∧
    (s.acquire r).mem = s.mem ∧ (s.acquire r).hostMem = s.hostMem ∧ (s.acquire r).past = s.past ∧
    (s.acquire r).cores = modAt s.cores g.core fun k => { k with acqAt := s.vers } := by
  have keeps : ∀ t : Team, (t.acquired s.vers g.vers).tid = t.tid := fun _ => rfl
  have same (q : TeamRef) : (s.acquiredOn g.core).team? q = s.team? q := State.team?_of_groups rfl q
  rw [State.acquire_of hg]
  refine ⟨?_, fun other => ?_, rfl, rfl, rfl, rfl⟩
  · rw [State.team?_modTeam keeps, same, State.team?, hg]
    exact congrArg _ ht
  · rw [State.team?_modTeam_other other keeps, same]

/-! ### Words that wait for the team's loads (R259, R267) -/

theorem Iss.afterLoads_unread {x : Iss} (unread : x.t.unread = true) (k : Act) : x.afterLoads k = .hold x.s := if_pos unread

theorem Iss.afterLoads_read {x : Iss} (read : x.t.unread = false) (k : Act) : x.afterLoads k = k := if_neg (ne_true_of_eq_false read)

section
variable {s : State} {x y : Iss}

theorem exec_acqc_waits (h : issueOf .acqc s = some x) :
    exec .acqc s = .next (conclude .acqc x (x.afterLoads (.ok (x.s.acquire x.r)))) :=
  issue_of h fun x => x.afterLoads (.ok (x.s.acquire x.r))

theorem exec_fenceL_waits (h : issueOf .fenceL s = some x) :
    exec .fenceL s = .next (conclude .fenceL x (x.afterLoads (x.okTeam x.t.freezeAll))) :=
  issue_of h fun x => x.afterLoads (x.okTeam x.t.freezeAll)

/-- ACQ and FENCE.L hold their team while a load of it is not performed. -/
theorem exec_loadFence_held {i : Instr} (named : i = .acqc ∨ i = .fenceL) (h : issueOf i s = some x) (unread : x.t.unread = true) :
    exec i s = .next (Claim.held x x.s) := by
  rcases named with rfl | rfl
  · rw [exec_acqc_waits h, Iss.afterLoads_unread unread]
    rfl
  · rw [exec_fenceL_waits h, Iss.afterLoads_unread unread]
    rfl

/-! ### Words that release (R258, R260, R262, R267) -/

/-- What FENCE.H does once its own release is done (R260). -/
def Iss.fenceAll (y : Iss) : Act :=
  let u := (y.s.teamsOf y.g.part).foldl State.drain y.s
  if u.drained y.g.part then .ok (u.acquireAll y.g.part) else .hold u

/-- What REL, FENCE.E and FENCE.H do once their release is done. -/
def releaseFence : Instr → Option (Iss → Act)
  | .relc => some fun y => .ok y.s
  | .fenceE => some fun y => .ok (y.s.fenceStores y.r)
  | .fenceH => some Iss.fenceAll
  | _ => none

theorem exec_releaseFence {i : Instr} {k : Iss → Act} (fence : releaseFence i = some k) (h : issueOf i s = some x) :
    exec i s = .next (conclude i x (x.release k)) := by
  unfold releaseFence at fence
  split at fence
  case h_4 => cases fence
  all_goals
    cases fence
    exact issue_of h fun x => x.release _

/-- A releasing word whose stores are performed does what it does after its release. -/
theorem exec_releaseFence_of {i : Instr} {k : Iss → Act} (fence : releaseFence i = some k) (h : issueOf i s = some x)
    (hy : releasedBy x = some y) : exec i s = .next (conclude i x (k y)) := by
  rw [exec_releaseFence fence h, release_of hy]

theorem exec_fenceE_fences (h : issueOf .fenceE s = some x) (hy : releasedBy x = some y) :
    ∃ t, exec .fenceE s = .next t ∧ MovesOn (y.s.fenceStores x.r) t x := by
  obtain ⟨same, -⟩ := releasedBy_issuer h hy
  exact exec_movesOn (exec_releaseFence_of rfl h hy) (by rw [same])

end

/-- Settles O22, clause by clause: loads, own stores, the partition's stores, and the acquire. -/
theorem fences : Obligations.Fences := by
  unfold Obligations.Fences
  refine ⟨fun _ _ _ => exec_loadFence_held, fun s x h read => ?_, fun s x h read => ?_,
    fun i s x named h => ?_, fun s x y h hy => exec_movesOn (exec_releaseFence_of rfl h hy) rfl,
    fun _ _ _ => exec_fenceE_fences, fun s x y h hy => ⟨fun drained => ?_, fun waits => ?_⟩,
    fun s r q g t hg ht => State.acquire_spec hg ht q⟩
  · exact exec_movesOn (exec_acqc_waits h) (Iss.afterLoads_read read _)
  · exact exec_steps (exec_fenceL_waits h) h (Iss.afterLoads_read read _) rfl
  · rcases named with rfl | rfl | rfl
    all_goals exact unreleased_of (exec_releaseFence rfl h)
  · exact exec_movesOn (exec_releaseFence_of rfl h hy) (if_pos drained)
  · rw [exec_releaseFence_of rfl h hy, Iss.fenceAll, if_neg (ne_true_of_eq_false waits)]
    rfl

end Sys2Proof.Machine

/-!
SUPPORT. A store at its home slice (R254, R257, R296, R297, R313): what leaving the buffer comes to by how the store's address translates,
and what taking a place in the slice's queue changes.
-/

namespace Sys2Proof.Machine

open Sys2Proof

/-! ### The oldest store of a buffer, by its translation -/

section
variable {s u : State} {r : TeamRef} {g : Group} {t : Team} {c : Ctx} {e : StoreEntry} {rest : List StoreEntry}
  (hg : s.group? r.uid = some g) (ht : g.team? r.tid = some t) (hc : s.ctxOf g = some c) (oldest : t.sbuf = e :: rest)
include hg ht hc oldest

theorem State.drainOne_waits (waits : t.storeWaits e = true) : s.drainOne r = s := by
  simp only [State.drainOne, hg, ht, hc, oldest, waits, if_true]

variable (goes : t.storeWaits e = false)
include goes

theorem State.drainOne_performs {host : Bool} {pa atom : ℕ} (found : s.xlate c .write e.va = (.ok host pa atom, u)) :
    s.drainOne r = ((u.takeStore g.core r c e).writeAs (some r) (some (nameOf c.asid e.va pa)) host pa e.bytes).modTeam r
      fun w => { w with sbuf := rest } := by
  simp only [State.drainOne, hg, ht, hc, oldest, goes, found, Bool.false_eq_true, if_false]

/-- A store that faults, or whose page is compressed, waits in the replay set (R296, R307). -/
theorem State.drainOne_parks {res : XRes} (found : s.xlate c .write e.va = (res, u))
    (stops : (∃ reason level, res = .fault reason level) ∨ ∃ pte, res = .expand pte) :
    s.drainOne r = u.modTeam r fun w => w.addItem (w.storeItem e) := by
  rcases stops with ⟨reason, level, rfl⟩ | ⟨pte, rfl⟩
  all_goals simp only [State.drainOne, hg, ht, hc, oldest, goes, found, Bool.false_eq_true, if_false]

theorem State.drainOne_bad (found : s.xlate c .write e.va = (.bad, u)) : s.drainOne r = u.badAccess g t := by
  simp only [State.drainOne, hg, ht, hc, oldest, goes, found, Bool.false_eq_true, if_false]

/-- The store's home slice takes it at once where it has room and none of the team's earlier requests to it waits (R313, R314). -/
theorem State.sliceTakes_iff {pt : Partition} (hp : s.part? c.part = some pt) :
    s.sliceTakes g.core r (homeOf pt c.asid e.va) = true ↔ s.sliceFill (homeOf pt c.asid e.va) < 32 ∧
      ∀ k, s.core? g.core = some k → ∀ a ∈ k.reqs, a.accepted = true ∨ a.team ≠ r ∨ a.home ≠ homeOf pt c.asid e.va := by
  have ready : t.storeReady = true := by simp [Team.storeReady, oldest, goes]
  have taken : s.storeTaken r = s.sliceTakes g.core r (homeOf pt c.asid e.va) := by
    simp [State.storeTaken, State.storeFits, hg, ht, hc, hp, oldest, ready]
  rw [← taken, State.storeTaken_iff hg ht hc oldest hp]
  exact and_iff_right ready

end

/-! ### The place of a store in its slice's queue -/

theorem State.sliceFreed_eq (s : State) (core : ℕ) (r : TeamRef) (home : ℕ × ℕ) :
    s.sliceFreed core r home = { s with cores := (s.sliceFreed core r home).cores } := by
  unfold State.sliceFreed
  split <;> rfl

/-- Making room at a slice looks at the queues of requests alone. -/
theorem State.sliceFreed_cores {s t : State} (same : t.cores = s.cores) (core : ℕ) (r : TeamRef) (home : ℕ × ℕ) :
    (t.sliceFreed core r home).cores = (s.sliceFreed core r home).cores := by
  have takes : t.sliceTakes core r home = s.sliceTakes core r home := by
    rw [State.sliceTakes, State.sliceTakes, State.sliceFill, State.sliceFill, State.core?, State.core?, same]
  rw [State.sliceFreed, State.sliceFreed, takes]
  split
  · exact same
  · simp only [State.sliceEmptied, same]

theorem State.takeStore_eq (s : State) (core : ℕ) (r : TeamRef) (c : Ctx) (e : StoreEntry) :
    s.takeStore core r c e = { s with cores := (s.takeStore core r c e).cores } := by
  unfold State.takeStore
  split
  · rfl
  · rw [State.sliceFreed_eq]
    rfl

theorem State.takeStore_cores {s : State} {c : Ctx} {pt : Partition} (hp : s.part? c.part = some pt) (core : ℕ) (r : TeamRef)
    (e : StoreEntry) : (s.takeStore core r c e).cores = modAt (s.sliceFreed core r (homeOf pt c.asid e.va)).cores core fun k =>
      { k with reqs := k.reqs ++ [requestAt pt c r e.seq true (e.lane, e.va)] } := by
  simp only [State.takeStore, hp]
  rfl

@[simp] theorem State.xlate_ctxs (s : State) (c : Ctx) (k : Access) (va : ℕ) : (s.xlate c k va).2.ctxs = s.ctxs := by
  obtain ⟨_, _, _, _, is⟩ := s.xlate_rest c k va
  rw [is]

@[simp] theorem State.xlate_cores (s : State) (c : Ctx) (k : Access) (va : ℕ) : (s.xlate c k va).2.cores = s.cores := by
  obtain ⟨_, _, _, _, is⟩ := s.xlate_rest c k va
  rw [is]

/-- Translating changes no partition but for its TLBs, and the home of no address. -/
theorem State.xlate_part {s : State} {c : Ctx} {pt : Partition} (hp : s.part? c.part = some pt) (k : Access) (va : ℕ) :
    ∃ tlb, (s.xlate c k va).2.part? c.part = some { pt with tlb := tlb } := by
  unfold State.xlate
  rw [hp]
  dsimp only
  split
  · exact ⟨_, hp⟩
  · split
    · exact ⟨_, hp⟩
    · exact ⟨_, hp⟩
    · split
      · refine ⟨_, (State.part?_modPart ..).trans (congrArg (Option.map _) (?_ : _ = some pt))⟩
        split <;> exact hp
      · exact ⟨_, hp⟩

/-- A store that translates takes a place of its home slice's queue, freed before where there was none (R313, R314). -/
theorem State.takeStore_translated {s u : State} {c : Ctx} {e : StoreEntry} {res : XRes} (found : s.xlate c .write e.va = (res, u))
    {pt : Partition} (hp : s.part? c.part = some pt) (core : ℕ) (r : TeamRef) : (u.takeStore core r c e).cores =
      modAt (s.sliceFreed core r (homeOf pt c.asid e.va)).cores core fun k =>
        { k with reqs := k.reqs ++ [requestAt pt c r e.seq true (e.lane, e.va)] } := by
  obtain ⟨tlb, there⟩ := State.xlate_part hp .write e.va
  have same := s.xlate_cores c .write e.va
  rw [found] at there same
  rw [State.takeStore_cores there]
  exact congrArg (modAt · core _) (State.sliceFreed_cores same core r _)

/-! ### What a store leaves of memory -/

/-- Bytes written stand where they were written. -/
theorem memRead_writeN_inside {m : Memory} (wf : Memory.wf m = true) (a : ℕ) {bs : List Byte} {k : ℕ} (inside : k < bs.length) :
    memRead (memWriteN m a bs) (a + k) = bs.getD k 0 := by
  rw [memRead_writeN _ _ _ _ wf, if_pos (by omega), Nat.add_sub_cancel_left]

theorem memRead_writeN_apart {m : Memory} (wf : Memory.wf m = true) {a k : ℕ} {bs : List Byte} (apart : k < a ∨ a + bs.length ≤ k) :
    memRead (memWriteN m a bs) k = memRead m k := by
  rw [memRead_writeN _ _ _ _ wf, if_neg (by omega)]

/-- A store that translates is one numbered write of its team, takes a place at its slice and leaves the buffer. -/
theorem State.drainOne_eq {s u : State} {r : TeamRef} {g : Group} {t : Team} {c : Ctx} {e : StoreEntry} {rest : List StoreEntry}
    (hg : s.group? r.uid = some g) (ht : g.team? r.tid = some t) (hc : s.ctxOf g = some c) (oldest : t.sbuf = e :: rest)
    (goes : t.storeWaits e = false) {host : Bool} {pa atom : ℕ} (found : s.xlate c .write e.va = (.ok host pa atom, u)) :
    s.drainOne r = { (u.modTeam r fun w => { w with sbuf := rest }).writeAs (some r) (some (nameOf c.asid e.va pa)) host pa e.bytes with
      cores := (u.takeStore g.core r c e).cores } := by
  rw [State.drainOne_performs hg ht hc oldest goes found, State.takeStore_eq]
  rfl

/-- Settles O27, case by case: a store that waits, translates, stops at its page, or may not reach its bytes. -/
theorem storeReachesHome : Obligations.StoreReachesHome := by
  unfold Obligations.StoreReachesHome
  refine fun s r g t c e rest hg ht hc oldest => ⟨State.drainOne_waits hg ht hc oldest, fun goes =>
    ⟨fun host pa atom u found wfMem wfHost => ?_, fun res u found stops => State.drainOne_parks hg ht hc oldest goes found stops,
      fun u found => State.drainOne_bad hg ht hc oldest goes found⟩⟩
  have ctxs := s.xlate_ctxs c .write e.va
  rw [found] at ctxs
  dsimp only
  rw [State.drainOne_eq hg ht hc oldest goes found]
  refine ⟨fun k inside => ?_, fun a apart => ?_, ?_, rfl, rfl, rfl, ctxs, fun pt hp => ?_⟩
  · cases host
    · exact memRead_writeN_inside wfMem pa inside
    · exact memRead_writeN_inside wfHost pa inside
  · cases host
    · exact memRead_writeN_apart wfMem apart
    · exact memRead_writeN_apart wfHost apart
  · cases host <;> rfl
  · rw [← State.sliceTakes_iff hg ht hc oldest goes hp]
    refine ⟨fun free => ?_, fun full => ?_⟩
    · exact (State.takeStore_translated found hp g.core r).trans (by rw [State.sliceFreed, if_pos free]; rfl)
    · exact (State.takeStore_translated found hp g.core r).trans (by rw [State.sliceFreed, if_neg full]; rfl)

end Sys2Proof.Machine

/-!
SUPPORT. Pages and banks (R266, R300 to R307, R318, R408): what posting a request, an answer, an expansion, an ageing period and an access
of the host come to.
-/

namespace Sys2Proof.Machine

open Sys2Proof

/-! ### Requests and answers (R300 to R302) -/

/-- A change of one function matters by what it makes of that function alone. -/
theorem State.modFunc_congr {s : State} {n : ℕ} {f : Function} {k l : Function → Function} (there : s.funcs[n]? = some f)
    (same : k f = l f) : s.modFunc n k = s.modFunc n l := by
  simp only [State.modFunc, modAt, there, same]

theorem Function.postPage_of_room {f : Function} (room : 0 < f.ringRoom) (p : PageRec) :
    f.postPage p = { f with pageRing := f.pageRing ++ [p], ringRoom := f.ringRoom - 1, msix := f.msix ++ [0] } :=
  if_neg (Nat.ne_of_gt room)

section
variable {s : State} {part tag : ℕ}

/-- A request of the host that waits is posted once the ring has room. -/
theorem exec_pageRequest_posts {pt : Partition} {q : PageReq} {f : Function} (hp : s.part? part = some pt)
    (hq : pt.requests.find? (fun q => q.tag == tag) = some q) (waits : q.posted = false) (host : q.reason ≠ 0)
    (hf : s.funcs[s.fnOf part]? = some f) (room : 0 < f.ringRoom) (live : s.dev.heldInReset = false) :
    exec (.pageRequest part tag) s = .next ((s.modFunc (s.fnOf part) fun f => { f with
        pageRing := f.pageRing ++ [requestRec q s.clk], ringRoom := f.ringRoom - 1, msix := f.msix ++ [0] }).modPart part fun p => { p with
      requests := modWhere p.requests (fun r => r.tag == tag) fun r => { r with posted := true } }) := by
  have passes : (q.posted || q.reason == 0 || f.ringRoom == 0 || s.dev.heldInReset) = false := by
    simp [waits, host, live, Nat.ne_of_gt room]
  simp only [exec, execPageRequest, hp, hq, hf, Option.bind_some, Option.map_some, Option.getD_some, passes, Bool.false_eq_true, if_false]
  congr 2
  exact State.modFunc_congr hf (Function.postPage_of_room room _)

/-- No request is posted while its ring is full or the part is held in reset. -/
theorem exec_pageRequest_stays (shut : (∃ f, s.funcs[s.fnOf part]? = some f ∧ f.ringRoom = 0) ∨ s.dev.heldInReset = true) :
    exec (.pageRequest part tag) s = .next s := by
  dsimp only [exec, execPageRequest]
  split
  · rfl
  · refine if_pos ?_
    rcases shut with ⟨f, hf, full⟩ | held
    · simp [hf, full]
    · simp [held]

/-- A part that is held in reset expands, ages and compresses nothing (R433). -/
theorem exec_pageEngine_held (held : s.dev.heldInReset = true) : exec (.expansionDone part tag) s = .next s ∧
    exec (.ageingPeriod part) s = .next s ∧ exec (.compressVictim part) s = .next s := by
  refine ⟨if_pos held, if_pos held, ?_⟩
  dsimp only [exec, execCompressVictim]
  split
  · rfl
  · exact if_neg (by simp [held])

end

/-- An answer is for a posted, unanswered request of a live context of its GEN (R302). -/
theorem State.answered_of {s : State} {fn id gen : ℕ} {c : Ctx} (hc : s.answerCtx fn id = some c) (tag : ℕ) :
    ((c.gen ≠ gen ∨ c.state = .error ∨ c.state = .killed) → s.answered fn id gen tag = none) ∧
    (c.gen = gen → c.state ≠ .error → c.state ≠ .killed → ∀ pt, s.part? c.part = some pt → s.answered fn id gen tag =
      pt.requests.find? fun q => q.tag == tag && q.ctxid == id && q.gen == gen && q.posted && q.answer.isNone) := by
  simp only [State.answered, hc]
  refine ⟨fun stale => if_pos stale, fun same notError notKilled pt hp => ?_⟩
  rw [if_neg (by simp [same, notError, notKilled]), hp]
  rfl

section
variable {s : State} {fn : ℕ} {bs : List Byte}

theorem exec_answerRecord_unlinked (down : s.dev.hostLink = false) : exec (.answerRecord fn bs) s = .next s :=
  if_pos (by simp [down])

variable (up : s.dev.hostLink = true)
include up

theorem exec_answerRecord_stale (stale : s.answered fn (fieldAt bs 0 2) (fieldAt bs 2 2) (fieldAt bs 4 4) = none) :
    exec (.answerRecord fn bs) s = .next (s.modFunc fn fun f => { f.ringTaken with staleAns := f.staleAns + 1 }) := by
  simp only [exec, execAnswerRecord, up, stale, Bool.not_true, Bool.false_eq_true, if_false]

variable {q : PageReq} (hq : s.answered fn (fieldAt bs 0 2) (fieldAt bs 2 2) (fieldAt bs 4 4) = some q)
include hq

theorem exec_answerRecord_ready (ready : fieldAt bs 8 1 = 0) : exec (.answerRecord fn bs) s =
    .next ((((s.modFunc fn Function.ringTaken).dropTlb q.part q.asid q.va).answerReq q true).serveWaiting).moved := by
  simp only [exec, execAnswerRecord, up, hq, ready, Bool.not_true, Bool.false_eq_true, if_false, beq_self_eq_true, if_true]

theorem exec_answerRecord_failed (failed : fieldAt bs 8 1 ≠ 0) : exec (.answerRecord fn bs) s =
    .next (((s.modFunc fn Function.ringTaken).answerReq q false).serveWaiting).moved := by
  simp only [exec, execAnswerRecord, up, hq, beq_false_of_ne failed, Bool.not_true, Bool.false_eq_true, if_false]

end

theorem Function.ringTaken_of_none {f : Function} (none : f.stalePend = []) :
    f.ringTaken = { f with pageRing := [], ringRoom := f.ringRoom + f.pageRing.length } := by
  rw [Function.ringTaken, none, List.foldl_nil]

/-! ### Leaves of 64 KiB (R291) -/

theorem pteWith_eq_entry (e pa : ℕ) (cmp acc : Bool) (age : ℕ) : leBytes 8 (pteWith e pa cmp acc age) =
    Claim.entry e pa cmp acc age := by
  simp only [pteWith, Claim.entry, bitsOf, pow_zero, Nat.div_one, Nat.reducePow]

theorem State.smallLeaf_of {s : State} {c : Ctx} {va pte e : ℕ} (leaf : Claim.leaf s c va pte e) : s.smallLeaf c va = some (pte, e) := by
  have walk : s.walk c va = .leaf 1 pte e := leaf
  simp only [State.smallLeaf, walk]

/-! ### Expansions (R307) -/

section
variable {s : State} {part tag : ℕ} {pt : Partition} {q : PageReq} {c : Ctx} {pte e : ℕ} (hp : s.part? part = some pt)
  (hq : pt.requests.find? (fun q => q.tag == tag && q.reason == 0 && q.answer.isNone) = some q) (hc : s.ctx? part q.ctxid = some c)
  (live : s.dev.heldInReset = false) (leaf : Claim.leaf s c q.va pte e)
include hp hq hc live leaf

theorem exec_expansionDone_expanded (whole : bitOf e 6 = false) :
    exec (.expansionDone part tag) s = .next ((s.answerReq q true).serveWaiting).moved := by
  simp only [exec, execExpansionDone, live, hp, hq, hc, State.smallLeaf_of leaf, whole, Bool.false_eq_true, if_false,
    Bool.not_false, if_true]

variable (compressed : bitOf e 6 = true)
include compressed

theorem exec_expansionDone_expands {f : ℕ} {rest : List ℕ} {r : CompRec} (free : pt.freeFrames = f :: rest)
    (hr : pt.comp.find? (fun r => r.pa == bitsOf e 16 44 * 65536) = some r) :
    exec (.expansionDone part tag) s = .next ((((({ s with mem := memPaste s.mem f 65536 r.data }.closeFrame f 65536).writePhys false pte
      (Claim.entry e f false true 0)).modPart part fun p => { p with
        freeFrames := rest, comp := p.comp.filter fun x => x.pa != r.pa }).answerReq q true).serveWaiting).moved := by
  simp only [exec, execExpansionDone, live, hp, hq, hc, State.smallLeaf_of leaf, compressed, free, hr, pteWith_eq_entry,
    Bool.false_eq_true, if_false, Bool.not_true]

/-- Without a free frame the host is asked, unless nothing waits for the page. -/
theorem exec_expansionDone_noFrame (none : pt.freeFrames = []) : exec (.expansionDone part tag) s =
    if q.waiters.isEmpty then .next (s.dropReq part tag).moved
    else .next (s.modPart part fun p => { p with
      requests := modWhere p.requests (fun r => r.tag == tag) fun r => { r with reason := 4, posted := false } }) := by
  simp only [exec, execExpansionDone, live, hp, hq, hc, State.smallLeaf_of leaf, compressed, none, Bool.false_eq_true, if_false,
    Bool.not_true]

end

/-! ### Ageing and compression (R305, R306) -/

section
variable {s : State} {part : ℕ} {c : Ctx} {va pte e : ℕ} (leaf : Claim.leaf s c va pte e)
include leaf

theorem State.agePage_never (never : s.neverAged part c va e = true) : s.agePage part c va = s := by
  simp only [State.agePage, State.smallLeaf_of leaf, never, if_true]

variable (aged : s.neverAged part c va e = false)
include aged

/-- A page accessed since its last ageing: A and AGE are cleared, and its translations dropped. -/
theorem State.agePage_accessed (accessed : bitOf e 7 = true) : s.agePage part c va =
    (s.writePhys false pte (Claim.entry e (bitsOf e 16 44 * 65536) (bitOf e 6) false 0)).dropTlb part (asidTag c.asid va) va := by
  simp only [State.agePage, State.smallLeaf_of leaf, aged, accessed, pteWith_eq_entry, Bool.false_eq_true, if_false, if_true]

/-- Any other page grows older. -/
theorem State.agePage_idle_mem (idle : bitOf e 7 = false) : (s.agePage part c va).mem =
    (s.writePhys false pte (Claim.entry e (bitsOf e 16 44 * 65536) (bitOf e 6) false (min 15 (bitsOf e 8 4 + 1)))).mem := by
  simp only [State.agePage, State.smallLeaf_of leaf, aged, idle, pteWith_eq_entry, Bool.false_eq_true, if_false, min_comm 15]
  split <;> rfl

end

theorem exec_ageingPeriod_ages {s : State} (part : ℕ) (live : s.dev.heldInReset = false) : exec (.ageingPeriod part) s =
    let u := s.modPart part fun p => { p with periods := p.periods + 1, ageClk := s.clk }
    .next ((u.agedPages part).foldl (fun s p => s.agePage part p.1 p.2) u) := if_neg (ne_true_of_eq_false live)

section
variable {s : State} {part : ℕ} {pt : Partition} (hp : s.part? part = some pt)
include hp

theorem exec_compressVictim_low (low : pt.freeFrames.length < pt.low) (live : s.dev.heldInReset = false) : exec (.compressVictim part) s =
    .next (s.compressTo part (((s.agedPages part).filterMap (s.victimOf part pt)).foldl (fun l v => insertVictim v l) [])) := by
  simp only [exec, execCompressVictim, hp, low, live, decide_true, Bool.not_false, Bool.and_self, if_true]

theorem exec_compressVictim_full (full : pt.low ≤ pt.freeFrames.length) : exec (.compressVictim part) s = .next s := by
  simp only [exec, execCompressVictim, hp, Nat.not_lt.mpr full, decide_false, Bool.false_and, Bool.false_eq_true, if_false]

end

/-! ### The host's accesses (R266, R408) -/

/-- An access of the host reaches its bytes: in its own memory always, in device memory over the link where enabled stacks back them. -/
def State.hostReaches (s : State) (host : Bool) (pa n : ℕ) : Prop :=
  host = true ∨ (s.dev.hostLink = true ∧ s.dev.heldInReset = false ∧ s.backed pa = true ∧ (n = 0 ∨ s.backed (pa + n - 1) = true))

@[simp] theorem State.readPhys_length (s : State) (host : Bool) (pa n : ℕ) : (s.readPhys host pa n).length = n := by
  simp [State.readPhys, memReadN_eq_map]

section
variable {s : State} {op : ℕ} {host : Bool} {pa : ℕ} {data : List Byte}

theorem State.hostReaches_iff (n : ℕ) : s.hostReaches host pa n ↔
    (!host && !(s.dev.hostLink && !s.dev.heldInReset && s.backed pa && (n == 0 || s.backed (pa + n - 1)))) = false := by
  cases host <;> simp [State.hostReaches, and_assoc, or_iff_not_imp_left]

theorem exec_hostMemoryRequest_beyond (beyond : ¬s.hostReaches host pa (hostBytes op data)) :
    exec (.hostMemoryRequest op host pa data) s = .next s := by
  rw [State.hostReaches_iff, Bool.not_eq_false] at beyond
  exact if_pos beyond

variable (reached : s.hostReaches host pa (hostBytes op data))
include reached

theorem exec_hostMemoryRequest_reads (reads : op = 0) : exec (.hostMemoryRequest op host pa data) s = .next s := by
  subst reads
  exact if_neg (ne_true_of_eq_false ((State.hostReaches_iff _).mp reached))

theorem exec_hostMemoryRequest_writes (writes : op = 1) :
    exec (.hostMemoryRequest op host pa data) s = .next (s.writePhys host pa data).moved := by
  subst writes
  exact if_neg (ne_true_of_eq_false ((State.hostReaches_iff _).mp reached))

/-- An AtomicOp of a size that the port carries leaves its new bytes. -/
theorem exec_hostMemoryRequest_atomic
    (carried : ((op = 2 ∨ op = 3) ∧ (hostBytes op data = 4 ∨ hostBytes op data = 8)) ∨
      (op = 4 ∧ (hostBytes op data = 4 ∨ hostBytes op data = 8 ∨ hostBytes op data = 16))) :
    exec (.hostMemoryRequest op host pa data) s =
      .next (s.writePhys host pa (hostAtomic op (s.readPhys host pa (hostBytes op data)) data)).moved := by
  have passes := ne_true_of_eq_false ((State.hostReaches_iff _).mp reached)
  rcases carried with ⟨rfl | rfl, size⟩ | ⟨rfl, size⟩
  all_goals exact (if_neg passes).trans (if_pos size)

end

theorem hostAtomic_add (old data : List Byte) : hostAtomic 2 old data = leBytes old.length (leNat old + leNat data) := rfl

theorem hostAtomic_swap (old data : List Byte) : hostAtomic 3 old data = data := rfl

theorem hostAtomic_cas (old data : List Byte) :
    hostAtomic 4 old data = if old = data.take old.length then data.drop old.length else old := rfl

/-! ### Banks (R318) -/

theorem exec_bankDrowsy_naps {s : State} {col row bank : ℕ} (here : col < 24 ∧ row < 16 ∧ bank < 16)
    (may : s.drowsyBarred (s.partOfCol col) = false) : exec (.bankDrowsy col row bank) s = .next { s with dev := { s.dev with
      drowsy := s.dev.drowsy.filter (fun d => d != (col, row, bank, false)) ++ [(col, row, bank, false)] } } :=
  if_pos ⟨here.1, here.2.1, here.2.2, may⟩

/-- Settles O50, clause by clause: requests, answers, expansions, ageing, compression, the host's accesses, banks. -/
theorem pageEvents : Obligations.PageEvents := by
  unfold Obligations.PageEvents
  refine ⟨fun _ _ _ _ _ _ => exec_pageRequest_posts, fun _ _ _ => exec_pageRequest_stays, fun _ _ _ => exec_pageEngine_held,
    fun _ _ _ _ tag _ hc => State.answered_of hc tag, fun _ _ _ => exec_answerRecord_unlinked,
    fun s fn bs up => ⟨exec_answerRecord_stale up, fun q hq => ⟨exec_answerRecord_ready up hq, exec_answerRecord_failed up hq⟩⟩,
    fun _ => Function.ringTaken_of_none, fun s part tag pt q c pte e hp hq hc live leaf =>
      ⟨exec_expansionDone_expanded hp hq hc live leaf, fun compressed =>
        ⟨fun f rest r free hr => exec_expansionDone_expands hp hq hc live leaf compressed free hr,
          fun none => ⟨fun some => ?_, fun gone => ?_⟩⟩⟩,
    fun _ => exec_ageingPeriod_ages, fun s part c va pte e leaf =>
      ⟨State.agePage_never leaf, fun aged => ⟨State.agePage_accessed leaf aged, State.agePage_idle_mem leaf aged⟩⟩,
    fun _ _ _ => exec_compressVictim_low, fun _ _ _ => exec_compressVictim_full,
    fun s op pa host data => ⟨exec_hostMemoryRequest_beyond, fun reached =>
      ⟨exec_hostMemoryRequest_reads reached, exec_hostMemoryRequest_writes reached,
        fun add size => ?_, fun swap size => ?_, fun cas size => ?_⟩⟩,
    fun s col row bank => ⟨fun c r b may => exec_bankDrowsy_naps ⟨c, r, b⟩ may, rfl⟩⟩
  · rw [exec_expansionDone_noFrame hp hq hc live leaf compressed none, if_neg (by simpa using some)]
  · rw [exec_expansionDone_noFrame hp hq hc live leaf compressed none, if_pos (by simpa using gone)]
    rfl
  · rw [exec_hostMemoryRequest_atomic reached (.inl ⟨.inl add, size⟩)]
    subst add
    rw [hostAtomic_add, State.readPhys_length]
    rfl
  · rw [exec_hostMemoryRequest_atomic reached (.inl ⟨.inr swap, size⟩)]
    subst swap
    rfl
  · rw [exec_hostMemoryRequest_atomic reached (.inr ⟨cas, size⟩)]
    subst cas
    rw [hostAtomic_cas, State.readPhys_length]
    rfl

end Sys2Proof.Machine

/-!
SUPPORT. A counterexample to the statement on MTASK, MWAIT, MSTAT and MCANCEL (R374): a group in which two teams bear one number, which the
statement does not exclude.
-/

namespace Sys2Proof.Machine

open Sys2Proof

/-- A MATRIX team of one running lane. -/
def waitingTeam : Team := teamReset 0 .matrix 1 96 0

/-- A team that bears the number of another and, unlike it, has a store in its buffer. -/
def storingTwin : Team := { waitingTeam with sbuf := [{ seq := 0, pc := 0, lane := 0, va := 0, bytes := [0] }] }

/-- A group of two teams of one number, which has queued one card and holds none. -/
def servedTwins : Group := { groupReset 0 0 0 0 0 0 1 0 [waitingTeam, storingTwin] with nextTask := 1 }

/-- A machine of that group alone. -/
def servedTwinState : State := { State.reset with cur := some { uid := 0, tid := 0 }, groups := [servedTwins] }

/-- The issue of a word of the first team. -/
def servedTwinIss : Iss := { s := servedTwinState, r := { uid := 0, tid := 0 }, g := servedTwins, t := waitingTeam }

theorem issueOf_servedTwinState : issueOf (.mwait 100 101) servedTwinState = some servedTwinIss := by rfl

/-- Refutes O37: MWAIT gives TSTAT to each team found under the issuing team's number, where the statement puts the issuing team
itself in the place of each; they differ where a second team of the group bears the same number and has a store in its buffer. -/
theorem not_taskWords : ¬ Obligations.TaskWords := by
  unfold Obligations.TaskWords
  rintro ⟨-, mwait, -⟩
  obtain ⟨-, -, completes⟩ := mwait 100 101 servedTwinState servedTwinIss issueOf_servedTwinState
  obtain ⟨t, run, stated⟩ := completes (by decide) (by decide) (fun c there => absurd there List.not_mem_nil)
  have ran : execMwait 100 101 servedTwinState = .next t := run
  rw [execMwait, issue_of issueOf_servedTwinState] at ran
  obtain rfl := Host.Outcome.next.inj ran
  have same := (movesOn_sbufs (conclude_ok (.mwait 100 101) servedTwinIss _)).symm.trans (movesOn_sbufs stated)
  exact absurd same (by decide)

end Sys2Proof.Machine

/-!
SUPPORT. Every operation of the machine keeps the canonical form of every memory: the operations in the order of the model, then the
words, the events and the step (log entry 1).
-/

namespace Sys2Proof

open Sys2Proof.Machine

/-! ### Safety of what an operation answers -/

/-- Where an instruction or event leads to a next state, that state is safe. -/
def OutSafe (o : Host.Outcome State Fault Refusal) : Prop := ∀ t, o = .next t → Safe t

/-- The state that an operation answers, where it answers one, is safe. -/
def OptSafe (o : Option State) : Prop := ∀ t, o = some t → Safe t

theorem OutSafe.next {s : State} (h : Safe s) : OutSafe (.next s) := by
  rintro t ⟨⟩
  exact h

theorem OptSafe.none : OptSafe none := nofun

theorem OptSafe.some {s : State} (h : Safe s) : OptSafe (some s) := by
  rintro t ⟨⟩
  exact h

/-- The state of an answer that is known. -/
theorem OptSafe.get {o : Option State} {s : State} (e : o = .some s) (h : OptSafe o) : Safe s := h s e

theorem OptSafe.bind {α : Type} {o : Option α} {f : α → Option State} (hf : ∀ a, OptSafe (f a)) : OptSafe (o.bind f) := by
  cases o with
  | none => exact OptSafe.none
  | some a => exact hf a

theorem OptSafe.bindSafe {o : Option State} {f : State → Option State} (ho : OptSafe o) (hf : ∀ s, Safe s → OptSafe (f s)) :
    OptSafe (o.bind f) := by
  cases o with
  | none => exact OptSafe.none
  | some s => exact hf s (ho s rfl)

theorem OptSafe.map {α : Type} {o : Option α} {f : α → State} (hf : ∀ a, Safe (f a)) : OptSafe (o.map f) := by
  cases o with
  | none => exact OptSafe.none
  | some a => exact OptSafe.some (hf a)

theorem safe_elim {α : Type} {o : Option α} {s : State} {f : α → State} (h : Safe s) (hf : ∀ a, Safe (f a)) :
    Safe (o.elim s f) := by
  cases o with
  | none => exact h
  | some a => exact hf a

/-- The state part of a pair that is known. -/
theorem safe_snd {α : Type} {p : α × State} {s : State} {a : α} (e : p = (a, s)) (h : Safe p.2) : Safe s := by
  rwa [e] at h

/-! ### Groups of a safe state -/

theorem Safe.find_groups {s : State} (h : Safe s) {p : Group → Bool} {g : Group} (hg : s.groups.find? p = some g) :
    Memory.wf g.pad = true := h.2.2.1 g (List.mem_of_find?_eq_some hg)

/-- A fold keeps safe the state that its accumulator carries. -/
theorem safe_foldl_of {α β : Type} (p : β → State) {f : β → α → β} (hf : ∀ b a, Safe (p b) → Safe (p (f b a))) :
    ∀ (l : List α) (b : β), Safe (p b) → Safe (p (l.foldl f b))
  | [], _, h => h
  | a :: l, b, h => safe_foldl_of p hf l (f b a) (hf b a h)

/-- A fold keeps the form of the scratchpad that its accumulator carries. -/
theorem wf_foldl_of {α β : Type} (p : β → Group) {f : β → α → β}
    (hf : ∀ b a, Memory.wf (p b).pad = true → Memory.wf (p (f b a)).pad = true) :
    ∀ (l : List α) (b : β), Memory.wf (p b).pad = true → Memory.wf (p (l.foldl f b)).pad = true
  | [], _, h => h
  | a :: l, b, h => wf_foldl_of p hf l (f b a) (hf b a h)

theorem OutSafe.issue {i : Instr} {s : State} {body : Iss → Act} (h : Safe s)
    (hb : ∀ x : Iss, Safe x.s → Memory.wf x.g.pad = true → (body x).Safe) : OutSafe (issue i s body) := issue_safe h hb

theorem Machine.wf_nil : Memory.wf [] = true := rfl

/-- The state that bytes on the move between a stack's cache and memory have come to is safe. -/
def Machine.Moved.Safe : Moved → Prop
  | .ok s _ => Sys2Proof.Safe s
  | .wait s _ => Sys2Proof.Safe s
  | .bad => True

/-! ### Teams, groups and ports -/

theorem Machine.Group.modTeam_wf {g : Group} (hg : g.pad.wf = true) (tid : Nat) (f : Team → Team) :
    (g.modTeam tid f).pad.wf = true :=
  hg

theorem Safe.modPort {s : State} (h : Safe s) (port : Nat) (f : Port → Port) : Safe (s.modPort port f) :=
  h.same rfl rfl rfl rfl

theorem Safe.freeVal {s : State} (h : Safe s) : Safe s.freeVal.2 := h.same rfl rfl rfl rfl

theorem Machine.Group.forTeam_wf {g : Group} (hg : g.pad.wf = true) (t : Team) : (g.forTeam t).pad.wf = true := by
  unfold Group.forTeam
  split <;> exact hg

/-! ### The issuing word -/

theorem Machine.Iss.put_safe {x : Iss} (h : Safe x.s) (t : Team) : Safe (x.put t) := h.modTeam _ _

theorem Machine.Iss.okTeam_safe {x : Iss} (h : Safe x.s) (t : Team) : (x.okTeam t).Safe := Iss.put_safe h _

theorem Machine.Iss.trapWord_safe (x : Iss) (code : Nat) : (x.trapWord code).Safe := trivial

theorem Machine.issueHint_safe (i : Instr) {s : State} (h : Safe s) (accept : Team → Team) :
    OutSafe (issueHint i s accept) := by
  unfold issueHint
  split
  · exact OutSafe.next h
  split
  · exact OutSafe.next h
  split
  · exact OutSafe.next h
  dsimp only
  split
  · exact OutSafe.next ((h.raiseTrap _ _ _ _).moved)
  · exact OutSafe.next ((h.modTeam _ _).moved)

theorem Machine.execHintImm_safe {s : State} (h : Safe s) (e : BitVec 22) : OutSafe (execHintImm e s) := issueHint_safe _ h _

theorem Machine.execHintStall_safe {s : State} (h : Safe s) (c4 c3 : BitVec 4) (c2 c1 c0 : BitVec 4) :
    OutSafe (execHintStall c4 c3 c2 c1 c0 s) :=
  issueHint_safe _ h _

theorem Machine.execHintMod_safe {s : State} (h : Safe s) (r c : BitVec 3) (x : BitVec 1) : OutSafe (execHintMod r c x s) :=
  issueHint_safe _ h _

theorem Machine.execHintFmt_safe {s : State} (h : Safe s) (a b d : BitVec 4) (sat k : BitVec 1) (x : BitVec 2) :
    OutSafe (execHintFmt a b d sat k x s) :=
  issueHint_safe _ h _

/-! ### Results of the lanes -/

theorem Machine.Iss.lane32_safe {x : Iss} (h : Safe x.s) (d : RegField) (f : Nat → Word × Flags) : (x.lane32 d f).Safe :=
  Iss.okTeam_safe h _

theorem Machine.Iss.lane_safe {x : Iss} (h : Safe x.s) (d : RegField) (f : Nat → Word) : (x.lane d f).Safe :=
  Iss.okTeam_safe h _

theorem Machine.Iss.lane64_safe {x : Iss} (h : Safe x.s) (d : RegField) (f : Nat → DWord) : (x.lane64 d f).Safe :=
  Iss.okTeam_safe h _

theorem Machine.Iss.lanePred_safe {x : Iss} (h : Safe x.s) (p : BitVec 3) (f : Nat → Bool) : (x.lanePred p f).Safe :=
  Iss.okTeam_safe h _

/-! ### Requests to the slices -/

theorem Machine.Iss.misses_safe {x : Iss} (h : Safe x.s) {k : Act} (ha : k.Safe) : (x.misses k).Safe := by
  unfold Iss.misses
  split
  · exact h
  · exact ha

theorem Safe.requestFor {s : State} (h : Safe s) (r : TeamRef) (core seq : Nat) (c : Ctx) (lanes : List (Nat × Nat)) :
    Safe (s.requestFor r core seq c lanes) := by
  unfold State.requestFor
  split
  · exact h
  · exact h.modCore _ _

theorem Machine.Iss.request_safe (x : Iss) {s : State} (h : Safe s) (c : Ctx) (lanes : List (Nat × Nat)) :
    Safe (x.request s c lanes) :=
  h.requestFor _ _ _ _ _

theorem Machine.execSliceAccept_safe {s : State} (h : Safe s) (core c n : Nat) : OutSafe (execSliceAccept core c n s) := by
  unfold execSliceAccept
  split
  · exact OutSafe.next h
  · exact OutSafe.next ((h.modCore _ _).moved)

theorem Machine.execSliceAnswer_safe {s : State} (h : Safe s) (core i : Nat) : OutSafe (execSliceAnswer core i s) := by
  unfold execSliceAnswer
  split
  · exact OutSafe.next h
  split
  · exact OutSafe.next ((h.modCore _ _).moved)
  · exact OutSafe.next h

theorem Safe.sliceEmptied {s : State} (h : Safe s) (core : Nat) (home : Nat × Nat) : Safe (s.sliceEmptied core home) :=
  h.same rfl rfl rfl rfl

theorem Safe.sliceFreed {s : State} (h : Safe s) (core : Nat) (r : TeamRef) (home : Nat × Nat) :
    Safe (s.sliceFreed core r home) := by
  unfold State.sliceFreed
  split
  · exact h
  · exact h.sliceEmptied _ _

theorem Safe.takeStore {s : State} (h : Safe s) (core : Nat) (r : TeamRef) (c : Ctx) (e : StoreEntry) :
    Safe (s.takeStore core r c e) := by
  unfold State.takeStore
  split
  · exact h
  · exact (h.sliceFreed _ _ _).modCore _ _

/-! ### Addresses -/

theorem Machine.execAadd_safe {s : State} (h : Safe s) (d a b : RegField) : OutSafe (execAadd d a b s) :=
  OutSafe.issue h (fun _ h2 _ => Iss.lane64_safe h2 _ _)

theorem Machine.execAsub_safe {s : State} (h : Safe s) (d a b : RegField) : OutSafe (execAsub d a b s) :=
  OutSafe.issue h (fun _ h2 _ => Iss.lane64_safe h2 _ _)

theorem Machine.execAmov_safe {s : State} (h : Safe s) (d a b : RegField) : OutSafe (execAmov d a b s) :=
  OutSafe.issue h (fun _ h2 _ => Iss.lane64_safe h2 _ _)

theorem Machine.execAcvt_safe {s : State} (h : Safe s) (d a k : RegField) : OutSafe (execAcvt d a k s) :=
  OutSafe.issue h (fun _ h2 _ => Iss.lane64_safe h2 _ _)

theorem Machine.execAcmp_safe {s : State} (h : Safe s) (c : BitVec 4) (p : BitVec 3) (a b : RegField) :
    OutSafe (execAcmp c p a b s) :=
  OutSafe.issue h (fun _ h2 _ => Iss.lanePred_safe h2 _ _)

theorem Machine.execSlice_safe {s : State} (h : Safe s) (d a k : RegField) : OutSafe (execSlice d a k s) :=
  OutSafe.issue h (fun _ h2 _ => Iss.okTeam_safe h2 _)

theorem Machine.execAshladd_safe {s : State} (safe : Safe s) (d a b : RegField) (h : BitVec 3) :
    OutSafe (execAshladd d a b h s) :=
  OutSafe.issue safe (fun _ h2 _ => Iss.lane64_safe h2 _ _)

/-! ### Translation, store buffers and reading -/

theorem Safe.closeFrame {s : State} (h : Safe s) (pa n : Nat) : Safe (s.closeFrame pa n) := h.same rfl rfl rfl rfl

theorem Safe.xlate {s : State} (h : Safe s) (c : Ctx) (a : Access) (va : Nat) : Safe (s.xlate c a va).2 := by
  unfold State.xlate
  split
  · exact h
  split
  · dsimp only
    split <;> exact h
  · dsimp only
    split <;> exact h
  · split
    · split
      · dsimp only
        split
        · exact h
        · exact h.modPart _ _ (fun _ h2 => h2)
      · dsimp only
        split
        · exact h
        · exact (h.writePhys _ _ _).modPart _ _ (fun _ h2 => h2)
    · dsimp only
      split <;> exact h

theorem Safe.badAccess {s : State} (h : Safe s) (g : Group) (t : Team) : Safe (s.badAccess g t) := h.ctxError _ _ _ _ _ _

theorem Safe.drainOne {s : State} (h : Safe s) (r : TeamRef) : Safe (s.drainOne r) := by
  unfold State.drainOne
  split
  · exact h
  split
  · split
    · exact h
    split
    · exact h
    split
    · exact (((safe_snd ‹_› (h.xlate _ _ _)).takeStore _ _ _ _).writeAs _ _ _ _ _).modTeam _ _
    · exact (safe_snd ‹_› (h.xlate _ _ _)).badAccess _ _
    · exact (safe_snd ‹_› (h.xlate _ _ _)).modTeam _ _
  · exact h

theorem Safe.drainN {s : State} (h : Safe s) (r : TeamRef) (n : Nat) : Safe (s.drainN r n) := by
  induction n generalizing s with
  | zero => exact h
  | succ n ih => exact ih (h.drainOne r)

theorem Safe.drainSeq {s : State} (h : Safe s) (r : TeamRef) (seq : Nat) : Safe (s.drainSeq r seq) := h.drainN _ _

theorem Safe.drain {s : State} (h : Safe s) (r : TeamRef) : Safe (s.drain r) := h.drainN _ _

theorem Safe.pastSnapshots {s : State} (h : Safe s) (t : Team) : Safe (s.pastSnapshots t) := h.same rfl rfl rfl rfl

theorem Safe.acquiredOn {s : State} (h : Safe s) (core : Nat) : Safe (s.acquiredOn core) := h.modCore _ _

theorem Machine.Iss.written_safe {x : Iss} (h : Safe x.s) : Safe x.written := by
  unfold Iss.written
  split
  · exact h
  · exact ((h.pastSnapshots _).modTeam _ _).drain _

theorem Machine.Iss.release_safe {x : Iss} (h : Safe x.s) (k : Iss → Act)
    (hk : ∀ (y : Iss), Safe y.s → y.g.pad.wf = true → (k y).Safe) : (x.release k).Safe := by
  unfold Iss.release
  dsimp only
  split
  · exact Iss.written_safe h
  split
  · exact Iss.written_safe h
  split
  · exact hk _ (Iss.written_safe h) (Group.forTeam_wf ((Iss.written_safe h).find_groups ‹_›) _)
  · exact Iss.written_safe h

theorem Machine.gatherLane_safe (w : Reader) (n : Nat) {q : Gather} (h : Safe q.s) (a : LaneAcc) :
    Safe (gatherLane w n q a).s := by
  unfold gatherLane
  split
  · exact h
  split
  · exact safe_snd ‹_› (h.xlate _ _ _)
  · exact h
  · exact h

theorem Machine.gatherLanes_safe {s : State} (h : Safe s) (w : Reader) (n : Nat) (lanes : List LaneAcc) :
    Safe (gatherLanes s w n lanes).s :=
  safe_foldl_of Gather.s (fun _ _ h3 => gatherLane_safe _ _ h3 _) _ _ h

theorem Machine.Iss.readRun_safe (x : Iss) {s : State} (h : Safe s) (c : Ctx) (fresh : Bool) (va n : Nat) :
    Safe (x.readRun s c fresh va n).s :=
  gatherLanes_safe h _ _ _

theorem Safe.lateValue {s : State} (h : Safe s) (r : TeamRef) (p : PendWrite) : Safe (s.lateValue r p).1 := by
  unfold State.lateValue
  split
  · exact h
  split
  · split
    · split
      · dsimp only
        split
        · exact (safe_snd ‹_› (h.xlate _ _ _)).modTeam _ _
        · exact h
      · dsimp only
        split
        · exact (safe_snd ‹_› (h.xlate _ _ _)).modTeam _ _
        · exact h
    · exact h
  · exact h

/-! ### The stack -/

theorem Machine.safe_of_moved_ok {m : Moved} {s : State} {t : Team} (e : m = .ok s t) (h : m.Safe) : Safe s := by
  rwa [e] at h

theorem Machine.safe_of_moved_wait {m : Moved} {s : State} {va : Nat} (e : m = .wait s va) (h : m.Safe) : Safe s := by
  rwa [e] at h

theorem Machine.spillChunks_safe (c : Ctx) {s : State} (h : Safe s) (n : Nat) (t : Team) : (spillChunks c n s t).Safe := by
  induction n generalizing s t with
  | zero => exact h
  | succ n ih =>
    unfold spillChunks
    dsimp only
    split
    · exact ih (safe_snd ‹_› (h.xlate ..)) _
    · trivial
    · exact safe_snd ‹_› (h.xlate c .write _)

theorem Machine.fillChunks_safe (c : Ctx) {s : State} (h : Safe s) (n : Nat) (t : Team) : (fillChunks c n s t).Safe := by
  induction n generalizing s t with
  | zero => exact h
  | succ n ih =>
    unfold fillChunks
    dsimp only
    split
    · exact ih (safe_snd ‹_› (h.xlate ..)) _
    · trivial
    · exact safe_snd ‹_› (h.xlate c .read _)

theorem Machine.Iss.afterMove_safe {x : Iss} (h : Safe x.s) (kind : ReplayKind) {m : Moved} (hm : m.Safe)
    {k : State → Team → Act} (hk : ∀ s t, Safe s → (k s t).Safe) : (x.afterMove kind m k).Safe := by
  cases m with
  | ok s t => exact hk s t hm
  | wait s va => exact Safe.modTeam hm _ _
  | bad => exact Safe.badAccess h _ _

theorem Machine.Iss.push_safe {x : Iss} (h : Safe x.s) (bs : List Byte) (k : State → Team → Act) (hk : ∀ (s : State)
    (t : Team), Safe s → (k s t).Safe) : (x.push bs k).Safe := by
  unfold Iss.push
  split
  · dsimp only
    split
    · trivial
    · exact h
  · dsimp only
    split
    · trivial
    · exact Iss.afterMove_safe h _ (spillChunks_safe _ h _ _) hk

theorem Machine.Iss.pop_safe {x : Iss} (h : Safe x.s) (n : Nat) (k : State → Team → List Byte → Act) (hk : ∀ (s : State)
    (t : Team) (bs : List Byte), Safe s → (k s t bs).Safe) : (x.pop n k).Safe := by
  unfold Iss.pop
  split
  · trivial
  split
  · exact h
  · exact Iss.afterMove_safe h _ (fillChunks_safe _ h _ _) (fun _ _ h3 => hk _ _ _ h3)

theorem Machine.execSpush_safe {s : State} (h : Safe s) (a : RegField) : OutSafe (execSpush a s) :=
  OutSafe.issue h (fun _ h2 _ => Iss.push_safe h2 _ _ (fun _ _ h6 => h6.modTeam _ _))

theorem Machine.execSpop_safe {s : State} (h : Safe s) (d : RegField) : OutSafe (execSpop d s) :=
  OutSafe.issue h (fun _ h2 _ => Iss.pop_safe h2 _ _ (fun _ _ _ h7 => h7.modTeam _ _))

theorem Machine.execSalloc_safe {s : State} (h : Safe s) (n : BitVec 8) : OutSafe (execSalloc n s) := by
  unfold execSalloc
  refine OutSafe.issue h ?_
  intro _ h2 _
  dsimp only
  split
  · exact Iss.push_safe h2 _ _ (fun _ _ h6 => h6.modTeam _ _)
  split
  · trivial
  · exact Iss.okTeam_safe h2 _

/-! ### Control flow -/

theorem Machine.Iss.nest_safe (x : Iss) (f : Nat → Lane → Nat) (k : Team → Act) (hk : ∀ (t : Team), (k t).Safe) :
    (x.nest f k).Safe := by
  unfold Iss.nest
  split
  · trivial
  · exact hk _

theorem Machine.Iss.jump_safe {x : Iss} (h : Safe x.s) (k : PartnerKind) (partner : Word) (past : Bool) (t : Team) :
    (x.jump k partner past t).Safe := by
  unfold Iss.jump
  split
  · exact Iss.put_safe h _
  · exact Iss.trapWord_safe _ _

theorem Machine.execIfc_safe {s : State} (h : Safe s) (p : BitVec 3) (o : BitVec 18) : OutSafe (execIfc p o s) := by
  unfold execIfc
  refine OutSafe.issue h ?_
  intro _ h2 _
  refine Iss.nest_safe _ _ _ ?_
  intro _
  dsimp only
  split
  · exact Iss.jump_safe h2 _ _ _ _
  · exact Iss.okTeam_safe h2 _

theorem Machine.execElsec_safe {s : State} (h : Safe s) (o : BitVec 18) : OutSafe (execElsec o s) := by
  unfold execElsec
  refine OutSafe.issue h ?_
  intro _ h2 _
  split
  · exact Iss.jump_safe h2 _ _ _ _
  dsimp only
  split
  · split
    · exact Iss.jump_safe h2 _ _ _ _
    · exact Iss.okTeam_safe h2 _
  · split
    · exact Iss.jump_safe h2 _ _ _ _
    · exact Iss.okTeam_safe h2 _

theorem Machine.execEndifc_safe {s : State} (h : Safe s) : OutSafe (execEndifc s) := by
  unfold execEndifc
  refine OutSafe.issue h ?_
  intro _ h2 _
  split
  · exact Iss.put_safe h2 _
  · exact Iss.okTeam_safe h2 _

theorem Machine.Iss.outsideLoop_safe (x : Iss) {k : Act} (ha : k.Safe) : (x.outsideLoop k).Safe := by
  unfold Iss.outsideLoop
  split
  · exact Iss.trapWord_safe _ _
  · exact ha

theorem Machine.execLoopc_safe {s : State} (h : Safe s) (o : BitVec 18) : OutSafe (execLoopc o s) := by
  unfold execLoopc
  refine OutSafe.issue h ?_
  intro _ h2 _
  refine Iss.outsideLoop_safe _ ?_
  split
  · exact Iss.jump_safe h2 _ _ _ _
  · exact Iss.nest_safe _ _ _ (fun _ => Iss.okTeam_safe h2 _)

theorem Machine.execBreakc_safe {s : State} (h : Safe s) (p : BitVec 3) (d : BitVec 8) : OutSafe (execBreakc p d s) := by
  unfold execBreakc
  refine OutSafe.issue h ?_
  intro _ h2 _
  refine Iss.outsideLoop_safe _ ?_
  exact Iss.nest_safe _ _ _ (fun _ => Iss.okTeam_safe h2 _)

theorem Machine.execContc_safe {s : State} (h : Safe s) (p : BitVec 3) (d : BitVec 8) : OutSafe (execContc p d s) := by
  unfold execContc
  refine OutSafe.issue h ?_
  intro _ h2 _
  refine Iss.outsideLoop_safe _ ?_
  exact Iss.nest_safe _ _ _ (fun _ => Iss.okTeam_safe h2 _)

theorem Machine.execEndl_safe {s : State} (h : Safe s) (o : BitVec 18) : OutSafe (execEndl o s) := by
  unfold execEndl
  refine OutSafe.issue h ?_
  intro _ h2 _
  refine Iss.outsideLoop_safe _ ?_
  dsimp only
  split
  · exact Iss.jump_safe h2 _ _ _ _
  · exact Iss.okTeam_safe h2 _

theorem Machine.execJmp_safe {s : State} (h : Safe s) (p : BitVec 3) (o : BitVec 18) : OutSafe (execJmp p o s) := by
  unfold execJmp
  refine OutSafe.issue h ?_
  intro _ h2 _
  refine Iss.outsideLoop_safe _ ?_
  split <;> exact h2

theorem Machine.Iss.call_safe {x : Iss} (h : Safe x.s) (target : Word) (far : Bool) : (x.call target far).Safe :=
  Iss.push_safe h _ _ (fun _ _ h3 => h3.modTeam _ _)

theorem Machine.execCallc_safe {s : State} (h : Safe s) (o : BitVec 18) : OutSafe (execCallc o s) :=
  OutSafe.issue h (fun _ h2 _ => Iss.outsideLoop_safe _ (Iss.call_safe h2 _ _))

theorem Machine.execRetc_safe {s : State} (h : Safe s) : OutSafe (execRetc s) := by
  unfold execRetc
  refine OutSafe.issue h ?_
  intro _ h2 _
  refine Iss.outsideLoop_safe _ ?_
  refine Iss.pop_safe h2 _ _ ?_
  intro _ _ _ h7
  dsimp only
  split <;> split <;> exact h7.modTeam _ _

theorem Machine.execYield_safe {s : State} (h : Safe s) : OutSafe (execYield s) := OutSafe.issue h (fun _ h2 _ => h2)

theorem Machine.Iss.openLoop_safe {x : Iss} (h : Safe x.s) (n len : Nat) : (x.openLoop n len).Safe := by
  unfold Iss.openLoop
  split
  · split
    · dsimp only
      split
      · exact Iss.trapWord_safe _ _
      · exact h
    · dsimp only
      split
      · exact Iss.trapWord_safe _ _
      · exact Iss.okTeam_safe h _
  · split
    · dsimp only
      split
      · exact Iss.trapWord_safe _ _
      · exact h
    · dsimp only
      split
      · exact Iss.trapWord_safe _ _
      · exact Iss.okTeam_safe h _

theorem Machine.execHloop_safe {s : State} (h : Safe s) (c : BitVec 10) (l : BitVec 8) : OutSafe (execHloop c l s) :=
  OutSafe.issue h (fun _ h2 _ => Iss.openLoop_safe h2 _ _)

theorem Machine.execHloops_safe {s : State} (h : Safe s) (a : BitVec 5) (l : BitVec 8) : OutSafe (execHloops a l s) :=
  OutSafe.issue h (fun _ h2 _ => Iss.openLoop_safe h2 _ _)

theorem Machine.execHbrk_safe {s : State} (h : Safe s) (p : BitVec 3) : OutSafe (execHbrk p s) := by
  unfold execHbrk
  refine OutSafe.issue h ?_
  intro _ h2 _
  split
  · exact Iss.trapWord_safe _ _
  split
  · dsimp only
    split <;> exact Iss.put_safe h2 _
  · exact h2

/-! ### The end of a team -/

theorem Safe.completePhase {s : State} (h : Safe s) (g : Group) : Safe (s.completePhase g) := by
  unfold State.completePhase
  refine Safe.moved ?_
  refine Safe.modGroup ?_ _ _ (fun _ h2 => memTruncate_wf h2 _)
  refine Safe.acquiredOn ?_ _
  exact safe_foldl _ (fun _ _ h3 => h3.fenceStores _) _ _ h

theorem Safe.barrierTry {s : State} (h : Safe s) (uid : Nat) : Safe (s.barrierTry uid) := by
  unfold State.barrierTry
  split
  · exact h
  split
  · exact h
  split
  · exact h.modGroup _ _ (fun _ h2 => h2)
  · exact h.completePhase _

theorem Safe.carveTry {s : State} (h : Safe s) : Safe s.carveTry := safe_foldl _ (fun _ _ h3 => h3.barrierTry _) _ _ h

theorem Safe.modCensus {s : State} (h : Safe s) (cseq : Nat) (f : Census → Census) : Safe (s.modCensus cseq f) :=
  h.same rfl rfl rfl rfl

theorem Safe.retireResponder {s : State} (h : Safe s) (r : TeamRef) (i : ResponderInfo) : Safe (s.retireResponder r i) := by
  unfold State.retireResponder
  refine Safe.moved ?_
  refine Safe.modGroup ?_ _ _ (fun _ h2 => h2)
  split
  · exact h.modCore _ _
  · exact (h.modCore _ _).modCensus _ _

theorem Safe.drainGroup {s : State} (h : Safe s) (uid : Nat) : Safe (s.drainGroup uid) := by
  unfold State.drainGroup
  refine h.modGroup _ _ ?_
  intro _ h2
  split <;> exact h2

theorem Safe.finishTry {s : State} (h : Safe s) (r : TeamRef) : Safe (s.finishTry r) := by
  unfold State.finishTry
  split
  · exact h
  split
  · exact h
  split
  · split
    · dsimp only
      split
      · split
        · exact (h.drain _).retireResponder _ _
        · exact h.drain _
      · exact h.drain _
    · dsimp only
      split
      · split
        · refine Safe.retireResponder ?_ _ _
          refine Safe.drain ?_ _
          refine h.modGroup _ _ ?_
          intro _ h2
          dsimp only
          exact Group.modTeam_wf h2 _ _
        · refine Safe.drain ?_ _
          refine h.modGroup _ _ ?_
          intro _ h2
          dsimp only
          exact Group.modTeam_wf h2 _ _
      · refine Safe.drain ?_ _
        refine h.modGroup _ _ ?_
        intro _ h2
        dsimp only
        exact Group.modTeam_wf h2 _ _
  · split
    · exact h
    refine Safe.moved ?_
    refine Safe.drainGroup ?_ _
    refine Safe.barrierTry ?_ _
    refine h.modGroup _ _ ?_
    intro _ h2
    dsimp only
    exact Group.modTeam_wf h2 _ _

theorem Machine.execExitc_safe {s : State} (h : Safe s) (p : BitVec 3) : OutSafe (execExitc p s) :=
  OutSafe.issue h (fun _ h2 _ => (Iss.put_safe h2 _).finishTry _)

/-! ### Fences -/

theorem Machine.Iss.afterLoads_safe {x : Iss} (h : Safe x.s) {k : Act} (ha : k.Safe) : (x.afterLoads k).Safe := by
  unfold Iss.afterLoads
  split
  · exact h
  · exact ha

theorem Machine.execFenceL_safe {s : State} (h : Safe s) : OutSafe (execFenceL s) :=
  OutSafe.issue h (fun _ h2 _ => Iss.afterLoads_safe h2 (Iss.okTeam_safe h2 _))

theorem Safe.acquireAll {s : State} (h : Safe s) (part : Nat) : Safe (s.acquireAll part) :=
  safe_foldl _ (fun _ _ h3 => h3.acquire _) _ _ h

theorem Machine.execFenceH_safe {s : State} (h : Safe s) : OutSafe (execFenceH s) := by
  unfold execFenceH
  refine OutSafe.issue h ?_
  intro _ h2 _
  refine Iss.release_safe h2 _ ?_
  intro _ h5 _
  dsimp only
  split
  · refine Safe.acquireAll ?_ _
    exact safe_foldl _ (fun _ _ h9 => h9.drain _) _ _ h5
  · exact safe_foldl _ (fun _ _ h9 => h9.drain _) _ _ h5

theorem Machine.execFenceE_safe {s : State} (h : Safe s) : OutSafe (execFenceE s) :=
  OutSafe.issue h (fun _ h2 _ => Iss.release_safe h2 _ (fun _ h5 _ => h5.fenceStores _))

theorem Machine.execAcqc_safe {s : State} (h : Safe s) : OutSafe (execAcqc s) :=
  OutSafe.issue h (fun _ h2 _ => Iss.afterLoads_safe h2 (h2.acquire _))

theorem Machine.execRelc_safe {s : State} (h : Safe s) : OutSafe (execRelc s) :=
  OutSafe.issue h (fun _ h2 _ => Iss.release_safe h2 _ (fun _ h5 _ => h5))

/-! ### Barriers -/

theorem Machine.Iss.arrive_safe {x : Iss} (h : Safe x.s) (a : Arrival) : (x.arrive a).Safe := by
  unfold Iss.arrive
  split
  · exact Iss.trapWord_safe _ _
  · exact Iss.release_safe h _ (fun _ h2 _ => (Iss.put_safe h2 _).barrierTry _)

theorem Machine.execBar_safe {s : State} (h : Safe s) : OutSafe (execBar s) :=
  OutSafe.issue h (fun _ h2 _ => Iss.arrive_safe h2 _)

theorem Machine.execBarE_safe {s : State} (h : Safe s) : OutSafe (execBarE s) :=
  OutSafe.issue h (fun _ h2 _ => Iss.arrive_safe h2 _)

theorem Machine.execBarCarve_safe {s : State} (h : Safe s) (d a : RegField) : OutSafe (execBarCarve d a s) :=
  OutSafe.issue h (fun _ h2 _ => Iss.arrive_safe h2 _)

theorem Machine.Group.modObj_wf {g : Group} (hg : g.pad.wf = true) (b : Nat) (f : BarObj → BarObj) :
    (g.modObj b f).pad.wf = true :=
  hg

theorem Machine.Iss.changeObj_safe {x : Iss} (h : Safe x.s) (d : RegField) (b : Nat) (f : BarObj → BarObj) :
    (x.changeObj d b f).Safe := by
  unfold Iss.changeObj
  split
  · exact h
  refine Safe.moved ?_
  refine Safe.modTeam ?_ _ _
  exact h.modGroup _ _ (fun _ h2 => Group.modObj_wf h2 _ _)

theorem Machine.execBoinit_safe {s : State} (h : Safe s) (d a : RegField) (b : BitVec 8) : OutSafe (execBoinit d a b s) :=
  OutSafe.issue h (fun _ h2 _ => Iss.changeObj_safe h2 _ _ _)

theorem Machine.execBoexp_safe {s : State} (h : Safe s) (d a : RegField) (b : BitVec 8) : OutSafe (execBoexp d a b s) :=
  OutSafe.issue h (fun _ h2 _ => Iss.changeObj_safe h2 _ _ _)

theorem Machine.execBoarr_safe {s : State} (h : Safe s) (d a : RegField) (b : BitVec 8) : OutSafe (execBoarr d a b s) :=
  OutSafe.issue h (fun _ h2 _ => Iss.changeObj_safe h2 _ _ _)

theorem Machine.execBowait_safe {s : State} (h : Safe s) (a : RegField) (b : BitVec 8) : OutSafe (execBowait a b s) := by
  unfold execBowait
  refine OutSafe.issue h ?_
  intro _ h2 _
  split
  · exact h2.acquire _
  · exact h2

theorem Machine.execBotest_safe {s : State} (h : Safe s) (d a : RegField) (b : BitVec 8) : OutSafe (execBotest d a b s) := by
  unfold execBotest
  refine OutSafe.issue h ?_
  intro _ h2 _
  split
  · exact (h2.acquire _).modTeam _ _
  · exact Iss.okTeam_safe h2 _

/-! ### Global memory -/

theorem Machine.Iss.access_safe {x : Iss} (h : Safe x.s) (a : RegField) (off : Int) (size : Nat) (base : Bool)
    (k : Ctx → List (Nat × Nat) → Act) (hk : ∀ (c : Ctx) (bs : List (Nat × Nat)), (k c bs).Safe) :
    (x.access a off size base k).Safe := by
  unfold Iss.access
  split
  · trivial
  split
  · dsimp only
    split
    · trivial
    split
    · exact h
    · exact hk _ _
  · dsimp only
    split
    · trivial
    · exact h

theorem Machine.Iss.load_safe {x : Iss} (h : Safe x.s) (d a : RegField) (off : Int) (n : Nat) (sx acq : Bool) :
    (x.load d a off n sx acq).Safe := by
  unfold Iss.load
  refine Iss.access_safe h _ _ _ _ _ ?_
  intro _ _
  refine Iss.misses_safe h ?_
  split
  · dsimp only
    split
    · exact h.badAccess _ _
    split
    · exact ((Iss.request_safe _ (gatherLanes_safe h _ _ _) _ _).modTeam _ _).acquire _
    · exact (Iss.request_safe _ (gatherLanes_safe h _ _ _) _ _).modTeam _ _
  · dsimp only
    split
    · exact h.badAccess _ _
    split
    · exact ((Iss.request_safe _ (gatherLanes_safe h _ _ _) _ _).modTeam _ _).acquire _
    · exact (Iss.request_safe _ (gatherLanes_safe h _ _ _) _ _).modTeam _ _

theorem Machine.execLd_safe {s : State} (h : Safe s) (d a : RegField) (o : BitVec 4) (z : BitVec 3) (e : BitVec 1) :
    OutSafe (execLd d a o z e s) :=
  OutSafe.issue h (fun _ h2 _ => Iss.load_safe h2 _ _ _ _ _ _)

theorem Machine.execLdAcq_safe {s : State} (h : Safe s) (d a : RegField) (o : BitVec 4) (z : BitVec 3) (e : BitVec 1) :
    OutSafe (execLdAcq d a o z e s) :=
  OutSafe.issue h (fun _ h2 _ => Iss.load_safe h2 _ _ _ _ _ _)

theorem Machine.Iss.demoted_safe (x : Iss) {s : State} (h : Safe s) (event : Bool) : (x.demoted s event).Safe := by
  unfold Iss.demoted
  split
  · exact h
  split
  · dsimp only
    split
    · exact h
    · exact h.modTeam _ _
    · exact Iss.trapWord_safe _ _
  · exact h

theorem Machine.execLdPoll_safe {s : State} (h : Safe s) (d a : RegField) (o : BitVec 4) (z : BitVec 1) :
    OutSafe (execLdPoll d a o z s) := by
  unfold execLdPoll
  refine OutSafe.issue h ?_
  intro _ h2 _
  refine Iss.access_safe h2 _ _ _ _ _ ?_
  intro _ _
  refine Iss.misses_safe h2 ?_
  split
  · dsimp only
    split
    · exact h2.badAccess _ _
    split
    · exact (Iss.request_safe _ (gatherLanes_safe h2 _ _ _) _ _).modTeam _ _
    split
    · exact (Iss.request_safe _ (gatherLanes_safe h2 _ _ _) _ _).modTeam _ _
    · exact Iss.demoted_safe _ (((Iss.request_safe _ (gatherLanes_safe h2 _ _ _) _ _).modTeam _ _).acquire _) _
  · dsimp only
    split
    · exact h2.badAccess _ _
    split
    · exact (Iss.request_safe _ (gatherLanes_safe h2 _ _ _) _ _).modTeam _ _
    split
    · exact (Iss.request_safe _ (gatherLanes_safe h2 _ _ _) _ _).modTeam _ _
    · exact Iss.demoted_safe _ (((Iss.request_safe _ (gatherLanes_safe h2 _ _ _) _ _).modTeam _ _).acquire _) _

theorem Machine.prefLane_safe (c : Ctx) {p : State × Bool} (h : Safe p.1) (va : Nat) : Safe (prefLane c p va).1 := by
  unfold prefLane
  split
  · exact h
  split
  · exact safe_snd ‹_› (h.xlate _ _ _)
  · exact safe_snd ‹_› (h.xlate _ _ _)
  · exact h

theorem Machine.execPref_safe {s : State} (h : Safe s) (a : RegField) (o : BitVec 4) : OutSafe (execPref a o s) := by
  unfold execPref
  refine OutSafe.issue h ?_
  intro _ h2 _
  split
  · exact h2
  split
  · exact h2
  refine Iss.misses_safe h2 ?_
  dsimp only
  split
  · refine Safe.badAccess ?_ _ _
    exact safe_foldl_of Prod.fst (fun _ _ h6 => prefLane_safe _ h6 _) _ _ h2
  · refine Iss.request_safe _ ?_ _ _
    exact safe_foldl_of Prod.fst (fun _ _ h6 => prefLane_safe _ h6 _) _ _ h2

theorem Machine.Iss.store_safe {x : Iss} (h : Safe x.s) (d a : RegField) (off : Int) (n : Nat) : (x.store d a off n).Safe :=
  Iss.access_safe h _ _ _ _ _ (fun _ _ => Iss.okTeam_safe h _)

theorem Machine.execSt_safe {s : State} (h : Safe s) (d a : RegField) (o : BitVec 4) (z : BitVec 3) :
    OutSafe (execSt d a o z s) :=
  OutSafe.issue h (fun _ h2 _ => Iss.store_safe h2 _ _ _ _)

theorem Machine.execStRel_safe {s : State} (h : Safe s) (d a : RegField) (o : BitVec 4) (z : BitVec 3) :
    OutSafe (execStRel d a o z s) := by
  unfold execStRel
  refine OutSafe.issue h ?_
  intro _ h2 _
  split
  · dsimp only
    split
    · trivial
    · exact h2
  · dsimp only
    split
    · trivial
    · exact Iss.release_safe h2 _ (fun _ h5 _ => Iss.store_safe h5 _ _ _ _)

theorem Machine.placeLanes_safe {s : State} (h : Safe s) (c : Ctx) (lanes : List LaneAcc) :
    Safe (placeLanes s c lanes).s := by
  unfold placeLanes
  refine safe_foldl_of Places.s ?_ _ _ h
  intro _ _ h3
  split <;> exact safe_snd ‹_› (h3.xlate _ _ _)

theorem Machine.atomLane_safe (r : TeamRef) (asid : Nat) (op : AtomOp) (n : Nat) {q : Atoms} (h : Safe q.s)
    (p : LaneAcc × Bool × Nat × Nat) : Safe (atomLane r asid op n q p).s := (h.modTeam _ _).writeAs _ _ _ _ _

theorem Machine.atomLanes_safe {s : State} (h : Safe s) (r : TeamRef) (asid : Nat) (op : AtomOp) (n : Nat)
    (ps : List (LaneAcc × Bool × Nat × Nat)) : Safe (atomLanes s r asid op n ps).s :=
  safe_foldl_of Atoms.s (fun _ _ h3 => atomLane_safe _ _ _ _ h3 _) _ _ h

theorem Machine.Iss.atomic_safe {x : Iss} (h : Safe x.s) (acq : Bool) (op : AtomOp) (n : Nat) (dst : Option RegField)
    (a : RegField) (lane : Nat → LaneAcc → LaneAcc) : (x.atomic acq op n dst a lane).Safe := by
  unfold Iss.atomic
  refine Iss.access_safe h _ _ _ _ _ ?_
  intro _ _
  refine Iss.misses_safe h ?_
  split
  · dsimp only
    split
    · exact (h.modTeam _ _).drain _
    split
    · exact (h.modTeam _ _).drain _
    split
    · exact (placeLanes_safe ((h.modTeam _ _).drain _) _ _).badAccess _ _
    split
    · exact (placeLanes_safe ((h.modTeam _ _).drain _) _ _).modTeam _ _
    split
    · trivial
    · exact Iss.demoted_safe _ (((Iss.request_safe _ (atomLanes_safe (placeLanes_safe ((h.modTeam _ _).drain _) _ _) _ _ _ _ _) _ _).modTeam _ _).acquire _) _
  · dsimp only
    split
    · exact (h.modTeam _ _).drain _
    split
    · exact (h.modTeam _ _).drain _
    split
    · exact (placeLanes_safe ((h.modTeam _ _).drain _) _ _).badAccess _ _
    split
    · exact (placeLanes_safe ((h.modTeam _ _).drain _) _ _).modTeam _ _
    split
    · trivial
    · exact Iss.demoted_safe _ ((Iss.request_safe _ (atomLanes_safe (placeLanes_safe ((h.modTeam _ _).drain _) _ _) _ _ _ _ _) _ _).modTeam _ _) _

theorem Machine.Iss.atom_safe {x : Iss} (h : Safe x.s) (op : AtomOp) (n : Nat) (ret : Bool) (d a : RegField)
    (ord : BitVec 2) : (x.atom op n ret d a ord).Safe := by
  unfold Iss.atom
  split
  · split
    · split <;> trivial
    split
    · exact Iss.release_safe h _ (fun _ h2 _ => Iss.atomic_safe h2 _ _ _ _ _ _)
    · exact Iss.atomic_safe h _ _ _ _ _ _
  · split
    · split <;> trivial
    split
    · exact Iss.release_safe h _ (fun _ h2 _ => Iss.atomic_safe h2 _ _ _ _ _ _)
    · exact Iss.atomic_safe h _ _ _ _ _ _

theorem Machine.execAtomAdd_safe {s : State} (h : Safe s) (d a : RegField) (o : BitVec 2) (z : BitVec 3) :
    OutSafe (execAtomAdd d a o z s) :=
  OutSafe.issue h (fun _ h2 _ => Iss.atom_safe h2 _ _ _ _ _ _)

theorem Machine.execAtomMinI_safe {s : State} (h : Safe s) (d a : RegField) (o : BitVec 2) (z : BitVec 3) :
    OutSafe (execAtomMinI d a o z s) :=
  OutSafe.issue h (fun _ h2 _ => Iss.atom_safe h2 _ _ _ _ _ _)

theorem Machine.execAtomMaxI_safe {s : State} (h : Safe s) (d a : RegField) (o : BitVec 2) (z : BitVec 3) :
    OutSafe (execAtomMaxI d a o z s) :=
  OutSafe.issue h (fun _ h2 _ => Iss.atom_safe h2 _ _ _ _ _ _)

theorem Machine.execAtomMinN_safe {s : State} (h : Safe s) (d a : RegField) (o : BitVec 2) (z : BitVec 3) :
    OutSafe (execAtomMinN d a o z s) :=
  OutSafe.issue h (fun _ h2 _ => Iss.atom_safe h2 _ _ _ _ _ _)

theorem Machine.execAtomMaxN_safe {s : State} (h : Safe s) (d a : RegField) (o : BitVec 2) (z : BitVec 3) :
    OutSafe (execAtomMaxN d a o z s) :=
  OutSafe.issue h (fun _ h2 _ => Iss.atom_safe h2 _ _ _ _ _ _)

theorem Machine.execAtomAnd_safe {s : State} (h : Safe s) (d a : RegField) (o : BitVec 2) (z : BitVec 3) :
    OutSafe (execAtomAnd d a o z s) :=
  OutSafe.issue h (fun _ h2 _ => Iss.atom_safe h2 _ _ _ _ _ _)

theorem Machine.execAtomOr_safe {s : State} (h : Safe s) (d a : RegField) (o : BitVec 2) (z : BitVec 3) :
    OutSafe (execAtomOr d a o z s) :=
  OutSafe.issue h (fun _ h2 _ => Iss.atom_safe h2 _ _ _ _ _ _)

theorem Machine.execAtomXor_safe {s : State} (h : Safe s) (d a : RegField) (o : BitVec 2) (z : BitVec 3) :
    OutSafe (execAtomXor d a o z s) :=
  OutSafe.issue h (fun _ h2 _ => Iss.atom_safe h2 _ _ _ _ _ _)

theorem Machine.execAtomSwap_safe {s : State} (h : Safe s) (d a : RegField) (o : BitVec 2) (z : BitVec 3) :
    OutSafe (execAtomSwap d a o z s) :=
  OutSafe.issue h (fun _ h2 _ => Iss.atom_safe h2 _ _ _ _ _ _)

theorem Machine.execCas_safe {s : State} (h : Safe s) (d a : RegField) (o : BitVec 2) (z : BitVec 3) :
    OutSafe (execCas d a o z s) := by
  unfold execCas
  refine OutSafe.issue h ?_
  intro _ h2 _
  dsimp only
  split
  · split <;> split <;> trivial
  split
  · split
    · exact Iss.release_safe h2 _ (fun _ h5 _ => Iss.atomic_safe h5 _ _ _ _ _ _)
    · exact Iss.atomic_safe h2 _ _ _ _ _ _
  · split
    · exact Iss.release_safe h2 _ (fun _ h5 _ => Iss.atomic_safe h5 _ _ _ _ _ _)
    · exact Iss.atomic_safe h2 _ _ _ _ _ _

theorem Machine.execAtomFadd_safe {s : State} (h : Safe s) (d a : RegField) (o : BitVec 2) :
    OutSafe (execAtomFadd d a o s) :=
  OutSafe.issue h (fun _ h2 _ => Iss.atom_safe h2 _ _ _ _ _ _)

theorem Machine.execRedAdd_safe {s : State} (h : Safe s) (d a : RegField) (o : BitVec 2) (z : BitVec 3) :
    OutSafe (execRedAdd d a o z s) :=
  OutSafe.issue h (fun _ h2 _ => Iss.atom_safe h2 _ _ _ _ _ _)

theorem Machine.execRedMinI_safe {s : State} (h : Safe s) (d a : RegField) (o : BitVec 2) (z : BitVec 3) :
    OutSafe (execRedMinI d a o z s) :=
  OutSafe.issue h (fun _ h2 _ => Iss.atom_safe h2 _ _ _ _ _ _)

theorem Machine.execRedMaxI_safe {s : State} (h : Safe s) (d a : RegField) (o : BitVec 2) (z : BitVec 3) :
    OutSafe (execRedMaxI d a o z s) :=
  OutSafe.issue h (fun _ h2 _ => Iss.atom_safe h2 _ _ _ _ _ _)

theorem Machine.execRedMinN_safe {s : State} (h : Safe s) (d a : RegField) (o : BitVec 2) (z : BitVec 3) :
    OutSafe (execRedMinN d a o z s) :=
  OutSafe.issue h (fun _ h2 _ => Iss.atom_safe h2 _ _ _ _ _ _)

theorem Machine.execRedMaxN_safe {s : State} (h : Safe s) (d a : RegField) (o : BitVec 2) (z : BitVec 3) :
    OutSafe (execRedMaxN d a o z s) :=
  OutSafe.issue h (fun _ h2 _ => Iss.atom_safe h2 _ _ _ _ _ _)

theorem Machine.execRedAnd_safe {s : State} (h : Safe s) (d a : RegField) (o : BitVec 2) (z : BitVec 3) :
    OutSafe (execRedAnd d a o z s) :=
  OutSafe.issue h (fun _ h2 _ => Iss.atom_safe h2 _ _ _ _ _ _)

theorem Machine.execRedOr_safe {s : State} (h : Safe s) (d a : RegField) (o : BitVec 2) (z : BitVec 3) :
    OutSafe (execRedOr d a o z s) :=
  OutSafe.issue h (fun _ h2 _ => Iss.atom_safe h2 _ _ _ _ _ _)

theorem Machine.execRedXor_safe {s : State} (h : Safe s) (d a : RegField) (o : BitVec 2) (z : BitVec 3) :
    OutSafe (execRedXor d a o z s) :=
  OutSafe.issue h (fun _ h2 _ => Iss.atom_safe h2 _ _ _ _ _ _)

theorem Machine.execRedFadd_safe {s : State} (h : Safe s) (d a : RegField) (o : BitVec 2) : OutSafe (execRedFadd d a o s) :=
  OutSafe.issue h (fun _ h2 _ => Iss.atom_safe h2 _ _ _ _ _ _)

/-! ### Queues -/

theorem Machine.Group.modQueue_wf {g : Group} (hg : g.pad.wf = true) (n : Nat) (f : Queue → Queue) :
    (g.modQueue n f).pad.wf = true :=
  hg

theorem Machine.Group.touchQ_wf {g : Group} (hg : g.pad.wf = true) (clk : Nat) : (g.touchQ clk).pad.wf = true := hg

theorem Machine.Group.changeQ_wf {g : Group} (hg : g.pad.wf = true) (n clk : Nat) (f : Queue → Queue) :
    (g.changeQ n clk f).pad.wf = true :=
  Group.touchQ_wf (Group.modQueue_wf hg _ _) _

theorem Machine.Iss.holdQueue_safe {x : Iss} (h : Safe x.s) (lost : Bool) : (x.holdQueue lost).Safe := by
  unfold Iss.holdQueue
  split
  · exact h
  split
  · refine Safe.modTeam ?_ _ _
    exact h.modGroup _ _ (fun _ h2 => Group.touchQ_wf h2 _)
  · exact h.modGroup _ _ (fun _ h2 => Group.touchQ_wf h2 _)

theorem Machine.Iss.withQueue_safe (x : Iss) (n : BitVec 4) (k : Queue → Act) (hk : ∀ (a : Queue), (k a).Safe) :
    (x.withQueue n k).Safe := by
  unfold Iss.withQueue
  split
  · exact hk _
  · exact Iss.trapWord_safe _ _

theorem Machine.Iss.queueDone_safe {x : Iss} (h : Safe x.s) (n : BitVec 4) (f : Queue → Queue) (ps : List PendWrite) :
    (x.queueDone n f ps).Safe := by
  unfold Iss.queueDone
  refine Safe.modTeam ?_ _ _
  exact h.modGroup _ _ (fun _ h2 => Group.changeQ_wf h2 _ _ _)

theorem Machine.Iss.queueStatus_safe {x : Iss} (h : Safe x.s) (ps : List PendWrite) : (x.queueStatus ps).Safe :=
  Iss.okTeam_safe h _

theorem Machine.Iss.push1_safe {x : Iss} (h : Safe x.s) (n : BitVec 4) (spec : BitVec 8) (e : Queue → QEntry) (ends : Bool) :
    (x.push1 n spec e ends).Safe := by
  unfold Iss.push1
  split
  · exact h
  refine Iss.withQueue_safe _ _ _ ?_
  intro _
  split
  · exact Iss.queueStatus_safe h _
  split
  · exact Iss.holdQueue_safe h _
  · exact Iss.queueDone_safe h _ _ _

theorem Machine.execQpush_safe {s : State} (h : Safe s) (d : RegField) (q : BitVec 4) (i : BitVec 8) :
    OutSafe (execQpush d q i s) :=
  OutSafe.issue h (fun _ h2 _ => Iss.push1_safe h2 _ _ _ _)

theorem Machine.execQmarkSeg_safe {s : State} (h : Safe s) (d : RegField) (q : BitVec 4) (i : BitVec 8) :
    OutSafe (execQmarkSeg d q i s) :=
  OutSafe.issue h (fun _ h2 _ => Iss.push1_safe h2 _ _ _ _)

theorem Machine.execQmarkEos_safe {s : State} (h : Safe s) (q : BitVec 4) (i : BitVec 8) : OutSafe (execQmarkEos q i s) :=
  OutSafe.issue h (fun _ h2 _ => Iss.push1_safe h2 _ _ _ _)

theorem Machine.Iss.pop1_safe {x : Iss} (h : Safe x.s) (d : RegField) (n : BitVec 4) (spec : BitVec 8) (tries peeks : Bool) :
    (x.pop1 d n spec tries peeks).Safe := by
  unfold Iss.pop1
  split
  · exact h
  refine Iss.withQueue_safe _ _ _ ?_
  intro _
  split
  · exact Iss.queueStatus_safe h _
  split
  · split
    · exact Iss.queueStatus_safe h _
    · exact Iss.holdQueue_safe h _
  · split
    · split
      · exact Iss.queueStatus_safe h _
      · exact Iss.queueDone_safe h _ _ _
    · split
      · exact Iss.queueStatus_safe h _
      · exact Iss.queueDone_safe h _ _ _

theorem Machine.execQpop_safe {s : State} (h : Safe s) (d : RegField) (q : BitVec 4) (i : BitVec 8) :
    OutSafe (execQpop d q i s) :=
  OutSafe.issue h (fun _ h2 _ => Iss.pop1_safe h2 _ _ _ _ _)

theorem Machine.execQtry_safe {s : State} (h : Safe s) (d : RegField) (q : BitVec 4) (i : BitVec 8) :
    OutSafe (execQtry d q i s) :=
  OutSafe.issue h (fun _ h2 _ => Iss.pop1_safe h2 _ _ _ _ _)

theorem Machine.execQpeek_safe {s : State} (h : Safe s) (d : RegField) (q : BitVec 4) (i : BitVec 8) :
    OutSafe (execQpeek d q i s) :=
  OutSafe.issue h (fun _ h2 _ => Iss.pop1_safe h2 _ _ _ _ _)

theorem Safe.detachOne {s : State} (h : Safe s) (part tag : Nat) (w : Waiter) : Safe (s.detachOne part tag w).1 := by
  unfold State.detachOne
  split
  · exact h
  split
  · exact h
  split
  · dsimp only
    split
    · refine Safe.withdraw ?_ _
      exact h.modPart _ _ (fun _ h2 => h2)
    · exact h.modPart _ _ (fun _ h2 => h2)
  · dsimp only
    split
    · refine Safe.withdraw ?_ _
      exact h.modPart _ _ (fun _ h2 => h2)
    · exact h.modPart _ _ (fun _ h2 => h2)

theorem Safe.cancelLoads {s : State} (h : Safe s) (part : Nat) (r : TeamRef) (n : Nat) (t : Team) :
    Safe (s.cancelLoads part r n t).1 := by
  unfold State.cancelLoads
  refine Safe.modTeam (safe_foldl_of Prod.fst (fun _ _ hp => ?_) _ (s, 0) h) _ _
  exact hp.detachOne _ _ _

theorem Machine.execQflush_safe {s : State} (h : Safe s) (d : RegField) (q : BitVec 4) : OutSafe (execQflush d q s) := by
  unfold execQflush
  refine OutSafe.issue h ?_
  intro _ h2 _
  refine Iss.withQueue_safe _ _ _ ?_
  intro _
  split
  · dsimp only
    split
    · exact Iss.queueStatus_safe h2 _
    · exact Iss.queueDone_safe h2 _ _ _
  · dsimp only
    split
    · exact Iss.queueStatus_safe h2 _
    · exact Iss.queueDone_safe h2 _ _ _

theorem Machine.execQstat_safe {s : State} (h : Safe s) (d : RegField) (q : BitVec 4) (k : BitVec 8) :
    OutSafe (execQstat d q k s) :=
  OutSafe.issue h (fun _ h2 _ => Iss.withQueue_safe _ _ _ (fun _ => Iss.queueStatus_safe h2 _))

theorem Machine.Group.arriveQ_wf {g : Group} (hg : g.pad.wf = true) (n id clk : Nat) :
    (g.arriveQ n id clk).pad.wf = true := by
  unfold Group.arriveQ
  dsimp only
  split
  · exact Group.touchQ_wf (Group.modQueue_wf hg _ _) _
  · exact Group.modQueue_wf hg _ _

theorem Machine.Iss.ldq_safe {x : Iss} (h : Safe x.s) (n : BitVec 4) (a : RegField) (off : Int) (guarded : Bool) :
    (x.ldq n a off guarded).Safe := by
  unfold Iss.ldq
  split
  · exact h
  refine Iss.withQueue_safe _ _ _ ?_
  intro _
  split
  · dsimp only
    split
    · trivial
    · exact h
  · split
    · dsimp only
      split
      · trivial
      · exact Iss.holdQueue_safe h _
    · split
      · dsimp only
        split
        · trivial
        · exact h
      · dsimp only
        split
        · trivial
        refine Iss.misses_safe h ?_
        split
        · exact h.badAccess _ _
        refine Safe.modTeam ?_ _ _
        exact (Iss.request_safe _ (gatherLanes_safe h _ _ _) _ _).modGroup _ _ (fun _ h3 => Group.changeQ_wf h3 _ _ _)

theorem Machine.execLdq_safe {s : State} (h : Safe s) (q : BitVec 4) (a : RegField) (o : BitVec 4) (z : BitVec 3) :
    OutSafe (execLdq q a o z s) :=
  OutSafe.issue h (fun _ h2 _ => Iss.ldq_safe h2 _ _ _ _)

theorem Machine.execLdqg_safe {s : State} (h : Safe s) (q : BitVec 4) (a : RegField) (o : BitVec 4) (z : BitVec 3) :
    OutSafe (execLdqg q a o z s) :=
  OutSafe.issue h (fun _ h2 _ => Iss.ldq_safe h2 _ _ _ _)

theorem Machine.execStq_safe {s : State} (h : Safe s) (q : BitVec 4) (a : RegField) (o : BitVec 4) (z : BitVec 3) :
    OutSafe (execStq q a o z s) := by
  unfold execStq
  refine OutSafe.issue h ?_
  intro _ h2 _
  split
  · exact h2
  refine Iss.withQueue_safe _ _ _ ?_
  intro _
  split
  · dsimp only
    split
    · trivial
    · exact h2
  · split
    · dsimp only
      split
      · trivial
      · exact Iss.holdQueue_safe h2 _
    · split
      · dsimp only
        split
        · trivial
        · exact h2
      · dsimp only
        split
        · trivial
        refine Safe.modTeam ?_ _ _
        exact h2.modGroup _ _ (fun _ h6 => Group.changeQ_wf h6 _ _ _)

/-! ### Page requests and replay -/

theorem Safe.joinReq {s : State} (h : Safe s) (c : Ctx) (va reason : Nat) (level access core : Nat) (w : Waiter) :
    Safe (s.joinReq c va reason level access core w).1 := by
  unfold State.joinReq
  split
  · exact h
  dsimp only
  split <;> exact h.modPart _ _ (fun _ h2 => h2)

theorem Machine.reportLane_safe (c : Ctx) (core : Nat) (a : Access) (w : Waiter) {p : Report} (h : Safe p.s) (l : LaneAcc) :
    Safe (reportLane c core a w p l).s := by
  unfold reportLane
  split
  · exact (safe_snd ‹_› (h.xlate _ _ _)).joinReq _ _ _ _ _ _ _
  · exact (safe_snd ‹_› (h.xlate _ _ _)).joinReq _ _ _ _ _ _ _
  · exact safe_snd ‹_› (h.xlate _ _ _)
  · exact safe_snd ‹_› (h.xlate _ _ _)

theorem Machine.reportItems_safe (c : Ctx) (core : Nat) (w : Waiter) {s : State} (h : Safe s) (l : List ReplayItem) :
    Safe (reportItems c core w s l).1.s := by
  induction l generalizing s with
  | nil => exact h
  | cons i l ih =>
    refine ih ?_
    split
    · exact h
    · exact safe_foldl_of Report.s (fun p a hp => reportLane_safe c core _ w hp a) _ _ h

theorem Safe.acquireIf {s : State} (h : Safe s) (b : Bool) (r : TeamRef) : Safe (s.acquireIf b r) := by
  unfold State.acquireIf
  split
  · exact h.acquire _
  · exact h

theorem Safe.requestAgain {s : State} (h : Safe s) (c : Ctx) (r : TeamRef) (seq : Nat) (lanes : List (Nat × Nat)) :
    Safe (s.requestAgain c r seq lanes) := by
  unfold State.requestAgain
  split
  · exact h
  · exact h.requestFor _ _ _ _ _

theorem Machine.replayOne_safe (c : Ctx) (r : TeamRef) {s : State} (h : Safe s) (i : ReplayItem) :
    Safe (replayOne c r s i).1 := by
  unfold replayOne
  split
  · exact h
  split
  · exact (((gatherLanes_safe h _ _ _).requestAgain _ _ _ _).modTeam _ _).acquireIf _ _
  · refine Safe.modTeam ?_ _ _
    exact ((gatherLanes_safe h _ _ _).requestAgain _ _ _ _).modGroup _ _ (fun _ h2 => Group.modQueue_wf h2 _ _)
  · dsimp only
    split
    · exact placeLanes_safe h _ _
    split
    · exact (placeLanes_safe h _ _).modTeam _ _
    split
    · exact placeLanes_safe h _ _
    · exact (((atomLanes_safe (placeLanes_safe h _ _) _ _ _ _ _).requestAgain _ _ _ _).modTeam _ _).acquireIf _ _
  · exact h.drainSeq _ _
  · exact h
  · exact h
  · exact h

theorem Machine.replayAll_safe (c : Ctx) (r : TeamRef) {s : State} (h : Safe s) (l : List ReplayItem) :
    Safe (replayAll c r l s).1 := by
  induction l generalizing s with
  | nil => exact h
  | cons i l ih => exact ih (replayOne_safe c r h i)

theorem Safe.tryReplay {s : State} (h : Safe s) (r : TeamRef) : Safe (s.tryReplay r) := by
  unfold State.tryReplay
  split
  · exact h
  split
  · split
    · exact h
    dsimp only
    split
    · exact (replayAll_safe _ _ ((h.modTeam _ _).acquire _) _).badAccess _ _
    split
    · refine Safe.moved ?_
      refine Safe.raiseTrap ?_ _ _ _ _
      refine Safe.modTeam ?_ _ _
      exact ((replayAll_safe _ _ ((h.modTeam _ _).acquire _) _).modTeam _ _).modGroup _ _ (fun _ h2 => Group.touchQ_wf h2 _)
    · refine Safe.moved ?_
      refine Safe.finishTry ?_ _
      exact ((replayAll_safe _ _ ((h.modTeam _ _).acquire _) _).modTeam _ _).modGroup _ _ (fun _ h2 => Group.touchQ_wf h2 _)
  · exact h

theorem Safe.reportTeam {s : State} (h : Safe s) (r : TeamRef) : Safe (s.reportTeam r) := by
  unfold State.reportTeam
  split
  · exact h
  split
  · dsimp only
    split
    · exact (reportItems_safe _ _ _ h _).badAccess _ _
    · exact ((reportItems_safe _ _ _ h _).modTeam _ _).tryReplay _
  · exact h

theorem Machine.Group.discardEntries_wf {g : Group} (hg : g.pad.wf = true) (items : List ReplayItem) :
    (g.discardEntries items).pad.wf = true := by
  unfold Group.discardEntries
  refine padFold_wf _ ?_ _ _ hg
  intro _ _ h3
  split
  · exact Group.modQueue_wf h3 _ _
  · exact h3

theorem Safe.memFault {s : State} (h : Safe s) (r : TeamRef) (tag : Nat) : Safe (s.memFault r tag) := by
  unfold State.memFault
  split
  · exact h
  split
  · exact h
  split
  · exact h
  refine Safe.moved ?_
  refine Safe.raiseTrap ?_ _ _ _ _
  refine Safe.modTeam ?_ _ _
  refine Safe.modGroup ?_ _ _ (fun _ h2 => Group.touchQ_wf (Group.discardEntries_wf h2 _) _)
  exact safe_foldl _ (fun _ _ h3 => h3.detachOne _ _ _) _ _ h

theorem Safe.wake {s : State} (h : Safe s) (tag : Nat) (w : Waiter) : Safe (s.wake tag w) := by
  unfold State.wake
  split
  · exact (h.modTeam _ _).tryReplay _
  · exact h.same rfl rfl rfl rfl
  · exact h.same rfl rfl rfl rfl
  · exact h.modLaunch _ _
  · exact h
  · exact h
  · exact h
  · exact h.same rfl rfl rfl rfl

theorem Safe.failCtx {s : State} (h : Safe s) (q : PageReq) (w : Waiter) (core : Nat) : Safe (s.failCtx q w core) := by
  unfold State.failCtx
  split
  · exact h.ctxError _ _ _ _ _ _
  · exact h

theorem Safe.failWaiter {s : State} (h : Safe s) (q : PageReq) (w : Waiter) : Safe (s.failWaiter q w) := by
  unfold State.failWaiter
  split
  · exact h.memFault _ _
  · exact h.failCtx _ _ _
  · exact h.failCtx _ _ _
  · exact h
  · exact h.failCtx _ _ _

theorem Safe.dropReq {s : State} (h : Safe s) (part tag : Nat) : Safe (s.dropReq part tag) := h.modPart _ _ (fun _ h2 => h2)

theorem Safe.dropTlb {s : State} (h : Safe s) (part asid va : Nat) : Safe (s.dropTlb part asid va) :=
  h.modPart _ _ (fun _ h2 => h2)

theorem Safe.settle {s : State} (h : Safe s) (q : PageReq) (ok : Bool) : Safe (s.settle q ok) := by
  unfold State.settle
  refine Safe.moved ?_
  refine safe_foldl _ ?_ _ _ ?_
  · intro _ _ h3
    split
    · exact h3.wake _ _
    · exact h3.failWaiter _ _
  · split
    · exact h.dropReq _ _
    · exact h.modPart _ _ (fun _ h2 => h2)

theorem Safe.answerReq {s : State} (h : Safe s) (q : PageReq) (ok : Bool) : Safe (s.answerReq q ok) := by
  unfold State.answerReq
  split
  · exact h.modPart _ _ (fun _ h2 => h2)
  · exact h.settle _ _

theorem Safe.actKept {s : State} (h : Safe s) (part : Nat) : Safe (s.actKept part) := by
  unfold State.actKept
  refine safe_foldl _ ?_ _ _ h
  intro _ _ h3
  split
  · split
    · split
      · exact h3
      · exact h3.settle _ _
    · exact h3
  · exact h3

/-! ### The host's answers -/

theorem Safe.setStatus {s : State} (h : Safe s) (fn : Nat) (st : CmdStatus) : Safe (s.setStatus fn st) := h.modFunc _ _

theorem Safe.modCores {s : State} (h : Safe s) (cs : List Nat) (f : Core → Core) : Safe (s.modCores cs f) :=
  safe_foldl _ (fun _ _ h3 => h3.modCore _ _) _ _ h

theorem Safe.command {s : State} (h : Safe s) (fn part : Nat) (k : State → State) (hk : ∀ (s : State), Safe s → Safe (k s)) :
    Safe (s.command fn part k) := by
  unfold State.command
  split
  · exact h.setStatus _ _
  split
  · exact h.setStatus _ _
  · exact hk _ h

theorem Safe.ofGen {s : State} (h : Safe s) (fn part : Nat) (ctxid gen : Nat) (k : State → Ctx → State) (hk : ∀ (s : State)
    (c : Ctx), Safe s → Safe (k s c)) : Safe (s.ofGen fn part ctxid gen k) := by
  unfold State.ofGen
  split
  · exact h.setStatus _ _
  split
  · exact hk _ _ h
  · exact h.modFunc _ _

theorem Safe.ctxCommand {s : State} (h : Safe s) (fn part : Nat) (ctxid gen : Nat) (k : State → Ctx → State)
    (hk : ∀ (s : State) (c : Ctx), Safe s → Safe (k s c)) : Safe (s.ctxCommand fn part ctxid gen k) :=
  h.command _ _ _ (fun _ h2 => h2.ofGen _ _ _ _ _ hk)

theorem Safe.pfCommand {s : State} (h : Safe s) (fn : Nat) (k : State → State) (hk : ∀ (s : State), Safe s → Safe (k s)) :
    Safe (s.pfCommand fn k) := by
  unfold State.pfCommand
  split
  · exact h.setStatus _ _
  split
  · exact h.setStatus _ _
  · exact hk _ h

theorem Safe.okIf {s : State} (h : Safe s) (fn : Nat) (b : Bool) (k : State → State)
    (hk : ∀ (s : State), Safe s → Safe (k s)) : Safe (s.okIf fn b k) := by
  unfold State.okIf
  split
  · exact ((hk _ h).setStatus _ _).moved
  · exact h.setStatus _ _

theorem Safe.raiseMsix {s : State} (h : Safe s) (fn v : Nat) : Safe (s.raiseMsix fn v) := h.modFunc _ _

/-! ### Scratchpads -/

theorem Machine.Iss.checked_safe {x : Iss} (h : Safe x.s) (c : Check) {k : Act} (ha : k.Safe) : (x.checked c k).Safe := by
  unfold Iss.checked
  split
  · exact ha
  · trivial
  · exact h.freeVal

theorem Machine.Group.notePast_wf {g : Group} (hg : g.pad.wf = true) (book : Bool) (off : Nat) (old : List Byte) :
    (g.notePast book off old).pad.wf = true :=
  hg

theorem Machine.Group.madeBy_wf {g : Group} (hg : g.pad.wf = true) (r : TeamRef) (n : Nat) : (g.madeBy r n).pad.wf = true :=
  hg

theorem Machine.Group.rawPut_wf {g : Group} (hg : g.pad.wf = true) (h : Hdr) (base c x : Nat) :
    (g.rawPut h base c x).pad.wf = true :=
  padWrite_wf hg _ _

/-! ### Engines -/

theorem Machine.xlateByte_safe (c : Ctx) (a : Access) {q : Run} (h : Safe q.s) (va : Nat) : Safe (xlateByte c a q va).s := by
  unfold xlateByte
  split
  · exact h
  split
  · exact h
  · split <;> exact safe_snd ‹_› (h.xlate _ _ _)

theorem Machine.xlateBytes_safe {s : State} (h : Safe s) (c : Ctx) (a : Access) (vas : List Nat) :
    Safe (xlateBytes s c a vas).s :=
  safe_foldl_of Run.s (fun _ _ h3 => xlateByte_safe _ _ h3 _) _ _ h

theorem Safe.engineStop {s : State} (h : Safe s) (c : Ctx) (a : Access) (core : Nat) (w : Waiter) (stop : RunStop) :
    Safe (s.engineStop c a core w stop).1 := by
  unfold State.engineStop
  split
  · exact h.ctxError _ _ _ _ _ _
  · exact h.ctxError _ _ _ _ _ _
  · exact h.joinReq _ _ _ _ _ _ _

/-! ### Overlays -/

theorem Safe.startLoad {s : State} (h : Safe s) (core slot : Nat) (o : OvSlot) : Safe (s.startLoad core slot o) :=
  h.modCore _ _

theorem Safe.needOverlay {s : State} (h : Safe s) (c : Ctx) (core handle ovl : Nat) : OptSafe (s.needOverlay c core handle ovl) := by
  unfold State.needOverlay
  split
  · exact OptSafe.some h
  · exact OptSafe.map fun i => h.startLoad _ _ _

theorem Safe.needOverlays {s : State} (h : Safe s) (c : Ctx) (core : Nat) (l : List (Nat × Nat)) :
    OptSafe (State.needOverlays c core l s) := by
  induction l generalizing s with
  | nil => exact OptSafe.some h
  | cons o l ih => exact (h.needOverlay c core o.1 o.2).bindSafe fun _ hs => ih hs

theorem Safe.readCode {s : State} (h : Safe s) (c : Ctx) (core slot : Nat) (l : List Nat) : Safe (s.readCode c core slot l).1 := by
  induction l generalizing s with
  | nil => exact h
  | cons va l ih =>
    have hx := h.xlate c .code va
    unfold State.readCode
    split
    · exact ih (safe_snd ‹_› hx)
    · exact (safe_snd ‹_› hx).joinReq _ _ _ _ _ _ _
    · exact (safe_snd ‹_› hx).joinReq _ _ _ _ _ _ _
    · exact (safe_snd ‹_› hx).ctxError _ _ _ _ _ _

theorem Machine.execOverlayLoadDone_safe {s : State} (h : Safe s) (core slot : Nat) :
    OutSafe (execOverlayLoadDone core slot s) := by
  unfold execOverlayLoadDone
  split
  · exact OutSafe.next h
  split
  · exact OutSafe.next h
  split
  · exact OutSafe.next ((h.modCore _ _).moved)
  dsimp only
  split
  · exact OutSafe.next (((h.readCode _ _ _ _).modCore _ _).moved)
  · exact OutSafe.next ((h.readCode _ _ _ _).moved)

theorem Machine.Iss.status_safe (x : Iss) {s : State} (h : Safe s) (d : RegField) (st : Nat) : (x.status s d st).Safe :=
  h.modTeam _ _

theorem Machine.execOvload_safe {s : State} (h : Safe s) (d : RegField) (i : BitVec 8) : OutSafe (execOvload d i s) := by
  unfold execOvload
  refine OutSafe.issue h ?_
  intro _ h2 _
  split
  · exact Iss.status_safe _ h2 _ _
  split
  · exact Iss.status_safe _ h2 _ _
  split
  · exact Iss.status_safe _ h2 _ _
  split
  · exact h2
  split
  · exact Iss.status_safe _ (h2.startLoad _ _ _) _ _
  · exact Iss.status_safe _ h2 _ _

theorem Machine.execOvwait_safe {s : State} (h : Safe s) (d : RegField) (i : BitVec 8) : OutSafe (execOvwait d i s) := by
  unfold execOvwait
  refine OutSafe.issue h ?_
  intro _ h2 _
  split
  · exact Iss.status_safe _ h2 _ _
  split
  · split
    · exact Iss.status_safe _ h2 _ _
    · exact h2
  · exact Iss.status_safe _ h2 _ _

theorem Machine.execFcall_safe {s : State} (h : Safe s) (e : BitVec 8) : OutSafe (execFcall e s) := by
  unfold execFcall
  refine OutSafe.issue h ?_
  intro _ h2 _
  dsimp only
  split
  · exact Iss.outsideLoop_safe _ (Iss.call_safe h2 _ _)
  · trivial

/-! ### Floating point -/

theorem Machine.Iss.predFlags_safe {x : Iss} (h : Safe x.s) (p : BitVec 3) (f : Nat → Bool × Flags) :
    (x.predFlags p f).Safe :=
  Iss.okTeam_safe h _

theorem Machine.execFadd_safe {s : State} (h : Safe s) (d a b : RegField) : OutSafe (execFadd d a b s) :=
  OutSafe.issue h (fun _ h2 _ => Iss.lane32_safe h2 _ _)

theorem Machine.execFsub_safe {s : State} (h : Safe s) (d a b : RegField) : OutSafe (execFsub d a b s) :=
  OutSafe.issue h (fun _ h2 _ => Iss.lane32_safe h2 _ _)

theorem Machine.execFmul_safe {s : State} (h : Safe s) (d a b : RegField) : OutSafe (execFmul d a b s) :=
  OutSafe.issue h (fun _ h2 _ => Iss.lane32_safe h2 _ _)

theorem Machine.execFfma_safe {s : State} (h : Safe s) (d a b : RegField) : OutSafe (execFfma d a b s) :=
  OutSafe.issue h (fun _ h2 _ => Iss.lane32_safe h2 _ _)

theorem Machine.execFmin_safe {s : State} (h : Safe s) (d a b : RegField) : OutSafe (execFmin d a b s) :=
  OutSafe.issue h (fun _ h2 _ => Iss.lane32_safe h2 _ _)

theorem Machine.execFmax_safe {s : State} (h : Safe s) (d a b : RegField) : OutSafe (execFmax d a b s) :=
  OutSafe.issue h (fun _ h2 _ => Iss.lane32_safe h2 _ _)

theorem Machine.execFmint_safe {s : State} (h : Safe s) (d a b : RegField) : OutSafe (execFmint d a b s) :=
  OutSafe.issue h (fun _ h2 _ => Iss.lane_safe h2 _ _)

theorem Machine.execFmaxt_safe {s : State} (h : Safe s) (d a b : RegField) : OutSafe (execFmaxt d a b s) :=
  OutSafe.issue h (fun _ h2 _ => Iss.lane_safe h2 _ _)

theorem Machine.execFabs_safe {s : State} (h : Safe s) (d a : RegField) : OutSafe (execFabs d a s) :=
  OutSafe.issue h (fun _ h2 _ => Iss.lane_safe h2 _ _)

theorem Machine.execFneg_safe {s : State} (h : Safe s) (d a : RegField) : OutSafe (execFneg d a s) :=
  OutSafe.issue h (fun _ h2 _ => Iss.lane_safe h2 _ _)

theorem Machine.execFcmp_safe {s : State} (h : Safe s) (c : BitVec 4) (p : BitVec 3) (a b : RegField) :
    OutSafe (execFcmp c p a b s) :=
  OutSafe.issue h (fun _ h2 _ => Iss.predFlags_safe h2 _ _)

theorem Machine.execFclass_safe {s : State} (h : Safe s) (d a : RegField) : OutSafe (execFclass d a s) :=
  OutSafe.issue h (fun _ h2 _ => Iss.lane_safe h2 _ _)

theorem Machine.execFscale_safe {s : State} (h : Safe s) (d a b : RegField) : OutSafe (execFscale d a b s) :=
  OutSafe.issue h (fun _ h2 _ => Iss.lane32_safe h2 _ _)

theorem Machine.execFsel_safe {s : State} (h : Safe s) (d a p : RegField) : OutSafe (execFsel d a p s) :=
  OutSafe.issue h (fun _ h2 _ => Iss.lane_safe h2 _ _)

theorem Machine.Iss.halves_safe {x : Iss} (h : Safe x.s) (d : RegField) (op : Rounding → Nat → Nat → Nat × Flags) :
    (x.halves d op).Safe :=
  Iss.lane32_safe h _ _

theorem Machine.execHadd2_safe {s : State} (h : Safe s) (d a b : RegField) (f : BitVec 1) : OutSafe (execHadd2 d a b f s) :=
  OutSafe.issue h (fun _ h2 _ => Iss.halves_safe h2 _ _)

theorem Machine.execHsub2_safe {s : State} (h : Safe s) (d a b : RegField) (f : BitVec 1) : OutSafe (execHsub2 d a b f s) :=
  OutSafe.issue h (fun _ h2 _ => Iss.halves_safe h2 _ _)

theorem Machine.execHmul2_safe {s : State} (h : Safe s) (d a b : RegField) (f : BitVec 1) : OutSafe (execHmul2 d a b f s) :=
  OutSafe.issue h (fun _ h2 _ => Iss.halves_safe h2 _ _)

theorem Machine.execHfma2_safe {s : State} (h : Safe s) (d a b : RegField) (f : BitVec 1) : OutSafe (execHfma2 d a b f s) :=
  OutSafe.issue h (fun _ h2 _ => Iss.halves_safe h2 _ _)

theorem Machine.execHmax2_safe {s : State} (h : Safe s) (d a b : RegField) (f : BitVec 1) : OutSafe (execHmax2 d a b f s) :=
  OutSafe.issue h (fun _ h2 _ => Iss.halves_safe h2 _ _)

theorem Machine.execHmin2_safe {s : State} (h : Safe s) (d a b : RegField) (f : BitVec 1) : OutSafe (execHmin2 d a b f s) :=
  OutSafe.issue h (fun _ h2 _ => Iss.halves_safe h2 _ _)

theorem Machine.Iss.pend32_safe {x : Iss} (h : Safe x.s) (d : RegField) (f : Nat → Word × Flags) : (x.pend32 d f).Safe :=
  Iss.okTeam_safe h _

theorem Machine.execRcp_safe {s : State} (h : Safe s) (d a : RegField) : OutSafe (execRcp d a s) :=
  OutSafe.issue h (fun _ h2 _ => Iss.pend32_safe h2 _ _)

theorem Machine.execRsq_safe {s : State} (h : Safe s) (d a : RegField) : OutSafe (execRsq d a s) :=
  OutSafe.issue h (fun _ h2 _ => Iss.pend32_safe h2 _ _)

theorem Machine.execSqrtc_safe {s : State} (h : Safe s) (d a : RegField) : OutSafe (execSqrtc d a s) :=
  OutSafe.issue h (fun _ h2 _ => Iss.pend32_safe h2 _ _)

theorem Machine.execExp2c_safe {s : State} (h : Safe s) (d a : RegField) : OutSafe (execExp2c d a s) :=
  OutSafe.issue h (fun _ h2 _ => Iss.pend32_safe h2 _ _)

theorem Machine.execLog2c_safe {s : State} (h : Safe s) (d a : RegField) : OutSafe (execLog2c d a s) :=
  OutSafe.issue h (fun _ h2 _ => Iss.pend32_safe h2 _ _)

theorem Machine.execSinc_safe {s : State} (h : Safe s) (d a : RegField) : OutSafe (execSinc d a s) :=
  OutSafe.issue h (fun _ h2 _ => Iss.pend32_safe h2 _ _)

theorem Machine.execCosc_safe {s : State} (h : Safe s) (d a : RegField) : OutSafe (execCosc d a s) :=
  OutSafe.issue h (fun _ h2 _ => Iss.pend32_safe h2 _ _)

theorem Machine.execTanhc_safe {s : State} (h : Safe s) (d a : RegField) : OutSafe (execTanhc d a s) :=
  OutSafe.issue h (fun _ h2 _ => Iss.pend32_safe h2 _ _)

theorem Machine.execErfc_safe {s : State} (h : Safe s) (d a : RegField) : OutSafe (execErfc d a s) :=
  OutSafe.issue h (fun _ h2 _ => Iss.pend32_safe h2 _ _)

/-! ### Conversions -/

theorem Machine.execCvt_safe {s : State} (h : Safe s) (d a : RegField) : OutSafe (execCvt d a s) := by
  unfold execCvt
  refine OutSafe.issue h ?_
  intro _ h2 _
  dsimp only
  split
  · exact Iss.trapWord_safe _ _
  · exact Iss.lane32_safe h2 _ _

theorem Machine.execCvtsr_safe {s : State} (h : Safe s) (d a b : RegField) : OutSafe (execCvtsr d a b s) := by
  unfold execCvtsr
  refine OutSafe.issue h ?_
  intro _ h2 _
  dsimp only
  split
  · exact Iss.trapWord_safe _ _
  · exact Iss.lane32_safe h2 _ _

theorem Machine.execQuant_safe {s : State} (h : Safe s) (d a b : RegField) : OutSafe (execQuant d a b s) := by
  unfold execQuant
  refine OutSafe.issue h ?_
  intro _ h2 _
  dsimp only
  split
  · exact Iss.trapWord_safe _ _
  · exact Iss.okTeam_safe h2 _

theorem Machine.execDeq_safe {s : State} (h : Safe s) (d a b : RegField) : OutSafe (execDeq d a b s) := by
  unfold execDeq
  refine OutSafe.issue h ?_
  intro _ h2 _
  dsimp only
  split
  · exact Iss.trapWord_safe _ _
  · exact Iss.lane32_safe h2 _ _

theorem Machine.execPack_safe {s : State} (h : Safe s) (d a b : RegField) : OutSafe (execPack d a b s) :=
  OutSafe.issue h (fun _ h2 _ => Iss.lane_safe h2 _ _)

theorem Machine.execUnpack_safe {s : State} (h : Safe s) (d a k : RegField) : OutSafe (execUnpack d a k s) :=
  OutSafe.issue h (fun _ h2 _ => Iss.lane_safe h2 _ _)

theorem Machine.execCbld_safe {s : State} (h : Safe s) (i a : RegField) : OutSafe (execCbld i a s) := by
  unfold execCbld
  refine OutSafe.issue h ?_
  intro _ h2 _
  refine h2.modGroup _ _ ?_
  intro _ h5
  refine Group.madeBy_wf ?_ _ _
  refine padFold_wf _ ?_ _ _ h5
  intro _ _ h8
  dsimp only
  exact Group.notePast_wf h8 _ _ _

theorem Machine.execTokey_safe {s : State} (h : Safe s) (d a : RegField) : OutSafe (execTokey d a s) := by
  unfold execTokey
  refine OutSafe.issue h ?_
  intro _ h2 _
  split
  · exact Iss.lane_safe h2 _ _
  · exact Iss.lane_safe h2 _ _
  · exact Iss.lane_safe h2 _ _
  · exact Iss.lane_safe h2 _ _
  · exact Iss.trapWord_safe _ _

/-! ### Tile accesses -/

theorem Machine.Iss.tld_safe {x : Iss} (h : Safe x.s) (d a : RegField) (n : Nat) (pair : Bool) :
    (x.tld d a n pair).Safe := by
  unfold Iss.tld
  split
  · exact h
  · exact Iss.checked_safe h _ (Iss.okTeam_safe h _)

theorem Machine.execTld_safe {s : State} (h : Safe s) (d a : RegField) (t : BitVec 4) : OutSafe (execTld d a t s) :=
  OutSafe.issue h (fun _ h2 _ => Iss.tld_safe h2 _ _ _ _)

theorem Machine.execTldr_safe {s : State} (h : Safe s) (d a : RegField) (t : BitVec 4) : OutSafe (execTldr d a t s) :=
  OutSafe.issue h (fun _ h2 _ => Iss.tld_safe h2 _ _ _ _)

theorem Machine.Iss.tst_safe {x : Iss} (h : Safe x.s) (d a : RegField) (n : Nat) (pair : Bool) :
    (x.tst d a n pair).Safe := by
  unfold Iss.tst
  split
  · exact h
  refine Iss.checked_safe h _ ?_
  refine Safe.modTeam ?_ _ _
  refine h.modGroup _ _ ?_
  intro _ h2
  refine storePad_wf _ ?_ _
  exact padFold_wf _ (fun _ _ h5 => Group.rawPut_wf h5 _ _ _ _) _ _ h2

theorem Machine.execTst_safe {s : State} (h : Safe s) (d a : RegField) (t : BitVec 4) : OutSafe (execTst d a t s) :=
  OutSafe.issue h (fun _ h2 _ => Iss.tst_safe h2 _ _ _ _)

theorem Machine.execTstr_safe {s : State} (h : Safe s) (d a : RegField) (t : BitVec 4) : OutSafe (execTstr d a t s) :=
  OutSafe.issue h (fun _ h2 _ => Iss.tst_safe h2 _ _ _ _)

theorem Safe.bindHandle {s : State} (safe : Safe s) (r : TeamRef) (t : Team) (n : Nat) (h : Option Nat) :
    Safe (s.bindHandle r t n h) := by
  unfold State.bindHandle
  split
  · exact safe.modTeam _ _
  · exact safe.modGroup _ _ (fun _ h2 => h2)

theorem Machine.execTbind_safe {s : State} (h : Safe s) (a : RegField) (t : BitVec 4) : OutSafe (execTbind a t s) := by
  unfold execTbind
  refine OutSafe.issue h ?_
  intro _ h2 _
  split
  · exact h2
  dsimp only
  split
  · trivial
  · exact h2.bindHandle _ _ _ _

theorem Machine.tileAtomLane_wf (t : Team) (h : Hdr) (op : TileOp) (d : RegField) {q : TileAtoms} (safe : q.g.pad.wf = true)
    (e : ElemAt) : (tileAtomLane t h op d q e).g.pad.wf = true := by
  unfold tileAtomLane
  split
  · exact Group.rawPut_wf safe _ _ _ _
  · exact Group.rawPut_wf safe _ _ _ _
  · exact Group.rawPut_wf (Group.rawPut_wf safe _ _ _ _) _ _ _ _

theorem Machine.Iss.atomt_safe {x : Iss} (h : Safe x.s) (hg : x.g.pad.wf = true) (op : TileOp) (d a : RegField) (n : Nat) :
    (x.atomt op d a n).Safe := by
  unfold Iss.atomt
  split
  · exact h
  refine Iss.checked_safe h _ ?_
  refine Iss.demoted_safe _ ?_ _
  refine Safe.modTeam ?_ _ _
  exact h.modGroup _ _ (fun _ _ => wf_foldl_of TileAtoms.g (fun _ _ h5 => tileAtomLane_wf _ _ _ _ h5 _) _ _ hg)

theorem Machine.execAtomtAdd_safe {s : State} (h : Safe s) (d a : RegField) (t : BitVec 4) :
    OutSafe (execAtomtAdd d a t s) :=
  OutSafe.issue h (fun _ h2 h3 => Iss.atomt_safe h2 h3 _ _ _ _)

theorem Machine.execAtomtMinI_safe {s : State} (h : Safe s) (d a : RegField) (t : BitVec 4) :
    OutSafe (execAtomtMinI d a t s) :=
  OutSafe.issue h (fun _ h2 h3 => Iss.atomt_safe h2 h3 _ _ _ _)

theorem Machine.execAtomtMaxI_safe {s : State} (h : Safe s) (d a : RegField) (t : BitVec 4) :
    OutSafe (execAtomtMaxI d a t s) :=
  OutSafe.issue h (fun _ h2 h3 => Iss.atomt_safe h2 h3 _ _ _ _)

theorem Machine.execAtomtMinN_safe {s : State} (h : Safe s) (d a : RegField) (t : BitVec 4) :
    OutSafe (execAtomtMinN d a t s) :=
  OutSafe.issue h (fun _ h2 h3 => Iss.atomt_safe h2 h3 _ _ _ _)

theorem Machine.execAtomtMaxN_safe {s : State} (h : Safe s) (d a : RegField) (t : BitVec 4) :
    OutSafe (execAtomtMaxN d a t s) :=
  OutSafe.issue h (fun _ h2 h3 => Iss.atomt_safe h2 h3 _ _ _ _)

theorem Machine.execAtomtAnd_safe {s : State} (h : Safe s) (d a : RegField) (t : BitVec 4) :
    OutSafe (execAtomtAnd d a t s) :=
  OutSafe.issue h (fun _ h2 h3 => Iss.atomt_safe h2 h3 _ _ _ _)

theorem Machine.execAtomtOr_safe {s : State} (h : Safe s) (d a : RegField) (t : BitVec 4) : OutSafe (execAtomtOr d a t s) :=
  OutSafe.issue h (fun _ h2 h3 => Iss.atomt_safe h2 h3 _ _ _ _)

theorem Machine.execAtomtXor_safe {s : State} (h : Safe s) (d a : RegField) (t : BitVec 4) :
    OutSafe (execAtomtXor d a t s) :=
  OutSafe.issue h (fun _ h2 h3 => Iss.atomt_safe h2 h3 _ _ _ _)

theorem Machine.execAtomtSwap_safe {s : State} (h : Safe s) (d a : RegField) (t : BitVec 4) :
    OutSafe (execAtomtSwap d a t s) :=
  OutSafe.issue h (fun _ h2 h3 => Iss.atomt_safe h2 h3 _ _ _ _)

theorem Machine.execAtomtFadd_safe {s : State} (h : Safe s) (d a : RegField) (t : BitVec 4) :
    OutSafe (execAtomtFadd d a t s) :=
  OutSafe.issue h (fun _ h2 h3 => Iss.atomt_safe h2 h3 _ _ _ _)

theorem Machine.execAtomtMaxpk_safe {s : State} (h : Safe s) (d a : RegField) (t : BitVec 4) :
    OutSafe (execAtomtMaxpk d a t s) :=
  OutSafe.issue h (fun _ h2 h3 => Iss.atomt_safe h2 h3 _ _ _ _)

theorem Machine.execCastt_safe {s : State} (h : Safe s) (d a : RegField) (t : BitVec 4) : OutSafe (execCastt d a t s) :=
  OutSafe.issue h (fun _ h2 h3 => Iss.atomt_safe h2 h3 _ _ _ _)

/-! ### Copies -/

theorem Safe.admitCopies {s : State} (h : Safe s) (core : Nat) : Safe (s.admitCopies core) := h.same rfl rfl rfl rfl

theorem Machine.Iss.copies_safe {x : Iss} (h : Safe x.s) (kind : CopyKind) (a b : RegField) : (x.copies kind a b).Safe := by
  unfold Iss.copies
  split
  · trivial
  refine Safe.admitCopies ?_ _
  exact h.same rfl rfl rfl rfl

theorem Machine.execCpy_safe {s : State} (h : Safe s) (a b : RegField) : OutSafe (execCpy a b s) :=
  OutSafe.issue h (fun _ h2 _ => Iss.copies_safe h2 _ _ _)

theorem Machine.execCpym_safe {s : State} (h : Safe s) (d a b : RegField) : OutSafe (execCpym d a b s) :=
  OutSafe.issue h (fun _ h2 _ => Iss.copies_safe h2 _ _ _)

theorem Machine.execCpys_safe {s : State} (h : Safe s) (a b : RegField) : OutSafe (execCpys a b s) :=
  OutSafe.issue h (fun _ h2 _ => Iss.copies_safe h2 _ _ _)

theorem Machine.execCbatch_safe {s : State} (h : Safe s) (d : RegField) : OutSafe (execCbatch d s) := by
  unfold execCbatch
  refine OutSafe.issue h ?_
  intro _ h2 _
  split
  · exact h2
  · exact Iss.okTeam_safe h2 _

theorem Machine.execCwait_safe {s : State} (h : Safe s) (d a : RegField) : OutSafe (execCwait d a s) := by
  unfold execCwait
  refine OutSafe.issue h ?_
  intro _ h2 _
  dsimp only
  split
  · exact Iss.okTeam_safe h2 _
  split
  · exact h2
  · exact (Iss.put_safe h2 _).acquire _

theorem Safe.countBytes {s : State} (h : Safe s) (uid bo n : Nat) : Safe (s.countBytes uid bo n) := by
  unfold State.countBytes
  refine Safe.moved ?_
  exact h.modGroup _ _ (fun _ h2 => Group.modObj_wf h2 _ _)

theorem Safe.modCopy {s : State} (h : Safe s) (seq : Nat) (f : Copy → Copy) : Safe (s.modCopy seq f) := h.same rfl rfl rfl rfl

theorem Safe.copyCount {s : State} (h : Safe s) (c : Copy) (bo : Option Nat) (n uid : Nat) :
    Safe (s.copyCount c bo n uid) := by
  unfold State.copyCount
  split
  · exact h
  · exact (h.countBytes _ _ _).modCopy _ _

theorem Safe.copyDone {s : State} (h : Safe s) (c : Copy) (bits : BitVec 8) : Safe (s.copyDone c bits) := by
  unfold State.copyDone
  refine Safe.moved ?_
  refine Safe.carveTry ?_
  split
  · refine Safe.admitCopies ?_ _
    refine Safe.modTeam ?_ _ _
    exact h.same rfl rfl rfl rfl
  · refine Safe.modTeam ?_ _ _
    exact h.same rfl rfl rfl rfl

theorem Machine.Shape.header_wf (h : Shape) {g : Group} (hg : g.pad.wf = true) : (h.header g).pad.wf = true := by
  unfold Shape.header
  split
  · exact padWrite_wf (padWrite_wf hg _ _) _ _
  · exact hg

theorem Machine.writeOut_safe (bits : Nat) {s : State} (h : Safe s) (es : List (Nat × Nat)) (ps : List Place) :
    Safe (writeOut bits s es ps) := by
  induction es generalizing s ps with
  | nil => exact h
  | cons e es ih => exact ih (h.writePlaces _ _) _

theorem Safe.copyStop {s : State} (h : Safe s) (c : Copy) (x : Ctx) (a : Access) (stop : RunStop) :
    Safe (s.copyStop c x a stop) := by
  unfold State.copyStop
  dsimp only
  split
  · exact (h.engineStop _ _ _ _ _).modCopy _ _
  · exact h.engineStop _ _ _ _ _

theorem Machine.execCopyStart_safe {s : State} (h : Safe s) (seq : Nat) : OutSafe (execCopyStart seq s) := by
  have read (x : Ctx) (va : List Nat) := Machine.xlateBytes_safe h x .read va
  unfold execCopyStart
  split
  · split
    · exact OutSafe.next (h.modCopy _ _).moved
    · exact OutSafe.next h
  · split
    · exact OutSafe.next (h.modCopy _ _).moved
    · dsimp only
      split
      · exact OutSafe.next (h.copyDone _ _)
      · exact OutSafe.next (h.modCopy _ _).moved
    · dsimp only
      split
      · exact OutSafe.next ((read _ _).copyStop _ _ _ _).moved
      · split
        · exact OutSafe.next ((read _ _).copyDone _ _)
        · exact OutSafe.next (((read _ _).modGroup _ _ fun _ hg => Shape.header_wf _ hg).modCopy _ _).moved

theorem Safe.copyNext {s : State} (h : Safe s) (c : Copy) (pos total : Nat) (bits : BitVec 8) :
    Safe (s.copyNext c pos total bits) := by
  unfold State.copyNext
  split
  · exact h.copyDone _ _
  · exact (h.modCopy _ _).moved

theorem Safe.pieceDone {s : State} (h : Safe s) (c : Copy) (n : Nat) (rest : List Byte) : Safe (s.pieceDone c n rest) :=
  (h.modCopy _ _).copyNext _ _ _ _

theorem Safe.pieceIn {s : State} (h : Safe s) (c : Copy) (x : Ctx) (recv : List Nat) : Safe (s.pieceIn c x recv) := by
  unfold State.pieceIn
  dsimp only
  split
  · exact ((xlateBytes_safe h _ _ _).copyStop _ _ _ _).moved
  refine Safe.pieceDone ?_ _ _ _
  refine safe_foldl _ ?_ _ _ (xlateBytes_safe h _ _ _)
  intro _ _ h3
  refine Safe.copyCount ?_ _ _ _ _
  exact h3.modGroup _ _ (fun _ h5 => padWords_wf h5 _ _)

theorem Safe.pieceOut {s : State} (h : Safe s) (c : Copy) (g : Group) (x : Ctx) : Safe (s.pieceOut c g x) := by
  unfold State.pieceOut
  dsimp only
  split
  · exact ((xlateBytes_safe h _ _ _).copyStop _ _ _ _).moved
  · exact (((xlateBytes_safe h _ _ _).writePlaces _ _).copyCount _ _ _ _).pieceDone _ _ _

theorem Safe.shapeDone {s : State} (safe : Safe s) (c : Copy) (h : Shape) (ws : List (Nat × List Byte))
    (outs : List ((Nat × Nat) × ShapeOut)) : Safe (s.shapeDone c h ws outs) :=
  ((safe.copyCount _ _ _ _).modCopy _ _).copyNext _ _ _ _

theorem Safe.shapeIn {s : State} (safe : Safe s) (c : Copy) (g : Group) (x : Ctx) (h : Shape) :
    Safe (s.shapeIn c g x h) := by
  unfold State.shapeIn
  dsimp only
  split
  · exact ((xlateBytes_safe safe _ _ _).copyStop _ _ _ _).moved
  refine Safe.shapeDone ?_ _ _ _ _
  exact (xlateBytes_safe safe _ _ _).modGroup _ _ (fun _ h2 => padPut_wf h2 _)

theorem Safe.shapeOutward {s : State} (safe : Safe s) (c : Copy) (g : Group) (x : Ctx) (h : Shape) :
    Safe (s.shapeOutward c g x h) := by
  unfold State.shapeOutward
  dsimp only
  split
  · exact ((xlateBytes_safe safe _ _ _).copyStop _ _ _ _).moved
  · exact ((xlateBytes_safe safe _ _ _).writePlaces _ _).shapeDone _ _ _ _

theorem Machine.execCopyPiece_safe {s : State} (h : Safe s) (seq : Nat) : OutSafe (execCopyPiece seq s) := by
  unfold execCopyPiece
  split
  · exact OutSafe.next h
  split
  · split
    · exact OutSafe.next (h.pieceOut _ _ _)
    · exact OutSafe.next (h.pieceIn _ _ _)
  · exact OutSafe.next (h.pieceIn _ _ _)
  · dsimp only
    split
    · exact OutSafe.next (h.shapeOutward _ _ _ _)
    · exact OutSafe.next (h.shapeIn _ _ _ _)

theorem Safe.uncount {s : State} (h : Safe s) (p : Nat × Nat × Nat) : Safe (s.uncount p) := h.modGroup _ _ (fun _ h2 => h2)

theorem Safe.abortCopies {s : State} (h : Safe s) (uids : List Nat) : Safe (s.abortCopies uids) := by
  unfold State.abortCopies
  refine Safe.same ?_ rfl rfl rfl rfl
  exact safe_foldl _ (fun _ _ h3 => h3.uncount _) _ _ h

theorem Safe.reissueCopies {s : State} (h : Safe s) (uids : List Nat) : Safe (s.reissueCopies uids) := by
  unfold State.reissueCopies
  refine safe_foldl _ ?_ _ _ ?_
  · intro _ _ h3
    split
    · exact h3.admitCopies _
    · exact h3
  · exact h.same rfl rfl rfl rfl

/-! ### Results in tiles -/

theorem Machine.Group.putTag_wf {g : Group} (hg : g.pad.wf = true) (h : Hdr) (dom : Nat) (surv : List Nat) (fell : Bool) :
    (g.putTag h dom surv fell).pad.wf = true :=
  padWrite_wf hg _ _

theorem Machine.Iss.tileOp_safe {x : Iss} (h : Safe x.s) (u : TileUse) (result : Unit → Machine.Group × Flags) :
    (x.tileOp u result).Safe := by
  unfold Iss.tileOp
  split
  · exact h
  refine Iss.checked_safe h _ ?_
  refine Safe.modTeam ?_ _ _
  exact h.modGroup _ _ (fun _ h2 => Group.madeBy_wf (adopt_wf h2 _) _ _)

theorem Machine.issueTile_safe (i : Instr) {s : State} (h : Safe s) (body : Iss → Act)
    (hk : ∀ (y : Iss), Safe y.s → y.g.pad.wf = true → (body y).Safe) : OutSafe (issueTile i s body) :=
  OutSafe.issue h (fun _ h2 h3 => hk _ h2 (padView_wf h3))

theorem Machine.execWstore_safe {s : State} (h : Safe s) (d a : RegField) (l : BitVec 3) : OutSafe (execWstore d a l s) :=
  issueTile_safe _ h _ (fun _ h2 _ => Iss.tileOp_safe h2 _ _)

theorem Machine.execWrec_safe {s : State} (h : Safe s) (d a : RegField) : OutSafe (execWrec d a s) :=
  issueTile_safe _ h _ (fun _ h2 _ => Iss.tileOp_safe h2 _ _)

theorem Machine.execWth_safe {s : State} (h : Safe s) (d a : RegField) : OutSafe (execWth d a s) :=
  issueTile_safe _ h _ (fun _ h2 _ => Iss.tileOp_safe h2 _ _)

theorem Machine.execWtag_safe {s : State} (h : Safe s) (d a : RegField) : OutSafe (execWtag d a s) := by
  unfold execWtag
  refine issueTile_safe _ h _ ?_
  intro _ h2 _
  dsimp only
  split
  · exact Iss.okTeam_safe h2 _
  refine Iss.checked_safe h2 _ ?_
  split
  · split
    · exact h2.modTeam _ _
    · exact (h2.modTeam _ _).modGroup _ _ (fun _ h5 => storePad_wf _ (Group.putTag_wf h5 _ _ _ _) _)
  · exact h2.modTeam _ _

/-! ### Lane exchange -/

theorem Machine.Iss.pend64_safe {x : Iss} (h : Safe x.s) (d : RegField) (flags : Flags) (f : Nat → DWord) :
    (x.pend64 d flags f).Safe :=
  Iss.okTeam_safe h _

theorem Machine.Iss.pendParts_safe {x : Iss} (h : Safe x.s) (d : RegField) (parts : List (Nat × Machine.Part)) :
    (x.pendParts d parts).Safe :=
  Iss.okTeam_safe h _

theorem Machine.execQxch_safe {s : State} (h : Safe s) (d a m : RegField) : OutSafe (execQxch d a m s) :=
  OutSafe.issue h (fun _ h2 _ => Iss.pend64_safe h2 _ _ _)

theorem Machine.execQbc_safe {s : State} (h : Safe s) (d a k : RegField) : OutSafe (execQbc d a k s) :=
  OutSafe.issue h (fun _ h2 _ => Iss.pend64_safe h2 _ _ _)

theorem Machine.execShfl_safe {s : State} (h : Safe s) (d a b : RegField) : OutSafe (execShfl d a b s) :=
  OutSafe.issue h (fun _ h2 _ => Iss.pend64_safe h2 _ _ _)

theorem Machine.execShflDn_safe {s : State} (h : Safe s) (d a : RegField) (o : BitVec 5) : OutSafe (execShflDn d a o s) :=
  OutSafe.issue h (fun _ h2 _ => Iss.pend64_safe h2 _ _ _)

theorem Machine.execShflUp_safe {s : State} (h : Safe s) (d a : RegField) (o : BitVec 5) : OutSafe (execShflUp d a o s) :=
  OutSafe.issue h (fun _ h2 _ => Iss.pend64_safe h2 _ _ _)

theorem Machine.execShflXor_safe {s : State} (h : Safe s) (d a : RegField) (o : BitVec 5) : OutSafe (execShflXor d a o s) :=
  OutSafe.issue h (fun _ h2 _ => Iss.pend64_safe h2 _ _ _)

theorem Machine.execSred_safe {s : State} (h : Safe s) (d a : RegField) (o : BitVec 3) : OutSafe (execSred d a o s) :=
  OutSafe.issue h (fun _ h2 _ => Iss.pendParts_safe h2 _ _)

theorem Machine.execSscan_safe {s : State} (h : Safe s) (d a : RegField) (e : BitVec 1) (o : BitVec 3) :
    OutSafe (execSscan d a e o s) :=
  OutSafe.issue h (fun _ h2 _ => Iss.pendParts_safe h2 _ _)

theorem Machine.execVote_safe {s : State} (h : Safe s) (d p b : RegField) : OutSafe (execVote d p b s) := by
  unfold execVote
  refine OutSafe.issue h ?_
  intro _ h2 _
  dsimp only
  split
  · exact Iss.trapWord_safe _ _
  · exact Iss.pend64_safe h2 _ _ _

theorem Machine.execTred_safe {s : State} (h : Safe s) (d a : RegField) (o : BitVec 3) : OutSafe (execTred d a o s) :=
  OutSafe.issue h (fun _ h2 _ => Iss.pendParts_safe h2 _ _)

theorem Machine.execTbc_safe {s : State} (h : Safe s) (d a b : RegField) : OutSafe (execTbc d a b s) :=
  OutSafe.issue h (fun _ h2 _ => Iss.pend64_safe h2 _ _ _)

theorem Machine.execMatchx_safe {s : State} (h : Safe s) (d a b : RegField) : OutSafe (execMatchx d a b s) := by
  unfold execMatchx
  refine OutSafe.issue h ?_
  intro _ h2 _
  dsimp only
  split
  · exact Iss.trapWord_safe _ _
  · exact Iss.pend64_safe h2 _ _ _

/-! ### The tile-vector unit -/

theorem Machine.Iss.tvBinary_safe {x : Iss} (h : Safe x.s) (d a b : RegField) (f : Word → Word → Word × Flags) :
    (x.tvBinary d a b f).Safe := by
  unfold Iss.tvBinary
  exact Iss.tileOp_safe h _ _

theorem Machine.execTvadd_safe {s : State} (h : Safe s) (d a b : RegField) : OutSafe (execTvadd d a b s) :=
  issueTile_safe _ h _ (fun _ h2 _ => Iss.tvBinary_safe h2 _ _ _ _)

theorem Machine.execTvsub_safe {s : State} (h : Safe s) (d a b : RegField) : OutSafe (execTvsub d a b s) :=
  issueTile_safe _ h _ (fun _ h2 _ => Iss.tvBinary_safe h2 _ _ _ _)

theorem Machine.execTvmulc_safe {s : State} (h : Safe s) (d a b : RegField) : OutSafe (execTvmulc d a b s) :=
  issueTile_safe _ h _ (fun _ h2 _ => Iss.tileOp_safe h2 _ _)

theorem Machine.execTvaxpy_safe {s : State} (h : Safe s) (d a b : RegField) : OutSafe (execTvaxpy d a b s) :=
  issueTile_safe _ h _ (fun _ h2 _ => Iss.tileOp_safe h2 _ _)

theorem Machine.execTvbias_safe {s : State} (h : Safe s) (d a b : RegField) : OutSafe (execTvbias d a b s) :=
  issueTile_safe _ h _ (fun _ h2 _ => Iss.tileOp_safe h2 _ _)

theorem Machine.execTvcvt_safe {s : State} (h : Safe s) (d a : RegField) : OutSafe (execTvcvt d a s) :=
  issueTile_safe _ h _ (fun _ h2 _ => Iss.tileOp_safe h2 _ _)

theorem Machine.Iss.tvRows_safe {x : Iss} (h : Safe x.s) (d a : RegField) (f : FRow → FRow × Flags) :
    (x.tvRows d a f).Safe := by
  unfold Iss.tvRows
  exact Iss.tileOp_safe h _ _

theorem Machine.execTvact_safe {s : State} (h : Safe s) (d a : RegField) (k : BitVec 3) : OutSafe (execTvact d a k s) :=
  issueTile_safe _ h _ (fun _ h2 _ => Iss.tvRows_safe h2 _ _ _)

theorem Machine.execTvnorm_safe {s : State} (h : Safe s) (d a b : RegField) : OutSafe (execTvnorm d a b s) :=
  issueTile_safe _ h _ (fun _ h2 _ => Iss.tvRows_safe h2 _ _ _)

theorem Machine.execTvnormRms_safe {s : State} (h : Safe s) (d a b : RegField) : OutSafe (execTvnormRms d a b s) :=
  issueTile_safe _ h _ (fun _ h2 _ => Iss.tvRows_safe h2 _ _ _)

theorem Machine.execTvsmax_safe {s : State} (h : Safe s) (d a b : RegField) : OutSafe (execTvsmax d a b s) :=
  issueTile_safe _ h _ (fun _ h2 _ => Iss.tvRows_safe h2 _ _ _)

/-! ### Tasks -/

theorem Machine.Group.modCard_wf {g : Group} (hg : g.pad.wf = true) (task : BitVec 16) (f : Card → Card) :
    (g.modCard task f).pad.wf = true :=
  hg

theorem Safe.modEngine {s : State} (h : Safe s) (core e : Nat) (f : Engine → Engine) : Safe (s.modEngine core e f) :=
  h.modCore _ _

theorem Safe.bindEngine {s : State} (h : Safe s) (g : Group) (lid : Nat) : Safe (s.bindEngine g lid) := by
  unfold State.bindEngine
  split
  · exact h.modEngine _ _ _
  · exact h

theorem Machine.Group.releaseLid_wf {g : Group} (hg : g.pad.wf = true) (lid : Nat) : (g.releaseLid lid).pad.wf = true := by
  unfold Group.releaseLid
  split <;> exact hg

theorem Safe.completeCard {s : State} (h : Safe s) (uid : Nat) (c : Card) (status : Word) (ran : Bool) :
    Safe (s.completeCard uid c status ran) := by
  unfold State.completeCard
  refine Safe.moved ?_
  refine Safe.carveTry ?_
  split
  · split
    · refine Safe.modGroup ?_ _ _ (fun _ h2 => Group.modObj_wf h2 _ _)
      exact h.modGroup _ _ (fun _ h2 => h2)
    · exact h.modGroup _ _ (fun _ h2 => h2)
  · split
    · split
      · refine Safe.modGroup ?_ _ _ (fun _ h2 => Group.releaseLid_wf h2 _)
        refine Safe.modEngine ?_ _ _ _
        split
        · refine Safe.modGroup ?_ _ _ (fun _ h2 => Group.modObj_wf h2 _ _)
          exact h.modGroup _ _ (fun _ h2 => h2)
        · exact h.modGroup _ _ (fun _ h2 => h2)
      · split
        · refine Safe.modGroup ?_ _ _ (fun _ h2 => Group.modObj_wf h2 _ _)
          exact h.modGroup _ _ (fun _ h2 => h2)
        · exact h.modGroup _ _ (fun _ h2 => h2)
    · split
      · refine Safe.modGroup ?_ _ _ (fun _ h2 => Group.modObj_wf h2 _ _)
        exact h.modGroup _ _ (fun _ h2 => h2)
      · exact h.modGroup _ _ (fun _ h2 => h2)

theorem Safe.finishCard {s : State} (h : Safe s) (uid : Nat) (c : Card) : Safe (s.finishCard uid c) := h.completeCard _ _ _ _

theorem Machine.Group.queueCard_wf {g : Group} (hg : g.pad.wf = true) (c : Card) : (g.queueCard c).pad.wf = true := hg

theorem Machine.execMtask_safe {s : State} (h : Safe s) (d a : RegField) : OutSafe (execMtask d a s) := by
  unfold execMtask
  refine OutSafe.issue h ?_
  intro _ h2 _
  split
  · exact h2
  split
  · dsimp only
    split
    · trivial
    split
    · exact Iss.trapWord_safe _ _
    · exact h2
  · dsimp only
    split
    · trivial
    split
    · exact Iss.trapWord_safe _ _
    refine Safe.modTeam ?_ _ _
    refine Safe.modGroup ?_ _ _ (fun _ h5 => Group.queueCard_wf h5 _)
    exact h2.same rfl rfl rfl rfl

theorem Machine.execMwait_safe {s : State} (h : Safe s) (d a : RegField) : OutSafe (execMwait d a s) := by
  unfold execMwait
  refine OutSafe.issue h ?_
  intro _ h2 _
  dsimp only
  split
  · exact Iss.okTeam_safe h2 _
  split
  · exact h2
  · exact (h2.modTeam _ _).acquire _

theorem Machine.execMstat_safe {s : State} (h : Safe s) (d a k : RegField) : OutSafe (execMstat d a k s) := by
  unfold execMstat
  refine OutSafe.issue h ?_
  intro _ h2 _
  split
  · exact Iss.okTeam_safe h2 _
  · split
    · exact h2.modTeam _ _
    · exact (h2.modTeam _ _).modGroup _ _ (fun _ h5 => h5)
  · exact Iss.okTeam_safe h2 _

theorem Machine.execMcancel_safe {s : State} (h : Safe s) (d a : RegField) : OutSafe (execMcancel d a s) := by
  unfold execMcancel
  refine OutSafe.issue h ?_
  intro _ h2 _
  split
  · exact h2
  dsimp only
  split
  · exact h2.modTeam _ _
  split
  · split
    · exact (h2.completeCard _ _ _ _).modTeam _ _
    · exact h2.modTeam _ _
  · exact h2.modTeam _ _

/-! ### Launches and placing -/

/-- A fold of writes keeps the canonical form. -/
theorem memFold_wf {α : Type} {f : Memory → α → Memory} (hf : ∀ m a, Memory.wf m = true → Memory.wf (f m a) = true) (l : List α)
    {m : Memory} (h : Memory.wf m = true) : Memory.wf (l.foldl f m) = true := by
  induction l generalizing m with
  | nil => exact h
  | cons a l ih => exact ih (hf m a h)

theorem Machine.Kernel.pad_wf (k : Kernel) : Memory.wf k.pad = true :=
  memFold_wf (fun m p hm => memWriteN_wf (p.1.header p.2) m (32 * p.1.num) hm) _ wf_nil
theorem Machine.Launch.newGroup_wf (l : Launch) (c : Ctx) (k : Kernel) (v : SchedDecl) (uid core : Nat) (parts : List (Nat × Nat)) :
    Memory.wf (l.newGroup c k v uid core parts).pad = true := by
  dsimp only [Launch.newGroup]
  exact Kernel.pad_wf k

theorem Safe.addGroup {s : State} (h : Safe s) (c : Ctx) {g : Group} (hg : Memory.wf g.pad = true) : OptSafe (s.addGroup c g) := by
  refine Safe.needOverlays (s := { s with groups := s.groups ++ [g] }) (h.of_eq rfl rfl (fun b hb => ?_) rfl) _ _ _
  rcases List.mem_append.mp hb with hb | hb
  · exact h.2.2.1 b hb
  · rw [List.mem_singleton.mp hb]
    exact hg

theorem Safe.placeOn {s : State} (h : Safe s) (l : Launch) (core : Nat) : OptSafe (s.placeOn l core) := by
  have numbered : Safe { s with nextUid := s.nextUid + 1 } := h.same rfl rfl rfl rfl
  unfold State.placeOn
  split
  · exact OptSafe.none
  split
  · exact OptSafe.none
  split
  · exact OptSafe.none
  split
  · exact OptSafe.none
  · refine numbered.addGroup _ ?_
    exact Launch.newGroup_wf l _ _ _ _ _ _

theorem Machine.execGroupPlace_safe {s : State} (h : Safe s) (lid : Nat) : OutSafe (execGroupPlace lid s) := by
  unfold execGroupPlace
  split
  · exact OutSafe.next h
  split
  · exact OutSafe.next h
  split
  · exact OutSafe.next h
  refine OutSafe.next ?_
  refine Safe.moved ?_
  refine Safe.modLaunch ?_ _ _
  refine OptSafe.get ‹_› ?_
  exact OptSafe.bind (fun _ => h.placeOn _ _)

theorem Machine.Group.start_wf {g : Group} (hg : g.pad.wf = true) (age clk : Nat) : (g.start age clk).pad.wf = true := hg

theorem Machine.execGroupStart_safe {s : State} (h : Safe s) (uid : Nat) : OutSafe (execGroupStart uid s) := by
  unfold execGroupStart
  split
  · exact OutSafe.next h
  split
  · exact OutSafe.next h
  refine OutSafe.next ?_
  refine Safe.moved ?_
  refine Safe.carveTry ?_
  refine safe_foldl _ (fun _ _ h3 => h3.tryReplay _) _ _ ?_
  refine Safe.actKept ?_ _
  refine safe_foldl _ (fun _ _ h3 => h3.acquire _) _ _ ?_
  refine Safe.same ?_ rfl rfl rfl rfl
  exact h.modGroup _ _ (fun _ h2 => Group.start_wf h2 _ _)

/-! ### The loader -/

theorem Machine.execImageLoad_safe {s : State} (h : Safe s) (fn part : Nat) (who : CtxName) (image : List Byte) :
    OutSafe (execImageLoad fn part who image s) := by
  unfold execImageLoad
  refine OutSafe.next ?_
  refine h.ctxCommand _ _ _ _ _ ?_
  intro _ _ h3
  split
  · split
    · exact h3.setStatus _ _
    split
    · exact ((h3.modCtx _ _ _).setStatus _ _).moved
    · exact h3.setStatus _ _
  · exact h3.setStatus _ _

theorem Machine.execKeyInstall_safe {s : State} (h : Safe s) (fn part idx : Nat) (key : List Byte) :
    OutSafe (execKeyInstall fn part idx key s) := by
  unfold execKeyInstall
  refine OutSafe.next ?_
  exact h.pfCommand _ _ (fun _ h2 => h2.okIf _ _ _ (fun _ h4 => h4.modPart _ _ (fun _ h6 => h6)))

/-! ### Attestation -/

theorem Safe.reply {s : State} (h : Safe s) (fn code progress : Nat) (bytes : List Byte) :
    Safe (s.reply fn code progress bytes) :=
  h.modFunc _ _

theorem Safe.spdmAt {s : State} (h : Safe s) (fn least : Nat) (k : State → Nat → State) (hk : ∀ (s : State)
    (a1 : Nat), Safe s → Safe (k s a1)) : Safe (s.spdmAt fn least k) := by
  unfold State.spdmAt
  split
  · split
    · exact hk _ _ h
    · exact h
  · exact h

theorem Machine.execGetVersion_safe {s : State} (h : Safe s) (fn : Nat) : OutSafe (execGetVersion fn s) := by
  unfold execGetVersion
  refine OutSafe.next ?_
  exact h.spdmAt _ _ _ (fun _ _ h3 => h3.reply _ _ _ _)

theorem Machine.execGetCapabilities_safe {s : State} (h : Safe s) (fn : Nat) : OutSafe (execGetCapabilities fn s) := by
  unfold execGetCapabilities
  refine OutSafe.next ?_
  exact h.spdmAt _ _ _ (fun _ _ h3 => h3.reply _ _ _ _)

theorem Machine.execNegotiateAlgorithms_safe {s : State} (h : Safe s) (fn : Nat) (sha256 hssLms : Bool) :
    OutSafe (execNegotiateAlgorithms fn sha256 hssLms s) := by
  unfold execNegotiateAlgorithms
  refine OutSafe.next ?_
  refine h.spdmAt _ _ _ ?_
  intro _ _ h3
  split <;> exact h3.reply _ _ _ _

theorem Machine.execGetDigests_safe {s : State} (h : Safe s) (fn : Nat) : OutSafe (execGetDigests fn s) := by
  unfold execGetDigests
  refine OutSafe.next ?_
  exact h.spdmAt _ _ _ (fun _ _ h3 => h3.reply _ _ _ _)

theorem Machine.execGetCertificate_safe {s : State} (h : Safe s) (fn slot : Nat) :
    OutSafe (execGetCertificate fn slot s) := by
  unfold execGetCertificate
  refine OutSafe.next ?_
  exact h.spdmAt _ _ _ (fun _ _ h3 => h3.reply _ _ _ _)

theorem Machine.execSpdmChallenge_safe {s : State} (h : Safe s) (fn slot nonce : Nat) :
    OutSafe (execSpdmChallenge fn slot nonce s) := by
  unfold execSpdmChallenge
  refine OutSafe.next ?_
  exact h.spdmAt _ _ _ (fun _ _ h3 => h3.reply _ _ _ _)

theorem Machine.execGetMeasurements_safe {s : State} (h : Safe s) (fn index : Nat) :
    OutSafe (execGetMeasurements fn index s) := by
  unfold execGetMeasurements
  refine OutSafe.next ?_
  exact h.spdmAt _ _ _ (fun _ _ h3 => h3.reply _ _ _ _)

theorem Machine.execKeyExchange_safe {s : State} (h : Safe s) (fn slot : Nat) : OutSafe (execKeyExchange fn slot s) := by
  unfold execKeyExchange
  refine OutSafe.next ?_
  exact h.spdmAt _ _ _ (fun _ _ h3 => h3.reply _ _ _ _)

theorem Machine.execSpdmFinish_safe {s : State} (h : Safe s) (fn : Nat) : OutSafe (execSpdmFinish fn s) := by
  unfold execSpdmFinish
  refine OutSafe.next ?_
  exact h.spdmAt _ _ _ (fun _ _ h3 => h3.reply _ _ _ _)

/-! ### Snapshots -/

theorem Safe.snapshot {s : State} (h : Safe s) (c : Census) : Safe (s.snapshot c) := ((h.modCores _ _).modCensus _ _).moved

theorem Safe.takeDue {s : State} (h : Safe s) : Safe s.takeDue := safe_foldl _ (fun _ _ h3 => h3.snapshot _) _ _ h

/-! ### Graphs -/

theorem Safe.modGraph {s : State} (h : Safe s) (p : CtxRef) (f : Machine.Graph → Machine.Graph) : Safe (s.modGraph p f) :=
  h.modCtx _ _ _

theorem Safe.modNode {s : State} (h : Safe s) (p : CtxRef) (n : Nat) (f : GNode → GNode) : Safe (s.modNode p n f) :=
  h.modGraph _ _

theorem Safe.sendTo {s : State} (h : Safe s) (p : CtxRef) (ns : List Nat) : Safe (s.sendTo p ns) := h.modGraph _ _

theorem Safe.newPhase {s : State} (h : Safe s) (p : CtxRef) (n first count : Nat) : Safe (s.newPhase p n first count) := by
  unfold State.newPhase
  split
  · exact (h.modNode p n fun d => { d with running := d.running + 1 }).same rfl rfl rfl rfl
  · exact h

theorem Safe.giveQueue {s : State} (h : Safe s) (p : CtxRef) (n cnt : Nat) : Safe (s.giveQueue p n cnt) := by
  unfold State.giveQueue
  split
  · exact h
  · exact (h.newPhase _ _ _ _).modNode _ _ _

theorem Safe.serveQueue {s : State} (h : Safe s) (p : CtxRef) (n k : Nat) : Safe (State.serveQueue p n k s) := by
  induction k generalizing s with
  | zero => exact h
  | succ k ih =>
    unfold State.serveQueue
    split
    · exact h
    · split
      · exact h
      · split
        · exact ih (h.giveQueue _ _ _)
        · split
          · exact ih (h.giveQueue _ _ _)
          · split
            · exact (h.modNode _ _ _).sendTo _ _
            · exact h

theorem Safe.serve {s : State} (h : Safe s) (p : CtxRef) (n : Nat) : Safe (s.serve p n) := h.serveQueue _ _ _

theorem Safe.evalWhile {s : State} (h : Safe s) (p : CtxRef) (n : Nat) (cw : Word) (d : GNode) :
    Safe (s.evalWhile p n cw d) := by
  unfold State.evalWhile
  split <;> exact (h.modNode _ _ _).sendTo _ _

theorem Safe.nodeReady {s : State} (h : Safe s) (p : CtxRef) (n : Nat) : Safe (s.nodeReady p n) := by
  unfold State.nodeReady
  split
  · split
    · split
      · exact h.newPhase _ _ _ _
      · exact h.modNode _ _ _
    · exact h.sendTo _ _
    · exact h.evalWhile _ _ _ _
    · exact (h.modNode _ _ _).serve _ _
    · exact (h.modCtx _ _ _).sendTo _ _
  · exact h

theorem Safe.arrive {s : State} (h : Safe s) (p : CtxRef) (n : Nat) : Safe (s.arrive p n) := by
  unfold State.arrive
  split
  · split
    · exact h.evalWhile _ _ _ _
    split
    · exact h
    split
    · exact (h.modNode _ _ _).nodeReady _ _
    · exact h.modNode _ _ _
  · exact h

theorem Safe.walkN {s : State} (h : Safe s) (p : CtxRef) (k : Nat) : Safe (State.walkN p k s) := by
  induction k generalizing s with
  | zero => exact h
  | succ k ih =>
    unfold State.walkN
    split
    · exact h
    · exact ih ((h.modGraph _ _).arrive _ _)

theorem Safe.walkGraph {s : State} (h : Safe s) (p : CtxRef) : Safe (s.walkGraph p) := h.walkN _ _

theorem Safe.startGraph {s : State} (h : Safe s) (p : CtxRef) (g : Machine.Graph) : Safe (s.startGraph p g) := by
  unfold State.startGraph
  refine Safe.walkGraph ?_ _
  exact safe_foldl _ (fun _ _ h3 => h3.nodeReady _ _) _ _ (h.modCtx _ _ _)

theorem Safe.advanceN {s : State} (h : Safe s) (p : CtxRef) (k : Nat) : Safe (State.advanceN p k s) := by
  induction k generalizing s with
  | zero => exact h
  | succ k ih =>
    unfold State.advanceN
    split
    · exact h
    · split
      · split
        · exact ih (h.modCtx _ _ _)
        · exact h
      · split
        · split
          · exact ih (h.startGraph _ _)
          · exact h
        · split
          · exact h.modCtx _ _ _
          · exact h

theorem Safe.advance {s : State} (h : Safe s) (p : CtxRef) : Safe (s.advance p) := h.advanceN _ _

theorem Safe.phaseOver {s : State} (h : Safe s) (p : CtxRef) (n lid : Nat) : Safe (s.phaseOver p n lid) := by
  unfold State.phaseOver
  split
  · exact h
  split
  · exact (h.modNode _ _ _).serve _ _
  split
  · exact (((h.modNode _ _ _).sendTo _ _).modNode _ _ _).newPhase _ _ _ _
  · exact (h.modNode _ _ _).sendTo _ _

theorem Safe.endLaunch {s : State} (h : Safe s) (l : Launch) : Safe (s.endLaunch l) := by
  unfold State.endLaunch
  refine Safe.moved ?_
  refine Safe.advance ?_ _
  split
  · refine Safe.walkGraph ?_ _
    refine Safe.phaseOver ?_ _ _ _
    exact h.same rfl rfl rfl rfl
  · exact h.same rfl rfl rfl rfl

theorem Safe.phaseRead {s : State} (h : Safe s) (c : Ctx) (l : Launch) (va n : Nat) (k : State → List Byte → State)
    (hk : ∀ (s : State) (bs : List Byte), Safe s → Safe (k s bs)) : Safe (s.phaseRead c l va n k) := by
  unfold State.phaseRead
  dsimp only
  split
  · exact hk _ _ (xlateBytes_safe h _ _ _)
  · exact ((xlateBytes_safe h _ _ _).engineStop _ _ _ _ _).modLaunch _ _

theorem Safe.selectPhase {s : State} (h : Safe s) (l : Launch) (k : Kernel) (size : Nat) :
    Safe (s.selectPhase l k size) := by
  unfold State.selectPhase
  split
  · exact h.endLaunch _
  split
  · exact h.ctxError _ _ _ _ _ _
  split
  · exact h.ctxError _ _ _ _ _ _
  split
  · exact h.ctxError _ _ _ _ _ _
  split
  · exact h.endLaunch _
  · exact h.modLaunch _ _

theorem Safe.readSize {s : State} (h : Safe s) (c : Ctx) (l : Launch) (k : Kernel) : Safe (s.readSize c l k) := by
  unfold State.readSize
  split
  · exact h.selectPhase _ _ _
  split
  · exact h.phaseRead _ _ _ _ _ (fun _ _ h3 => h3.selectPhase _ _ _)
  · exact h.selectPhase _ _ _

theorem Safe.takeRecord {s : State} (h : Safe s) (c : Ctx) (l : Launch) (bs : List Byte) : Safe (s.takeRecord c l bs) := by
  unfold State.takeRecord
  dsimp only
  split
  · split
    · exact h.readSize _ _ _
    · exact h.endLaunch _
  · exact h.endLaunch _

theorem Machine.execPhaseStart_safe {s : State} (h : Safe s) (lid : Nat) : OutSafe (execPhaseStart lid s) := by
  unfold execPhaseStart
  split
  · exact OutSafe.next h
  split
  · exact OutSafe.next h
  split
  · exact OutSafe.next h
  split
  · exact OutSafe.next (h.phaseRead _ _ _ _ _ fun _ _ hs => hs.takeRecord _ _ _).moved
  split
  · exact OutSafe.next (h.readSize _ _ _).moved
  · exact OutSafe.next (h.endLaunch _)

theorem Safe.flushStack {s : State} (h : Safe s) (r : TeamRef) : Safe (s.flushStack r) := by
  unfold State.flushStack
  split
  · split
    · exact h
    split
    · exact (safe_of_moved_ok ‹_› (spillChunks_safe _ h _ _)).modTeam _ _
    · exact (safe_of_moved_wait ‹_› (spillChunks_safe _ h _ _)).modTeam _ _
    · exact h.badAccess _ _
  · exact h

theorem Safe.writeBack {s : State} (h : Safe s) (r : TeamRef) : Safe (s.writeBack r) := ((h.drain _).flushStack _).drain _

theorem Safe.retireClk {s : State} (h : Safe s) (g : Group) : Safe (s.retireClk g) := by
  unfold State.retireClk
  refine Safe.takeDue ?_
  exact safe_foldl _ (fun _ _ h3 => h3.pastSnapshots _) _ _ h

theorem Safe.freeRing {s : State} (h : Safe s) (g : Group) : Safe (s.freeRing g) := by
  unfold State.freeRing
  split
  · exact h
  dsimp only
  split
  · split
    · refine Safe.modNode ?_ _ _ _
      refine Safe.modLaunch ?_ _ _
      exact h.modGroup _ _ (fun _ h2 => h2)
    · refine Safe.modLaunch ?_ _ _
      exact h.modGroup _ _ (fun _ h2 => h2)
  · refine Safe.modLaunch ?_ _ _
    exact h.modGroup _ _ (fun _ h2 => h2)

theorem Safe.retireGroup {s : State} (h : Safe s) (g : Group) : Safe (s.retireGroup g) := by
  unfold State.retireGroup
  dsimp only
  split
  · split
    · exact (((h.freeRing _).removeGroup _).modLaunch _ _).endLaunch _
    · exact ((h.freeRing _).removeGroup _).modLaunch _ _
  · exact ((h.freeRing _).removeGroup _).modLaunch _ _

theorem Safe.retireNow {s : State} (h : Safe s) (g : Group) : Safe (s.retireNow g) := by
  unfold State.retireNow
  dsimp only
  split
  · exact safe_foldl _ (fun _ _ h3 => h3.writeBack _) _ _ h
  split
  · refine Safe.moved ?_
    refine Safe.retireGroup ?_ _
    exact safe_foldl _ (fun _ _ h3 => h3.writeBack _) _ _ h
  · refine Safe.moved ?_
    exact safe_foldl _ (fun _ _ h3 => h3.writeBack _) _ _ h

theorem Machine.execGroupRetire_safe {s : State} (h : Safe s) (uid : Nat) : OutSafe (execGroupRetire uid s) := by
  unfold execGroupRetire
  split
  · exact OutSafe.next h
  split
  · exact OutSafe.next h
  dsimp only
  split
  · exact OutSafe.next (h.retireClk _)
  split
  · exact OutSafe.next ((h.retireClk _).retireNow _)
  · exact OutSafe.next (h.retireClk _)

theorem Safe.launchCommand {s : State} (h : Safe s) (fn part : Nat) (who : CtxName) (k : State → Ctx → State)
    (hk : ∀ (s : State) (c : Ctx), Safe s → Safe (k s c)) : Safe (s.launchCommand fn part who k) := by
  unfold State.launchCommand
  refine h.ctxCommand _ _ _ _ _ ?_
  intro _ _ h3
  split
  · exact h3.setStatus _ _
  · exact hk _ _ h3

theorem Machine.execKernelLaunch_safe {s : State} (h : Safe s) (fn part : Nat) (who : CtxName) (record : List Byte) :
    OutSafe (execKernelLaunch fn part who record s) := by
  unfold execKernelLaunch
  exact OutSafe.next (h.launchCommand _ _ _ _ fun _ _ hs => hs.okIf _ _ _ fun _ hs =>
    (hs.modCtx part who.ctxid Ctx.submit).same rfl rfl rfl rfl)

theorem Safe.askRead {s : State} (h : Safe s) (c : Ctx) (ord va n : Nat) (k : State → List Byte → State) (hk : ∀ (s : State)
    (bs : List Byte), Safe s → Safe (k s bs)) : Safe (s.askRead c ord va n k) := by
  unfold State.askRead
  dsimp only
  split
  · exact hk _ _ (xlateBytes_safe h _ _ _)
  · exact ((xlateBytes_safe h _ _ _).engineStop _ _ _ _ _).modCtx _ _ _

theorem Safe.takeGraph {s : State} (h : Safe s) (p : CtxRef) (a : GraphAsk) (g : Option Machine.Graph) :
    Safe (s.takeGraph p a g) := by
  unfold State.takeGraph
  split
  · exact ((h.modCtx _ _ _).advance _).setStatus _ _
  · exact (((h.modCtx _ _ _).modCtx _ _ _).advance _).setStatus _ _

theorem Safe.readGraph {s : State} (h : Safe s) (c : Ctx) (a : GraphAsk) : Safe (s.readGraph c a) :=
  h.askRead _ _ _ _ _ (fun _ _ h3 => h3.askRead _ _ _ _ _ (fun _ _ h6 => (h6.takeGraph _ _ _).moved))

theorem Machine.execGraphLaunch_safe {s : State} (h : Safe s) (fn part : Nat) (who : CtxName) (record : List Byte) :
    OutSafe (execGraphLaunch fn part who record s) := by
  unfold execGraphLaunch
  refine OutSafe.next ?_
  refine h.launchCommand _ _ _ _ ?_
  intro _ _ h3
  split
  · exact h3.setStatus _ _
  refine Safe.readGraph ?_ _ _
  refine Safe.modCtx ?_ _ _ _
  exact h3.same rfl rfl rfl rfl

theorem Machine.execGraphRead_safe {s : State} (h : Safe s) (part ctxid ord : Nat) :
    OutSafe (execGraphRead part ctxid ord s) := by
  unfold execGraphRead
  split
  · exact OutSafe.next h
  split
  · exact OutSafe.next h
  · exact OutSafe.next (h.readGraph _ _)

theorem Machine.execWalk_safe {s : State} (h : Safe s) (part ctxid : Nat) : OutSafe (execWalk part ctxid s) :=
  OutSafe.next (((h.walkGraph _).advance _).moved)

theorem Safe.flushNode {s : State} (h : Safe s) (p : CtxRef) (n : Nat) : Safe (s.flushNode p n) := by
  unfold State.flushNode
  split
  · exact (((h.giveQueue _ _ _).serve _ _).walkGraph _).advance _
  · exact h

theorem Machine.execFlushTimerExpire_safe {s : State} (h : Safe s) (part ctxid node : Nat) :
    OutSafe (execFlushTimerExpire part ctxid node s) := by
  unfold execFlushTimerExpire
  split
  · split
    · exact OutSafe.next ((h.flushNode _ _).moved)
    · exact OutSafe.next h
  · exact OutSafe.next h

theorem Safe.fireTimer {s : State} (h : Safe s) (p : CtxRef) (n : Nat) : Safe (s.fireTimer p n) := by
  unfold State.fireTimer
  split
  · split
    · exact h.flushNode _ _
    · exact h
  · exact h

theorem Machine.Iss.grecStatus_safe (x : Iss) {s : State} (h : Safe s) (d : RegField) (st : Nat) :
    (x.grecStatus s d st).Safe :=
  h.modTeam _ _

theorem Machine.Iss.appendRecords_safe {x : Iss} (h : Safe x.s) (c : Ctx) (d : RegField) (n : Nat) (nd : GNode)
    (vas : List (Nat × Nat)) : (x.appendRecords c d n nd vas).Safe := by
  unfold Iss.appendRecords
  refine Iss.release_safe h _ ?_
  intro _ h2 _
  dsimp only
  split
  · exact h2.badAccess _ _
  split
  · exact (gatherLanes_safe h2 _ _ _).modTeam _ _
  split
  · exact (xlateBytes_safe (gatherLanes_safe h2 _ _ _) _ _ _).modTeam _ _
  · exact (xlateBytes_safe (gatherLanes_safe h2 _ _ _) _ _ _).ctxError _ _ _ _ _ _
  · exact (xlateBytes_safe (gatherLanes_safe h2 _ _ _) _ _ _).badAccess _ _
  · exact Iss.grecStatus_safe _ (((((((xlateBytes_safe (gatherLanes_safe h2 _ _ _) _ _ _).modTeam _ _).writePlaces _ _).modNode _ _ _).serve _ _).walkGraph _).advance _) _ _

theorem Machine.execGrec_safe {s : State} (h : Safe s) (d a b : RegField) : OutSafe (execGrec d a b s) := by
  unfold execGrec
  refine OutSafe.issue h ?_
  intro _ h2 _
  split
  · dsimp only
    split
    · trivial
    · exact h2
    · exact h2
  · dsimp only
    split
    · trivial
    · exact h2
    split
    · exact Iss.grecStatus_safe _ (h2.fireTimer _ _) _ _
    split
    · exact Iss.grecStatus_safe _ (h2.fireTimer _ _) _ _
    split
    · exact Iss.grecStatus_safe _ (h2.fireTimer _ _) _ _
    · exact Iss.appendRecords_safe (h2.fireTimer _ _) _ _ _ _ _

theorem Machine.execGcond_safe {s : State} (h : Safe s) (a b : RegField) : OutSafe (execGcond a b s) := by
  unfold execGcond
  refine OutSafe.issue h ?_
  intro _ h2 _
  split
  · exact h2
  · exact ((h2.modGraph _ _).walkGraph _).advance _

theorem Machine.execGdone_safe {s : State} (h : Safe s) : OutSafe (execGdone s) :=
  OutSafe.issue h (fun _ h2 _ => h2.freeRing _)

theorem Machine.execGflush_safe {s : State} (h : Safe s) (d b : RegField) : OutSafe (execGflush d b s) := by
  unfold execGflush
  refine OutSafe.issue h ?_
  intro _ h2 _
  split
  · dsimp only
    split
    · exact Iss.status_safe _ (h2.fireTimer _ _) _ _
    split
    · exact Iss.status_safe _ (h2.fireTimer _ _) _ _
    · split <;> exact Iss.status_safe _ (h2.fireTimer _ _) _ _
  · dsimp only
    split
    · exact Iss.status_safe _ (h2.fireTimer _ _) _ _
    split
    · exact Iss.status_safe _ (h2.fireTimer _ _) _ _
    split
    · exact Iss.status_safe _ (h2.fireTimer _ _) _ _
    · exact Iss.status_safe _ ((h2.fireTimer _ _).flushNode _ _) _ _

/-! ### Censuses -/

theorem Machine.execCensusSnapshot_safe {s : State} (h : Safe s) (cseq : Nat) : OutSafe (execCensusSnapshot cseq s) := by
  unfold execCensusSnapshot
  split
  · split
    · exact OutSafe.next (h.snapshot _)
    · exact OutSafe.next h
  · exact OutSafe.next h

theorem Machine.Iss.directory_safe {x : Iss} (h : Safe x.s) (n : Nat) (k : State → Core → Act) (hk : ∀ (s : State)
    (a1 : Core), Safe s → (k s a1).Safe) : (x.directory n k).Safe := by
  unfold Iss.directory
  split
  · exact h
  refine Iss.checked_safe h _ ?_
  dsimp only
  split
  · exact hk _ _ h.takeDue
  · exact h.takeDue

theorem Machine.Iss.noResponder_safe (x : Iss) {k : Act} (ha : k.Safe) : (x.noResponder k).Safe := by
  unfold Iss.noResponder
  split
  · exact Iss.trapWord_safe _ _
  · exact ha

theorem Machine.execTreg_safe {s : State} (h : Safe s) (d a t : RegField) : OutSafe (execTreg d a t s) := by
  unfold execTreg
  refine OutSafe.issue h ?_
  intro _ h2 _
  refine Iss.directory_safe h2 _ _ ?_
  intro _ _ h6
  split
  · dsimp only
    split
    · exact Iss.status_safe _ (h6.modCore _ _) _ _
    refine Iss.status_safe _ ?_ _ _
    refine Safe.modCore ?_ _ _
    exact h6.same rfl rfl rfl rfl
  · dsimp only
    split
    · exact Iss.status_safe _ (h6.modCore _ _) _ _
    · exact Iss.status_safe _ h6 _ _

theorem Machine.execTdereg_safe {s : State} (h : Safe s) (d t : RegField) : OutSafe (execTdereg d t s) := by
  unfold execTdereg
  refine OutSafe.issue h ?_
  intro _ h2 _
  refine Iss.noResponder_safe _ ?_
  refine Iss.directory_safe h2 _ _ ?_
  intro _ _ h6
  split
  · exact Iss.status_safe _ h6 _ _
  split
  · exact h6
  · exact Iss.status_safe _ (h6.modCore _ _) _ _

theorem Machine.execTmove_safe {s : State} (h : Safe s) (d b t : RegField) : OutSafe (execTmove d b t s) := by
  unfold execTmove
  refine OutSafe.issue h ?_
  intro _ h2 _
  refine Iss.noResponder_safe _ ?_
  refine Iss.directory_safe h2 _ _ ?_
  intro _ _ h6
  split
  · dsimp only
    split <;> exact Iss.status_safe _ h6 _ _
  · dsimp only
    split
    · exact Iss.status_safe _ h6 _ _
    split
    · exact Iss.status_safe _ h6 _ _
    split
    · exact h6
    · exact h6.modTeam _ _

theorem Safe.endMove {s : State} (h : Safe s) (r : TeamRef) (d : RegField) (st : Nat) : Safe (s.endMove r d st) :=
  (h.modTeam _ _).moved

theorem Safe.moveTile {s : State} (h : Safe s) (r : TeamRef) (v dst : Group) (d : RegField) (i : Nat) (e : KeyEntry) :
    Safe (s.moveTile r v dst d i e) := by
  have copied : Safe (s.modGroup dst.uid fun x => ((x.padWrite (v.hdr e.header).off (memReadN v.pad (v.hdr e.header).off 32)).padWords
      (v.hdr e.header).doff (movedBytes v (v.hdr e.header) s.steps)).madeBy r x.vers) :=
    h.modGroup _ _ fun _ hg => Group.madeBy_wf (padWords_wf (padWrite_wf hg _ _) _ _) _ _
  unfold State.moveTile
  dsimp only
  split
  · exact copied
  · split
    · exact copied.endMove _ _ _
    · exact ((copied.modCore _ _).modCore _ _).endMove _ _ _

theorem Safe.finishMove {s : State} (h : Safe s) (r : TeamRef) : Safe (s.finishMove r) := by
  unfold State.finishMove
  dsimp only
  split
  · split
    · split
      · exact h.takeDue.endMove _ _ _
      · exact h.takeDue.endMove _ _ _
      split
      · exact h.takeDue.endMove _ _ _
      · exact h.takeDue.moveTile _ _ _ _ _ _
    · exact h.takeDue
  · exact h.takeDue

theorem Machine.execTmoveComplete_safe {s : State} (h : Safe s) (uid tid : Nat) : OutSafe (execTmoveComplete uid tid s) :=
  OutSafe.next ((h.finishMove _).finishTry _)

theorem Machine.Iss.startCensus_safe {x : Iss} (h : Safe x.s) (c : Ctx) (d : RegField) (decl : Nat) (bs : List Byte) :
    (x.startCensus c d decl bs).Safe := by
  unfold Iss.startCensus
  split
  · exact Iss.status_safe _ h _ _
  refine Iss.release_safe h _ fun y hy _ => Iss.status_safe _ ?_ _ _
  refine Safe.modTeam ?_ _ _
  exact (hy.modCtx y.g.part y.g.ctxid fun c => { c with nextCensus := c.nextCensus + 1 }).same rfl rfl rfl rfl

theorem Machine.execSolicit_safe {s : State} (h : Safe s) (d a : RegField) : OutSafe (execSolicit d a s) := by
  unfold execSolicit
  refine OutSafe.issue h ?_
  intro _ h2 _
  refine Iss.noResponder_safe _ ?_
  split
  · exact h2
  dsimp only
  split
  · trivial
  split
  · exact Iss.startCensus_safe (h2.modTeam _ _) _ _ _ _
  · exact Iss.trapWord_safe _ _

theorem Safe.startResponder {s : State} (h : Safe s) (c : Census) (x : Ctx) (g : Group) (p : Piece) (d : TeamDecl) :
    Safe (s.startResponder c x g p d) := by
  unfold State.startResponder
  refine Safe.moved ?_
  refine Safe.modCensus ?_ _ _
  refine Safe.same ?_ rfl rfl rfl rfl
  exact (h.acquiredOn _).modGroup _ _ (fun _ h2 => h2)

theorem Machine.execResponderStart_safe {s : State} (h : Safe s) (cseq core : Nat) :
    OutSafe (execResponderStart cseq core s) := by
  unfold execResponderStart
  split
  · exact OutSafe.next h
  split
  · split
    · exact OutSafe.next ((h.modCensus _ _).moved)
    split
    · exact OutSafe.next h
    split
    · split
      · exact OutSafe.next (h.startResponder _ _ _ _ _)
      · exact OutSafe.next h
    · split
      · exact OutSafe.next ((OptSafe.get ‹_› (h.needOverlay _ _ _ _)).moved)
      · exact OutSafe.next ((h.modCensus _ _).moved)
  · exact OutSafe.next h

theorem Machine.execRespond_safe {s : State} (h : Safe s) (a : RegField) : OutSafe (execRespond a s) := by
  unfold execRespond
  refine OutSafe.issue h ?_
  intro _ h2 _
  split
  · exact Iss.trapWord_safe _ _
  split
  · exact Iss.trapWord_safe _ _
  split
  · exact Iss.trapWord_safe _ _
  · exact Iss.release_safe h2 _ (fun _ h5 _ => (h5.modCensus _ _).modTeam _ _)

theorem Safe.releaseAll {s : State} (h : Safe s) (cseq : Nat) : Safe (s.releaseAll cseq) := h.same rfl rfl rfl rfl

theorem Safe.closeCensus {s : State} (h : Safe s) (c : Census) : Safe (s.closeCensus c) := by
  have closed (f : Census → Census) : Safe ((s.releaseAll c.cseq).modCensus c.cseq f) := (h.releaseAll _).modCensus _ _
  have gone (f : Census → Census) (l : List Census) : Safe { (s.releaseAll c.cseq).modCensus c.cseq f with censuses := l } :=
    (closed f).same rfl rfl rfl rfl
  unfold State.closeCensus
  dsimp only
  split
  · split
    · exact ((closed _).modGroup _ _ fun _ hg => padWords_wf hg _ _).moved
    · exact (closed _).moved
  · exact (gone _ _).moved

theorem Machine.execCensusClose_safe {s : State} (h : Safe s) (cseq : Nat) : OutSafe (execCensusClose cseq s) := by
  unfold execCensusClose
  split
  · split
    · exact OutSafe.next (h.closeCensus _)
    · exact OutSafe.next h
  · exact OutSafe.next h

theorem Safe.dropResponders {s : State} (h : Safe s) (cseq : Nat) : Safe (s.dropResponders cseq) := by
  unfold State.dropResponders
  refine safe_foldl _ ?_ _ _ h
  intro _ _ h3
  dsimp only
  split
  · exact safe_foldl _ (fun _ _ h6 => h6.detach _ _) _ _ h3
  refine Safe.modGroup ?_ _ _ (fun _ h5 => h5)
  exact safe_foldl _ (fun _ _ h6 => h6.detach _ _) _ _ h3

theorem Safe.abortCensus {s : State} (h : Safe s) (c : Census) : Safe (s.abortCensus c) :=
  ((((h.dropResponders _).releaseAll _).modCensus _ _).modCtx _ _ _).moved

theorem Machine.execCensusWaitExpire_safe {s : State} (h : Safe s) (cseq : Nat) : OutSafe (execCensusWaitExpire cseq s) := by
  unfold execCensusWaitExpire
  dsimp only
  split
  · split
    · split
      · exact OutSafe.next (h.takeDue.abortCensus _)
      · exact OutSafe.next h.takeDue
    · exact OutSafe.next h.takeDue
  · exact OutSafe.next h.takeDue

theorem Safe.freeCensus {s : State} (h : Safe s) (r : TeamRef) (c : Census) : Safe (s.freeCensus r c) := by
  unfold State.freeCensus
  split
  · exact h
  · exact (h.modTeam _ _).same rfl rfl rfl rfl

theorem Machine.execCensus_safe {s : State} (h : Safe s) (d a k : RegField) : OutSafe (execCensus d a k s) := by
  unfold execCensus
  refine OutSafe.issue h ?_
  intro _ h2 _
  split
  · dsimp only
    split
    · exact Iss.okTeam_safe h2 _
    split
    · exact h2
    split
    · exact h2
    refine Safe.modTeam ?_ _ _
    refine Safe.freeCensus ?_ _ _
    split
    · exact h2.acquire _
    · exact h2
  · dsimp only
    split
    · exact Iss.okTeam_safe h2 _
    split
    · exact h2
    split
    · exact h2
    refine Safe.modTeam ?_ _ _
    split
    · exact h2.acquire _
    · exact h2

theorem Machine.execCres_safe {s : State} (h : Safe s) (d a k : RegField) : OutSafe (execCres d a k s) :=
  OutSafe.issue h (fun _ h2 _ => h2.takeDue.modTeam _ _)

/-! ### Closing queues -/

theorem Safe.closeQueue {s : State} (h : Safe s) (g : Group) (n : Nat) : Safe (s.closeQueue g n) := by
  unfold State.closeQueue
  refine safe_foldl _ (fun _ _ hs => (hs.tryReplay _).finishTry _) _ _ ?_
  refine Safe.modGroup ?_ _ _ fun _ hg => Group.touchQ_wf (Group.modQueue_wf hg _ _) _
  refine safe_foldl_of Prod.fst (fun _ _ hp => ?_) _ (s, 0) h
  exact hp.cancelLoads _ _ _ _

theorem Machine.execQclose_safe {s : State} (h : Safe s) (q : BitVec 4) : OutSafe (execQclose q s) := by
  unfold execQclose
  refine OutSafe.issue h ?_
  intro _ h2 _
  split
  · exact h2
  refine Iss.withQueue_safe _ _ _ ?_
  intro _
  split
  · refine Safe.closeQueue ?_ _ _
    exact h2.same rfl rfl rfl rfl
  · exact h2

/-! ### Fetches -/

theorem Machine.Iss.runServed_safe (x : Iss) (c : Ctx) {s : State} (h : Safe s) (va n : Nat) :
    Safe (x.runServed c s va n) := by
  unfold Iss.runServed
  split
  · exact h
  · exact safe_foldl _ (fun _ _ h3 => h3.sliceFreed _ _ _) _ _ h

theorem Machine.Iss.loadRun_safe {x : Iss} (h : Safe x.s) (c : Ctx) {s : State} (h2 : Safe s) (va n : Nat)
    (k : State → List Byte → Act) (hk : ∀ (s : State) (bs : List Byte), Safe s → (k s bs).Safe) :
    (x.loadRun c s va n k).Safe := by
  unfold Iss.loadRun
  split
  · trivial
  refine Iss.misses_safe h ?_
  dsimp only
  split
  · exact h.badAccess _ _
  split
  · exact hk _ _ ((Iss.runServed_safe _ _ (Iss.readRun_safe _ h2 _ _ _ _) _ _).modTeam _ _)
  · exact (Iss.readRun_safe _ h2 _ _ _ _).modTeam _ _

theorem Machine.Iss.hdefDone_safe (x : Iss) {s : State} (h : Safe s) (d : RegField) (i st : Nat) (desc : FetchDesc) :
    (x.hdefDone s d i st desc).Safe := by
  unfold Iss.hdefDone
  split
  · exact (h.modTeam _ _).modGroup _ _ (fun _ h2 => h2)
  · exact h.modTeam _ _

theorem Machine.execHdef_safe {s : State} (h : Safe s) (d a b : RegField) : OutSafe (execHdef d a b s) := by
  unfold execHdef
  refine OutSafe.issue h ?_
  intro _ h2 _
  split
  · dsimp only
    split
    · trivial
    split
    · trivial
    refine Iss.loadRun_safe h2 _ h2 _ _ _ ?_
    intro _ _ h6
    split
    · exact Iss.loadRun_safe h2 _ h6 _ _ _ (fun _ _ h9 => Iss.hdefDone_safe _ h9 _ _ _ _)
    · exact Iss.hdefDone_safe _ h6 _ _ _ _
  · exact h2

theorem Machine.fetchLine_safe (c : Ctx) (core : Nat) (noAlloc : Bool) {q : FetchRead} (h : Safe q.s) (line : Nat) :
    Safe (fetchLine c core noAlloc q line).s := by
  unfold fetchLine
  split
  · exact h
  split
  · exact h
  split
  · dsimp only
    split
    · exact h.freeVal
    · split <;> exact xlateBytes_safe h.freeVal _ _ _
  · dsimp only
    split
    · exact h.freeVal
    split
    · exact safe_foldl_of Run.s (fun _ _ h3 => xlateByte_safe _ _ h3 _) _ _ h.freeVal
    · exact xlateBytes_safe h.freeVal _ _ _

theorem Safe.fetchBytes {s : State} (h : Safe s) (c : Ctx) (core : Nat) (noAlloc : Bool) (va n : Nat) :
    Safe (s.fetchBytes c core noAlloc va n).s := by
  unfold State.fetchBytes
  split
  · exact h
  · exact safe_foldl_of FetchRead.s (fun _ _ h3 => fetchLine_safe _ _ _ h3 _) _ _ h

theorem Machine.FetchDesc.errorRow_safe (d : FetchDesc) {s : State} (h : Safe s) : Safe (d.errorRow s).s := h

theorem Safe.rowBytes {s : State} (h : Safe s) (c : Ctx) (core : Nat) (noAlloc : Bool) (carry : Option (Nat × List Byte))
    (va n : Nat) : Safe (s.rowBytes c core noAlloc carry va n).1.s := h.fetchBytes _ _ _ _ _

theorem Machine.fetchRowBytes_safe {s : State} (h : Safe s) (c : Ctx) (core : Nat) (noAlloc : Bool)
    (carry : Option (Nat × List Byte)) (d : FetchDesc) (i : Nat) : Safe (fetchRowBytes s c core noAlloc carry d i).s := by
  unfold fetchRowBytes
  split
  · dsimp only
    exact h.rowBytes _ _ _ _ _ _
  · dsimp only
    split
    · exact h.fetchBytes _ _ _ _ _
    split
    · exact FetchDesc.errorRow_safe _ (h.fetchBytes _ _ _ _ _)
    split
    · dsimp only
      exact (h.fetchBytes _ _ _ _ _).rowBytes _ _ _ _ _ _
    · split
      · dsimp only
        exact (h.fetchBytes _ _ _ _ _).rowBytes _ _ _ _ _ _
      · exact FetchDesc.errorRow_safe _ ((h.fetchBytes _ _ _ _ _).rowBytes _ _ _ _ _ _)

theorem Safe.modFetch {s : State} (h : Safe s) (seq : Nat) (f : Fetch → Fetch) : Safe (s.modFetch seq f) :=
  h.same rfl rfl rfl rfl

theorem Machine.Group.putRow_wf {g : Group} (hg : g.pad.wf = true) (off : Nat) (bs : List Byte) (err : Bool) :
    (g.putRow off bs err).pad.wf = true := by
  unfold Group.putRow
  split <;> exact padWords_wf hg _ _

theorem Machine.execFetchRow_safe {s : State} (h : Safe s) (seq : Nat) : OutSafe (execFetchRow seq s) := by
  have fewer {s : State} (hs : Safe s) (l : List Fetch) : Safe { s with fetches := l } := hs.same rfl rfl rfl rfl
  unfold execFetchRow
  split
  · exact OutSafe.next h
  split
  · exact OutSafe.next h
  split
  · rename_i f _ _ _ _ _ _ c src row rest _ _
    have read (core : Nat) : Safe (fetchRowBytes s c core f.noAlloc f.carry f.desc src).s := fetchRowBytes_safe h _ _ _ _ _ _
    split
    · exact OutSafe.next h
    dsimp only
    split
    · split
      · exact OutSafe.next (((read _).engineStop _ _ _ _ _).modFetch _ _).moved
      · exact OutSafe.next ((read _).engineStop _ _ _ _ _).moved
    · refine OutSafe.next (fewer (Safe.modFetch ?_ _ _) _).moved
      split
      · exact (read _).modGroup _ _ fun _ hg => Group.putRow_wf hg _ _ _
      · exact Safe.countBytes ((read _).modGroup _ _ fun _ hg => Group.putRow_wf hg _ _ _) _ _ _
  · exact OutSafe.next h

theorem Safe.abortFetches {s : State} (h : Safe s) (uids : List Nat) : Safe (s.abortFetches uids) := by
  unfold State.abortFetches
  refine Safe.same ?_ rfl rfl rfl rfl
  exact safe_foldl _ (fun _ _ h3 => h3.uncount _) _ _ h

theorem Machine.Iss.fetch_safe {x : Iss} (h : Safe x.s) (n : Nat) (b : RegField) (rowsOf : Hdr → List (Nat × Nat)) :
    (x.fetch n b rowsOf).Safe := by
  unfold Iss.fetch
  split
  · exact h
  refine Iss.checked_safe h _ ?_
  split
  · exact h
  split
  · exact h
  · exact h.same rfl rfl rfl rfl

theorem Machine.execFetch_safe {s : State} (h : Safe s) (t a b : RegField) : OutSafe (execFetch t a b s) :=
  OutSafe.issue h (fun _ h2 _ => Iss.fetch_safe h2 _ _ _)

theorem Machine.execFetchx_safe {s : State} (h : Safe s) (t a b : RegField) : OutSafe (execFetchx t a b s) :=
  OutSafe.issue h (fun _ h2 _ => Iss.fetch_safe h2 _ _ _)

theorem Machine.execFinv_safe {s : State} (h : Safe s) (d b : RegField) : OutSafe (execFinv d b s) := by
  unfold execFinv
  refine OutSafe.issue h ?_
  intro _ h2 _
  split
  · split
    · exact h2.modTeam _ _
    split
    · exact ((h2.modTeam _ _).modCore _ _).modGroup _ _ (fun _ h5 => h5)
    · exact h2.modTeam _ _
  · split
    · exact h2.modTeam _ _
    split
    · exact ((h2.modTeam _ _).modCore _ _).modGroup _ _ (fun _ h5 => h5)
    · exact h2.modTeam _ _

/-! ### Cards -/

theorem Machine.failed_safe {s : State} (h : Safe s) (w : Word) : Safe (failed s w).s := h

theorem Machine.startLatch_safe {s : State} (h : Safe s) (g : Group) (c : Card) (e : Nat) : Safe (startLatch s g c e).s := by
  unfold startLatch
  split
  · exact h
  dsimp only
  split
  · exact failed_safe h _
  · exact h.modEngine _ _ _

theorem Machine.startStream_safe {s : State} (h : Safe s) (g : Group) (c : Card) (e : Nat) (eng : Engine) :
    Safe (startStream s g c e eng).s := by
  unfold startStream
  split
  · split
    · dsimp only
      split
      · exact failed_safe h _
      · exact failed_safe h _
      · exact h.modEngine _ _ _
    · dsimp only
      split
      · exact failed_safe h _
      · exact failed_safe h _
      · exact h.modEngine _ _ _
  · split
    · dsimp only
      split
      · exact failed_safe h _
      · exact failed_safe h _
      · exact h.modEngine _ _ _
    · dsimp only
      split
      · exact failed_safe h _
      · exact failed_safe h _
      · exact h.modEngine _ _ _

theorem Safe.clearBank {s : State} (h : Safe s) (g : Group) (c : Card) (e : Nat) : Safe (s.clearBank g c e) := by
  unfold State.clearBank
  split
  · exact h.modEngine _ _ _
  · exact h

theorem Machine.startDrain_safe {s : State} (h : Safe s) (g : Group) (c : Card) (e : Nat) (eng : Engine) :
    Safe (startDrain s g c e eng).s := by
  unfold startDrain
  split
  · dsimp only
    split
    · exact failed_safe h _
    refine Safe.clearBank ?_ _ _ _
    exact h.modGroup _ _ (fun _ h2 => adopt_wf h2 _)
  · dsimp only
    split
    · exact failed_safe h _
    · exact h

theorem Machine.startCard_safe {s : State} (h : Safe s) (g : Group) (c : Card) : Safe (startCard s g c).s := by
  unfold startCard
  split
  · exact failed_safe h _
  split
  · exact startLatch_safe h _ _ _
  · exact startStream_safe h _ _ _ _
  · exact startDrain_safe h _ _ _ _
  split
  · exact h.modEngine _ _ _
  · exact h

theorem Machine.execCardStart_safe {s : State} (h : Safe s) (uid task : Nat) : OutSafe (execCardStart uid task s) := by
  unfold execCardStart
  split
  · exact OutSafe.next h
  split
  · split
    · exact OutSafe.next h
    refine OutSafe.next ?_
    refine Safe.moved ?_
    refine Safe.modGroup ?_ _ _ (fun _ h2 => Group.modCard_wf h2 _ _)
    refine startCard_safe ?_ _ _
    split
    · exact h.bindEngine _ _
    · exact h
  · exact OutSafe.next h

theorem Safe.paired {s : State} (h : Safe s) (uid : Nat) (task : BitVec 16) (status : Word) :
    Safe (s.paired uid task status) := by
  unfold State.paired
  refine Safe.moved ?_
  exact h.modGroup _ _ (fun _ h2 => Group.modCard_wf h2 _ _)

theorem Safe.settleSender {s : State} (h : Safe s) (uid : Nat) (task : BitVec 16) : Safe (s.settleSender uid task) := by
  unfold State.settleSender
  split
  · exact h
  split
  · exact h
  split
  · exact h
  · exact h.paired _ _ _

theorem Safe.deliver {s : State} (h : Safe s) (src : Group) (c : Card) (dst : Group) : Safe (s.deliver src c dst) := by
  unfold State.deliver
  split
  · split
    · exact h
    split
    · exact h
    refine Safe.modGroup ?_ _ _ (fun _ h2 => Group.modCard_wf h2 _ _)
    refine Safe.paired ?_ _ _ _
    split
    · exact h.modEngine _ _ _
    · exact h
  · exact h

theorem Machine.execBroadcastMatch_safe {s : State} (h : Safe s) (uid task rxUid : Nat) :
    OutSafe (execBroadcastMatch uid task rxUid s) := by
  unfold execBroadcastMatch
  split
  · exact OutSafe.next h
  split
  · exact OutSafe.next h
  split
  · exact OutSafe.next h
  refine OutSafe.next ?_
  refine Safe.settleSender ?_ _ _
  split
  · split
    · exact h.deliver _ _ _
    · exact h
  · exact h

theorem Safe.contribute {s : State} (safe : Safe s) (g : Group) (c : Card) (h : Group) (a : Card) :
    Safe (s.contribute g c h a) := by
  unfold State.contribute
  split
  · refine Safe.paired ?_ _ _ _
    refine Safe.clearBank ?_ _ _ _
    exact (safe.modEngine _ _ _).modGroup _ _ (fun _ h2 => Group.modCard_wf h2 _ _)
  · exact safe

theorem Safe.noPeer {s : State} (h : Safe s) (g : Group) (c : Card) (w : Word) : Safe (s.noPeer g c w) := by
  unfold State.noPeer
  refine Safe.paired ?_ _ _ _
  split
  · exact h.clearBank _ _ _
  · exact h

theorem Machine.execPeerMatch_safe {s : State} (h : Safe s) (uid task : Nat) : OutSafe (execPeerMatch uid task s) := by
  unfold execPeerMatch
  split
  · exact OutSafe.next h
  split
  · exact OutSafe.next h
  dsimp only
  split
  · exact OutSafe.next h
  split
  · exact OutSafe.next (h.noPeer _ _ _)
  · exact OutSafe.next h
  split
  · exact OutSafe.next h
  split
  · exact OutSafe.next h
  split
  · exact OutSafe.next (h.noPeer _ _ _)
  split
  · exact OutSafe.next (h.contribute _ _ _ _)
  · exact OutSafe.next h

theorem Machine.addAt_safe {s : State} (h : Safe s) (ps : List Place) (x : Word) : Safe (addAt s ps x).1 := h.writePlaces _ _

theorem Machine.addAll_safe (xs : List Word) (ps : List Place) {s : State} (h : Safe s) : Safe (addAll xs ps s).1 := by
  induction xs generalizing ps s with
  | nil => exact h
  | cons x xs ih => exact ih _ (addAt_safe h _ _)

theorem Safe.drainGlobal {s : State} (safe : Safe s) (g : Group) (c : Card) (x : Ctx) (e : Nat) (b : Bank) (h : Shape) :
    Safe (s.drainGlobal g c x e b h) := by
  unfold State.drainGlobal
  split
  · dsimp only
    split
    · exact ((xlateBytes_safe safe _ _ _).engineStop _ _ _ _ _).moved
    split
    · exact (xlateBytes_safe safe _ _ _).ctxError _ _ _ _ _ _
    · exact ((addAll_safe _ _ (xlateBytes_safe safe _ _ _)).clearBank _ _ _).completeCard _ _ _ _
  · dsimp only
    split
    · exact ((xlateBytes_safe safe _ _ _).engineStop _ _ _ _ _).moved
    · exact ((writeOut_safe _ (xlateBytes_safe safe _ _ _) _ _).clearBank _ _ _).completeCard _ _ _ _

theorem Safe.completeGlobal {s : State} (h : Safe s) (g : Group) (c : Card) (x : Ctx) : Safe (s.completeGlobal g c x) := by
  have read := Machine.xlateBytes_safe h x .read (runFrom (c.u 0x10 8) 64)
  unfold State.completeGlobal
  split
  · exact h.completeCard _ _ _ _
  · dsimp only
    split
    · exact (read.engineStop _ _ _ _ _).moved
    · split
      · exact read.completeCard _ _ _ _
      · exact read.drainGlobal _ _ _ _ _ _

theorem Machine.execCardComplete_safe {s : State} (h : Safe s) (uid task : Nat) : OutSafe (execCardComplete uid task s) := by
  unfold execCardComplete
  split
  · exact OutSafe.next h
  split
  · split
    · exact OutSafe.next h
    split
    · exact OutSafe.next (h.completeGlobal _ _ _)
    · exact OutSafe.next (h.finishCard _ _)
  · exact OutSafe.next h

/-! ### Remote access -/

theorem Safe.failLane {s : State} (h : Safe s) (o : RemoteOp) (bit : Nat) : Safe (s.failLane o bit) := by
  unfold State.failLane
  split
  · exact h
  split
  · exact (h.modTeam _ _).modGroup _ _ (fun _ h2 => Group.modQueue_wf h2 _ _)
  · exact h.modTeam _ _

theorem Safe.readOver {s : State} (h : Safe s) (o : RemoteOp) : Safe (s.readOver o) := by
  unfold State.readOver
  split
  · exact h
  · exact h.modGroup _ _ (fun _ h2 => Group.arriveQ_wf h2 _ _ _)

theorem Safe.atomOver {s : State} (h : Safe s) (o : RemoteOp) : Safe (s.atomOver o) := h.modTeam _ _

theorem Safe.laneOver {s : State} (h : Safe s) (o : RemoteOp) : Safe (s.laneOver o) := by
  unfold State.laneOver
  split
  · refine Safe.readOver ?_ _
    exact h.same rfl rfl rfl rfl
  · split
    · exact h.same rfl rfl rfl rfl
    refine Safe.atomOver ?_ _
    exact h.same rfl rfl rfl rfl

theorem Safe.sendLane {s : State} (h : Safe s) (o : RemoteOp) : Safe (s.sendLane o) := by
  unfold State.sendLane
  split
  · exact h.failLane _ _
  · exact h.same rfl rfl rfl rfl

theorem Machine.Iss.remote_safe {x : Iss} (h : Safe x.s) (a : RegField) (off : Int) (size : Nat)
    (k : Ctx → List (Nat × Nat) → Act) (hk : ∀ (c : Ctx) (bs : List (Nat × Nat)), (k c bs).Safe) :
    (x.remote a off size k).Safe := by
  unfold Iss.remote
  split
  · exact h
  split
  · dsimp only
    split
    · trivial
    · exact h
  · dsimp only
    split
    · trivial
    · exact hk _ _

theorem Safe.sendAll {s : State} (h : Safe s) (ops : List RemoteOp) : Safe (s.sendAll ops) := by
  unfold State.sendAll
  refine safe_foldl _ (fun _ _ h3 => h3.sendLane _) _ _ ?_
  exact h.same rfl rfl rfl rfl

theorem Machine.execRread_safe {s : State} (h : Safe s) (q : BitVec 4) (a : RegField) (o : BitVec 4) (z : BitVec 3) :
    OutSafe (execRread q a o z s) := by
  unfold execRread
  refine OutSafe.issue h ?_
  intro _ h2 _
  refine Iss.remote_safe h2 _ _ _ _ ?_
  intro _ _
  refine Iss.withQueue_safe _ _ _ ?_
  intro _
  split
  · exact h2
  split
  · exact Iss.holdQueue_safe h2 _
  dsimp only
  split
  · exact h2
  split
  · refine Safe.readOver ?_ _
    refine Safe.sendAll ?_ _
    exact h2.modGroup _ _ (fun _ h8 => Group.changeQ_wf h8 _ _ _)
  · refine Safe.sendAll ?_ _
    exact h2.modGroup _ _ (fun _ h8 => Group.changeQ_wf h8 _ _ _)

theorem Machine.execRwrite_safe {s : State} (h : Safe s) (d a : RegField) (o : BitVec 4) (z : BitVec 2) :
    OutSafe (execRwrite d a o z s) := by
  unfold execRwrite
  refine OutSafe.issue h ?_
  intro _ h2 _
  refine Iss.remote_safe h2 _ _ _ _ ?_
  intro _ _
  dsimp only
  split
  · exact h2
  · exact h2.sendAll _

theorem Machine.Iss.remoteAtomic_safe {x : Iss} (h : Safe x.s) (d a : RegField) (kind size : Nat) (data cmp : Nat → DWord) :
    (x.remoteAtomic d a kind size data cmp).Safe := by
  unfold Iss.remoteAtomic
  refine Iss.remote_safe h _ _ _ _ ?_
  intro _ _
  dsimp only
  split
  · exact h
  split
  · exact h.sendAll _
  · exact (h.sendAll _).modTeam _ _

theorem Machine.execRatomAdd_safe {s : State} (h : Safe s) (d a : RegField) (z : BitVec 1) :
    OutSafe (execRatomAdd d a z s) :=
  OutSafe.issue h (fun _ h2 _ => Iss.remoteAtomic_safe h2 _ _ _ _ _ _)

theorem Machine.execRatomCas_safe {s : State} (h : Safe s) (d a : RegField) : OutSafe (execRatomCas d a s) :=
  OutSafe.issue h (fun _ h2 _ => Iss.remoteAtomic_safe h2 _ _ _ _ _ _)

theorem Machine.execRfence_safe {s : State} (h : Safe s) (d : RegField) : OutSafe (execRfence d s) := by
  unfold execRfence
  refine OutSafe.issue h ?_
  intro _ h2 _
  refine Iss.release_safe h2 _ ?_
  intro _ h5 _
  split
  · exact h5
  · exact Iss.okTeam_safe h5 _

theorem Safe.laneValue {s : State} (h : Safe s) (o : RemoteOp) (data : DWord) : Safe (s.laneValue o data) := by
  unfold State.laneValue
  split
  · exact h.modGroup _ _ (fun _ h2 => Group.modQueue_wf h2 _ _)
  split
  · exact h
  · exact h.modTeam _ _

theorem Machine.execRemoteResponse_safe {s : State} (h : Safe s) (rseq : Nat) (nack : Bool) (data : DWord) :
    OutSafe (execRemoteResponse rseq nack data s) := by
  unfold execRemoteResponse
  split
  · exact OutSafe.next h
  refine OutSafe.next ?_
  refine Safe.moved ?_
  refine Safe.laneOver ?_ _
  split
  · exact h.failLane _ _
  · exact h.laneValue _ _

theorem Machine.execRemoteTimeout_safe {s : State} (h : Safe s) (rseq : Nat) : OutSafe (execRemoteTimeout rseq s) := by
  unfold execRemoteTimeout
  split
  · exact OutSafe.next h
  split
  · exact OutSafe.next (((h.failLane _ _).laneOver _).moved)
  · exact OutSafe.next h

theorem Safe.takeDown {s : State} (h : Safe s) (port : Nat) : Safe (s.takeDown port) := by
  unfold State.takeDown
  refine Safe.moved ?_
  refine safe_elim ?_ ?_
  · exact safe_foldl _ (fun _ _ h3 => (h3.failLane _ _).laneOver _) _ _ (h.modPort _ _)
  · intro _
    refine Safe.raiseMsix ?_ _ _
    exact safe_foldl _ (fun _ _ h4 => (h4.failLane _ _).laneOver _) _ _ (h.modPort _ _)

theorem Safe.portCommand {s : State} (h : Safe s) (fn port : Nat) (b : Bool) (k : State → State)
    (hk : ∀ (s : State), Safe s → Safe (k s)) : Safe (s.portCommand fn port b k) := by
  unfold State.portCommand
  split
  · exact h.setStatus _ _
  · exact h.command _ _ _ (fun _ h2 => h2.okIf _ _ _ hk)

theorem Machine.execPortEnable_safe {s : State} (h : Safe s) (fn port : Nat) : OutSafe (execPortEnable fn port s) := by
  unfold execPortEnable
  refine OutSafe.next ?_
  exact h.portCommand _ _ _ _ (fun _ h2 => h2.modPort _ _)

theorem Machine.execPortDisable_safe {s : State} (h : Safe s) (fn port : Nat) : OutSafe (execPortDisable fn port s) := by
  unfold execPortDisable
  refine OutSafe.next ?_
  exact h.portCommand _ _ _ _ (fun _ h2 => h2.takeDown _)

theorem Machine.execPortTrained_safe {s : State} (h : Safe s) (port : Nat) : OutSafe (execPortTrained port s) :=
  OutSafe.next ((h.modPort _ _).moved)

theorem Machine.execLinkLoss_safe {s : State} (h : Safe s) (port : Nat) : OutSafe (execLinkLoss port s) := by
  unfold execLinkLoss
  split
  · exact OutSafe.next (h.takeDown _)
  · exact OutSafe.next h

theorem Machine.execPeerTableWrite_safe {s : State} (h : Safe s) (fn part : Nat) (who : CtxName) (idx : Nat) (valid : Bool)
    (port addr job : Nat) : OutSafe (execPeerTableWrite fn part who idx valid port addr job s) := by
  unfold execPeerTableWrite
  refine OutSafe.next ?_
  exact h.pfCommand _ _ (fun _ h2 => h2.ofGen _ _ _ _ _ (fun _ _ h5 => h5.okIf _ _ _ (fun _ h7 => h7.modCtx _ _ _)))

theorem Machine.execJobRegister_safe {s : State} (h : Safe s) (fn part job : Nat) (who : CtxName) :
    OutSafe (execJobRegister fn part job who s) := by
  unfold execJobRegister
  refine OutSafe.next ?_
  exact h.ctxCommand _ _ _ _ _ (fun _ _ h3 => h3.okIf _ _ _ (fun _ h5 => h5.modPart _ _ (fun _ h7 => h7)))

theorem Safe.answerPeer {s : State} (h : Safe s) (port : Nat) (ack : Bool) (data : List Byte) :
    Safe (s.answerPeer port ack data) :=
  (h.modPort _ _).moved

theorem Safe.performIncoming {s : State} (h : Safe s) (r : Incoming) (ps : List Place) : Safe (s.performIncoming r ps) := by
  unfold State.performIncoming
  split
  · exact h.answerPeer _ _ _
  · exact (h.writePlaces _ _).answerPeer _ _ _
  · exact (h.writePlaces _ _).answerPeer _ _ _

theorem Safe.serveIncoming {s : State} (h : Safe s) (r : Incoming) : Safe (s.serveIncoming r) := by
  unfold State.serveIncoming
  split
  · exact h
  split
  · exact h.answerPeer _ _ _
  dsimp only
  split
  · split
    · exact h.answerPeer _ _ _
    · exact (xlateBytes_safe h _ _ _).performIncoming _ _
  · refine Safe.moved ?_
    exact ((xlateBytes_safe h _ _ _).joinReq _ _ _ _ _ _ _).same rfl rfl rfl rfl
  · exact ((xlateBytes_safe h _ _ _).ctxError _ _ _ _ _ _).answerPeer _ _ _
  · exact h.answerPeer _ _ _

theorem Safe.serveWaiting {s : State} (h : Safe s) : Safe s.serveWaiting := by
  unfold State.serveWaiting
  refine safe_foldl _ (fun _ _ h3 => h3.serveIncoming _) _ _ ?_
  exact h.same rfl rfl rfl rfl

theorem Machine.execRemoteReadRequest_safe {s : State} (h : Safe s) (port job : Nat) (_endpoint va size : Nat) :
    OutSafe (execRemoteReadRequest port job _endpoint va size s) :=
  OutSafe.next (h.serveIncoming _)

theorem Machine.execRemoteWriteRequest_safe {s : State} (h : Safe s) (port job : Nat) (_endpoint va : Nat)
    (data : List Byte) : OutSafe (execRemoteWriteRequest port job _endpoint va data s) := OutSafe.next (h.serveIncoming _)

theorem Machine.execRemoteAtomicRequest_safe {s : State} (h : Safe s) (port job : Nat) (_endpoint va : Nat) (op size : Nat)
    (operand compare : Nat) : OutSafe (execRemoteAtomicRequest port job _endpoint va op size operand compare s) :=
  OutSafe.next (h.serveIncoming _)

/-! ### Events of pages -/

theorem Machine.execVariableResultReturn_safe {s : State} (h : Safe s) (uid tid idx : Nat) :
    OutSafe (execVariableResultReturn uid tid idx s) := by
  unfold execVariableResultReturn
  dsimp only
  split
  · split
    · exact OutSafe.next ((((h.lateValue _ _).modTeam _ _).finishTry _).moved)
    · exact OutSafe.next h
  · exact OutSafe.next h

theorem Machine.execQueueEntryComplete_safe {s : State} (h : Safe s) (uid q entry : Nat) :
    OutSafe (execQueueEntryComplete uid q entry s) := by
  unfold execQueueEntryComplete
  split
  · exact OutSafe.next h
  split
  · exact OutSafe.next h
  refine OutSafe.next ?_
  refine Safe.moved ?_
  exact h.modGroup _ _ (fun _ h2 => Group.arriveQ_wf h2 _ _ _)

theorem Machine.execHomeSliceAccept_safe {s : State} (h : Safe s) (uid tid : Nat) :
    OutSafe (execHomeSliceAccept uid tid s) := by
  unfold execHomeSliceAccept
  dsimp only
  split
  · exact OutSafe.next (((h.drainOne _).finishTry _).moved)
  · exact OutSafe.next h

theorem Machine.rereadLane_safe (w : Reader) (h : PollHold) {q : Gather} (safe : Safe q.s) (a : LaneAcc) :
    Safe (rereadLane w h q a).s := by
  unfold rereadLane
  split
  · exact safe_snd ‹_› (safe.xlate _ _ _)
  · exact safe
  · exact safe

theorem Machine.rereadLanes_safe {s : State} (safe : Safe s) (w : Reader) (h : PollHold) : Safe (rereadLanes s w h).s :=
  safe_foldl_of Gather.s (fun _ _ h3 => rereadLane_safe _ _ h3 _) _ _ safe

theorem Safe.endPoll {s : State} (h : Safe s) (r : TeamRef) : Safe (s.endPoll r) := by
  unfold State.endPoll
  split
  · exact h
  split
  · split
    · dsimp only
      split
      · exact (rereadLanes_safe h _ _).badAccess _ _
      split
      · exact (((rereadLanes_safe h _ _).acquiredOn _).modTeam _ _).moved
      · exact (((rereadLanes_safe h _ _).acquiredOn _).modTeam _ _).moved
      · exact (((rereadLanes_safe h _ _).modTeam _ _).raiseTrap _ _ _ _).moved
    · exact h
  · exact h

theorem Machine.execPollWake_safe {s : State} (h : Safe s) (uid tid : Nat) : OutSafe (execPollWake uid tid s) := by
  unfold execPollWake
  dsimp only
  split
  · split
    · split
      · exact OutSafe.next (h.endPoll _)
      · exact OutSafe.next h
    · exact OutSafe.next h
  · exact OutSafe.next h

theorem Machine.execPollTimeout_safe {s : State} (h : Safe s) (uid tid : Nat) : OutSafe (execPollTimeout uid tid s) := by
  unfold execPollTimeout
  dsimp only
  split
  · split
    · split
      · exact OutSafe.next (h.endPoll _)
      · exact OutSafe.next h
    · exact OutSafe.next h
  · exact OutSafe.next h

theorem Machine.execTranslationFault_safe {s : State} (h : Safe s) (uid tid : Nat) :
    OutSafe (execTranslationFault uid tid s) :=
  OutSafe.next ((h.reportTeam _).moved)

theorem Machine.execPageRequest_safe {s : State} (h : Safe s) (part tag : Nat) : OutSafe (execPageRequest part tag s) := by
  unfold execPageRequest
  split
  · exact OutSafe.next h
  dsimp only
  split
  · exact OutSafe.next h
  refine OutSafe.next ?_
  exact (h.modFunc _ _).modPart _ _ (fun _ h2 => h2)

theorem Machine.execAnswerRecord_safe {s : State} (h : Safe s) (fn : Nat) (record : List Byte) :
    OutSafe (execAnswerRecord fn record s) := by
  unfold execAnswerRecord
  split
  · exact OutSafe.next h
  split
  · exact OutSafe.next (h.modFunc _ _)
  refine OutSafe.next ?_
  refine Safe.moved ?_
  refine Safe.serveWaiting ?_
  refine Safe.answerReq ?_ _ _
  split
  · exact (h.modFunc _ _).dropTlb _ _ _
  · exact h.modFunc _ _

/-- A compressed page that a partition of a safe state holds is in the canonical form. -/
theorem Safe.compressed {s : State} (h : Safe s) {p : Nat} {pt : Partition} (hp : s.part? p = some pt) {q : CompRec → Bool} {r : CompRec}
    (hr : pt.comp.find? q = some r) : Memory.wf r.data = true :=
  h.2.2.2 pt (List.mem_of_getElem? hp) r (List.mem_of_find?_eq_some hr)

theorem Machine.execExpansionDone_safe {s : State} (h : Safe s) (part tag : Nat) : OutSafe (execExpansionDone part tag s) := by
  unfold execExpansionDone
  split
  · exact OutSafe.next h
  split
  · exact OutSafe.next h
  split
  · exact OutSafe.next h
  split
  · exact OutSafe.next h
  split
  · exact OutSafe.next ((h.answerReq _ _).serveWaiting).moved
  split
  · exact OutSafe.next ((h.answerReq _ _).serveWaiting).moved
  split
  · rename_i f _ r _ hr
    have opened : Safe { s with mem := memPaste s.mem f 65536 r.data } := ⟨memPaste_wf h.1 (h.compressed ‹_› hr) _ _, h.2⟩
    exact OutSafe.next (((((opened.closeFrame _ _).writePhys _ _ _).modPart _ _ fun _ ht q hq =>
      ht q (List.mem_filter.mp hq).1).answerReq _ _).serveWaiting).moved
  · split
    · exact OutSafe.next (h.dropReq _ _).moved
    · exact OutSafe.next (h.modPart _ _ fun _ ht => ht)

theorem Machine.execPageEngineRegister_safe {s : State} (h : Safe s) (fn part : Nat) (who : CtxName)
    (ranges : List (Nat × Nat)) (frames : List Nat) (low high period : Nat) :
    OutSafe (execPageEngineRegister fn part who ranges frames low high period s) := by
  unfold execPageEngineRegister
  refine OutSafe.next ?_
  exact h.ctxCommand _ _ _ _ _ (fun _ _ h3 => h3.okIf _ _ _ (fun _ h5 => h5.modPart _ _ (fun _ h7 => h7)))

theorem Safe.agePage {s : State} (h : Safe s) (part : Nat) (c : Ctx) (va : Nat) : Safe (s.agePage part c va) := by
  unfold State.agePage
  split
  · exact h
  split
  · exact h
  split
  · exact (h.writePhys _ _ _).dropTlb _ _ _
  dsimp only
  split
  · exact (h.writePhys _ _ _).modPart _ _ (fun _ h2 => h2)
  · exact h.writePhys _ _ _

theorem Machine.execAgeingPeriod_safe {s : State} (h : Safe s) (part : Nat) : OutSafe (execAgeingPeriod part s) := by
  unfold execAgeingPeriod
  split
  · exact OutSafe.next h
  · refine OutSafe.next (safe_foldl _ (fun _ _ hs => hs.agePage _ _ _) _ _ ?_)
    exact h.modPart _ _ fun _ ht => ht

theorem Safe.compressOne {s : State} (h : Safe s) (part : Nat) (v : Victim) : Safe (s.compressOne part v) := by
  unfold State.compressOne
  split
  · exact h
  · dsimp only
    split
    · split
      · refine Safe.dropTlb (Safe.modPart (((h.closeFrame _ _).writePhys _ _ _).modCores _ _) _ _ fun t ht r hr => ?_) _ _ _
        rcases List.mem_append.mp hr with hr | hr
        · exact ht r hr
        · rw [List.mem_singleton.mp hr]
          exact memSlice_wf h.1 _ _
      · exact h.writePhys _ _ _
    · exact h.writePhys _ _ _

theorem Safe.compressTo {s : State} (h : Safe s) (part : Nat) (l : List Victim) : Safe (s.compressTo part l) := by
  induction l generalizing s with
  | nil => exact h
  | cons v l ih =>
    unfold State.compressTo
    split
    · exact h
    · split
      · exact ih (h.compressOne _ _)
      · exact h

theorem Machine.execCompressVictim_safe {s : State} (h : Safe s) (part : Nat) : OutSafe (execCompressVictim part s) := by
  unfold execCompressVictim
  split
  · exact OutSafe.next h
  split
  · exact OutSafe.next (h.compressTo _ _)
  · exact OutSafe.next h

theorem Machine.execShootdown_safe {s : State} (h : Safe s) (fn part : Nat) (scope asid : Nat) (va len : Nat) :
    OutSafe (execShootdown fn part scope asid va len s) := by
  unfold execShootdown
  refine OutSafe.next ?_
  refine h.command _ _ _ ?_
  intro _ h2
  refine h2.okIf _ _ _ ?_
  intro _ h4
  refine Safe.modFunc ?_ _ _
  refine Safe.modCores ?_ _ _
  exact h4.modPart _ _ (fun _ h6 => h6)

theorem Machine.execGroupTableWrite_safe {s : State} (h : Safe s) (fn part : Nat) (idx group : Nat) :
    OutSafe (execGroupTableWrite fn part idx group s) := by
  unfold execGroupTableWrite
  refine OutSafe.next ?_
  refine h.pfCommand _ _ ?_
  intro _ h2
  refine h2.okIf _ _ _ ?_
  intro _ h4
  refine Safe.modCores ?_ _ _
  exact h4.modPart _ _ (fun _ h6 => h6)

theorem Machine.execSharedTableInstall_safe {s : State} (h : Safe s) (fn part root : Nat) :
    OutSafe (execSharedTableInstall fn part root s) := by
  unfold execSharedTableInstall
  refine OutSafe.next ?_
  exact h.pfCommand _ _ (fun _ h2 => h2.okIf _ _ _ (fun _ h4 => h4.modPart _ _ (fun _ h6 => h6)))

theorem Machine.execBankDrowsy_safe {s : State} (h : Safe s) (col row bank : Nat) :
    OutSafe (execBankDrowsy col row bank s) := by
  unfold execBankDrowsy
  split
  · refine OutSafe.next ?_
    exact h.same rfl rfl rfl rfl
  · exact OutSafe.next h

theorem Machine.execBankWake_safe {s : State} (h : Safe s) (col row bank : Nat) : OutSafe (execBankWake col row bank s) := by
  unfold execBankWake
  refine OutSafe.next ?_
  exact h.same rfl rfl rfl rfl

theorem Machine.execDrowsyDisable_safe {s : State} (h : Safe s) (fn part : Nat) (disable : Bool) :
    OutSafe (execDrowsyDisable fn part disable s) := by
  unfold execDrowsyDisable
  refine OutSafe.next ?_
  refine h.command _ _ _ ?_
  intro _ h2
  refine h2.okIf _ _ _ ?_
  intro _ h4
  split
  · refine Safe.same ?_ rfl rfl rfl rfl
    exact h4.modPart _ _ (fun _ h6 => h6)
  · exact h4.modPart _ _ (fun _ h6 => h6)

theorem Machine.execHostMemoryRequest_safe {s : State} (h : Safe s) (op : Nat) (host : Bool) (pa : Nat) (data : List Byte) :
    OutSafe (execHostMemoryRequest op host pa data s) := by
  unfold execHostMemoryRequest
  split
  · dsimp only
    split <;> exact OutSafe.next h
  · dsimp only
    split
    · exact OutSafe.next h
    · exact OutSafe.next ((h.writePhys _ _ _).moved)
  · dsimp only
    split
    · exact OutSafe.next h
    split
    · exact OutSafe.next ((h.writePhys _ _ _).moved)
    · exact OutSafe.next h
  · dsimp only
    split
    · exact OutSafe.next h
    split
    · exact OutSafe.next ((h.writePhys _ _ _).moved)
    · exact OutSafe.next h
  · dsimp only
    split
    · exact OutSafe.next h
    split
    · exact OutSafe.next ((h.writePhys _ _ _).moved)
    · exact OutSafe.next h
  · dsimp only
    split <;> exact OutSafe.next h

/-! ### Contexts -/

theorem Safe.wakeBanks {s : State} (h : Safe s) (part : Nat) : Safe (s.wakeBanks part) := by
  unfold State.wakeBanks
  split
  · exact h.same rfl rfl rfl rfl
  · exact h

theorem Safe.createCtx {s : State} (h : Safe s) (fn : Nat) (bs : List Byte) : Safe (s.createCtx fn bs) := by
  unfold State.createCtx
  refine Safe.wakeBanks ?_ _
  refine Safe.same ?_ rfl rfl rfl rfl
  exact h.modPart _ _ (fun _ h2 => h2)

theorem Machine.execCreateContext_safe {s : State} (h : Safe s) (fn : Nat) (desc : List Byte) :
    OutSafe (execCreateContext fn desc s) := by
  unfold execCreateContext
  refine OutSafe.next ?_
  split
  · exact h.setStatus _ _
  split
  · exact h.setStatus _ _
  · exact h.okIf _ _ _ (fun _ h2 => h2.createCtx _ _)

theorem Safe.freeTagged {s : State} (h : Safe s) (c : Ctx) : Safe (s.freeTagged c) :=
  (h.modCores _ _).modPart _ _ (fun _ h2 => h2)

theorem Safe.kill {s : State} (h : Safe s) (c : Ctx) : Safe (s.kill c) := ((h.discardCtx _ _).freeTagged _).modCtx _ _ _

theorem Machine.execDestroy_safe {s : State} (h : Safe s) (fn part : Nat) (who : CtxName) :
    OutSafe (execDestroy fn part who s) := by
  unfold execDestroy
  refine OutSafe.next ?_
  exact h.ctxCommand _ _ _ _ _ (fun _ _ h3 => h3.okIf _ _ _ (fun _ h5 => h5.kill _))

theorem Machine.execRollbackFloorRaise_safe {s : State} (h : Safe s) (fn part : Nat) (who : CtxName) (floor : Nat) :
    OutSafe (execRollbackFloorRaise fn part who floor s) := by
  unfold execRollbackFloorRaise
  refine OutSafe.next ?_
  refine h.ctxCommand _ _ _ _ _ ?_
  intro _ _ h3
  split
  · exact h3.setStatus _ _
  · exact h3.okIf _ _ _ (fun _ h5 => h5.modCtx _ _ _)

theorem Safe.stopTeam {s : State} (h : Safe s) (r : TeamRef) : Safe (s.stopTeam r) := by
  unfold State.stopTeam
  dsimp only
  split
  · exact (((h.endPoll _).modTeam _ _).finishTry _).reportTeam _
  · exact ((h.endPoll _).modTeam _ _).finishTry _

theorem Safe.returnLoads {s : State} (h : Safe s) (g : Group) : Safe (s.returnLoads g) := by
  unfold State.returnLoads
  refine Safe.modCore ?_ _ _
  exact h.modGroup _ _ (fun _ h2 => h2)

theorem Safe.quiesce {s : State} (h : Safe s) (part ctxid cause : Nat) : Safe (s.quiesce part ctxid cause) := by
  unfold State.quiesce
  refine Safe.moved ?_
  refine safe_foldl _ (fun _ _ hs => hs.stopTeam _) _ _ ?_
  refine safe_foldl _ (fun _ _ hs => hs.returnLoads _) _ _ ?_
  refine Safe.modCtx ?_ _ _ _
  refine safe_elim h fun c => safe_foldl _ ?_ _ _ h
  intro s g hs
  exact hs.modGroup _ _ fun _ hg => hg

theorem Machine.execPreempt_safe {s : State} (h : Safe s) (fn part : Nat) (who : CtxName) :
    OutSafe (execPreempt fn part who s) := by
  unfold execPreempt
  refine OutSafe.next ?_
  refine h.ctxCommand _ _ _ _ _ ?_
  intro _ _ h3
  split
  · exact h3.setStatus _ _
  · exact h3.okIf _ _ _ (fun _ h5 => h5.quiesce _ _ _)

theorem Machine.execPreemptionDecision_safe {s : State} (h : Safe s) (lid : Nat) :
    OutSafe (execPreemptionDecision lid s) := by
  unfold execPreemptionDecision
  split
  · exact OutSafe.next (h.quiesce _ _ _)
  · exact OutSafe.next h

theorem Machine.Group.keepCards_wf {g : Group} (hg : g.pad.wf = true) : g.keepCards.pad.wf = true := hg

theorem Safe.dropCopies {s : State} (h : Safe s) (part : Nat) (uids : List Nat) : Safe (s.dropCopies part uids) :=
  ((h.detach _ _).abortCopies _).abortFetches _

theorem Safe.saveTeam {s : State} (h : Safe s) (r : TeamRef) : Safe (s.saveTeam r) := by
  unfold State.saveTeam
  dsimp only
  split
  · exact (h.writeBack _).reportTeam _
  · exact h.writeBack _

theorem Safe.saveGroup {s : State} (h : Safe s) (g : Group) : Safe (s.saveGroup g) := by
  unfold State.saveGroup
  refine Safe.modCore ?_ _ _
  exact h.modGroup _ _ (fun _ h2 => h2)

theorem Safe.writeHeader {s : State} (h : Safe s) (c : Ctx) (ngroup ncopy : Nat) : Safe (s.writeHeader c ngroup ncopy) := by
  unfold State.writeHeader
  refine Safe.writePhys ?_ _ _ _
  refine safe_foldl _ (fun _ _ h3 => h3.writePhys _ _ _) _ _ ?_
  exact h.same rfl rfl rfl rfl

theorem Safe.nextSeq {s : State} (h : Safe s) (n : Nat) : Safe { s with nextSeq := n } := h.same rfl rfl rfl rfl

theorem Safe.save {s : State} (h : Safe s) (c : Ctx) : Safe (s.save c) := by
  have moved := safe_foldl State.finishMove (fun _ r hs => hs.finishMove r) (refsOf (s.groupsOf c.part c.ctxid)) _ h
  have kept := safe_foldl (fun (s : State) (g : Group) => s.modGroup g.uid Group.keepCards)
    (fun _ g hs => hs.modGroup g.uid _ fun _ hg => Group.keepCards_wf hg) (s.groupsOf c.part c.ctxid) _ moved
  have saved := safe_foldl State.saveTeam (fun _ r hs => hs.saveTeam r) (refsOf (s.groupsOf c.part c.ctxid)) _
    (kept.dropCopies c.part ((s.groupsOf c.part c.ctxid).map (·.uid)))
  unfold State.save
  dsimp only
  revert saved
  generalize List.foldl State.saveTeam _ _ = u
  intro saved
  split
  · exact saved
  rename_i d _
  split
  · exact saved
  have lines := (safe_foldl State.saveGroup (fun _ g hs => hs.saveGroup g) (u.groupsOf d.part d.ctxid) _ saved).modCores
    (u.coresOf d.part) (Core.dropLines d.asid)
  revert lines
  generalize State.modCores _ _ _ = v
  intro lines
  split
  · exact ((((lines.writeHeader _ _ _).nextSeq _).modCtx _ _ _).postEvent _ _ _ _ _ _).moved
  · exact (lines.ctxError _ _ _ _ _ _).moved

theorem Machine.execSaveComplete_safe {s : State} (h : Safe s) (part ctxid : Nat) :
    OutSafe (execSaveComplete part ctxid s) := by
  unfold execSaveComplete
  split
  · split
    · exact OutSafe.next (h.save _)
    · exact OutSafe.next h
  · exact OutSafe.next h

theorem Safe.replaceOn {s : State} (h : Safe s) (c : Ctx) (g : Group) (core : Nat) : OptSafe (s.replaceOn c g core) := by
  unfold State.replaceOn
  split
  · exact OptSafe.none
  split
  · refine Safe.needOverlays ?_ _ _ _
    exact (h.modCore _ _).modGroup _ _ (fun _ h2 => h2)
  · exact OptSafe.none

theorem Safe.replaceGroup {s : State} (h : Safe s) (c : Ctx) (g : Group) : OptSafe (s.replaceGroup c g) :=
  OptSafe.bind fun _ => h.replaceOn _ _ _

theorem Safe.replaceAll {s : State} (h : Safe s) (c : Ctx) (l : List Group) : OptSafe (State.replaceAll c l s) := by
  induction l generalizing s with
  | nil => exact OptSafe.some h
  | cons g l ih => exact (h.replaceGroup c g).bindSafe fun _ hs => ih hs

theorem Safe.resumed {s : State} (h : Safe s) (c : Ctx) : OptSafe (s.resumed c) := by
  unfold State.resumed
  dsimp only
  split
  · exact OptSafe.none
  · exact OptSafe.some ((((((OptSafe.get ‹_› (h.replaceAll _ _)).reissueCopies _).modCtx _ _ _).actKept _).advance _).moved)

theorem Safe.resumption {s : State} (h : Safe s) (part ctxid : Nat) : OptSafe (s.resumption part ctxid) := by
  unfold State.resumption
  split
  · split
    · exact h.resumed _
    · exact OptSafe.none
  · exact OptSafe.none

theorem Machine.execResume_safe {s : State} (h : Safe s) (part ctxid : Nat) : OutSafe (execResume part ctxid s) := by
  unfold execResume
  split
  · exact OutSafe.next (OptSafe.get ‹_› (h.resumption _ _))
  · exact OutSafe.next h

theorem Machine.execWatchdog_safe {s : State} (h : Safe s) (lid : Nat) : OutSafe (execWatchdog lid s) := by
  unfold execWatchdog
  split
  · split
    · exact OutSafe.next ((h.ctxError _ _ _ _ _ _).moved)
    · exact OutSafe.next h
  · exact OutSafe.next h

theorem Machine.execQdeadlock_safe {s : State} (h : Safe s) (uid : Nat) : OutSafe (execQdeadlock uid s) := by
  unfold execQdeadlock
  split
  · split
    · exact OutSafe.next ((h.ctxError _ _ _ _ _ _).moved)
    · exact OutSafe.next h
  · exact OutSafe.next h

/-! ### Integer words -/

theorem Machine.execIadd_safe {s : State} (h : Safe s) (d a b : RegField) : OutSafe (execIadd d a b s) :=
  OutSafe.issue h (fun _ h2 _ => Iss.lane32_safe h2 _ _)

theorem Machine.execIsub_safe {s : State} (h : Safe s) (d a b : RegField) : OutSafe (execIsub d a b s) :=
  OutSafe.issue h (fun _ h2 _ => Iss.lane32_safe h2 _ _)

theorem Machine.execImul_safe {s : State} (h : Safe s) (d a b : RegField) : OutSafe (execImul d a b s) :=
  OutSafe.issue h (fun _ h2 _ => Iss.lane32_safe h2 _ _)

theorem Machine.execImulh_safe {s : State} (h : Safe s) (d a b : RegField) : OutSafe (execImulh d a b s) :=
  OutSafe.issue h (fun _ h2 _ => Iss.lane_safe h2 _ _)

theorem Machine.execImulhn_safe {s : State} (h : Safe s) (d a b : RegField) : OutSafe (execImulhn d a b s) :=
  OutSafe.issue h (fun _ h2 _ => Iss.lane_safe h2 _ _)

theorem Machine.execImin_safe {s : State} (h : Safe s) (d a b : RegField) : OutSafe (execImin d a b s) :=
  OutSafe.issue h (fun _ h2 _ => Iss.lane_safe h2 _ _)

theorem Machine.execImax_safe {s : State} (h : Safe s) (d a b : RegField) : OutSafe (execImax d a b s) :=
  OutSafe.issue h (fun _ h2 _ => Iss.lane_safe h2 _ _)

theorem Machine.execNmin_safe {s : State} (h : Safe s) (d a b : RegField) : OutSafe (execNmin d a b s) :=
  OutSafe.issue h (fun _ h2 _ => Iss.lane_safe h2 _ _)

theorem Machine.execNmax_safe {s : State} (h : Safe s) (d a b : RegField) : OutSafe (execNmax d a b s) :=
  OutSafe.issue h (fun _ h2 _ => Iss.lane_safe h2 _ _)

theorem Machine.execIand_safe {s : State} (h : Safe s) (d a b : RegField) : OutSafe (execIand d a b s) :=
  OutSafe.issue h (fun _ h2 _ => Iss.lane_safe h2 _ _)

theorem Machine.execIor_safe {s : State} (h : Safe s) (d a b : RegField) : OutSafe (execIor d a b s) :=
  OutSafe.issue h (fun _ h2 _ => Iss.lane_safe h2 _ _)

theorem Machine.execIxor_safe {s : State} (h : Safe s) (d a b : RegField) : OutSafe (execIxor d a b s) :=
  OutSafe.issue h (fun _ h2 _ => Iss.lane_safe h2 _ _)

theorem Machine.execAndn_safe {s : State} (h : Safe s) (d a b : RegField) : OutSafe (execAndn d a b s) :=
  OutSafe.issue h (fun _ h2 _ => Iss.lane_safe h2 _ _)

theorem Machine.execShl_safe {s : State} (h : Safe s) (d a b : RegField) : OutSafe (execShl d a b s) :=
  OutSafe.issue h (fun _ h2 _ => Iss.lane_safe h2 _ _)

theorem Machine.execShr_safe {s : State} (h : Safe s) (d a b : RegField) : OutSafe (execShr d a b s) :=
  OutSafe.issue h (fun _ h2 _ => Iss.lane_safe h2 _ _)

theorem Machine.execSar_safe {s : State} (h : Safe s) (d a b : RegField) : OutSafe (execSar d a b s) :=
  OutSafe.issue h (fun _ h2 _ => Iss.lane_safe h2 _ _)

theorem Machine.execIabs_safe {s : State} (h : Safe s) (d a : RegField) : OutSafe (execIabs d a s) :=
  OutSafe.issue h (fun _ h2 _ => Iss.lane32_safe h2 _ _)

theorem Machine.execIneg_safe {s : State} (h : Safe s) (d a : RegField) : OutSafe (execIneg d a s) :=
  OutSafe.issue h (fun _ h2 _ => Iss.lane32_safe h2 _ _)

theorem Machine.execInot_safe {s : State} (h : Safe s) (d a : RegField) : OutSafe (execInot d a s) :=
  OutSafe.issue h (fun _ h2 _ => Iss.lane_safe h2 _ _)

theorem Machine.execPopc_safe {s : State} (h : Safe s) (d a : RegField) : OutSafe (execPopc d a s) :=
  OutSafe.issue h (fun _ h2 _ => Iss.lane_safe h2 _ _)

theorem Machine.execClz_safe {s : State} (h : Safe s) (d a : RegField) : OutSafe (execClz d a s) :=
  OutSafe.issue h (fun _ h2 _ => Iss.lane_safe h2 _ _)

theorem Machine.execBrev_safe {s : State} (h : Safe s) (d a : RegField) : OutSafe (execBrev d a s) :=
  OutSafe.issue h (fun _ h2 _ => Iss.lane_safe h2 _ _)

theorem Machine.execBfe_safe {s : State} (h : Safe s) (d a b : RegField) : OutSafe (execBfe d a b s) :=
  OutSafe.issue h (fun _ h2 _ => Iss.lane_safe h2 _ _)

theorem Machine.execBfi_safe {s : State} (h : Safe s) (d a b : RegField) : OutSafe (execBfi d a b s) :=
  OutSafe.issue h (fun _ h2 _ => Iss.lane_safe h2 _ _)

theorem Machine.execIsel_safe {s : State} (h : Safe s) (d a p : RegField) : OutSafe (execIsel d a p s) :=
  OutSafe.issue h (fun _ h2 _ => Iss.lane_safe h2 _ _)

theorem Machine.execIcmp_safe {s : State} (h : Safe s) (c : BitVec 4) (p : BitVec 3) (a b : RegField) :
    OutSafe (execIcmp c p a b s) :=
  OutSafe.issue h (fun _ h2 _ => Iss.lanePred_safe h2 _ _)

theorem Machine.execMovc_safe {s : State} (h : Safe s) (d a : RegField) : OutSafe (execMovc d a s) :=
  OutSafe.issue h (fun _ h2 _ => Iss.lane64_safe h2 _ _)

theorem Machine.execImad_safe {s : State} (h : Safe s) (d a b : RegField) : OutSafe (execImad d a b s) :=
  OutSafe.issue h (fun _ h2 _ => Iss.lane32_safe h2 _ _)

theorem Machine.execIaddi_safe {s : State} (h : Safe s) (d a : RegField) (i : BitVec 8) : OutSafe (execIaddi d a i s) :=
  OutSafe.issue h (fun _ h2 _ => Iss.lane32_safe h2 _ _)

theorem Machine.execAndi_safe {s : State} (h : Safe s) (d a : RegField) (i : BitVec 8) : OutSafe (execAndi d a i s) :=
  OutSafe.issue h (fun _ h2 _ => Iss.lane_safe h2 _ _)

theorem Machine.execOri_safe {s : State} (h : Safe s) (d a : RegField) (i : BitVec 8) : OutSafe (execOri d a i s) :=
  OutSafe.issue h (fun _ h2 _ => Iss.lane_safe h2 _ _)

theorem Machine.execXori_safe {s : State} (h : Safe s) (d a : RegField) (i : BitVec 8) : OutSafe (execXori d a i s) :=
  OutSafe.issue h (fun _ h2 _ => Iss.lane_safe h2 _ _)

theorem Machine.execShli_safe {s : State} (h : Safe s) (d a : RegField) (i : BitVec 8) : OutSafe (execShli d a i s) :=
  OutSafe.issue h (fun _ h2 _ => Iss.lane_safe h2 _ _)

theorem Machine.execShri_safe {s : State} (h : Safe s) (d a : RegField) (i : BitVec 8) : OutSafe (execShri d a i s) :=
  OutSafe.issue h (fun _ h2 _ => Iss.lane_safe h2 _ _)

theorem Machine.execSari_safe {s : State} (h : Safe s) (d a : RegField) (i : BitVec 8) : OutSafe (execSari d a i s) :=
  OutSafe.issue h (fun _ h2 _ => Iss.lane_safe h2 _ _)

theorem Machine.execIcmpi_safe {s : State} (h : Safe s) (c : BitVec 4) (p : BitVec 3) (a : RegField) (i : BitVec 8) :
    OutSafe (execIcmpi c p a i s) :=
  OutSafe.issue h (fun _ h2 _ => Iss.lanePred_safe h2 _ _)

theorem Machine.execMovi_safe {s : State} (h : Safe s) (d : RegField) (i : BitVec 18) : OutSafe (execMovi d i s) :=
  OutSafe.issue h (fun _ h2 _ => Iss.lane64_safe h2 _ _)

/-! ### Start, service life and faults -/

theorem Safe.afterReset {s : State} (h : Safe s) : Safe s.afterReset := by
  refine ⟨rfl, h.2.1, nofun, fun p hp r hr => ?_⟩
  have fresh : ∀ p ∈ State.reset.parts, p.comp = [] := by decide
  rw [fresh p hp] at hr
  exact absurd hr List.not_mem_nil

/-- Partitions at bring-up hold no compressed page. -/
theorem Machine.partitionsUp_data (mode : PartMode) (stack : Nat) :
    ∀ p ∈ (List.range 8).map fun p => partitionUp mode p stack, ∀ r ∈ p.comp, Memory.wf r.data = true := by
  intro p hp r hr
  obtain ⟨n, -, rfl⟩ := List.mem_map.mp hp
  exact absurd hr List.not_mem_nil

theorem Machine.execFullDeviceReset_safe {s : State} (h : Safe s) (fn : Nat) : OutSafe (execFullDeviceReset fn s) := by
  unfold execFullDeviceReset
  split
  · exact OutSafe.next (h.setStatus _ _)
  split
  · exact OutSafe.next h.afterReset.moved
  · exact OutSafe.next (h.setStatus _ _)

theorem Machine.execPowerLoss_safe {s : State} (h : Safe s) : OutSafe (execPowerLoss s) := by
  unfold execPowerLoss
  refine OutSafe.next ?_
  refine Safe.moved ?_
  exact h.afterReset.same rfl rfl rfl rfl

theorem Safe.startFails {s : State} (h : Safe s) (hamada : Bool) (step reason : Nat) :
    Safe (s.startFails hamada step reason) :=
  h.same rfl rfl rfl rfl

theorem Safe.readyNormal {s : State} (h : Safe s) (ms : List StripMap) : Safe (s.readyNormal ms) :=
  ⟨h.1, h.2.1, h.2.2.1, partitionsUp_data _ _⟩

theorem Safe.readyHamada {s : State} (h : Safe s) (ms : List (Option StripMap)) (strip stack : Nat) :
    Safe (s.readyHamada ms strip stack) := ⟨h.1, h.2.1, h.2.2.1, partitionsUp_data _ _⟩

theorem Safe.startNormal {s : State} (h : Safe s) (badStacks badClusters : List Nat) :
    Safe (s.startNormal badStacks badClusters) := by
  unfold State.startNormal
  split
  · exact h.startFails _ _ _
  dsimp only
  split
  · exact h.readyNormal _
  · exact h.startFails _ _ _

theorem Safe.startHamada {s : State} (h : Safe s) (badStacks badClusters : List Nat) :
    Safe (s.startHamada badStacks badClusters) := by
  unfold State.startHamada
  dsimp only
  split
  · exact h.startFails _ _ _
  split
  · exact h.startFails _ _ _
  · exact h.readyHamada _ _ _

theorem Safe.start {s : State} (h : Safe s) (image mgmt : List Byte) (badStacks badClusters : List Nat) :
    Safe (s.start image mgmt badStacks badClusters) := by
  unfold State.start
  dsimp only
  split
  · refine Safe.startFails ?_ _ _ _
    exact h.same rfl rfl rfl rfl
  · split
    · refine Safe.startFails ?_ _ _ _
      exact h.same rfl rfl rfl rfl
    · split
      · refine Safe.startHamada ?_ _ _
        exact h.same rfl rfl rfl rfl
      · refine Safe.startNormal ?_ _ _
        exact h.same rfl rfl rfl rfl

theorem Machine.execResetRelease_safe {s : State} (h : Safe s) (firmware mgmt : List Byte)
    (badStacks badClusters : List Nat) : OutSafe (execResetRelease firmware mgmt badStacks badClusters s) := by
  unfold execResetRelease
  split
  · exact OutSafe.next ((h.start _ _ _ _).moved)
  · exact OutSafe.next h

theorem Machine.execStartTimeout_safe {s : State} (h : Safe s) : OutSafe (execStartTimeout s) := by
  unfold execStartTimeout
  split
  · refine OutSafe.next ?_
    refine Safe.moved ?_
    refine Safe.startFails ?_ _ _ _
    exact h.freeVal.same rfl rfl rfl rfl
  · exact OutSafe.next h

theorem Machine.execFirmwareUpload_safe {s : State} (h : Safe s) (firmware : List Byte) :
    OutSafe (execFirmwareUpload firmware s) := by
  unfold execFirmwareUpload
  split
  · refine OutSafe.next ?_
    refine Safe.moved ?_
    refine Safe.afterReset ?_
    exact h.same rfl rfl rfl rfl
  · exact OutSafe.next h

theorem Machine.execClearfail_safe {s : State} (h : Safe s) (fn : Nat) : OutSafe (execClearfail fn s) := by
  unfold execClearfail
  refine OutSafe.next ?_
  exact h.pfCommand _ _ (fun _ h2 => h2.okIf _ _ _ (fun _ h4 => h4.same rfl rfl rfl rfl))

theorem Machine.execAntiRollbackBlow_safe {s : State} (h : Safe s) (fn : Nat) (command : List Byte) :
    OutSafe (execAntiRollbackBlow fn command s) := by
  unfold execAntiRollbackBlow
  refine OutSafe.next ?_
  exact h.pfCommand _ _ (fun _ h2 => h2.okIf _ _ _ (fun _ h4 => h4.same rfl rfl rfl rfl))

theorem Machine.execPartitionReset_safe {s : State} (h : Safe s) (fn part : Nat) : OutSafe (execPartitionReset fn part s) := by
  unfold execPartitionReset
  refine OutSafe.next (h.command _ _ _ fun s h => h.okIf _ _ _ fun s h => ?_)
  have killed := safe_foldl (fun (s : State) c => (s.kill c).postEvent c 3 0 noCore 0 0) (fun _ c hs => (hs.kill c).postEvent _ _ _ _ _ _)
    (s.liveCtxs part) _ h
  exact (killed.modCores _ _).modPart _ _ fun _ ht => ht

theorem Machine.execTestMode_safe {s : State} (h : Safe s) (fn part : Nat) : OutSafe (execTestMode fn part s) := by
  unfold execTestMode
  refine OutSafe.next ?_
  exact h.pfCommand _ _ (fun _ h2 => h2.okIf _ _ _ (fun _ h4 => h4.modPart _ _ (fun _ h6 => h6)))

theorem Machine.execPartitionModeWrite_safe {s : State} (h : Safe s) (fn mode : Nat) :
    OutSafe (execPartitionModeWrite fn mode s) := by
  unfold execPartitionModeWrite
  refine OutSafe.next ?_
  exact h.pfCommand _ _ (fun _ h2 => h2.okIf _ _ _ (fun _ h4 => h4.same rfl rfl rfl rfl))

theorem Machine.execRepairMapWrite_safe {s : State} (h : Safe s) (fn strip : Nat) (map : List Nat) :
    OutSafe (execRepairMapWrite fn strip map s) := by
  unfold execRepairMapWrite
  refine OutSafe.next ?_
  exact h.pfCommand _ _ (fun _ h2 => h2.okIf _ _ _ (fun _ h4 => h4.same rfl rfl rfl rfl))

theorem Machine.execPowerCap_safe {s : State} (h : Safe s) (fn watts : Nat) : OutSafe (execPowerCap fn watts s) := by
  unfold execPowerCap
  refine OutSafe.next ?_
  exact h.pfCommand _ _ (fun _ h2 => h2.okIf _ _ _ (fun _ h4 => h4.same rfl rfl rfl rfl))

theorem Safe.replan {s : State} (h : Safe s) : Safe s.replan := by
  unfold State.replan
  dsimp only
  split
  · refine Safe.raiseMsix ?_ _ _
    exact h.same rfl rfl rfl rfl
  · exact h.same rfl rfl rfl rfl

theorem Machine.execReplanCommand_safe {s : State} (h : Safe s) (fn : Nat) : OutSafe (execReplanCommand fn s) := by
  unfold execReplanCommand
  refine OutSafe.next ?_
  exact h.pfCommand _ _ (fun _ h2 => h2.okIf _ _ _ (fun _ h4 => h4.same rfl rfl rfl rfl))

theorem Machine.execReplanPeriod_safe {s : State} (h : Safe s) : OutSafe (execReplanPeriod s) := by
  unfold execReplanPeriod
  split
  · exact OutSafe.next h.replan.moved
  · exact OutSafe.next h

theorem Safe.deviceFault {s : State} (h : Safe s) (p : Ctx → Bool) : Safe (s.deviceFault p) := by
  unfold State.deviceFault
  refine Safe.moved ?_
  exact safe_foldl _ (fun _ _ h3 => h3.ctxError _ _ _ _ _ _) _ _ h

theorem Machine.execHostLinkDown_safe {s : State} (h : Safe s) : OutSafe (execHostLinkDown s) := by
  unfold execHostLinkDown
  refine OutSafe.next ?_
  refine Safe.deviceFault ?_ _
  exact h.same rfl rfl rfl rfl

theorem Machine.execThermalTrip_safe {s : State} (h : Safe s) : OutSafe (execThermalTrip s) := by
  unfold execThermalTrip
  refine OutSafe.next ?_
  exact (h.deviceFault _).same rfl rfl rfl rfl

theorem Machine.execThermalThrottle_safe {s : State} (h : Safe s) (on : Bool) : OutSafe (execThermalThrottle on s) := by
  unfold execThermalThrottle
  refine OutSafe.next ?_
  exact h.same rfl rfl rfl rfl

theorem Machine.execCorrectableError_safe {s : State} (h : Safe s) (block : Nat) :
    OutSafe (execCorrectableError block s) := by
  unfold execCorrectableError
  split
  · exact OutSafe.next h
  dsimp only
  split
  · refine OutSafe.next ?_
    refine Safe.raiseMsix ?_ _ _
    exact h.same rfl rfl rfl rfl
  · refine OutSafe.next ?_
    exact h.same rfl rfl rfl rfl

theorem Safe.retireFrame {s : State} (h : Safe s) (frame : Nat) : Safe (s.retireFrame frame) := by
  refine ⟨h.1, h.2.1, h.2.2.1, fun p hp => ?_⟩
  obtain ⟨q, hq, rfl⟩ := List.mem_map.mp hp
  exact h.2.2.2 q hq

theorem Machine.execUncorrectableError_safe {s : State} (h : Safe s) (site index : Nat) (saving : Bool) :
    OutSafe (execUncorrectableError site index saving s) := by
  unfold execUncorrectableError
  split
  · exact OutSafe.next ((h.deviceFault _).retireFrame _)
  · exact OutSafe.next (h.deviceFault _)

theorem Machine.execScrub_safe {s : State} (h : Safe s) : OutSafe (execScrub s) := by
  unfold execScrub
  split
  · refine OutSafe.next ?_
    exact h.same rfl rfl rfl rfl
  · exact OutSafe.next h

theorem Machine.execRegisterWrite_safe {s : State} (h : Safe s) (fn reg : Nat) (idx value : Nat) :
    OutSafe (execRegisterWrite fn reg idx value s) := by
  unfold execRegisterWrite
  split
  · refine OutSafe.next ?_
    exact h.pfCommand _ _ (fun _ h2 => h2.okIf _ _ _ (fun _ h4 => h4.same rfl rfl rfl rfl))
  · refine OutSafe.next ?_
    exact h.portCommand _ _ _ _ (fun _ h2 => h2.modPort _ _)
  · refine OutSafe.next ?_
    exact h.pfCommand _ _ (fun _ h2 => h2.okIf _ _ _ (fun _ h4 => h4.same rfl rfl rfl rfl))
  · refine OutSafe.next ?_
    exact h.pfCommand _ _ (fun _ h2 => h2.setStatus _ _)

/-! ### Routing -/

theorem Machine.Iss.route_safe {x : Iss} (h : Safe x.s) (k : Ctx → Act) (hk : ∀ (c : Ctx), (k c).Safe) :
    (x.route k).Safe := by
  unfold Iss.route
  split
  · exact h
  split
  · exact hk _
  · exact h

theorem Machine.Iss.routed_safe {x : Iss} (h : Safe x.s) (c : Ctx) (d : RegField) (w : Word) : (x.routed c d w).Safe :=
  (h.modCtx _ _ _).modTeam _ _

theorem Machine.Iss.acquiring_safe {x : Iss} (h : Safe x.s) (hg : x.g.pad.wf = true) (acq : Bool) (k : Iss → Act)
    (hk : ∀ (y : Iss), Safe y.s → y.g.pad.wf = true → (k y).Safe) : (x.acquiring acq k).Safe := by
  unfold Iss.acquiring
  split
  · exact hk _ h hg
  split
  · exact h
  · exact hk _ (h.acquire _) hg

theorem Machine.execSlotget_safe {s : State} (h : Safe s) (d a : RegField) : OutSafe (execSlotget d a s) :=
  OutSafe.issue h (fun _ h2 h3 => Iss.route_safe h2 _ (fun _ => Iss.acquiring_safe h2 h3 _ _ (fun _ h6 _ => Iss.routed_safe h6 _ _ _)))

theorem Machine.execSlotref_safe {s : State} (h : Safe s) (d a k : RegField) : OutSafe (execSlotref d a k s) := by
  unfold execSlotref
  refine OutSafe.issue h ?_
  intro _ h2 h3
  split
  · exact Iss.release_safe h2 _ (fun _ h5 h6 => Iss.route_safe h5 _ (fun _ => Iss.acquiring_safe h5 h6 _ _ (fun _ h9 _ => Iss.routed_safe h9 _ _ _)))
  · exact Iss.route_safe h2 _ (fun _ => Iss.acquiring_safe h2 h3 _ _ (fun _ h6 _ => Iss.routed_safe h6 _ _ _))

theorem Machine.execSlotrel_safe {s : State} (h : Safe s) (d a : RegField) : OutSafe (execSlotrel d a s) :=
  OutSafe.issue h (fun _ h2 _ => Iss.route_safe h2 _ (fun _ => Iss.routed_safe h2 _ _ _))

theorem Machine.execRtstage_safe {s : State} (h : Safe s) (d a b : RegField) : OutSafe (execRtstage d a b s) := by
  unfold execRtstage
  refine OutSafe.issue h ?_
  intro _ h2 _
  refine Iss.route_safe h2 _ ?_
  intro _
  dsimp only
  split
  · trivial
  split
  · exact Iss.status_safe _ h2 _ _
  refine Iss.loadRun_safe h2 _ h2 _ _ _ ?_
  intro _ _ h7
  split
  · exact Iss.status_safe _ h7 _ _
  · exact Iss.status_safe _ (h7.modCtx _ _ _) _ _

theorem Machine.execRtlook_safe {s : State} (h : Safe s) (d a b : RegField) : OutSafe (execRtlook d a b s) :=
  OutSafe.issue h (fun _ h2 _ => Iss.route_safe h2 _ (fun _ => Iss.routed_safe h2 _ _ _))

theorem Machine.execRtlookAdm_safe {s : State} (h : Safe s) (d a : RegField) : OutSafe (execRtlookAdm d a s) :=
  OutSafe.issue h (fun _ h2 _ => Iss.route_safe h2 _ (fun _ => Iss.routed_safe h2 _ _ _))

/-! ### System words -/

theorem Machine.execNop_safe {s : State} (h : Safe s) : OutSafe (execNop s) := OutSafe.issue h (fun _ h2 _ => h2)

theorem Machine.execTrap_safe {s : State} (h : Safe s) (i : BitVec 8) : OutSafe (execTrap i s) := by
  unfold execTrap
  refine OutSafe.issue h ?_
  intro _ h2 _
  split
  · exact h2
  · trivial

theorem Machine.execBkpt_safe {s : State} (h : Safe s) (i : BitVec 8) : OutSafe (execBkpt i s) := by
  unfold execBkpt
  refine OutSafe.issue h ?_
  intro _ h2 _
  split
  · exact h2
  · trivial

theorem Machine.execTret_safe {s : State} (h : Safe s) : OutSafe (execTret s) := by
  unfold execTret
  refine OutSafe.issue h ?_
  intro _ h2 _
  split
  · exact Iss.trapWord_safe _ _
  split
  · trivial
  · exact Iss.put_safe h2 _

theorem Machine.execRds_safe {s : State} (h : Safe s) (d : RegField) (i : BitVec 8) : OutSafe (execRds d i s) :=
  OutSafe.issue h (fun _ h2 _ => Iss.okTeam_safe h2 _)

theorem Machine.execWrs_safe {s : State} (h : Safe s) (a : RegField) (i : BitVec 8) : OutSafe (execWrs a i s) := by
  unfold execWrs
  refine OutSafe.issue h ?_
  intro _ h2 _
  split
  · exact Iss.okTeam_safe h2 _
  · exact h2

theorem Machine.execRdclk_safe {s : State} (h : Safe s) (d : RegField) : OutSafe (execRdclk d s) := by
  unfold execRdclk
  refine OutSafe.issue h ?_
  intro _ h2 _
  split <;> exact Iss.okTeam_safe h2 _

/-! ### The turn -/

theorem Safe.noteIssue {s : State} (h : Safe s) (c : Candidate) : Safe (s.noteIssue c) := by
  have routed (k : Nat × Nat) (n : Nat) := h.modCtx k.1 k.2 fun x => { x with routeAt := some (n, c.core) }
  unfold State.noteIssue
  cases s.routeCtx c with
  | none => exact h.same rfl rfl rfl rfl
  | some k => exact (routed k (if s.tooLate c then s.clk + 1 else s.clk)).same rfl rfl rfl rfl

theorem Safe.afterIssue {s : State} (h : Safe s) (b : State) : Safe (b.afterIssue s) := by
  unfold State.afterIssue
  split
  · exact h.same rfl rfl rfl rfl
  · exact h

theorem Machine.afterExec_safe (b : State) {o : Host.Outcome State Fault Refusal} (h : OutSafe o) : OutSafe (afterExec b o) := by
  cases o with
  | next s => exact OutSafe.next ((h s rfl).afterIssue b)
  | fault r => exact nofun
  | refused r => exact nofun

/-! ### Every instruction, every event, every step -/

/-- Every instruction and every event given to the machine leads from a safe state to a safe state. -/
theorem Machine.exec_safe (i : Instr) {s : State} (h : Safe s) : OutSafe (exec i s) := by
  cases i with
  | nop => exact execNop_safe h
  | trap _ => exact execTrap_safe h _
  | tret => exact execTret_safe h
  | rds _ _ => exact execRds_safe h _ _
  | wrs _ _ => exact execWrs_safe h _ _
  | rdclk _ => exact execRdclk_safe h _
  | bkpt _ => exact execBkpt_safe h _
  | ifc _ _ => exact execIfc_safe h _ _
  | elsec _ => exact execElsec_safe h _
  | endifc => exact execEndifc_safe h
  | loopc _ => exact execLoopc_safe h _
  | breakc _ _ => exact execBreakc_safe h _ _
  | contc _ _ => exact execContc_safe h _ _
  | endl _ => exact execEndl_safe h _
  | jmp _ _ => exact execJmp_safe h _ _
  | callc _ => exact execCallc_safe h _
  | retc => exact execRetc_safe h
  | exitc _ => exact execExitc_safe h _
  | yield => exact execYield_safe h
  | hloop _ _ => exact execHloop_safe h _ _
  | hloops _ _ => exact execHloops_safe h _ _
  | hbrk _ => exact execHbrk_safe h _
  | iadd _ _ _ => exact execIadd_safe h _ _ _
  | isub _ _ _ => exact execIsub_safe h _ _ _
  | imul _ _ _ => exact execImul_safe h _ _ _
  | imulh _ _ _ => exact execImulh_safe h _ _ _
  | imulhn _ _ _ => exact execImulhn_safe h _ _ _
  | imin _ _ _ => exact execImin_safe h _ _ _
  | imax _ _ _ => exact execImax_safe h _ _ _
  | nmin _ _ _ => exact execNmin_safe h _ _ _
  | nmax _ _ _ => exact execNmax_safe h _ _ _
  | iand _ _ _ => exact execIand_safe h _ _ _
  | ior _ _ _ => exact execIor_safe h _ _ _
  | ixor _ _ _ => exact execIxor_safe h _ _ _
  | andn _ _ _ => exact execAndn_safe h _ _ _
  | shl _ _ _ => exact execShl_safe h _ _ _
  | shr _ _ _ => exact execShr_safe h _ _ _
  | sar _ _ _ => exact execSar_safe h _ _ _
  | iabs _ _ => exact execIabs_safe h _ _
  | ineg _ _ => exact execIneg_safe h _ _
  | inot _ _ => exact execInot_safe h _ _
  | popc _ _ => exact execPopc_safe h _ _
  | clz _ _ => exact execClz_safe h _ _
  | brev _ _ => exact execBrev_safe h _ _
  | bfe _ _ _ => exact execBfe_safe h _ _ _
  | bfi _ _ _ => exact execBfi_safe h _ _ _
  | isel _ _ _ => exact execIsel_safe h _ _ _
  | icmp _ _ _ _ => exact execIcmp_safe h _ _ _ _
  | movc _ _ => exact execMovc_safe h _ _
  | imad _ _ _ => exact execImad_safe h _ _ _
  | iaddi _ _ _ => exact execIaddi_safe h _ _ _
  | andi _ _ _ => exact execAndi_safe h _ _ _
  | ori _ _ _ => exact execOri_safe h _ _ _
  | xori _ _ _ => exact execXori_safe h _ _ _
  | shli _ _ _ => exact execShli_safe h _ _ _
  | shri _ _ _ => exact execShri_safe h _ _ _
  | sari _ _ _ => exact execSari_safe h _ _ _
  | icmpi _ _ _ _ => exact execIcmpi_safe h _ _ _ _
  | movi _ _ => exact execMovi_safe h _ _
  | aadd _ _ _ => exact execAadd_safe h _ _ _
  | asub _ _ _ => exact execAsub_safe h _ _ _
  | amov _ _ _ => exact execAmov_safe h _ _ _
  | acvt _ _ _ => exact execAcvt_safe h _ _ _
  | acmp _ _ _ _ => exact execAcmp_safe h _ _ _ _
  | slice _ _ _ => exact execSlice_safe h _ _ _
  | ashladd _ _ _ _ => exact execAshladd_safe h _ _ _ _
  | fadd _ _ _ => exact execFadd_safe h _ _ _
  | fsub _ _ _ => exact execFsub_safe h _ _ _
  | fmul _ _ _ => exact execFmul_safe h _ _ _
  | ffma _ _ _ => exact execFfma_safe h _ _ _
  | fmin _ _ _ => exact execFmin_safe h _ _ _
  | fmax _ _ _ => exact execFmax_safe h _ _ _
  | fmint _ _ _ => exact execFmint_safe h _ _ _
  | fmaxt _ _ _ => exact execFmaxt_safe h _ _ _
  | fabs _ _ => exact execFabs_safe h _ _
  | fneg _ _ => exact execFneg_safe h _ _
  | fcmp _ _ _ _ => exact execFcmp_safe h _ _ _ _
  | fclass _ _ => exact execFclass_safe h _ _
  | fscale _ _ _ => exact execFscale_safe h _ _ _
  | fsel _ _ _ => exact execFsel_safe h _ _ _
  | hadd2 _ _ _ _ => exact execHadd2_safe h _ _ _ _
  | hsub2 _ _ _ _ => exact execHsub2_safe h _ _ _ _
  | hmul2 _ _ _ _ => exact execHmul2_safe h _ _ _ _
  | hfma2 _ _ _ _ => exact execHfma2_safe h _ _ _ _
  | hmax2 _ _ _ _ => exact execHmax2_safe h _ _ _ _
  | hmin2 _ _ _ _ => exact execHmin2_safe h _ _ _ _
  | rcp _ _ => exact execRcp_safe h _ _
  | rsq _ _ => exact execRsq_safe h _ _
  | sqrtc _ _ => exact execSqrtc_safe h _ _
  | exp2c _ _ => exact execExp2c_safe h _ _
  | log2c _ _ => exact execLog2c_safe h _ _
  | sinc _ _ => exact execSinc_safe h _ _
  | cosc _ _ => exact execCosc_safe h _ _
  | tanhc _ _ => exact execTanhc_safe h _ _
  | erfc _ _ => exact execErfc_safe h _ _
  | cvt _ _ => exact execCvt_safe h _ _
  | cvtsr _ _ _ => exact execCvtsr_safe h _ _ _
  | quant _ _ _ => exact execQuant_safe h _ _ _
  | deq _ _ _ => exact execDeq_safe h _ _ _
  | pack _ _ _ => exact execPack_safe h _ _ _
  | unpack _ _ _ => exact execUnpack_safe h _ _ _
  | cbld _ _ => exact execCbld_safe h _ _
  | tokey _ _ => exact execTokey_safe h _ _
  | qxch _ _ _ => exact execQxch_safe h _ _ _
  | qbc _ _ _ => exact execQbc_safe h _ _ _
  | shfl _ _ _ => exact execShfl_safe h _ _ _
  | shflDn _ _ _ => exact execShflDn_safe h _ _ _
  | shflUp _ _ _ => exact execShflUp_safe h _ _ _
  | shflXor _ _ _ => exact execShflXor_safe h _ _ _
  | sred _ _ _ => exact execSred_safe h _ _ _
  | sscan _ _ _ _ => exact execSscan_safe h _ _ _ _
  | vote _ _ _ => exact execVote_safe h _ _ _
  | tred _ _ _ => exact execTred_safe h _ _ _
  | tbc _ _ _ => exact execTbc_safe h _ _ _
  | matchx _ _ _ => exact execMatchx_safe h _ _ _
  | ld _ _ _ _ _ => exact execLd_safe h _ _ _ _ _
  | ldAcq _ _ _ _ _ => exact execLdAcq_safe h _ _ _ _ _
  | ldPoll _ _ _ _ => exact execLdPoll_safe h _ _ _ _
  | pref _ _ => exact execPref_safe h _ _
  | ldq _ _ _ _ => exact execLdq_safe h _ _ _ _
  | ldqg _ _ _ _ => exact execLdqg_safe h _ _ _ _
  | st _ _ _ _ => exact execSt_safe h _ _ _ _
  | stRel _ _ _ _ => exact execStRel_safe h _ _ _ _
  | stq _ _ _ _ => exact execStq_safe h _ _ _ _
  | tld _ _ _ => exact execTld_safe h _ _ _
  | tst _ _ _ => exact execTst_safe h _ _ _
  | tldr _ _ _ => exact execTldr_safe h _ _ _
  | tstr _ _ _ => exact execTstr_safe h _ _ _
  | tbind _ _ => exact execTbind_safe h _ _
  | atomAdd _ _ _ _ => exact execAtomAdd_safe h _ _ _ _
  | atomMinI _ _ _ _ => exact execAtomMinI_safe h _ _ _ _
  | atomMaxI _ _ _ _ => exact execAtomMaxI_safe h _ _ _ _
  | atomMinN _ _ _ _ => exact execAtomMinN_safe h _ _ _ _
  | atomMaxN _ _ _ _ => exact execAtomMaxN_safe h _ _ _ _
  | atomAnd _ _ _ _ => exact execAtomAnd_safe h _ _ _ _
  | atomOr _ _ _ _ => exact execAtomOr_safe h _ _ _ _
  | atomXor _ _ _ _ => exact execAtomXor_safe h _ _ _ _
  | atomSwap _ _ _ _ => exact execAtomSwap_safe h _ _ _ _
  | cas _ _ _ _ => exact execCas_safe h _ _ _ _
  | atomFadd _ _ _ => exact execAtomFadd_safe h _ _ _
  | redAdd _ _ _ _ => exact execRedAdd_safe h _ _ _ _
  | redMinI _ _ _ _ => exact execRedMinI_safe h _ _ _ _
  | redMaxI _ _ _ _ => exact execRedMaxI_safe h _ _ _ _
  | redMinN _ _ _ _ => exact execRedMinN_safe h _ _ _ _
  | redMaxN _ _ _ _ => exact execRedMaxN_safe h _ _ _ _
  | redAnd _ _ _ _ => exact execRedAnd_safe h _ _ _ _
  | redOr _ _ _ _ => exact execRedOr_safe h _ _ _ _
  | redXor _ _ _ _ => exact execRedXor_safe h _ _ _ _
  | redFadd _ _ _ => exact execRedFadd_safe h _ _ _
  | atomtAdd _ _ _ => exact execAtomtAdd_safe h _ _ _
  | atomtMinI _ _ _ => exact execAtomtMinI_safe h _ _ _
  | atomtMaxI _ _ _ => exact execAtomtMaxI_safe h _ _ _
  | atomtMinN _ _ _ => exact execAtomtMinN_safe h _ _ _
  | atomtMaxN _ _ _ => exact execAtomtMaxN_safe h _ _ _
  | atomtAnd _ _ _ => exact execAtomtAnd_safe h _ _ _
  | atomtOr _ _ _ => exact execAtomtOr_safe h _ _ _
  | atomtXor _ _ _ => exact execAtomtXor_safe h _ _ _
  | atomtSwap _ _ _ => exact execAtomtSwap_safe h _ _ _
  | atomtFadd _ _ _ => exact execAtomtFadd_safe h _ _ _
  | atomtMaxpk _ _ _ => exact execAtomtMaxpk_safe h _ _ _
  | castt _ _ _ => exact execCastt_safe h _ _ _
  | fenceL => exact execFenceL_safe h
  | fenceH => exact execFenceH_safe h
  | fenceE => exact execFenceE_safe h
  | acqc => exact execAcqc_safe h
  | relc => exact execRelc_safe h
  | bar => exact execBar_safe h
  | barE => exact execBarE_safe h
  | barCarve _ _ => exact execBarCarve_safe h _ _
  | boinit _ _ _ => exact execBoinit_safe h _ _ _
  | boexp _ _ _ => exact execBoexp_safe h _ _ _
  | boarr _ _ _ => exact execBoarr_safe h _ _ _
  | bowait _ _ => exact execBowait_safe h _ _
  | botest _ _ _ => exact execBotest_safe h _ _ _
  | qpush _ _ _ => exact execQpush_safe h _ _ _
  | qpop _ _ _ => exact execQpop_safe h _ _ _
  | qtry _ _ _ => exact execQtry_safe h _ _ _
  | qpeek _ _ _ => exact execQpeek_safe h _ _ _
  | qmarkSeg _ _ _ => exact execQmarkSeg_safe h _ _ _
  | qmarkEos _ _ => exact execQmarkEos_safe h _ _
  | qclose _ => exact execQclose_safe h _
  | qflush _ _ => exact execQflush_safe h _ _
  | qstat _ _ _ => exact execQstat_safe h _ _ _
  | cpy _ _ => exact execCpy_safe h _ _
  | cpym _ _ _ => exact execCpym_safe h _ _ _
  | cpys _ _ => exact execCpys_safe h _ _
  | cbatch _ => exact execCbatch_safe h _
  | cwait _ _ => exact execCwait_safe h _ _
  | hdef _ _ _ => exact execHdef_safe h _ _ _
  | fetch _ _ _ => exact execFetch_safe h _ _ _
  | fetchx _ _ _ => exact execFetchx_safe h _ _ _
  | finv _ _ => exact execFinv_safe h _ _
  | mtask _ _ => exact execMtask_safe h _ _
  | mwait _ _ => exact execMwait_safe h _ _
  | mstat _ _ _ => exact execMstat_safe h _ _ _
  | mcancel _ _ => exact execMcancel_safe h _ _
  | wstore _ _ _ => exact execWstore_safe h _ _ _
  | wrec _ _ => exact execWrec_safe h _ _
  | wtag _ _ => exact execWtag_safe h _ _
  | wth _ _ => exact execWth_safe h _ _
  | tvadd _ _ _ => exact execTvadd_safe h _ _ _
  | tvsub _ _ _ => exact execTvsub_safe h _ _ _
  | tvmulc _ _ _ => exact execTvmulc_safe h _ _ _
  | tvaxpy _ _ _ => exact execTvaxpy_safe h _ _ _
  | tvbias _ _ _ => exact execTvbias_safe h _ _ _
  | tvact _ _ _ => exact execTvact_safe h _ _ _
  | tvnorm _ _ _ => exact execTvnorm_safe h _ _ _
  | tvnormRms _ _ _ => exact execTvnormRms_safe h _ _ _
  | tvsmax _ _ _ => exact execTvsmax_safe h _ _ _
  | tvcvt _ _ => exact execTvcvt_safe h _ _
  | treg _ _ _ => exact execTreg_safe h _ _ _
  | tdereg _ _ => exact execTdereg_safe h _ _
  | tmove _ _ _ => exact execTmove_safe h _ _ _
  | solicit _ _ => exact execSolicit_safe h _ _
  | respond _ => exact execRespond_safe h _
  | census _ _ _ => exact execCensus_safe h _ _ _
  | cres _ _ _ => exact execCres_safe h _ _ _
  | slotget _ _ => exact execSlotget_safe h _ _
  | slotref _ _ _ => exact execSlotref_safe h _ _ _
  | slotrel _ _ => exact execSlotrel_safe h _ _
  | rtstage _ _ _ => exact execRtstage_safe h _ _ _
  | rtlook _ _ _ => exact execRtlook_safe h _ _ _
  | rtlookAdm _ _ => exact execRtlookAdm_safe h _ _
  | grec _ _ _ => exact execGrec_safe h _ _ _
  | gcond _ _ => exact execGcond_safe h _ _
  | gdone => exact execGdone_safe h
  | gflush _ _ => exact execGflush_safe h _ _
  | rread _ _ _ _ => exact execRread_safe h _ _ _ _
  | rwrite _ _ _ _ => exact execRwrite_safe h _ _ _ _
  | ratomAdd _ _ _ => exact execRatomAdd_safe h _ _ _
  | ratomCas _ _ => exact execRatomCas_safe h _ _
  | rfence _ => exact execRfence_safe h _
  | ovload _ _ => exact execOvload_safe h _ _
  | ovwait _ _ => exact execOvwait_safe h _ _
  | fcall _ => exact execFcall_safe h _
  | spush _ => exact execSpush_safe h _
  | spop _ => exact execSpop_safe h _
  | salloc _ => exact execSalloc_safe h _
  | hintImm _ => exact execHintImm_safe h _
  | hintStall _ _ _ _ _ => exact execHintStall_safe h _ _ _ _ _
  | hintMod _ _ _ => exact execHintMod_safe h _ _ _
  | hintFmt _ _ _ _ _ _ => exact execHintFmt_safe h _ _ _ _ _ _
  | createContext _ _ => exact execCreateContext_safe h _ _
  | destroy _ _ _ => exact execDestroy_safe h _ _ _
  | preempt _ _ _ => exact execPreempt_safe h _ _ _
  | kernelLaunch _ _ _ _ => exact execKernelLaunch_safe h _ _ _ _
  | graphLaunch _ _ _ _ => exact execGraphLaunch_safe h _ _ _ _
  | imageLoad _ _ _ _ => exact execImageLoad_safe h _ _ _ _
  | keyInstall _ _ _ _ => exact execKeyInstall_safe h _ _ _ _
  | groupTableWrite _ _ _ _ => exact execGroupTableWrite_safe h _ _ _ _
  | shootdown _ _ _ _ _ _ => exact execShootdown_safe h _ _ _ _ _ _
  | answerRecord _ _ => exact execAnswerRecord_safe h _ _
  | pageEngineRegister _ _ _ _ _ _ _ _ => exact execPageEngineRegister_safe h _ _ _ _ _ _ _ _
  | clearfail _ => exact execClearfail_safe h _
  | testMode _ _ => exact execTestMode_safe h _ _
  | partitionReset _ _ => exact execPartitionReset_safe h _ _
  | fullDeviceReset _ => exact execFullDeviceReset_safe h _
  | resetRelease _ _ _ _ => exact execResetRelease_safe h _ _ _ _
  | startTimeout => exact execStartTimeout_safe h
  | firmwareUpload _ => exact execFirmwareUpload_safe h _
  | antiRollbackBlow _ _ => exact execAntiRollbackBlow_safe h _ _
  | powerCap _ _ => exact execPowerCap_safe h _ _
  | replanCommand _ => exact execReplanCommand_safe h _
  | replanPeriod => exact execReplanPeriod_safe h
  | portEnable _ _ => exact execPortEnable_safe h _ _
  | portDisable _ _ => exact execPortDisable_safe h _ _
  | portTrained _ => exact execPortTrained_safe h _
  | linkLoss _ => exact execLinkLoss_safe h _
  | peerTableWrite _ _ _ _ _ _ _ _ => exact execPeerTableWrite_safe h _ _ _ _ _ _ _ _
  | jobRegister _ _ _ _ => exact execJobRegister_safe h _ _ _ _
  | drowsyDisable _ _ _ => exact execDrowsyDisable_safe h _ _ _
  | registerWrite _ _ _ _ => exact execRegisterWrite_safe h _ _ _ _
  | getVersion _ => exact execGetVersion_safe h _
  | getCapabilities _ => exact execGetCapabilities_safe h _
  | negotiateAlgorithms _ _ _ => exact execNegotiateAlgorithms_safe h _ _ _
  | getDigests _ => exact execGetDigests_safe h _
  | getCertificate _ _ => exact execGetCertificate_safe h _ _
  | spdmChallenge _ _ _ => exact execSpdmChallenge_safe h _ _ _
  | getMeasurements _ _ => exact execGetMeasurements_safe h _ _
  | keyExchange _ _ => exact execKeyExchange_safe h _ _
  | spdmFinish _ => exact execSpdmFinish_safe h _
  | hostLinkDown => exact execHostLinkDown_safe h
  | correctableError _ => exact execCorrectableError_safe h _
  | uncorrectableError _ _ _ => exact execUncorrectableError_safe h _ _ _
  | scrub => exact execScrub_safe h
  | thermalThrottle _ => exact execThermalThrottle_safe h _
  | thermalTrip => exact execThermalTrip_safe h
  | translationFault _ _ => exact execTranslationFault_safe h _ _
  | pageRequest _ _ => exact execPageRequest_safe h _ _
  | expansionDone _ _ => exact execExpansionDone_safe h _ _
  | ageingPeriod _ => exact execAgeingPeriod_safe h _
  | compressVictim _ => exact execCompressVictim_safe h _
  | variableResultReturn _ _ _ => exact execVariableResultReturn_safe h _ _ _
  | queueEntryComplete _ _ _ => exact execQueueEntryComplete_safe h _ _ _
  | pollWake _ _ => exact execPollWake_safe h _ _
  | pollTimeout _ _ => exact execPollTimeout_safe h _ _
  | copyStart _ => exact execCopyStart_safe h _
  | copyPiece _ => exact execCopyPiece_safe h _
  | fetchRow _ => exact execFetchRow_safe h _
  | cardStart _ _ => exact execCardStart_safe h _ _
  | broadcastMatch _ _ _ => exact execBroadcastMatch_safe h _ _ _
  | peerMatch _ _ => exact execPeerMatch_safe h _ _
  | cardComplete _ _ => exact execCardComplete_safe h _ _
  | censusSnapshot _ => exact execCensusSnapshot_safe h _
  | responderStart _ _ => exact execResponderStart_safe h _ _
  | censusClose _ => exact execCensusClose_safe h _
  | censusWaitExpire _ => exact execCensusWaitExpire_safe h _
  | overlayLoadDone _ _ => exact execOverlayLoadDone_safe h _ _
  | phaseStart _ => exact execPhaseStart_safe h _
  | groupPlace _ => exact execGroupPlace_safe h _
  | groupStart _ => exact execGroupStart_safe h _
  | groupRetire _ => exact execGroupRetire_safe h _
  | flushTimerExpire _ _ _ => exact execFlushTimerExpire_safe h _ _ _
  | preemptionDecision _ => exact execPreemptionDecision_safe h _
  | saveComplete _ _ => exact execSaveComplete_safe h _ _
  | resume _ _ => exact execResume_safe h _ _
  | watchdog _ => exact execWatchdog_safe h _
  | qdeadlock _ => exact execQdeadlock_safe h _
  | remoteReadRequest _ _ endpoint _ _ => exact execRemoteReadRequest_safe h _ _ endpoint _ _
  | remoteWriteRequest _ _ endpoint _ _ => exact execRemoteWriteRequest_safe h _ _ endpoint _ _
  | remoteAtomicRequest _ _ endpoint _ _ _ _ _ => exact execRemoteAtomicRequest_safe h _ _ endpoint _ _ _ _ _
  | remoteResponse _ _ _ => exact execRemoteResponse_safe h _ _ _
  | remoteTimeout _ => exact execRemoteTimeout_safe h _
  | bankDrowsy _ _ _ => exact execBankDrowsy_safe h _ _ _
  | bankWake _ _ _ => exact execBankWake_safe h _ _ _
  | homeSliceAccept _ _ => exact execHomeSliceAccept_safe h _ _
  | hostMemoryRequest _ _ _ _ => exact execHostMemoryRequest_safe h _ _ _ _
  | powerLoss => exact execPowerLoss_safe h
  | sharedTableInstall _ _ _ => exact execSharedTableInstall_safe h _ _ _
  | partitionModeWrite _ _ => exact execPartitionModeWrite_safe h _ _
  | repairMapWrite _ _ _ => exact execRepairMapWrite_safe h _ _ _
  | rollbackFloorRaise _ _ _ _ => exact execRollbackFloorRaise_safe h _ _ _ _
  | tmoveComplete _ _ => exact execTmoveComplete_safe h _ _

/-- Every event of the part leads from a safe state to a safe state. -/
theorem Machine.Ev.run_safe (e : Ev) {s : State} (h : Safe s) : OutSafe (e.run s) := by
  cases e with
  | variableResultReturn _ _ _ => exact exec_safe (.variableResultReturn _ _ _) h
  | queueEntryComplete _ _ _ => exact exec_safe (.queueEntryComplete _ _ _) h
  | homeSliceAccept _ _ => exact exec_safe (.homeSliceAccept _ _) h
  | pollWake _ _ => exact exec_safe (.pollWake _ _) h
  | pollTimeout _ _ => exact exec_safe (.pollTimeout _ _) h
  | translationFault _ _ => exact exec_safe (.translationFault _ _) h
  | tmoveComplete _ _ => exact exec_safe (.tmoveComplete _ _) h
  | pageRequest _ _ => exact exec_safe (.pageRequest _ _) h
  | expansionDone _ _ => exact exec_safe (.expansionDone _ _) h
  | ageingPeriod _ => exact exec_safe (.ageingPeriod _) h
  | compressVictim _ => exact exec_safe (.compressVictim _) h
  | copyStart _ => exact exec_safe (.copyStart _) h
  | copyPiece _ => exact exec_safe (.copyPiece _) h
  | fetchRow _ => exact exec_safe (.fetchRow _) h
  | cardStart _ _ => exact exec_safe (.cardStart _ _) h
  | broadcastMatch _ _ _ => exact exec_safe (.broadcastMatch _ _ _) h
  | peerMatch _ _ => exact exec_safe (.peerMatch _ _) h
  | cardComplete _ _ => exact exec_safe (.cardComplete _ _) h
  | censusSnapshot _ => exact exec_safe (.censusSnapshot _) h
  | responderStart _ _ => exact exec_safe (.responderStart _ _) h
  | censusClose _ => exact exec_safe (.censusClose _) h
  | censusWaitExpire _ => exact exec_safe (.censusWaitExpire _) h
  | overlayLoadDone _ _ => exact exec_safe (.overlayLoadDone _ _) h
  | phaseStart _ => exact exec_safe (.phaseStart _) h
  | groupPlace _ => exact exec_safe (.groupPlace _) h
  | groupStart _ => exact exec_safe (.groupStart _) h
  | groupRetire _ => exact exec_safe (.groupRetire _) h
  | flushTimerExpire _ _ _ => exact exec_safe (.flushTimerExpire _ _ _) h
  | preemptionDecision _ => exact exec_safe (.preemptionDecision _) h
  | saveComplete _ _ => exact exec_safe (.saveComplete _ _) h
  | resume _ _ => exact exec_safe (.resume _ _) h
  | watchdog _ => exact exec_safe (.watchdog _) h
  | qdeadlock _ => exact exec_safe (.qdeadlock _) h
  | remoteTimeout _ => exact exec_safe (.remoteTimeout _) h
  | replanPeriod => exact exec_safe .replanPeriod h
  | scrub => exact exec_safe .scrub h
  | sliceAccept _ _ _ => exact execSliceAccept_safe h _ _ _
  | sliceAnswer _ _ => exact execSliceAnswer_safe h _ _
  | graphRead _ _ _ => exact execGraphRead_safe h _ _ _
  | walk _ _ => exact execWalk_safe h _ _

/-- What a step is about to do starts from a safe state. -/
def Machine.Todo.Safe : Todo → Prop
  | .run _ s => Sys2Proof.Safe s
  | .event _ s => Sys2Proof.Safe s
  | .rest s => Sys2Proof.Safe s

theorem Safe.fetchFrom {s : State} (h : Safe s) (r : TeamRef) : (s.fetchFrom r).Safe := by
  unfold State.fetchFrom
  split
  · exact h
  dsimp only
  split
  · split
    · exact h
    have fetched (core : Nat) (f : Core → Core) (w : Word) : Safe { s.modCore core f with iword := w } := h.same rfl rfl rfl rfl
    split
    · exact fetched _ _ _
    · exact ((fetched _ _ _).raiseTrap _ _ _ _).moved
  · exact h

theorem Safe.plan {s : State} (h : Safe s) : s.plan.Safe := by
  unfold State.plan
  dsimp only
  split
  · exact h.same rfl rfl rfl rfl
  split
  · exact h.same rfl rfl rfl rfl
  · exact h.same rfl rfl rfl rfl
  · have dropped : Safe { s.begin with agenda := s.begin.agenda.drop 1 } := h.same rfl rfl rfl rfl
    exact (dropped.noteIssue _).fetchFrom _

theorem Machine.step_safe {s : State} (h : Safe s) : OutSafe (step s) := by
  have planned := h.plan
  unfold step
  split
  · rename_i i u hu
    rw [hu] at planned
    exact afterExec_safe _ (exec_safe i planned)
  · rename_i e u hu
    rw [hu] at planned
    exact e.run_safe planned
  · rename_i u hu
    rw [hu] at planned
    exact OutSafe.next planned

/-- Settles O60: each instruction, each event and each step keeps every memory in the canonical form, operation by operation. -/
theorem Machine.stepKeepsSafe : Obligations.StepKeepsSafe := by
  unfold Obligations.StepKeepsSafe
  exact ⟨fun _ t h e => step_safe h t e, fun i _ t h e => exec_safe i h t e⟩
end Sys2Proof

/-!
SUPPORT. The state at the release of reset (R312, R413, R417, R421).
-/

namespace Sys2Proof.Machine

open Sys2Proof

theorem reset_part {p : Nat} (h : p < 8) : State.reset.part? p = some (partitionReset p) := by
  show ((List.range 8).map partitionReset)[p]? = some (partitionReset p)
  rw [List.getElem?_map, List.getElem?_range h]
  rfl

theorem reset_safe : Safe State.reset := by
  refine ⟨rfl, rfl, nofun, fun p hp r hr => ?_⟩
  obtain ⟨n, -, rfl⟩ := List.mem_map.mp hp
  exact absurd hr List.not_mem_nil

/-- A core after reset holds no overlay and no key, and no engine of it is bound. -/
theorem coreReset_empty : (∀ o ∈ coreReset.slots, o = none) ∧ (∀ o ∈ coreReset.keys, o = none) ∧
    ∀ e ∈ coreReset.engines, e.boundTo = none := by
  refine ⟨fun _ h => List.eq_of_mem_replicate h, fun _ h => List.eq_of_mem_replicate h, fun e h => ?_⟩
  rw [List.eq_of_mem_replicate h]
  rfl

/-- Settles O56. -/
theorem resetState : Obligations.ResetState := by
  unfold Obligations.ResetState
  refine ⟨reset_safe, rfl, rfl, rfl, rfl, rfl, rfl, rfl, List.length_replicate, fun k hk => ?_, fun p hp => ?_, fun p hp => ?_⟩
  · rw [List.eq_of_mem_replicate hk]
    exact coreReset_empty
  · rw [reset_part hp]
    rfl
  · rw [List.eq_of_mem_replicate hp]
    exact ⟨rfl, rfl, rfl⟩

end Sys2Proof.Machine

/-!
SUPPORT. Attestation (R409, R411): a request and the one answer that a function's mailbox gives it.
-/

namespace Sys2Proof.Machine

open Sys2Proof

/-- A request and the one answer that its function's mailbox gives it, with the progress of the connection that the answer leaves. -/
def Request (i : Instr) (s : State) (fn least : Nat) (answer : Nat → Nat × Nat × List Byte) : Prop :=
  exec i s = .next (s.spdmAt fn least fun s p => s.reply fn (answer p).1 (answer p).2.1 (answer p).2.2)

theorem State.answers_iff (s : State) (fn : Nat) :
    s.answers fn = true ↔ Claim.ready s ∧ (fn = 0 ∨ (s.dev.mode = .eight ∧ fn ≤ 8)) := by
  simp [State.answers, State.commandable_iff]

theorem State.spdmAt_of_far {s : State} {fn least : Nat} {f : Function} (hf : s.funcs[fn]? = some f) (ha : s.answers fn = true)
    (far : least ≤ f.spdm) (k : State → Nat → State) : s.spdmAt fn least k = k s f.spdm := by
  simp [State.spdmAt, hf, ha, far]

theorem State.spdmAt_of_not {s : State} {fn least : Nat} {f : Function} (hf : s.funcs[fn]? = some f)
    (no : ¬(s.answers fn = true ∧ least ≤ f.spdm)) (k : State → Nat → State) : s.spdmAt fn least k = s := by
  simp only [State.spdmAt, hf, Bool.and_eq_true, decide_eq_true_eq, if_neg no]

/-- What Attestation says of one request. -/
theorem Request.answered {i : Instr} {s : State} {f : Function} {fn least : Nat} {answer : Nat → Nat × Nat × List Byte}
    (req : Request i s fn least answer) (hf : s.funcs[fn]? = some f) :
    let answers := Claim.ready s ∧ (fn = 0 ∨ (s.dev.mode = .eight ∧ fn ≤ 8))
    (answers → least ≤ f.spdm → exec i s = .next (s.modFunc fn fun g =>
      { g with replies := g.replies ++ [((answer f.spdm).1, (answer f.spdm).2.2)], spdm := (answer f.spdm).2.1 })) ∧
    (¬answers ∨ f.spdm < least → exec i s = .next s) := by
  refine ⟨fun ha far => ?_, fun no => ?_⟩
  · rw [req, State.spdmAt_of_far hf ((s.answers_iff fn).mpr ha) far, State.reply]
  · rw [req, State.spdmAt_of_not hf]
    rw [s.answers_iff fn]
    rintro ⟨ha, far⟩
    exact no.elim (· ha) (Nat.not_lt.mpr far)

theorem request_negotiate (s : State) (fn : Nat) (sha lms : Bool) :
    Request (.negotiateAlgorithms fn sha lms) s fn 2 fun _ => (0xE3, if sha = true ∧ lms = true then 3 else 2, []) := by
  cases sha <;> cases lms <;> rfl

/-- Settles O47: each of the nine requests is one of `Request`. -/
theorem attestation : Obligations.Attestation := by
  unfold Obligations.Attestation
  intro i s f fn least code next bs hf spdm
  cases i <;> simp only [Claim.spdm, Option.some.injEq, Prod.mk.injEq, reduceCtorEq] at spdm
  all_goals obtain ⟨rfl, rfl, rfl, rfl, rfl⟩ := spdm
  case getVersion => exact Request.answered (answer := fun _ => (_, _, _)) rfl hf
  case getCapabilities => exact Request.answered (answer := fun _ => (_, _, _)) rfl hf
  case negotiateAlgorithms => exact (request_negotiate s _ _ _).answered hf
  case getDigests => exact Request.answered (answer := fun p => (_, p, _)) rfl hf
  case getCertificate => exact Request.answered (answer := fun p => (_, p, _)) rfl hf
  case spdmChallenge => exact Request.answered (answer := fun p => (_, p, _)) rfl hf
  case getMeasurements => exact Request.answered (answer := fun p => (_, p, _)) rfl hf
  case keyExchange => exact Request.answered (answer := fun _ => (_, _, _)) rfl hf
  case spdmFinish => exact Request.answered (answer := fun _ => (_, _, _)) rfl hf

end Sys2Proof.Machine

/-!
SUPPORT. A counterexample to the statement on barrier objects (R275): the group of two teams of one number again.
-/

namespace Sys2Proof.Machine

open Sys2Proof

theorem issueOf_botest_servedTwinState : issueOf (.botest 100 101 0) servedTwinState = some servedTwinIss := by rfl

/-- Refutes O21: a BOTEST that gives 0 puts the issuing team itself in the place of each team found under its number, where the statement
gives 0 to each; they differ where a second team of the group bears the same number and has a store in its buffer. -/
theorem not_barrierObjects : ¬ Obligations.BarrierObjects := by
  unfold Obligations.BarrierObjects
  rintro ⟨-, waits⟩
  obtain ⟨t, run, stated⟩ := (waits 101 100 0 servedTwinState servedTwinIss).1 issueOf_botest_servedTwinState
  rw [if_neg (by decide)] at stated
  have ran : execBotest 100 101 0 servedTwinState = .next t := run
  rw [execBotest, issue_of issueOf_botest_servedTwinState] at ran
  obtain rfl := Host.Outcome.next.inj ran
  have same := (movesOn_sbufs (conclude_ok (.botest 100 101 0) servedTwinIss _)).symm.trans (movesOn_sbufs stated)
  exact absurd same (by decide)

end Sys2Proof.Machine

/-!
SUPPORT. The group barrier (R268 to R272): what fencing the stores of several teams makes of the writes to scratchpads, a carve, and the
completion of a phase.
-/

namespace Sys2Proof.Machine

open Sys2Proof

/-! ### Fences of several teams (R262) -/

/-- The fences of a group's teams in turn: a write of any of them is fenced. -/
theorem foldl_fence (u : ℕ) (ts : List Team) (e : PastWrite) :
    ts.foldl (fun e t => e.fence { uid := u, tid := t.tid }) e =
      if ∃ t ∈ ts, e.maker = some { uid := u, tid := t.tid } then { e with fenced := true } else e := by
  induction ts generalizing e with
  | nil => simp
  | cons t ts ih =>
    rw [List.foldl_cons, ih]
    by_cases own : e.maker = some { uid := u, tid := t.tid }
    · simp [PastWrite.fence, own]
    · simp [PastWrite.fence, own]

/-- The fences of a group's teams change the writes noted of every scratchpad alone. -/
theorem foldl_fenceStores (u : ℕ) (ts : List Team) (s : State) :
    ts.foldl (fun s t => s.fenceStores { uid := u, tid := t.tid }) s =
      { s with groups := s.groups.map fun g => { g with
        past := g.past.map fun e => ts.foldl (fun e t => e.fence { uid := u, tid := t.tid }) e } } := by
  induction ts generalizing s with
  | nil => simp
  | cons t ts ih => rw [List.foldl_cons, ih]; simp [State.fenceStores, Function.comp_def]

/-- The teams whose stores engines see once a phase is complete: those that arrived, where one came by BAR.E (R269). -/
def Group.fencing (g : Group) : List Team :=
  if g.teams.any fun t => t.arrival == .engine then g.teams.filter fun t => t.arrival != .none else []

theorem Group.fencing_past (g : Group) (es : List PastWrite) :
    (es.map fun e => g.fencing.foldl (fun e t => e.fence { uid := g.uid, tid := t.tid }) e) = Claim.fencedPast g es := by
  refine List.map_congr_left fun e _ => ?_
  rw [foldl_fence]
  refine if_congr ?_ rfl rfl
  unfold Group.fencing
  by_cases came : ∃ t ∈ g.teams, t.arrival = .engine
  · rw [if_pos (by simpa using came)]
    simp [came, and_assoc]
  · rw [if_neg (by simpa using came)]
    simp [came]

/-! ### Carves (R270) -/

theorem Group.carveReq_of_carve {g : Group} {t : Team} {d : RegField} {n : ℕ} (there : t ∈ g.teams) (carves : t.arrival = .carve d n) :
    g.carveReq ≠ none := by
  intro none
  have := List.findSome?_eq_none_iff.mp none t there
  simp [carves] at this

/-- The size and the status of a carve as R270 gives them. -/
theorem State.carve_eq (s : State) (g : Group) (req : ℕ) :
    let bad := req % 16384 ≠ 0 ∨ req < 16384
    let fits := req ≤ g.padSize ∨ s.coreGranules g.core - g.padSize / 16384 + req / 16384 ≤ 144
    let size := if ¬bad ∧ fits then req else g.padSize
    s.carve g req = (size, BitVec.ofNat 32 ((if bad then 2 ^ 17 else 0) + (if bad ∨ ¬fits then 2 ^ 16 else 0) + size / 16384)) := by
  simp only [State.carve, Bool.or_eq_true, Bool.and_eq_true, Bool.not_eq_true', Bool.or_eq_false_iff, bne_iff_ne, decide_eq_true_eq, bne_eq_false_iff_eq,
    decide_eq_false_iff_not, not_or, not_not, ne_eq, and_assoc]
  rfl

/-! ### A phase (R268, R269) -/

/-- What a phase's completion makes of a group, of given size and status. -/
def Group.phased (g : Group) (vers size : ℕ) (status : Word) : Group :=
  { g with
    teams := g.teams.map fun t => if t.arrival == .none then t else (t.leave status).acquired vers g.vers
    padSize := size, pad := memTruncate g.pad size, past := closePast false size (g.padSize - size) g.past
    barPhase := g.barPhase + 1, carving := false }

theorem Group.phased_uid (vers size : ℕ) (status : Word) (g : Group) : (g.phased vers size status).uid = g.uid := rfl

section
variable {s : State} {g : Group}

theorem State.completePhase_eq : s.completePhase g =
    let p := (g.carveReq.map (s.carve g)).getD (g.padSize, 0#32)
    (((g.fencing.foldl (fun s t => s.fenceStores { uid := g.uid, tid := t.tid }) s).acquiredOn g.core).modGroup g.uid
      fun v => v.phased s.vers p.1 p.2).moved := by
  unfold State.completePhase
  cases g.carveReq <;> rfl

/-- The groups of a machine once a phase's stores are fenced. -/
theorem State.fenced_group? (u : ℕ) :
    ((g.fencing.foldl (fun s t => s.fenceStores { uid := g.uid, tid := t.tid }) s).acquiredOn g.core).group? u =
      (s.group? u).map fun v => { v with past := Claim.fencedPast g v.past } := by
  rw [foldl_fenceStores]
  simp only [State.group?, State.acquiredOn_groups, List.find?_map, Group.fencing_past]
  rfl

/-- A completed phase leaves every other group but for the fences. -/
theorem State.completePhase_other {u : ℕ} (other : u ≠ g.uid) :
    (s.completePhase g).group? u = (s.group? u).map fun v => { v with past := Claim.fencedPast g v.past } := by
  rw [State.completePhase_eq]
  exact (State.group?_modGroup_other other (Group.phased_uid s.vers _ _) _).trans (State.fenced_group? u)

variable (hg : s.group? g.uid = some g)
include hg

theorem State.barrierTry_waits (some : g.allArrived = false) : s.barrierTry g.uid = s := by
  simp [State.barrierTry, hg, some]

theorem State.barrierTry_carves (all : g.allArrived = true) (carve : g.carveReq.isSome = true) (waits : s.carveWaits g = true) :
    s.barrierTry g.uid = s.modGroup g.uid fun v => { v with carving := true } := by
  simp [State.barrierTry, hg, all, carve, waits]

theorem State.barrierTry_completes (all : g.allArrived = true) (free : g.carveReq = none ∨ s.carveWaits g = false) :
    s.barrierTry g.uid = s.completePhase g := by
  have goes : (g.carveReq.isSome && s.carveWaits g) = false := by
    rcases free with none | free
    · simp [none]
    · simp [free]
  simp [State.barrierTry, hg, all, goes]

theorem State.completePhase_group : (s.completePhase g).group? g.uid =
    let p := (g.carveReq.map (s.carve g)).getD (g.padSize, 0#32)
    some ({ g with past := Claim.fencedPast g g.past }.phased s.vers p.1 p.2) := by
  rw [State.completePhase_eq]
  refine (State.group?_modGroup (Group.phased_uid s.vers _ _) _).trans ?_
  rw [State.fenced_group?, hg]
  rfl

end

/-- A phase's completion as the statement gives it: a size and a status that its carve, if it has one, gives. -/
theorem Group.phased_eq {g : Group} {vers size : ℕ} {status word : Word} (es : List PastWrite) (same : g.carveReq ≠ none → status = word) :
    { g with past := es }.phased vers size status = { g with
      teams := g.teams.map fun v => match v.arrival with
        | .none => v
        | .carve d _ => Team.acquired { v.putS d word with arrival := .none } vers g.vers
        | _ => Team.acquired { v with arrival := .none } vers g.vers
      padSize := size, pad := memTruncate g.pad size, past := closePast false size (g.padSize - size) es
      barPhase := g.barPhase + 1, carving := false } := by
  have left : ∀ v ∈ g.teams, (if v.arrival == .none then v else (v.leave status).acquired vers g.vers) = match v.arrival with
      | .none => v
      | .carve d _ => Team.acquired { v.putS d word with arrival := .none } vers g.vers
      | _ => Team.acquired { v with arrival := .none } vers g.vers := by
    intro v there
    unfold Team.leave
    cases came : v.arrival with
    | none | plain | engine => rfl
    | carve d n =>
      rw [same (Group.carveReq_of_carve there came)]
      rfl
  rw [Group.phased, List.map_congr_left left]

/-! ### BAR, BAR.E and BAR.CARVE (R272) -/

section
variable {i : Instr} {a : Arrival} {s : State} {x : Iss} (h : issueOf i s = some x) (arrives : Claim.arrivalOf x.t i = some a)
include h arrives

theorem exec_of_arrival : exec i s = .next (conclude i x (x.arrive a)) := by
  unfold Claim.arrivalOf at arrives
  split at arrives <;> cases arrives
  · rw [exec, execBar]
    exact issue_of h _
  · rw [exec, execBarE]
    exact issue_of h _
  · rw [exec, execBarCarve]
    exact issue_of h _

theorem exec_bar_member (member : x.t.responder = none) : exec i s = .next (conclude i x (x.release fun y =>
    .ok ((y.put { y.t with arrival := a }).barrierTry y.r.uid))) := by
  rw [exec_of_arrival h arrives, Iss.arrive, member]
  rfl

theorem exec_bar_arrives (member : x.t.responder = none) {y : Iss} (hy : releasedBy x = some y) :
    ∃ t, exec i s = .next t ∧ MovesOn ((y.put { y.t with arrival := a }).barrierTry x.r.uid) t x := by
  obtain ⟨team, -⟩ := releasedBy_issuer h hy
  refine exec_movesOn (exec_bar_member h arrives member) ?_
  rw [release_of hy, team]

theorem exec_bar_responder (responds : x.t.responder.isSome = true) : exec i s = .next (Claim.trapped x trapIllegal x.word) := by
  refine exec_traps (exec_of_arrival h arrives) ?_
  rw [Iss.arrive, if_pos responds, Iss.trapWord]

end

/-- Settles O20: a BAR word by its team's release, a phase by what keeps it and by what its completion makes of each group. -/
theorem groupBarrier : Obligations.GroupBarrier := by
  unfold Obligations.GroupBarrier
  refine ⟨fun i a s x h arrives => ⟨fun member => ⟨fun y => exec_bar_arrives h arrives member,
    unreleased_of (exec_bar_member h arrives member)⟩, exec_bar_responder h arrives⟩,
    fun s g hg => ⟨State.barrierTry_waits hg, State.barrierTry_carves hg, fun all free => ?_⟩⟩
  rw [State.barrierTry_completes hg all free]
  intro req bad fits size status
  refine ⟨fun u other => State.completePhase_other other, ?_⟩
  rw [State.completePhase_group hg]
  cases carves : g.carveReq with
  | none =>
    have kept : size = g.padSize := by simp [size, req, carves]
    rw [kept]
    exact congrArg some (Group.phased_eq _ fun some => absurd carves some)
  | some n =>
    have asked : req = n := by simp [req, carves]
    have sized : s.carve g n = (size, BitVec.ofNat 32 status) := by
      rw [State.carve_eq, ← asked]
    simp only [Option.map_some, Option.getD_some, sized]
    exact congrArg some (Group.phased_eq _ fun _ => rfl)

end Sys2Proof.Machine

/-!
SUPPORT. Copy commands (R277 to R285): the checks of a lane's operands, what a copy word comes to, and CBATCH and CWAIT.
-/

namespace Sys2Proof.Machine

open Sys2Proof

/-- A word whose meaning is an issue does what its own effect says. -/
theorem exec_issues {i : Instr} {s : State} {x : Iss} (h : issueOf i s = some x) {body : Iss → Act} (run : exec i s = issue i s body) :
    exec i s = .next (conclude i x (body x)) := run.trans (issue_of h body)

/-! ### A lane's operands (R285) -/

/-- The top bits of an address are 0 where it is below 2^52. -/
theorem bitsOf_top_eq_zero_iff (a : DWord) : bitsOf a.toNat 52 12 = 0 ↔ a.toNat < 2 ^ 52 := by
  have := a.isLt
  simp only [bitsOf]
  omega

section
variable {pad : ℕ} {k : CopyKind} {a b : DWord}

theorem copyLaneFault_beyond (beyond : 2 ^ 52 ≤ a.toNat) : copyLaneFault pad k a b = some (trapMemfault, a) :=
  if_pos ((bitsOf_top_eq_zero_iff a).not.mpr (Nat.not_lt.mpr beyond))

variable (below : a.toNat < 2 ^ 52)
include below

theorem copyLaneFault_cpys : copyLaneFault pad .cpys a b = if a.toNat % 64 = 0 then none else some (trapAlign, a) := by
  rw [copyLaneFault, if_neg (not_not.mpr ((bitsOf_top_eq_zero_iff a).mpr below)), ite_not]

theorem copyLaneFault_cpy : copyLaneFault pad .cpy a b =
    if 0 < bitsOf b.toNat 24 24 ∧ pad < bitsOf b.toNat 0 22 + bitsOf b.toNat 24 24 then
      some (trapBounds, BitVec.ofNat 64 (bitsOf b.toNat 0 22)) else none :=
  if_neg (not_not.mpr ((bitsOf_top_eq_zero_iff a).mpr below))

end

/-! ### CPY, CPYM, CPYS (R277) -/

/-- Of the commands of a word those that have nothing to do are left out. -/
theorem laneCopies_eq (x : Iss) (k : CopyKind) (a b : RegField) :
    ((x.t.run.mapIdx fun i l => laneCopy x k a b (x.s.nextSeq + i) l).filter fun (c : Copy) => !c.void) =
      (x.t.run.mapIdx (Claim.laneCommand x k a b)).filter fun (c : Copy) => k == CopyKind.cpys || bitsOf c.opB.toNat 24 24 != 0 := by
  refine List.filter_congr fun c there => ?_
  obtain ⟨n, bound, rfl⟩ := List.mem_mapIdx.mp there
  simp only [Copy.void, Copy.len, laneCopy, bne, Bool.not_and, Bool.not_not]

section
variable {i : Instr} {k : CopyKind} {a b : RegField} {s : State} {x : Iss} (h : issueOf i s = some x)
  (form : Claim.copyForm x.t i = some (k, a, b))
include h form

theorem exec_of_copyForm : exec i s = .next (conclude i x (x.copies k a b)) := by
  unfold Claim.copyForm at form
  split at form <;> cases form
  · rw [exec, execCpy]
    exact issue_of h _
  · rw [exec, execCpym]
    exact issue_of h _
  · rw [exec, execCpys]
    exact issue_of h _

theorem exec_copy_faults {code : ℕ} {va : DWord}
    (fault : (x.t.run.findSome? fun l => copyLaneFault x.g.padSize k (x.t.reg a l) (x.t.reg b l)) = some (code, va)) :
    exec i s = .next (Claim.trapped x code va) :=
  exec_traps (exec_of_copyForm h form) (by rw [Iss.copies, fault])

theorem exec_copy_enters
    (none : (x.t.run.findSome? fun l => copyLaneFault x.g.padSize k (x.t.reg a l) (x.t.reg b l)) = none) :
    ∃ t, exec i s = .next t ∧ MovesOn ({ x.s with
      copies := x.s.copies ++ (x.t.run.mapIdx (Claim.laneCommand x k a b)).filter fun (c : Copy) =>
        k == CopyKind.cpys || bitsOf c.opB.toNat 24 24 != 0
      nextSeq := x.s.nextSeq + x.t.run.length }.admitCopies x.g.core) t x := by
  refine exec_movesOn (exec_of_copyForm h form) ?_
  rw [Iss.copies, none, ← laneCopies_eq]

end

/-! ### CBATCH and CWAIT (R283) -/

section
variable {d : RegField} {s : State} {x : Iss} (h : issueOf (.cbatch d) s = some x)
include h

theorem exec_cbatch_idle (idle : x.t.idle = true) : ∃ t, exec (.cbatch d) s = .next t ∧ MovesOn x.s t x := by
  rw [exec, execCbatch]
  exact issue_movesOn h _ (if_pos idle)

theorem exec_cbatch_opens (runs : x.t.idle = false) : ∃ t, exec (.cbatch d) s = .next t ∧
    TeamStep s t x { x.t.putS d (x.t.cb.zeroExtend 32) with cb := x.t.cb + 1 } := by
  have run := exec_issues h (by rw [exec, execCbatch])
  exact exec_steps run h (if_neg (ne_true_of_eq_false runs)) rfl

end

/-- Batches opened since the one that CWAIT names, and the copies of the team that it waits for. -/
abbrev Iss.waitAge (x : Iss) (a : RegField) : ℕ := (x.t.cb - (x.t.sreg a).extractLsb' 0 16).toNat
abbrev Iss.awaited (x : Iss) (a : RegField) : List Copy :=
  x.s.copies.filter fun c => c.uid == x.r.uid && c.tid == x.r.tid && decide (x.waitAge a ≤ (x.t.cb - c.batch).toNat)

theorem Iss.awaited_ne_nil_iff (x : Iss) (a : RegField) : x.awaited a ≠ [] ↔
    (x.s.copies.any fun c => c.uid == x.r.uid && c.tid == x.r.tid && decide (x.waitAge a ≤ x.t.batchAge c.batch)) = true := by
  rw [ne_eq, List.filter_eq_nil_iff, List.any_eq_true]
  simp only [not_forall, not_not, exists_prop]
  rfl

section
variable {d a : RegField} {s : State} {x : Iss} (h : issueOf (.cwait d a) s = some x)
include h

/-- A batch not opened yet. -/
theorem exec_cwait_future (future : 32767 < x.waitAge a) : ∃ t, exec (.cwait d a) s = .next t ∧
    TeamStep s t x (x.t.putS d (x.t.cb.zeroExtend 32 <<< 16 ||| 4#32)) := by
  have run := exec_issues h (by rw [exec, execCwait])
  exact exec_steps run h (if_pos future) rfl

variable (opened : x.waitAge a ≤ 32767)
include opened

theorem exec_cwait_held (out : x.awaited a ≠ []) : exec (.cwait d a) s = .next (Claim.held x x.s) := by
  have run := exec_issues h (by rw [exec, execCwait])
  rw [run]
  dsimp only
  rw [if_neg (Nat.not_lt.mpr opened), if_pos ((Iss.awaited_ne_nil_iff x a).mp out)]
  rfl

theorem exec_cwait_reports (back : x.awaited a = []) :
    let bits := (x.t.batches.filter fun b => decide (x.waitAge a ≤ (x.t.cb - b.batch).toNat)).foldl (fun n b => n ||| b.bits) 0#8
    ∃ t, exec (.cwait d a) s = .next t ∧
      MovesOn ((x.put { (x.t.putS d (x.t.cb.zeroExtend 32 <<< 16 ||| bits.zeroExtend 32)).orFlags (statusFlags bits) with
        batches := x.t.batches.filter fun b => decide ((x.t.cb - b.batch).toNat < x.waitAge a) }).acquire x.r) t x := by
  have run := exec_issues h (by rw [exec, execCwait])
  refine exec_movesOn run ?_
  dsimp only
  rw [if_neg (Nat.not_lt.mpr opened), if_neg ((Iss.awaited_ne_nil_iff x a).not.mp (not_not.mpr back))]
  rfl

end

/-- Settles O35: a copy word by the checks of its lanes, CBATCH by its running lanes, CWAIT by the batch it names and the copies out. -/
theorem copyWords : Obligations.CopyWords := by
  unfold Obligations.CopyWords
  refine ⟨fun i k a b s x h form => ⟨fun code va => exec_copy_faults h form, exec_copy_enters h form⟩, fun pad k a b => ⟨copyLaneFault_beyond, ?_, ?_⟩,
    fun d s x h => ⟨exec_cbatch_idle h, exec_cbatch_opens h⟩,
    fun d a s x h => ⟨exec_cwait_future h, exec_cwait_held h, exec_cwait_reports h⟩⟩
  · rintro below rfl
    exact copyLaneFault_cpys below
  · rintro below rfl
    exact copyLaneFault_cpy below

end Sys2Proof.Machine

/-!
SUPPORT. SOLICIT, RESPOND, CENSUS and CRES (R382 to R395), each by its cases.
-/

namespace Sys2Proof.Machine

open Sys2Proof

/-! ### SOLICIT (R383) -/

/-- The issue of a word that has read its group's scratchpad: the team notes the writes that it has seen. -/
abbrev Iss.seeing (x : Iss) : Iss := { x with s := x.s.modTeam x.r fun v => { v with padSeen := x.padView.2 ++ v.padSeen } }

/-- The record that SOLICIT reads, and the responder's team where it passes (R383). -/
abbrev Iss.solicitRec (x : Iss) (a : RegField) : List Byte := memReadN (Claim.viewed x).g.pad (x.t.sreg a).toNat 128
abbrev Iss.solicitTeam (x : Iss) (a : RegField) : Option ℕ :=
  (x.s.kernelOf x.g).bind fun k => solicitOk x.g.padSize k (x.solicitRec a)

section
variable {d a : RegField} {s : State} {x : Iss} (h : issueOf (.solicit d a) s = some x)
include h

theorem exec_solicit_responder (responds : x.t.responder.isSome = true) :
    exec (.solicit d a) s = .next (Claim.trapped x trapIllegal x.word) := by
  have run := exec_issues h (by rw [exec, execSolicit])
  refine exec_traps run ?_
  rw [Iss.noResponder, if_pos responds, Iss.trapWord]

variable (asks : x.t.responder = none)
include asks

theorem exec_solicit_idle (idle : x.t.idle = true) : ∃ t, exec (.solicit d a) s = .next t ∧ MovesOn x.s t x := by
  have run := exec_issues h (by rw [exec, execSolicit])
  refine exec_movesOn run ?_
  rw [Iss.noResponder, asks, if_neg (by simp), if_pos idle]

variable (runs : x.t.idle = false)
include runs

theorem exec_solicit_misplaced (bad : ¬((x.t.sreg a).toNat % 64 = 0 ∧ (x.t.sreg a).toNat + 128 ≤ x.g.padSize)) :
    exec (.solicit d a) s = .next (Claim.trapped x trapBounds (BitVec.ofNat 64 (x.t.sreg a).toNat)) := by
  have run := exec_issues h (by rw [exec, execSolicit])
  refine exec_traps run ?_
  rw [Iss.noResponder, asks, if_neg (by simp), if_neg (ne_true_of_eq_false runs)]
  exact if_pos (by omega)

variable (fits : (x.t.sreg a).toNat % 64 = 0 ∧ (x.t.sreg a).toNat + 128 ≤ x.g.padSize)
include fits

theorem exec_solicit_reads : exec (.solicit d a) s = .next (conclude (.solicit d a) x
    (match x.solicitTeam a, x.s.ctxOf x.g with
      | some n, some c => x.seeing.startCensus c d n (x.solicitRec a)
      | _, _ => x.seeing.trapWord trapFormat)) := by
  have run := exec_issues h (by rw [exec, execSolicit])
  rw [run, Iss.noResponder, asks, if_neg (by simp), if_neg (ne_true_of_eq_false runs)]
  dsimp only
  rw [if_neg (by omega)]
  rfl

theorem exec_solicit_refused (bad : x.solicitTeam a = none) :
    exec (.solicit d a) s = .next (Claim.trapped x trapFormat x.word) := by
  refine exec_traps (exec_solicit_reads h asks runs fits) ?_
  rw [bad]
  rfl

variable {n : ℕ} {c : Ctx} (good : x.solicitTeam a = some n) (hc : x.s.ctxOf x.g = some c)
include good hc

theorem exec_solicit_starts :
    exec (.solicit d a) s = .next (conclude (.solicit d a) x (x.seeing.startCensus c d n (x.solicitRec a))) := by
  rw [exec_solicit_reads h asks runs fits, good, hc]

theorem exec_solicit_full (full : ¬(x.t.censuses.length < 8 ∧ x.s.openCensuses x.g.part < 64)) :
    ∃ t, exec (.solicit d a) s = .next t ∧ MovesOn (Claim.status x x.seeing.s d 0xFFFFFFFF) t x := by
  refine exec_movesOn (exec_solicit_starts h asks runs fits good hc) ?_
  refine if_pos (?_ : 8 ≤ x.t.censuses.length ∨ 64 ≤ x.s.openCensuses x.g.part)
  omega

variable (room : x.t.censuses.length < 8 ∧ x.s.openCensuses x.g.part < 64)
include room

theorem exec_solicit_releases : exec (.solicit d a) s = .next (conclude (.solicit d a) x (x.seeing.release fun y =>
    y.status ({ y.s.modCtx y.g.part y.g.ctxid (fun q => { q with nextCensus := q.nextCensus + 1 }) with
      censuses := y.s.censuses ++ [y.newCensus c.nextCensus n (x.solicitRec a)], nextSeq := y.s.nextSeq + 1 }.modTeam y.r fun v =>
        { v with censuses := v.censuses ++ [y.s.nextSeq] }) d c.nextCensus.toNat)) := by
  rw [exec_solicit_starts h asks runs fits good hc]
  have goes : ¬(8 ≤ x.seeing.t.censuses.length ∨ 64 ≤ x.seeing.s.openCensuses x.seeing.g.part) := by
    rintro (full | full)
    · exact absurd room.1 (Nat.not_lt.mpr full)
    · exact absurd room.2 (Nat.not_lt.mpr full)
  rw [Iss.startCensus, if_neg goes]
  rfl

theorem exec_solicit_unreleased : Claim.unreleased (.solicit d a) s x.seeing :=
  unreleased_of (exec_solicit_releases h asks runs fits good hc room)

theorem exec_solicit_solicits {y : Iss} (hy : releasedBy x.seeing = some y) : ∃ t, exec (.solicit d a) s = .next t ∧
    MovesOn (Claim.status x ({ y.s.modCtx y.g.part y.g.ctxid (fun q => { q with nextCensus := q.nextCensus + 1 }) with
        censuses := y.s.censuses ++ [y.newCensus c.nextCensus n (x.solicitRec a)], nextSeq := y.s.nextSeq + 1 }.modTeam x.r fun v =>
      { v with censuses := v.censuses ++ [y.s.nextSeq] }) d c.nextCensus.toNat) t x := by
  have team : y.r = x.r := by
    obtain ⟨_, -, -, -, is⟩ := releasedBy_spec hy
    rw [is]
  refine exec_movesOn (exec_solicit_releases h asks runs fits good hc room) ?_
  rw [release_of hy, Iss.status, team]
  rfl

end

/-! ### RESPOND (R387, R394) -/

section
variable {a : RegField} {s : State} {x : Iss} (h : issueOf (.respond a) s = some x)
include h

theorem exec_respond_member (member : x.t.responder = none) : exec (.respond a) s = .next (Claim.trapped x trapIllegal x.word) := by
  have run := exec_issues h (by rw [exec, execRespond])
  refine exec_traps run ?_
  rw [member]
  rfl

variable {i : ResponderInfo} (responds : x.t.responder = some i)
include responds

theorem exec_respond_gone (gone : x.s.censuses.find? (fun c => c.cseq == i.cseq) = none) :
    exec (.respond a) s = .next (Claim.trapped x trapIllegal x.word) := by
  have run := exec_issues h (by rw [exec, execRespond])
  refine exec_traps run ?_
  simp only [responds, gone]
  rfl

variable {c : Census} (there : x.s.censuses.find? (fun c => c.cseq == i.cseq) = some c)
include there

theorem exec_respond_bad (bad : ¬(i.responded = false ∧ a.toNat + ceilDiv c.nwords 32 ≤ x.t.nvreg)) :
    exec (.respond a) s = .next (Claim.trapped x trapIllegal x.word) := by
  have run := exec_issues h (by rw [exec, execRespond])
  refine exec_traps run ?_
  simp only [responds, there]
  refine if_pos ?_
  rw [Bool.or_eq_true, decide_eq_true_eq]
  by_contra neither
  exact bad ⟨by simpa using fun r => neither (.inl r), Nat.le_of_not_lt fun r => neither (.inr r)⟩

variable (good : i.responded = false ∧ a.toNat + ceilDiv c.nwords 32 ≤ x.t.nvreg)
include good

theorem exec_respond_releases : exec (.respond a) s = .next (conclude (.respond a) x (x.release fun y =>
    .ok ((y.s.modCensus i.cseq fun q => q.setPiece i.core i.order (.answered ((List.range c.nwords).map (payloadWord y.t a)))).modTeam
      y.r fun v => { v with responder := some { i with responded := true } }))) := by
  have run := exec_issues h (by rw [exec, execRespond])
  rw [run]
  simp only [responds, there, good.1, Bool.false_or, decide_eq_true_eq, if_neg (Nat.not_lt.mpr good.2)]

theorem exec_respond_answers {y : Iss} (hy : releasedBy x = some y) : ∃ t, exec (.respond a) s = .next t ∧
    MovesOn ((y.s.modCensus i.cseq fun q => q.setPiece i.core i.order
      (.answered ((List.range c.nwords).map (payloadWord y.t a)))).modTeam x.r fun v =>
        { v with responder := some { i with responded := true } }) t x := by
  obtain ⟨team, -⟩ := releasedBy_issuer h hy
  refine exec_movesOn (exec_respond_releases h responds there good) ?_
  rw [release_of hy, team]

end

/-! ### CENSUS (R391, R395) -/

section
variable {d a k : RegField} {s : State} {x : Iss} (h : issueOf (.census d a k) s = some x)
include h

/-- The census slot that an id in an s register names. -/
abbrev Iss.censusSlot (x : Iss) (u : State) (a : RegField) : Option Census :=
  u.censuses.find? fun c => x.t.censuses.contains c.cseq && c.id == (x.t.sreg a).extractLsb' 0 16

theorem exec_census_unknown (unknown : x.censusSlot x.s a = none) : ∃ t, exec (.census d a k) s = .next t ∧
    TeamStep s t x (x.t.putS d 0x300#32) := by
  have run := exec_issues h (by rw [exec, execCensus])
  refine exec_steps run h ?_ (u := x.t.putS d 0x300#32) rfl
  simp only [State.slotOf, unknown]
  rfl

variable {c : Census} (slot : x.censusSlot x.s a = some c)
include slot

/-- A slot that is there: what holds the team, else its status. -/
theorem exec_census_slot : exec (.census d a k) s = .next (conclude (.census d a k) x
    (if c.state = .opened ∧ k = 0 then .hold x.s
    else if c.state = .closed ∧ x.t.unread = true then .hold x.s
    else
      let u := if c.state = .closed then x.s.acquire x.r else x.s
      .ok ((if k = 2 then u.freeCensus x.r c else u).modTeam x.r fun v =>
        if c.state = .closed then (v.putS d (censusWord c)).orFlags (((censusWord c).truncate 6) &&& 0xF#6)
        else v.putS d (censusWord c)))) := by
  have run := exec_issues h (by rw [exec, execCensus])
  rw [run]
  simp only [State.slotOf, slot]

theorem exec_census_waits (opened : c.state = .opened) (waits : k = 0) : exec (.census d a k) s = .next (Claim.held x x.s) := by
  rw [exec_census_slot h slot, if_pos ⟨opened, waits⟩]
  rfl

theorem exec_census_polls (opened : c.state = .opened) (polls : k ≠ 0) : ∃ t, exec (.census d a k) s = .next t ∧
    MovesOn (x.s.modTeam x.r fun v => v.putS d c.status) t x := by
  refine exec_movesOn (exec_census_slot h slot) ?_
  have word : censusWord c = c.status := by simp [censusWord, opened]
  rw [if_neg fun waits => polls waits.2]
  simp [opened, State.freeCensus, word]

theorem exec_census_unread (closed : c.state = .closed) (unread : x.t.unread = true) :
    exec (.census d a k) s = .next (Claim.held x x.s) := by
  rw [exec_census_slot h slot, if_neg (by simp [closed]), if_pos ⟨closed, unread⟩]
  rfl

theorem exec_census_closed (closed : c.state = .closed) (read : x.t.unread = false) : ∃ t, exec (.census d a k) s = .next t ∧
    MovesOn ((if k = 2 then (x.s.acquire x.r).freeCensus x.r c else x.s.acquire x.r).modTeam x.r fun v =>
      (v.putS d (c.status ||| 0x100#32)).orFlags (((c.status ||| 0x100#32).truncate 6) &&& 0xF#6)) t x := by
  refine exec_movesOn (exec_census_slot h slot) ?_
  have word : censusWord c = c.status ||| 0x100#32 := by simp [censusWord, closed]
  simp only [closed, read, word, Bool.false_eq_true, reduceCtorEq, false_and, and_false, if_false, if_true]

theorem exec_census_aborted (aborted : c.state = .aborted) : ∃ t, exec (.census d a k) s = .next t ∧
    MovesOn ((if k = 2 then x.s.freeCensus x.r c else x.s).modTeam x.r fun v => v.putS d (c.status ||| 0x200#32)) t x := by
  refine exec_movesOn (exec_census_slot h slot) ?_
  have word : censusWord c = c.status ||| 0x200#32 := by simp [censusWord, aborted]
  simp only [aborted, word, reduceCtorEq, false_and, if_false]

end

/-! ### CRES (R395) -/

/-- The answers of a census are the pieces with a payload. -/
theorem Piece.payload_isSome (p : Piece) : p.payload.isSome = (match p.state with
    | .answered _ => true
    | _ => false) := by
  unfold Piece.payload
  cases p.state <;> rfl

theorem cresWord_eq (slot : Option Census) (k : RegField) : cresWord slot k.toNat =
    match slot with
    | none => if k = 68 then 0x300#32 else 0
    | some c =>
      if k = 66 then BitVec.ofNat 32 (c.pieces.filter fun p => match p.state with
        | .answered _ => true
        | _ => false).length
      else if k = 67 then BitVec.ofNat 32 c.matched
      else if k = 68 then c.status ||| (match c.state with
        | .opened => 0x000#32
        | .closed => 0x100#32
        | .aborted => 0x200#32)
      else if c.state = .closed ∧ k.toNat < c.nwords then c.result.getD k.toNat 0
      else 0 := by
  have named (n : ℕ) (hn : n < 128) : k.toNat = n ↔ k = BitVec.ofNat 7 n := by
    rw [← BitVec.toNat_inj, BitVec.toNat_ofNat, Nat.mod_eq_of_lt hn]
  unfold cresWord
  simp only [named 66 (by decide), named 67 (by decide), named 68 (by decide), Piece.payload_isSome]
  cases slot <;> rfl

theorem exec_cres_moves {d a k : RegField} {s : State} {x : Iss} (h : issueOf (.cres d a k) s = some x) :
    ∃ t, exec (.cres d a k) s = .next t ∧ MovesOn (x.s.takeDue.modTeam x.r fun v =>
      v.addPend [pendS d (cresWord (x.censusSlot x.s.takeDue a) k.toNat)]) t x := by
  have run := exec_issues h (by rw [exec, execCres])
  exact exec_movesOn run rfl

/-- Settles O40: SOLICIT and RESPOND by their checks and their release, CENSUS by its slot's state, CRES by the word it names. -/
theorem censusWords : Obligations.CensusWords := by
  unfold Obligations.CensusWords
  refine ⟨fun d a s x h => ⟨exec_solicit_responder h, exec_solicit_idle h, exec_solicit_misplaced h, exec_solicit_refused h,
      fun asks runs fits n c good hc => ⟨exec_solicit_full h asks runs fits good hc, exec_solicit_unreleased h asks runs fits good hc,
        fun room y => exec_solicit_solicits h asks runs fits good hc room⟩⟩,
    fun a s x h => ⟨exec_respond_member h, fun i => exec_respond_gone h, fun i c responds there =>
      ⟨exec_respond_bad h responds there, fun good => unreleased_of (exec_respond_releases h responds there good),
        fun good y => exec_respond_answers h responds there good⟩⟩,
    fun d a k s x h => ⟨exec_census_unknown h, fun c => exec_census_waits h, fun c => exec_census_polls h, fun c => exec_census_unread h,
      fun c => exec_census_closed h, fun c => exec_census_aborted h⟩, fun d a k s x h => ?_⟩
  obtain ⟨t, run, moves⟩ := exec_cres_moves h
  rw [cresWord_eq] at moves
  exact ⟨t, run, moves⟩

end Sys2Proof.Machine

/-!
SUPPORT. The REMOTE instructions (R413, R417 to R420): the checks of their lanes, then what each does once they pass.
-/

namespace Sys2Proof.Machine

open Sys2Proof

/-! ### The checks of the lanes (R413, R419) -/

section
variable {c : Ctx} {n l ra : ℕ} {post : List (ℕ × ℕ)}

theorem remoteFault_passes (ok : (c.peer ra).valid = true ∧ bitsOf ra 52 4 = 0 ∧ ra % n = 0) :
    remoteFault c n ((l, ra) :: post) = remoteFault c n post := by
  obtain ⟨valid, below, aligned⟩ := ok
  simp [remoteFault, valid, below, aligned]

/-- Lanes that pass do not matter to the lanes behind them. -/
theorem remoteFault_append {pre : List (ℕ × ℕ)} (ok : ∀ p ∈ pre, (c.peer p.2).valid = true ∧ bitsOf p.2 52 4 = 0 ∧ p.2 % n = 0) :
    remoteFault c n (pre ++ post) = remoteFault c n post := by
  induction pre with
  | nil => rfl
  | cons p pre ih =>
    rw [List.cons_append, remoteFault_passes (ok p List.mem_cons_self), ih fun q there => ok q (List.mem_cons_of_mem _ there)]

theorem remoteFault_beyond (bad : (c.peer ra).valid = false ∨ bitsOf ra 52 4 ≠ 0) :
    remoteFault c n ((l, ra) :: post) = some (trapMemfault, BitVec.ofNat 64 ra) := by
  rw [remoteFault, if_pos (by simpa using bad)]

theorem remoteFault_misaligned (valid : (c.peer ra).valid = true) (below : bitsOf ra 52 4 = 0) (odd : ra % n ≠ 0) :
    remoteFault c n ((l, ra) :: post) = some (trapAlign, BitVec.ofNat 64 ra) := by
  simp [remoteFault, valid, below, odd]

end

section
variable {x : Iss} {c : Ctx} {a : RegField} {off : ℤ} {n : ℕ} {k : Ctx → List (ℕ × ℕ) → Act} (hc : x.s.ctxOf x.g = some c)
include hc

theorem Iss.remote_faults {code : ℕ} {va : DWord} (fault : remoteFault c n (x.t.vas a off) = some (code, va)) :
    x.remote a off n k = .trap code va := by
  simp only [Iss.remote, hc, fault]

theorem Iss.remote_idle (idle : x.t.run = []) : x.remote a off n k = .ok x.s := by
  have bare : x.t.vas a off = [] := by rw [Team.vas, idle, List.map_nil]
  simp only [Iss.remote, hc, bare, remoteFault, (Team.run_eq_nil_iff _).mp idle, if_true]

theorem Iss.remote_runs (runs : x.t.idle = false) (passed : remoteFault c n (x.t.vas a off) = none) :
    x.remote a off n k = k c (x.t.vas a off) := by
  simp only [Iss.remote, hc, passed, runs, if_neg Bool.false_ne_true]

end

/-- A REMOTE instruction on the running lanes: its address register, offset and access size. -/
def Remote (x : Iss) (a : RegField) (off : ℤ) (n : ℕ) (i : Instr) : Prop :=
  (∃ q o z, i = .rread q a o z ∧ off = x.off4 o (2 ^ z.toNat) ∧ n = 2 ^ z.toNat) ∨
    (∃ d o z, i = .rwrite d a o z ∧ off = x.off4 o (2 ^ z.toNat) ∧ n = 2 ^ z.toNat) ∨
    (∃ d z, i = .ratomAdd d a z ∧ off = 0 ∧ n = if z = 1 then 8 else 4) ∨ (∃ d, i = .ratomCas d a ∧ off = 0 ∧ n = 8)

section
variable {i : Instr} {a : RegField} {off : ℤ} {n : ℕ} {s : State} {x : Iss} {c : Ctx} (h : issueOf i s = some x)

/-- Each of them makes the checks of its lanes first. -/
theorem exec_remote (named : Remote x a off n i) (h : issueOf i s = some x) :
    ∃ k, exec i s = .next (conclude i x (x.remote a off n k)) := by
  rcases named with ⟨q, o, z, rfl, rfl, rfl⟩ | ⟨d, o, z, rfl, rfl, rfl⟩ | ⟨d, z, rfl, rfl, rfl⟩ | ⟨d, rfl, rfl, rfl⟩
  · exact ⟨_, exec_issues h (by rw [exec, execRread])⟩
  · exact ⟨_, exec_issues h (by rw [exec, execRwrite])⟩
  · exact ⟨_, exec_issues h (by rw [exec, execRatomAdd])⟩
  · exact ⟨_, exec_issues h (by rw [exec, execRatomCas])⟩

variable (hc : x.s.ctxOf x.g = some c) (named : Remote x a off n i)
include h hc named

theorem exec_remote_faults {code : ℕ} {va : DWord} (fault : remoteFault c n (x.t.vas a off) = some (code, va)) :
    exec i s = .next (Claim.trapped x code va) := by
  obtain ⟨k, run⟩ := exec_remote named h
  exact exec_traps run (Iss.remote_faults hc fault)

theorem exec_remote_idle (idle : x.t.run = []) : ∃ t, exec i s = .next t ∧ MovesOn x.s t x := by
  obtain ⟨k, run⟩ := exec_remote named h
  exact exec_movesOn run (Iss.remote_idle hc idle)

theorem exec_remote_first {pre post : List (ℕ × ℕ)} {l ra : ℕ} (vas : x.t.vas a off = pre ++ (l, ra) :: post)
    (ok : ∀ p ∈ pre, (c.peer p.2).valid = true ∧ bitsOf p.2 52 4 = 0 ∧ p.2 % n = 0) :
    (((c.peer ra).valid = false ∨ bitsOf ra 52 4 ≠ 0) → exec i s = .next (Claim.trapped x trapMemfault (BitVec.ofNat 64 ra))) ∧
    ((c.peer ra).valid = true → bitsOf ra 52 4 = 0 → ra % n ≠ 0 →
      exec i s = .next (Claim.trapped x trapAlign (BitVec.ofNat 64 ra))) := by
  constructor
  · exact fun bad => exec_remote_faults h hc named (by rw [vas, remoteFault_append ok, remoteFault_beyond bad])
  · exact fun valid below odd => exec_remote_faults h hc named (by
      rw [vas, remoteFault_append ok, remoteFault_misaligned valid below odd])

end

/-! ### RWRITE (R418) -/

/-- What RWRITE sends: the low bytes of its data register, lane for lane. -/
abbrev Iss.writeOps (x : Iss) (c : Ctx) (d a : RegField) (o : BitVec 4) (z : BitVec 2) : List RemoteOp :=
  x.laneOps c 1 (2 ^ z.toNat) 0 0 (x.t.vas a (x.off4 o (2 ^ z.toNat)))
    (fun l => BitVec.ofNat 64 ((x.t.reg d l).toNat % 2 ^ (8 * 2 ^ z.toNat))) (fun _ => 0)

section
variable {d a : RegField} {o : BitVec 4} {z : BitVec 2} {s : State} {x : Iss} {c : Ctx} (h : issueOf (.rwrite d a o z) s = some x)
  (hc : x.s.ctxOf x.g = some c) (runs : x.t.idle = false) (passed : remoteFault c (2 ^ z.toNat) (x.t.vas a (x.off4 o (2 ^ z.toNat))) = none)
include h hc runs passed

theorem exec_rwrite : exec (.rwrite d a o z) s = .next (conclude (.rwrite d a o z) x
    (if x.s.portsFull (x.writeOps c d a o z) then .hold x.s else .ok (x.s.sendAll (x.writeOps c d a o z)))) := by
  have run := exec_issues h (by rw [exec, execRwrite])
  rw [run]
  dsimp only
  rw [Iss.remote_runs hc runs passed]

theorem exec_rwrite_full (full : x.s.portsFull (x.writeOps c d a o z) = true) :
    exec (.rwrite d a o z) s = .next (Claim.held x x.s) := by
  rw [exec_rwrite h hc runs passed, if_pos full]
  rfl

theorem exec_rwrite_sends (room : x.s.portsFull (x.writeOps c d a o z) = false) :
    ∃ t, exec (.rwrite d a o z) s = .next t ∧ MovesOn (x.s.sendAll (x.writeOps c d a o z)) t x :=
  exec_movesOn (exec_rwrite h hc runs passed) (if_neg (ne_true_of_eq_false room))

end

/-! ### RATOM.ADD and RATOM.CAS (R418) -/

/-- A remote atomic on the running lanes: its kind of operation, access size, data and comparands. -/
def RemoteAtomic (x : Iss) (d a : RegField) (kind n : ℕ) (data cmp : ℕ → DWord) (i : Instr) : Prop :=
  (∃ z, i = .ratomAdd d a z ∧ kind = 2 ∧ n = (if z = 1 then 8 else 4) ∧
    data = (fun l => BitVec.ofNat 64 ((x.t.reg d l).toNat % 2 ^ (8 * n))) ∧ cmp = fun _ => 0) ∨
  (i = .ratomCas d a ∧ kind = 3 ∧ n = 8 ∧ data = x.t.reg (d + 1) ∧ cmp = x.t.reg d)

/-- The lanes of a remote atomic that its team waits for: those whose port is not DOWN. -/
abbrev Iss.lanesOut (x : Iss) (ops : List RemoteOp) : List ℕ := (ops.filter fun o => !x.s.portDown o.port).map (·.rseq)

section
variable {i : Instr} {d a : RegField} {kind n : ℕ} {data cmp : ℕ → DWord} {s : State} {x : Iss} {c : Ctx}
  (h : issueOf i s = some x) (named : RemoteAtomic x d a kind n data cmp i)
include h named

theorem exec_remoteAtomic : exec i s = .next (conclude i x (x.remoteAtomic d a kind n data cmp)) := by
  rcases named with ⟨z, rfl, rfl, rfl, rfl, rfl⟩ | ⟨rfl, rfl, rfl, rfl, rfl⟩
  · exact exec_issues h (by rw [exec, execRatomAdd])
  · exact exec_issues h (by rw [exec, execRatomCas])

variable (hc : x.s.ctxOf x.g = some c) (runs : x.t.idle = false) (passed : remoteFault c n (x.t.vas a 0) = none)
include hc runs passed

theorem exec_remoteAtomic_full (full : x.s.portsFull (x.laneOps c kind n 0 0 (x.t.vas a 0) data cmp) = true) :
    exec i s = .next (Claim.held x x.s) := by
  rw [exec_remoteAtomic h named, Iss.remoteAtomic, Iss.remote_runs hc runs passed]
  dsimp only
  rw [if_pos full]
  rfl

theorem exec_remoteAtomic_sends (room : x.s.portsFull (x.laneOps c kind n 0 0 (x.t.vas a 0) data cmp) = false) :
    let ops := x.laneOps c kind n 0 0 (x.t.vas a 0) data cmp
    ∃ t, exec i s = .next t ∧ MovesOn (if x.lanesOut ops = [] then x.s.sendAll ops
      else (x.s.sendAll ops).modTeam x.r fun v => { v with hold := .remote d (x.lanesOut ops) }) t x := by
  refine exec_movesOn (exec_remoteAtomic h named) ?_
  rw [Iss.remoteAtomic, Iss.remote_runs hc runs passed]
  dsimp only
  simp only [if_neg (ne_true_of_eq_false room), List.isEmpty_iff]

end

/-! ### RREAD (R419) -/

theorem reserve_eq_pushed (q : Queue) (e : QEntry) (clk : ℕ) : q.reserve e clk = Claim.pushed clk e false q := by
  rw [Queue.reserve, Claim.pushed, Bool.or_false]

/-- What RREAD asks for, lane for lane, for the next entry of its queue. -/
abbrev Iss.readOps (x : Iss) (c : Ctx) (n : BitVec 4) (a : RegField) (o : BitVec 4) (z : BitVec 3) (q : Queue) : List RemoteOp :=
  x.laneOps c 0 (2 ^ z.toNat) n.toNat q.nextId (x.t.vas a (x.off4 o (2 ^ z.toNat))) (fun _ => 0) (fun _ => 0)

/-- The state once RREAD has reserved its entry. -/
abbrev Iss.reserving (x : Iss) (n : BitVec 4) (q : Queue) : State :=
  x.s.modGroup x.r.uid <| Claim.queueChanged x.s.clk n.toNat <| Claim.pushed x.s.clk
    { id := 0, tag := 0, payload := 0, vals := List.replicate q.width 0, complete := false, waiting := true
      faulted := false, owner := x.t.tid } false

section
variable {n : BitVec 4} {a : RegField} {o : BitVec 4} {z : BitVec 3} {q : Queue} {s : State} {x : Iss} {c : Ctx}
  (h : issueOf (.rread n a o z) s = some x) (hc : x.s.ctxOf x.g = some c) (runs : x.t.idle = false)
  (hq : x.g.queue? n.toNat = some q) (passed : remoteFault c (2 ^ z.toNat) (x.t.vas a (x.off4 o (2 ^ z.toNat))) = none)
include h hc runs hq passed

theorem exec_rread : exec (.rread n a o z) s = .next (conclude (.rread n a o z) x
    (if q.refuses then .ok x.s
      else if q.full x.s.clk then x.holdQueue false
      else if x.s.portsFull (x.readOps c n a o z q) then .hold x.s
      else .ok (match x.readOps c n a o z q with
        | op :: _ => ((x.reserving n q).sendAll (x.readOps c n a o z q)).readOver op
        | [] => (x.reserving n q).sendAll (x.readOps c n a o z q)))) := by
  have run := exec_issues h (by rw [exec, execRread])
  rw [run]
  dsimp only
  rw [show sizeBytes z = 2 ^ z.toNat from rfl, Iss.remote_runs hc runs passed, Iss.withQueue_of hq]
  simp only [reserve_eq_pushed]
  rfl

theorem exec_rread_refused (refused : q.state ≠ .opened ∨ q.ended = true) :
    ∃ t, exec (.rread n a o z) s = .next t ∧ MovesOn x.s t x :=
  exec_movesOn (exec_rread h hc runs hq passed) (if_pos ((Queue.refuses_iff q).mpr refused))

variable (opened : q.state = .opened) (going : q.ended = false)
include opened going

theorem exec_rread_full (full : q.depth ≤ Claim.taken q x.s.clk) :
    exec (.rread n a o z) s = .next (Claim.heldOnQueue x false) := by
  rw [exec_rread h hc runs hq passed, if_neg (Queue.not_refuses_of opened going), if_pos ((Queue.full_iff q _).mpr full),
    conclude_holdQueue]

variable (room : Claim.taken q x.s.clk < q.depth)
include room

theorem exec_rread_goes : exec (.rread n a o z) s = .next (conclude (.rread n a o z) x
    (if x.s.portsFull (x.readOps c n a o z q) then .hold x.s
      else .ok (match x.readOps c n a o z q with
        | op :: _ => ((x.reserving n q).sendAll (x.readOps c n a o z q)).readOver op
        | [] => (x.reserving n q).sendAll (x.readOps c n a o z q)))) := by
  rw [exec_rread h hc runs hq passed, if_neg (Queue.not_refuses_of opened going), if_neg ((Queue.full_iff q _).not.mpr room.not_ge)]

theorem exec_rread_portsFull (full : x.s.portsFull (x.readOps c n a o z q) = true) :
    exec (.rread n a o z) s = .next (Claim.held x x.s) := by
  rw [exec_rread_goes h hc runs hq passed opened going room, if_pos full]
  rfl

theorem exec_rread_sends (free : x.s.portsFull (x.readOps c n a o z q) = false) {op : RemoteOp} {rest : List RemoteOp}
    (ops : x.readOps c n a o z q = op :: rest) : ∃ t, exec (.rread n a o z) s = .next t ∧
      MovesOn (((x.reserving n q).sendAll (x.readOps c n a o z q)).readOver op) t x := by
  refine exec_movesOn (exec_rread_goes h hc runs hq passed opened going room) ?_
  rw [if_neg (ne_true_of_eq_false free), ops]

end

/-! ### RFENCE (R420) -/

/-- A write or an atomic of the team is out. -/
def Iss.remoteOut (y : Iss) : Prop := ∃ o ∈ y.s.remotes, o.uid = y.g.uid ∧ o.tid = y.t.tid ∧ o.kind ≠ 0

theorem Iss.remoteOut_iff (y : Iss) : (y.s.remotes.any fun o => o.uid == y.g.uid && o.tid == y.t.tid && o.kind != 0) = true ↔ y.remoteOut := by
  simp [Iss.remoteOut, and_assoc]

section
variable {d : RegField} {s : State} {x : Iss} (h : issueOf (.rfence d) s = some x)
include h

theorem exec_rfence : exec (.rfence d) s = .next (conclude (.rfence d) x (x.release fun y =>
    if y.s.remotes.any fun o => o.uid == y.g.uid && o.tid == y.t.tid && o.kind != 0 then .hold y.s
    else y.okTeam { y.t.putS d y.t.rstatus with rstatus := 0 })) := exec_issues h (by rw [exec, execRfence])

theorem exec_rfence_unreleased : Claim.unreleased (.rfence d) s x := unreleased_of (u := x.s) (exec_rfence h)

variable {y : Iss} (hy : releasedBy x = some y)
include hy

theorem exec_rfence_held (waits : y.remoteOut) : exec (.rfence d) s = .next (Claim.held x y.s) := by
  rw [exec_rfence h, release_of hy, if_pos ((Iss.remoteOut_iff y).mpr waits)]
  rfl

theorem exec_rfence_reports (done : ¬y.remoteOut) : ∃ t, exec (.rfence d) s = .next t ∧
    MovesOn (y.put { y.t.putS d y.t.rstatus with rstatus := 0 }) t x := by
  refine exec_movesOn (exec_rfence h) ?_
  rw [release_of hy, if_neg ((Iss.remoteOut_iff y).not.mpr done)]
  rfl

end

/-- Settles O43: the checks of the lanes, then each word once they pass, RFENCE once its team's stores are performed. -/
theorem remoteWords : Obligations.RemoteWords := by
  unfold Obligations.RemoteWords
  refine ⟨fun i a off n s x c h hc named => ⟨fun pre post l ra vas ok => exec_remote_first h hc named vas ok, exec_remote_idle h hc named⟩,
    fun s x c a runs hc => ⟨fun d o z h passed => ⟨exec_rwrite_full h hc runs passed, exec_rwrite_sends h hc runs passed⟩,
      fun i d kind n data cmp h named => ⟨exec_remoteAtomic_full h named hc runs, exec_remoteAtomic_sends h named hc runs⟩,
      fun n o z q h hq passed => ⟨exec_rread_refused h hc runs hq passed, exec_rread_full h hc runs hq passed,
        exec_rread_portsFull h hc runs hq passed,
        fun opened going room free op rest ops => exec_rread_sends h hc runs hq passed opened going room free ops⟩⟩,
    fun d s x h => exec_rfence_unreleased h, fun d s x y h hy => ⟨exec_rfence_held h hy, exec_rfence_reports h hy⟩⟩

end Sys2Proof.Machine

/-!
SUPPORT. HDEF, FETCH, FETCHX and FINV (R326 to R328), on runs of bytes that a team reads by ordinary loads.
-/

namespace Sys2Proof.Machine

open Sys2Proof

/-! ### A run of bytes read by ordinary loads (R298, R314, R326) -/

/-- The first byte of a run beyond the address space. -/
theorem runFrom_beyond {va n : ℕ} (beyond : 2 ^ 52 < va + n) (some_ : 0 < n) :
    (runFrom va n).find? (fun a => decide (2 ^ 52 ≤ a)) = some (max va (2 ^ 52)) := by
  rw [runFrom, List.find?_map, Option.map_eq_some_iff]
  refine ⟨2 ^ 52 - va, List.find?_range_eq_some.mpr ⟨?_, ?_, fun j before => ?_⟩, by omega⟩
  · exact decide_eq_true (by omega : 2 ^ 52 ≤ va + (2 ^ 52 - va))
  · exact List.mem_range.mpr (by omega)
  · simp only [Function.comp, Bool.not_eq_true', decide_eq_false_iff_not]
    omega

theorem runFrom_within {va n : ℕ} (within : va + n ≤ 2 ^ 52) : (runFrom va n).find? (fun a => decide (2 ^ 52 ≤ a)) = none := by
  rw [runFrom, List.find?_map, Option.map_eq_none_iff, List.find?_range_eq_none]
  intro j before
  simp only [Function.comp, Bool.not_eq_true', decide_eq_false_iff_not]
  omega

/-- What a word goes on with once its run is read. -/
abbrev Iss.runRead (x : Iss) (c : Ctx) (u : State) (va n : ℕ) : State :=
  (x.runServed c (x.readRun u c false va n).s va n).modTeam x.r fun v =>
    { v.freeze [laneAt 0 va] n with seen := (x.readRun u c false va n).seen ++ (v.freeze [laneAt 0 va] n).seen }

section
variable {i : Instr} {s : State} {x : Iss} {c : Ctx} {u : State} {va n : ℕ} {k : State → List Byte → Act}

theorem Iss.loadRun_beyond (beyond : 2 ^ 52 < va + n) (some_ : 0 < n) :
    x.loadRun c u va n k = .trap trapMemfault (BitVec.ofNat 64 (max va (2 ^ 52))) := by
  rw [Iss.loadRun, runFrom_beyond beyond some_]

variable (within : va + n ≤ 2 ^ 52)
include within

theorem Iss.loadRun_full (full : x.missFull = true) : x.loadRun c u va n k = .hold x.s := by
  rw [Iss.loadRun, runFrom_within within]
  exact Iss.misses_full full _

variable (room : x.missFull = false)
include room

theorem Iss.loadRun_runs : x.loadRun c u va n k =
    let q := x.readRun u c false va n
    if q.bad then .done (x.s.badAccess x.g x.t)
    else if q.left.isEmpty then k (x.runRead c u va n) q.bytes
    else .hold (q.s.modTeam x.r fun t => t.addReplay t.prefixPc .whole q.left) := by
  rw [Iss.loadRun, runFrom_within within]
  exact Iss.misses_room room _

theorem Iss.loadRun_bad (bad : (x.readRun u c false va n).bad = true) : x.loadRun c u va n k = .done (x.s.badAccess x.g x.t) := by
  rw [Iss.loadRun_runs within room]
  exact if_pos bad

variable (good : (x.readRun u c false va n).bad = false)
include good

theorem Iss.loadRun_left (left : (x.readRun u c false va n).left ≠ []) : x.loadRun c u va n k =
    .hold ((x.readRun u c false va n).s.modTeam x.r fun t => t.addReplay t.prefixPc .whole (x.readRun u c false va n).left) := by
  rw [Iss.loadRun_runs within room]
  exact (if_neg (ne_true_of_eq_false good)).trans (if_neg (List.isEmpty_iff.not.mpr left))

theorem Iss.loadRun_read (read : (x.readRun u c false va n).left = []) :
    x.loadRun c u va n k = k (x.runRead c u va n) (x.readRun u c false va n).bytes := by
  rw [Iss.loadRun_runs within room]
  exact (if_neg (ne_true_of_eq_false good)).trans (if_pos (List.isEmpty_iff.mpr read))

end

/-- A word that reads a run does what is stated of such words, where what it goes on to do with the bytes is as stated. -/
theorem reads_of {i : Instr} {s : State} {x : Iss} {c : Ctx} {u : State} {va n : ℕ} {k : State → List Byte → Act}
    {K : State → List Byte → Prop} (run : exec i s = .next (conclude i x (x.loadRun c u va n k)))
    (goes : ∀ w bs, exec i s = .next (conclude i x (k w bs)) → K w bs) : Claim.reads i s x c u va n K := by
  refine ⟨fun beyond some_ => ?_, fun within full => ?_, fun within room bad => ?_, fun within room good left => ?_,
    fun within room good read => goes _ _ ?_⟩
  · rw [run, Iss.loadRun_beyond beyond some_]
    rfl
  · rw [run, Iss.loadRun_full within full]
    rfl
  · rw [run, Iss.loadRun_bad within room bad]
    rfl
  · rw [run, Iss.loadRun_left within room good left]
    rfl
  · rw [run, Iss.loadRun_read within room good read]

/-! ### HDEF (R326) -/

/-- The state once HDEF has its status: the descriptor stands in its place where the status is 0. -/
abbrev Iss.defined (x : Iss) (d b : RegField) (u : State) (st : ℕ) (desc : FetchDesc) : State :=
  let u := u.modTeam x.r fun v => v.putS d (BitVec.ofNat 32 st)
  if st = 0 then u.modGroup x.r.uid fun g => { g with descs := g.descs.set (bitsOf (x.t.sreg b).toNat 0 4) (some desc) } else u

section
variable {d a b : RegField} {s : State} {x : Iss} (h : issueOf (.hdef d a b) s = some x)
include h

theorem exec_hdef_idle (idle : x.t.run = []) : ∃ t, exec (.hdef d a b) s = .next t ∧ MovesOn x.s t x := by
  have run := exec_issues h (by rw [exec, execHdef])
  have noLane : x.t.low? = none := by rw [Team.low?, idle]; rfl
  exact exec_movesOn run (by rw [noLane])

variable {l : ℕ} {c : Ctx} (low : x.t.low? = some l) (hc : x.s.ctxOf x.g = some c)
include low hc

theorem exec_hdef : exec (.hdef d a b) s = .next (conclude (.hdef d a b) x
    (if 2 ^ 52 ≤ (x.t.reg a l).toNat then .trap trapMemfault (BitVec.ofNat 64 (x.t.reg a l).toNat)
      else if (x.t.reg a l).toNat % 64 ≠ 0 then .trap trapAlign (BitVec.ofNat 64 (x.t.reg a l).toNat)
      else x.loadRun c x.s (x.t.reg a l).toNat 64 fun u bs =>
        if fieldAt bs 0x20 1 = 1 then x.loadRun c u (fieldAt bs 0x10 8) 128 fun w tab =>
          .ok (x.defined d b w (if recordStatus bs ≠ 0 then recordStatus bs else if htabOk (htabLens tab) then 0 else 3)
            (descOf bs (htabLens tab)))
        else .ok (x.defined d b u (recordStatus bs) (descOf bs [])))) := by
  have run := exec_issues h (by rw [exec, execHdef])
  rw [run, low, hc]
  rfl

theorem exec_hdef_beyond (beyond : 2 ^ 52 ≤ (x.t.reg a l).toNat) :
    exec (.hdef d a b) s = .next (Claim.trapped x trapMemfault (BitVec.ofNat 64 (x.t.reg a l).toNat)) :=
  exec_traps (exec_hdef h low hc) (if_pos beyond)

variable (within : (x.t.reg a l).toNat < 2 ^ 52)
include within

theorem exec_hdef_misaligned (odd : (x.t.reg a l).toNat % 64 ≠ 0) :
    exec (.hdef d a b) s = .next (Claim.trapped x trapAlign (BitVec.ofNat 64 (x.t.reg a l).toNat)) :=
  exec_traps (exec_hdef h low hc) ((if_neg (Nat.not_le.mpr within)).trans (if_pos odd))

/-- The record, for ENC 1 the table too, and then the status. -/
theorem exec_hdef_reads (aligned : (x.t.reg a l).toNat % 64 = 0) :
    Claim.reads (.hdef d a b) s x c x.s (x.t.reg a l).toNat 64 fun u bs =>
      (fieldAt bs 0x20 1 ≠ 1 → ∃ t, exec (.hdef d a b) s = .next t ∧ MovesOn (x.defined d b u (recordStatus bs) (descOf bs [])) t x) ∧
      (fieldAt bs 0x20 1 = 1 → Claim.reads (.hdef d a b) s x c u (fieldAt bs 0x10 8) 128 fun w tab =>
        ∃ t, exec (.hdef d a b) s = .next t ∧
          MovesOn (x.defined d b w (if recordStatus bs ≠ 0 then recordStatus bs else if htabOk (htabLens tab) then 0 else 3)
            (descOf bs (htabLens tab))) t x) := by
  have run := exec_hdef h low hc
  rw [if_neg (Nat.not_le.mpr within), if_neg (not_not.mpr aligned)] at run
  refine reads_of run fun u bs run => ⟨fun plain => ?_, fun coded => ?_⟩
  · exact exec_movesOn run (if_neg plain)
  · rw [if_pos coded] at run
    exact reads_of run fun w tab run => exec_movesOn run rfl

end

/-! ### FETCH and FETCHX (R327) -/

/-- The descriptor that a fetch names, and what its checks come to. -/
abbrev Iss.fetchDesc (x : Iss) (b : RegField) : Option FetchDesc := x.g.descs.getD (bitsOf (x.t.sreg b).toNat 0 4) none
abbrev Iss.fetchChecked (x : Iss) (n b : RegField) (rows : Hdr → List (ℕ × ℕ)) : Check :=
  fetchCheck x n.toNat (hdrAt x.g x.t n.toNat) (x.fetchDesc b) (rows (hdrAt x.g x.t n.toNat))

/-- Without a valid descriptor the checks fail. -/
theorem fetchCheck_invalid (x : Iss) (n : ℕ) (h : Hdr) (rows : List (ℕ × ℕ)) : fetchCheck x n h none rows ≠ none := by
  cases bound : handleCheck x.g x.t n <;> simp [fetchCheck, bound]

/-- A fetch as it is queued. -/
abbrev Iss.newFetch (x : Iss) (n b : RegField) (rows : Hdr → List (ℕ × ℕ)) (e : FetchDesc) : Fetch :=
  let h := hdrAt x.g x.t n.toNat
  let w := (x.t.sreg b).toNat
  { seq := x.s.nextSeq, uid := x.r.uid, tid := x.r.tid, desc := e, doff := h.doff,
    rstride := h.rstride, rows := rows h, all := rows h, bo := bitsOf w 4 5, nobo := bitOf w 9,
    counted := 0, noAlloc := x.t.noAlloc, waitReq := none, carry := none }

/-- Checks that pass have found a valid descriptor. -/
theorem fetchDesc_of_passed {x : Iss} {n b : RegField} {rows : Hdr → List (ℕ × ℕ)} (passed : x.fetchChecked n b rows = none) :
    ∃ e, x.fetchDesc b = some e := by
  cases valid : x.fetchDesc b with
  | some e => exact ⟨e, rfl⟩
  | none =>
    rw [Iss.fetchChecked, valid] at passed
    exact absurd passed (fetchCheck_invalid x _ _ _)

section
variable {i : Instr} {n b : RegField} {rows : Hdr → List (ℕ × ℕ)} {s : State} {x : Iss} (h : issueOf i s = some x)
  (form : Claim.fetchForm x i = some (n, b, rows))
include h form

theorem exec_of_fetchForm : exec i s = .next (conclude i x (x.fetch n.toNat b rows)) := by
  unfold Claim.fetchForm at form
  split at form <;> cases form
  · rw [exec, execFetch]
    exact issue_of h _
  · rw [exec, execFetchx]
    exact issue_of h _

theorem exec_fetch_idle (idle : x.t.idle = true) : ∃ t, exec i s = .next t ∧ MovesOn x.s t x :=
  exec_movesOn (exec_of_fetchForm h form) (if_pos idle)

variable (runs : x.t.idle = false)
include runs

theorem exec_fetch_runs : exec i s = .next (conclude i x (x.checked (x.fetchChecked n b rows)
    (match x.fetchDesc b with
      | none => .ok x.s
      | some e => if 64 ≤ x.s.fetchesOn x.g.core then .hold x.s
        else .ok { x.s with fetches := x.s.fetches ++ [x.newFetch n b rows e], nextSeq := x.s.nextSeq + 1 }))) := by
  rw [exec_of_fetchForm h form, Iss.fetch, if_neg (ne_true_of_eq_false runs)]
  rfl

theorem exec_fetch_fails {code : ℕ} {va : Option DWord} (fails : x.fetchChecked n b rows = some (code, va)) :
    exec i s = .next (Claim.checkTrap x code va) := by
  rw [exec_fetch_runs h form runs, conclude_checkTrap i fails]

variable (passed : x.fetchChecked n b rows = none)
include passed

theorem exec_fetch_full (full : 64 ≤ x.s.fetchesOn x.g.core) : exec i s = .next (Claim.held x x.s) := by
  obtain ⟨e, valid⟩ := fetchDesc_of_passed passed
  rw [exec_fetch_runs h form runs, Iss.checked_passed passed, valid]
  dsimp only
  rw [if_pos full]
  rfl

theorem exec_fetch_queued (room : x.s.fetchesOn x.g.core < 64) {e : FetchDesc} (valid : x.fetchDesc b = some e) :
    ∃ t, exec i s = .next t ∧
      MovesOn { x.s with fetches := x.s.fetches ++ [x.newFetch n b rows e], nextSeq := x.s.nextSeq + 1 } t x := by
  refine exec_movesOn (exec_fetch_runs h form runs) ?_
  rw [Iss.checked_passed passed, valid]
  exact if_neg (Nat.not_le.mpr room)

end

/-! ### FINV (R328) -/

/-- The state once FINV has reported its group's decode errors. -/
abbrev Iss.decodeErrors (x : Iss) (d : RegField) : State := x.s.modTeam x.r fun v => v.putS d (if x.g.decErr then 1 else 0)

section
variable {d b : RegField} {s : State} {x : Iss} (h : issueOf (.finv d b) s = some x)
include h

theorem exec_finv_idle (idle : x.t.idle = true) : ∃ t, exec (.finv d b) s = .next t ∧ MovesOn (x.decodeErrors d) t x := by
  have run := exec_issues h (by rw [exec, execFinv])
  exact exec_movesOn run (if_pos idle)

theorem exec_finv_drops (runs : x.t.idle = false) {c : Ctx} (hc : x.s.ctxOf x.g = some c) {desc : FetchDesc}
    (valid : x.fetchDesc b = some desc) : ∃ t, exec (.finv d b) s = .next t ∧
      MovesOn (((x.decodeErrors d).modCore x.g.core fun k => { k with fetchLines := k.fetchLines.filter fun e =>
        !(e.1 == asidTag c.asid e.2.1 && desc.covers e.2.1) }).modGroup x.r.uid fun g => { g with decErr := false }) t x := by
  have run := exec_issues h (by rw [exec, execFinv])
  refine exec_movesOn run ?_
  dsimp only
  rw [if_neg (ne_true_of_eq_false runs), show x.g.descs.getD (descIndex (x.t.sreg b)) none = some desc from valid, hc]

end

/-- Settles O36: HDEF by the runs of bytes it reads, a fetch by its checks and the room of its core, FINV by its running lanes. -/
theorem fetchWords : Obligations.FetchWords := by
  unfold Obligations.FetchWords
  exact ⟨fun d a b s x l c h low hc => ⟨exec_hdef_beyond h low hc, exec_hdef_misaligned h low hc, exec_hdef_reads h low hc⟩,
    fun d a b s x h => exec_hdef_idle h,
    fun i n b rows s x h form => ⟨exec_fetch_idle h form, fun runs code va => exec_fetch_fails h form runs, exec_fetch_full h form,
      fun runs passed room e => exec_fetch_queued h form runs passed room⟩,
    fun d b s x c h hc => ⟨exec_finv_idle h, fun runs desc => exec_finv_drops h runs hc⟩⟩

end Sys2Proof.Machine

/-!
SUPPORT. The ROUTE instructions (R397 to R407): slots, replica tables, and the results that acquire.
-/

namespace Sys2Proof.Machine

open Sys2Proof

/-! ### What a ROUTE word comes to (R399, R406) -/

section
variable {x : Iss} {k : Ctx → Act}

theorem Iss.route_idle (idle : x.t.idle = true) : x.route k = .ok x.s := if_pos idle

theorem Iss.route_runs (runs : x.t.idle = false) {c : Ctx} (hc : x.s.ctxOf x.g = some c) : x.route k = k c := by
  rw [Iss.route, if_neg (ne_true_of_eq_false runs), hc]

end

/-- The context of a word changed, and its result in an s register. -/
abbrev Iss.routedIn (x : Iss) (c : Ctx) (u : State) (d : RegField) (q : Ctx) (w : Word) : State :=
  (u.modCtx c.part c.ctxid fun _ => q).modTeam x.r fun v => v.putS d w

/-- The state of a word whose result may acquire. -/
abbrev Iss.acquired (x : Iss) (acq : Bool) : State := if acq then x.s.acquire x.r else x.s

section
variable {x : Iss} {c q : Ctx} {d : RegField} {w : Word} (place : q.part = c.part ∧ q.ctxid = c.ctxid)
include place

theorem Iss.routed_eq : x.routed q d w = .ok (x.routedIn c x.s d q w) := by
  obtain ⟨part, ctxid⟩ := place
  rw [Iss.routed, part, ctxid]

theorem Iss.acquiring_routed {acq : Bool} (free : acq = true → x.t.unread = false) :
    (x.acquiring acq fun x => x.routed q d w) = .ok (x.routedIn c (x.acquired acq) d q w) := by
  cases acq with
  | false => exact Iss.routed_eq place
  | true => rw [Iss.acquiring, free rfl, if_neg (by decide), if_neg Bool.false_ne_true, Iss.routed_eq place]; rfl

end

theorem Iss.acquiring_unread {x : Iss} (unread : x.t.unread = true) (k : Iss → Act) : x.acquiring true k = .hold x.s := by
  rw [Iss.acquiring, unread]
  rfl

/-! ### SLOTGET (R398) -/

theorem sweepSlots_place (e : BitVec 16) (n : ℕ) (c : Ctx) : (sweepSlots e n c).1.part = c.part ∧ (sweepSlots e n c).1.ctxid = c.ctxid := by
  induction n generalizing c with
  | zero => exact ⟨rfl, rfl⟩
  | succ n ih =>
    rw [sweepSlots]
    dsimp only
    split
    · exact ⟨rfl, rfl⟩
    · exact ih _

/-- SLOTGET leaves its context where it is. -/
theorem Ctx.slotGet_place (c : Ctx) (e : BitVec 16) : (c.slotGet e).1.part = c.part ∧ (c.slotGet e).1.ctxid = c.ctxid := by
  unfold Ctx.slotGet
  split
  · exact ⟨rfl, rfl⟩
  · split
    · dsimp only
      split <;> exact ⟨rfl, rfl⟩
    · have := sweepSlots_place e 512 c
      split <;> rename_i swept <;> rwa [swept] at this

/-- A HIT on a slot that is ready: the upper bits of its result are 0. -/
theorem ready_iff (w : Word) : (w.toNat / 2 ^ 29 == 0) = decide (w.toNat < 2 ^ 29) := by
  rw [Bool.eq_iff_iff, beq_iff_eq, decide_eq_true_eq]
  omega

section
variable {d a : RegField} {s : State} {x : Iss} {c : Ctx} (h : issueOf (.slotget d a) s = some x) (runs : x.t.idle = false)
  (hc : x.s.ctxOf x.g = some c)
include h runs hc

theorem exec_slotget : exec (.slotget d a) s = .next (conclude (.slotget d a) x
    (x.acquiring (decide ((c.slotGet ((x.t.sreg a).extractLsb' 0 16)).2.toNat < 2 ^ 29)) fun y =>
      y.routed (c.slotGet ((x.t.sreg a).extractLsb' 0 16)).1 d (c.slotGet ((x.t.sreg a).extractLsb' 0 16)).2)) := by
  have run := exec_issues h (by rw [exec, execSlotget])
  rw [run, Iss.route_runs runs hc, ← ready_iff]

theorem exec_slotget_held (unread : x.t.unread = true) (ready : (c.slotGet ((x.t.sreg a).extractLsb' 0 16)).2.toNat < 2 ^ 29) :
    exec (.slotget d a) s = .next (Claim.held x x.s) := by
  rw [exec_slotget h runs hc, decide_eq_true ready, Iss.acquiring_unread unread]
  rfl

theorem exec_slotget_gives
    (free : x.t.unread = false ∨ 2 ^ 29 ≤ (c.slotGet ((x.t.sreg a).extractLsb' 0 16)).2.toNat) :
    let r := c.slotGet ((x.t.sreg a).extractLsb' 0 16)
    ∃ t, exec (.slotget d a) s = .next t ∧ MovesOn (x.routedIn c (x.acquired (decide (r.2.toNat < 2 ^ 29))) d r.1 r.2) t x :=
  exec_movesOn (exec_slotget h runs hc) (Iss.acquiring_routed (c.slotGet_place _) fun ready =>
    free.resolve_right (Nat.not_le.mpr (of_decide_eq_true ready)))

end

/-! ### SLOTREF and SLOTREL (R407) -/

/-- The slot that a word names. -/
abbrev Iss.slotNo (x : Iss) (a : RegField) : ℕ := ((x.t.sreg a).extractLsb' 0 8).toNat

/-- SLOTREF once its release, if it is one, is done. -/
def Iss.slotref (x : Iss) (d a k : RegField) : Act :=
  x.route fun c =>
    x.acquiring (((c.slot (x.slotNo a)).refOp k.toNat).valid && !((c.slot (x.slotNo a)).refOp k.toNat).loading) fun y =>
      y.routed { c with slots := c.slots.set (x.slotNo a) ((c.slot (x.slotNo a)).refOp k.toNat) } d
        ((c.slot (x.slotNo a)).refOp k.toNat).word

theorem exec_slotref {d a k : RegField} {s : State} {x : Iss} (h : issueOf (.slotref d a k) s = some x) :
    exec (.slotref d a k) s = .next (conclude (.slotref d a k) x
      (if k = 2 ∧ x.t.idle = false then x.release fun y => y.slotref d a k else x.slotref d a k)) :=
  exec_issues h (by rw [exec, execSlotref])

section
variable {x : Iss} {c : Ctx} (d a k : RegField) (runs : x.t.idle = false) (hc : x.s.ctxOf x.g = some c)
include runs hc

theorem Iss.slotref_held (unread : x.t.unread = true) (valid : ((c.slot (x.slotNo a)).refOp k.toNat).valid = true)
    (ready : ((c.slot (x.slotNo a)).refOp k.toNat).loading = false) : x.slotref d a k = .hold x.s := by
  rw [Iss.slotref, Iss.route_runs runs hc, valid, ready]
  exact Iss.acquiring_unread unread _

theorem Iss.slotref_gives (free : x.t.unread = false ∨ ((c.slot (x.slotNo a)).refOp k.toNat).valid = false ∨
      ((c.slot (x.slotNo a)).refOp k.toNat).loading = true) :
    let e := (c.slot (x.slotNo a)).refOp k.toNat
    x.slotref d a k = .ok (x.routedIn c (x.acquired (e.valid && !e.loading)) d { c with slots := c.slots.set (x.slotNo a) e } e.word) := by
  intro e
  rw [Iss.slotref, Iss.route_runs runs hc]
  refine Iss.acquiring_routed ⟨rfl, rfl⟩ fun acquires => ?_
  obtain ⟨valid, ready⟩ : e.valid = true ∧ e.loading = false := by
    rwa [Bool.and_eq_true, Bool.not_eq_true'] at acquires
  rcases free with read | invalid | loads
  · exact read
  · exact absurd (invalid.symm.trans valid) Bool.false_ne_true
  · exact absurd (ready.symm.trans loads) Bool.false_ne_true

end

section
variable {d a k : RegField} {s : State} {x : Iss} {c : Ctx} (h : issueOf (.slotref d a k) s = some x) (other : k ≠ 2)
  (runs : x.t.idle = false) (hc : x.s.ctxOf x.g = some c)
include h other runs hc

theorem exec_slotref_held (unread : x.t.unread = true) (valid : ((c.slot (x.slotNo a)).refOp k.toNat).valid = true)
    (ready : ((c.slot (x.slotNo a)).refOp k.toNat).loading = false) : exec (.slotref d a k) s = .next (Claim.held x x.s) := by
  rw [exec_slotref h, if_neg fun ⟨two, _⟩ => other two, Iss.slotref_held d a k runs hc unread valid ready]
  rfl

theorem exec_slotref_gives (free : x.t.unread = false ∨ ((c.slot (x.slotNo a)).refOp k.toNat).valid = false ∨
      ((c.slot (x.slotNo a)).refOp k.toNat).loading = true) :
    let e := (c.slot (x.slotNo a)).refOp k.toNat
    ∃ t, exec (.slotref d a k) s = .next t ∧
      MovesOn (x.routedIn c (x.acquired (e.valid && !e.loading)) d { c with slots := c.slots.set (x.slotNo a) e } e.word) t x :=
  exec_movesOn (exec_slotref h) ((if_neg fun ⟨two, _⟩ => other two).trans (Iss.slotref_gives d a k runs hc free))

end

/-- SLOTREF with k = 2 says that a slot is loaded. -/
theorem Slot.refOp_two (e : Slot) : e.refOp 2 = if e.valid = true then { e with loading := false } else e := rfl

/-- The loaded slot is ready where it is valid. -/
theorem Slot.refOp_two_ready (e : Slot) : ((e.refOp 2).valid && !(e.refOp 2).loading) = e.valid := by
  rw [Slot.refOp_two]
  by_cases valid : e.valid = true
  · rw [if_pos valid]
    exact (Bool.and_true _)
  · rw [if_neg valid, eq_false_of_ne_true valid]
    rfl

section
variable {d a : RegField} {s : State} {x : Iss} {c : Ctx} (h : issueOf (.slotref d a 2) s = some x) (runs : x.t.idle = false)
include h runs

theorem exec_slotref_releases :
    exec (.slotref d a 2) s = .next (conclude (.slotref d a 2) x (x.release fun y => y.slotref d a 2)) := by
  rw [exec_slotref h, if_pos ⟨rfl, runs⟩]

theorem exec_slotref_unreleased : Claim.unreleased (.slotref d a 2) s x := unreleased_of (u := x.s) (exec_slotref_releases h runs)

theorem exec_slotref_loads (hc : x.s.ctxOf x.g = some c) {y : Iss} (hy : releasedBy x = some y) :
    let e := c.slot (x.slotNo a)
    let e' := if e.valid = true then { e with loading := false } else e
    ∃ t, exec (.slotref d a 2) s = .next t ∧ MovesOn (x.routedIn c (if e.valid = true then y.s.acquire x.r else y.s) d
      { c with slots := c.slots.set (x.slotNo a) e' } e'.word) t x := by
  obtain ⟨team, -, -, -, p, issuer⟩ := releasedBy_issuer h hy
  have read : y.t.unread = false := by rw [issuer]; rfl
  have runsY : y.t.idle = false := by rw [issuer]; exact runs
  have named : y.slotNo a = x.slotNo a := by rw [Iss.slotNo, issuer]; rfl
  have hcY : y.s.ctxOf y.g = some c := (releasedBy_access h hy).1.trans hc
  have gives := Iss.slotref_gives d a 2 runsY hcY (.inl read)
  refine exec_movesOn (exec_slotref_releases h runs) ?_
  rw [release_of hy, gives]
  simp only [Iss.routedIn, Iss.acquired, named, team, show (2 : RegField).toNat = 2 from rfl, Slot.refOp_two_ready]
  simp only [Slot.refOp_two]

end

theorem exec_slotrel_releases {d a : RegField} {s : State} {x : Iss} {c : Ctx} (h : issueOf (.slotrel d a) s = some x)
    (runs : x.t.idle = false) (hc : x.s.ctxOf x.g = some c) :
    let e := c.slot (x.slotNo a)
    let e' := if e.valid = true ∧ e.ref ≠ 0 then { e with ref := e.ref - 1 } else e
    ∃ t, exec (.slotrel d a) s = .next t ∧ MovesOn (x.routedIn c x.s d { c with slots := c.slots.set (x.slotNo a) e' } e'.word) t x := by
  have run := exec_issues h (by rw [exec, execSlotrel])
  exact exec_movesOn run ((Iss.route_runs runs hc).trans (Iss.routed_eq ⟨rfl, rfl⟩))

/-! ### Replica tables (R403, R404) -/

section
variable {d a b : RegField} {s : State} {x : Iss} {c : Ctx} (runs : x.t.idle = false) (hc : x.s.ctxOf x.g = some c)
include runs hc

theorem exec_rtlook_finds (h : issueOf (.rtlook d a b) s = some x) :
    let v := c.lookup ((x.t.sreg a).extractLsb' 0 16).toNat (x.t.sreg b).toNat
    ∃ t, exec (.rtlook d a b) s = .next t ∧ MovesOn (x.routedIn c x.s d c (BitVec.ofNat 32 (c.tabver.toNat * 65536 + v))) t x := by
  have run := exec_issues h (by rw [exec, execRtlook])
  exact exec_movesOn run ((Iss.route_runs runs hc).trans (Iss.routed_eq ⟨rfl, rfl⟩))

theorem exec_rtlookAdm_decides (h : issueOf (.rtlookAdm d a) s = some x) : ∃ t, exec (.rtlookAdm d a) s = .next t ∧
    MovesOn (x.routedIn c x.s d c (c.admission ((x.t.sreg a).extractLsb' 0 16) ((x.t.sreg a).extractLsb' 16 16))) t x := by
  have run := exec_issues h (by rw [exec, execRtlookAdm])
  exact exec_movesOn run ((Iss.route_runs runs hc).trans (Iss.routed_eq ⟨rfl, rfl⟩))

end

/-- A count that RTSTAGE does not take. -/
abbrev noTable (n : ℕ) : Prop := n = 0 ∨ 4096 < n

section
variable {d a b : RegField} {s : State} {x : Iss} {c : Ctx} {l : ℕ} (h : issueOf (.rtstage d a b) s = some x)
  (runs : x.t.idle = false) (hc : x.s.ctxOf x.g = some c) (low : x.t.low? = some l)
include h runs hc low

theorem exec_rtstage : exec (.rtstage d a b) s = .next (conclude (.rtstage d a b) x
    (if (x.t.reg a l).toNat % 64 ≠ 0 ∧ (decide (noTable (x.t.sreg b).toNat) = true ∨ (x.t.reg a l).toNat < 2 ^ 52) then
      .trap trapAlign (BitVec.ofNat 64 (x.t.reg a l).toNat)
    else if decide (noTable (x.t.sreg b).toNat) = true then x.status x.s d 2
    else x.loadRun c x.s (x.t.reg a l).toNat (8 * (x.t.sreg b).toNat) fun u bs =>
      if 131072 < u.tablesOf c.part - (c.staged.map List.length).getD 0 + (x.t.sreg b).toNat then x.status u d 1
      else x.status (u.modCtx c.part c.ctxid fun p => { p with
        staged := some ((List.range (x.t.sreg b).toNat).map fun i => BitVec.ofNat 64 (fieldAt bs (8 * i) 8)) }) d 0)) := by
  have run := exec_issues h (by rw [exec, execRtstage])
  rw [run, Iss.route_runs runs hc, low]
  rfl

theorem exec_rtstage_misaligned (odd : (x.t.reg a l).toNat % 64 ≠ 0)
    (first : noTable (x.t.sreg b).toNat ∨ (x.t.reg a l).toNat < 2 ^ 52) :
    exec (.rtstage d a b) s = .next (Claim.trapped x trapAlign (BitVec.ofNat 64 (x.t.reg a l).toNat)) :=
  exec_traps (exec_rtstage h runs hc low) (if_pos ⟨odd, first.imp_left decide_eq_true⟩)

theorem exec_rtstage_empty (aligned : (x.t.reg a l).toNat % 64 = 0) (empty : noTable (x.t.sreg b).toNat) :
    ∃ t, exec (.rtstage d a b) s = .next t ∧ MovesOn (Claim.status x x.s d 2) t x :=
  exec_movesOn (exec_rtstage h runs hc low) ((if_neg fun ⟨odd, _⟩ => odd aligned).trans (if_pos (decide_eq_true empty)))

theorem exec_rtstage_stages (place : (x.t.reg a l).toNat % 64 = 0 ∨ 2 ^ 52 ≤ (x.t.reg a l).toNat)
    (table : ¬noTable (x.t.sreg b).toNat) :
    Claim.reads (.rtstage d a b) s x c x.s (x.t.reg a l).toNat (8 * (x.t.sreg b).toNat) fun u bs =>
      let used := u.tablesOf c.part - (c.staged.map List.length).getD 0
      (131072 < used + (x.t.sreg b).toNat → ∃ t, exec (.rtstage d a b) s = .next t ∧ MovesOn (Claim.status x u d 1) t x) ∧
      (used + (x.t.sreg b).toNat ≤ 131072 → ∃ t, exec (.rtstage d a b) s = .next t ∧
        MovesOn (Claim.status x (u.modCtx c.part c.ctxid fun p => { p with
          staged := some ((List.range (x.t.sreg b).toNat).map fun i => BitVec.ofNat 64 (fieldAt bs (8 * i) 8)) }) d 0) t x) := by
  have run := exec_rtstage h runs hc low
  have taken : ¬decide (noTable (x.t.sreg b).toNat) = true := by rwa [decide_eq_true_eq]
  have goes : ¬((x.t.reg a l).toNat % 64 ≠ 0 ∧
      (decide (noTable (x.t.sreg b).toNat) = true ∨ (x.t.reg a l).toNat < 2 ^ 52)) := by
    rintro ⟨odd, empty | below⟩
    · exact taken empty
    · exact place.elim odd (Nat.not_le.mpr below)
  rw [if_neg goes, if_neg taken] at run
  refine reads_of run fun u bs run => ⟨fun full => ?_, fun fits => ?_⟩
  · exact exec_movesOn run (if_pos full)
  · exact exec_movesOn run (if_neg (Nat.not_lt.mpr fits))

end

/-- A received record: it is processed where its version is the context's or its expert has a slot (R404). -/
theorem Ctx.admission_eq (c : Ctx) (e v : BitVec 16) : c.admission e v =
    if c.tabver = v ∨ (c.slotOf? e).isSome = true then 0 else if (c.tabver - v).toNat ≤ 32767 then 1 else 2 := by
  have current : (c.tabver - v).toNat = 0 ↔ c.tabver = v := by bv_omega
  simp only [Ctx.admission, current]

/-! ### No lane runs (R406) -/

theorem exec_route_idle {i : Instr} {s : State} {x : Iss} (h : issueOf i s = some x) (idle : x.t.idle = true)
    (named : (∃ d a, i = .slotget d a) ∨ (∃ d a k, i = .slotref d a k) ∨ (∃ d a, i = .slotrel d a) ∨ (∃ d a b, i = .rtstage d a b) ∨
      (∃ d a b, i = .rtlook d a b) ∨ (∃ d a, i = .rtlookAdm d a)) : ∃ t, exec i s = .next t ∧ MovesOn x.s t x := by
  rcases named with ⟨d, a, rfl⟩ | ⟨d, a, k, rfl⟩ | ⟨d, a, rfl⟩ | ⟨d, a, b, rfl⟩ | ⟨d, a, b, rfl⟩ | ⟨d, a, rfl⟩
  · exact exec_movesOn (exec_issues h (by rw [exec, execSlotget])) (Iss.route_idle idle)
  · refine exec_movesOn (exec_slotref h) ((if_neg fun ⟨_, runs⟩ => ?_).trans (Iss.route_idle idle))
    exact Bool.false_ne_true (runs.symm.trans idle)
  · exact exec_movesOn (exec_issues h (by rw [exec, execSlotrel])) (Iss.route_idle idle)
  · exact exec_movesOn (exec_issues h (by rw [exec, execRtstage])) (Iss.route_idle idle)
  · exact exec_movesOn (exec_issues h (by rw [exec, execRtlook])) (Iss.route_idle idle)
  · exact exec_movesOn (exec_issues h (by rw [exec, execRtlookAdm])) (Iss.route_idle idle)

/-- Settles O41: each word by the running lanes and the context, SLOTREF of a loaded slot once its team's stores are performed. -/
theorem routeWords : Obligations.RouteWords := by
  unfold Obligations.RouteWords
  refine ⟨fun i s x h idle named => exec_route_idle h idle named, fun s x c runs hc => ⟨fun d a h => ?_, fun d a h => ?_, fun d a k h other => ?_,
    fun d a b h => ?_, fun d a h => ?_, fun d a b l h low => ?_⟩, fun d a s x c h runs hc => ⟨?_, fun y hy => ?_⟩, Ctx.admission_eq⟩
  · exact ⟨exec_slotget_held h runs hc, exec_slotget_gives h runs hc⟩
  · exact exec_slotrel_releases h runs hc
  · exact ⟨exec_slotref_held h other runs hc, exec_slotref_gives h other runs hc⟩
  · exact exec_rtlook_finds runs hc h
  · exact exec_rtlookAdm_decides runs hc h
  · exact ⟨exec_rtstage_misaligned h runs hc low, exec_rtstage_empty h runs hc low, exec_rtstage_stages h runs hc low⟩
  · exact exec_slotref_unreleased h runs
  · exact exec_slotref_loads h runs hc hy

end Sys2Proof.Machine

/-!
SUPPORT. TREG, TDEREG and TMOVE on the key directory (R379 to R381, R393).
-/

namespace Sys2Proof.Machine

open Sys2Proof

/-! ### Directory words (R152, R383, R384, R393) -/

section
variable {x : Iss} {n : ℕ} {k : State → Core → Act}

theorem Iss.directory_idle (idle : x.t.idle = true) : x.directory n k = .ok x.s := if_pos idle

theorem Iss.noResponder_asks (asks : x.t.responder = none) (act : Act) : x.noResponder act = act := by
  rw [Iss.noResponder, asks]
  rfl

variable (runs : x.t.idle = false)
include runs

theorem conclude_directory_fails (i : Instr) {code : ℕ} {va : Option DWord} (fails : handleCheck x.g x.t n = some (code, va)) :
    conclude i x (x.directory n k) = Claim.checkTrap x code va := by
  rw [Iss.directory, if_neg (ne_true_of_eq_false runs), conclude_checkTrap i fails]

theorem Iss.directory_bound (bound : handleCheck x.g x.t n = none) {c : Core} (core : x.s.takeDue.core? x.g.core = some c) :
    x.directory n k = k x.s.takeDue c := by
  rw [Iss.directory, if_neg (ne_true_of_eq_false runs), Iss.checked_passed bound]
  dsimp only
  rw [core]

end

theorem Iss.header_of {x : Iss} {n h : ℕ} (bound : (handlesOf x.g x.t).getD n none = some h) : x.header n = h := by
  rw [Iss.header, bound]
  rfl

/-- A registered header's entry stands in its place. -/
theorem Core.key_of_keyOf {k : Core} {uid header n : ℕ} (own : k.keyOf uid header = some n) : ∃ e, k.key n = some e := by
  obtain ⟨bound, there, -⟩ := List.findIdx?_eq_some_iff_getElem.mp own
  obtain ⟨e, entry, -⟩ := Option.any_eq_true _ _ |>.mp there
  exact ⟨e, by rw [Core.key, List.getD_eq_getElem?_getD, List.getElem?_eq_getElem bound, entry]; rfl⟩

/-- A directory word on a handle. -/
def Directory (x : Iss) (t : RegField) (i : Instr) : Prop :=
  (∃ d a, i = .treg d a t) ∨ ((∃ d, i = .tdereg d t) ∧ x.t.responder = none) ∨ ((∃ d b, i = .tmove d b t) ∧ x.t.responder = none)

/-- Each of them makes its handle's checks first. -/
theorem exec_directory {i : Instr} {t : RegField} {s : State} {x : Iss} (named : Directory x t i) (h : issueOf i s = some x) :
    ∃ k, exec i s = .next (conclude i x (x.directory t.toNat k)) := by
  rcases named with ⟨d, a, rfl⟩ | ⟨⟨d, rfl⟩, asks⟩ | ⟨⟨d, b, rfl⟩, asks⟩
  · exact ⟨_, exec_issues h (by rw [exec, execTreg])⟩
  · exact ⟨_, (exec_issues h (by rw [exec, execTdereg])).trans (by rw [Iss.noResponder_asks asks])⟩
  · exact ⟨_, (exec_issues h (by rw [exec, execTmove])).trans (by rw [Iss.noResponder_asks asks])⟩

section
variable {i : Instr} {t : RegField} {s : State} {x : Iss} (h : issueOf i s = some x)
include h

theorem exec_directory_idle (named : Directory x t i) (idle : x.t.idle = true) : ∃ v, exec i s = .next v ∧ MovesOn x.s v x := by
  obtain ⟨k, run⟩ := exec_directory named h
  exact exec_movesOn run (Iss.directory_idle idle)

theorem exec_directory_fails (named : Directory x t i) (runs : x.t.idle = false) {code : ℕ} {va : Option DWord}
    (fails : handleCheck x.g x.t t.toNat = some (code, va)) : exec i s = .next (Claim.checkTrap x code va) := by
  obtain ⟨k, run⟩ := exec_directory named h
  rw [run, conclude_directory_fails runs i fails]

theorem exec_directory_responder (named : (∃ d, i = .tdereg d t) ∨ (∃ d b, i = .tmove d b t)) (responds : x.t.responder.isSome = true) :
    exec i s = .next (Claim.trapped x trapIllegal x.word) := by
  rcases named with ⟨d, rfl⟩ | ⟨d, b, rfl⟩
  · exact exec_traps (exec_issues h (by rw [exec, execTdereg])) (if_pos responds)
  · exact exec_traps (exec_issues h (by rw [exec, execTmove])) (if_pos responds)

end

/-! ### A handle that is bound -/

section
variable {s : State} {x : Iss} {t : RegField} {k : Core} {hd : ℕ} (runs : x.t.idle = false)
  (bound : handleCheck x.g x.t t.toNat = none) (header : (handlesOf x.g x.t).getD t.toNat none = some hd)
  (core : x.s.takeDue.core? x.g.core = some k)

section
variable {d a : RegField} (h : issueOf (.treg d a t) s = some x)
include runs bound header core h

theorem exec_treg_rekeys {n : ℕ} (own : k.keyOf x.g.uid hd = some n) : ∃ v, exec (.treg d a t) s = .next v ∧
    MovesOn (Claim.status x (x.s.takeDue.modCore x.g.core fun c =>
      { c with keys := modAt c.keys n fun o => o.map fun e => { e with key := x.t.sreg (a + 1) ++ x.t.sreg a } }) d 1) v x := by
  refine exec_movesOn (exec_issues h (by rw [exec, execTreg])) ?_
  rw [Iss.directory_bound runs bound core, Iss.header_of header]
  dsimp only
  rw [own]
  rfl

theorem exec_treg_registers (own : k.keyOf x.g.uid hd = none) {n : ℕ} {c : Ctx} (free : k.freeKey = some n)
    (hc : x.s.takeDue.ctxOf x.g = some c) : ∃ v, exec (.treg d a t) s = .next v ∧
      MovesOn (Claim.status x ({ x.s.takeDue with nextSeq := x.s.takeDue.nextSeq + 1 }.modCore x.g.core fun q =>
        { q with keys := q.keys.set n (some
          { key := x.t.sreg (a + 1) ++ x.t.sreg a, part := x.g.part, ctxid := x.g.ctxid, gen := c.gen, uid := x.g.uid, gid := x.g.gid,
            header := hd, held := [], id := x.s.takeDue.nextSeq }) }) d 0) v x := by
  refine exec_movesOn (exec_issues h (by rw [exec, execTreg])) ?_
  rw [Iss.directory_bound runs bound core, Iss.header_of header]
  dsimp only
  rw [own, free, hc]
  rfl

theorem exec_treg_full (own : k.keyOf x.g.uid hd = none) (full : k.freeKey = none) :
    ∃ v, exec (.treg d a t) s = .next v ∧ MovesOn (Claim.status x x.s.takeDue d 2) v x := by
  refine exec_movesOn (exec_issues h (by rw [exec, execTreg])) ?_
  rw [Iss.directory_bound runs bound core, Iss.header_of header]
  dsimp only
  rw [own, full]
  rfl

end

section
variable {d : RegField} (h : issueOf (.tdereg d t) s = some x) (asks : x.t.responder = none)
include runs bound header core h asks

theorem exec_tdereg : exec (.tdereg d t) s = .next (conclude (.tdereg d t) x
    (match k.keyOf x.g.uid hd with
      | none => x.status x.s.takeDue d 3
      | some n => if k.keyHeld n then .hold x.s.takeDue
        else x.status (x.s.takeDue.modCore x.g.core fun q => { q with keys := q.keys.set n none }) d 0)) := by
  rw [exec_issues h (by rw [exec, execTdereg]), Iss.noResponder_asks asks, Iss.directory_bound runs bound core, Iss.header_of header]
  rfl

theorem exec_tdereg_none (own : k.keyOf x.g.uid hd = none) :
    ∃ v, exec (.tdereg d t) s = .next v ∧ MovesOn (Claim.status x x.s.takeDue d 3) v x :=
  exec_movesOn (exec_tdereg runs bound header core h asks) (by rw [own]; rfl)

variable {n : ℕ} (own : k.keyOf x.g.uid hd = some n)
include own

theorem exec_tdereg_held (held : k.keyHeld n = true) : exec (.tdereg d t) s = .next (Claim.held x x.s.takeDue) := by
  rw [exec_tdereg runs bound header core h asks, own]
  dsimp only
  rw [if_pos held]
  rfl

theorem exec_tdereg_frees (free : k.keyHeld n = false) : ∃ v, exec (.tdereg d t) s = .next v ∧
    MovesOn (Claim.status x (x.s.takeDue.modCore x.g.core fun q => { q with keys := q.keys.set n none }) d 0) v x := by
  refine exec_movesOn (exec_tdereg runs bound header core h asks) ?_
  rw [own]
  exact if_neg (ne_true_of_eq_false free)

end

section
variable {d b : RegField} (h : issueOf (.tmove d b t) s = some x) (asks : x.t.responder = none)

/-- Where TMOVE moves its tile. -/
abbrev Iss.moveDest (x : Iss) (b : RegField) : Option Group := x.s.takeDue.moveTo x.g ((x.t.sreg b).extractLsb' 0 16).toNat

include runs bound header core h asks

theorem exec_tmove : exec (.tmove d b t) s = .next (conclude (.tmove d b t) x
    (match (k.keyOf x.g.uid hd).bind fun i => (k.key i).map fun e => (i, e.id) with
      | none => x.status x.s.takeDue d 3
      | some (i, id) =>
        match x.moveDest b with
        | none => x.status x.s.takeDue d 1
        | some g => if !g.holdsTile (x.g.hdr hd) then x.status x.s.takeDue d 4
          else if k.keyHeld i then .hold x.s.takeDue
          else .ok (x.s.takeDue.modTeam x.r fun w => { w with hold := .tmove d i g.uid id }))) := by
  rw [exec_issues h (by rw [exec, execTmove]), Iss.noResponder_asks asks, Iss.directory_bound runs bound core, Iss.header_of header]
  rfl

theorem exec_tmove_none (own : k.keyOf x.g.uid hd = none) :
    ∃ v, exec (.tmove d b t) s = .next v ∧ MovesOn (Claim.status x x.s.takeDue d 3) v x :=
  exec_movesOn (exec_tmove runs bound header core h asks) (by rw [own]; rfl)

section
variable {n : ℕ} {e : KeyEntry} (own : k.keyOf x.g.uid hd = some n) (entry : k.key n = some e)
include own entry

theorem exec_tmove_own : exec (.tmove d b t) s = .next (conclude (.tmove d b t) x
    (match x.moveDest b with
      | none => x.status x.s.takeDue d 1
      | some g => if !g.holdsTile (x.g.hdr hd) then x.status x.s.takeDue d 4
        else if k.keyHeld n then .hold x.s.takeDue
        else .ok (x.s.takeDue.modTeam x.r fun w => { w with hold := .tmove d n g.uid e.id }))) := by
  rw [exec_tmove runs bound header core h asks, own, Option.bind_some, entry]
  rfl

end

variable {n : ℕ} (own : k.keyOf x.g.uid hd = some n)
include own

theorem exec_tmove_nowhere (dest : x.moveDest b = none) :
    ∃ v, exec (.tmove d b t) s = .next v ∧ MovesOn (Claim.status x x.s.takeDue d 1) v x := by
  obtain ⟨e, entry⟩ := Core.key_of_keyOf own
  exact exec_movesOn (exec_tmove_own runs bound header core h asks own entry) (by rw [dest]; rfl)

variable {g : Group} (dest : x.moveDest b = some g)
include dest

theorem exec_tmove_misfit (fits : g.holdsTile (x.g.hdr hd) = false) :
    ∃ v, exec (.tmove d b t) s = .next v ∧ MovesOn (Claim.status x x.s.takeDue d 4) v x := by
  obtain ⟨e, entry⟩ := Core.key_of_keyOf own
  refine exec_movesOn (exec_tmove_own runs bound header core h asks own entry) ?_
  rw [dest]
  exact if_pos (by rw [fits]; rfl)

variable (fits : g.holdsTile (x.g.hdr hd) = true)
include fits

theorem exec_tmove_held (held : k.keyHeld n = true) : exec (.tmove d b t) s = .next (Claim.held x x.s.takeDue) := by
  obtain ⟨e, entry⟩ := Core.key_of_keyOf own
  rw [exec_tmove_own runs bound header core h asks own entry, dest]
  dsimp only
  rw [if_neg (by rw [fits]; decide), if_pos held]
  rfl

theorem exec_tmove_begins {e : KeyEntry} (entry : k.key n = some e) (free : k.keyHeld n = false) :
    ∃ v, exec (.tmove d b t) s = .next v ∧
      MovesOn (x.s.takeDue.modTeam x.r fun w => { w with hold := .tmove d n g.uid e.id }) v x := by
  refine exec_movesOn (exec_tmove_own runs bound header core h asks own entry) ?_
  rw [dest]
  exact (if_neg (by rw [fits]; decide)).trans (if_neg (ne_true_of_eq_false free))

end

end

/-- Settles O39: the handle's checks, then each word by the entry that its header has and what else stands in its way. -/
theorem keyDirectory : Obligations.KeyDirectory := by
  unfold Obligations.KeyDirectory
  refine ⟨fun i t s x h named => ⟨exec_directory_idle h named, fun runs code va => exec_directory_fails h named runs⟩,
    fun i t s x h => exec_directory_responder h, fun s x t k hd runs bound header core => ⟨fun d a h => ?_, fun d h asks => ?_, fun d b h asks => ?_⟩⟩
  · exact ⟨fun n => exec_treg_rekeys runs bound header core h, fun own n c => exec_treg_registers runs bound header core h own,
      exec_treg_full runs bound header core h⟩
  · exact ⟨exec_tdereg_none runs bound header core h asks, fun n => exec_tdereg_held runs bound header core h asks,
      fun n => exec_tdereg_frees runs bound header core h asks⟩
  · exact ⟨exec_tmove_none runs bound header core h asks, fun n => exec_tmove_nowhere runs bound header core h asks,
      fun n g own => exec_tmove_misfit runs bound header core h asks own, fun n g own => exec_tmove_held runs bound header core h asks own,
      fun n e g own entry dest fits => exec_tmove_begins runs bound header core h asks own dest fits entry⟩

end Sys2Proof.Machine

/-!
SUPPORT. The tile-vector unit (R331, R332, R342 to R351): its words as one operation, and WTAG.
-/

namespace Sys2Proof.Machine

open Sys2Proof

/-! ### One operation of the unit (R331, R332) -/

/-- The rows form of TVACT, TVNORM and TVSMAX (R349 to R351). -/
theorem Iss.tvRows_eq (x : Iss) (d a : RegField) (f : FRow → FRow × Flags) :
    x.tvRows d a f = x.tileOp (Claim.rowsForm x d a f).1 fun _ => (Claim.rowsForm x d a f).2 := by
  simp only [Iss.tvRows, Claim.rowsForm, List.map_map, Function.comp_def]
  rfl

/-- The same effect in other words. -/
theorem exec_as {i : Instr} {s : State} {x : Iss} {act same : Act} (run : exec i s = .next (conclude i x act)) (eq : act = same) :
    exec i s = .next (conclude i x same) := by rw [run, eq]

/-- A word that reads its scratchpad traps where its checks fail, as one that does not. -/
theorem conclude_viewed_fails (i : Instr) {x : Iss} {check : Check} {code : ℕ} {va : Option DWord} (fails : check = some (code, va))
    (k : Act) : conclude i x ((Claim.viewed x).checked check k) = Claim.checkTrap x code va := by
  rw [fails]
  cases va <;> rfl

section
variable {i : Instr} {p : TileUse × (Group × Flags)} {s : State} {x : Iss} (h : issueOf i s = some x)
  (form : Claim.tileForm (Claim.viewed x) i = some p)
include h form

/-- A word of the unit reads, checks and writes what is stated of it. -/
theorem exec_tile : exec i s = .next (conclude i x ((Claim.viewed x).tileOp p.1 fun _ => p.2)) := by
  unfold Claim.tileForm at form
  split at form <;> cases form
  · exact exec_issues h (by rw [exec, execWstore, issueTile])
  · exact exec_issues h (by rw [exec, execWrec, issueTile])
  · exact exec_issues h (by rw [exec, execWth, issueTile])
  · exact exec_issues h (by rw [exec, execTvadd, issueTile])
  · exact exec_issues h (by rw [exec, execTvsub, issueTile])
  · exact exec_issues h (by rw [exec, execTvmulc, issueTile])
  · exact exec_issues h (by rw [exec, execTvaxpy, issueTile])
  · exact exec_issues h (by rw [exec, execTvbias, issueTile])
  · exact exec_issues h (by rw [exec, execTvcvt, issueTile])
  · exact exec_as (exec_issues h (by rw [exec, execTvact, issueTile])) (Iss.tvRows_eq ..)
  · exact exec_as (exec_issues h (by rw [exec, execTvnorm, issueTile])) (Iss.tvRows_eq ..)
  · exact exec_as (exec_issues h (by rw [exec, execTvnormRms, issueTile])) (Iss.tvRows_eq ..)
  · exact exec_as (exec_issues h (by rw [exec, execTvsmax, issueTile])) (Iss.tvRows_eq ..)

theorem exec_tile_idle (idle : x.t.idle = true) : ∃ t, exec i s = .next t ∧ MovesOn x.s t x :=
  exec_movesOn (exec_tile h form) (if_pos idle)

variable (runs : x.t.idle = false)
include runs

theorem exec_tile_runs : exec i s = .next (conclude i x ((Claim.viewed x).checked (tileChecks (Claim.viewed x) p.1)
    (.ok ((x.s.modGroup x.r.uid fun g => (g.adopt p.2.1).madeBy x.r g.vers).modTeam x.r fun v =>
      ({ v with padSeen := (Claim.viewed x).t.padSeen }).orFlags p.2.2)))) :=
  exec_as (exec_tile h form) (if_neg (ne_true_of_eq_false runs))

theorem exec_tile_fails {code : ℕ} {va : Option DWord} (fails : tileChecks (Claim.viewed x) p.1 = some (code, va)) :
    exec i s = .next (Claim.checkTrap x code va) := by
  rw [exec_tile_runs h form runs, conclude_viewed_fails i fails]

theorem exec_tile_writes (passed : tileChecks (Claim.viewed x) p.1 = none) : ∃ t, exec i s = .next t ∧
    MovesOn ((x.s.modGroup x.r.uid fun g => (g.adopt p.2.1).madeBy x.r g.vers).modTeam x.r fun v =>
      ({ v with padSeen := (Claim.viewed x).t.padSeen }).orFlags p.2.2) t x :=
  exec_movesOn (exec_tile_runs h form runs) (Iss.checked_passed passed _)

end

/-! ### WTAG (R345) -/

/-- The first of several checks. -/
theorem firstFail_eq_none {c : Check} {cs : List Check} (passed : firstFail (c :: cs) = none) : c = none := by
  cases c with
  | none => rfl
  | some _ => exact absurd passed (by simp [firstFail])

/-- The header that WTAG names and its checks, as its team sees the scratchpad. -/
abbrev Iss.tagHdr (x : Iss) (a : RegField) : Hdr := hdrAt (Claim.viewed x).g (Claim.viewed x).t a.toNat
abbrev Iss.tagChecks (x : Iss) (a : RegField) : Check := wtagChecks (Claim.viewed x) a.toNat (x.tagHdr a)

/-- The state once WTAG has its status. -/
abbrev Iss.tagStatus (x : Iss) (d : RegField) (n : ℕ) : State :=
  x.s.modTeam x.r fun v => ({ v with padSeen := (Claim.viewed x).t.padSeen }).putS d (BitVec.ofNat 32 n)

section
variable {d a : RegField} {s : State} {x : Iss} (h : issueOf (.wtag d a) s = some x)
include h

theorem exec_wtag : exec (.wtag d a) s = .next (conclude (.wtag d a) x
    (let y := Claim.viewed x
      let dom := if (handleCheck y.g y.t a.toNat).isSome then 0 else (x.tagHdr a).dom
      if y.t.idle && (x.tagChecks a).isSome then y.okTeam (y.t.putS d (wtagStatus none dom))
      else y.checked (x.tagChecks a) <|
        let q := wtagOf y.g (x.tagHdr a)
        let u := x.s.modTeam x.r fun v => ({ v with padSeen := y.t.padSeen } : Team).putS d (wtagStatus (q.map (·.2)) dom)
        match q with
        | some (surv, _) =>
          .ok (if y.t.idle || !(x.tagHdr a).isHaar then u
            else u.modGroup x.r.uid fun g => g.storePad (g.putTag (x.tagHdr a) (x.tagHdr a).dom surv (bitOf (x.tagHdr a).cbf 3)) x.r)
        | none => .ok u)) := exec_issues h (by rw [exec, execWtag, issueTile])

/-- With no running lane a check that fails is a status. -/
theorem exec_wtag_unchecked (idle : x.t.idle = true) (bad : x.tagChecks a ≠ none) : ∃ t, exec (.wtag d a) s = .next t ∧
    TeamStep s t x ((Claim.viewed x).t.putS d (BitVec.ofNat 32 (16 +
      if (handleCheck (Claim.viewed x).g (Claim.viewed x).t a.toNat).isSome then 0 else (x.tagHdr a).dom))) := by
  refine exec_steps (exec_wtag h) h (if_pos ?_) rfl
  rw [Bool.and_eq_true]
  exact ⟨idle, Option.isSome_iff_ne_none.mpr bad⟩

theorem exec_wtag_fails (runs : x.t.idle = false) {code : ℕ} {va : Option DWord} (fails : x.tagChecks a = some (code, va)) :
    exec (.wtag d a) s = .next (Claim.checkTrap x code va) := by
  rw [exec_wtag h]
  dsimp only
  rw [if_neg (by rw [show (Claim.viewed x).t.idle = false from runs]; exact Bool.false_ne_true), conclude_viewed_fails _ fails]

variable (passed : x.tagChecks a = none)
include passed

theorem exec_wtag_passes : exec (.wtag d a) s = .next (conclude (.wtag d a) x
    (match wtagOf (Claim.viewed x).g (x.tagHdr a) with
      | some (surv, n) =>
        .ok (if x.t.idle || !(x.tagHdr a).isHaar then x.tagStatus d (n * 65536 + (x.tagHdr a).dom)
          else (x.tagStatus d (n * 65536 + (x.tagHdr a).dom)).modGroup x.r.uid fun g =>
            g.storePad (g.putTag (x.tagHdr a) (x.tagHdr a).dom surv (bitOf (x.tagHdr a).cbf 3)) x.r)
      | none => .ok (x.tagStatus d (16 + (x.tagHdr a).dom)))) := by
  have bound : handleCheck (Claim.viewed x).g (Claim.viewed x).t a.toNat = none := firstFail_eq_none passed
  rw [exec_wtag h]
  dsimp only
  rw [passed, bound, Iss.checked_passed rfl]
  rw [Option.isSome_none, Bool.and_false, if_neg Bool.false_ne_true]
  cases wtagOf (Claim.viewed x).g (x.tagHdr a) <;> rfl

theorem exec_wtag_bad (bad : wtagOf (Claim.viewed x).g (x.tagHdr a) = none) :
    ∃ t, exec (.wtag d a) s = .next t ∧ MovesOn (x.tagStatus d (16 + (x.tagHdr a).dom)) t x :=
  exec_movesOn (exec_wtag_passes h passed) (by rw [bad])

variable {surv : List ℕ} {n : ℕ} (tagged : wtagOf (Claim.viewed x).g (x.tagHdr a) = some (surv, n))
include tagged

theorem exec_wtag_reports (only : x.t.idle = true ∨ (x.tagHdr a).isHaar = false) :
    ∃ t, exec (.wtag d a) s = .next t ∧ MovesOn (x.tagStatus d (n * 65536 + (x.tagHdr a).dom)) t x := by
  refine exec_movesOn (exec_wtag_passes h passed) ?_
  rw [tagged]
  exact congrArg Act.ok (if_pos (by simpa using only))

theorem exec_wtag_tags (runs : x.t.idle = false) (haar : (x.tagHdr a).isHaar = true) : ∃ t, exec (.wtag d a) s = .next t ∧
    MovesOn ((x.tagStatus d (n * 65536 + (x.tagHdr a).dom)).modGroup x.r.uid fun g =>
      g.storePad (g.putTag (x.tagHdr a) (x.tagHdr a).dom surv (bitOf (x.tagHdr a).cbf 3)) x.r) t x := by
  refine exec_movesOn (exec_wtag_passes h passed) ?_
  rw [tagged]
  exact congrArg Act.ok (if_neg (by rw [runs, haar]; decide))

end

/-- Settles O38: a word of the unit by its running lanes and its checks, WTAG by the tile that it judges. -/
theorem tileVectors : Obligations.TileVectors := by
  unfold Obligations.TileVectors
  exact ⟨fun i u q s x h form => ⟨exec_tile_idle h form, fun runs code va => exec_tile_fails h form runs, exec_tile_writes h form⟩,
    fun d a s x h => ⟨exec_wtag_bad h, fun passed surv n tagged => ⟨exec_wtag_reports h passed tagged, exec_wtag_tags h passed tagged⟩,
      fun runs code va => exec_wtag_fails h runs, exec_wtag_unchecked h⟩⟩

end Sys2Proof.Machine

/-!
SUPPORT. A counterexample to the statement on engines (R363, R364): a LOCAL DRAIN whose residual header stands in the data that it writes.
-/

namespace Sys2Proof.Machine

open Sys2Proof

/-- A DRAIN of one FP32 element to the tile at offset 0; its residual tile's header is at offset 512, where that tile's data begin. -/
def drainCard : Card :=
  { task := 0, age := 0, owner := 0
    bytes := [3, 0, 0, 0, 0, 1, 0, 0, 1, 0, 1, 0] ++ List.replicate 20 0 ++ leBytes 4 512 ++ leBytes 4 (2 ^ 31 + 64) ++ List.replicate 24 0
    handleA := some 0, handleB := some 512, dropseed := 0, dropp := 0, dropscl := 0, state := .queued, served := 0, status := 0 }

/-- A group with that card and its tile of one element, SCALE 1.0. -/
def drainGroup : Group :=
  { groupReset 0 0 0 0 0 0 1 0 [] with
    state := .running, padSize := 65536, cards := [drainCard]
    pad := memWriteN [] 0 (leBytes 4 512 ++ leBytes 2 1 ++ leBytes 2 1 ++ leBytes 4 32 ++ leBytes 4 0x3F800000 ++ leBytes 4 0 ++ [1]) }

/-- Its context, which runs. -/
def drainCtx : Ctx := { ctxReset 0 0 1 1 0 with state := .running }

/-- A machine of that group alone, with 1.0 in the bank that the card drains. -/
def drainState : State :=
  { State.reset with
    groups := [drainGroup], ctxs := [drainCtx]
    cores := [{ coreReset with
      engines := [{ engineReset with boundTo := some (0, 0), bank0 := { bankReset with vals := [[0x3F800000#32]] } }] }] }

/-- The residual header that the group's card holds. -/
def residualIn (t : State) : Option (List Byte) := ((t.group? 0).bind fun g => g.card? 0).map fun c => c.hdrB

/-- What a step leads to, where it goes on. -/
def nextOf : Host.Outcome State Fault Refusal → Option State
  | .next t => some t
  | _ => none

theorem drainState_starts : drainState.mayStart drainGroup drainCard = true ∧ drainState.cardTurn drainGroup drainCard = true := by
  decide +kernel

/-- The card reads its residual header before it writes: all zeros. -/
theorem drainState_residual : (nextOf (exec (.cardStart 0 0) drainState)).bind residualIn = some (List.replicate 32 0) := by decide +kernel

/-- Refutes O51: CARD_START keeps the residual tile's header as it stood before the card's own writes, the statement takes it from the group
as the card has left it, and they differ where a LOCAL DRAIN writes there. -/
theorem not_engineEvents : ¬ Obligations.EngineEvents := by
  unfold Obligations.EngineEvents
  rintro ⟨-, -, -, -, cards, -, -⟩
  obtain ⟨-, -, -, starts, -⟩ := cards drainState drainGroup drainCard drainCtx 0 rfl rfl rfl
  obtain ⟨may, turn⟩ := drainState_starts
  have stated := congrArg (fun o => (nextOf o).bind residualIn) (starts may turn)
  exact absurd (drainState_residual.symm.trans stated) (by decide +kernel)

end Sys2Proof.Machine
